-- ==== Sys2Proof/Word.lean ====
section
/-! DEFINITION. The words of the machine: 8-, 32- and 64-bit words and 64-bit thread masks (00 R7, R9). -/

namespace Sys2Proof

/-- A byte of memory (00 R7). -/
abbrev Byte := BitVec 8
/-- A 32-bit vector register word of one thread (00 R9). -/
abbrev W32 := BitVec 32
/-- A 64-bit uniform register, an instruction word or a record word. -/
abbrev W64 := BitVec 64
/-- A mask with one bit per thread (00 R9: P[p][t] is bit t of predicate p). -/
abbrev TMask := BitVec 64

end Sys2Proof
end

