-- ==== Sys2Proof/Config.lean ====
section
/-! DEFINITION. What the spec leaves open and one machine fixes (the free values): constants without a body, so that
nothing can be proved of the values they give. -/

namespace Sys2Proof.Config

/-- A value that the spec leaves open, selected by a counter that the machine reads and advances (assumption 3). -/
opaque freeValue : Nat → W64

/-- Whether a register line or a scratch byte that no liveness entry named reads as last stored, or as zero: selected by
the same counter (05 R100, assumption 3). -/
opaque freeChoice : Nat → Bool

/-- The public key of an index: modulus and exponent. The root has the digests of the four in its fuses, the keys are not in the spec
(19 R425, assumption 7). -/
opaque publicKey : (key : Nat) → Nat × Nat

/-- The attestation signature over the SHA-512 digest of a report: the device key is not in the spec (19 R429, assumption 7). -/
opaque attestSignature : (digest : List Byte) → List Byte

/-- The image of the root flash stage and the contents of the fuses, which the device is made with (19 R425, R427,
assumption 7). -/
opaque rootImage : List Byte
@[inherit_doc rootImage] opaque fuses : List Byte

/-- What the two slots of the stable flash hold when the device is made (19 R426, assumption 7). -/
opaque flashImage : (slot : Nat) → Option (List Byte)

/-- Whether the matrix engine makes an error in a run of a checked pass: any mismatch is an error of the engine (10 R262),
selected by the counter of freeValue (assumption 3). -/
opaque engineError : Nat → Bool

/-- The power, in watts, that the root estimates for a cluster in a pool, from its ratios of the last interval (18 R415,
assumption 8). -/
opaque powerEstimate : (cluster pool : Nat) → (ratios : List Nat) → Nat

/-- Whether a die would stay below its thermal limit with its clusters in these pools, selected by the counter of freeValue
(18 R415, assumption 8). -/
opaque coolEnough : (die freeCtr : Nat) → (pools : List Nat) → Bool

/-- The calibration offset of a cluster in a pool, in mV above −100 (18 R409, assumption 6). -/
opaque calibration : (cluster pool : Nat) → Fin 151

/-- Which of 32, 24, 16, 12, 8 and 4 the power manager sets a cluster's grant limit to at a policy step, selected by the
counter of freeValue (18 R418, assumption 8). -/
opaque ration : (cluster freeCtr : Nat) → Fin 6

end Sys2Proof.Config
end

