-- ==== Sys2Proof/Syntax.lean ====
section
/-! DEFINITION. The steps of the machine as syntax. Every row of the table is one constructor of Instr: the
instructions of the Optal set with the fields of their format (03 R63, R68), then the steps of the other agents
with the object they act on. An instruction's fields are kept as the word holds them; WellFormed judges them. -/

namespace Sys2Proof

/-- The type field T (02 R27). -/
inductive Ty where
  | u8 | s8 | u16 | s16 | u32 | s32 | u64 | s64 | f16 | bf16 | f32 | f64 | sh8 | sh5 | sh3 | s4
  deriving DecidableEq, Repr

/-- The rounding field (02 R33). -/
inductive Rnd where
  | rne | rtz | rup | rdn
  deriving DecidableEq, Repr

/-- The common fields of every instruction word after its opcode (03 R63). -/
structure Hd where
  la   : BitVec 4
  u    : Bool
  pred : BitVec 3
  pn   : Bool
  deriving DecidableEq, Repr

/-- Format V (03 R68). -/
structure VF where
  d   : BitVec 11
  a   : BitVec 11
  b   : BitVec 11
  ka  : Bool
  kb  : Bool
  t   : Ty
  rnd : Rnd
  sat : Bool
  sub : BitVec 4
  deriving DecidableEq, Repr

/-- Format I (03 R68). -/
structure IF where
  d   : BitVec 11
  a   : BitVec 11
  imm : BitVec 24
  deriving DecidableEq, Repr

/-- Format W (03 R68); its reserved bits are zero. -/
structure WF where
  d   : BitVec 11
  imm : BitVec 32
  deriving DecidableEq, Repr

/-- Format M (03 R68, R69). -/
structure MF where
  data : BitVec 11
  areg : BitVec 4
  x    : BitVec 11
  mreg : BitVec 4
  inc  : BitVec 2
  sz   : BitVec 3
  hint : BitVec 3
  off8 : BitVec 8
  deriving DecidableEq, Repr

/-- Format C (03 R68). -/
structure CF where
  tag    : BitVec 6
  sdesc  : BitVec 6
  asrc   : BitVec 4
  adst   : BitVec 4
  depctr : BitVec 12
  flags  : BitVec 14
  deriving DecidableEq, Repr

/-- Format S-r (03 R68); its reserved bits are zero. -/
structure RF where
  d   : BitVec 11
  a   : BitVec 11
  b   : BitVec 11
  t   : Ty
  mod : BitVec 7
  deriving DecidableEq, Repr

/-- Format S-i (03 R68). -/
structure SF where
  d   : BitVec 11
  a   : BitVec 11
  imm : BitVec 24
  deriving DecidableEq, Repr

/-- Format X (03 R68). -/
structure XF where
  z     : BitVec 5
  sa    : BitVec 2
  sb    : BitVec 2
  t     : Ty
  shape : BitVec 9
  xf    : BitVec 24
  deriving DecidableEq, Repr

/-- Format B (03 R68). -/
structure BF where
  joff : BitVec 18
  off  : BitVec 28
  deriving DecidableEq, Repr

/-- What the world outside contributes to one attempt of the start sequence (19 R427): whether the self-test, the
memory training, the mesh training and the start of the stable pass; and the step that it reaches and does not leave, 1 to 6, or 0 where
it stands at none. -/
structure StartOutcome where
  selfTest : Bool
  hbm      : Bool
  mesh     : Bool
  stable   : Bool
  stop     : Nat
  deriving DecidableEq, Repr

/-- A team of a linked device as its requests name it: its identity and its context there, the id of its launch, its index, and the
barrier records, each by its device and its place there, at which it has arrived in the current generation or the one before (13 R332). -/
structure PeerTeam where
  team  : Nat
  ctx   : Nat
  lid   : W64
  index : Nat
  recs  : List (Nat × Nat)
  deriving DecidableEq, Repr

/-- What a request takes with it of the leaf that translated it: whether the page is host-coherent (15 R363), and the SMODE and PIN by
which the device that it names chooses the home slice (15 R362). -/
structure PageAttr where
  hc    : Bool
  smode : Nat
  pin   : Nat
  deriving DecidableEq, Repr

/-- What a flit received from a linked device carries (17 R401, R402). -/
inductive Payload where
  /-- nothing that acts on this device -/
  | idle
  /-- the returned value of a remote read or atomic of this device -/
  | reply (req : Nat) (data : List Byte)
  /-- the same with data of which some sectors, by their bits from the first one on, are poisoned there (08 R193) -/
  | poisoned (req : Nat) (data : List Byte) (secs : Nat)
  /-- the refusal of a reduction, a contribution or a gradient update of this device by its remote home, with its cause (09 R245) -/
  | failed (req : Nat) (cause : Nat)
  /-- the acknowledgement of a remote store or reduction of this device -/
  | ack (req : Nat)
  /-- a read of this device's memory -/
  | read (pa : Nat) (len : Nat)
  /-- a store to this device's memory -/
  | write (pa : Nat) (data : List Byte) (page : PageAttr)
  /-- an atomic on this device's memory: operation, size in bytes, operand (09 R214) -/
  | atomic (pa : Nat) (aop : Nat) (size : Nat) (v : W64) (page : PageAttr)
  /-- a floating-point atomic: operation, rounding mode, size, operand (09 R215) -/
  | atomicF (pa : Nat) (fop : Nat) (rnd : Rnd) (size : Nat) (v : W64) (page : PageAttr)
  /-- a compare and swap: size, comparand, operand (09 R216) -/
  | cas (pa : Nat) (size : Nat) (cmp v : W64) (page : PageAttr)
  /-- a contribution to an ordered reduction: operation, rounding mode, index, value (09 R217) -/
  | ored (pa : Nat) (op : Nat) (rnd : Rnd) (idx : Nat) (v : W64) (page : PageAttr)
  /-- the product of two f32 words added to a gradient element (11 R292) -/
  | fma (pa : Nat) (g x : W32) (page : PageAttr)
  /-- the combined arrivals of a linked device at a barrier record: each member and its team (13 R325, R327) -/
  | gbar (rec : Nat) (members : List (Nat × PeerTeam))
  /-- the release of a generation of a barrier record of the linked device (13 R325, R326) -/
  | gbarRelease (pa : Nat) (gen : Nat)
  /-- the refusal of arrivals at a barrier record of the linked device, with its subcause: of a team's, or where the record has
  become ABANDONED, of all (13 R322, R324) -/
  | gbarRefuse (pa : Nat) (sub : Nat) (team : Option Nat)
  /-- a context of the linked device that has members or waiters at a barrier record homed here is torn down (13 R322) -/
  | gbarGone (rec : Nat)
  /-- the mark of a queue for a member whose team runs here, by a barrier record of the linked device (13 R330): the device's
  identity of it, the queue, the member's team, the record and its neighbourhood -/
  | mark (req : Nat) (queue : W64) (who : PeerTeam) (rec nbhd : Nat)
  /-- the marks of a barrier record of the linked device lifted: of one queue, or of all (13 R322, R330) -/
  | unmark (rec : Nat) (queue : Option (Nat × W64))
  /-- a mark passed on by the linked device, where the member's team runs, for a queue homed here (13 R330): its identity of it, the
  descriptor's place, the team, the record with its neighbourhood, and the device where the record is homed -/
  | markAt (req pa : Nat) (who : PeerTeam) (rec nbhd home : Nat)
  /-- the lifting of such marks, of one queue or of all, of a record of a device -/
  | unmarkAt (queue : Option Nat) (rec home : Nat)
  /-- a queue operation on a queue homed here (12 R302): the linked device's identity of it, the descriptor, the operation (0
  push, 1 close, 2 pop, 3 pop without a wait, 4 status, 5 glean, 6 done, 7 a task's push), the entry pushed or the sequence
  number, and the team that asks -/
  | queue (req : Nat) (pa : Nat) (op : Nat) (data : List Byte) (who : PeerTeam)
  /-- the stores that a push of the linked device was stamped with have been performed (12 R303) -/
  | performed (req : Nat)
  deriving DecidableEq, Repr

/-- The steps of the machine: one constructor for each row of the table. -/
inductive Instr where
  /-- IADD (opcode 0x000, R147) -/
  | iadd (h : Hd) (f : VF)
  /-- ISUB (opcode 0x001, R147) -/
  | isub (h : Hd) (f : VF)
  /-- IADDC (opcode 0x002, R148) -/
  | iaddc (h : Hd) (f : VF)
  /-- ISUBB (opcode 0x003, R148) -/
  | isubb (h : Hd) (f : VF)
  /-- IMUL (opcode 0x004, R147) -/
  | imul (h : Hd) (f : VF)
  /-- IMULH (opcode 0x005, R147) -/
  | imulh (h : Hd) (f : VF)
  /-- IMAD (opcode 0x006, R147) -/
  | imad (h : Hd) (f : VF)
  /-- IMADW (opcode 0x007, R147) -/
  | imadw (h : Hd) (f : VF)
  /-- IDIV (opcode 0x008, R149) -/
  | idiv (h : Hd) (f : VF)
  /-- IREM (opcode 0x009, R149) -/
  | irem (h : Hd) (f : VF)
  /-- INEG (opcode 0x00A, R147) -/
  | ineg (h : Hd) (f : VF)
  /-- IABS (opcode 0x00B, R147) -/
  | iabs (h : Hd) (f : VF)
  /-- IMIN (opcode 0x00C, R147) -/
  | imin (h : Hd) (f : VF)
  /-- IMAX (opcode 0x00D, R147) -/
  | imax (h : Hd) (f : VF)
  /-- ICLAMP (opcode 0x00E, R147) -/
  | iclamp (h : Hd) (f : VF)
  /-- ISAD (opcode 0x00F, R147) -/
  | isad (h : Hd) (f : VF)
  /-- AND (opcode 0x010, R147) -/
  | iand (h : Hd) (f : VF)
  /-- OR (opcode 0x011, R147) -/
  | ior (h : Hd) (f : VF)
  /-- XOR (opcode 0x012, R147) -/
  | ixor (h : Hd) (f : VF)
  /-- ANDN (opcode 0x013, R147) -/
  | andn (h : Hd) (f : VF)
  /-- NOT (opcode 0x014, R147) -/
  | inot (h : Hd) (f : VF)
  /-- SHL (opcode 0x015, R147) -/
  | shl (h : Hd) (f : VF)
  /-- SHR (opcode 0x016, R147) -/
  | shr (h : Hd) (f : VF)
  /-- SAR (opcode 0x017, R147) -/
  | sar (h : Hd) (f : VF)
  /-- ROT (opcode 0x018, R147) -/
  | rot (h : Hd) (f : VF)
  /-- SHLD (opcode 0x019, R147) -/
  | shld (h : Hd) (f : VF)
  /-- BFX (opcode 0x01A, R150) -/
  | bfx (h : Hd) (f : VF)
  /-- BFI (opcode 0x01B, R150) -/
  | bfi (h : Hd) (f : VF)
  /-- POPC (opcode 0x01C, R147) -/
  | popc (h : Hd) (f : VF)
  /-- CLZ (opcode 0x01D, R147) -/
  | clz (h : Hd) (f : VF)
  /-- CTZ (opcode 0x01E, R147) -/
  | ctz (h : Hd) (f : VF)
  /-- BREV (opcode 0x01F, R147) -/
  | brev (h : Hd) (f : VF)
  /-- PERMB (opcode 0x020, R151) -/
  | permb (h : Hd) (f : VF)
  /-- SEL (opcode 0x021, R147) -/
  | sel (h : Hd) (f : VF)
  /-- MOV (opcode 0x022, R147) -/
  | mov (h : Hd) (f : VF)
  /-- ICMP (opcode 0x023, R152) -/
  | icmp (h : Hd) (f : VF)
  /-- IADDS (opcode 0x024, R147) -/
  | iadds (h : Hd) (f : VF)
  /-- IADDI (opcode 0x028, R153) -/
  | iaddi (h : Hd) (f : IF)
  /-- ANDI (opcode 0x029, R153) -/
  | andi (h : Hd) (f : IF)
  /-- ORI (opcode 0x02A, R153) -/
  | ori (h : Hd) (f : IF)
  /-- XORI (opcode 0x02B, R153) -/
  | xori (h : Hd) (f : IF)
  /-- SHLI (opcode 0x02C, R153) -/
  | shli (h : Hd) (f : IF)
  /-- SHRI (opcode 0x02D, R153) -/
  | shri (h : Hd) (f : IF)
  /-- SARI (opcode 0x02E, R153) -/
  | sari (h : Hd) (f : IF)
  /-- ICMPI (opcode 0x02F, R153) -/
  | icmpi (h : Hd) (f : IF)
  /-- MOVI (opcode 0x030, R154) -/
  | movi (h : Hd) (f : WF)
  /-- MOVHI (opcode 0x031, R154) -/
  | movhi (h : Hd) (f : WF)
  /-- FADD (opcode 0x040, R155) -/
  | fadd (h : Hd) (f : VF)
  /-- FSUB (opcode 0x041, R155) -/
  | fsub (h : Hd) (f : VF)
  /-- FMUL (opcode 0x042, R155) -/
  | fmul (h : Hd) (f : VF)
  /-- FFMA (opcode 0x043, R155) -/
  | ffma (h : Hd) (f : VF)
  /-- FFMS (opcode 0x044, R155) -/
  | ffms (h : Hd) (f : VF)
  /-- FMIN (opcode 0x045, R155) -/
  | fmin (h : Hd) (f : VF)
  /-- FMAX (opcode 0x046, R155) -/
  | fmax (h : Hd) (f : VF)
  /-- FMINN (opcode 0x047, R155) -/
  | fminn (h : Hd) (f : VF)
  /-- FMAXN (opcode 0x048, R155) -/
  | fmaxn (h : Hd) (f : VF)
  /-- FABS (opcode 0x049, R155) -/
  | fabs (h : Hd) (f : VF)
  /-- FNEG (opcode 0x04A, R155) -/
  | fneg (h : Hd) (f : VF)
  /-- FCPYS (opcode 0x04B, R155) -/
  | fcpys (h : Hd) (f : VF)
  /-- FCMP (opcode 0x04C, R156) -/
  | fcmp (h : Hd) (f : VF)
  /-- FCLASS (opcode 0x04D, R156) -/
  | fclass (h : Hd) (f : VF)
  /-- FDIV (opcode 0x04E, R155) -/
  | fdiv (h : Hd) (f : VF)
  /-- FSQRT (opcode 0x04F, R155) -/
  | fsqrt (h : Hd) (f : VF)
  /-- FRCP (opcode 0x050, R42) -/
  | frcp (h : Hd) (f : VF)
  /-- FRSQ (opcode 0x051, R42) -/
  | frsq (h : Hd) (f : VF)
  /-- FEXP2 (opcode 0x052, R42) -/
  | fexp2 (h : Hd) (f : VF)
  /-- FLOG2 (opcode 0x053, R42) -/
  | flog2 (h : Hd) (f : VF)
  /-- FSIN (opcode 0x054, R42) -/
  | fsin (h : Hd) (f : VF)
  /-- FCOS (opcode 0x055, R42) -/
  | fcos (h : Hd) (f : VF)
  /-- FTANH (opcode 0x056, R42) -/
  | ftanh (h : Hd) (f : VF)
  /-- FRND (opcode 0x057, R157) -/
  | frnd (h : Hd) (f : VF)
  /-- FFRC (opcode 0x058, R157) -/
  | ffrc (h : Hd) (f : VF)
  /-- FSCL (opcode 0x059, R157) -/
  | fscl (h : Hd) (f : VF)
  /-- FEXPN (opcode 0x05A, R157) -/
  | fexpn (h : Hd) (f : VF)
  /-- HADD2 (opcode 0x060, R158) -/
  | hadd2 (h : Hd) (f : VF)
  /-- HMUL2 (opcode 0x061, R158) -/
  | hmul2 (h : Hd) (f : VF)
  /-- HFMA2 (opcode 0x062, R158) -/
  | hfma2 (h : Hd) (f : VF)
  /-- HMIN2 (opcode 0x063, R158) -/
  | hmin2 (h : Hd) (f : VF)
  /-- HMAX2 (opcode 0x064, R158) -/
  | hmax2 (h : Hd) (f : VF)
  /-- DOT2H (opcode 0x065, R158) -/
  | dot2h (h : Hd) (f : VF)
  /-- DOT4 (opcode 0x066, R159) -/
  | dot4 (h : Hd) (f : VF)
  /-- DOT8 (opcode 0x067, R159) -/
  | dot8 (h : Hd) (f : VF)
  /-- CVTFF (opcode 0x080, R160) -/
  | cvtff (h : Hd) (f : VF)
  /-- CVTFI (opcode 0x081, R160) -/
  | cvtfi (h : Hd) (f : VF)
  /-- CVTIF (opcode 0x082, R160) -/
  | cvtif (h : Hd) (f : VF)
  /-- CVTII (opcode 0x083, R495) -/
  | cvtii (h : Hd) (f : VF)
  /-- PK2 (opcode 0x084, R160) -/
  | pk2 (h : Hd) (f : VF)
  /-- UNPK2 (opcode 0x085, R160) -/
  | unpk2 (h : Hd) (f : VF)
  /-- PK4I (opcode 0x086, R160) -/
  | pk4i (h : Hd) (f : VF)
  /-- UNPK4I (opcode 0x087, R160) -/
  | unpk4i (h : Hd) (f : VF)
  /-- SHPACK (opcode 0x088, R161) -/
  | shpack (h : Hd) (f : VF)
  /-- SHUNPK (opcode 0x089, R161) -/
  | shunpk (h : Hd) (f : VF)
  /-- SHFL (opcode 0x0A0, R163) -/
  | shfl (h : Hd) (f : VF)
  /-- SHFLUP (opcode 0x0A1, R163) -/
  | shflup (h : Hd) (f : VF)
  /-- SHFLDN (opcode 0x0A2, R163) -/
  | shfldn (h : Hd) (f : VF)
  /-- SHFLX (opcode 0x0A3, R163) -/
  | shflx (h : Hd) (f : VF)
  /-- BCAST (opcode 0x0A4, R163) -/
  | bcast (h : Hd) (f : VF)
  /-- VOTEANY (opcode 0x0A5, R163) -/
  | voteany (h : Hd) (f : VF)
  /-- VOTEALL (opcode 0x0A6, R163) -/
  | voteall (h : Hd) (f : VF)
  /-- BALLOT (opcode 0x0A7, R163) -/
  | ballot (h : Hd) (f : VF)
  /-- MATCH (opcode 0x0A8, R163) -/
  | matchx (h : Hd) (f : VF)
  /-- MRANK (opcode 0x0A9, R163) -/
  | mrank (h : Hd) (f : VF)
  /-- ELECT (opcode 0x0AA, R163) -/
  | elect (h : Hd) (f : VF)
  /-- REDX (opcode 0x0AB, R164) -/
  | redx (h : Hd) (f : VF)
  /-- SCANX (opcode 0x0AC, R164) -/
  | scanx (h : Hd) (f : VF)
  /-- SADD (opcode 0x0C0, R166) -/
  | sadd (h : Hd) (f : RF)
  /-- SSUB (opcode 0x0C1, R166) -/
  | ssub (h : Hd) (f : RF)
  /-- SMUL (opcode 0x0C2, R166) -/
  | smul (h : Hd) (f : RF)
  /-- SAND (opcode 0x0C3, R166) -/
  | sand (h : Hd) (f : RF)
  /-- SOR (opcode 0x0C4, R166) -/
  | sor (h : Hd) (f : RF)
  /-- SXOR (opcode 0x0C5, R166) -/
  | sxor (h : Hd) (f : RF)
  /-- SSHL (opcode 0x0C6, R166) -/
  | sshl (h : Hd) (f : RF)
  /-- SSHR (opcode 0x0C7, R166) -/
  | sshr (h : Hd) (f : RF)
  /-- SCMP (opcode 0x0C8, R167) -/
  | scmp (h : Hd) (f : RF)
  /-- SSEL (opcode 0x0C9, R167) -/
  | ssel (h : Hd) (f : RF)
  /-- SMOV (opcode 0x0CA, R166) -/
  | smov (h : Hd) (f : RF)
  /-- SMOVI (opcode 0x0CB, R166) -/
  | smovi (h : Hd) (f : SF)
  /-- SADDI (opcode 0x0CC, R166) -/
  | saddi (h : Hd) (f : SF)
  /-- RDFIRST (opcode 0x0CD, R167) -/
  | rdfirst (h : Hd) (f : RF)
  /-- SPOPC (opcode 0x0CE, R166) -/
  | spopc (h : Hd) (f : RF)
  /-- SCTZ (opcode 0x0CF, R166) -/
  | sctz (h : Hd) (f : RF)
  /-- AADD (opcode 0x0D0, R168) -/
  | aadd (h : Hd) (f : SF)
  /-- MSET (opcode 0x0D1, R168) -/
  | mset (h : Hd) (f : RF)
  /-- BRA (opcode 0x0E0, R171) -/
  | bra (h : Hd) (f : BF)
  /-- BRX (opcode 0x0E1, R171) -/
  | brx (h : Hd) (f : RF)
  /-- BRD (opcode 0x0E2, R172) -/
  | brd (h : Hd) (f : BF)
  /-- JOIN (opcode 0x0E3, R173) -/
  | join (h : Hd) (f : BF)
  /-- CALL (opcode 0x0E4, R174) -/
  | call (h : Hd) (f : BF)
  /-- RET (opcode 0x0E5, R174) -/
  | ret (h : Hd) (f : BF)
  /-- EXIT (opcode 0x0E6, R175) -/
  | exit (h : Hd) (f : BF)
  /-- NOP (opcode 0x0E7, R176) -/
  | nop (h : Hd) (f : BF)
  /-- SLEEP (opcode 0x0E8, R130) -/
  | sleep (h : Hd) (f : IF)
  /-- YIELD (opcode 0x0E9, R131) -/
  | yield (h : Hd) (f : BF)
  /-- TRAP (opcode 0x0EA, R392) -/
  | trap (h : Hd) (f : IF)
  /-- TFENCE (opcode 0x0EB, R393) -/
  | tfence (h : Hd) (f : BF)
  /-- BKPT (opcode 0x0EC, R392) -/
  | bkpt (h : Hd) (f : IF)
  /-- LD (opcode 0x100, R209) -/
  | ld (h : Hd) (f : MF)
  /-- ST (opcode 0x101, R209) -/
  | st (h : Hd) (f : MF)
  /-- LDA (opcode 0x102, R211) -/
  | lda (h : Hd) (f : MF)
  /-- STL (opcode 0x103, R211) -/
  | stl (h : Hd) (f : MF)
  /-- LDU (opcode 0x104, R210) -/
  | ldu (h : Hd) (f : MF)
  /-- STU (opcode 0x105, R210) -/
  | stu (h : Hd) (f : MF)
  /-- LDNT (opcode 0x106, R212) -/
  | ldnt (h : Hd) (f : MF)
  /-- STNT (opcode 0x107, R212) -/
  | stnt (h : Hd) (f : MF)
  /-- ATOM (opcode 0x108, R214) -/
  | atom (h : Hd) (f : MF)
  /-- RED (opcode 0x109, R214) -/
  | red (h : Hd) (f : MF)
  /-- ATOMF (opcode 0x10A, R215) -/
  | atomf (h : Hd) (f : MF)
  /-- CAS (opcode 0x10B, R216) -/
  | cas (h : Hd) (f : MF)
  /-- ORED (opcode 0x10C, R217) -/
  | ored (h : Hd) (f : MF)
  /-- SGATH (opcode 0x10D, R218) -/
  | sgath (h : Hd) (f : MF)
  /-- FENCE (opcode 0x10E, R219) -/
  | fence (h : Hd) (f : MF)
  /-- IFENCE (opcode 0x10F, R220) -/
  | ifence (h : Hd) (f : MF)
  /-- PREF (opcode 0x110, R221) -/
  | pref (h : Hd) (f : MF)
  /-- RESID (opcode 0x111, R221) -/
  | resid (h : Hd) (f : MF)
  /-- CLEAN (opcode 0x112, R222) -/
  | clean (h : Hd) (f : MF)
  /-- INVAL (opcode 0x113, R222) -/
  | inval (h : Hd) (f : MF)
  /-- CPY (opcode 0x140, R229) -/
  | cpy (h : Hd) (f : CF)
  /-- CPYM (opcode 0x141, R234) -/
  | cpym (h : Hd) (f : CF)
  /-- CPYG (opcode 0x142, R235) -/
  | cpyg (h : Hd) (f : CF)
  /-- STAGE (opcode 0x143, R236) -/
  | stage (h : Hd) (f : CF)
  /-- STAGE_INC (opcode 0x143, R236) -/
  | stageInc (h : Hd) (f : CF)
  /-- TAGALL (opcode 0x144, R238) -/
  | tagall (h : Hd) (f : CF)
  /-- TAGANY (opcode 0x145, R238) -/
  | tagany (h : Hd) (f : CF)
  /-- TAGFF (opcode 0x146, R239) -/
  | tagff (h : Hd) (f : CF)
  /-- TAGCLR (opcode 0x147, R239) -/
  | tagclr (h : Hd) (f : CF)
  /-- TAGRD (opcode 0x148, R239) -/
  | tagrd (h : Hd) (f : CF)
  /-- STRMSET (opcode 0x149, R241) -/
  | strmset (h : Hd) (f : CF)
  /-- STRMGO (opcode 0x14A, R241) -/
  | strmgo (h : Hd) (f : CF)
  /-- STRMPOP (opcode 0x14B, R242) -/
  | strmpop (h : Hd) (f : CF)
  /-- STRMPSH (opcode 0x14C, R242) -/
  | strmpsh (h : Hd) (f : CF)
  /-- STRMEND (opcode 0x14D, R241) -/
  | strmend (h : Hd) (f : CF)
  /-- QPUSH (opcode 0x14E, R305) -/
  | qpush (h : Hd) (f : CF)
  /-- QPUSH_CLOSE (opcode 0x14E, R297) -/
  | qpushClose (h : Hd) (f : CF)
  /-- QPOP (opcode 0x14F, R306) -/
  | qpop (h : Hd) (f : CF)
  /-- QTRY (opcode 0x150, R306) -/
  | qtry (h : Hd) (f : CF)
  /-- QSTAT (opcode 0x151, R305) -/
  | qstat (h : Hd) (f : CF)
  /-- GLEAN (opcode 0x152, R308) -/
  | glean (h : Hd) (f : CF)
  /-- GLEAN_DONE (opcode 0x152, R307) -/
  | gleanDone (h : Hd) (f : CF)
  /-- TASKARM (opcode 0x153, R312) -/
  | taskarm (h : Hd) (f : CF)
  /-- TASKDEC (opcode 0x154, R313) -/
  | taskdec (h : Hd) (f : CF)
  /-- SPAWN (opcode 0x155, R138) -/
  | spawn (h : Hd) (f : CF)
  /-- BINFL (opcode 0x156, R142) -/
  | binfl (h : Hd) (f : CF)
  /-- BINFL_ALL (opcode 0x156, R142) -/
  | binflAll (h : Hd) (f : CF)
  /-- MREQ (opcode 0x160, R267) -/
  | mreq (h : Hd) (f : XF)
  /-- REINGET (opcode 0x161, R268) -/
  | reinget (h : Hd) (f : XF)
  /-- REINPASS (opcode 0x162, R258) -/
  | reinpass (h : Hd) (f : XF)
  /-- REINREL (opcode 0x163, R268) -/
  | reinrel (h : Hd) (f : XF)
  /-- REINREL_KEEP (opcode 0x163, R255) -/
  | reinrelKeep (h : Hd) (f : XF)
  /-- HFEED (opcode 0x164, R269) -/
  | hfeed (h : Hd) (f : XF)
  /-- HDRAIN (opcode 0x165, R270) -/
  | hdrain (h : Hd) (f : XF)
  /-- MMA (opcode 0x166, R271) -/
  | mma (h : Hd) (f : XF)
  /-- ZZERO (opcode 0x167, R272) -/
  | zzero (h : Hd) (f : XF)
  /-- ZSCALE (opcode 0x168, R272) -/
  | zscale (h : Hd) (f : XF)
  /-- ZADD (opcode 0x169, R272) -/
  | zadd (h : Hd) (f : XF)
  /-- ZCVT (opcode 0x16A, R272) -/
  | zcvt (h : Hd) (f : XF)
  /-- ZLD (opcode 0x16B, R273) -/
  | zld (h : Hd) (f : XF)
  /-- ZST (opcode 0x16C, R273) -/
  | zst (h : Hd) (f : XF)
  /-- MWAIT (opcode 0x16D, R274) -/
  | mwait (h : Hd) (f : XF)
  /-- MSTAT (opcode 0x16E, R275) -/
  | mstat (h : Hd) (f : XF)
  /-- OSBIND (opcode 0x16F, R276) -/
  | osbind (h : Hd) (f : XF)
  /-- OSFLUSH (opcode 0x170, R276) -/
  | osflush (h : Hd) (f : XF)
  /-- MRESET (opcode 0x171, R277) -/
  | mreset (h : Hd) (f : XF)
  /-- TREEBIND (opcode 0x180, R284) -/
  | treebind (h : Hd) (f : XF)
  /-- DESC (opcode 0x181, R287) -/
  | desc (h : Hd) (f : XF)
  /-- DSTEP (opcode 0x182, R289) -/
  | dstep (h : Hd) (f : XF)
  /-- REGRP (opcode 0x183, R291) -/
  | regrp (h : Hd) (f : XF)
  /-- QRD (opcode 0x184, R290) -/
  | qrd (h : Hd) (f : XF)
  /-- QWR (opcode 0x185, R290) -/
  | qwr (h : Hd) (f : XF)
  /-- ASCEND (opcode 0x186, R292) -/
  | ascend (h : Hd) (f : XF)
  /-- NADDR (opcode 0x187, R285) -/
  | naddr (h : Hd) (f : XF)
  /-- BARI (opcode 0x190, R319) -/
  | bari (h : Hd) (f : RF)
  /-- BARA (opcode 0x191, R319) -/
  | bara (h : Hd) (f : RF)
  /-- BARW (opcode 0x192, R319) -/
  | barw (h : Hd) (f : RF)
  /-- BAREXP (opcode 0x193, R319) -/
  | barexp (h : Hd) (f : RF)
  /-- BARPH (opcode 0x194, R319) -/
  | barph (h : Hd) (f : RF)
  /-- BARINV (opcode 0x195, R316) -/
  | barinv (h : Hd) (f : RF)
  /-- GBAR (opcode 0x196, R324) -/
  | gbar (h : Hd) (f : RF)
  /-- GBAR_INIT (opcode 0x196, R322) -/
  | gbarInit (h : Hd) (f : RF)
  /-- GBAR_FINI (opcode 0x196, R322) -/
  | gbarFini (h : Hd) (f : RF)
  /-- STRAG (opcode 0x197, R331) -/
  | strag (h : Hd) (f : RF)
  /-- SREAD (opcode 0x1B0, R394) -/
  | sread (h : Hd) (f : RF)
  /-- SWRITE (opcode 0x1B1, R394) -/
  | swrite (h : Hd) (f : RF)
  /-- RETT (opcode 0x1B2, R395) -/
  | rett (h : Hd) (f : RF)
  /-- RETT_SKIP (opcode 0x1B2, R395) -/
  | rettSkip (h : Hd) (f : RF)
  /-- RETT_EXIT (opcode 0x1B2, R395) -/
  | rettExit (h : Hd) (f : RF)
  /-- LEAVE (opcode 0x1B3, R420) -/
  | leave (h : Hd) (f : RF)
  /-- LEAVE_REL (opcode 0x1B3, R420) -/
  | leaveRel (h : Hd) (f : RF)
  /-- PWRQ (opcode 0x1B4, R421) -/
  | pwrq (h : Hd) (f : RF)
  /-- HALT (opcode 0x1B5, R396) -/
  | halt (h : Hd) (f : RF)
  /-- HALT_RESUME (opcode 0x1B5, R390) -/
  | haltResume (h : Hd) (f : RF)
  /-- DBGDRAIN (opcode 0x1B6, R397) -/
  | dbgdrain (h : Hd) (f : RF)
  /-- TLBINV_VA (opcode 0x1B7, R371) -/
  | tlbinvVa (h : Hd) (f : RF)
  /-- TLBINV_RANGE (opcode 0x1B7, R371) -/
  | tlbinvRange (h : Hd) (f : RF)
  /-- TLBINV_CTX (opcode 0x1B7, R371) -/
  | tlbinvCtx (h : Hd) (f : RF)
  /-- TLBINV_ALL (opcode 0x1B7, R371) -/
  | tlbinvAll (h : Hd) (f : RF)
  /-- CREATE (R93) -/
  | create (ctx : Nat)
  /-- START (R93) -/
  | start (ctx : Nat)
  /-- SUSPEND (R93) -/
  | suspend (ctx : Nat)
  /-- RESUME (R93) -/
  | resume (ctx : Nat)
  /-- TEARDOWN (R95) -/
  | teardown (ctx : Nat)
  /-- GRANT (R83) -/
  | grant (ctx : Nat)
  /-- TEARDOWN_COMPLETE (R95) -/
  | teardownComplete (ctx : Nat)
  /-- LDOOR (R94) -/
  | ldoor (ctx : Nat) (n : Nat)
  /-- EVPEND_CLEAR (R94) -/
  | evpendClear (ctx : Nat) (ones : W64)
  /-- REGISTER_WRITE (R94) -/
  | registerWrite (off : Nat) (val : W64)
  /-- HOST_SLOW_WRITE (R407) -/
  | hostSlowWrite (off : Nat) (bytes : List (Option Byte))
  /-- HOST_SLOW_READ (R407) -/
  | hostSlowRead (off : Nat) (len : Nat)
  /-- UNSUPPORTED_REQUEST (R405) -/
  | unsupportedRequest (tag : Nat)
  /-- LINKTRAIN (R424) -/
  | linktrain
  /-- LINKRETRAIN (R424) -/
  | linkretrain
  /-- LINKREL (R424) -/
  | linkrel
  /-- SETFID (R424) -/
  | setfid
  /-- ATTEST (R429) -/
  | attest
  /-- UPDATE (R426) -/
  | update
  /-- RESET (R424) -/
  | reset (o : List StartOutcome)
  /-- POWER_ON (R427) -/
  | powerOn (o : List StartOutcome)
  /-- START_TIMEOUT (R427) -/
  | startTimeout (o : List StartOutcome)
  /-- LAUNCH_POP (R105) -/
  | launchPop (ctx : Nat)
  /-- TEAM_PLACE (R111) -/
  | teamPlace (launch : Nat)
  /-- SPAN_PLACE (R134) -/
  | spanPlace (launch : Nat)
  /-- GROUP_CREATE (R115) -/
  | groupCreate (gid : Nat)
  /-- COPY_PLAN_ISSUE (R104) -/
  | copyPlanIssue (team : Nat)
  /-- LANE_CHOOSE (R116) -/
  | laneChoose (lane : Nat)
  /-- HEADER_WAIT_MET (R60) -/
  | headerWaitMet (gid : Nat)
  /-- REGCACHE_FILL (R123) -/
  | regcacheFill (gid : Nat) (reg : Nat)
  /-- BANK_REPLAY (R180) -/
  | bankReplay (lane : Nat)
  /-- LONG_LATENCY_RESULT (R66) -/
  | longLatencyResult (gid : Nat) (key : Nat)
  /-- GROUP_RETIRE (R115) -/
  | groupRetire (gid : Nat)
  /-- TEAM_RETIRE (R132) -/
  | teamRetire (team : Nat)
  /-- LAUNCH_COMPLETE (R106) -/
  | launchComplete (launch : Nat)
  /-- COALESCE_WINDOW_CLOSE (R185) -/
  | coalesceWindowClose (gid : Nat)
  /-- STORE_ARRIVE_HOME (R189) -/
  | storeArriveHome (key : Nat)
  /-- WCB_DRAIN (R189) -/
  | wcbDrain (line : Nat)
  /-- L1_SECTOR_EXPIRE (R339) -/
  | l1SectorExpire (core : Nat) (sector : Nat)
  /-- SLICE_ATOMIC (R214) -/
  | sliceAtomic (key : Nat)
  /-- ORED_CONTRIBUTION (R217) -/
  | oredContribution (key : Nat)
  /-- UNCORRECTABLE_ERROR (R193) -/
  | uncorrectableError (pa : Nat)
  /-- PAGE_WALK (R370) -/
  | pageWalk (core : Nat) (ctx : Nat) (va : W64) (write : Bool)
  /-- TLBINV_COMPLETE (R353) -/
  | tlbinvComplete (gid : Nat)
  /-- QUEUE_ACCEPT (R302) -/
  | queueAccept (gid : Nat)
  /-- CLAIM_RESULT (R303) -/
  | claimResult (gid : Nat)
  /-- TASK_PUSH (R314) -/
  | taskPush (key : Nat)
  /-- COPY_START (R230) -/
  | copyStart (cluster : Nat)
  /-- COPY_DELIVERY (R233) -/
  | copyDelivery (copy : Nat) (team : Nat)
  /-- COPY_COMPLETE (R233) -/
  | copyComplete (copy : Nat)
  /-- COPY_FAIL (R244) -/
  | copyFail (copy : Nat) (row : Nat) (cause : Nat)
  /-- STREAM_ELEMENT (R200) -/
  | streamElement (core : Nat) (slot : Nat)
  /-- TILE_ACQUIRE (R256) -/
  | tileAcquire (cluster : Nat) (entry : Nat)
  /-- REIN_GRANT (R257) -/
  | reinGrant (cluster : Nat)
  /-- ENGINE_COMMAND (R254) -/
  | engineCommand (cluster : Nat)
  /-- PASS_START (R248) -/
  | passStart (cluster : Nat)
  /-- COMMAND_RETIRE (R254) -/
  | commandRetire (cluster : Nat)
  /-- HFEED_APPEND (R269) -/
  | hfeedAppend (gid : Nat)
  /-- ASCEND_UPDATE (R292) -/
  | ascendUpdate (cluster : Nat)
  /-- ENGINE_RESET_COMPLETE (R265) -/
  | engineResetComplete (cluster : Nat)
  /-- BIN_TIMER_EXPIRE (R139) -/
  | binTimerExpire (cluster : Nat) (bin : Nat)
  /-- SLEEP_WAKE (R130) -/
  | sleepWake (gid : Nat)
  /-- BUDGET_EXHAUSTED (R310) -/
  | budgetExhausted (gid : Nat)
  /-- TRAP_ENTRY (R380) -/
  | trapEntry (gid : Nat)
  /-- NOTIFY_ACTIVATION (R91) -/
  | notifyActivation (ctx : Nat)
  /-- GBAR_COMBINE (R325) -/
  | gbarCombine (key : Nat)
  /-- GBAR_ARRIVAL (R322) -/
  | gbarArrival (key : Nat)
  /-- SLEW_ADMIT (R417) -/
  | slewAdmit
  /-- PREEMPT_WAIT_EXPIRE (R383) -/
  | preemptWaitExpire (launch : Nat)
  /-- GROUP_SAVE (R384) -/
  | groupSave (gid : Nat)
  /-- PTO_EXPIRE (R385) -/
  | ptoExpire (team : Nat)
  /-- TEAM_SAVE (R387) -/
  | teamSave (team : Nat)
  /-- TEAM_RESTORE (R496) -/
  | teamRestore (team : Nat)
  /-- POLICY_STEP (R413) -/
  | policyStep
  /-- VOLTAGE_RAMP_END (R414) -/
  | voltageRampEnd (cluster : Nat)
  /-- FREQUENCY_SWITCH_END (R414) -/
  | frequencySwitchEnd (cluster : Nat)
  /-- LEAVE_GRANT (R419) -/
  | leaveGrant (cluster : Nat)
  /-- DROOP_DETECT (R416) -/
  | droopDetect (cluster : Nat)
  /-- DROOP_END (R416) -/
  | droopEnd (cluster : Nat)
  /-- LINK_LOCK (R400) -/
  | linkLock (link : Nat) (lanes : Nat) (peer : Nat) (peerLink : Nat)
  /-- LINK_TRAINING_TIMEOUT (R400) -/
  | linkTrainingTimeout (link : Nat)
  /-- LINK_LANE_LOSS (R400) -/
  | linkLaneLoss (link : Nat) (left : Nat)
  /-- LINK_PEER_RESET (R400) -/
  | linkPeerReset (link : Nat)
  /-- LINK_REPLAY_LIMIT (R400) -/
  | linkReplayLimit (link : Nat)
  /-- FLIT_RECEIVE (R401) -/
  | flitReceive (link : Nat) (seq : Nat) (crcOk : Bool) (payload : Payload)
  /-- FLIT_NAK (R401) -/
  | flitNak (link : Nat) (seq : Nat)
  /-- FLIT_ACK (R401) -/
  | flitAck (link : Nat) (seq : Nat)
  /-- UNDERVOLT (R409) -/
  | undervolt (pool : Nat) (mv : Nat)
  /-- REGRP_COMPLETE (R291) -/
  | regrpComplete (gid : Nat)
  deriving DecidableEq, Repr

end Sys2Proof
end

