-- ==== Sys2Proof/WellFormed.lean ====
section
/-! DEFINITION. Which instructions are well-formed (03 R72): the field rules that a word alone decides. An instruction
that fails its rule raises illegal-instruction and nothing of it takes effect. -/

namespace Sys2Proof

/-- The width of a type in bits (02 R27). -/
def Ty.bits : Ty → Nat
  | .u8 => 8
  | .s8 => 8
  | .u16 => 16
  | .s16 => 16
  | .u64 => 64
  | .s64 => 64
  | .f16 => 16
  | .bf16 => 16
  | .f64 => 64
  | .s4 => 4
  | _ => 32

/-- Whether the type is a signed integer (02 R27). -/
def Ty.signed : Ty → Bool
  | .s8 => true
  | .s16 => true
  | .s32 => true
  | .s64 => true
  | .s4 => true
  | _ => false

/-- The registers that one operand of the type takes (02 R29). -/
def Ty.regs (t : Ty) : Nat := if t.bits = 64 then 2 else 1

/-- The code of a type (02 R27). -/
def Ty.code : Ty → Nat
  | .u8 => 0
  | .s8 => 1
  | .u16 => 2
  | .s16 => 3
  | .u32 => 4
  | .s32 => 5
  | .u64 => 6
  | .s64 => 7
  | .f16 => 8
  | .bf16 => 9
  | .f32 => 10
  | .f64 => 11
  | .sh8 => 12
  | .sh5 => 13
  | .sh3 => 14
  | .s4 => 15

/-- The type of a code (02 R27). -/
def Ty.ofCode (n : Nat) : Ty :=
  match n % 16 with
  | 0 => .u8
  | 1 => .s8
  | 2 => .u16
  | 3 => .s16
  | 4 => .u32
  | 5 => .s32
  | 6 => .u64
  | 7 => .s64
  | 8 => .f16
  | 9 => .bf16
  | 10 => .f32
  | 11 => .f64
  | 12 => .sh8
  | 13 => .sh5
  | 14 => .sh3
  | _ => .s4

/-- The type sets of 07 R143. -/
def tyInt : List Ty := [.u8, .s8, .u16, .s16, .u32, .s32, .u64, .s64]
/-- Int32+ of 07 R143. -/
def tyInt32 : List Ty := [.u32, .s32, .u64, .s64]
/-- Narrow of 07 R143. -/
def tyNarrow : List Ty := [.u8, .s8, .u16, .s16, .u32, .s32]
/-- Bits of 07 R143. -/
def tyBits : List Ty := [.u32, .u64]
/-- The signed integer types. -/
def tySigned : List Ty := [.s8, .s16, .s32, .s64]
/-- Flt of 07 R143. -/
def tyFlt : List Ty := [.f16, .bf16, .f32, .f64]
/-- Half of 07 R143. -/
def tyHalf : List Ty := [.f16, .bf16]
/-- The sheaf types (02 R44). -/
def tySheaf : List Ty := [.sh8, .sh5, .sh3]

/-- What a register field of format V names: nothing, registers (how many, from a multiple of what), a predicate, or an
immediate (07 R144, R145, R162). -/
inductive Opnd where
  | none
  | regs (n align : Nat)
  | pred
  | imm
  deriving DecidableEq, Repr

/-- How an instruction of format V uses its fields (07 R145): the accepted types, the three register fields, whether the
destination is a source too, and whether RND and SAT are read. -/
structure VUse where
  d    : Opnd
  a    : Opnd
  b    : Opnd
  dsrc : Bool
  rnd  : Bool
  sat  : Bool
  deriving DecidableEq, Repr

/-- One operand of the type (02 R29). -/
def Opnd.ty (t : Ty) : Opnd := .regs t.regs t.regs
/-- One 32-bit register. -/
def Opnd.r1 : Opnd := .regs 1 1
/-- A register pair (02 R29). -/
def Opnd.pair : Opnd := .regs 2 2

/-- Whether a field holds what its operand admits: an aligned first register, a predicate number, an immediate up to 63,
or zero where it is not used (03 R70, R72). -/
def Opnd.ok (o : Opnd) (r : BitVec 11) : Bool :=
  match o with
  | .none => decide (r = 0)
  | .regs _ al => decide (r.toNat % al = 0)
  | .pred => decide (r.toNat < 8)
  | .imm => decide (r.toNat < 64)

/-- Whether the operand is in registers, and so has a kill bit (03 R67, R72). -/
def Opnd.isReg : Opnd → Bool
  | .regs _ _ => true
  | _ => false

/-- The registers of an operand: the first and how many. -/
def Opnd.span (o : Opnd) (r : BitVec 11) : List (Nat × Nat) :=
  match o with
  | .regs n _ => [(r.toNat, n)]
  | _ => []

/-- x op y in the type, result in the type. -/
def use3 (t : Ty) : VUse := ⟨.ty t, .ty t, .ty t, false, false, false⟩
/-- The same with SAT. -/
def use3S (t : Ty) : VUse := { use3 t with sat := true }
/-- A unary instruction. -/
def use2 (t : Ty) : VUse := ⟨.ty t, .ty t, .none, false, false, false⟩
/-- A floating-point instruction of two sources that rounds. -/
def use3F (t : Ty) : VUse := { use3 t with rnd := true, sat := true }
/-- A shift: its amount is one register (07 R147). -/
def useSh (t : Ty) : VUse := ⟨.ty t, .ty t, .r1, false, false, false⟩

/-- The registers of a packed sheaf: how many, from a multiple of what (07 R161). -/
def sheafRegs : Ty → Opnd
  | .sh8 => .regs 9 16
  | .sh5 => .regs 6 8
  | _ => .regs 4 4

/-- The registers of the elements of PK4I and UNPK4I (07 R160). -/
def packRegs : Ty → Opnd
  | .s4 => .regs 8 8
  | _ => .regs 4 4

/-- The field uses of every instruction of format V (07 R147, R155, R158, R160, R161, R163). -/
def Instr.vuse : Instr → Option (Hd × VF × VUse)
  | .iadd h f => some (h, f, use3S f.t)
  | .isub h f => some (h, f, use3S f.t)
  | .iaddc h f => some (h, f, use3 f.t)
  | .isubb h f => some (h, f, use3 f.t)
  | .imul h f => some (h, f, use3S f.t)
  | .imulh h f => some (h, f, use3 f.t)
  | .imad h f => some (h, f, { use3S f.t with dsrc := true })
  | .imadw h f => some (h, f, ⟨.pair, .r1, .r1, true, false, false⟩)
  | .idiv h f => some (h, f, use3S f.t)
  | .irem h f => some (h, f, use3 f.t)
  | .ineg h f => some (h, f, { use2 f.t with sat := true })
  | .iabs h f => some (h, f, { use2 f.t with sat := true })
  | .imin h f => some (h, f, use3 f.t)
  | .imax h f => some (h, f, use3 f.t)
  | .iclamp h f => some (h, f, { use3 f.t with dsrc := true })
  | .isad h f => some (h, f, { use3S f.t with dsrc := true })
  | .iand h f => some (h, f, use3 f.t)
  | .ior h f => some (h, f, use3 f.t)
  | .ixor h f => some (h, f, use3 f.t)
  | .andn h f => some (h, f, use3 f.t)
  | .inot h f => some (h, f, use2 f.t)
  | .shl h f => some (h, f, useSh f.t)
  | .shr h f => some (h, f, useSh f.t)
  | .sar h f => some (h, f, useSh f.t)
  | .rot h f => some (h, f, useSh f.t)
  | .shld h f => some (h, f, { use3 f.t with dsrc := true })
  | .bfx h f => some (h, f, useSh f.t)
  | .bfi h f => some (h, f, { useSh f.t with dsrc := true })
  | .popc h f => some (h, f, { use2 f.t with d := .r1 })
  | .clz h f => some (h, f, { use2 f.t with d := .r1 })
  | .ctz h f => some (h, f, { use2 f.t with d := .r1 })
  | .brev h f => some (h, f, use2 f.t)
  | .permb h f => some (h, f, { use3 f.t with dsrc := true })
  | .sel h f => some (h, f, use3 f.t)
  | .mov h f => some (h, f, use2 f.t)
  | .icmp h f => some (h, f, { use3 f.t with d := .pred })
  | .iadds h f => some (h, f, use3S f.t)
  | .fadd h f => some (h, f, use3F f.t)
  | .fsub h f => some (h, f, use3F f.t)
  | .fmul h f => some (h, f, use3F f.t)
  | .ffma h f => some (h, f, { use3F f.t with dsrc := true })
  | .ffms h f => some (h, f, { use3F f.t with dsrc := true })
  | .fmin h f => some (h, f, use3 f.t)
  | .fmax h f => some (h, f, use3 f.t)
  | .fminn h f => some (h, f, use3 f.t)
  | .fmaxn h f => some (h, f, use3 f.t)
  | .fabs h f => some (h, f, use2 f.t)
  | .fneg h f => some (h, f, use2 f.t)
  | .fcpys h f => some (h, f, use3 f.t)
  | .fcmp h f => some (h, f, { use3 f.t with d := .pred })
  | .fclass h f => some (h, f, { use2 f.t with d := .r1 })
  | .fdiv h f => some (h, f, use3F f.t)
  | .fsqrt h f => some (h, f, { use2 f.t with rnd := true })
  | .frcp h f => some (h, f, use2 f.t)
  | .frsq h f => some (h, f, use2 f.t)
  | .fexp2 h f => some (h, f, use2 f.t)
  | .flog2 h f => some (h, f, use2 f.t)
  | .fsin h f => some (h, f, use2 f.t)
  | .fcos h f => some (h, f, use2 f.t)
  | .ftanh h f => some (h, f, use2 f.t)
  | .frnd h f => some (h, f, { use2 f.t with rnd := true })
  | .ffrc h f => some (h, f, use2 f.t)
  | .fscl h f => some (h, f, { use3F f.t with b := .r1 })
  | .fexpn h f => some (h, f, { use2 f.t with d := .r1 })
  | .hadd2 h f => some (h, f, use3F f.t)
  | .hmul2 h f => some (h, f, use3F f.t)
  | .hfma2 h f => some (h, f, { use3F f.t with dsrc := true })
  | .hmin2 h f => some (h, f, use3 f.t)
  | .hmax2 h f => some (h, f, use3 f.t)
  | .dot2h h f => some (h, f, { use3F f.t with dsrc := true })
  | .dot4 h f => some (h, f, { use3S f.t with dsrc := true })
  | .dot8 h f => some (h, f, { use3S f.t with dsrc := true })
  | .cvtff h f => some (h, f, ⟨.ty f.t, .ty (Ty.ofCode f.sub.toNat), .none, false, true, true⟩)
  | .cvtfi h f => some (h, f, ⟨.ty f.t, .ty (Ty.ofCode f.sub.toNat), .none, false, true, false⟩)
  | .cvtif h f => some (h, f, ⟨.ty f.t, .ty (Ty.ofCode f.sub.toNat), .none, false, true, false⟩)
  | .cvtii h f => some (h, f, ⟨.ty f.t, .ty (Ty.ofCode f.sub.toNat), .none, false, false, true⟩)
  | .pk2 h f => some (h, f, ⟨.r1, .r1, .r1, false, true, true⟩)
  | .unpk2 h f => some (h, f, ⟨.pair, .r1, .none, false, false, false⟩)
  | .pk4i h f => some (h, f, ⟨.r1, packRegs f.t, .none, false, false, true⟩)
  | .unpk4i h f => some (h, f, ⟨packRegs f.t, .r1, .none, false, false, false⟩)
  | .shpack h f => some (h, f, ⟨sheafRegs f.t, .regs 32 32, .none, false, false, false⟩)
  | .shunpk h f => some (h, f, ⟨.regs 32 32, sheafRegs f.t, .none, false, false, false⟩)
  | .shfl h f => some (h, f, useSh f.t)
  | .shflup h f => some (h, f, { use3 f.t with b := .imm })
  | .shfldn h f => some (h, f, { use3 f.t with b := .imm })
  | .shflx h f => some (h, f, { use3 f.t with b := .imm })
  | .bcast h f => some (h, f, { use3 f.t with b := .imm })
  | .voteany h f => some (h, f, ⟨.pred, .pred, .none, false, false, false⟩)
  | .voteall h f => some (h, f, ⟨.pred, .pred, .none, false, false, false⟩)
  | .ballot h f => some (h, f, ⟨.pair, .pred, .none, false, false, false⟩)
  | .matchx h f => some (h, f, { use2 f.t with d := .pair })
  | .mrank h f => some (h, f, use2 f.t)
  | .elect h f => some (h, f, ⟨.pred, .none, .none, false, false, false⟩)
  | .redx h f => some (h, f, { use2 f.t with rnd := true })
  | .scanx h f => some (h, f, { use2 f.t with rnd := true })
  | _ => none

/-- Whether the type code and the sub-operation are admitted (07 R147 to R164, R495). -/
def Instr.vtyOk : Instr → Bool
  | .iadd _ f => tyInt.contains f.t && decide (f.sub = 0)
  | .isub _ f => tyInt.contains f.t && decide (f.sub = 0)
  | .iaddc _ f => tyBits.contains f.t && decide (f.sub.toNat < 8)
  | .isubb _ f => tyBits.contains f.t && decide (f.sub.toNat < 8)
  | .imul _ f => tyInt.contains f.t && decide (f.sub = 0)
  | .imulh _ f => tyInt32.contains f.t && decide (f.sub = 0)
  | .imad _ f => tyInt32.contains f.t && decide (f.sub = 0)
  | .imadw _ f => [Ty.u32, .s32].contains f.t && decide (f.sub = 0)
  | .idiv _ f => tyInt32.contains f.t && decide (f.sub = 0)
  | .irem _ f => tyInt32.contains f.t && decide (f.sub = 0)
  | .ineg _ f => tySigned.contains f.t && decide (f.sub = 0)
  | .iabs _ f => tySigned.contains f.t && decide (f.sub = 0)
  | .imin _ f => tyInt.contains f.t && decide (f.sub = 0)
  | .imax _ f => tyInt.contains f.t && decide (f.sub = 0)
  | .iclamp _ f => tyInt.contains f.t && decide (f.sub = 0)
  | .isad _ f => tyNarrow.contains f.t && decide (f.sub = 0)
  | .iand _ f => tyBits.contains f.t && decide (f.sub = 0)
  | .ior _ f => tyBits.contains f.t && decide (f.sub = 0)
  | .ixor _ f => tyBits.contains f.t && decide (f.sub = 0)
  | .andn _ f => tyBits.contains f.t && decide (f.sub = 0)
  | .inot _ f => tyBits.contains f.t && decide (f.sub = 0)
  | .shl _ f => tyBits.contains f.t && decide (f.sub = 0)
  | .shr _ f => tyBits.contains f.t && decide (f.sub = 0)
  | .sar _ f => [Ty.s32, .s64].contains f.t && decide (f.sub = 0)
  | .rot _ f => tyBits.contains f.t && decide (f.sub = 0)
  | .shld _ f => decide (f.t = .u32) && decide (f.sub = 0)
  | .bfx _ f => tyInt32.contains f.t && decide (f.sub = 0)
  | .bfi _ f => tyBits.contains f.t && decide (f.sub = 0)
  | .popc _ f => tyBits.contains f.t && decide (f.sub = 0)
  | .clz _ f => tyBits.contains f.t && decide (f.sub = 0)
  | .ctz _ f => tyBits.contains f.t && decide (f.sub = 0)
  | .brev _ f => tyBits.contains f.t && decide (f.sub = 0)
  | .permb _ f => decide (f.t = .u32) && decide (f.sub = 0)
  | .sel _ f => tyBits.contains f.t
  | .mov _ f => tyBits.contains f.t && decide (f.sub = 0)
  | .icmp _ f => tyInt.contains f.t && decide (f.sub.toNat < 6)
  | .iadds _ f => tyInt32.contains f.t
  | .fadd _ f => tyFlt.contains f.t && decide (f.sub = 0)
  | .fsub _ f => tyFlt.contains f.t && decide (f.sub = 0)
  | .fmul _ f => tyFlt.contains f.t && decide (f.sub = 0)
  | .ffma _ f => tyFlt.contains f.t && decide (f.sub = 0)
  | .ffms _ f => tyFlt.contains f.t && decide (f.sub = 0)
  | .fmin _ f => tyFlt.contains f.t && decide (f.sub = 0)
  | .fmax _ f => tyFlt.contains f.t && decide (f.sub = 0)
  | .fminn _ f => tyFlt.contains f.t && decide (f.sub = 0)
  | .fmaxn _ f => tyFlt.contains f.t && decide (f.sub = 0)
  | .fabs _ f => tyFlt.contains f.t && decide (f.sub = 0)
  | .fneg _ f => tyFlt.contains f.t && decide (f.sub = 0)
  | .fcpys _ f => tyFlt.contains f.t && decide (f.sub = 0)
  | .fcmp _ f => tyFlt.contains f.t && decide (f.sub.toNat < 8)
  | .fclass _ f => tyFlt.contains f.t && decide (f.sub = 0)
  | .fdiv _ f => tyFlt.contains f.t && decide (f.sub = 0)
  | .fsqrt _ f => tyFlt.contains f.t && decide (f.sub = 0)
  | .frcp _ f => decide (f.t = .f32) && decide (f.sub = 0)
  | .frsq _ f => decide (f.t = .f32) && decide (f.sub = 0)
  | .fexp2 _ f => decide (f.t = .f32) && decide (f.sub = 0)
  | .flog2 _ f => decide (f.t = .f32) && decide (f.sub = 0)
  | .fsin _ f => decide (f.t = .f32) && decide (f.sub = 0)
  | .fcos _ f => decide (f.t = .f32) && decide (f.sub = 0)
  | .ftanh _ f => decide (f.t = .f32) && decide (f.sub = 0)
  | .frnd _ f => tyFlt.contains f.t && decide (f.sub.toNat < 2)
  | .ffrc _ f => tyFlt.contains f.t && decide (f.sub = 0)
  | .fscl _ f => tyFlt.contains f.t && decide (f.sub = 0)
  | .fexpn _ f => tyFlt.contains f.t && decide (f.sub = 0)
  | .hadd2 _ f => tyHalf.contains f.t && decide (f.sub = 0)
  | .hmul2 _ f => tyHalf.contains f.t && decide (f.sub = 0)
  | .hfma2 _ f => tyHalf.contains f.t && decide (f.sub = 0)
  | .hmin2 _ f => tyHalf.contains f.t && decide (f.sub = 0)
  | .hmax2 _ f => tyHalf.contains f.t && decide (f.sub = 0)
  | .dot2h _ f => tyHalf.contains f.t && decide (f.sub = 0)
  | .dot4 _ f => [Ty.s8, .u8].contains f.t && decide (f.sub.toNat < 2)
  | .dot8 _ f => decide (f.t = .s4) && decide (f.sub = 0)
  | .cvtff _ f => tyFlt.contains f.t && tyFlt.contains (Ty.ofCode f.sub.toNat) && decide (f.sub.toNat ≠ f.t.code)
  | .cvtfi _ f => tyInt.contains f.t && tyFlt.contains (Ty.ofCode f.sub.toNat)
  | .cvtif _ f => tyFlt.contains f.t && tyInt.contains (Ty.ofCode f.sub.toNat) &&
      (decide (f.t ≠ .f16) || [Ty.u8, .s8, .s16].contains (Ty.ofCode f.sub.toNat))
  | .cvtii _ f => tyInt.contains f.t && tyInt.contains (Ty.ofCode f.sub.toNat) && decide (f.sub.toNat ≠ f.t.code)
  | .pk2 _ f => tyHalf.contains f.t && decide (f.sub = 0)
  | .unpk2 _ f => tyHalf.contains f.t && decide (f.sub = 0)
  | .pk4i _ f => [Ty.s8, .u8, .s4].contains f.t && decide (f.sub = 0)
  | .unpk4i _ f => [Ty.s8, .u8, .s4].contains f.t && decide (f.sub = 0)
  | .shpack _ f => tySheaf.contains f.t && decide (f.sub = 0)
  | .shunpk _ f => tySheaf.contains f.t && decide (f.sub = 0)
  | .shfl _ f => tyBits.contains f.t && decide (f.sub = 0)
  | .shflup _ f => tyBits.contains f.t && decide (f.sub = 0)
  | .shfldn _ f => tyBits.contains f.t && decide (f.sub = 0)
  | .shflx _ f => tyBits.contains f.t && decide (f.sub = 0)
  | .bcast _ f => tyBits.contains f.t && decide (f.sub = 0)
  | .voteany _ f => decide (f.t = .u8) && decide (f.sub.toNat < 2)
  | .voteall _ f => decide (f.t = .u8) && decide (f.sub.toNat < 2)
  | .ballot _ f => decide (f.t = .u8) && decide (f.sub.toNat < 2)
  | .matchx _ f => tyBits.contains f.t && decide (f.sub = 0)
  | .mrank _ f => tyBits.contains f.t && decide (f.sub = 0)
  | .elect _ f => decide (f.t = .u8) && decide (f.sub = 0)
  | .redx _ f => foldOk f && decide (f.sub.toNat < 6)
  | .scanx _ f => foldOk f && decide (f.sub.toNat % 8 < 6)
  | _ => false
where
  /-- The type, operation and rounding of REDX and SCANX (07 R164). -/
  foldOk (f : VF) : Bool :=
    [Ty.u32, .s32, .u64, .s64, .f32].contains f.t && (decide (f.t ≠ .f32) || decide (f.sub.toNat % 8 < 3)) &&
      (decide (f.rnd = .rne) || (decide (f.t = .f32) && decide (f.sub.toNat % 8 = 0)))

/-- The field rule of format V (07 R145, R162). -/
def wfV (h : Hd) (f : VF) (u : VUse) (admitsU : Bool) : Bool :=
  u.d.ok f.d && u.a.ok f.a && u.b.ok f.b && (u.a.isReg || !f.ka) && (u.b.isReg || !f.kb) &&
    (u.rnd || decide (f.rnd = .rne)) && (u.sat || !f.sat) && (admitsU || !h.u)

/-- Whether a field names a register of the scalar space (03 R70). -/
def scalarOk (r : BitVec 11) : Bool := decide (r.toNat < 104)
/-- Whether a field names an s, a or p register (07 R165). -/
def scalarSap (r : BitVec 11) : Bool := decide (r.toNat < 80) || (decide (96 ≤ r.toNat) && decide (r.toNat < 104))
/-- Whether a field names an s or a register. -/
def scalarSa (r : BitVec 11) : Bool := decide (r.toNat < 80)
/-- Whether a field names an s register. -/
def scalarS (r : BitVec 11) : Bool := decide (r.toNat < 64)
/-- Whether a field names an m register (03 R70). -/
def scalarM (r : BitVec 11) : Bool := decide (80 ≤ r.toNat) && decide (r.toNat < 96)
/-- Whether a field names an a register (03 R70). -/
def scalarA (r : BitVec 11) : Bool := decide (64 ≤ r.toNat) && decide (r.toNat < 80)
/-- The integer types of the scalar instructions (07 R165). -/
def tyScalar : Ty → Bool
  | .u32 => true
  | .s32 => true
  | .u64 => true
  | .s64 => true
  | _ => false

/-- A scalar instruction of three operands (07 R165, R166); ar admits MOD[0]. -/
def wfS3 (h : Hd) (f : RF) (ar : Bool) : Bool :=
  !h.u && tyScalar f.t && scalarSap f.d && scalarSap f.a && scalarSap f.b &&
    (decide (f.mod = 0) || (ar && decide (f.mod = 1)))

/-- The fields of an S-r word of the system and control classes that uses none but D, A and MOD. -/
def rfZero (f : RF) : Bool := decide (f.b = 0) && decide (f.t = .u8)

/-- A relation of ICMPI (07 R153). -/
def icmpiOk (imm : BitVec 24) : Bool := decide (imm.toNat / 2 ^ 20 % 8 < 6)
/-- A shift immediate (07 R153). -/
def shiftImmOk (imm : BitVec 24) : Bool := decide (imm.toNat < 32)

/-- The access size in bytes of SZ (03 R69). -/
def szBytes (sz : BitVec 3) : Nat :=
  match sz.toNat with
  | 0 => 1
  | 1 => 1
  | 2 => 2
  | 3 => 2
  | 4 => 4
  | 5 => 8
  | _ => 16

/-- The registers that an access of the size takes (03 R69). -/
def szRegs (sz : BitVec 3) : Nat := szBytes sz / 4 + (if sz.toNat < 4 then 1 else 0)

/-- The field rules common to format M: INC and SZ (03 R72), the U bit (09 R206). -/
def wfM (h : Hd) (f : MF) (admitsU : Bool) : Bool :=
  decide (f.inc ≠ 3) && decide (f.sz ≠ 7) && (admitsU || !h.u)

/-- The data register of a vector load or store (09 R209). -/
def dataOk (f : MF) : Bool := decide (f.data.toNat % szRegs f.sz = 0)

/-- The field rules of the atomics (09 R213). -/
def wfAtom (h : Hd) (f : MF) : Bool :=
  wfM h f false && decide (f.inc ≠ 1) && decide (f.hint = 0) && (decide (f.sz = 4) || decide (f.sz = 5))

/-- OFF8[7:4] (09 R213). -/
def aop (f : MF) : Nat := f.off8.toNat / 16
/-- OFF8[3:0] (09 R213). -/
def aopLow (f : MF) : Nat := f.off8.toNat % 16

/-- The fields of format C that a description does not name are zero (03 R72). -/
def cfZero (f : CF) (sdesc : Bool) : Bool :=
  decide (f.tag = 0) && (sdesc || decide (f.sdesc = 0)) && decide (f.asrc = 0) && decide (f.adst = 0) && decide (f.depctr = 0)

/-- Some bits of FLAGS of format C. -/
def CF.fl (f : CF) (lo n : Nat) : Nat := f.flags.toNat / 2 ^ lo % 2 ^ n

/-- CPY, CPYM and CPYG (09 R229). -/
def wfCopy (h : Hd) (f : CF) : Bool :=
  !h.u && (decide (f.fl 0 1 = 1) || decide (f.asrc = 0)) && (decide (f.fl 1 1 = 1) || decide (f.adst = 0)) &&
    (decide (f.fl 2 1 = 1) || decide (f.fl 3 4 = 0)) && decide (f.fl 7 7 = 0)

/-- The instructions of format B that use no field (07 R169). -/
def wfB0 (h : Hd) (f : BF) : Bool := !h.u && decide (f.joff = 0) && decide (f.off = 0)

/-- The types of MMA (10 R246). -/
def mmaTy : Ty → Bool
  | .bf16 => true
  | .f16 => true
  | .s8 => true
  | .u8 => true
  | .s4 => true
  | .sh8 => true
  | .sh5 => true
  | .sh3 => true
  | _ => false

/-- The types of DESC, DSTEP and ASCEND (11 R283). -/
def treeTy : Ty → Bool
  | .bf16 => true
  | .f16 => true
  | .sh8 => true
  | .sh5 => true
  | .sh3 => true
  | _ => false

/-- The types of ZLD and ZST (10 R273). -/
def tileTy : Ty → Bool
  | .bf16 => true
  | .f16 => true
  | .f32 => true
  | .s32 => true
  | _ => false

/-- The fields of format X that a description names, the others zero: Z, SA, SB, SHAPE and the low n bits of XFLAGS, with
T read (10 R266, 11 R283). -/
def xOnlyT (h : Hd) (f : XF) (z sa shape : Bool) (n : Nat) : Bool :=
  !h.u && (z || decide (f.z = 0)) && (sa || decide (f.sa = 0)) && decide (f.sb = 0) && (shape || decide (f.shape = 0)) &&
    decide (f.xf.toNat < 2 ^ n)

/-- The same with T zero. -/
def xOnly (h : Hd) (f : XF) (z sa shape : Bool) (n : Nat) : Bool :=
  xOnlyT h f z sa shape n && decide (f.t = .u8)

/-- The sync and system classes refuse U and a type (13 R318, R323, 16 R391). -/
def wfBar (h : Hd) (f : RF) : Bool := !h.u && decide (f.t = .u8)

/-- The field rules of format V, for an instruction of that format. -/
def Instr.wfVec (i : Instr) (admitsU : Bool) : Bool :=
  i.vtyOk && (match i.vuse with
    | some (h, f, u) => wfV h f u admitsU
    | none => false)

/-- Whether an instruction obeys the field rules of its description (03 R72); the steps of the other agents have no
fields. -/
def Instr.wf : Instr → Bool
  | .iadd h f => Instr.wfVec (.iadd h f) true
  | .isub h f => Instr.wfVec (.isub h f) true
  | .iaddc h f => Instr.wfVec (.iaddc h f) true
  | .isubb h f => Instr.wfVec (.isubb h f) true
  | .imul h f => Instr.wfVec (.imul h f) true
  | .imulh h f => Instr.wfVec (.imulh h f) true
  | .imad h f => Instr.wfVec (.imad h f) true
  | .imadw h f => Instr.wfVec (.imadw h f) true
  | .idiv h f => Instr.wfVec (.idiv h f) true
  | .irem h f => Instr.wfVec (.irem h f) true
  | .ineg h f => Instr.wfVec (.ineg h f) true
  | .iabs h f => Instr.wfVec (.iabs h f) true
  | .imin h f => Instr.wfVec (.imin h f) true
  | .imax h f => Instr.wfVec (.imax h f) true
  | .iclamp h f => Instr.wfVec (.iclamp h f) true
  | .isad h f => Instr.wfVec (.isad h f) true
  | .iand h f => Instr.wfVec (.iand h f) true
  | .ior h f => Instr.wfVec (.ior h f) true
  | .ixor h f => Instr.wfVec (.ixor h f) true
  | .andn h f => Instr.wfVec (.andn h f) true
  | .inot h f => Instr.wfVec (.inot h f) true
  | .shl h f => Instr.wfVec (.shl h f) true
  | .shr h f => Instr.wfVec (.shr h f) true
  | .sar h f => Instr.wfVec (.sar h f) true
  | .rot h f => Instr.wfVec (.rot h f) true
  | .shld h f => Instr.wfVec (.shld h f) true
  | .bfx h f => Instr.wfVec (.bfx h f) true
  | .bfi h f => Instr.wfVec (.bfi h f) true
  | .popc h f => Instr.wfVec (.popc h f) true
  | .clz h f => Instr.wfVec (.clz h f) true
  | .ctz h f => Instr.wfVec (.ctz h f) true
  | .brev h f => Instr.wfVec (.brev h f) true
  | .permb h f => Instr.wfVec (.permb h f) true
  | .sel h f => Instr.wfVec (.sel h f) true
  | .mov h f => Instr.wfVec (.mov h f) true
  | .icmp h f => Instr.wfVec (.icmp h f) true
  | .iadds h f => Instr.wfVec (.iadds h f) true
  | .iaddi _ _ => true
  | .andi _ _ => true
  | .ori _ _ => true
  | .xori _ _ => true
  | .shli _ f => shiftImmOk f.imm
  | .shri _ f => shiftImmOk f.imm
  | .sari _ f => shiftImmOk f.imm
  | .icmpi _ f => icmpiOk f.imm && decide (f.d.toNat < 8)
  | .movi _ _ => true
  | .movhi _ f => decide (f.d.toNat % 2 = 0)
  | .fadd h f => Instr.wfVec (.fadd h f) true
  | .fsub h f => Instr.wfVec (.fsub h f) true
  | .fmul h f => Instr.wfVec (.fmul h f) true
  | .ffma h f => Instr.wfVec (.ffma h f) true
  | .ffms h f => Instr.wfVec (.ffms h f) true
  | .fmin h f => Instr.wfVec (.fmin h f) true
  | .fmax h f => Instr.wfVec (.fmax h f) true
  | .fminn h f => Instr.wfVec (.fminn h f) true
  | .fmaxn h f => Instr.wfVec (.fmaxn h f) true
  | .fabs h f => Instr.wfVec (.fabs h f) true
  | .fneg h f => Instr.wfVec (.fneg h f) true
  | .fcpys h f => Instr.wfVec (.fcpys h f) true
  | .fcmp h f => Instr.wfVec (.fcmp h f) true
  | .fclass h f => Instr.wfVec (.fclass h f) true
  | .fdiv h f => Instr.wfVec (.fdiv h f) true
  | .fsqrt h f => Instr.wfVec (.fsqrt h f) true
  | .frcp h f => Instr.wfVec (.frcp h f) true
  | .frsq h f => Instr.wfVec (.frsq h f) true
  | .fexp2 h f => Instr.wfVec (.fexp2 h f) true
  | .flog2 h f => Instr.wfVec (.flog2 h f) true
  | .fsin h f => Instr.wfVec (.fsin h f) true
  | .fcos h f => Instr.wfVec (.fcos h f) true
  | .ftanh h f => Instr.wfVec (.ftanh h f) true
  | .frnd h f => Instr.wfVec (.frnd h f) true
  | .ffrc h f => Instr.wfVec (.ffrc h f) true
  | .fscl h f => Instr.wfVec (.fscl h f) true
  | .fexpn h f => Instr.wfVec (.fexpn h f) true
  | .hadd2 h f => Instr.wfVec (.hadd2 h f) true
  | .hmul2 h f => Instr.wfVec (.hmul2 h f) true
  | .hfma2 h f => Instr.wfVec (.hfma2 h f) true
  | .hmin2 h f => Instr.wfVec (.hmin2 h f) true
  | .hmax2 h f => Instr.wfVec (.hmax2 h f) true
  | .dot2h h f => Instr.wfVec (.dot2h h f) true
  | .dot4 h f => Instr.wfVec (.dot4 h f) true
  | .dot8 h f => Instr.wfVec (.dot8 h f) true
  | .cvtff h f => Instr.wfVec (.cvtff h f) true
  | .cvtfi h f => Instr.wfVec (.cvtfi h f) true
  | .cvtif h f => Instr.wfVec (.cvtif h f) true
  | .cvtii h f => Instr.wfVec (.cvtii h f) true
  | .pk2 h f => Instr.wfVec (.pk2 h f) true
  | .unpk2 h f => Instr.wfVec (.unpk2 h f) true
  | .pk4i h f => Instr.wfVec (.pk4i h f) true
  | .unpk4i h f => Instr.wfVec (.unpk4i h f) true
  | .shpack h f => Instr.wfVec (.shpack h f) true
  | .shunpk h f => Instr.wfVec (.shunpk h f) true
  | .shfl h f => Instr.wfVec (.shfl h f) false
  | .shflup h f => Instr.wfVec (.shflup h f) false
  | .shfldn h f => Instr.wfVec (.shfldn h f) false
  | .shflx h f => Instr.wfVec (.shflx h f) false
  | .bcast h f => Instr.wfVec (.bcast h f) false
  | .voteany h f => Instr.wfVec (.voteany h f) false
  | .voteall h f => Instr.wfVec (.voteall h f) false
  | .ballot h f => Instr.wfVec (.ballot h f) false
  | .matchx h f => Instr.wfVec (.matchx h f) false
  | .mrank h f => Instr.wfVec (.mrank h f) false
  | .elect h f => Instr.wfVec (.elect h f) false
  | .redx h f => Instr.wfVec (.redx h f) false
  | .scanx h f => Instr.wfVec (.scanx h f) false
  | .sadd h f => wfS3 h f false
  | .ssub h f => wfS3 h f false
  | .smul h f => wfS3 h f false
  | .sand h f => wfS3 h f false
  | .sor h f => wfS3 h f false
  | .sxor h f => wfS3 h f false
  | .sshl h f => wfS3 h f false
  | .sshr h f => wfS3 h f true
  | .scmp h f => !h.u && tyScalar f.t && scalarSap f.d && scalarSap f.a && scalarSap f.b && decide (f.mod.toNat < 6)
  | .ssel h f => !h.u && tyScalar f.t && scalarSap f.d && scalarSap f.a && scalarSap f.b && decide (f.mod.toNat < 16)
  | .smov h f => !h.u && decide (f.t = .u64) && (scalarSap f.d || scalarM f.d) && (scalarSap f.a || scalarM f.a) && decide (f.b = 0) && decide (f.mod = 0)
  | .smovi h f => !h.u && scalarSap f.d && decide (f.a = 0)
  | .saddi h f => !h.u && scalarSap f.d && scalarSap f.a
  | .rdfirst h f => !h.u && tyScalar f.t && scalarSa f.d && decide (f.a.toNat % f.t.regs = 0) && decide (f.b = 0) && decide (f.mod = 0)
  | .spopc h f => !h.u && decide (f.t = .u64) && scalarSap f.d && scalarSap f.a && decide (f.b = 0) && decide (f.mod = 0)
  | .sctz h f => !h.u && tyScalar f.t && scalarSap f.d && scalarSap f.a && decide (f.b = 0) && decide (f.mod = 0)
  | .aadd h f => !h.u && scalarA f.d && scalarA f.a
  | .mset h f => !h.u && decide (f.t = .u64) && scalarM f.d && scalarS f.a && scalarS f.b && decide (f.mod = 0)
  | .bra h f => !h.u && decide (f.joff = 0)
  | .brx h f => !h.u && scalarSa f.a && decide (f.d = 0) && rfZero f && decide (f.mod = 0)
  | .brd h f => !h.u && decide (f.joff ≠ 0)
  | .join h f => wfB0 h f
  | .call h f => !h.u && decide (f.joff = 0)
  | .ret h f => wfB0 h f
  | .exit h f => wfB0 h f
  | .nop h f => wfB0 h f
  | .sleep h f => !h.u && decide (f.d = 0) && decide (f.a = 0)
  | .yield h f => wfB0 h f
  | .trap h f => !h.u && decide (f.d = 0) && decide (f.a = 0)
  | .tfence h f => wfB0 h f
  | .bkpt h f => !h.u && decide (f.d = 0) && decide (f.a = 0)
  | .ld h f => wfM h f true && dataOk f && decide (f.hint.toNat < 4)
  | .st h f => wfM h f false && dataOk f && decide (f.hint.toNat < 4)
  | .lda h f => wfM h f false && dataOk f && decide (f.sz.toNat < 6) && decide (f.hint.toNat < 7)
  | .stl h f => wfM h f false && dataOk f && decide (f.sz.toNat < 6) && decide (f.hint.toNat < 7)
  | .ldu h f => wfM h f false && scalarSa f.data && decide (f.sz.toNat < 6) && decide (f.hint.toNat < 4)
  | .stu h f => wfM h f false && scalarSa f.data && decide (f.sz.toNat < 6) && decide (f.hint.toNat < 4)
  | .ldnt h f => wfM h f true && dataOk f && decide (f.hint = 0)
  | .stnt h f => wfM h f false && dataOk f && decide (f.hint = 0)
  | .atom h f => wfAtom h f && dataOk f && decide (aop f < 11) && decide (aopLow f = 0)
  | .red h f => wfAtom h f && dataOk f && decide (aop f < 11) && decide (aop f ≠ 8) && decide (aopLow f = 0)
  | .atomf h f => wfAtom h f && dataOk f && decide (aop f < 5) && decide (aopLow f % 8 = 0)
  | .cas h f => wfAtom h f && decide (f.data.toNat % (2 * szRegs f.sz) = 0) && decide (f.off8 = 0)
  | .ored h f => wfAtom h f && decide (aop f < 6) && decide (aopLow f = 0) && decide ((f.sz = 5) ↔ (aop f = 1 ∨ aop f = 3)) &&
      decide (f.data.toNat % (2 * szRegs f.sz) = 0)
  | .sgath h f => wfM h f false && decide (f.sz = 4) && decide (f.hint = 0)
  | .fence h f => !h.u && decide (f.off8.toNat < 4) && decide (f.off8 ≠ 0) && decide (f.hint.toNat < 7) && decide (f.data = 0) &&
      decide (f.areg = 0) && decide (f.x = 0) && decide (f.mreg = 0) && decide (f.inc = 0) && decide (f.sz = 0)
  | .ifence h f => !h.u && decide (f = ⟨0, 0, 0, 0, 0, 0, 0, 0⟩)
  | .pref h f => wfM h f false && decide (f.data = 0) && decide (f.hint.toNat < 2)
  | .resid h f => wfM h f false && decide (f.data = 0) && decide (f.hint.toNat < 3)
  | .clean h f => wfM h f false && decide (f.data = 0) && decide (f.hint = 0)
  | .inval h f => wfM h f false && decide (f.data = 0) && decide (f.hint = 0)
  | .cpy h f => wfCopy h f
  | .cpym h f => wfCopy h f
  | .cpyg h f => wfCopy h f
  | .stage h f => !h.u && cfZero f true && decide (f.flags = 0)
  | .stageInc h f => !h.u && cfZero f false && decide (f.flags = 1)
  | .tagall h f => !h.u && cfZero f true && decide (f.flags = 0)
  | .tagany h f => !h.u && cfZero f true && decide (f.flags = 0)
  | .tagff h f => !h.u && cfZero f true && decide (f.fl 6 8 = 0)
  | .tagclr h f => !h.u && cfZero f true && decide (f.flags = 0)
  | .tagrd h f => !h.u && cfZero f false && decide (f.fl 7 7 = 0)
  | .strmset h f => !h.u && cfZero f true && decide (f.fl 0 12 = 0)
  | .strmgo h f => !h.u && cfZero f false && decide (f.fl 0 12 = 0)
  | .strmpop h f => !h.u && cfZero f false && decide (f.fl 11 1 = 0)
  | .strmpsh h f => !h.u && cfZero f false && decide (f.fl 11 1 = 0)
  | .strmend h f => !h.u && cfZero f false && decide (f.fl 0 12 = 0)
  | .qpush h f => !h.u && cfZero f true && decide (f.fl 6 8 = 0) && decide (f.fl 0 6 % 8 = 0)
  | .qpushClose h f => !h.u && cfZero f true && decide (f.flags = 64)
  | .qpop h f => !h.u && cfZero f true && decide (f.fl 9 5 = 0) && decide (f.fl 0 6 % 8 = 0)
  | .qtry h f => !h.u && cfZero f true && decide (f.fl 9 5 = 0) && decide (f.fl 0 6 % 8 = 0)
  | .qstat h f => !h.u && cfZero f true && decide (f.fl 6 8 = 0)
  | .glean h f => !h.u && cfZero f true && decide (f.fl 9 5 = 0) && decide (f.fl 0 6 % 8 = 0)
  | .gleanDone h f => !h.u && cfZero f true && decide (f.fl 6 8 = 8)
  | .taskarm h f => !h.u && cfZero f true && decide (f.fl 12 2 = 0)
  | .taskdec h f => !h.u && cfZero f false && decide (f.fl 13 1 = 0) && (decide (f.fl 12 1 = 1) || decide (f.fl 6 6 = 0))
  | .spawn h f => !h.u && decide (f.tag = 0) && decide (f.adst = 0) && decide (f.depctr = 0) && decide (f.asrc.toNat < 7) &&
      decide (f.fl 0 11 % 4 = 0)
  | .binfl h f => !h.u && cfZero f true && decide (f.flags = 0)
  | .binflAll h f => !h.u && cfZero f false && decide (f.flags = 1)
  | .mreq h f => xOnly h f false false false 7
  | .reinget h f => xOnly h f false false false 0
  | .reinpass h f => xOnly h f false false false 0
  | .reinrel h f => xOnly h f false false false 0
  | .reinrelKeep h f => xOnly h f false false false 1 && decide (f.xf = 1)
  | .hfeed h f => xOnly h f false true false 11
  | .hdrain h f => xOnly h f true false false 17
  | .mma h f => !h.u && mmaTy f.t && decide (f.xf.toNat < 1024) && (!f.xf.getLsbD 9 || decide (f.t = .s8) || decide (f.t = .u8)) &&
      (if f.xf.getLsbD 7 then decide (f.sb = 0) else decide (f.sa ≠ f.sb))
  | .zzero h f => xOnly h f true false false 0
  | .zscale h f => xOnlyT h f true false false 6 && (decide (f.t = .f32) || decide (f.t = .s32))
  | .zadd h f => xOnlyT h f true false false 5 && (decide (f.t = .f32) || decide (f.t = .s32))
  | .zcvt h f => xOnlyT h f true false false 0 && (decide (f.t = .f32) || decide (f.t = .s32))
  | .zld h f => xOnlyT h f true false false 10 && tileTy f.t
  | .zst h f => xOnlyT h f true false false 10 && tileTy f.t
  | .mwait h f => xOnly h f false false false 0
  | .mstat h f => xOnly h f false false true 7 && (decide (f.shape.toNat < 4) || decide (64 ≤ f.shape.toNat ∧ f.shape.toNat < 128))
  | .osbind h f => xOnly h f false true false 2 && decide (f.xf ≠ 3)
  | .osflush h f => xOnly h f false true false 0
  | .mreset h f => xOnly h f false false false 6
  | .treebind h f => xOnly h f false false false 6
  | .desc h f => !h.u && treeTy f.t && decide (f.sb = 0) && decide (f.shape.toNat < 64) && decide (f.xf.toNat < 2 ^ 18) &&
      (if f.xf.getLsbD 13 then decide (f.z = 0) && decide (f.xf.toNat / 64 % 16 = 0) else decide (f.xf.toNat / 2 ^ 14 = 0))
  | .dstep h f => !h.u && treeTy f.t && decide (f.z = 0) && decide (f.sb = 0) && decide (f.shape.toNat < 64) && decide (f.xf.toNat < 2 ^ 14) &&
      decide (f.xf.toNat / 64 % 16 = 0)
  | .regrp h f => xOnly h f false false false 14
  | .qrd h f => xOnly h f false false true 20 && decide (f.shape.toNat < 17)
  | .qwr h f => xOnly h f false false true 20 && decide (f.shape.toNat < 17)
  | .ascend h f => !h.u && treeTy f.t && decide (f.z = 0) && decide (f.sb = 0) && decide (f.shape.toNat < 64) && decide (f.xf.toNat < 2 ^ 20) &&
      decide (f.xf.toNat / 64 % 16 = 0) && decide (f.xf.toNat / 2 ^ 14 % 2 = 0)
  | .naddr h f => xOnly h f false false true 22 && decide (f.shape.toNat % 8 < 6) && decide (f.shape.toNat / 8 % 2 = 0) &&
      (if f.shape.toNat % 8 = 4 then decide (1 ≤ f.shape.toNat / 16) && decide (f.shape.toNat / 16 ≤ 16) else decide (f.shape.toNat / 16 = 0))
  | .bari h f => wfBar h f && decide (f.d = 0) && scalarS f.a && decide (f.mod.toNat < 32) && (if f.mod.getLsbD 4 then scalarS f.b else decide (f.b = 0))
  | .bara h f => wfBar h f && scalarS f.d && decide (f.a = 0) && decide (f.b = 0) && decide (f.mod.toNat < 16)
  | .barw h f => wfBar h f && decide (f.d = 0) && decide (f.a = 0) && decide (f.b = 0) && decide (f.mod.toNat < 16)
  | .barexp h f => wfBar h f && decide (f.d = 0) && scalarS f.a && decide (f.b = 0) && decide (f.mod.toNat < 16)
  | .barph h f => wfBar h f && decide (f.d = 0) && scalarS f.a && decide (f.b = 0) && decide (f.mod.toNat < 16)
  | .barinv h f => wfBar h f && decide (f.d = 0) && decide (f.a = 0) && decide (f.b = 0) && decide (f.mod.toNat < 16)
  | .gbar h f => wfBar h f && decide (f.d = 0) && scalarS f.a && scalarS f.b && decide (f.mod = 0)
  | .gbarInit h f => wfBar h f && decide (f.d = 0) && scalarS f.a && decide (f.b = 0) && decide (f.mod = 1)
  | .gbarFini h f => wfBar h f && decide (f.d = 0) && scalarS f.a && decide (f.b = 0) && decide (f.mod = 2)
  | .strag h f => wfBar h f && scalarS f.d && scalarS f.a && scalarS f.b && decide (f.mod.toNat < 8)
  | .sread h f => wfBar h f && decide (f.mod.toNat < 27) && decide (f.a = 0) && decide (f.b = 0) && (decide (f.mod = 0) || scalarSa f.d)
  | .swrite h f => wfBar h f && [12, 13, 14, 19].contains f.mod.toNat && scalarS f.a && decide (f.d = 0) && decide (f.b = 0)
  | .rett h f => wfBar h f && decide (f.d = 0) && decide (f.a = 0) && decide (f.b = 0) && decide (f.mod = 0)
  | .rettSkip h f => wfBar h f && decide (f.d = 0) && decide (f.a = 0) && decide (f.b = 0) && decide (f.mod = 1)
  | .rettExit h f => wfBar h f && decide (f.d = 0) && decide (f.a = 0) && decide (f.b = 0) && decide (f.mod = 2)
  | .leave h f => wfBar h f && decide (f.d = 0) && decide (f.a = 0) && decide (f.b = 0) && decide (f.mod = 0)
  | .leaveRel h f => wfBar h f && decide (f.d = 0) && decide (f.a = 0) && decide (f.b = 0) && decide (f.mod = 1)
  | .pwrq h f => wfBar h f && scalarSa f.d && decide (f.a = 0) && decide (f.b = 0) && decide (f.mod.toNat < 11)
  | .halt h f => wfBar h f && scalarS f.d && decide (f.a = 0) && decide (f.b = 0) && decide (f.mod = 0)
  | .haltResume h f => wfBar h f && scalarS f.d && decide (f.a = 0) && decide (f.b = 0) && decide (f.mod = 1)
  | .dbgdrain h f => wfBar h f && scalarS f.d && decide (f.a = 0) && decide (f.b = 0) && decide (f.mod = 0)
  | .tlbinvVa h f => wfBar h f && scalarS f.d && scalarS f.a && decide (f.b = 0) && decide (f.mod = 0)
  | .tlbinvRange h f => wfBar h f && scalarS f.d && scalarS f.a && scalarS f.b && decide (f.mod = 1)
  | .tlbinvCtx h f => wfBar h f && scalarS f.d && decide (f.a = 0) && decide (f.b = 0) && decide (f.mod = 2)
  | .tlbinvAll h f => wfBar h f && decide (f.d = 0) && decide (f.a = 0) && decide (f.b = 0) && decide (f.mod = 3)
  | .create _ => true
  | .start _ => true
  | .suspend _ => true
  | .resume _ => true
  | .teardown _ => true
  | .grant _ => true
  | .teardownComplete _ => true
  | .ldoor _ _ => true
  | .evpendClear _ _ => true
  | .registerWrite _ _ => true
  | .hostSlowWrite _ _ => true
  | .hostSlowRead _ _ => true
  | .unsupportedRequest _ => true
  | .linktrain => true
  | .linkretrain => true
  | .linkrel => true
  | .setfid => true
  | .attest => true
  | .update => true
  | .reset _ => true
  | .powerOn _ => true
  | .startTimeout _ => true
  | .launchPop _ => true
  | .teamPlace _ => true
  | .spanPlace _ => true
  | .groupCreate _ => true
  | .copyPlanIssue _ => true
  | .laneChoose _ => true
  | .headerWaitMet _ => true
  | .regcacheFill _ _ => true
  | .bankReplay _ => true
  | .longLatencyResult _ _ => true
  | .groupRetire _ => true
  | .teamRetire _ => true
  | .launchComplete _ => true
  | .coalesceWindowClose _ => true
  | .storeArriveHome _ => true
  | .wcbDrain _ => true
  | .l1SectorExpire _ _ => true
  | .sliceAtomic _ => true
  | .oredContribution _ => true
  | .uncorrectableError _ => true
  | .pageWalk _ _ _ _ => true
  | .tlbinvComplete _ => true
  | .queueAccept _ => true
  | .claimResult _ => true
  | .taskPush _ => true
  | .copyStart _ => true
  | .copyDelivery _ _ => true
  | .copyComplete _ => true
  | .copyFail _ _ _ => true
  | .streamElement _ _ => true
  | .tileAcquire _ _ => true
  | .reinGrant _ => true
  | .engineCommand _ => true
  | .passStart _ => true
  | .commandRetire _ => true
  | .hfeedAppend _ => true
  | .ascendUpdate _ => true
  | .engineResetComplete _ => true
  | .binTimerExpire _ _ => true
  | .sleepWake _ => true
  | .budgetExhausted _ => true
  | .trapEntry _ => true
  | .notifyActivation _ => true
  | .gbarCombine _ => true
  | .gbarArrival _ => true
  | .slewAdmit => true
  | .preemptWaitExpire _ => true
  | .groupSave _ => true
  | .ptoExpire _ => true
  | .teamSave _ => true
  | .teamRestore _ => true
  | .policyStep => true
  | .voltageRampEnd _ => true
  | .frequencySwitchEnd _ => true
  | .leaveGrant _ => true
  | .droopDetect _ => true
  | .droopEnd _ => true
  | .linkLock _ _ _ _ => true
  | .linkTrainingTimeout _ => true
  | .linkLaneLoss _ _ => true
  | .linkPeerReset _ => true
  | .linkReplayLimit _ => true
  | .flitReceive _ _ _ _ => true
  | .flitNak _ _ => true
  | .flitAck _ _ => true
  | .undervolt _ _ => true
  | .regrpComplete _ => true

end Sys2Proof
end

