-- ==== Sys2Proof/Decode.lean ====
section
/-! DEFINITION. Decoding and encoding of instruction words (03 R63, R68, R70, R71). The opcode map is one list per format;
a word is read field by field, and an opcode, a reserved bit or a field that the spec does not admit is rejected by name
(03 R72). -/

namespace Sys2Proof

/-- Why a word is no instruction (03 R72). -/
inductive Reject where
  /-- the opcode is reserved (03 R71) -/
  | reservedOpcode (op : Nat)
  /-- a reserved field of the format is not zero -/
  | reservedField
  /-- a field holds what the instruction's description does not admit -/
  | notAdmitted (i : Instr)
  deriving DecidableEq, Repr

/-- The rounding code (02 R33). -/
def Rnd.code : Rnd → Nat
  | .rne => 0
  | .rtz => 1
  | .rup => 2
  | .rdn => 3

/-- The rounding mode of a code (02 R33). -/
def Rnd.ofCode (n : Nat) : Rnd :=
  match n % 4 with
  | 0 => .rne
  | 1 => .rtz
  | 2 => .rup
  | _ => .rdn

/-- The opcode of a word (03 R63). -/
def opOf (w : W64) : Nat := (w.extractLsb' 55 9).toNat
/-- The common fields of a word (03 R63). -/
def hdOf (w : W64) : Hd := ⟨w.extractLsb' 51 4, w.getLsbD 50, w.extractLsb' 47 3, w.getLsbD 46⟩
/-- Format V (03 R68). -/
def vfOf (w : W64) : VF :=
  ⟨w.extractLsb' 35 11, w.extractLsb' 24 11, w.extractLsb' 13 11, w.getLsbD 12, w.getLsbD 11,
    Ty.ofCode (w.extractLsb' 7 4).toNat, Rnd.ofCode (w.extractLsb' 5 2).toNat, w.getLsbD 4, w.extractLsb' 0 4⟩
/-- Format I (03 R68). -/
def ifOf (w : W64) : IF := ⟨w.extractLsb' 35 11, w.extractLsb' 24 11, w.extractLsb' 0 24⟩
/-- Format W (03 R68). -/
def wfOf (w : W64) : WF := ⟨w.extractLsb' 35 11, w.extractLsb' 0 32⟩
/-- Format M (03 R68). -/
def mfOf (w : W64) : MF :=
  ⟨w.extractLsb' 35 11, w.extractLsb' 31 4, w.extractLsb' 20 11, w.extractLsb' 16 4, w.extractLsb' 14 2,
    w.extractLsb' 11 3, w.extractLsb' 8 3, w.extractLsb' 0 8⟩
/-- Format C (03 R68). -/
def cfOf (w : W64) : CF :=
  ⟨w.extractLsb' 40 6, w.extractLsb' 34 6, w.extractLsb' 30 4, w.extractLsb' 26 4, w.extractLsb' 14 12, w.extractLsb' 0 14⟩
/-- Format S-r (03 R68). -/
def rfOf (w : W64) : RF :=
  ⟨w.extractLsb' 35 11, w.extractLsb' 24 11, w.extractLsb' 13 11, Ty.ofCode (w.extractLsb' 7 4).toNat, w.extractLsb' 0 7⟩
/-- Format S-i (03 R68). -/
def sfOf (w : W64) : SF := ⟨w.extractLsb' 35 11, w.extractLsb' 24 11, w.extractLsb' 0 24⟩
/-- Format X (03 R68). -/
def xfOf (w : W64) : XF :=
  ⟨w.extractLsb' 41 5, w.extractLsb' 39 2, w.extractLsb' 37 2, Ty.ofCode (w.extractLsb' 33 4).toNat,
    w.extractLsb' 24 9, w.extractLsb' 0 24⟩
/-- Format B (03 R68). -/
def bfOf (w : W64) : BF := ⟨w.extractLsb' 28 18, w.extractLsb' 0 28⟩

/-- The fields of an instruction by format (03 R68). -/
inductive Fields where
  | v (f : VF)
  | i (f : IF)
  | w (f : WF)
  | m (f : MF)
  | c (f : CF)
  | r (f : RF)
  | s (f : SF)
  | x (f : XF)
  | b (f : BF)
  deriving DecidableEq, Repr

/-- The opcode map of format V, part 0 (03 R71). -/
def vMap0 : List (Nat × (Hd → VF → Instr)) :=
  [(0x000, .iadd),
   (0x001, .isub),
   (0x002, .iaddc),
   (0x003, .isubb),
   (0x004, .imul),
   (0x005, .imulh),
   (0x006, .imad),
   (0x007, .imadw),
   (0x008, .idiv),
   (0x009, .irem),
   (0x00A, .ineg),
   (0x00B, .iabs)]
/-- The opcode map of format V, part 1 (03 R71). -/
def vMap1 : List (Nat × (Hd → VF → Instr)) :=
  [(0x00C, .imin),
   (0x00D, .imax),
   (0x00E, .iclamp),
   (0x00F, .isad),
   (0x010, .iand),
   (0x011, .ior),
   (0x012, .ixor),
   (0x013, .andn),
   (0x014, .inot),
   (0x015, .shl),
   (0x016, .shr),
   (0x017, .sar)]
/-- The opcode map of format V, part 2 (03 R71). -/
def vMap2 : List (Nat × (Hd → VF → Instr)) :=
  [(0x018, .rot),
   (0x019, .shld),
   (0x01A, .bfx),
   (0x01B, .bfi),
   (0x01C, .popc),
   (0x01D, .clz),
   (0x01E, .ctz),
   (0x01F, .brev),
   (0x020, .permb),
   (0x021, .sel),
   (0x022, .mov),
   (0x023, .icmp)]
/-- The opcode map of format V, part 3 (03 R71). -/
def vMap3 : List (Nat × (Hd → VF → Instr)) :=
  [(0x024, .iadds),
   (0x040, .fadd),
   (0x041, .fsub),
   (0x042, .fmul),
   (0x043, .ffma),
   (0x044, .ffms),
   (0x045, .fmin),
   (0x046, .fmax),
   (0x047, .fminn),
   (0x048, .fmaxn),
   (0x049, .fabs),
   (0x04A, .fneg)]
/-- The opcode map of format V, part 4 (03 R71). -/
def vMap4 : List (Nat × (Hd → VF → Instr)) :=
  [(0x04B, .fcpys),
   (0x04C, .fcmp),
   (0x04D, .fclass),
   (0x04E, .fdiv),
   (0x04F, .fsqrt),
   (0x050, .frcp),
   (0x051, .frsq),
   (0x052, .fexp2),
   (0x053, .flog2),
   (0x054, .fsin),
   (0x055, .fcos),
   (0x056, .ftanh)]
/-- The opcode map of format V, part 5 (03 R71). -/
def vMap5 : List (Nat × (Hd → VF → Instr)) :=
  [(0x057, .frnd),
   (0x058, .ffrc),
   (0x059, .fscl),
   (0x05A, .fexpn),
   (0x060, .hadd2),
   (0x061, .hmul2),
   (0x062, .hfma2),
   (0x063, .hmin2),
   (0x064, .hmax2),
   (0x065, .dot2h),
   (0x066, .dot4),
   (0x067, .dot8)]
/-- The opcode map of format V, part 6 (03 R71). -/
def vMap6 : List (Nat × (Hd → VF → Instr)) :=
  [(0x080, .cvtff),
   (0x081, .cvtfi),
   (0x082, .cvtif),
   (0x083, .cvtii),
   (0x084, .pk2),
   (0x085, .unpk2),
   (0x086, .pk4i),
   (0x087, .unpk4i),
   (0x088, .shpack),
   (0x089, .shunpk),
   (0x0A0, .shfl),
   (0x0A1, .shflup)]
/-- The opcode map of format V, part 7 (03 R71). -/
def vMap7 : List (Nat × (Hd → VF → Instr)) :=
  [(0x0A2, .shfldn),
   (0x0A3, .shflx),
   (0x0A4, .bcast),
   (0x0A5, .voteany),
   (0x0A6, .voteall),
   (0x0A7, .ballot),
   (0x0A8, .matchx),
   (0x0A9, .mrank),
   (0x0AA, .elect),
   (0x0AB, .redx),
   (0x0AC, .scanx)]
/-- The opcode map of format V (03 R71). -/
def vMap : List (Nat × (Hd → VF → Instr)) :=
  vMap0 ++ vMap1 ++ vMap2 ++ vMap3 ++ vMap4 ++ vMap5 ++ vMap6 ++ vMap7

/-- The opcode map of format I (03 R71). -/
def iMap : List (Nat × (Hd → IF → Instr)) :=
  [(0x028, .iaddi),
   (0x029, .andi),
   (0x02A, .ori),
   (0x02B, .xori),
   (0x02C, .shli),
   (0x02D, .shri),
   (0x02E, .sari),
   (0x02F, .icmpi),
   (0x0E8, .sleep),
   (0x0EA, .trap),
   (0x0EC, .bkpt)]

/-- The opcode map of format W (03 R71). -/
def wMap : List (Nat × (Hd → WF → Instr)) :=
  [(0x030, .movi),
   (0x031, .movhi)]

/-- The opcode map of format M, part 0 (03 R71). -/
def mMap0 : List (Nat × (Hd → MF → Instr)) :=
  [(0x100, .ld),
   (0x101, .st),
   (0x102, .lda),
   (0x103, .stl),
   (0x104, .ldu),
   (0x105, .stu),
   (0x106, .ldnt),
   (0x107, .stnt),
   (0x108, .atom),
   (0x109, .red),
   (0x10A, .atomf),
   (0x10B, .cas)]
/-- The opcode map of format M, part 1 (03 R71). -/
def mMap1 : List (Nat × (Hd → MF → Instr)) :=
  [(0x10C, .ored),
   (0x10D, .sgath),
   (0x10E, .fence),
   (0x10F, .ifence),
   (0x110, .pref),
   (0x111, .resid),
   (0x112, .clean),
   (0x113, .inval)]
/-- The opcode map of format M (03 R71). -/
def mMap : List (Nat × (Hd → MF → Instr)) :=
  mMap0 ++ mMap1

/-- The opcode map of format C, part 0 (03 R71). -/
def cMap0 : List (Nat × (Hd → CF → Instr)) :=
  [(0x140, .cpy),
   (0x141, .cpym),
   (0x142, .cpyg),
   (0x143, fun h f => if f.fl 0 1 = 0 then .stage h f else .stageInc h f),
   (0x144, .tagall),
   (0x145, .tagany),
   (0x146, .tagff),
   (0x147, .tagclr),
   (0x148, .tagrd),
   (0x149, .strmset),
   (0x14A, .strmgo),
   (0x14B, .strmpop)]
/-- The opcode map of format C, part 1 (03 R71). -/
def cMap1 : List (Nat × (Hd → CF → Instr)) :=
  [(0x14C, .strmpsh),
   (0x14D, .strmend),
   (0x14E, fun h f => if f.fl 6 1 = 0 then .qpush h f else .qpushClose h f),
   (0x14F, .qpop),
   (0x150, .qtry),
   (0x151, .qstat),
   (0x152, fun h f => if f.fl 9 1 = 0 then .glean h f else .gleanDone h f),
   (0x153, .taskarm),
   (0x154, .taskdec),
   (0x155, .spawn),
   (0x156, fun h f => if f.fl 0 1 = 0 then .binfl h f else .binflAll h f)]
/-- The opcode map of format C (03 R71). -/
def cMap : List (Nat × (Hd → CF → Instr)) :=
  cMap0 ++ cMap1

/-- The opcode map of format S-r, part 0 (03 R71). -/
def rMap0 : List (Nat × (Hd → RF → Instr)) :=
  [(0x0C0, .sadd),
   (0x0C1, .ssub),
   (0x0C2, .smul),
   (0x0C3, .sand),
   (0x0C4, .sor),
   (0x0C5, .sxor),
   (0x0C6, .sshl),
   (0x0C7, .sshr),
   (0x0C8, .scmp),
   (0x0C9, .ssel),
   (0x0CA, .smov),
   (0x0CD, .rdfirst)]
/-- The opcode map of format S-r, part 1 (03 R71). -/
def rMap1 : List (Nat × (Hd → RF → Instr)) :=
  [(0x0CE, .spopc),
   (0x0CF, .sctz),
   (0x0D1, .mset),
   (0x0E1, .brx),
   (0x190, .bari),
   (0x191, .bara),
   (0x192, .barw),
   (0x193, .barexp),
   (0x194, .barph),
   (0x195, .barinv),
   (0x196, fun h f => if f.mod.toNat % 4 = 0 then .gbar h f else if f.mod.toNat % 4 = 1 then .gbarInit h f else .gbarFini h f),
   (0x197, .strag)]
/-- The opcode map of format S-r, part 2 (03 R71). -/
def rMap2 : List (Nat × (Hd → RF → Instr)) :=
  [(0x1B0, .sread),
   (0x1B1, .swrite),
   (0x1B2, fun h f => if f.mod.toNat % 4 = 0 then .rett h f else if f.mod.toNat % 4 = 1 then .rettSkip h f else .rettExit h f),
   (0x1B3, fun h f => if f.mod.toNat % 2 = 0 then .leave h f else .leaveRel h f),
   (0x1B4, .pwrq),
   (0x1B5, fun h f => if f.mod.toNat % 2 = 0 then .halt h f else .haltResume h f),
   (0x1B6, .dbgdrain),
   (0x1B7, fun h f => if f.mod.toNat % 4 = 0 then .tlbinvVa h f else if f.mod.toNat % 4 = 1 then .tlbinvRange h f else if f.mod.toNat % 4 = 2 then .tlbinvCtx h f else .tlbinvAll h f)]
/-- The opcode map of format S-r (03 R71). -/
def rMap : List (Nat × (Hd → RF → Instr)) :=
  rMap0 ++ rMap1 ++ rMap2

/-- The opcode map of format S-i (03 R71). -/
def sMap : List (Nat × (Hd → SF → Instr)) :=
  [(0x0CB, .smovi),
   (0x0CC, .saddi),
   (0x0D0, .aadd)]

/-- The opcode map of format X, part 0 (03 R71). -/
def xMap0 : List (Nat × (Hd → XF → Instr)) :=
  [(0x160, .mreq),
   (0x161, .reinget),
   (0x162, .reinpass),
   (0x163, fun h f => if f.xf.getLsbD 0 = false then .reinrel h f else .reinrelKeep h f),
   (0x164, .hfeed),
   (0x165, .hdrain),
   (0x166, .mma),
   (0x167, .zzero),
   (0x168, .zscale),
   (0x169, .zadd),
   (0x16A, .zcvt),
   (0x16B, .zld)]
/-- The opcode map of format X, part 1 (03 R71). -/
def xMap1 : List (Nat × (Hd → XF → Instr)) :=
  [(0x16C, .zst),
   (0x16D, .mwait),
   (0x16E, .mstat),
   (0x16F, .osbind),
   (0x170, .osflush),
   (0x171, .mreset),
   (0x180, .treebind),
   (0x181, .desc),
   (0x182, .dstep),
   (0x183, .regrp),
   (0x184, .qrd),
   (0x185, .qwr)]
/-- The opcode map of format X, part 2 (03 R71). -/
def xMap2 : List (Nat × (Hd → XF → Instr)) :=
  [(0x186, .ascend),
   (0x187, .naddr)]
/-- The opcode map of format X (03 R71). -/
def xMap : List (Nat × (Hd → XF → Instr)) :=
  xMap0 ++ xMap1 ++ xMap2

/-- The opcode map of format B (03 R71). -/
def bMap : List (Nat × (Hd → BF → Instr)) :=
  [(0x0E0, .bra),
   (0x0E2, .brd),
   (0x0E3, .join),
   (0x0E4, .call),
   (0x0E5, .ret),
   (0x0E6, .exit),
   (0x0E7, .nop),
   (0x0E9, .yield),
   (0x0EB, .tfence)]

/-- The instruction that the map gives for the opcode and fields. -/
def pick {F : Type} (op : Nat) (h : Hd) (f : F) (m : List (Nat × (Hd → F → Instr))) : Option Instr :=
  (m.lookup op).map (fun c => c h f)

/-- The instruction of a word by its fields alone, with whether the format's reserved bits are zero (03 R68). -/
def rawDecode (w : W64) : Option (Instr × Bool) :=
  let op := opOf w
  let h := hdOf w
  ((pick op h (vfOf w) vMap).map (·, true)) <|>
  ((pick op h (ifOf w) iMap).map (·, true)) <|>
  ((pick op h (wfOf w) wMap).map (·, decide (w.extractLsb' 32 3 = 0))) <|>
  ((pick op h (mfOf w) mMap).map (·, true)) <|>
  ((pick op h (cfOf w) cMap).map (·, true)) <|>
  ((pick op h (rfOf w) rMap).map (·, decide (w.extractLsb' 11 2 = 0))) <|>
  ((pick op h (sfOf w) sMap).map (·, true)) <|>
  ((pick op h (xfOf w) xMap).map (·, true)) <|>
  ((pick op h (bfOf w) bMap).map (·, true))

/-- The instruction of a word, or why it is none (03 R72). -/
def decodeWord (w : W64) : Except Reject Instr :=
  match rawDecode w with
  | none => .error (.reservedOpcode (opOf w))
  | some (i, free) => if !free then .error .reservedField else if i.wf then .ok i else .error (.notAdmitted i)

/-- Eight bytes in ascending address as a word (00 R7). -/
def wordOfBytes (bs : List Byte) : W64 := bs.foldr (fun b a => a <<< 8 ||| b.setWidth 64) 0

/-- A word as eight bytes in ascending address (00 R7). -/
def bytesOfWord (w : W64) : List Byte := (List.range 8).map (fun i => w.extractLsb' (8 * i) 8)

/-- The instruction at the head of a list of bytes, with the bytes after it. -/
def decodeBytes (bs : List Byte) : Except Reject (Instr × List Byte) :=
  if bs.length < 8 then .error .reservedField
  else (decodeWord (wordOfBytes (bs.take 8))).map (fun i => (i, bs.drop 8))

/-- The opcode and the fields of an instruction; the steps of the other agents have none (03 R71). -/
def Instr.parts : Instr → Option (Nat × Hd × Fields)
  | .iadd h f => some (0x000, h, .v f)
  | .isub h f => some (0x001, h, .v f)
  | .iaddc h f => some (0x002, h, .v f)
  | .isubb h f => some (0x003, h, .v f)
  | .imul h f => some (0x004, h, .v f)
  | .imulh h f => some (0x005, h, .v f)
  | .imad h f => some (0x006, h, .v f)
  | .imadw h f => some (0x007, h, .v f)
  | .idiv h f => some (0x008, h, .v f)
  | .irem h f => some (0x009, h, .v f)
  | .ineg h f => some (0x00A, h, .v f)
  | .iabs h f => some (0x00B, h, .v f)
  | .imin h f => some (0x00C, h, .v f)
  | .imax h f => some (0x00D, h, .v f)
  | .iclamp h f => some (0x00E, h, .v f)
  | .isad h f => some (0x00F, h, .v f)
  | .iand h f => some (0x010, h, .v f)
  | .ior h f => some (0x011, h, .v f)
  | .ixor h f => some (0x012, h, .v f)
  | .andn h f => some (0x013, h, .v f)
  | .inot h f => some (0x014, h, .v f)
  | .shl h f => some (0x015, h, .v f)
  | .shr h f => some (0x016, h, .v f)
  | .sar h f => some (0x017, h, .v f)
  | .rot h f => some (0x018, h, .v f)
  | .shld h f => some (0x019, h, .v f)
  | .bfx h f => some (0x01A, h, .v f)
  | .bfi h f => some (0x01B, h, .v f)
  | .popc h f => some (0x01C, h, .v f)
  | .clz h f => some (0x01D, h, .v f)
  | .ctz h f => some (0x01E, h, .v f)
  | .brev h f => some (0x01F, h, .v f)
  | .permb h f => some (0x020, h, .v f)
  | .sel h f => some (0x021, h, .v f)
  | .mov h f => some (0x022, h, .v f)
  | .icmp h f => some (0x023, h, .v f)
  | .iadds h f => some (0x024, h, .v f)
  | .iaddi h f => some (0x028, h, .i f)
  | .andi h f => some (0x029, h, .i f)
  | .ori h f => some (0x02A, h, .i f)
  | .xori h f => some (0x02B, h, .i f)
  | .shli h f => some (0x02C, h, .i f)
  | .shri h f => some (0x02D, h, .i f)
  | .sari h f => some (0x02E, h, .i f)
  | .icmpi h f => some (0x02F, h, .i f)
  | .movi h f => some (0x030, h, .w f)
  | .movhi h f => some (0x031, h, .w f)
  | .fadd h f => some (0x040, h, .v f)
  | .fsub h f => some (0x041, h, .v f)
  | .fmul h f => some (0x042, h, .v f)
  | .ffma h f => some (0x043, h, .v f)
  | .ffms h f => some (0x044, h, .v f)
  | .fmin h f => some (0x045, h, .v f)
  | .fmax h f => some (0x046, h, .v f)
  | .fminn h f => some (0x047, h, .v f)
  | .fmaxn h f => some (0x048, h, .v f)
  | .fabs h f => some (0x049, h, .v f)
  | .fneg h f => some (0x04A, h, .v f)
  | .fcpys h f => some (0x04B, h, .v f)
  | .fcmp h f => some (0x04C, h, .v f)
  | .fclass h f => some (0x04D, h, .v f)
  | .fdiv h f => some (0x04E, h, .v f)
  | .fsqrt h f => some (0x04F, h, .v f)
  | .frcp h f => some (0x050, h, .v f)
  | .frsq h f => some (0x051, h, .v f)
  | .fexp2 h f => some (0x052, h, .v f)
  | .flog2 h f => some (0x053, h, .v f)
  | .fsin h f => some (0x054, h, .v f)
  | .fcos h f => some (0x055, h, .v f)
  | .ftanh h f => some (0x056, h, .v f)
  | .frnd h f => some (0x057, h, .v f)
  | .ffrc h f => some (0x058, h, .v f)
  | .fscl h f => some (0x059, h, .v f)
  | .fexpn h f => some (0x05A, h, .v f)
  | .hadd2 h f => some (0x060, h, .v f)
  | .hmul2 h f => some (0x061, h, .v f)
  | .hfma2 h f => some (0x062, h, .v f)
  | .hmin2 h f => some (0x063, h, .v f)
  | .hmax2 h f => some (0x064, h, .v f)
  | .dot2h h f => some (0x065, h, .v f)
  | .dot4 h f => some (0x066, h, .v f)
  | .dot8 h f => some (0x067, h, .v f)
  | .cvtff h f => some (0x080, h, .v f)
  | .cvtfi h f => some (0x081, h, .v f)
  | .cvtif h f => some (0x082, h, .v f)
  | .cvtii h f => some (0x083, h, .v f)
  | .pk2 h f => some (0x084, h, .v f)
  | .unpk2 h f => some (0x085, h, .v f)
  | .pk4i h f => some (0x086, h, .v f)
  | .unpk4i h f => some (0x087, h, .v f)
  | .shpack h f => some (0x088, h, .v f)
  | .shunpk h f => some (0x089, h, .v f)
  | .shfl h f => some (0x0A0, h, .v f)
  | .shflup h f => some (0x0A1, h, .v f)
  | .shfldn h f => some (0x0A2, h, .v f)
  | .shflx h f => some (0x0A3, h, .v f)
  | .bcast h f => some (0x0A4, h, .v f)
  | .voteany h f => some (0x0A5, h, .v f)
  | .voteall h f => some (0x0A6, h, .v f)
  | .ballot h f => some (0x0A7, h, .v f)
  | .matchx h f => some (0x0A8, h, .v f)
  | .mrank h f => some (0x0A9, h, .v f)
  | .elect h f => some (0x0AA, h, .v f)
  | .redx h f => some (0x0AB, h, .v f)
  | .scanx h f => some (0x0AC, h, .v f)
  | .sadd h f => some (0x0C0, h, .r f)
  | .ssub h f => some (0x0C1, h, .r f)
  | .smul h f => some (0x0C2, h, .r f)
  | .sand h f => some (0x0C3, h, .r f)
  | .sor h f => some (0x0C4, h, .r f)
  | .sxor h f => some (0x0C5, h, .r f)
  | .sshl h f => some (0x0C6, h, .r f)
  | .sshr h f => some (0x0C7, h, .r f)
  | .scmp h f => some (0x0C8, h, .r f)
  | .ssel h f => some (0x0C9, h, .r f)
  | .smov h f => some (0x0CA, h, .r f)
  | .smovi h f => some (0x0CB, h, .s f)
  | .saddi h f => some (0x0CC, h, .s f)
  | .rdfirst h f => some (0x0CD, h, .r f)
  | .spopc h f => some (0x0CE, h, .r f)
  | .sctz h f => some (0x0CF, h, .r f)
  | .aadd h f => some (0x0D0, h, .s f)
  | .mset h f => some (0x0D1, h, .r f)
  | .bra h f => some (0x0E0, h, .b f)
  | .brx h f => some (0x0E1, h, .r f)
  | .brd h f => some (0x0E2, h, .b f)
  | .join h f => some (0x0E3, h, .b f)
  | .call h f => some (0x0E4, h, .b f)
  | .ret h f => some (0x0E5, h, .b f)
  | .exit h f => some (0x0E6, h, .b f)
  | .nop h f => some (0x0E7, h, .b f)
  | .sleep h f => some (0x0E8, h, .i f)
  | .yield h f => some (0x0E9, h, .b f)
  | .trap h f => some (0x0EA, h, .i f)
  | .tfence h f => some (0x0EB, h, .b f)
  | .bkpt h f => some (0x0EC, h, .i f)
  | .ld h f => some (0x100, h, .m f)
  | .st h f => some (0x101, h, .m f)
  | .lda h f => some (0x102, h, .m f)
  | .stl h f => some (0x103, h, .m f)
  | .ldu h f => some (0x104, h, .m f)
  | .stu h f => some (0x105, h, .m f)
  | .ldnt h f => some (0x106, h, .m f)
  | .stnt h f => some (0x107, h, .m f)
  | .atom h f => some (0x108, h, .m f)
  | .red h f => some (0x109, h, .m f)
  | .atomf h f => some (0x10A, h, .m f)
  | .cas h f => some (0x10B, h, .m f)
  | .ored h f => some (0x10C, h, .m f)
  | .sgath h f => some (0x10D, h, .m f)
  | .fence h f => some (0x10E, h, .m f)
  | .ifence h f => some (0x10F, h, .m f)
  | .pref h f => some (0x110, h, .m f)
  | .resid h f => some (0x111, h, .m f)
  | .clean h f => some (0x112, h, .m f)
  | .inval h f => some (0x113, h, .m f)
  | .cpy h f => some (0x140, h, .c f)
  | .cpym h f => some (0x141, h, .c f)
  | .cpyg h f => some (0x142, h, .c f)
  | .stage h f => some (0x143, h, .c f)
  | .stageInc h f => some (0x143, h, .c f)
  | .tagall h f => some (0x144, h, .c f)
  | .tagany h f => some (0x145, h, .c f)
  | .tagff h f => some (0x146, h, .c f)
  | .tagclr h f => some (0x147, h, .c f)
  | .tagrd h f => some (0x148, h, .c f)
  | .strmset h f => some (0x149, h, .c f)
  | .strmgo h f => some (0x14A, h, .c f)
  | .strmpop h f => some (0x14B, h, .c f)
  | .strmpsh h f => some (0x14C, h, .c f)
  | .strmend h f => some (0x14D, h, .c f)
  | .qpush h f => some (0x14E, h, .c f)
  | .qpushClose h f => some (0x14E, h, .c f)
  | .qpop h f => some (0x14F, h, .c f)
  | .qtry h f => some (0x150, h, .c f)
  | .qstat h f => some (0x151, h, .c f)
  | .glean h f => some (0x152, h, .c f)
  | .gleanDone h f => some (0x152, h, .c f)
  | .taskarm h f => some (0x153, h, .c f)
  | .taskdec h f => some (0x154, h, .c f)
  | .spawn h f => some (0x155, h, .c f)
  | .binfl h f => some (0x156, h, .c f)
  | .binflAll h f => some (0x156, h, .c f)
  | .mreq h f => some (0x160, h, .x f)
  | .reinget h f => some (0x161, h, .x f)
  | .reinpass h f => some (0x162, h, .x f)
  | .reinrel h f => some (0x163, h, .x f)
  | .reinrelKeep h f => some (0x163, h, .x f)
  | .hfeed h f => some (0x164, h, .x f)
  | .hdrain h f => some (0x165, h, .x f)
  | .mma h f => some (0x166, h, .x f)
  | .zzero h f => some (0x167, h, .x f)
  | .zscale h f => some (0x168, h, .x f)
  | .zadd h f => some (0x169, h, .x f)
  | .zcvt h f => some (0x16A, h, .x f)
  | .zld h f => some (0x16B, h, .x f)
  | .zst h f => some (0x16C, h, .x f)
  | .mwait h f => some (0x16D, h, .x f)
  | .mstat h f => some (0x16E, h, .x f)
  | .osbind h f => some (0x16F, h, .x f)
  | .osflush h f => some (0x170, h, .x f)
  | .mreset h f => some (0x171, h, .x f)
  | .treebind h f => some (0x180, h, .x f)
  | .desc h f => some (0x181, h, .x f)
  | .dstep h f => some (0x182, h, .x f)
  | .regrp h f => some (0x183, h, .x f)
  | .qrd h f => some (0x184, h, .x f)
  | .qwr h f => some (0x185, h, .x f)
  | .ascend h f => some (0x186, h, .x f)
  | .naddr h f => some (0x187, h, .x f)
  | .bari h f => some (0x190, h, .r f)
  | .bara h f => some (0x191, h, .r f)
  | .barw h f => some (0x192, h, .r f)
  | .barexp h f => some (0x193, h, .r f)
  | .barph h f => some (0x194, h, .r f)
  | .barinv h f => some (0x195, h, .r f)
  | .gbar h f => some (0x196, h, .r f)
  | .gbarInit h f => some (0x196, h, .r f)
  | .gbarFini h f => some (0x196, h, .r f)
  | .strag h f => some (0x197, h, .r f)
  | .sread h f => some (0x1B0, h, .r f)
  | .swrite h f => some (0x1B1, h, .r f)
  | .rett h f => some (0x1B2, h, .r f)
  | .rettSkip h f => some (0x1B2, h, .r f)
  | .rettExit h f => some (0x1B2, h, .r f)
  | .leave h f => some (0x1B3, h, .r f)
  | .leaveRel h f => some (0x1B3, h, .r f)
  | .pwrq h f => some (0x1B4, h, .r f)
  | .halt h f => some (0x1B5, h, .r f)
  | .haltResume h f => some (0x1B5, h, .r f)
  | .dbgdrain h f => some (0x1B6, h, .r f)
  | .tlbinvVa h f => some (0x1B7, h, .r f)
  | .tlbinvRange h f => some (0x1B7, h, .r f)
  | .tlbinvCtx h f => some (0x1B7, h, .r f)
  | .tlbinvAll h f => some (0x1B7, h, .r f)
  | .create _ => none
  | .start _ => none
  | .suspend _ => none
  | .resume _ => none
  | .teardown _ => none
  | .grant _ => none
  | .teardownComplete _ => none
  | .ldoor _ _ => none
  | .evpendClear _ _ => none
  | .registerWrite _ _ => none
  | .hostSlowWrite _ _ => none
  | .hostSlowRead _ _ => none
  | .unsupportedRequest _ => none
  | .linktrain => none
  | .linkretrain => none
  | .linkrel => none
  | .setfid => none
  | .attest => none
  | .update => none
  | .reset _ => none
  | .powerOn _ => none
  | .startTimeout _ => none
  | .launchPop _ => none
  | .teamPlace _ => none
  | .spanPlace _ => none
  | .groupCreate _ => none
  | .copyPlanIssue _ => none
  | .laneChoose _ => none
  | .headerWaitMet _ => none
  | .regcacheFill _ _ => none
  | .bankReplay _ => none
  | .longLatencyResult _ _ => none
  | .groupRetire _ => none
  | .teamRetire _ => none
  | .launchComplete _ => none
  | .coalesceWindowClose _ => none
  | .storeArriveHome _ => none
  | .wcbDrain _ => none
  | .l1SectorExpire _ _ => none
  | .sliceAtomic _ => none
  | .oredContribution _ => none
  | .uncorrectableError _ => none
  | .pageWalk _ _ _ _ => none
  | .tlbinvComplete _ => none
  | .queueAccept _ => none
  | .claimResult _ => none
  | .taskPush _ => none
  | .copyStart _ => none
  | .copyDelivery _ _ => none
  | .copyComplete _ => none
  | .copyFail _ _ _ => none
  | .streamElement _ _ => none
  | .tileAcquire _ _ => none
  | .reinGrant _ => none
  | .engineCommand _ => none
  | .passStart _ => none
  | .commandRetire _ => none
  | .hfeedAppend _ => none
  | .ascendUpdate _ => none
  | .engineResetComplete _ => none
  | .binTimerExpire _ _ => none
  | .sleepWake _ => none
  | .budgetExhausted _ => none
  | .trapEntry _ => none
  | .notifyActivation _ => none
  | .gbarCombine _ => none
  | .gbarArrival _ => none
  | .slewAdmit => none
  | .preemptWaitExpire _ => none
  | .groupSave _ => none
  | .ptoExpire _ => none
  | .teamSave _ => none
  | .teamRestore _ => none
  | .policyStep => none
  | .voltageRampEnd _ => none
  | .frequencySwitchEnd _ => none
  | .leaveGrant _ => none
  | .droopDetect _ => none
  | .droopEnd _ => none
  | .linkLock _ _ _ _ => none
  | .linkTrainingTimeout _ => none
  | .linkLaneLoss _ _ => none
  | .linkPeerReset _ => none
  | .linkReplayLimit _ => none
  | .flitReceive _ _ _ _ => none
  | .flitNak _ _ => none
  | .flitAck _ _ => none
  | .undervolt _ _ => none
  | .regrpComplete _ => none

/-- The common fields of a word of the opcode (03 R63). -/
def encodeHd (op : Nat) (h : Hd) : BitVec 18 :=
  BitVec.ofNat 9 op ++ h.la ++ BitVec.ofBool h.u ++ h.pred ++ BitVec.ofBool h.pn

/-- The format bits of a word (03 R68). -/
def encodeFields : Fields → BitVec 46
  | .v f => f.d ++ f.a ++ f.b ++ BitVec.ofBool f.ka ++ BitVec.ofBool f.kb ++ BitVec.ofNat 4 f.t.code ++
      BitVec.ofNat 2 f.rnd.code ++ BitVec.ofBool f.sat ++ f.sub
  | .i f => f.d ++ f.a ++ f.imm
  | .w f => f.d ++ (0 : BitVec 3) ++ f.imm
  | .m f => f.data ++ f.areg ++ f.x ++ f.mreg ++ f.inc ++ f.sz ++ f.hint ++ f.off8
  | .c f => f.tag ++ f.sdesc ++ f.asrc ++ f.adst ++ f.depctr ++ f.flags
  | .r f => f.d ++ f.a ++ f.b ++ (0 : BitVec 2) ++ BitVec.ofNat 4 f.t.code ++ f.mod
  | .s f => f.d ++ f.a ++ f.imm
  | .x f => f.z ++ f.sa ++ f.sb ++ BitVec.ofNat 4 f.t.code ++ f.shape ++ f.xf
  | .b f => f.joff ++ f.off

/-- The word of an instruction (03 R63, R68); the steps of the other agents have none. -/
def encode (i : Instr) : Option W64 :=
  i.parts.map (fun p => encodeHd p.1 p.2.1 ++ encodeFields p.2.2)

/-- The fields of a clause header (03 R55). -/
structure Header where
  magic : BitVec 4
  n     : Nat
  mask  : BitVec 6
  wstore : Bool
  wmx   : Bool
  wla   : Bool
  live  : Nat
  ucl   : Bool
  rsv   : BitVec 34
  deriving DecidableEq, Repr

/-- A word read as a clause header (03 R55). -/
def headerOf (w : W64) : Header :=
  { magic := w.extractLsb' 60 4, n := (w.extractLsb' 56 4).toNat + 1, mask := w.extractLsb' 50 6,
    wstore := w.getLsbD 49, wmx := w.getLsbD 48, wla := w.getLsbD 47, live := (w.extractLsb' 35 12).toNat,
    ucl := w.getLsbD 34, rsv := w.extractLsb' 0 34 }

/-- The CLASSMASK bit that the class of an opcode needs (03 R55, R71): none for control and for reserved opcodes. -/
def classBit (op : Nat) : Option Nat :=
  if (vMap.lookup op).isSome || (wMap.lookup op).isSome || ((iMap.lookup op).isSome && decide (op < 0x30)) ||
      (((rMap.lookup op).isSome || (sMap.lookup op).isSome) && decide (op < 0xE0)) then some 0
  else if (mMap.lookup op).isSome then some 1
  else if (cMap.lookup op).isSome then some 2
  else if (xMap.lookup op).isSome then some 3
  else if (rMap.lookup op).isSome && decide (0x190 ≤ op) && decide (op < 0x1A0) then some 4
  else if (rMap.lookup op).isSome && decide (0x1B0 ≤ op) then some 5
  else none

/-- Whether the opcode may stand only last in its clause (03 R57). -/
def lastOnly (op : Nat) : Bool := [0xE0, 0xE1, 0xE2, 0xE3, 0xE4, 0xE5].contains op

/-- The instruction that the decoder reads from the 64 bits w of a word, bit 0 lowest (03 R63). -/
def decodeTableWord (_nbits w : Nat) : Option Instr :=
  match decodeWord (BitVec.ofNat 64 w) with
  | .ok i => some i
  | .error _ => none

end Sys2Proof
end

