-- ==== Sys2Proof/Machine/Flags.lean ====
section
/-! DEFINITION. The sticky flags (02 R53), saturation of integers (02 R31) and the relations of compares (07 R152). -/

namespace Sys2Proof.Machine

/-- The seven sticky flags in the layout of FLAGS (02 R53). -/
abbrev Flags := BitVec 7
/-- Invalid operation (02 R53). -/
def flNV : Flags := 1
/-- Divide by zero (02 R53). -/
def flDZ : Flags := 2
/-- Overflow (02 R53). -/
def flOF : Flags := 4
/-- Underflow (02 R53). -/
def flUF : Flags := 8
/-- Inexact (02 R53). -/
def flNX : Flags := 16
/-- Integer overflow (02 R53). -/
def flIV : Flags := 32
/-- Sheaf saturation (02 R53). -/
def flSS : Flags := 64
/-- The flag where the condition holds, no flag otherwise. -/
def flagIf (c : Bool) (f : Flags) : Flags := if c then f else 0

/-- The least value of an integer type (02 R27). -/
def intMin (t : Ty) : Int := if t.signed then -(2 ^ (t.bits - 1)) else 0
/-- The greatest value of an integer type (02 R27). -/
def intMax (t : Ty) : Int := if t.signed then 2 ^ (t.bits - 1) - 1 else 2 ^ t.bits - 1

/-- An exact integer result in its type: clamped with IV under SAT where it leaves the type (02 R31), else as it is, to be
wrapped when it is written. -/
def saturate (t : Ty) (sat : Bool) (v : Int) : Int × Flags :=
  if !sat then (v, 0)
  else if v < intMin t then (intMin t, flIV)
  else if intMax t < v then (intMax t, flIV)
  else (v, 0)

/-- The relations 0 EQ, 1 NE, 2 LT, 3 LE, 4 GT, 5 GE (07 R152). -/
def intRel (rel : Nat) (x y : Int) : Bool :=
  match rel with
  | 0 => decide (x = y)
  | 1 => decide (x ≠ y)
  | 2 => decide (x < y)
  | 3 => decide (x ≤ y)
  | 4 => decide (y < x)
  | _ => decide (y ≤ x)

end Sys2Proof.Machine
end

