-- ==== Sys2Proof/Machine/Float.lean ====
section
/-! DEFINITION. Binary floating point (02 R32 to R42): every result is computed exactly as a dyadic number and rounded
once. A value that is not dyadic (a quotient, a square root, a function of R42) is first cut to more bits than any format
holds, with a lowest bit that says that something was cut off. -/

namespace Sys2Proof.Machine

/-- A binary floating-point format: exponent bits and fraction bits (02 R32). -/
structure FFmt where
  eb : Nat
  fb : Nat
  deriving DecidableEq, Repr

/-- binary16 (02 R32). -/
def fmtF16 : FFmt := ⟨5, 10⟩
/-- bf16 (02 R32). -/
def fmtBF16 : FFmt := ⟨8, 7⟩
/-- binary32 (02 R32). -/
def fmtF32 : FFmt := ⟨8, 23⟩
/-- binary64 (02 R32). -/
def fmtF64 : FFmt := ⟨11, 52⟩

/-- The format of a floating-point type code (02 R27); other codes never reach it. -/
def fmtOf : Ty → FFmt
  | .f16 => fmtF16
  | .bf16 => fmtBF16
  | .f64 => fmtF64
  | _ => fmtF32

/-- The bias, which is also the largest exponent (02 R32). -/
def fBias (f : FFmt) : Int := 2 ^ (f.eb - 1) - 1
/-- The exponent of the smallest normal number (02 R32). -/
def fEmin (f : FFmt) : Int := 1 - fBias f
/-- The sign bit of the format. -/
def fSign (f : FFmt) (neg : Bool) : Nat := if neg then 2 ^ (f.eb + f.fb) else 0
/-- Infinity of the given sign. -/
def fInf (f : FFmt) (neg : Bool) : Nat := fSign f neg + (2 ^ f.eb - 1) * 2 ^ f.fb
/-- The largest finite magnitude with the given sign (02 R32). -/
def fMax (f : FFmt) (neg : Bool) : Nat := fSign f neg + (2 ^ f.eb - 1) * 2 ^ f.fb - 1
/-- The canonical NaN (02 R32, R37). -/
def fNaN (f : FFmt) : Nat := (2 ^ f.eb - 1) * 2 ^ f.fb + 2 ^ (f.fb - 1)

/-- A decoded operand: a NaN (signalling or not), an infinity, or a sign with m times 2 to the e. -/
inductive FVal where
  | nan (sig : Bool)
  | inf (neg : Bool)
  | fin (neg : Bool) (m : Nat) (e : Int)
  deriving DecidableEq, Repr

/-- The value of a word of the format (02 R32). -/
def fDecode (f : FFmt) (w : Nat) : FVal :=
  let neg := w.testBit (f.eb + f.fb)
  let ex := w / 2 ^ f.fb % 2 ^ f.eb
  let fr := w % 2 ^ f.fb
  if ex = 2 ^ f.eb - 1 then
    if fr = 0 then .inf neg else .nan (fr < 2 ^ (f.fb - 1))
  else if ex = 0 then .fin neg fr (fEmin f - f.fb)
  else .fin neg (2 ^ f.fb + fr) (fEmin f - f.fb + (ex - 1))

/-- A source operand as read under the flush control: a subnormal is then a zero of the same sign (02 R36). -/
def fRead (f : FFmt) (flush : Bool) (w : Nat) : FVal :=
  match fDecode f w with
  | .fin neg m e => if flush && decide (m < 2 ^ f.fb) then .fin neg 0 e else .fin neg m e
  | v => v

/-- m times 2 to the minus k, rounded to an integer in the mode (02 R33). -/
def roundInt (rnd : Rnd) (neg : Bool) (m k : Nat) : Nat :=
  let k := min k (m.log2 + 2)
  let q := m / 2 ^ k
  let r := m % 2 ^ k
  let half := 2 ^ (k - 1)
  let up := match rnd with
    | .rne => decide (0 < k) && (decide (half < r) || (decide (r = half) && decide (q % 2 = 1)))
    | .rtz => false
    | .rup => decide (r ≠ 0) && !neg
    | .rdn => decide (r ≠ 0) && neg
  if up then q + 1 else q

/-- Whether m times 2 to the minus k is not an integer. -/
def cutOff (m k : Nat) : Bool := decide (m % 2 ^ (min k (m.log2 + 2)) ≠ 0)

/-- The result of an overflow (02 R35): by the mode, or the largest finite magnitude under SAT. -/
def fOver (f : FFmt) (rnd : Rnd) (sat neg : Bool) : Nat :=
  let toInf := match rnd with
    | .rne => true
    | .rtz => false
    | .rup => !neg
    | .rdn => neg
  if toInf && !sat then fInf f neg else fMax f neg

/-- m times 2 to the e with its sign, rounded once into the format (02 R35, R36). -/
def fRound (f : FFmt) (rnd : Rnd) (sat flush : Bool) (neg : Bool) (m : Nat) (e : Int) : Nat × Flags :=
  if m = 0 then (fSign f neg, 0) else
  let x : Int := m.log2 + e
  let qmin : Int := fEmin f - f.fb
  let qu : Int := x - f.fb
  let q : Int := max qu qmin
  let at' := fun (qq : Int) => if qq ≤ e then m * 2 ^ (e - qq).toNat else roundInt rnd neg m (qq - e).toNat
  let n := at' q
  let nx := decide (e < q) && cutOff m (q - e).toNat
  if fBias f < (n.log2 : Int) + q ∧ n ≠ 0 then (fOver f rnd sat neg, flOF ||| flNX)
  else if flush && decide (n < 2 ^ f.fb) then (fSign f neg, flUF ||| flNX)
  else
    let tiny := decide (((at' qu).log2 : Int) + qu < fEmin f)
    (fSign f neg + (q - qmin).toNat * 2 ^ f.fb + n, flagIf nx flNX ||| flagIf (nx && tiny) flUF)

/-- How an instruction rounds: the mode, SAT, and the flush control of its type. -/
structure RMode where
  rnd   : Rnd
  sat   : Bool
  flush : Bool
  deriving DecidableEq, Repr

/-- A decoded value rounded into the format. -/
def fPut (f : FFmt) (md : RMode) : FVal → Nat × Flags
  | .nan s => (fNaN f, flagIf s flNV)
  | .inf neg => (fInf f neg, 0)
  | .fin neg m e => fRound f md.rnd md.sat md.flush neg m e

/-- The signed integer of a dyadic number at a common exponent. -/
def dyInt (neg : Bool) (m : Nat) (e e0 : Int) : Int :=
  let v : Int := m * 2 ^ (e - e0).toNat
  if neg then -v else v

/-- The smallest exponent of a list of dyadic numbers. -/
def dyMin : List (Bool × Nat × Int) → Int
  | [] => 0
  | [t] => t.2.2
  | t :: ts => min t.2.2 (dyMin ts)

/-- The exact sum of dyadic numbers, as an integer at their smallest exponent. -/
def dySum (ts : List (Bool × Nat × Int)) : Int × Int :=
  let e0 := dyMin ts
  ((ts.map (fun t => dyInt t.1 t.2.1 t.2.2 e0)).foldl (· + ·) 0, e0)

/-- The terms of a sum: their NaNs, infinities and finite values. -/
structure Terms where
  nan  : Bool
  sig  : Bool
  pinf : Bool
  ninf : Bool
  fins : List (Bool × Nat × Int)
  deriving DecidableEq, Repr

/-- One more term of a sum. -/
def addTerm (a : Terms) : FVal → Terms
  | .nan s => { a with nan := true, sig := a.sig || s }
  | .inf true => { a with ninf := true }
  | .inf false => { a with pinf := true }
  | .fin neg m e => { a with fins := a.fins ++ [(neg, m, e)] }

/-- The exact sum of terms, with its flags before rounding (02 R37). A sum that is exactly zero is a zero of the common
sign of its terms where they are zeros of one sign, else +0, or -0 in the RDN mode (IEEE 754, 02 R32). -/
def fSum (rnd : Rnd) (ts : List FVal) : FVal × Flags :=
  let a := ts.foldl addTerm ⟨false, false, false, false, []⟩
  let bad := a.pinf && a.ninf
  if a.nan || bad then (.nan false, flagIf (a.sig || bad) flNV)
  else if a.pinf then (.inf false, 0)
  else if a.ninf then (.inf true, 0)
  else
    let (v, e) := dySum a.fins
    if v = 0 then
      let allNeg := a.fins.all (fun t => t.1)
      let allPos := a.fins.all (fun t => !t.1)
      (.fin (if allNeg then true else if allPos then false else decide (rnd = .rdn)) 0 0, 0)
    else (.fin (decide (v < 0)) v.natAbs e, 0)

/-- The exact product (02 R37). -/
def fProd : FVal → FVal → FVal × Flags
  | .nan s, .nan s' => (.nan false, flagIf (s || s') flNV)
  | .nan s, _ => (.nan false, flagIf s flNV)
  | _, .nan s => (.nan false, flagIf s flNV)
  | .inf n, .inf n' => (.inf (n != n'), 0)
  | .inf n, .fin n' m _ => if m = 0 then (.nan false, flNV) else (.inf (n != n'), 0)
  | .fin n m _, .inf n' => if m = 0 then (.nan false, flNV) else (.inf (n != n'), 0)
  | .fin n m e, .fin n' m' e' => (.fin (n != n') (m * m') (e + e'), 0)

/-- The value with its sign inverted. -/
def fNegV : FVal → FVal
  | .nan s => .nan s
  | .inf n => .inf (!n)
  | .fin n m e => .fin (!n) m e

/-- x + y (07 R155). -/
def fAdd (f : FFmt) (md : RMode) (x y : FVal) : Nat × Flags :=
  let (v, fl) := fSum md.rnd [x, y]
  let (r, fl') := fPut f md v
  (r, fl ||| fl')

/-- x times y (07 R155). -/
def fMul (f : FFmt) (md : RMode) (x y : FVal) : Nat × Flags :=
  let (v, fl) := fProd x y
  let (r, fl') := fPut f md v
  (r, fl ||| fl')

/-- x times y plus d with one rounding (07 R155). -/
def fFma (f : FFmt) (md : RMode) (x y d : FVal) : Nat × Flags :=
  let (p, fl) := fProd x y
  let (v, fl') := fSum md.rnd [p, d]
  let (r, fl'') := fPut f md v
  (r, fl ||| fl' ||| fl'')

/-- d plus two products with one rounding (07 R158 DOT2H). -/
def fDot2 (f : FFmt) (md : RMode) (d x0 y0 x1 y1 : FVal) : Nat × Flags :=
  let (p, fl) := fProd x0 y0
  let (q, fl') := fProd x1 y1
  let (v, fl'') := fSum md.rnd [d, p, q]
  let (r, fl3) := fPut f md v
  (r, fl ||| fl' ||| fl'' ||| fl3)

/-- A quotient of naturals as a dyadic number with more bits than any format holds; the lowest bit says that something
was cut off. -/
def dyQuot (a b : Nat) (extra : Nat) : Nat × Int :=
  let s := extra + b.log2
  let q := a * 2 ^ s / b
  if a * 2 ^ s % b = 0 then (q, -(s : Int)) else (4 * q + 1, -(s : Int) - 2)

/-- x / y, correctly rounded (02 R41, 07 R155). -/
def fDiv (f : FFmt) (md : RMode) : FVal → FVal → Nat × Flags
  | .nan s, .nan s' => (fNaN f, flagIf (s || s') flNV)
  | .nan s, _ => (fNaN f, flagIf s flNV)
  | _, .nan s => (fNaN f, flagIf s flNV)
  | .inf _, .inf _ => (fNaN f, flNV)
  | .inf n, .fin n' _ _ => (fInf f (n != n'), 0)
  | .fin n _ _, .inf n' => (fSign f (n != n'), 0)
  | .fin n m e, .fin n' m' e' =>
    if m' = 0 then
      if m = 0 then (fNaN f, flNV) else (fInf f (n != n'), flDZ)
    else if m = 0 then (fSign f (n != n'), 0)
    else
      let (q, k) := dyQuot m m' (f.fb + 6)
      fRound f md.rnd md.sat md.flush (n != n') q (e - e' + k)

/-- The integer square root by binary digits, k digits from the top. -/
def isqrtGo : Nat → Nat → Nat → Nat
  | 0, _, r => r
  | k + 1, n, r => if (r + 2 ^ k) * (r + 2 ^ k) ≤ n then isqrtGo k n (r + 2 ^ k) else isqrtGo k n r

/-- The integer part of the square root. -/
def isqrt (n : Nat) : Nat := isqrtGo (n.log2 / 2 + 1) n 0

/-- The square root, correctly rounded; of -0 it is -0 (02 R41, 07 R155). -/
def fSqrt (f : FFmt) (md : RMode) : FVal → Nat × Flags
  | .nan s => (fNaN f, flagIf s flNV)
  | .inf true => (fNaN f, flNV)
  | .inf false => (fInf f false, 0)
  | .fin n m e =>
    if m = 0 then (fSign f n, 0)
    else if n then (fNaN f, flNV)
    else
      let k := 2 * (f.fb + 6) + (e % 2).toNat
      let m' := m * 2 ^ k
      let r := isqrt m'
      let h : Int := (e - k) / 2
      if r * r = m' then fRound f md.rnd md.sat md.flush false r h
      else fRound f md.rnd md.sat md.flush false (4 * r + 1) (h - 2)

/-- The order of two values that are not NaN; zeros of either sign are equal. -/
def fCmp : FVal → FVal → Ordering
  | .inf n, .inf n' => if n = n' then .eq else if n then .lt else .gt
  | .inf n, _ => if n then .lt else .gt
  | _, .inf n => if n then .gt else .lt
  | .fin n m e, .fin n' m' e' =>
    let e0 := min e e'
    compare (dyInt n m e e0) (dyInt n' m' e' e0)
  | _, _ => .eq

/-- Whether a decoded value is a NaN. -/
def fIsNaN : FVal → Bool
  | .nan _ => true
  | _ => false

/-- Whether a decoded value is a signalling NaN. -/
def fIsSig : FVal → Bool
  | .nan s => s
  | _ => false

/-- The sign of a value that is not a NaN. -/
def fNeg? : FVal → Bool
  | .nan _ => false
  | .inf n => n
  | .fin n _ _ => n

/-- Minimum and maximum (02 R38): which of them, and whether a number is preferred to a NaN. -/
def fMinMax (f : FFmt) (md : RMode) (isMax num : Bool) (x y : FVal) : Nat × Flags :=
  let fl := flagIf (fIsSig x || fIsSig y) flNV
  let pick :=
    if fIsNaN x || fIsNaN y then
      if num && !fIsNaN x then x else if num && !fIsNaN y then y else .nan false
    else match fCmp x y with
      | .lt => if isMax then y else x
      | .gt => if isMax then x else y
      | .eq => if fNeg? x = isMax then y else x
  let (r, fl') := fPut f md pick
  (r, fl ||| fl')

/-- The relations of FCMP: 0 eq, 1 ne, 2 lt, 3 le, 4 gt, 5 ge, 6 ord, 7 unord (07 R156, 02 R39). -/
def fRel (rel : Nat) (x y : FVal) : Bool × Flags :=
  let un := fIsNaN x || fIsNaN y
  let sig := fIsSig x || fIsSig y
  let o := fCmp x y
  let res := match rel with
    | 0 => !un && decide (o = .eq)
    | 1 => un || decide (o ≠ .eq)
    | 2 => !un && decide (o = .lt)
    | 3 => !un && decide (o ≠ .gt)
    | 4 => !un && decide (o = .gt)
    | 5 => !un && decide (o ≠ .lt)
    | 6 => !un
    | _ => un
  (res, flagIf (sig || (un && decide (2 ≤ rel) && decide (rel ≤ 5))) flNV)

/-- The class mask of FCLASS (07 R156). -/
def fClass (f : FFmt) (w : Nat) : Nat :=
  match fDecode f w with
  | .nan true => 1
  | .nan false => 2
  | .inf true => 4
  | .inf false => 512
  | .fin neg m _ =>
    if m = 0 then (if neg then 32 else 64)
    else if m < 2 ^ f.fb then (if neg then 16 else 128)
    else (if neg then 8 else 256)

/-- FRND (07 R157). -/
def fRnd (f : FFmt) (md : RMode) (exact : Bool) : FVal → Nat × Flags
  | .nan s => (fNaN f, flagIf s flNV)
  | .inf n => (fInf f n, 0)
  | .fin n m e =>
    if 0 ≤ e ∨ m = 0 then fRound f .rne false false n m e
    else
      let q := roundInt md.rnd n m (-e).toNat
      ((fRound f .rne false false n q 0).1, flagIf (exact && cutOff m (-e).toNat) flNX)

/-- FFRC (07 R157). -/
def fFrac (f : FFmt) (md : RMode) : FVal → Nat × Flags
  | .nan s => (fNaN f, flagIf s flNV)
  | .inf _ => (fNaN f, flNV)
  | .fin n m e => if 0 ≤ e then (fSign f n, 0) else fRound f .rne false md.flush n (m % 2 ^ (-e).toNat) e

/-- FSCL (07 R157). -/
def fScale (f : FFmt) (md : RMode) (k : Int) : FVal → Nat × Flags
  | .fin n m e => fPut f md (.fin n m (e + k))
  | v => fPut f md v

/-- FEXPN (07 R157): the exponent as an integer. -/
def fExpn : FVal → Int × Flags
  | .nan _ => (-0x80000000, flNV)
  | .inf _ => (0x7FFFFFFF, 0)
  | .fin _ m e => if m = 0 then (-0x80000000, flDZ) else ((m.log2 : Int) + e, 0)

/-- Float to integer (02 R40), between the ends of the type's range. -/
def fToInt (rnd : Rnd) (lo hi : Int) : FVal → Int × Flags
  | .nan _ => (0, flNV)
  | .inf n => (if n then lo else hi, flNV)
  | .fin n m e =>
    if 64 < (m.log2 : Int) + e then (if m = 0 then (0, 0) else (if n then lo else hi, flNV))
    else
      let q : Nat := if 0 ≤ e then m * 2 ^ e.toNat else roundInt rnd n m (-e).toNat
      let v : Int := if n then -(q : Int) else q
      if v < lo then (lo, flNV)
      else if hi < v then (hi, flNV)
      else (v, flagIf (decide (e < 0) && cutOff m (-e).toNat) flNX)

/-- Integer to float (02 R40). -/
def fOfInt (f : FFmt) (md : RMode) (v : Int) : Nat × Flags :=
  fRound f md.rnd md.sat md.flush (decide (v < 0)) v.natAbs 0

end Sys2Proof.Machine
end

