-- ==== Sys2Proof/Machine/State.lean ====
section
/-! DEFINITION. The state of the machine as plain data: every piece of state that the spec gives it, and the few fields of
the model's own that INVENTORY.md marks as such (which agent moves next, the identities the device keeps, the counter that
selects free values). -/

namespace Sys2Proof.Machine

/-- Why the machine stops: the model's own reasons, never a fault of the hardware, whose faults are taken as next states. -/
inductive Fault where
  /-- Raised by a meaning: an instruction of a group while no group has its turn. Safe: the hardware has no such step. -/
  | noGroup
  /-- Raised by a meaning: a step of another agent names an object that does not exist. Safe, for the same reason. -/
  | noObject
  /-- Raised by a meaning: a step of another agent is named where its condition does not hold. Safe, for the same reason. -/
  | notEnabled
  deriving DecidableEq, Repr

/-- What the model gives no meaning. -/
inductive Refusal where
  /-- Raised by the dispatcher: the instruction has no meaning in the model. Safe: nothing can be proved of it. -/
  | notModelled (mnemonic : String)
  deriving DecidableEq, Repr

/-- The states of a group (06 R115); a retired group is no longer in the state. -/
inductive GSt where
  | pending | ready | running | waiting | parked | retiring | saved
  deriving DecidableEq, Repr

/-- The tag of a register line (06 R120). -/
inductive SclTag where
  | uniform (c : W32)
  | affine (b d : W32)
  | general
  deriving DecidableEq, Repr

/-- A line of the register cache (06 R122): the register, its words by thread, whether it differs from the frame, when it
was last used, its tag. -/
structure Line where
  reg   : Nat
  data  : List W32
  dirty : Bool
  use   : Nat
  tag   : SclTag
  deriving DecidableEq, Repr

/-- A result held in the forwarding window (06 R126): the register, the whole line, how many instructions ago it was made. -/
structure Held where
  reg  : Nat
  data : List W32
  age  : Nat
  tag  : SclTag
  deriving DecidableEq, Repr

/-- An outstanding long-latency result (03 R66): how many more instructions may issue before it is written, how many parts
of it are still to come, the registers it will write, the parts that have come, and for an acquire load its scope plus one
(09 R211), else zero; and whether it was issued once for every active thread, so that its lines become UNIFORM (06 R120); the
tile that it writes; whether it is that of a QPOP, and the threads that were active at its issue (12 R305, R306); and the thread whose
atomic at another device must have been performed before its instruction goes on (09 R204). -/
structure LL where
  key   : Nat
  left  : Nat
  need  : Nat
  vregs : List Nat
  sregs : List Nat
  pred  : Option Nat
  vec   : List (Nat × Nat × W32)
  scl   : List (Nat × W64)
  pval  : Bool
  flags : Flags
  acq   : Nat := 0
  uni   : Bool := false
  tile  : Option Nat := none
  queue : Bool := false
  mask  : TMask := 0
  exact : Option Nat := none
  deriving DecidableEq, Repr

/-- An entry of the convergence stack (07 R170): mask, address, kind 0 reconverge, 1 pending, 2 call. -/
structure CEnt where
  mask : TMask
  addr : W64
  kind : Nat
  deriving DecidableEq, Repr

/-- A read-modify-write at a home slice or a bank (09 R214, R215, R216). -/
inductive Rmw where
  | int (op : Nat)
  | flt (op : Nat) (rnd : Rnd)
  | cas (cmp : W64)
  deriving DecidableEq, Repr

/-- An arrival counted at a barrier record in a generation (13 R322, R327, R328): the member, its timestamp, the launch id
and index of its team, the team, its context, and the linked device where it runs, if it does not run here. -/
structure Arrived where
  mem  : Nat
  ts   : Nat
  lid  : W64
  mt   : Nat
  team : Nat
  ctx  : Nat
  dev  : Option Nat
  deriving DecidableEq, Repr

/-- What a request does where it arrives. -/
inductive ReqKind where
  /-- stores bytes at physical addresses of one sector (08 R185) -/
  | store (cells : List Host.Cell)
  /-- stores bytes at scratchpad offsets of another team (09 R209) -/
  | peer (team : Nat) (cells : List Host.Cell)
  /-- an atomic or a reduction; ret names the outstanding result, register and thread that take the old value -/
  | rmw (op : Rmw) (pa size : Nat) (v : W64) (ret : Option (Nat × Nat × Nat))
  /-- a contribution to an ordered reduction (09 R217) -/
  | ored (op : Nat) (rnd : Rnd) (pa idx : Nat) (v : W64)
  /-- an update of a gradient element at another device: the product of two f32 words added to it (11 R292) -/
  | fma (pa : Nat) (g x : W32)
  /-- a read of bytes at a physical address of another device (17 R402) -/
  | read (pa len : Nat)
  /-- the combined arrivals of this device at a barrier record of another (13 R325) -/
  | gbar (pa : Nat) (arrs : List Arrived)
  deriving DecidableEq, Repr

/-- A request that leaves a group's store FIFO (09 R209), with its place in the group's count of requests (12 R303) and the address
that was translated for it, if one was, with whether its page has 512 MiB (15 R372), and what its leaf says of the page (15 R362, R363). -/
structure Req where
  key     : Nat
  gid     : Nat
  ctx     : Nat
  launch  : Option Nat
  team    : Nat
  cluster : Nat
  core    : Nat
  seq     : Nat
  slice   : Nat
  dev     : Option Nat
  hc      : Bool
  kind    : ReqKind
  va      : Option Nat := none
  big     : Bool := false
  page    : PageAttr := ⟨false, 0, 0⟩
  deriving DecidableEq, Repr

/-- Where the value of a read goes (09 R206, R209, R210): the outstanding result, the first line and how many, the thread
that read it, the threads that receive it;
or a scalar register; with the size code that extends it. -/
structure Ret where
  key  : Nat
  line : Nat
  n    : Nat
  t    : Nat
  ts   : List Nat
  scl  : Option Nat
  sz   : BitVec 3
  deriving DecidableEq, Repr

/-- A request on a fabric link that its home has not acknowledged (17 R399, R402, R403): its identity, link, the remote
line, the group that issued it with its place in the group's count of requests, the copy it belongs to, whether it changes
memory there, what it carries, and where its value goes; the address translated for it with the size of its page (15 R372); what its
leaf says of the page there (15 R362, R363). -/
structure Remote where
  id      : Nat
  link    : Nat
  dev     : Nat
  line    : Nat
  cluster : Nat
  gid     : Nat
  ctx     : Nat
  launch  : Option Nat
  core    : Nat
  team    : Nat
  seq     : Nat
  copy    : Option Nat
  writes  : Bool
  ask     : ReqKind
  ret     : Option Ret
  va      : Option Nat := none
  big     : Bool := false
  page    : PageAttr := ⟨false, 0, 0⟩
  deriving DecidableEq, Repr

/-- A line of another device that has come for an agent of this one (17 R402): the agent, the device, the line, its bytes, and
which of its four sectors are poisoned there, as bits. -/
structure Got where
  id   : Nat
  dev  : Nat
  line : Nat
  data : List Byte
  bad  : Nat
  deriving DecidableEq, Repr

/-- What a fault or trap says of itself (16 R374, R377): the thread of a per-thread fault, whether resumption begins after
the instruction, and the fault record of a copy-fault; and the fabric cycle at which it was detected, where it is taken or reported
later (04 R88). -/
structure TrapInfo where
  cause  : Nat
  sub    : Nat
  addr   : W64 := 0
  addr2  : W64 := 0
  thread : Option Nat := none
  after  : Bool := false
  info   : W64 := 0
  tag    : Nat := 0
  tsub   : Nat := 0
  tcause : Nat := 0
  taddr  : W64 := 0
  at_    : Option Nat := none
  deriving DecidableEq, Repr

/-- What a parked group waits for (06 R114). -/
inductive Park where
  /-- SLEEP: the value that CYCLES must reach (06 R130) -/
  | sleep (till : Nat)
  /-- TAGALL and TAGANY (09 R238): whether it takes every tag of the mask, whether it ORs in conversion flags (09 R227) -/
  | tags (all ors : Bool) (mask : W64)
  /-- TAGFF in replay mode: the tag whose bit decides, the destination (04 R96) -/
  | tagff (tag : Nat) (d : Nat)
  /-- TAGRD in replay mode: the tags that must be complete, .err, the destination (04 R96) -/
  | tagrd (mask : W64) (err : Bool) (d : Nat)
  /-- a copy that waits for its tag or for room in the queue (09 R230, R231), named by its identity -/
  | copy (id : Nat)
  /-- FENCE: acquire part, release part, scope (09 R219) -/
  | fence (acq rel : Bool) (scope : Nat)
  /-- STRMEND of a scatter (09 R241) -/
  | strmend (slot : Nat)
  /-- STRMPOP or STRMPSH: the threads still to run (09 R242) -/
  | strm (slot : Nat) (push : Bool) (reg : Nat) (rest : TMask)
  /-- SPAWN at a full bin table in replay mode: the threads still to deposit (06 R140) -/
  | spawn (entry : W64) (payload : Nat) (timer : Nat) (rest : TMask)
  /-- a queue or task request that its home has not answered (12 R302) -/
  | queue
  /-- an instruction that waits for the outstanding result of a QPOP, by its key, and runs once that has been written (12 R306) -/
  | result (key : Nat)
  /-- BARW: the barrier, the phase that must end (13 R319) -/
  | barw (b : Nat) (ph : Bool)
  /-- BARPH (13 R319) -/
  | barph (b : Nat) (parity : Bool)
  /-- GBAR: the place of the record, its scope, and what has come: 0 nothing, 1 the release, else the subcause of the
  barrier fault that wakes it (13 R324) -/
  | gbar (recd : Nat) (scope : Nat) (got : Nat)
  /-- MREQ: the mask and weight of the entry, until one of the 32 is FREE (10 R267) -/
  | mreq (mask : BitVec 32) (heavy : Bool)
  /-- REINGET (10 R268) -/
  | reinget
  /-- REINREL: until the team's commands that name its tiles have retired (10 R268) -/
  | reinrel
  /-- an engine command that waits for room in the command queue (10 R254), by its identity -/
  | command (id : Nat)
  /-- HFEED: the stream, the identity of the instruction, the words (10 R269) -/
  | hfeed (stream key : Nat) (words : List W32)
  /-- MWAIT (10 R274) -/
  | mwait
  /-- MRESET (10 R277) -/
  | mreset (cluster : Nat)
  /-- QWR: until its write takes effect (11 R290), by its identity -/
  | qwr (id : Nat)
  /-- TREEBIND, until its descriptor has been read (11 R284): the address -/
  | treebind (va : Nat)
  /-- REGRP (11 R291): input, output, N, L -/
  | regrp (inp out n l : Nat)
  /-- LEAVE (18 R420) -/
  | leave
  /-- HALT, HALT.resume or DBGDRAIN of a core (16 R396, R397) -/
  | halt (core : Nat) (form : Nat)
  /-- TLBINV (15 R371): the context (none for every one), the addresses it covers, and the accesses already translated that it
  waits for (15 R372), by their identities -/
  | tlbinv (ctx : Option Nat) (lo hi : Nat) (ids : List Nat)
  deriving DecidableEq, Repr

/-- A group (06 R115, 04 R86). `saving`: it stands at its pre-emption point until it is saved (16 R384); `live`: the words of its current
liveness entry, none where it has none (03 R60, 05 R98); `ending`: its clause has ended, and it keeps its lane until the header that it
stands at has been looked at (06 R115); `after` names the requests of the depositing groups that must have been performed before a spawned
group is created (06 R141). -/
structure Group where
  id      : Nat
  ctx     : Nat
  launch  : Option Nat
  team    : Nat
  idx     : Nat
  width   : Nat
  nregs   : Nat
  lane    : Nat
  hslot   : Bool
  birth   : Nat
  pass    : Nat
  yielded : Bool
  st      : GSt
  halted  : Bool
  park    : Option Park
  saving  : Bool
  pc      : W64
  pos     : Nat
  atHdr   : Bool
  fresh   : Bool
  checked : Bool
  refetch : Bool
  clause  : List W64
  transfer : Option W64
  active  : TMask
  stack   : List CEnt
  s       : List W64
  a       : List W64
  mB      : List W64
  mL      : List W64
  p       : List TMask
  flags   : Flags
  flagen  : Flags
  rmode   : BitVec 4
  liveIdx : Nat
  live    : List W64
  frame   : W64
  slot    : Nat
  budget  : Nat
  left    : Nat
  deadline : W64
  issued  : Nat
  held    : Nat
  handler : Bool
  remain  : Option TMask
  win     : List Held
  lines   : List Line
  ll      : List LL
  coal    : List (List Req)
  fifo    : List Req
  seq     : Nat
  pendTrap : Option TrapInfo
  mwFlags : Flags
  mwFault : Option TrapInfo
  fullSave : Bool
  after   : List (Nat × Nat)
  ending  : Bool := false
  deriving DecidableEq, Repr

/-- The steps of the table that the model's schedule takes by itself, under the names of their rows; every other row is an
instruction of a group or comes from outside (INVENTORY.md, Agents). -/
inductive Own where
  | trapEntry (gid : Nat)
  | longLatencyResult (gid key : Nat)
  | coalesceWindowClose (gid : Nat)
  | groupCreate (gid : Nat)
  | headerWaitMet (gid : Nat)
  | groupSave (gid : Nat)
  | groupRetire (gid : Nat)
  | claimResult (gid : Nat)
  | sleepWake (gid : Nat)
  | queueAccept (gid : Nat)
  | hfeedAppend (gid : Nat)
  | regrpComplete (gid : Nat)
  | tlbinvComplete (gid : Nat)
  | storeArriveHome (key : Nat)
  | sliceAtomic (key : Nat)
  | oredContribution (key : Nat)
  | wcbDrain (line : Nat)
  | taskPush (key : Nat)
  | gbarCombine (key : Nat)
  | gbarArrival (key : Nat)
  | copyStart (cluster : Nat)
  | copyDelivery (copy team : Nat)
  | copyFail (copy row cause : Nat)
  | copyComplete (copy : Nat)
  | copyPlanIssue (team : Nat)
  | ptoExpire (team : Nat)
  | teamSave (team : Nat)
  | teamRestore (team : Nat)
  | teamRetire (team : Nat)
  | launchComplete (launch : Nat)
  | teamPlace (launch : Nat)
  | spanPlace (launch : Nat)
  | preemptWaitExpire (launch : Nat)
  | launchPop (ctx : Nat)
  | notifyActivation (ctx : Nat)
  | teardownComplete (ctx : Nat)
  | streamElement (core slot : Nat)
  | bankReplay (lane : Nat)
  | l1SectorExpire (core sector : Nat)
  | passStart (cluster : Nat)
  | engineCommand (cluster : Nat)
  | ascendUpdate (cluster : Nat)
  | commandRetire (cluster : Nat)
  | tileAcquire (cluster entry : Nat)
  | reinGrant (cluster : Nat)
  | engineResetComplete (cluster : Nat)
  | binTimerExpire (cluster bin : Nat)
  | leaveGrant (cluster : Nat)
  | voltageRampEnd (cluster : Nat)
  | frequencySwitchEnd (cluster : Nat)
  | linkTrainingTimeout (link : Nat)
  | linkReplayLimit (link : Nat)
  | policyStep
  | slewAdmit
  | laneChoose (lane : Nat)
  deriving DecidableEq, Repr

/-- A turn of an agent: the model's own schedule (INVENTORY.md, Agents). -/
inductive Turn where
  /-- the clock advances by fabric cycles -/
  | tick (n : Nat)
  /-- a lane chooses, fetches or runs one instruction -/
  | lane (l : Nat)
  /-- the oldest request of a group's store FIFO leaves it -/
  | fifo (gid : Nat)
  /-- one step of the machine itself -/
  | own (o : Own)
  /-- one step named by its row of the table: what the outside world does -/
  | act (i : Instr)
  deriving DecidableEq, Repr

/-- A named barrier (13 R315): state 0 UNINIT, 1 ACTIVE, 2 OVERRUN. -/
structure NBar where
  st    : Nat
  ph    : Bool
  exp   : Nat
  arr   : Nat
  dbase : Nat
  decl  : Nat
  land  : Nat
  deriving DecidableEq, Repr

/-- A barrier that has not been initialised (13 R315). -/
def NBar.uninit : NBar := ⟨0, false, 0, 0, 0, 0, 0⟩

/-- A slot of a team for arrivals at a barrier record (13 R324), from its first GBAR to the release: record, member, group
count, arrivals; the generation of a record of another device is the one that stood there at the first. -/
structure GSlot where
  recd  : Nat
  gen   : Nat
  mem   : Nat
  g     : Nat
  count : Nat
  deriving DecidableEq, Repr

/-- The states of a stream slot (09 R240). -/
inductive StSt where
  | free | set | running
  deriving DecidableEq, Repr

/-- A stream slot (08 R199, 09 R240): its owner, record, the points moved, the elements in the FIFO, how many elements were
popped or pushed, and a held fault with the element at which it was met. -/
structure Stream where
  st    : StSt
  team  : Nat
  recd  : List W64
  moved : Nat
  fifo  : List (List Byte)
  done  : Nat
  bad   : Option TrapInfo
  ending : Bool
  badAt : Nat := 0
  deriving DecidableEq, Repr

/-- A free stream slot. -/
def Stream.empty : Stream := ⟨.free, 0, [], 0, [], 0, none, false, 0⟩

/-- The states of a team (06 R132); a retired team is no longer in the state. A PENDING team is the next team of a launch in
PLACING, which holds nothing; STARTING passes within the step that places the team. -/
inductive TSt where
  | pending | starting | resident | saved | draining
  deriving DecidableEq, Repr

/-- A team (06 R132); core is the even core of a pair. `back`: it is SAVED, holds its new core, and waits for the rein that it
held (10 R264); `strm`: its stream slots while it is saved, numbered 0 to 3 on its core and 4 to 7 on the odd core of a pair; `zsaved` and
`qsaved`: the tiles that its save area holds, and whether it holds the path-trace registers; `savedAt`: the next identity when it
was saved. -/
structure Team where
  id       : Nat
  ctx      : Nat
  launch   : Option Nat
  index    : Nat
  core     : Nat
  paired   : Bool
  fused    : Bool
  st       : TSt
  size     : Nat
  scratch  : List Host.Cell
  trapbase : W64
  stage    : Nat
  planNext : Nat
  tagbits  : W64
  tagerr   : W64
  tagrec   : List (Nat × Nat × Nat × W64)
  conv     : List (Nat × Nat × Flags)
  bars     : List NBar
  gslots   : List GSlot
  save     : W64
  resetPend : Bool
  preq     : Option Nat
  zsaved   : BitVec 32
  back     : Bool
  strm     : List (Nat × Stream)
  qsaved   : Bool := false
  savedAt  : Nat := 0
  deriving DecidableEq, Repr

/-- The fields of a launch record (05 R101). -/
structure LRec where
  entry    : W64
  livebase : W64
  tags     : Nat
  nregs    : Nat
  nlive    : Nat
  span     : Nat
  replay   : Bool
  persist  : Bool
  fuse     : Bool
  paired   : Bool
  groups   : Nat
  width    : Nat
  scratch  : Nat
  teams    : Nat
  maxw     : Nat
  fmin     : Nat
  boost    : Bool
  opclass  : Nat
  copybase : W64
  nregion  : Nat
  donectr  : Nat
  ncopy    : Nat
  args     : W64
  regions  : List (Nat × Nat)
  deriving DecidableEq, Repr

/-- The states of a launch (05 R105); a launch that is DONE or FAILED is no longer in the state. -/
inductive LSt where
  | checking | placing | running | failing | completing
  deriving DecidableEq, Repr

/-- A launch (05 R105): its identity, launch id, record and the physical address found when it was popped, what it was granted (04 R82),
and since when the team or span that it places next waits. `recDev`: the device where its record lies, if not this one, and `recPage` what
its leaf said of the page; `plan`: its copy plan as it was popped (05 R104), descriptor, stage and tag of each entry; `told`: the STATUS
of its end has been sent to that device. -/
structure Launch where
  id    : Nat
  ctx   : Nat
  lid   : W64
  recPA : Option Nat
  recd  : LRec
  st    : LSt
  next  : Nat
  cause : Option Nat
  cls   : Nat
  fmin  : Nat
  maxw  : Nat
  boost : Bool
  waited : Nat
  recDev : Option Nat := none
  plan   : List (Nat × Nat × Nat) := []
  told   : Bool := false
  recPage : PageAttr := ⟨false, 0, 0⟩
  deriving DecidableEq, Repr

/-- The fields of a context record (04 R79). -/
structure CRec where
  ptroot  : Nat
  prio    : Nat
  replay  : Bool
  priv    : Bool
  part    : List Bool
  grant   : W64
  nqueue  : Nat
  rbase   : Nat
  rsize   : Nat
  sbase   : Nat
  nslot   : Nat
  lqd     : W64
  fqd     : W64
  nqd     : W64
  nentry  : W64
  pto     : Nat
  nregs   : Nat
  deriving DecidableEq, Repr

/-- The states of a context (04 R93, R94). -/
inductive CSt where
  | free | created | active | suspending | suspended | tearing
  deriving DecidableEq, Repr

/-- A dependence counter (12 R311): its value, whether it is ARMED, the task record, the launch of the group that armed it,
and the stamps of the decrements that counted. -/
structure Ctr where
  n      : Nat
  val    : Int
  armed  : Bool
  task   : List W64
  launch : Option Nat
  stamps : List (Nat × Nat)
  deriving DecidableEq, Repr

/-- A context (04 R79, R93, R94). -/
structure Context where
  st     : CSt
  cmd    : Nat
  result : Nat
  busy   : Bool
  crec   : W64
  evpend : BitVec 6
  evmask : BitVec 6
  msivec : W64
  lostN  : Nat
  lostF  : Nat
  dropHints : Nat
  recd   : Option CRec
  openQ  : Nat
  ctrs   : List Ctr
  alloc  : List (Nat × Nat)
  slots  : List Nat
  grantNew : Option W64
  deriving DecidableEq, Repr

/-- A cached translation (15 R369): context, page address, whether the page has 512 MiB, the leaf and where
the leaf stands. -/
structure TlbEnt where
  ctx  : Nat
  va   : Nat
  big  : Bool
  leaf : W64
  at_  : Nat
  deriving DecidableEq, Repr

/-- A cached table entry (15 R369): die, context, level, the address prefix it serves, the entry. -/
structure PwcEnt where
  die   : Nat
  ctx   : Nat
  level : Nat
  pre   : Nat
  ent   : W64
  deriving DecidableEq, Repr

/-- A lane whose access lost its bank (08 R180): the lane, the lane cycle in which it was first presented, whether it has been
presented again and won, the words that it accesses, whether it loads; and for the windows of its instruction (08 R185) the
lane cycle in which its first access was issued, none where none has been, with the window that was last entered. -/
structure Replay where
  lane    : Nat
  at_     : Nat
  granted : Bool
  words   : List Nat := []
  load    : Bool := false
  first   : Option Nat := none
  win     : Option Nat := none
  deriving DecidableEq, Repr

/-- A core (01 R16): valid L1 sectors with fill time and bytes, L1 TLB, clause buffer, stream slots, whether it is halted
and drained (16 R389, R390), the accesses its banks serve from the current lane cycle on (lane cycle, word, whether a load),
and the accesses that wait (08 R180). -/
structure Core where
  l1      : List (Nat × Nat × List Byte)
  tlb     : List TlbEnt
  cbuf    : List (Nat × Nat × W64)
  streams : List Stream
  halted  : Bool
  drained : Bool
  bankUse : List (Nat × Nat × Bool)
  replays : List Replay
  deriving DecidableEq, Repr

/-- A core that holds nothing. -/
def Core.empty : Core := ⟨[], [], [], List.replicate 4 Stream.empty, false, false, [], []⟩

/-- A spawn bin that holds threads (06 R137): launch, entry, key, owner and the depositing team and group in replay mode,
timer and start in lane cycles, deposits in order, and for each depositing group how many requests it had made (06 R141). -/
structure Bin where
  num    : Nat
  launch : Nat
  entry  : W64
  key    : Nat
  replay : Option (Nat × Nat)
  owner  : Nat
  timer  : Nat
  start  : Nat
  deps   : List (W32 × W32)
  from_  : List (Nat × Nat)
  deriving DecidableEq, Repr

/-- A bound tree (11 R279, R284): the address of its descriptor, node and bias arrays, depth of a node vector, element type,
levels, distance of node vectors. -/
structure Tree where
  addr   : Nat
  nodes  : Nat
  bias   : Nat
  k      : Nat
  ty     : Ty
  depth  : Nat
  stride : Nat
  deriving DecidableEq, Repr

/-- The states of a reservation entry that is not FREE (10 R255). -/
inductive RSt where
  | posted | holding | rein
  deriving DecidableEq, Repr

/-- A reservation entry (10 R255): its index, state, team, tile mask, heavy bit, posting age, wait count, whether a REINGET
is pending, its tree; and what its restoration still needs: 0 nothing, 1 its tiles, 2 its tiles and the rein (10 R264). -/
structure REnt where
  idx     : Nat
  st      : RSt
  team    : Nat
  tmask   : BitVec 32
  heavy   : Bool
  age     : Nat
  waits   : Nat
  pending : Bool
  tree    : Option Tree
  restore : Nat
  deriving DecidableEq, Repr

/-- An operand stream (10 R249, R250, R252): binding 0 none, 1 copy, 2 harness; the teams of the binding span; the bytes of a
copy binding; the 64 row queues of a harness binding. -/
structure EStream where
  bind : Nat
  span : List Nat
  data : List Byte
  rows : List (List Byte)
  deriving DecidableEq, Repr

/-- A stream that is unbound and empty. -/
def EStream.empty : EStream := ⟨0, [], [], List.replicate 64 []⟩

/-- A place that an engine command found at its issue (10 R273): a team's scratchpad, or physical memory of a device, with
what the leaf says of its page. -/
inductive EPlace where
  | pad (team off : Nat)
  | mem (dev : Option Nat) (pa : Nat) (page : PageAttr)
  deriving DecidableEq, Repr

/-- A piece of a tile's row in memory as its issue translated it (10 R273): the virtual address, the place, the bytes, and whether its
page has 512 MiB (15 R372). -/
structure EPiece where
  va  : Nat
  at_ : EPlace
  n   : Nat
  big : Bool := false
  deriving DecidableEq, Repr

/-- The engine commands (10 R254) with what their issue fixed; the two accesses of path-trace registers, which are ordered
as commands (11 R290); and unbind, the discard of the streams and of the held B when a tenure ends, which acts at its place
among the commands (10 R251, R255, R268). -/
inductive CmdK where
  | mma (z sa sb : Nat) (ty : Ty) (k m : Nat) (acc bkeep chk mix : Bool)
  | zzero (z : Nat)
  | zscale (z : Nat) (ty : Ty) (c : W32)
  | zadd (z src : Nat) (ty : Ty)
  | zcvt (z : Nat) (ty : Ty)
  | zld (z : Nat) (ty : Ty) (rows : List (List EPiece))
  | zst (z : Nat) (ty : Ty) (rows : List (List EPiece))
  | hdrain (z row0 line : Nat) (ts : List Nat)
  | osbind (s b : Nat) (span : List Nat)
  | osflush (s : Nat)
  | desc (z : Option (Nat × Nat)) (q sa : Nat) (mask : TMask) (m : Nat) (sp : Option Nat) (tree : Tree)
  | dstep (q sa : Nat) (mask : TMask) (m : Nat) (root : Bool) (tree : Tree)
  | ascend (q sa : Nat) (mask : TMask) (m : Nat) (g : Nat) (gb : Option Nat) (tree : Tree)
  | qrd (q row0 item line : Nat) (ts : List Nat)
  | qwr (q row0 item : Nat) (ws : List (Nat × W32))
  | unbind
  deriving DecidableEq, Repr

/-- A command in the engine's queue: its identity, which is also that of its outstanding result, its issuer, its phase (0 queued, 1 a pass
that takes its operands, 2 its effect is done), whether its team held leave at its issue, what it has taken of A and of B (the bytes of a
copy binding, or a list for each row), the updates of an ASCEND still to be sent (row, level, element), its flags, and its failure; how
many lane cycles of its timetable a pass has gone through (20 R434), and the words that DESC.sp has computed for the rows of its records
(11 R294). -/
structure ECmd where
  key    : Nat
  gid    : Nat
  ctx    : Nat
  launch : Option Nat
  team   : Nat
  core   : Nat
  kind   : CmdK
  phase  : Nat
  lv     : Bool
  a      : List (List Byte)
  b      : List Byte
  todo   : List (Nat × Nat × Nat)
  flags  : Flags
  fail   : Option TrapInfo
  beat   : Nat := 0
  outw   : List W32 := []
  deriving DecidableEq, Repr

/-- A matrix engine (10 R246 to R263, 11 R281, R284): reservation entries, streams, the tiles and path-trace registers that
are not all zero, the queue, the commands of groups that wait for room in it, the rows of held B with its type and depth, the
next posting age, idle counters, the counters of MSTAT 0 to 3, and what the node cache holds: node vectors and biases by their
context and address. -/
structure Engine where
  ents    : List REnt
  streams : List EStream
  tiles   : List (Nat × List W32)
  qregs   : List (Nat × List W32)
  cmds    : List ECmd
  pend    : List ECmd
  heldB   : Option (List (List Byte) × Ty × Nat)
  age     : Nat
  idle    : List Nat
  mstat   : List Nat
  ncache  : List (Nat × List Byte)
  deriving DecidableEq, Repr

/-- An engine that holds nothing. -/
def Engine.empty : Engine := ⟨[], List.replicate 4 EStream.empty, [], [], [], [], none, 0, List.replicate 64 0, List.replicate 4 0, []⟩

/-- What asks the leave arbiter for a unit (18 R419): a tenure of a team, LEAVE of a team, or a copy. -/
inductive LeaveBy where
  | tenure (team : Nat)
  | leave (team : Nat)
  | copy (id : Nat)
  deriving DecidableEq, Repr

/-- A change of operating point under way (18 R413, R414): the pool, whether it raises it, the voltage asked for, its phase:
0 a ramp, 1 the frequency switch, and the fabric cycle at which the phase began, with the voltage it began from. -/
structure Change where
  pool  : Nat
  up    : Bool
  mv    : Int
  ramp  : Bool
  at_   : Nat
  from_ : Int
  deriving DecidableEq, Repr

/-- A cluster (01 R17): its L2 TLB, its spawn bins, its lane clock as a base, the fabric cycle of that base and a frequency,
the lane cycle in which it last issued or was admitted to issue (18 R417), and the generation whose release last reached it
(13 R326); its engine; the leave units held and the requests
that wait, each with whether a policy step has lifted its wait for a throttled cluster (18 R419); its operating point and
counters (18 R409 to R421), `mark` the lane cycle in which the current interval began. -/
structure Cluster where
  l2tlb  : List TlbEnt
  bins   : List Bin
  cyc0   : Nat
  cycF   : Nat
  mhz    : Nat
  lastIssue : Nat
  eng    : Engine
  leaves : List LeaveBy
  leaveQ : List (LeaveBy × Bool)
  pool   : Nat
  mv     : Int
  change : Option Change
  throttled : Bool
  memstall : Nat
  issue  : Nat
  mxbusy : Nat
  mark   : Nat
  ratios : List Nat
  injects : List Nat
  injected : Nat
  stretched : Nat
  droop  : Bool
  grantR : Nat
  slewGen : Nat := 0
  deriving DecidableEq, Repr

/-- A cluster in pool 0 at 1,200 MHz, its grant limit 32 (18 R409, R418), at the nominal voltage. -/
def Cluster.empty : Cluster :=
  ⟨[], [], 0, 0, 1200, 0, Engine.empty, [], [], 0, 600, none, false, 0, 0, 0, 0, [0, 0, 0], [], 0, 0, false, 32, 0⟩

/-- A cluster after reset: in pool 0 at the voltage that the root requests for it, the nominal 600 mV with its calibration offset
(18 R409; assumption 6). -/
def Cluster.fresh (c : Nat) : Cluster := { Cluster.empty with mv := 500 + ((Config.calibration c 0).val : Int) }

/-- A copy that is issued and not complete (09 R229 to R237): kind 0 CPY, 1 CPYM, 2 CPYG; its descriptor with the address
registers added; the teams that receive it and those already served; the device-memory lines it owns; the bytes that have
landed in an operand stream; the ids and the indices in their launches of the teams that it names, as a fault record gives them after
they have retired (04 R88). -/
structure Copy where
  id     : Nat
  kind   : Nat
  ctx    : Nat
  launch : Option Nat
  team   : Nat
  gid    : Nat
  cluster : Nat
  core   : Nat
  tag    : Nat
  ctr    : Nat
  bar    : Option Nat
  desc   : List W64
  src    : Nat
  dst    : Nat
  queued : Bool
  started : Bool
  recvs  : List Nat
  served : List Nat
  owned  : List Nat
  moved  : Nat
  failed : Option (Nat × Nat × W64)
  flags  : Flags
  leaveWait : Bool
  names  : List (Nat × Nat) := []
  deriving DecidableEq, Repr

/-- A write-combining buffer (08 R189): its slice, the line, which of its bytes it holds, and when it was opened. -/
structure Wcb where
  slice : Nat
  line : Nat
  mask : List Nat
  at_  : Nat
  deriving DecidableEq, Repr

/-- A flit that its receiver has not acknowledged (17 R401): sequence number, channel (0 requests, 1 replies), bytes counted
against the window, what a reply carries. -/
structure Flit where
  seq   : Nat
  chan  : Nat
  bytes : Nat
  data  : List Byte
  deriving DecidableEq, Repr

/-- A fabric link (17 R400): state 0 DOWN, 1 TRAINING, 2 UP, 3 DEGRADED, 4 QUARANTINED; `naks` the sequence numbers from which it has
asked its peer to send again (17 R401). -/
structure Link where
  st      : Nat
  lanes   : Nat
  peer    : Nat
  peerLink : Nat
  retrain : Bool
  replays : Nat
  crcErrs : Nat
  txSeq   : Nat
  rxSeq   : Nat
  unacked : List Flit
  replayAt : List Nat
  trainAt : Nat
  naks    : List Nat := []
  deriving DecidableEq, Repr

/-- An entry of a hardware queue that is not DONE (12 R299, R301): its sequence number, its 64 bytes (none where LDOOR made it visible and
its slot lies in a page of another device, until it is popped), the stamps that its
taker waits for (12 R303), the regions of the task that pushed it (12 R314), and the team that claimed it. -/
structure QEntry where
  seq     : Nat
  bytes   : List Byte
  stamps  : List (Nat × Nat)
  regions : List (Nat × Nat)
  claimer : Option Nat
  deriving DecidableEq, Repr

/-- What a group asks of a queue (12 R305). -/
inductive QAsk where
  | push (bytes : List Byte)
  | close
  | pop (d p : Nat)
  | try_ (d p : Nat)
  | stat (d : Nat)
  | glean (d p : Nat)
  | done (seq : Nat)
  | arm (ctr n : Nat) (task : List W64)
  | dec (ctr n : Nat)
  deriving DecidableEq, Repr

/-- A queue or task request of a group that its home has not answered (12 R302): the group, its outstanding result, the
descriptor's place, what it asks, the stamp at its issue, the threads that were active then, the descriptor's address. -/
structure QReq where
  gid   : Nat
  key   : Nat
  pa    : Nat
  dev   : Option Nat
  stamp : Nat
  ask   : QAsk
  mask  : TMask
  va    : Option Nat := none
  big   : Bool := false
  deriving DecidableEq, Repr

/-- A request of a linked device at a queue that is homed here, not answered yet (12 R302, 17 R402): when it came, in the order
of identities; the device, its own identity of it, the descriptor's place, the operation and data of its flit, who asks. -/
structure PeerAsk where
  key  : Nat
  dev  : Nat
  req  : Nat
  pa   : Nat
  op   : Nat
  data : List Byte
  who  : PeerTeam
  deriving DecidableEq, Repr

/-- An accepted pop or glean whose result is not written (12 R306, R308): the group, its outstanding result where it has one,
the queue and its context, the registers, whether its group is parked for the result, the counter to decrement with it, the
entry claimed with its stamps once there is one; closed where it returns the closed or empty result; gleaned; whether
bytes 0x38 to 0x3F come from the entry; whether the entry is a record of the device, which has no budget (04 R88, R89); the
threads whose predicate it writes. A claim of a linked device has that device's request as its key. -/
structure Claim where
  gid   : Nat
  key   : Nat
  qpa   : Nat
  ctx   : Nat
  d     : Nat
  p     : Nat
  direct : Bool
  done  : Nat
  ent   : Option QEntry
  closed : Bool
  gleaned : Bool
  raw   : Bool
  ofDev : Bool := false
  mask  : TMask := 0
  deriving DecidableEq, Repr

/-- A hardware queue that is not IDLE (12 R296, R297): the place of its descriptor, 0 an ordinary queue or 1 launch,
2 fault, 3 notification, the header read when it opened, its live state and entries, and the neighbourhood set by the
barrier that marked it. -/
structure Queue where
  pa      : Nat
  ctx     : Nat
  sys     : Nat
  store   : Nat
  cap     : Nat
  gleanOk : Bool
  edf     : Bool
  ownLid  : W64
  doneCtr : Nat
  ownTeam : Nat
  st      : Nat
  marked  : Bool
  hood    : List Nat
  next    : Nat
  ents    : List QEntry
  deriving DecidableEq, Repr

/-- A task that fired and waits for the stores in its regions (12 R314), or for room in its queue; or whose push has been sent to
the device where its queue is homed. -/
structure Fired where
  key    : Nat
  ctx    : Nat
  launch : Option Nat
  queue  : W64
  bytes  : List Byte
  stamps : List (Nat × Nat)
  regions : List (Nat × Nat)
  sent   : Bool := false
  deriving DecidableEq, Repr

/-- A push sent to a queue of another device whose stamp is not met yet (12 R303): the device, the request, the descriptor's place,
the stamp. -/
structure Owed where
  dev : Nat
  key : Nat
  pa  : Nat
  gid : Nat
  seq : Nat
  deriving DecidableEq, Repr

/-- A contribution that a slice holds for an ordered-reduction cell (09 R217), with where it came from and whether its page is
host-coherent. -/
structure OHeld where
  slice : Nat
  pa    : Nat
  idx   : Nat
  v     : W64
  op    : Nat
  rnd   : Rnd
  ctx   : Nat := 0
  launch : Option Nat := none
  core  : Nat := 0x3FF
  team  : Nat := 0xFFFFFF
  hc    : Bool := false
  deriving DecidableEq, Repr

/-- What the device keeps of a straggler entry (13 R327, R329): the member, LAG, CONSEC, MARKED, SKIP, NARR, and T0 to T7. What software
stores there has no part in it. -/
structure Strag where
  mem    : Nat
  lag    : Nat
  consec : Nat
  marked : Bool
  skip   : Bool
  narr   : Nat
  ts     : List Nat := List.replicate 8 0
  deriving DecidableEq, Repr

/-- A straggler update still to do (13 R329): the generation, its earliest timestamp, the arrival. -/
structure StragUp where
  gen   : Nat
  first : Nat
  arr   : Arrived
  deriving DecidableEq, Repr

/-- A barrier record that is ACTIVE (13 R320, R322): its place, the context that initialised it, the header read then, the
generation, the arrivals of this generation and of the one before, the linked devices from which a member has arrived, what it
keeps of the straggler entries, the updates still to do, the update whose mark a linked device has been asked for, and the linked
devices through which it has marked queues. -/
structure GRec where
  pa      : Nat
  ctx     : Nat
  srec    : Nat
  nbhd    : Nat
  n       : Nat
  members : Nat
  scope   : Nat
  hi      : Nat
  lo      : Nat
  ownLid  : W64
  ownSpan : Nat
  gen     : Nat
  arr     : List Arrived
  prev    : List Arrived
  devs    : List Nat
  strag   : List Strag := []
  ups     : List StragUp := []
  askKey  : Option Nat := none
  markDevs : List Nat := []
  deriving DecidableEq, Repr

/-- A barrier arrival on its way (13 R325, R328): whether its node has timestamped it, the place of the record, the device where
it is homed, the slice of its node, the arrival; the address of the record as it was translated, with the size of its page (15 R372). -/
structure GMsg where
  key  : Nat
  node : Bool
  pa   : Nat
  dev  : Option Nat
  node_ : Nat
  arr  : Arrived
  va   : Option Nat := none
  big  : Bool := false
  deriving DecidableEq, Repr

/-- A mark of a record of a linked device that this device has passed on to the home of the queue (13 R330): the identity of the request,
the record by its device and place, the device where the queue is homed, and whether it has been made. -/
structure Relay where
  key  : Nat
  dev  : Nat
  recd : Nat
  home : Nat
  done : Bool
  deriving DecidableEq, Repr

/-- A team of this device that has arrived at a barrier record of a linked one (13 R332): the record by its device and place, the team,
and whether in the current generation or in the one before. -/
structure FarArr where
  dev  : Nat
  recd : Nat
  team : Nat
  now  : Bool
  deriving DecidableEq, Repr

/-- What the device sends to the host (17 R405, R407, R408): a message of the MSI-X table, the completion of a read with its EP
bit, or an Unsupported Request completion. -/
inductive Out where
  | msi (vec : Nat)
  | data (bytes : List Byte) (ep : Bool)
  | unsupported (tag : Option Nat)
  deriving DecidableEq, Repr

/-- What the root and the stable hold (19): the boot record (R428); the two slots of the stable flash, the slot marked to be
tried first, the one that the last start tried first, and the one that runs (R426); the minimum VERSION of kinds 1 and 2 and
the revocation bits (R425); the mailbox, busy while the start that a RESET began is under way (R423, R424). -/
structure Firm where
  mode      : Nat
  failCnt   : Nat
  lastStep  : Nat
  reason    : Nat
  rootVer   : Nat
  stableVer : Nat
  ready     : Nat
  slots     : List (Option (List Byte))
  marked    : Nat
  tried     : Nat
  running   : Option Nat
  minVer    : List Nat
  revoked   : List Bool
  marg      : W64
  marg2     : W64
  mlast     : Nat
  mresult   : Nat
  busy      : Bool
  deriving DecidableEq, Repr

/-- The whole machine. Of what it keeps for linked devices: `asks`, their requests at queues homed here; `unmet`, the stamps of
their pushes whose stores they have not reported performed (12 R303); `owed`, those that this device has to report; `joins`, the
contexts whose groups wait or have waited at a barrier record homed elsewhere, with the device and the place (13 R322); `farArr`, the teams
that have arrived there (13 R332); `relays`, their marks that it has passed on (13 R330); `outbox`, the answers to them that wait for
a window or for a retrain, each with its device and line (17 R400, R401); `inbox`, their requests that have been accepted and have to
wait for a line or a record. -/
structure State where
  fcycles  : Nat
  cur      : Option Nat
  agenda   : List Turn
  freeCtr  : Nat
  nextId   : Nat
  birth    : Nat
  mem      : List Host.Cell
  poison   : List Nat
  dirty    : List Nat
  wcbs     : List Wcb
  flight   : List Req
  remotes  : List Remote
  oredHeld : List OHeld
  pwc      : List PwcEnt
  copies   : List Copy
  queues   : List Queue
  qreqs    : List QReq
  asks     : List PeerAsk
  unmet    : List (Nat × Nat)
  owed     : List Owed
  joins    : List (Nat × Nat × Nat)
  farArr   : List FarArr
  relays   : List Relay
  outbox   : List (Nat × Nat × List Byte)
  inbox    : List (Nat × Payload)
  claims   : List Claim
  fired    : List Fired
  rgot     : List Got
  owned    : List (Nat × Nat)
  recs     : List GRec
  gmsgs    : List GMsg
  out      : List Out
  msix     : List (W64 × W64)
  msixPend : List Nat
  swbase   : Nat
  firm     : Firm
  contexts : List Context
  launches : List Launch
  teams    : List Team
  groups   : List Group
  cores    : List Core
  clusters : List Cluster
  links    : List Link
  fid      : Nat
  slew     : List Nat
  undervolt : List Int
  policyAt : Nat
  deriving DecidableEq, Repr

/-- A context that does not exist (04 R93, R94). -/
def Context.empty : Context := ⟨.free, 0, 0, false, 0, 0, 0, 0, 0, 0, 0, none, 0, [], [], [], none⟩

/-- A link that is DOWN (17 R400). -/
def Link.down : Link := ⟨0, 0, 0, 0, false, 0, 0, 0, 0, [], [], 0, []⟩

/-- The root and the stable as a device leaves its maker (19; assumptions 4 and 7). -/
def Firm.fresh : Firm :=
  { mode := 0, failCnt := 0, lastStep := 0, reason := 0, rootVer := 0, stableVer := 0, ready := 0,
    slots := [Config.flashImage 0, Config.flashImage 1], marked := 0, tried := 0, running := none, minVer := [0, 0],
    revoked := [false, false, false, false], marg := 0, marg2 := 0, mlast := 0, mresult := 0, busy := false }

/-- The machine right after reset: every context FREE, nothing resident, every cluster in pool 0 (18 R409), every link DOWN, and
the start sequence still to run (19 R427). Where the spec gives no value see assumptions 2, 4, 6, 7 and 10. -/
def State.reset : State :=
  { fcycles := 0, cur := none, agenda := [], freeCtr := 0, nextId := 1, birth := 0, mem := [], poison := [], dirty := [], wcbs := [],
    flight := [], remotes := [], oredHeld := [], pwc := [], copies := [], queues := [], qreqs := [], asks := [], unmet := [],
    owed := [], joins := [], farArr := [], relays := [], outbox := [], inbox := [], claims := [], fired := [],
    rgot := [], owned := [], recs := [], gmsgs := [], out := [], msix := List.replicate 256 (0, 0x100000000), msixPend := [],
    swbase := 0, firm := Firm.fresh, contexts := List.replicate 64 Context.empty, launches := [], teams := [], groups := [],
    cores := List.replicate 576 Core.empty, clusters := (List.range 144).map Cluster.fresh, links := List.replicate 16 Link.down,
    fid := 0, slew := [], undervolt := List.replicate 17 0, policyAt := 20000 }

end Sys2Proof.Machine
end

