-- ==== Sys2Proof/Machine/Mem.lean ====
section
/-! DEFINITION. Bytes of memory in canonical form, and numbers in little-endian order (00 R7). -/

namespace Sys2Proof.Machine

/-- A memory: address and byte pairs, addresses strictly rising, no byte equal to what an unlisted address reads as. -/
abbrev Memory := List Host.Cell

/-- What an unlisted byte reads as: zero, since the start writes zeros to all of HBM (19 R427) and a scratchpad is zeroed
at STARTING (06 R132). -/
def memDefault : Byte := 0

/-- The canonical form. -/
def Memory.wf : Memory → Bool
  | [] => true
  | [c] => decide (c.2 ≠ memDefault)
  | c :: d :: m => decide (c.2 ≠ memDefault) && decide (c.1 < d.1) && Memory.wf (d :: m)

/-- One byte. -/
def memGet : Memory → Nat → Byte
  | [], _ => memDefault
  | c :: m, a => if c.1 = a then c.2 else if a < c.1 then memDefault else memGet m a

/-- The memory with one byte written. -/
def memSet : Memory → Nat → Byte → Memory
  | [], a, b => if b = memDefault then [] else [(a, b)]
  | c :: m, a, b =>
    if a < c.1 then (if b = memDefault then c :: m else (a, b) :: c :: m)
    else if a = c.1 then (if b = memDefault then m else (a, b) :: m)
    else c :: memSet m a b

/-- n bytes from an address up. -/
def memBytes (m : Memory) (a n : Nat) : List Byte := (List.range n).map (fun i => memGet m (a + i))

/-- The memory with bytes written from an address up. -/
def memPut (m : Memory) (a : Nat) : List Byte → Memory
  | [] => m
  | b :: bs => memPut (memSet m a b) (a + 1) bs

/-- The memory with cells written one after another. -/
def memCells (m : Memory) (cs : List Host.Cell) : Memory := cs.foldl (fun m c => memSet m c.1 c.2) m

/-- The memory with n bytes from an address up as they were before anything was written. -/
def memClear (m : Memory) (a n : Nat) : Memory := m.filter (fun c => decide (c.1 < a) || decide (a + n ≤ c.1))

/-- A number from its bytes, the lowest address least significant (00 R7). -/
def leNat : List Byte → Nat
  | [] => 0
  | b :: bs => b.toNat + 256 * leNat bs

/-- The n bytes of a number, least significant first (00 R7). -/
def natLE : Nat → Nat → List Byte
  | 0, _ => []
  | n + 1, v => BitVec.ofNat 8 v :: natLE n (v / 256)

/-- A number of n bytes in memory. -/
def memNat (m : Memory) (a n : Nat) : Nat := leNat (memBytes m a n)

/-- Bits lo and up, n of them, of a number. -/
def bits (v lo n : Nat) : Nat := v / 2 ^ lo % 2 ^ n

/-- The signed value of the low n bits. -/
def sInt (n v : Nat) : Int :=
  let w := v % 2 ^ n
  if w < 2 ^ (n - 1) then w else (w : Int) - 2 ^ n

/-- The low n bits of an integer in two's complement. -/
def wrapNat (n : Nat) (v : Int) : Nat := (v % 2 ^ n).toNat

/-- A value put into a sorted list, before the first that it does not follow. -/
def insertBy {α : Type} (le : α → α → Bool) (x : α) : List α → List α
  | [] => [x]
  | y :: ys => if le x y then x :: y :: ys else y :: insertBy le x ys

/-- A list in order; equals keep their order. -/
def sortBy {α : Type} (le : α → α → Bool) (xs : List α) : List α := xs.foldr (insertBy le) []

/-- Bits [56:0] of an address: the others are ignored (08 R181). -/
def va57 (a : W64) : Nat := a.toNat % 2 ^ 57

end Sys2Proof.Machine
end

