-- ==== Sys2Proof/Machine/Xlate.lean ====
section
/-! DEFINITION. Translation (15 R357 to R370, R494): the walk, what a leaf grants, the cached translations, and the
accessed and dirty bits. -/

namespace Sys2Proof.Machine

/-- The first physical address beyond device memory (08 R192). -/
def paLimit : Nat := 0xC000000000

/-- The access kinds of 15 R361; hint is that of PREF and RESID. -/
inductive Acc where
  | rd | wr | rw | fetch | hint
  deriving DecidableEq, Repr

/-- Whether the kind is a write access (15 R364, R367). -/
def Acc.writes : Acc → Bool
  | .wr => true
  | .rw => true
  | _ => false

/-- Whether the leaf grants the access (15 R361): R bit 2, W bit 3, X bit 4; W implies R. -/
def grants (leaf : W64) : Acc → Bool
  | .rd => leaf.getLsbD 2
  | .wr => leaf.getLsbD 3
  | .rw => leaf.getLsbD 3
  | .fetch => leaf.getLsbD 4
  | .hint => true

/-- Whether bits [56:48] lie in the windows and the reserved windows (08 R181). -/
def inWindows (va : Nat) : Bool := decide (0x1F0 ≤ va / 2 ^ 48 % 512)

/-- The index bits of a level (15 R357). -/
def levelIdx (va : Nat) : Nat → Nat
  | 0 => bits va 55 2
  | 1 => bits va 42 13
  | 2 => bits va 29 13
  | _ => bits va 16 13

/-- The address prefix that an entry of a level serves. -/
def levelPre (va : Nat) : Nat → Nat
  | 0 => va / 2 ^ 55
  | 1 => va / 2 ^ 42
  | 2 => va / 2 ^ 29
  | _ => va / 2 ^ 16

/-- Whether an entry with V = 1 is malformed at its level (15 R358 to R360). -/
def entMalformed (level : Nat) (e : W64) : Bool :=
  if e.getLsbD 1 then
    decide (level < 2) || (decide (level = 2) && decide (e.extractLsb' 16 13 ≠ 0)) ||
      decide (e.extractLsb' 52 2 = 3) || decide (143 < (e.extractLsb' 8 8).toNat) ||
      (decide (e.extractLsb' 8 8 ≠ 0) && decide (e.extractLsb' 52 2 = 0)) || (e.getLsbD 3 && !e.getLsbD 2) ||
      (decide (e.extractLsb' 56 8 ≠ 0) && !e.getLsbD 55) ||
      decide (paLimit ≤ (e.extractLsb' 16 36).toNat * 2 ^ 16)
  else decide (2 < level) || decide (e.extractLsb' 52 12 ≠ 0) || decide (e.extractLsb' 2 14 ≠ 0)

/-- The outcome of a walk: the leaf, where it stands, whether its page has 512 MiB, and the table entries on its path by
level; or the subcause of 15 R364 with the address of the entry. -/
structure Walked where
  leaf : W64
  at_  : Nat
  big  : Bool
  path : List (Nat × W64)
  deriving DecidableEq, Repr

/-- The walk from a level down (15 R357, R364); fuel counts the levels left. -/
def walkGo (mem : Memory) (poison : List Nat) (cached : Nat → Option W64) (va : Nat) :
    Nat → Nat → Nat → List (Nat × W64) → Except (Nat × Nat) Walked
  | 0, _, _, _ => .error (2, 0)
  | f + 1, level, table, path =>
    let pa := table + 8 * levelIdx va level
    let hit := if level < 3 then cached level else none
    if hit.isNone && (decide (paLimit ≤ pa) || poison.contains (pa / 128)) then .error (1, pa)
    else
      let e : W64 := hit.getD (BitVec.ofNat 64 (memNat mem pa 8))
      if !e.getLsbD 0 then .error (2, 0)
      else if entMalformed level e then .error (3, 0)
      else if e.getLsbD 1 then .ok ⟨e, pa, decide (level = 2), path⟩
      else walkGo mem poison cached va f (level + 1) ((e.extractLsb' 16 36).toNat * 2 ^ 16) ((level, e) :: path)

/-- The physical place of a translated address: another device or none, the address, the leaf, and whether its page has 512 MiB. -/
structure Phys where
  dev  : Option Nat
  pa   : Nat
  leaf : W64
  big  : Bool
  deriving DecidableEq, Repr

/-- The physical address that a leaf gives (15 R359). -/
def leafPA (leaf : W64) (big : Bool) (va : Nat) : Nat :=
  (leaf.extractLsb' 16 36).toNat * 2 ^ 16 + (if big then va % 2 ^ 29 else va % 2 ^ 16)

/-- The XOR of the bits of a number at every stride-th place from lo to 51 (08 R191). -/
def foldBit (pa lo stride : Nat) : Nat → Nat
  | 0 => 0
  | j + 1 => (bits pa (lo + stride * j) 1 + foldBit pa lo stride j) % 2

/-- The fold of a physical address into n bits (08 R191). -/
def foldBits (pa lo stride terms : Nat) : Nat → Nat
  | 0 => 0
  | i + 1 => foldBits pa lo stride terms i + 2 ^ i * foldBit (pa % 2 ^ 52) (lo + i) stride terms

/-- The home slice of a physical address under its leaf (08 R190, R191). -/
def homeSlice (leaf : W64) (pa : Nat) : Nat :=
  let k := foldBits pa 9 4 11 4
  let g := foldBits pa 13 12 4 12
  let pin := (leaf.extractLsb' 8 8).toNat
  match (leaf.extractLsb' 52 2).toNat with
  | 0 => 16 * (g % 9) + k
  | 1 => 16 * (pin / 16) + k
  | _ => pin

/-- What a request takes with it of its leaf (15 R362, R363). -/
def leafPage (leaf : W64) : PageAttr := ⟨leaf.getLsbD 54, (leaf.extractLsb' 52 2).toNat, (leaf.extractLsb' 8 8).toNat⟩
/-- A leaf that says so much and no more. -/
def pageLeaf (p : PageAttr) : W64 := BitVec.ofNat 64 (2 ^ 52 * (p.smode % 4) + 2 ^ 8 * (p.pin % 256))

/-- The device id that DEVICE reads (17 R398). -/
def deviceId (s : State) : Nat := if s.links.any (fun l => decide (l.st = 2) || decide (l.st = 3)) then s.fid else 0

/-- Whether a device can be reached (17 R399, 15 R362). -/
def reachable (s : State) (dev : Nat) : Bool :=
  decide (dev ≠ 0) && s.links.any (fun l => (decide (l.st = 2) || decide (l.st = 3)) && decide (l.peer = dev))

/-- The device of a leaf's page: none where the page is local (15 R362). -/
def leafDev (s : State) (leaf : W64) : Option Nat :=
  let dev := (leaf.extractLsb' 56 8).toNat
  if !leaf.getLsbD 55 then none
  else if decide (dev ≠ 0) && decide (dev = deviceId s) then none
  else some dev

/-- The root table of a context. -/
def ctxRoot (s : State) (ctx : Nat) : Nat :=
  match (s.contexts[ctx]?).bind (·.recd) with
  | some r => r.ptroot * 2 ^ 16
  | none => 0

/-- A fault of a translated access: 15 R364, or the remote fault (17 R403). -/
def xFault (cause sub va : Nat) (pa : Nat) : TrapInfo :=
  { cause := cause, sub := sub, addr := BitVec.ofNat 64 va, addr2 := if sub = 1 then BitVec.ofNat 64 pa else 0 }

/-- What a leaf allows the access (15 R364, orders 4 and 5, and the check of reachability after them). -/
def leafCheck (s : State) (va : Nat) (acc : Acc) (leaf : W64) : Option TrapInfo :=
  let remote := leafDev s leaf
  if !grants leaf acc then some (xFault 6 4 va 0)
  else if acc.writes && leaf.getLsbD 7 then some (xFault 6 5 va 0)
  else if decide (acc = .fetch) && remote.isSome then some (xFault 6 4 va 0)
  else match remote with
    | some d => if decide (acc = .hint) || reachable s d then none else some (xFault 0x28 1 va 0)
    | none => none

/-- The state with one bit of an entry in memory set (15 R367: bit 5 is A, bit 6 is D). -/
def setEntBit (s : State) (at_ bit : Nat) : State :=
  let e : W64 := BitVec.ofNat 64 (memNat s.mem at_ 8) ||| (1 <<< bit)
  { s with mem := memPut s.mem at_ (natLE 8 e.toNat) }

/-- A translation without any effect on the caches or the tables: what a walk from memory gives now. -/
def peek (s : State) (ctx va : Nat) (acc : Acc) : Except TrapInfo Phys :=
  if inWindows va then .error (xFault 6 2 va 0)
  else match walkGo s.mem s.poison (fun _ => none) va 4 0 (ctxRoot s ctx) [] with
    | .error (sub, pa) => .error (xFault 6 sub va pa)
    | .ok w => match leafCheck s va acc w.leaf with
      | some t => .error t
      | none => .ok ⟨leafDev s w.leaf, leafPA w.leaf w.big va, w.leaf, w.big⟩

/-- A walk from memory by an agent that caches no translation: the leaf gets A, and D where the access writes (15 R367). -/
def walkNow (s : State) (ctx va : Nat) (acc : Acc) : State × Except TrapInfo Phys :=
  match peek s ctx va acc, walkGo s.mem s.poison (fun _ => none) va 4 0 (ctxRoot s ctx) [] with
  | .ok ph, .ok w =>
    let s := setEntBit s w.at_ 5
    (if acc.writes then setEntBit s w.at_ 6 else s, .ok ph)
  | r, _ => (s, r)

/-- Whether a cached translation serves the address (15 R369). -/
def TlbEnt.hits (e : TlbEnt) (ctx va : Nat) : Bool :=
  decide (e.ctx = ctx) && decide (if e.big then e.va / 2 ^ 29 = va / 2 ^ 29 else e.va / 2 ^ 16 = va / 2 ^ 16)

/-- The list with the new head, cut to a length: the least recently used entry leaves (15 R369). -/
def lruPut {α : Type} (n : Nat) (x : α) (xs : List α) : List α := (x :: xs).take n

/-- The state with one core changed. -/
def onCore (s : State) (c : Nat) (f : Core → Core) : State := { s with cores := s.cores.modify c f }
/-- The state with one cluster changed. -/
def onCluster (s : State) (c : Nat) (f : Cluster → Cluster) : State := { s with clusters := s.clusters.modify c f }

/-- A core of the machine. -/
def coreAt (s : State) (c : Nat) : Core := (s.cores[c]?).getD Core.empty
/-- A cluster of the machine. -/
def clusterAt (s : State) (c : Nat) : Cluster := (s.clusters[c]?).getD Cluster.empty

/-- The die of a cluster (01 R14). -/
def dieOf (cluster : Nat) : Nat := 3 * (cluster / 12 / 4) + cluster % 12 / 4

/-- The cached translation of an address: the core's L1 TLB first, then the cluster's L2 TLB (15 R369). -/
def tlbFind (s : State) (cluster : Nat) (core : Option Nat) (ctx va : Nat) : Option TlbEnt :=
  let l1 : List TlbEnt := match core with
    | some c => (coreAt s c).tlb
    | none => []
  (l1.find? (fun e => e.hits ctx va)) <|> ((clusterAt s cluster).l2tlb.find? (fun e => e.hits ctx va))

/-- The state with a translation put at the head of the TLBs that serve the access, replacing its own older copy. -/
def tlbPut (s : State) (cluster : Nat) (core : Option Nat) (e : TlbEnt) : State :=
  let put := fun n (xs : List TlbEnt) => lruPut n e (xs.filter (fun x => !x.hits e.ctx e.va))
  let s := onCluster s cluster (fun c => { c with l2tlb := put 2048 c.l2tlb })
  match core with
  | some c => onCore s c (fun k => { k with tlb := put 64 k.tlb })
  | none => s

/-- The state with a translation dropped from the TLBs that serve the access. -/
def tlbDrop (s : State) (cluster : Nat) (core : Option Nat) (e : TlbEnt) : State :=
  let cut := fun (xs : List TlbEnt) => xs.filter (fun x => !x.hits e.ctx e.va)
  let s := onCluster s cluster (fun c => { c with l2tlb := cut c.l2tlb })
  match core with
  | some c => onCore s c (fun k => { k with tlb := cut k.tlb })
  | none => s

/-- The leaf without its A and D bits. -/
def leafCore (e : W64) : W64 := e &&& ~~~0x60#64

/-- A walk that fills the TLBs (15 R364, R367, R369, R370): the table entries on its path enter the page-walk cache of the
die, the leaf gets A, and D where the access writes. Nothing is cached where the walk or the check fails. A hint sets
nothing and fills nothing. -/
def fillWalk (s : State) (cluster : Nat) (core : Option Nat) (ctx va : Nat) (acc : Acc) : State × Except TrapInfo Phys :=
  let die := dieOf cluster
  let cached := fun l => (s.pwc.find? (fun (e : PwcEnt) => decide (e.die = die ∧ e.ctx = ctx ∧ e.level = l ∧ e.pre = levelPre va l))).map (·.ent)
  match walkGo s.mem s.poison cached va 4 0 (ctxRoot s ctx) [] with
  | .error (sub, pa) => (s, .error (xFault 6 sub va pa))
  | .ok w =>
    match leafCheck s va acc w.leaf with
    | some t => (s, .error t)
    | none =>
      let ph : Phys := ⟨leafDev s w.leaf, leafPA w.leaf w.big va, w.leaf, w.big⟩
      if acc = .hint then (s, .ok ph)
      else
        let s := setEntBit s w.at_ 5
        let s := if acc.writes then setEntBit s w.at_ 6 else s
        let leaf : W64 := w.leaf ||| 0x20 ||| (if acc.writes then 0x40 else 0)
        let news := (w.path.map (fun p => (⟨die, ctx, p.1, levelPre va p.1, p.2⟩ : PwcEnt))).filter (fun e => !s.pwc.contains e)
        let mine := s.pwc.filter (fun e => decide (e.die = die))
        let others := s.pwc.filter (fun e => decide (e.die ≠ die))
        let s := { s with pwc := (news ++ mine).take 1024 ++ others }
        (tlbPut s cluster core ⟨ctx, va - va % (if w.big then 2 ^ 29 else 65536), w.big, leaf, w.at_⟩, .ok { ph with leaf := leaf })

/-- The translation of one access (15 R357 to R367). A cached translation serves it; where the access writes and the cached
leaf has D = 0, the leaf in memory gets D first if it still says the same, and is walked again if it does not. -/
def translate (s : State) (cluster : Nat) (core : Option Nat) (ctx va : Nat) (acc : Acc) : State × Except TrapInfo Phys :=
  if inWindows va then (s, .error (xFault 6 2 va 0))
  else match tlbFind s cluster core ctx va with
    | none => fillWalk s cluster core ctx va acc
    | some e =>
      match leafCheck s va acc e.leaf with
      | some t => (s, .error t)
      | none =>
        if acc.writes && !e.leaf.getLsbD 6 then
          let now : W64 := BitVec.ofNat 64 (memNat s.mem e.at_ 8)
          if leafCore now = leafCore e.leaf ∧ now.getLsbD 0 then
            let s := setEntBit s e.at_ 6
            let e' := { e with leaf := e.leaf ||| 0x40 }
            (tlbPut s cluster core e', .ok ⟨leafDev s e.leaf, leafPA e.leaf e.big va, e'.leaf, e.big⟩)
          else fillWalk (tlbDrop s cluster core e) cluster core ctx va acc
        else (tlbPut s cluster core e, .ok ⟨leafDev s e.leaf, leafPA e.leaf e.big va, e.leaf, e.big⟩)

end Sys2Proof.Machine
end

