-- ==== Sys2Proof/Machine/Objects.lean ====
section
/-! DEFINITION. Finding and changing the objects of the state; a group's registers: scalar space, predicates, vector
registers through the forwarding window, the register cache and the frame (03 R64, R70; 06 R122 to R129). -/

namespace Sys2Proof.Machine

/-- A group by its identity. -/
def groupOf (s : State) (id : Nat) : Option Group := s.groups.find? (fun g => decide (g.id = id))
/-- The state with a group replaced. -/
def setGroup (s : State) (g : Group) : State :=
  { s with groups := s.groups.map (fun x => if x.id = g.id then g else x) }
/-- The state with one group changed. -/
def onGroup (s : State) (id : Nat) (f : Group → Group) : State :=
  { s with groups := s.groups.map (fun x => if x.id = id then f x else x) }
/-- A team by its identity. -/
def teamOf (s : State) (id : Nat) : Option Team := s.teams.find? (fun t => decide (t.id = id))
/-- The state with one team changed. -/
def onTeam (s : State) (id : Nat) (f : Team → Team) : State :=
  { s with teams := s.teams.map (fun x => if x.id = id then f x else x) }
/-- A launch by its identity. -/
def launchOf (s : State) (id : Nat) : Option Launch := s.launches.find? (fun l => decide (l.id = id))
/-- The state with one launch changed. -/
def onLaunch (s : State) (id : Nat) (f : Launch → Launch) : State :=
  { s with launches := s.launches.map (fun x => if x.id = id then f x else x) }
/-- The state with one context changed. -/
def onCtx (s : State) (c : Nat) (f : Context → Context) : State := { s with contexts := s.contexts.modify c f }
/-- A context's record. -/
def ctxRec (s : State) (c : Nat) : Option CRec := (s.contexts[c]?).bind (fun x => x.recd)
/-- Whether the context is in replay mode (04 R96). -/
def isReplay (s : State) (c : Nat) : Bool :=
  match ctxRec s c with
  | some r => r.replay
  | none => false
/-- The launch of a group, where it has one. -/
def groupLaunch (s : State) (g : Group) : Option Launch := g.launch.bind (launchOf s)
/-- The core of a group (01 R14). -/
def Group.core (g : Group) : Nat := g.lane / 16
/-- The cluster of a group (01 R14). -/
def Group.cluster (g : Group) : Nat := g.lane / 64
/-- The lane-cycle counter of a cluster (01 R23): its base and the fabric cycles since, at its lane frequency, or at half of
it while a droop stretches its clock (18 R416). -/
def cyclesOf (s : State) (cluster : Nat) : Nat :=
  let c := clusterAt s cluster
  c.cyc0 + (s.fcycles - c.cycF) * (if c.droop then c.mhz / 2 else c.mhz) / 2000

/-- The all-ones mask of a width. -/
def widthMask (w : Nat) : TMask := BitVec.ofNat 64 (2 ^ w - 1)
/-- The threads of a mask in ascending order. -/
def threads (m : TMask) : List Nat := (List.range 64).filter (fun t => m.getLsbD t)
/-- The lowest thread of a mask. -/
def lowest (m : TMask) : Option Nat := (threads m).head?
/-- The mask of a list of threads. -/
def maskOf (ts : List Nat) : TMask := ts.foldl (fun m t => m ||| (1 <<< t)) 0

/-- A predicate as a mask; p7 reads as one in every thread (03 R64, R70). -/
def predMask (g : Group) (p : Nat) : TMask := if p = 7 then BitVec.allOnes 64 else g.p.getD p 0
/-- The threads for which PRED and PN hold, among the active ones (03 R64). -/
def condMask (g : Group) (h : Hd) : TMask :=
  let m := predMask g h.pred.toNat
  (if h.pn then ~~~m else m) &&& g.active
/-- The threads that execute: those of the remaining mask after a trap return (16 R395), else the active ones. -/
def liveMask (g : Group) : TMask :=
  match g.remain with
  | some r => g.active &&& r
  | none => g.active
/-- The qualifying threads (03 R64, 16 R395). -/
def qualMask (g : Group) (h : Hd) : TMask := condMask g h &&& liveMask g
/-- Whether a group-wide instruction acts: the lowest active thread qualifies (03 R64). -/
def wideActs (g : Group) (h : Hd) : Bool :=
  match lowest g.active with
  | some t => (condMask g h).getLsbD t
  | none => false
/-- The group with a predicate replaced; p7 is discarded (03 R70). -/
def setPred (g : Group) (p : Nat) (m : TMask) : Group := if p < 7 then { g with p := g.p.set p m } else g
/-- The group with the bits of some threads of a predicate written. -/
def putPred (g : Group) (p : Nat) (sel m : TMask) : Group :=
  setPred g p ((predMask g p &&& ~~~sel) ||| (m &&& sel))

/-- A register of the scalar space read as 64 bits (03 R70): s, a, the base of m, p. -/
def readScalar (g : Group) (r : Nat) : W64 :=
  if r < 64 then g.s.getD r 0
  else if r < 80 then g.a.getD (r - 64) 0
  else if r < 96 then g.mB.getD (r - 80) 0
  else predMask g (r - 96) &&& widthMask g.width

/-- A register of the scalar space written (03 R70, 07 R165, R168): a p register takes the bits of the width, an m register
its base. -/
def writeScalar (g : Group) (r : Nat) (v : W64) : Group :=
  if r < 64 then { g with s := g.s.set r v }
  else if r < 80 then { g with a := g.a.set (r - 64) v }
  else if r < 96 then { g with mB := g.mB.set (r - 80) (v &&& BitVec.ofNat 64 (2 ^ 57 - 1)) }
  else putPred g (r - 96) (widthMask g.width) v

/-- The line that a vector-space value names: v registers, or k registers in handler mode (03 R70, 04 R84). -/
def lineNo (g : Group) (r : Nat) : Nat := if g.handler then g.nregs + r else r

/-- A line as its frame in device memory holds it (04 R84). -/
def frameLine (s : State) (g : Group) (n : Nat) : List W32 :=
  match peek s g.ctx (va57 g.frame + 4 * g.width * n) .rd with
  | .ok ph => (List.range g.width).map (fun t => BitVec.ofNat 32 (memNat s.mem (ph.pa + 4 * t) 4))
  | .error _ => List.replicate g.width 0

/-- The words of a line that is not in the forwarding window: the register cache's, or else the frame's (06 R122, R127). -/
def cachedLine (s : State) (g : Group) (n : Nat) : List W32 :=
  match g.lines.find? (fun l => decide (l.reg = n)) with
  | some l => l.data
  | none => frameLine s g n

/-- The words of a line as a read receives them: the held result, else the register cache's (06 R126). -/
def readLine (s : State) (g : Group) (n : Nat) : List W32 :=
  match g.win.find? (fun h => decide (h.reg = n)) with
  | some h => h.data
  | none => cachedLine s g n

/-- The tag of a line as a read finds it (06 R120). -/
def lineTag (g : Group) (n : Nat) : SclTag :=
  match g.win.find? (fun h => decide (h.reg = n)) with
  | some h => h.tag
  | none => match g.lines.find? (fun l => decide (l.reg = n)) with
    | some l => l.tag
    | none => .general

/-- The word of one thread of a vector-space register. -/
def readV (s : State) (g : Group) (r t : Nat) : W32 := (readLine s g (lineNo g r)).getD t 0

/-- Consecutive registers of one thread as a number, the first least significant (02 R29). -/
def readVs (s : State) (g : Group) (r n t : Nat) : Nat :=
  ((List.range n).map (fun i => (readV s g (r + i) t).toNat * 2 ^ (32 * i))).foldl (· + ·) 0

/-- A line written into the register cache (06 R122). -/
def cachePut (s : State) (g : Group) (n : Nat) (data : List W32) (tag : SclTag) : Group :=
  { g with lines := ⟨n, data, true, s.fcycles, tag⟩ :: g.lines.filter (fun l => decide (l.reg ≠ n)) }

/-- The held result of a register written into the register cache; it leaves the window (06 R127). -/
def settleHeld (s : State) (g : Group) (h : Held) : Group :=
  match g.win.find? (fun x => decide (x.reg = h.reg)) with
  | some x => cachePut s { g with win := g.win.filter (fun x => decide (x.reg ≠ h.reg)) } h.reg x.data x.tag
  | none => g

/-- The forwarding window flushed (06 R129). -/
def flushWin (s : State) (g : Group) : Group := g.win.foldl (settleHeld s) g

/-- The words of a line with those of some threads replaced. -/
def mergeLine (old : List W32) (ws : List (Nat × W32)) : List W32 :=
  ws.foldl (fun l w => l.set w.1 w.2) old

/-- A result that enters the forwarding window, merged with the words it does not write; the held result of the same
register is superseded (06 R126, R127). -/
def holdLine (s : State) (g : Group) (n : Nat) (ws : List (Nat × W32)) (tag : SclTag) : Group :=
  let data := mergeLine (readLine s g n) ws
  { g with win := g.win.filter (fun x => decide (x.reg ≠ n)) ++ [⟨n, data, 0, tag⟩] }

/-- The window one instruction older: a result made by the instruction that completes gets age 1, and what was held for
eight instructions after its own is written to the register cache (06 R127). -/
def ageWin (s : State) (g : Group) : Group :=
  let g := { g with win := g.win.map (fun (h : Held) => { h with age := h.age + 1 }) }
  (g.win.filter (fun (h : Held) => decide (9 ≤ h.age))).foldl (settleHeld s) g

/-- The held results of some lines dropped by a kill (06 R127). -/
def killLines (g : Group) (ns : List Nat) : Group :=
  { g with win := g.win.filter (fun h => !ns.contains h.reg) }

/-- A number divided by another, rounded up. -/
def ceilDiv (a b : Nat) : Nat := (a + b - 1) / b

/-! ### Requests on their way -/

/-- The requests of a cluster on their way, oldest first. -/
def clusterFlight (s : State) (cluster : Nat) : List Req := s.flight.filter (fun r => decide (r.cluster = cluster))

/-- The sectors that a request touches at its home. -/
def kindSectors : ReqKind → List Nat
  | .store cs => (cs.map (fun c => c.1 / 128)).eraseDups
  | .rmw _ pa _ _ _ => [pa / 128]
  | .ored _ _ pa _ _ => [pa / 128]
  | _ => []

/-- The sectors of this device that a request touches. -/
def reqSectors (r : Req) : List Nat := if r.dev.isSome then [] else kindSectors r.kind

/-- The bytes at the home slice (08 R189, 14 R347). -/
def homeBytes (s : State) (pa n : Nat) : List Byte := memBytes s.mem pa n

/-- Whether a request of the cluster to some bytes is still on its way: what the cluster reads there arrives behind it
(08 R188). -/
def inFlight (s : State) (cluster pa n : Nat) : Bool :=
  (clusterFlight s cluster).any (fun r => (reqSectors r).any (fun x => decide (pa < x * 128 + 128) && decide (x * 128 < pa + n)))

/-- Whether a line of this device is owned by a copy, or by a tile store, that has not written it (09 R232, 10 R273). -/
def lineOwned (s : State) (line : Nat) : Bool :=
  s.copies.any (fun c => c.owned.contains line) || s.owned.any (fun x => decide (x.2 = line))

/-- The write-combining buffer of a line drained (08 R189). -/
def drainLine (s : State) (line : Nat) : State := { s with wcbs := s.wcbs.filter (fun w => decide (w.line ≠ line)) }

/-- A fresh identity (assumption 2). -/
def takeId (s : State) : Nat × State := (s.nextId, { s with nextId := s.nextId + 1 })

/-! ### Other devices -/

/-- The links UP or DEGRADED to a device, in ascending order (17 R399). -/
def bundle (s : State) (dev : Nat) : List Nat :=
  (List.range s.links.length).filter (fun i => match s.links[i]? with
    | some l => (decide (l.st = 2) || decide (l.st = 3)) && decide (l.peer = dev)
    | none => false)

/-- The link of a line: bundle member PA[20:9] mod m (17 R399). -/
def linkFor (s : State) (dev pa : Nat) : Option Nat :=
  let b := bundle s dev
  b[bits pa 9 12 % b.length]?

/-- Whether a remote request must wait: its line has requests unacknowledged on another member (17 R399). -/
def linkBusy (s : State) (dev pa : Nat) : Bool :=
  s.remotes.any (fun r => decide (r.dev = dev) && decide (r.line = pa / 512) && decide (some r.link ≠ linkFor s dev pa))

/-- The bytes of a flit (17 R401). -/
def flitBytes : Nat := 256

/-- The flits that some bytes take: one at least, and one for every 256 of them (17 R401; assumption 46). -/
def flitsFor (n : Nat) : Nat := max 1 (ceilDiv n flitBytes)

/-- Bytes put on a link in flits: each is kept until the receiver acknowledges it (17 R401). -/
def sendFlit (s : State) (link chan : Nat) (data : List Byte) : State :=
  { s with links := s.links.modify link (fun l => (List.range (flitsFor data.length)).foldl (fun l i =>
      { l with unacked := l.unacked ++ [⟨l.txSeq, chan, flitBytes, (data.drop (flitBytes * i)).take flitBytes⟩], txSeq := (l.txSeq + 1) % 4096 }) l) }

/-- Whether the receiver's window of a channel has room for the flits of so many bytes (17 R401). -/
def windowRoom (s : State) (link chan : Nat) (n : Nat := 0) : Bool :=
  match s.links[link]? with
  | some l => decide (((l.unacked.filter (fun f => decide (f.chan = chan))).map (fun f => f.bytes)).foldl (· + ·) 0 + flitBytes * flitsFor n ≤ 32768)
  | none => false

/-- Whether a link to a device is being trained anew, so that traffic to it is held (17 R400). -/
def retraining (s : State) (dev : Nat) : Bool := s.links.any (fun l => decide (l.st = 1) && l.retrain && decide (l.peer = dev))

/-- Whether a remote request can be sent now; one that no link can take is sent, and is lost (17 R403), unless a link is being trained
anew. -/
def canSend (s : State) (dev pa : Nat) (n : Nat := 0) : Bool :=
  match linkFor s dev pa with
  | some l => windowRoom s l 0 n && !linkBusy s dev pa
  | none => !retraining s dev

/-- The bytes that a request carries. -/
def ReqKind.data : ReqKind → List Byte
  | .store cs => cs.map (fun c => c.2)
  | _ => []

/-- The link that a request is named on which no link can take: it is lost (17 R403). -/
def noLink : Nat := 99
/-- The link that a request is named on until the window of its own has room, or the retrain of its link is over (17 R400, R401). -/
def unsent : Nat := 100

/-- A request of this device on its way to another (17 R402): on the link of its line, where its window has room now. -/
def sendRemote (s : State) (r : Remote) (pa : Nat) : State :=
  let on := fun (l : Nat) => { s with remotes := s.remotes ++ [{ r with link := l, line := pa / 512 }] }
  match linkFor s r.dev pa with
  | none => if retraining s r.dev then on unsent else on noLink
  | some l => if canSend s r.dev pa r.ask.data.length then sendFlit (on l) l 0 r.ask.data else on unsent

/-- The oldest request that has waited for its window and can be sent (17 R399, R401), behind those to its line. -/
def sendWaiting (s : State) : Option State :=
  (s.remotes.zipIdx.find? (fun x => decide (x.1.link = unsent) && (match linkFor s x.1.dev (512 * x.1.line) with
    | none => !retraining s x.1.dev
    | some l => windowRoom s l 0 x.1.ask.data.length && (s.remotes.take x.2).all (fun y =>
        decide (y.dev ≠ x.1.dev) || decide (y.line ≠ x.1.line) || decide (y.link = l))))).map (fun x =>
    let l := (linkFor s x.1.dev (512 * x.1.line)).getD noLink
    let s := { s with remotes := s.remotes.set x.2 { x.1 with link := l } }
    if l = noLink then s else sendFlit s l 0 x.1.ask.data)

/-- A request that an agent of this device makes, for a context and a launch, of another: of no cluster, group or team. -/
def agentReq (id dev ctx : Nat) (launch : Option Nat) (writes : Bool) (ask : ReqKind) : Remote :=
  { id := id, link := 0, dev := dev, line := 0, cluster := 144, gid := 0, ctx := ctx, launch := launch, core := 0x3FF, team := 0,
    seq := 0, copy := none, writes := writes, ask := ask, ret := none }

/-- Stores on their way to another device (17 R399, R402): a request for each line that they touch. -/
def sendLines (s : State) (r : Remote) (cells : List Host.Cell) : State :=
  ((cells.map (fun c => c.1 / 512)).eraseDups).foldl (fun s l =>
    let (id, s) := takeId s
    let mine := cells.filter (fun c => decide (c.1 / 512 = l))
    sendRemote s { r with id := id, ask := .store mine } ((mine.head?.map Prod.fst).getD (512 * l))) s

/-- Bytes that an agent of this device, for a context, writes at a place of another device over its link (17 R402), with what its leaf
says of the page and the address that was translated, where there was one. -/
def sendBytes (s : State) (dev ctx : Nat) (launch : Option Nat) (page : PageAttr) (va : Option (Nat × Bool)) (pa : Nat) (bs : List Byte) : State :=
  sendLines s { agentReq 0 dev ctx launch true (.store []) with page := page, va := va.map Prod.fst, big := (va.map Prod.snd).getD false }
    (bs.zipIdx.map (fun x => (pa + x.2, x.1)))

/-- Bytes that a home slice writes for a context at an address (12 R300, 13 R327): its page is marked as written (15 R367); none
where it does not translate. -/
def slicePut (s : State) (ctx va : Nat) (bs : List Byte) : State :=
  match walkNow s ctx va .wr with
  | (s, .error _) => s
  | (s, .ok ph) => match ph.dev with
    | none => let s := drainLine s (ph.pa / 512); { s with mem := memPut s.mem ph.pa bs }
    | some d => sendBytes s d ctx none (leafPage ph.leaf) (some (va, ph.big)) ph.pa bs

/-- Why bytes cannot be read now: a failure with its cause, subcause and address, a line of another device that has not come, or
a request on its way that comes first. -/
inductive CErr where
  | fault (cause sub addr : Nat) (addr2 : W64)
  | need (dev line : Nat)
  | wait
  deriving DecidableEq, Repr

/-- Who reads or writes for itself: the identity under which lines of other devices come, its context, cluster and team. -/
structure Who where
  id   : Nat
  ctx  : Nat
  cluster : Nat
  team : Nat
  deriving DecidableEq, Repr

/-- The bytes of a translated place, within one page, as an agent reads them at their home (09 R232, R244, 17 R402): those of
another device once their lines have come. -/
def placeBytes (s : State) (id cluster : Nat) (ph : Phys) (va n : Nat) : Except CErr (List Byte) :=
  match ph.dev with
  | none =>
    if inFlight s cluster ph.pa n then .error .wait
    else if (List.range (ceilDiv (ph.pa % 128 + n) 128)).any (fun i => s.poison.contains (ph.pa / 128 + i)) then
      .error (.fault 0x0C 0 va 0)
    else .ok (homeBytes s ph.pa n)
  | some d =>
    let lines := (List.range (ceilDiv (ph.pa % 512 + n) 512)).map (fun i => ph.pa / 512 + i)
    let got := fun (line : Nat) => s.rgot.find? (fun x => decide (x.id = id ∧ x.dev = d ∧ x.line = line))
    let bad := fun (sec : Nat) => ((got (sec / 4)).map (fun x => x.bad.testBit (sec % 4))).getD false
    match lines.find? (fun l => (got l).isNone) with
    | some l => .error (.need d l)
    | none =>
      if (List.range (ceilDiv (ph.pa % 128 + n) 128)).any (fun i => bad (ph.pa / 128 + i)) then .error (.fault 0x0C 0 va 0)
      else .ok (((lines.flatMap (fun l => ((got l).map (fun x => x.data)).getD [])).drop (ph.pa % 512)).take n)

/-- The lines of other devices that came for an agent's read are dropped once it has been made. -/
def dropGot (s : State) (id : Nat) : State := { s with rgot := s.rgot.filter (fun x => decide (x.id ≠ id)) }

/-- What an agent has asked of other devices and has not used is no longer for it: the lines that came, and those that are to
come. -/
def forgetReads (s : State) (id : Nat) : State :=
  let s := dropGot s id
  { s with remotes := s.remotes.map (fun r => if r.copy = some id && !r.writes then { r with copy := some 0 } else r) }

/-- A free value (assumption 3). -/
def takeFree (s : State) : W64 × State := (Config.freeValue s.freeCtr, { s with freeCtr := s.freeCtr + 1 })

/-- A line of another device asked for, once (09 R232, 17 R402). -/
def askLine (s : State) (w : Who) (launch : Option Nat) (core dev line : Nat) : Option State :=
  if s.remotes.any (fun r => decide (r.copy = some w.id) && !r.writes && decide (r.dev = dev) && decide (r.line = line)) ||
      !canSend s dev (512 * line) then none
  else
    let (id, s) := takeId s
    some (sendRemote s { id := id, link := 0, dev := dev, line := line, cluster := w.cluster, gid := 0, ctx := w.ctx,
                         launch := launch, core := core, team := w.team, seq := 0, copy := some w.id, writes := false,
                         ask := .read (512 * line) 512, ret := none } (512 * line))

/-- Who reads for an instruction of a group. -/
def Group.who (g : Group) : Who := ⟨g.id, g.ctx, g.cluster, g.team⟩

end Sys2Proof.Machine
end

