-- ==== Sys2Proof/Machine/QueueOps.lean ====
section
/-! DEFINITION. Hardware queues at their home slices (12 R296 to R301, R306), the records the device writes into the system
queues (04 R87 to R90), and the events it raises to the host (04 R94). -/

namespace Sys2Proof.Machine

/-- A message of the MSI-X table: sent, or kept pending where its entry is masked (17 R408). -/
def sendMsi (s : State) (vec : Nat) : State :=
  if ((s.msix.getD vec (0, 0)).2).getLsbD 32 then { s with msixPend := vec :: s.msixPend.filter (fun v => decide (v ≠ vec)) }
  else { s with out := s.out ++ [.msi vec] }

/-- An event of a context (04 R94): one message when its EVPEND bit rises while its EVMASK bit is 1. -/
def raiseEvent (s : State) (ctx bit : Nat) : State :=
  match s.contexts[ctx]? with
  | none => s
  | some c =>
    let s' := onCtx s ctx (fun c => { c with evpend := c.evpend ||| (1 <<< bit) })
    if c.evpend.getLsbD bit || !c.evmask.getLsbD bit then s'
    else sendMsi s' (bits c.msivec.toNat (8 * bit) 8)

/-- A queue that the device holds, by the place of its descriptor. -/
def queueAt (s : State) (pa : Nat) : Option Queue := s.queues.find? (fun q => decide (q.pa = pa))
/-- Entries READY (12 R301). -/
def readyEnts (q : Queue) : List QEntry := q.ents.filter (fun e => e.claimer.isNone)
/-- The number of entries CLAIMED and not yet DONE (12 R296). -/
def claimedCount (q : Queue) : Nat := (q.ents.filter (fun e => e.claimer.isSome)).length
/-- Whether the queue holds as many entries as it can (12 R301). -/
def queueFull (q : Queue) : Bool := decide (q.cap ≤ q.ents.length)

/-- The two live words of a descriptor (12 R296). -/
def liveHdr (q : Queue) : List Byte :=
  natLE 8 ((readyEnts q).length + 2 ^ 21 * claimedCount q + 2 ^ 42 * q.st + (if q.marked then 2 ^ 44 else 0)) ++ natLE 8 q.next

/-- The state with a queue replaced, its live words written where loads of the descriptor find them. -/
def putQueue (s : State) (q : Queue) : State :=
  { drainLine s (q.pa / 512) with
    queues := s.queues.map (fun x => if x.pa = q.pa then q else x), mem := memPut s.mem (q.pa + 0x20) (liveHdr q) }

/-- Whether entry a ranks before entry b (12 R300). -/
def ranksBefore (edf replay : Bool) (a b : QEntry) : Bool :=
  let dl := fun (e : QEntry) => leNat (e.bytes.take 8)
  let tid := fun (e : QEntry) => leNat ((e.bytes.drop 12).take 4)
  if edf && decide (dl a ≠ dl b) then decide (dl a < dl b)
  else if edf && replay && decide (tid a ≠ tid b) then decide (tid a < tid b)
  else decide (a.seq < b.seq)

/-- The READY entry that ranks first (12 R300). -/
def queueHead (s : State) (q : Queue) : Option QEntry :=
  (readyEnts q).foldl (fun m e => match m with
    | none => some e
    | some b => if ranksBefore q.edf (isReplay s q.ctx) e b then some e else some b) none

/-- The READY entry that ranks last (12 R300). -/
def queueTail (s : State) (q : Queue) : Option QEntry :=
  (readyEnts q).foldl (fun m e => match m with
    | none => some e
    | some b => if ranksBefore q.edf (isReplay s q.ctx) b e then some e else some b) none

/-- The slot of an entry in STORE holds its 64 bytes: for FIFO queues, whose arrangement the spec gives (12 R300). -/
def storeEntry (s : State) (q : Queue) (seq : Nat) (bytes : List Byte) : State :=
  if q.edf then s else slicePut s q.ctx (va57 (BitVec.ofNat 64 (q.store + 64 * (seq % q.cap)))) bytes

/-- A queue that is CLOSING with nothing READY or CLAIMED becomes CLOSED; its device state ends and the context's
open-queue count decreases (12 R297). -/
def closeIfEmpty (s : State) (pa : Nat) : State :=
  match queueAt s pa with
  | none => s
  | some q =>
    if q.st = 2 ∧ q.ents = [] then
      let s := putQueue s { q with st := 3 }
      onCtx { s with queues := s.queues.filter (fun x => decide (x.pa ≠ pa)) } q.ctx (fun c => { c with openQ := c.openQ - 1 })
    else s

/-- An entry is claimed (12 R301): by a team where the queue is GLEANOK or the claim is a glean, else it is DONE at once. -/
def claimEntry (q : Queue) (e : QEntry) (team : Nat) (glean : Bool) : Queue :=
  if q.gleanOk || glean then
    { q with ents := q.ents.map (fun x => if x.seq = e.seq then { x with claimer := some team } else x) }
  else { q with ents := q.ents.filter (fun x => decide (x.seq ≠ e.seq)) }

/-- The state with a waiting claim given an entry, or the closed result. -/
def answerClaim (s : State) (gid key : Nat) (ent : Option QEntry) : State :=
  { s with claims := s.claims.map (fun c => if c.gid = gid ∧ c.key = key then { c with ent := ent, closed := ent.isNone } else c) }

/-- Waiting pops of a queue are served in order of acceptance; when it is CLOSING with nothing READY each receives the
closed result (12 R306). The fuel counts the pops. -/
def serveGo (pa : Nat) : Nat → State → State
  | 0, s => s
  | f + 1, s =>
    match queueAt s pa, s.claims.find? (fun c => decide (c.qpa = pa) && c.ent.isNone && !c.closed) with
    | some q, some c =>
      match queueHead s q with
      | some e =>
        let team := ((groupOf s c.gid).map (fun (g : Group) => g.team)).getD c.gid
        serveGo pa f (answerClaim (putQueue s (claimEntry q e team false)) c.gid c.key (some e))
      | none => if q.st = 1 then s else serveGo pa f (answerClaim s c.gid c.key none)
    | _, _ => s

/-- Waiting pops served, and the queue closed where it is due. -/
def serveQueue (s : State) (pa : Nat) : State := closeIfEmpty (serveGo pa s.claims.length s) pa

/-- An accepted push (12 R298 to R301, R306): the entry takes the next sequence number and is READY at once. Bytes 0x38 to
0x3F of an ordinary entry are written when it is returned; a record of the device brings all 64. -/
def appendEntry (s : State) (q : Queue) (bytes : List Byte) (stamps regions : List (Nat × Nat)) : State :=
  let s := storeEntry s q q.next bytes
  let s := putQueue s { q with next := q.next + 1, ents := q.ents ++ [⟨q.next, bytes, stamps, regions, none⟩] }
  serveQueue s q.pa

/-- A system queue of a context: 1 launch, 2 fault, 3 notification (04 R87). -/
def sysQueue (s : State) (ctx n : Nat) : Option Queue := s.queues.find? (fun q => decide (q.ctx = ctx) && decide (q.sys = n))

/-- The 64 bytes of a notification record (04 R89). -/
def noteBytes (s : State) (kind : Nat) (a0 a1 : Nat) : List Byte :=
  natLE 8 kind ++ natLE 8 s.fcycles ++ natLE 8 a0 ++ natLE 8 a1 ++ List.replicate 32 0

/-- A notification record put where there is room, with event NOTE (04 R89, R94). -/
def noteRaw (s : State) (ctx kind a0 a1 : Nat) : State :=
  match sysQueue s ctx 3 with
  | none => s
  | some q =>
    if queueFull q then onCtx s ctx (fun c => { c with lostN := c.lostN + 1 })
    else raiseEvent (appendEntry s q (noteBytes s kind a0 a1) [] []) ctx 3

/-- The record of kind 0x07 that precedes the first record to find room after a loss (04 R90). Where one place is free it takes that, and
the record that it precedes is lost itself, a case that the spec does not name (assumption 83). -/
def lostFirst (s : State) (ctx : Nat) : State :=
  match s.contexts[ctx]?, sysQueue s ctx 3 with
  | some c, some q =>
    if (c.lostN ≠ 0 ∨ c.lostF ≠ 0) ∧ !queueFull q then
      noteRaw (onCtx s ctx (fun c => { c with lostN := 0, lostF := 0 })) ctx 7 c.lostN c.lostF
    else s
  | _, _ => s

/-- A notification of a context (04 R89, R90). -/
def notify (s : State) (ctx kind a0 a1 : Nat) : State := noteRaw (lostFirst s ctx) ctx kind a0 a1

/-- The 64 bytes of a fault record (04 R88). -/
def faultBytes (time : Nat) (lfail : Bool) (sub cause : Nat) (lid : W64) (core tag team : Nat) (addr pc : W64) : List Byte :=
  natLE 8 ((if lfail then 2 ^ 16 else 0) + 256 * sub + cause) ++ natLE 8 lid.toNat ++
    natLE 8 (2 ^ 32 * core + 2 ^ 24 * tag + team) ++ natLE 8 addr.toNat ++ natLE 8 pc.toNat ++ natLE 8 time ++
    List.replicate 16 0

/-- Where a fault arose, as its record names it (04 R88): none is 0x3FF for the core and 0xFFFFFF for the team; and the fabric cycle
at which it was detected, none for now. -/
structure Origin where
  ctx    : Nat
  launch : Option Nat
  core   : Nat := 0x3FF
  tag    : Nat := 0
  team   : Nat := 0xFFFFFF
  addr   : W64 := 0
  pc     : W64 := 0
  at_    : Option Nat := none
  deriving DecidableEq, Repr

/-- A launch fails: until it completes it runs as FAILING, with the first cause (05 R105). -/
def failLaunch (s : State) (id cause : Nat) : State :=
  onLaunch s id (fun l =>
    { l with cause := l.cause <|> some cause, st := if l.st = .placing ∨ l.st = .running then .failing else l.st })

/-- A fault record (04 R88, R90, 05 R105): into the fault queue, or lost where it is full; with LFAIL the launch fails in
either case. Faults of a context that is TEARING are discarded (04 R95). -/
def faultRecord (s : State) (o : Origin) (lfail : Bool) (cause sub : Nat) : State :=
  match s.contexts[o.ctx]? with
  | none => s
  | some c =>
    if c.st = .tearing then s
    else
      let lid := ((o.launch.bind (launchOf s)).map (fun l => l.lid)).getD 0
      let s := match o.launch with
        | some l => if lfail then failLaunch s l cause else s
        | none => s
      match sysQueue s o.ctx 2 with
      | none => s
      | some q =>
        if queueFull q then onCtx s o.ctx (fun c => { c with lostF := c.lostF + 1 })
        else
          let s := lostFirst s o.ctx
          let s := appendEntry s q (faultBytes (o.at_.getD s.fcycles) lfail sub cause lid o.core o.tag o.team o.addr o.pc) [] []
          let s := raiseEvent s o.ctx 2
          let n := q.ents.length + 1
          if 3 * q.cap ≤ 4 * n ∧ 4 * (n - 1) < 3 * q.cap then notify s o.ctx 5 n q.cap else s

/-- The address of the instruction that a group stands at, or of the header (04 R88, 03 R58). -/
def Group.instrPC (g : Group) : W64 := if g.atHdr then g.pc else g.pc + BitVec.ofNat 64 (8 * (g.pos + 1))

/-- The origin of a fault of a group. -/
def groupOrigin (s : State) (g : Group) : Origin :=
  { ctx := g.ctx, launch := g.launch, core := g.core,
    team := if g.launch.isSome then ((teamOf s g.team).map (fun t => t.index)).getD 0xFFFFFF else 0xFFFFFF, pc := g.instrPC }

end Sys2Proof.Machine
end

