-- ==== Sys2Proof/Machine/Ops.lean ====
section
/-! DEFINITION. What every instruction of a group shares: the trap frame and the save slot (16 R377, 04 R86), taking an
exception (16 R375, R380, R382), retiring (07 R175), the order of the faults of a word (03 R74), and what completing an
instruction does to the position, the counts and the forwarding window (03 R66, 06 R126, R127). -/

namespace Sys2Proof.Machine

/-- What a frame says beside the trap itself (16 R377). -/
structure FrameInfo where
  trap  : TrapInfo
  hdr   : Bool
  pos   : Nat
  full  : Bool
  parkw : Bool
  instr : W64
  remain : TMask
  resume : Nat
  deriving DecidableEq, Repr

/-- The word of the instruction at a position of the group's clause; the header where the position is the header. -/
def Group.wordAt (g : Group) (pos : Nat) : W64 := g.clause.getD (pos + 1) 0

/-- The virtual address of a save slot (04 R86). -/
def slotVA (s : State) (g : Group) : Nat :=
  match ctxRec s g.ctx with
  | some r => r.sbase + 2048 * g.slot
  | none => 2048 * g.slot

/-- The 256 bytes of a frame (16 R377). -/
def frameBytes (s : State) (g : Group) (f : FrameInfo) : List Byte :=
  let t := f.trap
  let team := teamOf s g.team
  natLE 8 (t.cause + 2 ^ 8 * t.sub + 2 ^ 16 * (if f.hdr then 0 else f.pos % 16) + (if f.hdr then 2 ^ 20 else 0) +
      (if t.after then 2 ^ 21 else 0) + (if f.full then 2 ^ 22 else 0) + (if f.parkw then 2 ^ 23 else 0)) ++
    natLE 8 f.instr.toNat ++ natLE 8 (va57 g.pc) ++ natLE 8 t.addr.toNat ++ natLE 8 t.addr2.toNat ++
    natLE 8 f.remain.toNat ++ natLE 8 f.resume ++ natLE 8 g.flags.toNat ++
    natLE 8 ((team.map (fun (x : Team) => x.tagerr)).getD 0).toNat ++ natLE 8 s.fcycles ++ natLE 8 g.active.toNat ++
    natLE 8 t.info.toNat ++ natLE 8 ((team.map (fun (x : Team) => x.save)).getD 0).toNat ++
    natLE 8 (t.tcause + 2 ^ 8 * t.tsub + 2 ^ 16 * t.tag) ++ natLE 8 t.taddr.toNat ++ List.replicate 136 0

/-- The 16 bytes of an entry of the convergence stack: the address with its kind, then the mask (07 R170). -/
def stackBytes (e : CEnt) : List Byte := natLE 8 (va57 e.addr / 8 * 8 + e.kind) ++ natLE 8 e.mask.toNat

/-- Words as bytes. -/
def wordsLE (ws : List W64) : List Byte := ws.flatMap (fun w => natLE 8 w.toNat)

/-- The word of an instruction or of a header in memory; zero where it cannot be read. -/
def codeWord (s : State) (ctx va : Nat) : W64 :=
  match peek s ctx va .fetch with
  | .ok ph => BitVec.ofNat 64 (memNat s.mem ph.pa 8)
  | .error _ => 0

/-- The instructions of the clause that a group stands in: of the words it has fetched, else as its header in memory says
(03 R55, R56). -/
def clauseLen (s : State) (g : Group) : Nat :=
  if g.clause ≠ [] then g.clause.length - 1
  else
    let h := codeWord s g.ctx (va57 g.pc)
    if h = 0 then 16 else (headerOf h).n

/-- The group as a frame names its position: one that has done the last instruction of its clause stands at the header of the
clause that follows (03 R56, 16 R378), so that POS is at most 15 (16 R377). -/
def Group.named (g : Group) (s : State) : Group :=
  if !g.atHdr && decide (clauseLen s g ≤ g.pos) then
    { g with pc := BitVec.ofNat 64 ((va57 g.pc + 8 * (clauseLen s g + 1)) % 2 ^ 57), pos := 0, atHdr := true, fresh := true,
             checked := false, refetch := false, clause := [], remain := none }
  else g

/-- The address of the resume point (16 R381). -/
def resumePC (g : Group) (f : FrameInfo) : Nat := if f.hdr then va57 g.pc else va57 g.pc + 8 * (f.pos + 1)

/-- The 2,048 bytes of a save slot (04 R86). -/
def slotBytes (s : State) (g : Group) (f : FrameInfo) : List Byte :=
  frameBytes s g f ++ wordsLE g.s ++ wordsLE g.a ++ wordsLE g.mB ++ wordsLE g.p ++ natLE 8 0 ++
    (g.stack.flatMap stackBytes ++ List.replicate (16 * (16 - g.stack.length)) 0) ++
    natLE 8 (resumePC g f) ++ natLE 8 g.active.toNat ++ natLE 8 g.flags.toNat ++ natLE 8 g.flagen.toNat ++
    natLE 8 g.rmode.toNat ++ natLE 8 (g.stack.length + 2 ^ 32 * g.liveIdx) ++ natLE 8 g.frame.toNat ++ natLE 8 g.left ++
    wordsLE g.mL ++ List.replicate 512 0

/-- The L1 portions of a cluster without the sectors that some bytes lie in: a sector may be evicted at any time (08 R196). -/
def l1Forget (s : State) (cluster pa n : Nat) : State :=
  [0, 1, 2, 3].foldl (fun s k => onCore s (4 * cluster + k) (fun c =>
    { c with l1 := c.l1.filter (fun x => decide (x.1 * 128 + 128 ≤ pa) || decide (pa + n ≤ x.1 * 128)) })) s

/-- The state with bytes written by an engine of a cluster at an address of a context, within one page, so that the groups of
the cluster read them (16 R381); none where the translation fails, or names another device. -/
def putVA (s : State) (cluster ctx va : Nat) (bs : List Byte) : Option State :=
  match translate s cluster none ctx va .wr with
  | (s, .ok ph) => if ph.dev.isSome then none else some (l1Forget { s with mem := memPut s.mem ph.pa bs } cluster ph.pa bs.length)
  | (_, .error _) => none

/-- The frame and slot written (16 R377, R380); none is a backing-fault (04 R86). -/
def saveSlot (s : State) (g : Group) (f : FrameInfo) : Option State :=
  putVA s g.cluster g.ctx (slotVA s g) (slotBytes s g f)

/-- The tag of a line that an outstanding result writes (06 R120): UNIFORM where the instruction was issued once for every
active thread, else GENERAL. -/
def llTag (l : LL) : List (Nat × W32) → SclTag
  | [] => .general
  | w :: _ => if l.uni then .uniform w.2 else .general

/-- One outstanding result written: its words into the register cache, over a held result where there still is one, its
uniform registers, its predicate for every thread that was active at its issue (12 R305), its flags (03 R66, 06 R128, 02 R54). -/
def applyLL (s : State) (g : Group) (l : LL) : Group :=
  let lines := l.vregs.foldl (fun g n =>
    let ws := (l.vec.filter (fun x => decide (x.1 = n))).map (fun x => x.2)
    if ws = [] then g else cachePut s g n (mergeLine (cachedLine s g n) ws) (llTag l ws)) g
  let g := l.scl.foldl (fun g x => writeScalar g x.1 x.2) lines
  let g := match l.pred with
    | some p => putPred g p l.mask (if l.pval then BitVec.allOnes 64 else 0)
    | none => g
  { g with flags := g.flags ||| l.flags, ll := g.ll.filter (fun x => decide (x.key ≠ l.key)) }

/-- Every outstanding result written, oldest first. -/
def applyAll (s : State) (g : Group) : Group := g.ll.foldl (applyLL s) g

/-- The group with no thread left: it enters RETIRING, its window flushed (06 R115, R129). -/
def toRetiring (s : State) (g : Group) : Group :=
  { flushWin s g with st := .retiring, active := 0, stack := [], park := none, pendTrap := none }

/-- The state in which a group has stopped with a fault record (16 R382), of a fault detected now or before. -/
def stopGroup (s : State) (g : Group) (lfail : Bool) (cause sub : Nat) (addr : W64) (at_ : Option Nat := none) : State :=
  faultRecord (setGroup s (toRetiring s g)) { groupOrigin s g with addr := addr, at_ := at_ } lfail cause sub

/-- The frame of a trap at the group's position (16 R378); that of budget-exhausted names the threads still to run of an instruction
that a return from a trap goes on with (16 R377, R395). -/
def trapFrame (g : Group) (t : TrapInfo) : FrameInfo :=
  let live := liveMask g
  let resume := match t.thread with
    | some x => x
    | none => (lowest g.active).getD 0
  let remain := match t.thread with
    | some x => maskOf ((threads live).filter (fun y => decide (x ≤ y)))
    | none => if t.cause = 0x23 then live else g.active
  { trap := t, hdr := g.atHdr, pos := g.pos, full := false, parkw := false,
    instr := match g.transfer with
      | some w => w
      | none => if g.atHdr then g.clause.getD 0 0 else g.wordAt g.pos,
    remain := remain, resume := resume }

/-- The dirty lines of a group that meet a condition written to its frame; none where it cannot be written. -/
def writeLines (s : State) (g : Group) (p : Line → Bool) : Option State :=
  (g.lines.filter (fun l => l.dirty && p l)).foldl (fun o l => o.bind (fun s =>
    putVA s g.cluster g.ctx (g.frame.toNat + 4 * g.width * l.reg) (l.data.flatMap (fun w => natLE 4 w.toNat)))) (some s)

/-- Whether a group is parked before an instruction that waits for a QPOP result, and goes on with that instruction (12 R306). -/
def Group.beforePop (g : Group) : Bool :=
  match g.park with
  | some (.result _) => true
  | _ => false

/-- The frame of a save or a halt (16 R377, R378, R385): a parked group goes on after its instruction, or before one that waits for a
QPOP result, every other at its resume point. -/
def saveFrame (s : State) (g : Group) (cause : Nat) (full : Bool) : FrameInfo :=
  let parked := g.park.isSome
  let f := trapFrame g { cause := cause, sub := 0, after := parked && !g.beforePop }
  { f with full := full, parkw := parked, remain := liveMask g,
           instr := if g.clause = [] ∧ g.transfer.isNone then codeWord s g.ctx (if g.atHdr then va57 g.pc else va57 g.pc + 8 * (g.pos + 1))
             else f.instr }

/-- The group as the handler starts (16 R380); one that had released its lane is READY. -/
def enterHandler (s : State) (g : Group) (base : W64) : Group :=
  let ptr := slotVA s g
  let all := fun (v : Nat) => List.replicate g.width (BitVec.ofNat 32 v)
  let g := cachePut s g g.nregs (all (ptr % 2 ^ 32)) .general
  let g := cachePut s g (g.nregs + 1) (all (ptr / 2 ^ 32)) .general
  { g with handler := true, active := widthMask g.width, stack := [], flags := 0, flagen := 0, rmode := 0, pc := base,
           pos := 0, atHdr := true, fresh := true, checked := false, refetch := false, clause := [], transfer := none,
           remain := none, pendTrap := none, park := none, ending := false, saving := false,
           st := if g.st = .running then .running else .ready }

/-- The entry of a trap once every outstanding result is written (16 R380, R382): the handler where the team has one; a
double fault in handler mode; without a handler a breakpoint halts the group alone, as HALT halts a group (16 R389), and any
other cause stops it and its launch. A frame that cannot be written is a backing-fault (04 R86). -/
def enterTrap (s : State) (g : Group) (t : TrapInfo) : State :=
  let g := flushWin s (applyAll s g)
  let base := ((teamOf s g.team).map (fun t => t.trapbase)).getD 0
  if g.handler then stopGroup s g true 0x27 t.cause t.addr t.at_
  else if base = 0 then
    if t.cause = 0x26 then
      let o := { groupOrigin s g with at_ := t.at_ }
      let g := Group.named { g with pos := g.pos + 1, pendTrap := none, remain := none } s
      match writeLines s g (fun _ => true) with
      | none => stopGroup s g true 0x44 0 g.frame
      | some s1 =>
        match saveSlot s1 g (saveFrame s1 g 0x2A true) with
        | none => stopGroup s1 g true 0x44 0 (BitVec.ofNat 64 (slotVA s g))
        | some s2 => faultRecord (setGroup s2 { g with halted := true, refetch := true, lines := [],
                                                       st := if g.st = .running then .ready else g.st }) o false t.cause t.sub
    else stopGroup s g true t.cause t.sub t.addr t.at_
  else
    match saveSlot s g (trapFrame g t) with
    | none => stopGroup s g true 0x44 0 (BitVec.ofNat 64 (slotVA s g))
    | some s' => setGroup s' (enterHandler s' g base)

/-- Whether a trap halts its group alone: a breakpoint that finds no handler (16 R382). -/
def haltsAlone (s : State) (g : Group) (t : TrapInfo) : Bool :=
  !g.handler && decide (t.cause = 0x26) && decide (((teamOf s g.team).map (fun t => t.trapbase)).getD 0 = 0)

/-- Whether the entry of a trap has to wait: for a long-latency result that is still to come (03 R66); and where it halts the group
as HALT does, until its stores have been performed (16 R384, R389). -/
def trapWaits (s : State) (g : Group) (t : TrapInfo) : Bool :=
  g.ll.any (fun l => decide (l.need ≠ 0)) ||
    (haltsAlone s g t && !(decide (g.coal = []) && decide (g.fifo = []) && !s.flight.any (fun r => decide (r.gid = g.id))))

/-- Whether a cluster is in the frequency switch of a change (18 R414): its lanes issue nothing, and what the fabric brings for it waits
in its clock-crossing FIFO (26 R490). -/
def switching (s : State) (c : Nat) : Bool :=
  match (clusterAt s c).change with
  | some x => !x.ramp
  | none => false

/-- Whether a group keeps its state because its cluster is in a frequency switch (18 R414); one that is saved is on no cluster. -/
def switchHolds (s : State) (g : Group) : Bool := decide (g.st ≠ .saved) && switching s g.cluster

/-- Taking an exception (16 R375, R380): entry follows at once where nothing holds it, and else when that has come (03 R66,
TRAP_ENTRY); the fault is detected now in either case (04 R88). -/
def takeTrap (s : State) (g : Group) (t : TrapInfo) : State :=
  if trapWaits s g t then setGroup s { g with pendTrap := some { t with at_ := some (t.at_.getD s.fcycles) } } else enterTrap s g t

/-- A fault with a cause and subcause at the group-wide instruction. -/
def trapC (cause sub : Nat) : TrapInfo := { cause := cause, sub := sub }
/-- The illegal-instruction fault (03 R72). -/
def illegal : TrapInfo := trapC 3 0

/-- How an instruction of a group ends: done, with control transferred, waiting where it is with nothing changed or with a
change outside its group, or with a fault after the effects of the threads before it. -/
inductive GOut where
  | done (s : State)
  | jump (s : State)
  | wait
  | hold (s : State)
  | trap (s : State) (t : TrapInfo)
  deriving DecidableEq, Repr

/-- The registers of the scalar space and of the vector space that formats other than V name. -/
def Instr.mregs (f : MF) (data : List (Nat × Nat)) : List (Nat × Nat) :=
  data ++ (if f.x = 0x7FF then [] else [(f.x.toNat, 1)])

/-- The vector-space registers that an instruction reads: first register and how many (03 R70). -/
def vreads : Instr → List (Nat × Nat)
  | .iaddi _ f => [(f.a.toNat, 1)]
  | .andi _ f => [(f.a.toNat, 1)]
  | .ori _ f => [(f.a.toNat, 1)]
  | .xori _ f => [(f.a.toNat, 1)]
  | .shli _ f => [(f.a.toNat, 1)]
  | .shri _ f => [(f.a.toNat, 1)]
  | .sari _ f => [(f.a.toNat, 1)]
  | .icmpi _ f => [(f.a.toNat, 1)]
  | .rdfirst _ f => [(f.a.toNat, f.t.regs)]
  | .ld _ f => Instr.mregs f []
  | .st _ f => Instr.mregs f [(f.data.toNat, szRegs f.sz)]
  | .lda _ f => Instr.mregs f []
  | .stl _ f => Instr.mregs f [(f.data.toNat, szRegs f.sz)]
  | .ldu _ f => Instr.mregs f []
  | .stu _ f => Instr.mregs f []
  | .ldnt _ f => Instr.mregs f []
  | .stnt _ f => Instr.mregs f [(f.data.toNat, szRegs f.sz)]
  | .atom _ f => Instr.mregs f [(f.data.toNat, szRegs f.sz)]
  | .red _ f => Instr.mregs f [(f.data.toNat, szRegs f.sz)]
  | .atomf _ f => Instr.mregs f [(f.data.toNat, szRegs f.sz)]
  | .cas _ f => Instr.mregs f [(f.data.toNat, 2 * szRegs f.sz)]
  | .ored _ f => Instr.mregs f [(f.data.toNat, szRegs f.sz + 1)]
  | .sgath _ f => Instr.mregs f []
  | .pref _ f => Instr.mregs f []
  | .resid _ f => Instr.mregs f []
  | .clean _ f => Instr.mregs f []
  | .inval _ f => Instr.mregs f []
  | .spawn _ f => [(f.fl 0 11, 3)]
  | .hfeed _ f => [(f.xf.toNat % 2048, 1)]
  | .qwr _ f => [(f.xf.toNat % 2048, 1)]
  | .naddr _ f => [(f.xf.toNat / 2048 % 2048, 1)]
  | i => match i.vuse with
    | some (_, f, u) => u.a.span f.a ++ u.b.span f.b ++ (if u.dsrc then u.d.span f.d else [])
    | none => []

/-- The vector-space registers that an instruction writes (03 R70). -/
def vwrites : Instr → List (Nat × Nat)
  | .iaddi _ f => [(f.d.toNat, 1)]
  | .andi _ f => [(f.d.toNat, 1)]
  | .ori _ f => [(f.d.toNat, 1)]
  | .xori _ f => [(f.d.toNat, 1)]
  | .shli _ f => [(f.d.toNat, 1)]
  | .shri _ f => [(f.d.toNat, 1)]
  | .sari _ f => [(f.d.toNat, 1)]
  | .movi _ f => [(f.d.toNat, 1)]
  | .movhi _ f => [(f.d.toNat, 2)]
  | .ld _ f => [(f.data.toNat, szRegs f.sz)]
  | .lda _ f => [(f.data.toNat, szRegs f.sz)]
  | .ldnt _ f => [(f.data.toNat, szRegs f.sz)]
  | .atom _ f => [(f.data.toNat, szRegs f.sz)]
  | .atomf _ f => if f.off8.getLsbD 3 then [] else [(f.data.toNat, szRegs f.sz)]
  | .cas _ f => [(f.data.toNat, szRegs f.sz)]
  | .sgath _ f => [(f.data.toNat, 1)]
  | .hdrain _ f => [(f.xf.toNat % 2048, 1)]
  | .qrd _ f => [(f.xf.toNat % 2048, 1)]
  | .naddr _ f => [(f.xf.toNat % 2048, 1)]
  | .sread _ f => if f.mod = 0 then [(f.d.toNat, 1)] else []
  | i => match i.vuse with
    | some (_, f, u) => u.d.span f.d
    | none => []

/-- A stream slot of a core. -/
def slotOf (s : State) (core n : Nat) : Stream := ((coreAt s core).streams)[n]?.getD Stream.empty
/-- The element size of a record (08 R199). -/
def strmSize (w : List W64) : Nat := 2 ^ (bits (w.getD 6 0).toNat 0 3)
/-- The registers that an element takes, from a multiple of their number (09 R242). -/
def strmRegs (w : List W64) : Nat := max 1 (strmSize w / 4)
/-- The slot that a stream instruction names (09 R241). -/
def strmNo (f : CF) : Nat := f.fl 12 2

/-- The registers that an access of a stream slot takes from a register on: those of the element size that the slot's record
states, one where the slot is FREE (09 R242). -/
def slotSpan (s : State) (g : Group) (f : CF) : Nat × Nat :=
  let x := slotOf s g.core (strmNo f)
  (f.fl 0 11, if x.st = .free then 1 else strmRegs x.recd)

/-- The vector-space registers of STRMPOP and STRMPSH. -/
def strmSpan (s : State) (g : Group) : Instr → List (Nat × Nat)
  | .strmpop _ f => [slotSpan s g f]
  | .strmpsh _ f => [slotSpan s g f]
  | _ => []

/-- What makes a defined word illegal in the state where it is reached (03 R72): a stream register that is not a multiple of
the number it takes (09 R242), and SPAWN in an activation, which belongs to no launch (06 R138). -/
def illegalHere (s : State) (g : Group) (i : Instr) : Bool :=
  (strmSpan s g i).any (fun p => decide (p.1 % p.2 ≠ 0)) ||
    (match i with
      | .spawn _ _ => g.launch.isNone
      | _ => false)

/-- The registers of a list of spans. -/
def spanRegs (xs : List (Nat × Nat)) : List Nat := xs.flatMap (fun p => (List.range p.2).map (fun i => p.1 + i))

/-- Whether an instruction is privileged (03 R73): HALT, DBGDRAIN, MRESET, TLBINV. -/
def isPrivileged : Instr → Bool
  | .halt _ _ => true
  | .haltResume _ _ => true
  | .dbgdrain _ _ => true
  | .mreset _ _ => true
  | .tlbinvVa _ _ => true
  | .tlbinvRange _ _ => true
  | .tlbinvCtx _ _ => true
  | .tlbinvAll _ _ => true
  | _ => false

/-- Whether the group's context may run privileged instructions (04 R81). -/
def isPriv (s : State) (g : Group) : Bool :=
  match ctxRec s g.ctx with
  | some r => r.priv
  | none => false

/-- The faults that a word takes before its own operation, in their order (03 R74): illegal-instruction, with the register
space of handler mode (03 R70); privileged-instruction; register-bound, of the registers of a stream's element too. -/
def preFault (s : State) (g : Group) (i : Instr) : Option TrapInfo :=
  let regs := spanRegs (vreads i ++ vwrites i ++ strmSpan s g i)
  if !i.wf || illegalHere s g i then some illegal
  else if g.handler && regs.any (fun r => decide (64 ≤ r)) then some illegal
  else if isPrivileged i && !isPriv s g then some (trapC 4 0)
  else if !g.handler && regs.any (fun r => decide (g.nregs ≤ r)) then some (trapC 5 0)
  else none

/-- The lines that the kill bits of an instruction kill: those of A and B but for those it writes (03 R67). -/
def killed (g : Group) (i : Instr) : List Nat :=
  match i.vuse with
  | some (_, f, u) =>
    let ks := (if f.ka then u.a.span f.a else []) ++ (if f.kb then u.b.span f.b else [])
    let ds := spanRegs (u.d.span f.d)
    ((spanRegs ks).filter (fun r => !ds.contains r)).map (lineNo g)
  | none => []

/-- The lane cycles of one thread of an instruction (01 R24). -/
def threadCost (i : Instr) : Nat :=
  match i with
  | .imul _ f => if f.t.bits = 64 then 4 else 1
  | .imulh _ f => if f.t.bits = 64 then 4 else 1
  | .imad _ f => if f.t.bits = 64 then 4 else 1
  | .imadw _ _ => 4
  | .idiv _ f => if f.t.bits = 64 then 8 else 1
  | .irem _ f => if f.t.bits = 64 then 8 else 1
  | .fdiv _ _ => 1
  | .fsqrt _ _ => 1
  | .cvtff _ f => if f.t = .f64 ∨ Ty.ofCode f.sub.toNat = .f64 then 4 else 1
  | .cvtfi _ f => if f.t = .f64 ∨ Ty.ofCode f.sub.toNat = .f64 then 4 else if f.t.bits = 64 then 2 else 1
  | .cvtif _ f => if f.t = .f64 ∨ Ty.ofCode f.sub.toNat = .f64 then 4 else if (Ty.ofCode f.sub.toNat).bits = 64 then 2 else 1
  | .cvtii _ f => if f.t.bits = 64 ∨ (Ty.ofCode f.sub.toNat).bits = 64 then 2 else 1
  | i => match i.vuse with
    | some (_, f, _) =>
      if 0xA0 ≤ (i.parts.map (fun p => p.1)).getD 0 then 1
      else if f.t = .f64 then 4 else if f.t.bits = 64 then 2 else 1
    | none => 1

/-- Whether an instruction acts for each qualifying thread (03 R64). -/
def isPerThread (i : Instr) : Bool :=
  match i.parts with
  | some (op, _, _) => decide (op < 0xC0) || (decide (0x100 ≤ op) && decide (op < 0x114) && !([0x104, 0x105, 0x10E, 0x10F].contains op))
  | none => false

/-- Whether an instruction has one cost per active thread though it is group-wide (09 R242, 10 R269, 11 R285, R290). -/
def costsPerActive : Instr → Bool
  | .strmpop _ _ => true
  | .strmpsh _ _ => true
  | .hfeed _ _ => true
  | .naddr _ _ => true
  | .qwr _ _ => true
  | _ => false

/-- The tags of the vector sources of an instruction. -/
def srcTags (g : Group) (i : Instr) : List SclTag := (spanRegs (vreads i)).map (fun r => lineTag g (lineNo g r))

/-- Whether a tag is UNIFORM. -/
def SclTag.isUni : SclTag → Bool
  | .uniform _ => true
  | _ => false

/-- Whether an instruction is a 32-bit integer operation, or a floating-point, packed or conversion one, which the
scalarisation unit can execute once (06 R120). -/
def scalarises (op : Nat) (i : Instr) : Bool :=
  if 0x40 ≤ op then decide (op < 0x90)
  else match i.vuse with
    | some (_, f, _) => decide (f.t = .u32) || decide (f.t = .s32)
    | none => true

/-- Whether the AFFINE source of an instruction keeps its stride, or has it multiplied or shifted (06 R120): one source is
AFFINE and the others UNIFORM, and the amount of a shift is not the AFFINE one. -/
def keepsStride (g : Group) (op : Nat) (i : Instr) : Bool :=
  let ts := srcTags g i
  [0x000, 0x001, 0x022, 0x028, 0x030, 0x004, 0x015, 0x02C].contains op &&
    decide ((ts.filter (fun t => !t.isUni)).length ≤ 1) && !ts.contains .general &&
    (decide (op ≠ 0x015) || (ts.getD 1 .general).isUni)

/-- Whether the scalarisation unit executes the instruction once: every vector source UNIFORM, or an AFFINE source with a
UNIFORM one in the operations that keep or scale the stride (06 R120); with U = 1 once in any case (03 R65). -/
def runsOnce (g : Group) (i : Instr) : Bool :=
  match i.parts with
  | some (op, h, _) => h.u || (scalarises op i && ((srcTags g i).all SclTag.isUni || keepsStride g op i))
  | none => false

/-- The lane cycles that an instruction costs its group (01 R24, 03 R64, R65, 06 R121); SPAWN one for each
deposited thread (06 R138). -/
def costOf (g : Group) (i : Instr) : Nat :=
  match i.parts with
  | some (_, h, _) =>
    if isPerThread i then
      if qualMask g h = 0 then 1
      else if runsOnce g i then threadCost i
      else (threads (qualMask g h)).length * threadCost i
    else if costsPerActive i then (if wideActs g h then max 1 (threads g.active).length else 1)
    else match i with
      | .spawn _ f => if wideActs g h then max 1 (threads (predMask g (f.fl 11 3) &&& g.active)).length else 1
      | _ => 1
  | none => 1

/-- The group at the end of its clause, or of a transfer: at a header (03 R56). A RUNNING group keeps its lane until that
header has been looked at, and is then READY, WAITING or saved (06 R115; headerTurn). -/
def toHeader (g : Group) (pc : W64) : Group :=
  { g with pc := pc, pos := 0, atHdr := true, fresh := true, checked := false, refetch := false, clause := [],
           remain := none, transfer := none, ending := decide (g.st = .running) }

/-- The clause that follows the group's clause (03 R56). -/
def nextClause (g : Group) : W64 := BitVec.ofNat 64 ((va57 g.pc + 8 * g.clause.length) % 2 ^ 57)

/-- One instruction counted: issued, the budget, the lookahead of the outstanding results but for one just issued (03 R66,
12 R310, 04 R96). What ran in handler mode, and groups without a budget, are not counted against one. -/
def countInstr (s : State) (free : Bool) (g : Group) (cost : Nat) (newKeys : List Nat) : Group :=
  let spent := if isReplay s g.ctx then 1 else cost
  { g with issued := g.issued + 1, held := if free then g.held else g.held + spent,
           left := if g.budget = 0 ∨ free then g.left else g.left - spent,
           ll := g.ll.map (fun l => if newKeys.contains l.key then l else { l with left := l.left - 1 }) }

/-- The forwarding window as an instruction completes: its kills take effect, and what was held for eight instructions is
written (06 R127). -/
def windowStep (s : State) (g : Group) (i : Instr) : Group := ageWin s (killLines g (killed g i))

/-- The group after the instruction at its position: the next position, or the header of the clause that follows (03 R56). -/
def nextPos (g : Group) : Group :=
  if g.atHdr then g
  else if g.clause ≠ [] ∧ g.clause.length ≤ g.pos + 2 then toHeader g (nextClause g)
  else { g with pos := g.pos + 1, remain := none }

/-- What completing an instruction does to its group beside the instruction's own effect: the counts, the window, and the
position, which a parked group keeps until it wakes (06 R114). -/
def finishInstr (s : State) (i : Instr) (free : Bool) (cost : Nat) (keys : List Nat) (moves : Bool) (g : Group) : Group :=
  let g := windowStep s (countInstr s free g cost keys) i
  if moves && decide (g.st ≠ .parked) then nextPos g else g

/-- The outcome of an instruction of the group that has its turn: the faults of the word, then its operation k on the group.
An operation that is done goes on to the next position, one that transferred control has set it, one that waits changes
nothing, and one that faults takes its exception. An instruction counts as issued once it has completed, a TRAP, BKPT or TFENCE that
raises its trap too, after which the program goes on (16 R378); one that faults and is run again after RETT counts when it completes,
which 04 R96 leaves open (assumption 79). -/
def runInstr (i : Instr) (s : State) (k : Group → State → GOut) : Host.Outcome State Fault Refusal :=
  match s.cur.bind (groupOf s) with
  | none => .fault .noGroup
  | some g =>
    match preFault s g i with
    | some t => .next (takeTrap s g t)
    | none =>
      match k g s with
      | .wait => .next s
      | .hold s' => .next s'
      | .trap s' t =>
        let g' := (groupOf s' g.id).getD g
        .next (takeTrap s' (if t.after then countInstr s g.handler g' (costOf g i) [] else g') t)
      | .jump s' => .next (onGroup s' g.id (fun g' => finishInstr s i g.handler (costOf g i) (newKeys g g') false g'))
      | .done s' => .next (onGroup s' g.id (fun g' => finishInstr s i g.handler (costOf g i) (newKeys g g') true g'))
where
  /-- The outstanding results that the instruction itself began. -/
  newKeys (g g' : Group) : List Nat :=
    (g'.ll.map (fun (l : LL) => l.key)).filter (fun x => !(g.ll.map (fun (l : LL) => l.key)).contains x)

/-- The outcome of a step of another agent on an object that must exist. -/
def onSome {α : Type} (o : Option α) (k : α → Host.Outcome State Fault Refusal) : Host.Outcome State Fault Refusal :=
  match o with
  | some x => k x
  | none => .fault .noObject

/-- The outcome of a step of another agent whose condition must hold. -/
def onlyIf (c : Bool) (s : State) : Host.Outcome State Fault Refusal := if c then .next s else .fault .notEnabled

end Sys2Proof.Machine
end

