-- ==== Sys2Proof/Machine/Operands.lean ====
section
/-! DEFINITION. The operands of vector instructions (02 R29, 07 R144): reading a typed operand of a thread, the form in which
a result is held, and writing the results of the qualifying threads (03 R64, R65), at once through the forwarding window
or later as a long-latency result (03 R66, 06 R128). -/

namespace Sys2Proof.Machine

/-- The raw bits of a typed operand of one thread: the low bits of its register, or of a pair (02 R29). -/
def readT (s : State) (g : Group) (ty : Ty) (r t : Nat) : Nat := readVs s g r ty.regs t % 2 ^ ty.bits

/-- The integer value of raw bits in a type. -/
def intVal (ty : Ty) (w : Nat) : Int := if ty.signed then sInt ty.bits w else (w % 2 ^ ty.bits : Nat)

/-- The integer operand of one thread. -/
def readI (s : State) (g : Group) (ty : Ty) (r t : Nat) : Int := intVal ty (readT s g ty r t)

/-- What one thread's evaluation gives: words for vector-space registers, bits for predicates, and flags. -/
structure ThreadOut where
  regs  : List (Nat × W32)
  preds : List (Nat × Bool)
  flags : Flags
  deriving DecidableEq, Repr

/-- Consecutive registers that hold a number, the first least significant. -/
def wordsFrom (r : Nat) : Nat → Nat → List (Nat × W32)
  | 0, _ => []
  | n + 1, v => (r, BitVec.ofNat 32 v) :: wordsFrom (r + 1) n (v / 2 ^ 32)

/-- An integer result in the form in which its type is held: wrapped to the type, then extended by the type's signedness to
32 bits, or in a pair (02 R29). -/
def holdI (ty : Ty) (d : Nat) (v : Int) : List (Nat × W32) :=
  wordsFrom d ty.regs (wrapNat (32 * ty.regs) (intVal ty (wrapNat ty.bits v)))

/-- A result of raw bits: zero-extended to 32 bits, or in a pair (02 R29). -/
def holdW (ty : Ty) (d : Nat) (w : Nat) : List (Nat × W32) := wordsFrom d ty.regs w

/-- A result in one register. -/
def hold1 (d : Nat) (w : Nat) : List (Nat × W32) := [(d, BitVec.ofNat 32 w)]

/-- Words with no predicate. -/
def outW (regs : List (Nat × W32)) (flags : Flags) : ThreadOut := ⟨regs, [], flags⟩
/-- One predicate bit. -/
def outP (p : Nat) (b : Bool) (flags : Flags) : ThreadOut := ⟨[], [(p, b)], flags⟩

/-- An integer result under SAT (02 R31). -/
def outI (ty : Ty) (sat : Bool) (d : Nat) (v : Int) : ThreadOut :=
  let (r, fl) := saturate ty sat v
  outW (holdI ty d r) fl

/-- The evaluations of the qualifying threads: of each, or with the U bit once for the lowest (03 R64, R65). -/
def evalThreads (g : Group) (h : Hd) (f : Nat → ThreadOut) : List (Nat × ThreadOut) :=
  let q := qualMask g h
  match lowest q with
  | none => []
  | some t0 => if h.u then (threads q).map (fun t => (t, f t0)) else (threads q).map (fun t => (t, f t))

/-- The flags of the evaluations (02 R54). -/
def outFlags (os : List (Nat × ThreadOut)) : Flags := os.foldl (fun a o => a ||| o.2.flags) 0

/-- The words that the evaluations give for one register, by thread. -/
def wordsOf (os : List (Nat × ThreadOut)) (r : Nat) : List (Nat × W32) :=
  os.flatMap (fun o => (o.2.regs.filter (fun w => decide (w.1 = r))).map (fun w => (o.1, w.2)))

/-- The predicates that the evaluations write: only the bits of their threads (07 R144). -/
def writePreds (g : Group) (os : List (Nat × ThreadOut)) : Group :=
  os.foldl (fun g o => o.2.preds.foldl (fun g p =>
    putPred g p.1 (1 <<< o.1) (if p.2 then BitVec.allOnes 64 else 0)) g) g

/-- The stride that an operation gives its result, of an AFFINE source with a UNIFORM one (06 R120): kept, multiplied or shifted, and
of an ISUB with the AFFINE source behind the sign the opposite. -/
def strideOf (g : Group) (i : Instr) : Option W32 :=
  match i, srcTags g i with
  | .isub _ _, [.uniform _, .affine _ d] => some (-d)
  | .imul _ _, [.uniform c, .affine _ d] => some (d * c)
  | .imul _ _, [.affine _ d, .uniform c] => some (d * c)
  | .shl _ _, [.affine _ d, .uniform c] => some (d <<< c.toNat)
  | .shli _ f, [.affine _ d] => some (d <<< (f.imm.toNat % 32))
  | _, ts => match ts.find? (fun t => !t.isUni) with
    | some (.affine _ d) => some d
    | _ => none

/-- The tag of a line that the evaluations wrote (06 R120): UNIFORM where the instruction ran once with one value for every
active thread, AFFINE where it kept or scaled a stride, GENERAL otherwise. -/
def resultTag (g : Group) (i : Instr) (h : Hd) (ws : List (Nat × W32)) : SclTag :=
  let whole := decide (qualMask g h = g.active)
  if !whole then .general
  else if h.u || (srcTags g i).all SclTag.isUni then
    match ws with
    | [] => .general
    | w :: _ => if runsOnce g i then .uniform w.2 else .general
  else if runsOnce g i then
    match ws, strideOf g i with
    | w :: _, some d =>
      let b := w.2 - d * BitVec.ofNat 32 w.1
      if ws.all (fun x => decide (x.2 = b + d * BitVec.ofNat 32 x.1)) then .affine b d else .general
    | _, _ => .general
  else .general

/-- The results of the evaluations written through the forwarding window (06 R126), with their predicates and flags. -/
def writeOuts (s : State) (g : Group) (i : Instr) (h : Hd) (os : List (Nat × ThreadOut)) : Group :=
  let g' := (spanRegs (vwrites i)).foldl (fun g' r =>
    let ws := wordsOf os r
    if ws = [] then g' else holdLine s g' (lineNo g r) ws (resultTag g i h ws)) g
  let g' := writePreds g' os
  { g' with flags := g'.flags ||| outFlags os }

/-- A vector instruction whose result is written at once. -/
def vecOp (i : Instr) (h : Hd) (f : State → Group → Nat → ThreadOut) (s : State) : Host.Outcome State Fault Refusal :=
  runInstr i s (fun g s => .done (setGroup s (writeOuts s g i h (evalThreads g h (f s g)))))

/-- The limit of outstanding long-latency results (03 R66). -/
def llLimit : Nat := 16

/-- A long-latency result begun: held results of the registers it will write go to the register cache first (06 R128). -/
def beginLL (s : State) (g : Group) (l : LL) : Group :=
  let g := (g.win.filter (fun h => l.vregs.contains h.reg)).foldl (settleHeld s) g
  { g with ll := g.ll ++ [l] }

/-- Whether one value goes to every active thread (06 R120): with U = 1, or from UNIFORM sources alone in an operation that
is executed once; a load has none (its address is computed once, its accesses are made per thread). -/
def llUniform (g : Group) (i : Instr) (h : Hd) : Bool :=
  decide (qualMask g h = g.active) && (h.u || (decide ((i.vuse).isSome) && runsOnce g i && (srcTags g i).all SclTag.isUni))

/-- The outstanding result of an instruction with no part yet. -/
def newLL (i : Instr) (g : Group) (key : Nat) (h : Hd) : LL :=
  { key := key, left := h.la.toNat, need := 0, vregs := (spanRegs (vwrites i)).map (lineNo g), sregs := [],
    pred := none, vec := [], scl := [], pval := false, flags := 0, uni := llUniform g i h, mask := g.active,
    tile := match i with
      | .zld _ f => some f.z.toNat
      | _ => none }

/-- A vector instruction whose result is long-latency (03 R66): it waits while 16 results are outstanding; no qualifying
thread gives no result. -/
def vecOpLL (i : Instr) (h : Hd) (f : State → Group → Nat → ThreadOut) (s : State) : Host.Outcome State Fault Refusal :=
  runInstr i s (fun g s =>
    let os := evalThreads g h (f s g)
    if os = [] then .done s
    else if llLimit ≤ g.ll.length then .wait
    else
      let (key, s) := takeId s
      let parts := os.flatMap (fun o => o.2.regs.map (fun w => (lineNo g w.1, o.1, w.2)))
      .done (setGroup s (beginLL s g { newLL i g key h with vec := parts, flags := outFlags os })))

/-- A group-wide instruction: it acts once where the lowest active thread qualifies, and otherwise has no effect (03 R64). -/
def wideOp (i : Instr) (h : Hd) (k : Group → State → GOut) (s : State) : Host.Outcome State Fault Refusal :=
  runInstr i s (fun g s => if wideActs g h then k g s else .done s)

/-- A group-wide instruction that only changes its group. -/
def wideGroup (i : Instr) (h : Hd) (f : State → Group → Group) (s : State) : Host.Outcome State Fault Refusal :=
  wideOp i h (fun g s => .done (setGroup s (f s g))) s

end Sys2Proof.Machine
end

