-- ==== Sys2Proof/Machine/Scalar.lean ====
section
/-! DEFINITION. The scalar and address instructions (07 R165 to R168), and modulo wrapping (08 R198). -/

namespace Sys2Proof.Machine

/-- A scalar source as a number in the type: its low 32 bits, or all 64 (07 R165). -/
def sVal (ty : Ty) (g : Group) (r : Nat) : Int := intVal ty (readScalar g r).toNat

/-- A scalar result in the type, extended to 64 bits by its signedness (07 R165). -/
def sPut (ty : Ty) (g : Group) (d : Nat) (v : Int) : Group :=
  writeScalar g d (BitVec.ofInt 64 (intVal ty (wrapNat ty.bits v)))

/-- A scalar instruction of two sources. -/
def scalar2 (i : Instr) (h : Hd) (f : RF) (op : Int → Int → Int) (s : State) : Host.Outcome State Fault Refusal :=
  wideGroup i h (fun _ g => sPut f.t g f.d.toNat (op (sVal f.t g f.a.toNat) (sVal f.t g f.b.toNat))) s

/-- A scalar instruction on the bits of two sources. So the amount of a shift is a number of the type's width without a sign, also
where the type has one: a negative amount is one beyond the width, which 07 R166 leaves open (assumption 77). -/
def scalarBits (i : Instr) (h : Hd) (f : RF) (op : Nat → Nat → Nat) (s : State) : Host.Outcome State Fault Refusal :=
  wideGroup i h (fun _ g => sPut f.t g f.d.toNat
    (op ((readScalar g f.a.toNat).toNat % 2 ^ f.t.bits) ((readScalar g f.b.toNat).toNat % 2 ^ f.t.bits))) s

/-- SADD (07 R166). -/
def execSadd (h : Hd) (f : RF) (s : State) : Host.Outcome State Fault Refusal :=
  scalar2 (.sadd h f) h f (fun a b => a + b) s
/-- SSUB (07 R166). -/
def execSsub (h : Hd) (f : RF) (s : State) : Host.Outcome State Fault Refusal :=
  scalar2 (.ssub h f) h f (fun a b => a - b) s
/-- SMUL (07 R166). -/
def execSmul (h : Hd) (f : RF) (s : State) : Host.Outcome State Fault Refusal :=
  scalar2 (.smul h f) h f (fun a b => a * b) s
/-- SAND (07 R166). -/
def execSand (h : Hd) (f : RF) (s : State) : Host.Outcome State Fault Refusal :=
  scalarBits (.sand h f) h f (fun a b => a &&& b) s
/-- SOR (07 R166). -/
def execSor (h : Hd) (f : RF) (s : State) : Host.Outcome State Fault Refusal :=
  scalarBits (.sor h f) h f (fun a b => a ||| b) s
/-- SXOR (07 R166). -/
def execSxor (h : Hd) (f : RF) (s : State) : Host.Outcome State Fault Refusal :=
  scalarBits (.sxor h f) h f (fun a b => a ^^^ b) s
/-- SSHL (07 R166). -/
def execSshl (h : Hd) (f : RF) (s : State) : Host.Outcome State Fault Refusal :=
  scalarBits (.sshl h f) h f (fun a b => if f.t.bits ≤ b then 0 else a * 2 ^ b) s
/-- SSHR (07 R166). -/
def execSshr (h : Hd) (f : RF) (s : State) : Host.Outcome State Fault Refusal :=
  scalarBits (.sshr h f) h f (fun a b =>
    if f.mod.getLsbD 0 then wrapNat f.t.bits (sInt f.t.bits a / 2 ^ min b f.t.bits)
    else if f.t.bits ≤ b then 0 else a / 2 ^ b) s

/-- The result of SCMP: 1 or 0, or the bit of every active thread of a predicate (07 R167). -/
def scmpPut (g : Group) (d : Nat) (b : Bool) : Group :=
  if d < 96 then writeScalar g d (if b then 1 else 0)
  else putPred g (d - 96) g.active (if b then BitVec.allOnes 64 else 0)

/-- SCMP (07 R167). -/
def execScmp (h : Hd) (f : RF) (s : State) : Host.Outcome State Fault Refusal :=
  wideGroup (.scmp h f) h (fun _ g =>
    scmpPut g f.d.toNat (intRel f.mod.toNat (sVal f.t g f.a.toNat) (sVal f.t g f.b.toNat))) s

/-- Whether a predicate holds for the lowest active thread. -/
def predT0 (g : Group) (p : Nat) : Bool := (predMask g p).getLsbD ((lowest g.active).getD 0)

/-- SSEL (07 R166, R167). -/
def execSsel (h : Hd) (f : RF) (s : State) : Host.Outcome State Fault Refusal :=
  wideGroup (.ssel h f) h (fun _ g =>
    let c := predT0 g (f.mod.toNat % 8) != f.mod.getLsbD 3
    sPut f.t g f.d.toNat (if c then sVal f.t g f.a.toNat else sVal f.t g f.b.toNat)) s

/-- SMOV (07 R166, R168). -/
def execSmov (h : Hd) (f : RF) (s : State) : Host.Outcome State Fault Refusal :=
  wideGroup (.smov h f) h (fun _ g => writeScalar g f.d.toNat (readScalar g f.a.toNat)) s
/-- SMOVI (07 R166). -/
def execSmovi (h : Hd) (f : SF) (s : State) : Host.Outcome State Fault Refusal :=
  wideGroup (.smovi h f) h (fun _ g => writeScalar g f.d.toNat (f.imm.signExtend 64)) s
/-- SADDI (07 R166). -/
def execSaddi (h : Hd) (f : SF) (s : State) : Host.Outcome State Fault Refusal :=
  wideGroup (.saddi h f) h (fun _ g => writeScalar g f.d.toNat (readScalar g f.a.toNat + f.imm.signExtend 64)) s

/-- RDFIRST (07 R167). -/
def execRdfirst (h : Hd) (f : RF) (s : State) : Host.Outcome State Fault Refusal :=
  wideGroup (.rdfirst h f) h (fun s g =>
    sPut f.t g f.d.toNat (readI s g f.t f.a.toNat ((lowest g.active).getD 0))) s

/-- The number of 1 bits among the low n. -/
def popNat (n v : Nat) : Nat := ((List.range n).filter (fun i => v.testBit i)).length
/-- The number of zeros below the lowest 1 among n bits, n where there is none. -/
def ctzNat (n v : Nat) : Nat := ((List.range n).find? (fun i => v.testBit i)).getD n

/-- SPOPC (07 R166). -/
def execSpopc (h : Hd) (f : RF) (s : State) : Host.Outcome State Fault Refusal :=
  wideGroup (.spopc h f) h (fun _ g => sPut .u64 g f.d.toNat (popNat 64 (readScalar g f.a.toNat).toNat : Nat)) s
/-- SCTZ (07 R166). -/
def execSctz (h : Hd) (f : RF) (s : State) : Host.Outcome State Fault Refusal :=
  wideGroup (.sctz h f) h (fun _ g => sPut f.t g f.d.toNat (ctzNat f.t.bits (readScalar g f.a.toNat).toNat : Nat)) s

/-- A length that a modulo register may have for accesses of a size (08 R198). -/
def moduloOk (len : W64) (size : Nat) : Bool :=
  decide (len ≠ 0) && decide (len.toNat % size = 0) && decide (len.toNat < 2 ^ 40)

/-- An address wrapped by a base and a length (08 R198). -/
def moduloWrap (base len : W64) (addr : Int) : W64 :=
  BitVec.ofInt 64 (base.toNat + (addr - base.toNat) % (len.toNat : Int))

/-- AADD (07 R168). -/
def execAadd (h : Hd) (f : SF) (s : State) : Host.Outcome State Fault Refusal :=
  wideOp (.aadd h f) h (fun g s =>
    let k := bits f.imm.toNat 20 4
    let a := readScalar g f.a.toNat
    let inc := sInt 20 f.imm.toNat
    let base := g.mB.getD k 0
    let len := g.mL.getD k 0
    if k = 15 then .done (setGroup s (writeScalar g f.d.toNat (a + BitVec.ofInt 64 inc)))
    else if !moduloOk len 1 then .trap s (trapC 0x0B 0)
    else .done (setGroup s (writeScalar g f.d.toNat (moduloWrap base len (a.toNat + inc))))) s

/-- MSET (07 R168). -/
def execMset (h : Hd) (f : RF) (s : State) : Host.Outcome State Fault Refusal :=
  wideGroup (.mset h f) h (fun _ g =>
    let len := readScalar g f.b.toNat
    let g := writeScalar g f.d.toNat (readScalar g f.a.toNat)
    { g with mL := g.mL.set (f.d.toNat - 80) len }) s

end Sys2Proof.Machine
end

