-- ==== Sys2Proof/Machine/Control.lean ====
section
/-! DEFINITION. The control instructions and the convergence stack (07 R169 to R176), SLEEP and YIELD (06 R130, R131), and
TRAP, BKPT and TFENCE (16 R392, R393). -/

namespace Sys2Proof.Machine

/-- The group at a target (07 R171, R176): where the target is misaligned, the word of the transfer is kept for the fault
that falls there (03 R59). -/
def goTo (g : Group) (pc : W64) : Group :=
  let w := g.wordAt g.pos
  { toHeader g pc with transfer := if pc.toNat % 8 = 0 then none else some w }

/-- H + 8 times a signed offset of 28 bits (03 R68). -/
def branchTo (g : Group) (off : BitVec 28) : W64 := BitVec.ofInt 64 ((va57 g.pc + 8 * off.toInt) % 2 ^ 57)

/-- The entries of the convergence stack that a push may still add (07 R170). -/
def stackRoom (g : Group) : Nat := 16 - g.stack.length

/-- The group with an entry pushed; the top is the last of the list. -/
def pushEnt (g : Group) (e : CEnt) : Group := { g with stack := g.stack ++ [e] }

/-- Entries popped from the top until one has a thread (07 R175). -/
def popLive : List CEnt → Option (CEnt × List CEnt)
  | [] => none
  | e :: es => if e.mask = 0 then popLive es else some (e, es)

/-- A group with no active thread: it resumes the uppermost entry of its stack with a thread, or enters RETIRING
(07 R175, 16 R395). -/
def resumeOrRetire (s : State) (g : Group) : Group :=
  match popLive g.stack.reverse with
  | some (e, rest) => goTo { g with stack := rest.reverse, active := e.mask } e.addr
  | none => toRetiring s { g with active := 0, stack := [] }

/-- BRA (07 R171). -/
def execBra (h : Hd) (f : BF) (s : State) : Host.Outcome State Fault Refusal :=
  wideOp (.bra h f) h (fun g s => .jump (setGroup s (goTo g (branchTo g f.off)))) s

/-- BRX (07 R171): bits [63:57] of the target are ignored. -/
def execBrx (h : Hd) (f : RF) (s : State) : Host.Outcome State Fault Refusal :=
  wideOp (.brx h f) h (fun g s =>
    .jump (setGroup s (goTo g (BitVec.ofNat 64 (va57 (readScalar g f.a.toNat)))))) s

/-- What BRD does (07 R172). -/
def brdOp (h : Hd) (f : BF) (g : Group) (s : State) : GOut :=
  let tk := condMask g h
  let j := BitVec.ofNat 64 ((va57 g.pc + 8 * f.joff.toNat) % 2 ^ 57)
  let need := if tk = g.active ∨ tk = 0 then 1 else 2
  if stackRoom g < need then .trap s (trapC 0x0E 1)
  else
    let g1 := pushEnt g ⟨g.active, j, 0⟩
    if tk = g.active then .jump (setGroup s (goTo g1 (branchTo g f.off)))
    else if tk = 0 then .done (setGroup s g1)
    else .done (setGroup s { pushEnt g1 ⟨tk, branchTo g f.off, 1⟩ with active := g.active &&& ~~~tk })

/-- BRD (07 R172): its predicate gives each thread's condition and does not guard it. -/
def execBrd (h : Hd) (f : BF) (s : State) : Host.Outcome State Fault Refusal := runInstr (.brd h f) s (brdOp h f)

/-- The first entry below the top that has a thread, unless the stack ends or a call stands there first (07 R173). -/
def joinPop : List CEnt → Except Nat (CEnt × List CEnt)
  | [] => .error 2
  | e :: es => if e.kind = 2 then .error 3 else if e.mask = 0 then joinPop es else .ok (e, es)

/-- JOIN (07 R173). -/
def execJoin (h : Hd) (f : BF) (s : State) : Host.Outcome State Fault Refusal :=
  wideOp (.join h f) h (fun g s =>
    match joinPop g.stack.reverse with
    | .error sub => .trap s (trapC 0x0E sub)
    | .ok (e, rest) => .jump (setGroup s (goTo { g with stack := rest.reverse, active := e.mask } e.addr))) s

/-- CALL (07 R174). -/
def execCall (h : Hd) (f : BF) (s : State) : Host.Outcome State Fault Refusal :=
  wideOp (.call h f) h (fun g s =>
    if stackRoom g = 0 then .trap s (trapC 0x0E 1)
    else .jump (setGroup s (goTo (pushEnt g ⟨g.active, nextClause g, 2⟩) (branchTo g f.off)))) s

/-- RET (07 R174); an entry that EXIT has left without a thread is passed over as at EXIT (assumption 11). -/
def execRet (h : Hd) (f : BF) (s : State) : Host.Outcome State Fault Refusal :=
  wideOp (.ret h f) h (fun g s =>
    match g.stack.reverse with
    | [] => .trap s (trapC 0x0E 2)
    | e :: rest =>
      if e.kind ≠ 2 then .trap s (trapC 0x0E 3)
      else if e.mask = 0 then .jump (setGroup s (resumeOrRetire s { g with stack := rest.reverse }))
      else .jump (setGroup s (goTo { g with stack := rest.reverse, active := e.mask } e.addr))) s

/-- EXIT (07 R175). -/
def execExit (h : Hd) (f : BF) (s : State) : Host.Outcome State Fault Refusal :=
  wideOp (.exit h f) h (fun g s =>
    let cut := g.stack.map (fun e => { e with mask := e.mask &&& ~~~g.active })
    .jump (setGroup s (resumeOrRetire s { g with active := 0, stack := cut }))) s

/-- NOP (07 R176). -/
def execNop (h : Hd) (f : BF) (s : State) : Host.Outcome State Fault Refusal := runInstr (.nop h f) s (fun _ s => .done s)

/-- The group parked (06 R114, R129): the window is flushed, the lane released; the position moves on when it wakes. -/
def parkGroup (s : State) (g : Group) (p : Park) : Group :=
  { flushWin s g with st := .parked, park := some p }

/-- A group that parks and is READY at once (06 R131): it ranks last for the next choice, its budget interval starts afresh
after the instruction, and its clause will be fetched again. -/
def yieldGroup (s : State) (g : Group) : Group :=
  { flushWin s g with st := .ready, yielded := true, refetch := true,
                      left := if g.budget = 0 then g.left else g.budget + 1 }

/-- SLEEP (06 R130): a count of 0 acts as YIELD. -/
def execSleep (h : Hd) (f : IF) (s : State) : Host.Outcome State Fault Refusal :=
  wideGroup (.sleep h f) h (fun s g =>
    if f.imm = 0 then yieldGroup s g else parkGroup s g (.sleep (cyclesOf s g.cluster + f.imm.toNat))) s

/-- YIELD (06 R131). -/
def execYield (h : Hd) (f : BF) (s : State) : Host.Outcome State Fault Refusal :=
  wideGroup (.yield h f) h yieldGroup s

/-- TRAP (16 R392). -/
def execTrap (h : Hd) (f : IF) (s : State) : Host.Outcome State Fault Refusal :=
  wideOp (.trap h f) h (fun _ s => .trap s { cause := 0x25, sub := 0, after := true, info := f.imm.zeroExtend 64 }) s

/-- BKPT (16 R392). -/
def execBkpt (h : Hd) (f : IF) (s : State) : Host.Outcome State Fault Refusal :=
  wideOp (.bkpt h f) h (fun _ s => .trap s { cause := 0x26, sub := 0, after := true, info := f.imm.zeroExtend 64 }) s

/-- TFENCE (16 R393): it waits for the outstanding results, whose flags it must see (02 R54). -/
def execTfence (h : Hd) (f : BF) (s : State) : Host.Outcome State Fault Refusal :=
  wideOp (.tfence h f) h (fun g s =>
    if g.ll ≠ [] then .wait
    else if g.flags &&& g.flagen = 0 then .done s
    else .trap s { cause := 0x24, sub := 0, after := true, info := (g.flags &&& g.flagen).zeroExtend 64 }) s

end Sys2Proof.Machine
end

