-- ==== Sys2Proof/Machine/System.lean ====
section
/-! DEFINITION. The special registers (16 R394) and the return from a trap (16 R381, R395). -/

namespace Sys2Proof.Machine

/-- The register GRANT: the power grant in the layout of offset 0x28 of a context record (04 R83). -/
def grantWord (s : State) (c : Nat) : W64 :=
  match ctxRec s c with
  | some r => r.grant
  | none => 0

/-- The value of a special register whose read is not long-latency and not per thread (16 R394). -/
def specialReg (s : State) (g : Group) (n : Nat) : W64 :=
  let team := teamOf s g.team
  let launch := groupLaunch s g
  let index := (team.map (fun t => t.index)).getD 0
  match n with
  | 1 => BitVec.ofNat 64 (g.lane % 16)
  | 2 => BitVec.ofNat 64 g.idx
  | 3 => BitVec.ofNat 64 index
  | 4 => match launch with
    | some l => if l.recd.span = 0 then 0 else BitVec.ofNat 64 (index % (l.recd.span + 1))
    | none => 0
  | 5 => (launch.map (fun l => l.lid)).getD 0
  | 6 => BitVec.ofNat 64 g.core
  | 7 => BitVec.ofNat 64 g.cluster
  | 8 => BitVec.ofNat 64 (dieOf g.cluster)
  | 9 => BitVec.ofNat 64 (deviceId s)
  | 10 => BitVec.ofNat 64 g.width
  | 11 => g.active
  | 12 => g.flags.zeroExtend 64
  | 13 => g.flagen.zeroExtend 64
  | 14 => g.rmode.zeroExtend 64
  | 15 => (team.map (fun t => t.tagbits)).getD 0
  | 16 => (team.map (fun t => t.tagerr)).getD 0
  | 19 => (team.map (fun t => t.trapbase)).getD 0
  | 20 => BitVec.ofNat 64 (slotVA s g)
  | 21 => BitVec.ofNat 64 g.liveIdx
  | 22 => if g.budget = 0 then 0 else BitVec.ofNat 64 g.left
  | 23 => g.deadline
  | 24 => BitVec.ofNat 64 g.ctx
  | 25 => (launch.map (fun l => BitVec.ofNat 64 l.cls)).getD 0
  | _ => grantWord s g.ctx

/-- SREAD of TID: the thread index for every active thread, AFFINE (0, 1) (16 R394, 06 R120). -/
def readTid (s : State) (g : Group) (d : Nat) : Group :=
  holdLine s g (lineNo g d) ((threads g.active).map (fun t => (t, BitVec.ofNat 32 t))) (.affine 0 1)

/-- SREAD of CYCLES or FCYCLES: the counter, or in replay mode the instructions issued before this one (04 R96). -/
def counterReg (s : State) (g : Group) (n : Nat) : W64 :=
  if isReplay s g.ctx then BitVec.ofNat 64 g.issued
  else if n = 17 then BitVec.ofNat 64 (cyclesOf s g.cluster) else BitVec.ofNat 64 s.fcycles

/-- SREAD (16 R394): of FLAGS it waits for the outstanding results (02 R54); of a counter it is long-latency (03 R66). -/
def execSread (h : Hd) (f : RF) (s : State) : Host.Outcome State Fault Refusal :=
  wideOp (.sread h f) h (fun g s =>
    let n := f.mod.toNat
    if n = 0 then .done (setGroup s (readTid s g f.d.toNat))
    else if n = 12 ∧ g.ll ≠ [] then .wait
    else if n = 17 ∨ n = 18 then
      if llLimit ≤ g.ll.length then .wait
      else
        let (key, s) := takeId s
        let l := { newLL (.sread h f) g key h with sregs := [f.d.toNat], scl := [(f.d.toNat, counterReg s g n)] }
        .done (setGroup s (beginLL s g l))
    else .done (setGroup s (writeScalar g f.d.toNat (specialReg s g n)))) s

/-- SWRITE (16 R394): FLAGS replaces all seven bits; it waits for the outstanding results, which it must not lose to
(02 R54). -/
def execSwrite (h : Hd) (f : RF) (s : State) : Host.Outcome State Fault Refusal :=
  wideOp (.swrite h f) h (fun g s =>
    let v := readScalar g f.a.toNat
    match f.mod.toNat with
    | 12 => if g.ll ≠ [] then .wait else .done (setGroup s { g with flags := v.truncate 7 })
    | 13 => .done (setGroup s { g with flagen := v.truncate 7 })
    | 14 => .done (setGroup s { g with rmode := v.truncate 4 })
    | _ => .done (onTeam s g.team (fun t => { t with trapbase := BitVec.ofNat 64 (va57 v / 8 * 8) }))) s

/-- Bytes that an engine of a cluster reads at an address of a context, within one page; none where the translation
fails. -/
def getVA (s : State) (cluster ctx va n : Nat) : Option (State × List Byte) :=
  match translate s cluster none ctx va .rd with
  | (s, .ok ph) => if ph.dev.isSome then none else some (s, memBytes s.mem ph.pa n)
  | (_, .error _) => none

/-- A word of 8 bytes at an offset. -/
def wAt (bs : List Byte) (off : Nat) : W64 := BitVec.ofNat 64 (leNat ((bs.drop off).take 8))

/-- Words from an offset. -/
def wordsAt (bs : List Byte) (off n : Nat) : List W64 := (List.range n).map (fun i => wAt bs (off + 8 * i))

/-- The entries of a saved convergence stack, the oldest first (04 R86, 07 R170). -/
def stackAt (bs : List Byte) (depth : Nat) : List CEnt :=
  (List.range depth).map (fun i =>
    let w := wAt bs (0x440 + 16 * i)
    ⟨wAt bs (0x448 + 16 * i), BitVec.ofNat 64 (va57 w / 8 * 8), w.toNat % 4⟩)

/-- The address of a liveness entry (05 R98); none where there is no such entry. -/
def liveVA (s : State) (g : Group) (n : Nat) : Option Nat :=
  (groupLaunch s g).bind (fun l => if l.recd.nlive < n then none else some (va57 l.recd.livebase + 128 * (n - 1)))

/-- The state in which a liveness entry has been translated: its leaf has the accessed bit (15 R367). -/
def liveTouch (s : State) (g : Group) (n : Nat) : State :=
  match liveVA s g n with
  | some va => (translate s g.cluster (some g.core) g.ctx va .rd).1
  | none => s

/-- The words of a liveness entry as it translates now (05 R98, 15 R362), or why they cannot be read now: the entry does not
exist or does not translate, or it has still to come. -/
def liveRead (s : State) (g : Group) (n : Nat) : Except CErr (List W64) :=
  let bad := Except.error (CErr.fault 2 1 0 0)
  match liveVA s g n with
  | none => bad
  | some va =>
    match (translate s g.cluster (some g.core) g.ctx va .rd).2 with
      | .ok ph => (placeBytes s g.id g.cluster ph va 128).map (fun bs => wordsAt bs 0 16)
      | .error _ => bad

/-- The words of a liveness entry; none where they cannot be read. -/
def liveWords (s : State) (g : Group) (n : Nat) : Option (List W64) := (liveRead s g n).toOption

/-- A word of an entry. -/
def liveW (w : List W64) (i : Nat) : Nat := (w.getD i 0).toNat
/-- The live v ranges of an entry: first register and count (05 R98). -/
def liveRegs (w : List W64) : List (Nat × Nat) :=
  (List.range 8).map (fun i => let x := bits (liveW w (i / 2)) (32 * (i % 2)) 32; (x % 2048, bits x 11 12))
/-- The live scratch ranges of an entry: byte offset and length (05 R98). -/
def liveScratch (w : List W64) : List (Nat × Nat) :=
  (List.range 4).map (fun j => (bits (liveW w (4 + j)) 0 21, bits (liveW w (4 + j)) 21 21))

/-- Whether an entry is malformed (05 R98, R99). That OFF and LEN are multiples of 4, COUNT at most 2,048 and LEN at most 2^20 is
in the table of 05 R98 and not in the list of 05 R99: that an entry which breaks it is malformed, OFF in an unused range too, is
the model's choice (assumption 62). -/
def liveMalformed (w : List W64) (nregs size : Nat) : Bool :=
  (List.range 8).any (fun i => let x := bits (liveW w (i / 2)) (32 * (i % 2)) 32
    decide (x / 2 ^ 23 ≠ 0) || decide (2048 < bits x 11 12) || (decide (bits x 11 12 ≠ 0) && decide (nregs < x % 2048 + bits x 11 12))) ||
  (List.range 4).any (fun j => let x := liveW w (4 + j)
    let off := bits x 0 21
    let len := bits x 21 21
    decide (x / 2 ^ 42 ≠ 0) || decide (len % 4 ≠ 0) || decide (2 ^ 20 < len) || decide (off % 4 ≠ 0) ||
      (decide (len ≠ 0) && decide (size < off + len))) ||
  decide (liveW w 9 / 2 ^ 39 ≠ 0) || decide (liveW w 10 / 2 ^ 32 ≠ 0) ||
  (List.range 5).any (fun i => decide (liveW w (11 + i) ≠ 0))

/-- The entry that a header names: its words, none where the case is malformed-liveness (03 R59, 05 R99). One that lies in a poisoned
sector cannot be read: 05 R99 lists no such case, and the model counts it among the malformed ones (assumption 61). -/
def liveEntry (s : State) (g : Group) (n : Nat) : Option (List W64) :=
  if g.launch.isNone then none
  else match liveWords s g n with
    | none => none
    | some w => if liveMalformed w g.nregs (((teamOf s g.team).map (fun t => t.size)).getD 0) then none else some w

/-- The group with the registers, stack, masks and budget of its slot (16 R395, 04 R86); none where a live entry of the
stack has KIND 3 (07 R170). -/
def loadRegs (bs : List Byte) (g : Group) : Option Group :=
  let w := wAt bs 0x568
  let stack := stackAt bs (min 16 (w.toNat % 32))
  if stack.any (fun e => decide (e.kind = 3)) then none
  else some { g with
    s := wordsAt bs 0x100 64, a := wordsAt bs 0x300 16,
    mB := (wordsAt bs 0x380 16).map (fun b => BitVec.ofNat 64 (va57 b)), mL := wordsAt bs 0x580 16,
    p := (wordsAt bs 0x400 7).map (fun p => p &&& widthMask g.width), stack := stack,
    active := wAt bs 0x548 &&& widthMask g.width, flags := (wAt bs 0x550).truncate 7, flagen := (wAt bs 0x558).truncate 7,
    rmode := (wAt bs 0x560).truncate 4, liveIdx := bits w.toNat 32 12, left := (wAt bs 0x578).toNat }

/-- The group with the liveness entry of its slot in force (03 R60): the words that it had, or those of the entry that the slot
names, where another came into force since, as in a handler whose headers name entries. -/
def reLive (s : State) (idx : Nat) (g : Group) : Group :=
  if g.liveIdx = idx then g
  else { g with live := if g.liveIdx = 0 then [] else (liveEntry s g g.liveIdx).getD [] }

/-- The state in which the entry that comes into force has been translated. -/
def reLiveTouch (s : State) (idx : Nat) (g : Group) : State := if g.liveIdx = idx ∨ g.liveIdx = 0 then s else liveTouch s g g.liveIdx

/-- The group at the resume point of its frame (16 R378, R381): where the slot holds another PC than the frame's resume
address, at that clause; else at the frame's position, or after it where NEXT = 1 or the form skips. The clause is fetched
and its header checked again (03 R62). A PC that a handler stored with bits [2:0] non-zero takes the fault of a misaligned target,
whose word of the transfer is 0, since no instruction transferred there (assumption 80). -/
def resumeAt (bs : List Byte) (skip : Bool) (g : Group) : Group :=
  let w := (wAt bs 0).toNat
  let hdr := w.testBit 20
  let pos := bits w 16 4
  let fpc := va57 (wAt bs 0x10)
  let pc := va57 (wAt bs 0x540)
  let g := { g with st := .running, handler := false, park := none, pendTrap := none, transfer := none, clause := [],
                    checked := false, refetch := false, fresh := true, ending := false }
  if pc ≠ (if hdr then fpc else fpc + 8 * (pos + 1)) ∧ !skip then
    { goTo g (BitVec.ofNat 64 pc) with atHdr := true, transfer := if pc % 8 = 0 then none else some 0 }
  else if hdr then { g with pc := BitVec.ofNat 64 fpc, pos := 0, atHdr := true, remain := none,
                            transfer := if fpc % 8 = 0 then none else some (wAt bs 8) }
  else
    let next := w.testBit 21 || skip
    { g with pc := BitVec.ofNat 64 fpc, atHdr := false, fresh := false, pos := if next then pos + 1 else pos,
             remain := if next then none else some (wAt bs 0x28) }

/-- The group without its handler's k registers, whose values are discarded (16 R395). -/
def dropK (s : State) (g : Group) : Group :=
  { flushWin s g with lines := (flushWin s g).lines.filter (fun l => decide (l.reg < g.nregs)) }

/-- Whether a store of the group's cluster to its save slot is still on its way: the slot is read behind it (08 R188, 16 R381). -/
def slotHeld (s : State) (g : Group) : Bool :=
  match peek s g.ctx (slotVA s g) .rd with
  | .ok ph => ph.dev.isNone && inFlight s g.cluster ph.pa 2048
  | .error _ => false

/-- The return from a trap (16 R395): it waits until the store FIFO is empty and the results are written, and what the handler stored
into the slot has arrived; a slot that cannot be read, or holds an entry of KIND 3, is a backing-fault (04 R86, 07 R170). -/
def rettOp (skip : Bool) (g : Group) (s : State) : GOut :=
  if !g.handler then .trap s illegal
  else if g.ll ≠ [] ∨ g.coal ≠ [] ∨ g.fifo ≠ [] ∨ slotHeld s g then .wait
  else
    match getVA s g.cluster g.ctx (slotVA s g) 2048 with
    | none => .jump (stopGroup s g true 0x44 0 (BitVec.ofNat 64 (slotVA s g)))
    | some (s, bs) =>
      if skip && (wAt bs 0).toNat.testBit 20 then .trap s illegal
      else
        match loadRegs bs g with
        | none => .jump (stopGroup s g true 0x44 0 (BitVec.ofNat 64 (slotVA s g)))
        | some g' =>
          let s := reLiveTouch s g.liveIdx g'
          let g' := resumeAt bs skip (dropK s (reLive s g.liveIdx g'))
          .jump (setGroup s (if g'.active = 0 then resumeOrRetire s g' else g'))

/-- RETT (16 R395). -/
def execRett (h : Hd) (f : RF) (s : State) : Host.Outcome State Fault Refusal := wideOp (.rett h f) h (rettOp false) s
/-- RETT.skip (16 R395). -/
def execRettSkip (h : Hd) (f : RF) (s : State) : Host.Outcome State Fault Refusal :=
  wideOp (.rettSkip h f) h (rettOp true) s
/-- RETT.exit (16 R395): every thread retires. -/
def execRettExit (h : Hd) (f : RF) (s : State) : Host.Outcome State Fault Refusal :=
  wideOp (.rettExit h f) h (fun g s =>
    if !g.handler then .trap s illegal
    else if g.ll ≠ [] ∨ g.coal ≠ [] ∨ g.fifo ≠ [] then .wait
    else .jump (setGroup s (toRetiring s g))) s

end Sys2Proof.Machine
end

