-- ==== Sys2Proof/Machine/MemOps.lean ====
section
/-! DEFINITION. What the memory instructions share: addresses and windows (03 R69; 08 R181 to R184, R198), L1 and the home
slices as a load reads them (08 R186, R187; 14 R338 to R340), the requests that leave a lane (08 R185, 09 R209), the
read-modify-writes (09 R214 to R216), and the loop over the qualifying threads (09 R204). -/

namespace Sys2Proof.Machine

/-- A place that an address names (08 R181): the own scratchpad, a peer's, a register word, none, or a translated address. -/
inductive Target where
  | own (off : Nat)
  | peer (idx off : Nat)
  | reg (r t : Nat)
  | bad
  | xlat
  deriving DecidableEq, Repr

/-- The window of an address (08 R181, R182 item 1). -/
def targetOf (va : Nat) : Target :=
  match bits va 48 9 with
  | 0x1F0 => .own (bits va 0 48)
  | 0x1F1 => if bits va 28 20 = 0 then .peer (bits va 24 4) (bits va 0 24) else .bad
  | 0x1F2 => if bits va 19 29 = 0 ∧ bits va 0 2 = 0 then .reg (bits va 8 11) (bits va 2 6) else .bad
  | p => if 0x1F3 ≤ p then .bad else .xlat

/-- What an instruction may reach besides translated addresses (08 R183). -/
structure Admits where
  scratch : Bool
  regs    : Bool
  deriving DecidableEq, Repr

/-- A checked place: a team's scratchpad with the offset, a word of the own registers, or memory. -/
inductive Place where
  | pad (team off : Nat)
  | reg (r t : Nat)
  | dev (ph : Phys)
  deriving DecidableEq, Repr

/-- A fault of a thread at an address. -/
def thrFault (cause sub : Nat) (t : Nat) (va : W64) : TrapInfo :=
  { cause := cause, sub := sub, addr := va, thread := some t }

/-- The team of the same span with another index in it (06 R134). -/
def spanTeam (s : State) (team idx : Nat) : Option Team :=
  match teamOf s team with
  | none => none
  | some t => match t.launch.bind (launchOf s) with
    | none => none
    | some l =>
      if l.recd.span < idx ∨ l.recd.span = 0 then none
      else s.teams.find? (fun x => decide (x.launch = t.launch) && decide (x.id ≠ t.id) &&
        decide (x.index = t.index - t.index % (l.recd.span + 1) + idx))

/-- The team that a peer index names, where it can be reached (06 R134, R135). -/
def peerTeam (s : State) (team idx : Nat) : Option Team := (spanTeam s team idx).filter (fun p => decide (p.st = .resident))

/-- The checks of one thread's address (08 R182, 09 R203, R204): the windows, alignment, translation and permission. -/
def resolve (s : State) (g : Group) (t : Nat) (addr : W64) (size : Nat) (acc : Acc) (ad : Admits) (exempt : Bool) :
    State × Except TrapInfo Place :=
  let va := va57 addr
  let pad := fun (x : Team) (off : Nat) =>
    if x.size < off + size then Except.error (thrFault 0x0A 0 t addr)
    else if off % size ≠ 0 then Except.error (thrFault 7 0 t addr)
    else Except.ok (Place.pad x.id off)
  match targetOf va with
  | .own off =>
    match teamOf s g.team with
    | some x => (s, if ad.scratch then pad x off else .error (thrFault 8 0 t addr))
    | none => (s, .error (thrFault 0x0A 0 t addr))
  | .peer idx off =>
    if !ad.scratch then (s, .error (thrFault 8 0 t addr))
    else match peerTeam s g.team idx with
      | some x => (s, pad x off)
      | none => (s, .error (thrFault 9 0 t addr))
  | .reg r th =>
    if !ad.regs || decide (size ≠ 4) || decide (g.width ≤ th) then (s, .error (thrFault 8 0 t addr))
    else if g.nregs ≤ r then (s, .error (thrFault 5 0 t addr))
    else (s, .ok (.reg r th))
  | .bad => (s, .error (thrFault 8 0 t addr))
  | .xlat =>
    if !exempt && decide (va % size ≠ 0) then (s, .error (thrFault 7 0 t addr))
    else match translate s g.cluster (some g.core) g.ctx va acc with
      | (s, .ok ph) => (s, .ok (.dev ph))
      | (s, .error e) => (s, .error { e with thread := some t, addr := addr })

/-! ### Bytes as a load finds them -/

/-- The bytes of an address range with later stores laid over them. -/
def overlay (cells : List Host.Cell) (a : Nat) (bs : List Byte) : List Byte :=
  (List.range bs.length).map (fun i =>
    match cells.reverse.find? (fun c => decide (c.1 = a + i)) with
    | some c => c.2
    | none => bs.getD i 0)

/-- The device-memory bytes that requests store here, oldest first. -/
def storeCells (rs : List Req) : List Host.Cell :=
  rs.flatMap (fun r => match r.dev, r.kind with
    | none, .store cs => cs
    | _, _ => [])

/-- The requests of a group that have not left its store FIFO, oldest first. -/
def ownReqs (g : Group) : List Req := g.fifo ++ g.coal.flatten
/-- Whether a request is a read-modify-write. -/
def isRmw (r : Req) : Bool :=
  match r.kind with
  | .rmw _ _ _ _ _ => true
  | .ored _ _ _ _ _ => true
  | _ => false

/-- Whether a read of a sector at its home slice must wait: a read-modify-write of the group to it has not left, a request of
its cluster to it has not arrived (08 R188), or an engine owns its line (09 R232). -/
def mustWait (s : State) (g : Group) (pa : Nat) : Bool :=
  (ownReqs g).any (fun r => isRmw r && (reqSectors r).contains (pa / 128)) ||
    inFlight s g.cluster (pa / 128 * 128) 128 || lineOwned s (pa / 512)

/-- Whether a fused team is resident on the cluster, which makes its four L1 portions one (05 R111, 08 R187). -/
def isFused (s : State) (cluster : Nat) : Bool :=
  s.teams.any (fun t => t.fused && decide (t.core / 4 = cluster) && decide (t.st ≠ .pending) && (decide (t.st ≠ .saved) || t.back))

/-- The portion of L1 that serves a core for an address (08 R187). -/
def servingL1 (s : State) (core pa : Nat) : Nat :=
  if isFused s (core / 4) then core / 4 * 4 + (bits pa 9 2 ^^^ bits pa 11 2) else core

/-- The portions that serve a core (09 R211). -/
def l1Portions (s : State) (core : Nat) : List Nat :=
  if isFused s (core / 4) then (List.range 4).map (fun i => core / 4 * 4 + i) else [core]

/-- The 16 KiB units of a core that scratchpads take (08 R177). -/
def padUnits (s : State) (core : Nat) : Nat :=
  ((s.teams.filter (fun t => decide (t.core = core) && decide (t.st ≠ .pending) && (decide (t.st ≠ .saved) || t.back))).map
    (fun t => t.size / 16384)).foldl (· + ·) 0

/-- The units of the L1 portion of a core (08 R177). -/
def l1Units (s : State) (core : Nat) : Nat := min 8 (48 - padUnits s core)

/-- Whether a portion is the one that holds a sector where the portions of a cluster are one L1 (08 R187). -/
def inPortion (k sec : Nat) : Bool := decide (k % 4 = (bits (128 * sec) 9 2 ^^^ bits (128 * sec) 11 2))

/-- A valid sector of a portion, not past the time at which it is dropped (14 R339). -/
def l1Find (s : State) (k sec : Nat) : Option (List Byte) :=
  ((coreAt s k).l1.find? (fun x => decide (x.1 = sec) && decide (s.fcycles < x.2.1 + 16384))).map (fun x => x.2.2)

/-- The sectors with one more, the most recently used first: in a set of 4n sets, the least recently used of 8 lines leaves
(08 R186). -/
def l1Insert (n : Nat) (x : Nat × Nat × List Byte) (l : List (Nat × Nat × List Byte)) : List (Nat × Nat × List Byte) :=
  if n = 0 then []
  else
    let set := x.1 / 4 % (4 * n)
    let old := l.filter (fun y => decide (y.1 ≠ x.1))
    let lines := ((old.map (fun y => y.1 / 4)).filter (fun ln => decide (ln % (4 * n) = set))).eraseDups
    let out := if lines.contains (x.1 / 4) then none else if 8 ≤ lines.length then lines.getLast? else none
    x :: old.filter (fun y => decide (some (y.1 / 4) ≠ out))

/-- A sector filled, or touched where it is valid. -/
def l1Put (s : State) (k sec fill : Nat) (bs : List Byte) : State :=
  let n := l1Units s k
  onCore s k (fun c => { c with l1 := l1Insert n (sec, fill, bs) c.l1 })

/-- The valid sectors of the portions of a core changed where they hold some cells (08 R186, 14 R338). -/
def l1Store (s : State) (k : Nat) (cells : List Host.Cell) : State :=
  onCore s k (fun c => { c with l1 := c.l1.map (fun x => (x.1, x.2.1, overlay cells (x.1 * 128) x.2.2)) })

/-- The L1 that serves a core emptied (09 R211). -/
def l1Clear (s : State) (core : Nat) : State :=
  (l1Portions s core).foldl (fun s k => onCore s k (fun c => { c with l1 := [] })) s

/-- Some sectors dropped from the L1 that serves a core (09 R213, R222). -/
def l1Drop (s : State) (core : Nat) (p : Nat → Bool) : State :=
  (l1Portions s core).foldl (fun s k => onCore s k (fun c => { c with l1 := c.l1.filter (fun x => !p x.1) })) s

/-! ### Records -/

/-- Whether a request touches some bytes of a place. -/
def Req.touches (r : Req) (ph : Phys) (n : Nat) : Bool :=
  decide (r.dev = ph.dev) && (ph.dev.isSome || (reqSectors r).any (fun x => decide (ph.pa < x * 128 + 128) && decide (x * 128 < ph.pa + n)))

/-- A record in memory that an instruction or a step reads whole, within one page (03 R69, 15 R361, R362): it is read behind the
agent's own stores to it, unless it passes them, and those of its cluster on their way, and on another device's page over its link. What
it comes to is the bytes; a fault; or none, where it has to wait. -/
def recRead (s : State) (w : Who) (launch : Option Nat) (core : Nat) (own : List Req) (va n : Nat) (past : Bool := false) :
    State × Except (Option TrapInfo) (List Byte) :=
  match translate s w.cluster (some core) w.ctx va .rd with
  | (s, .error e) => (s, .error (some e))
  | (s, .ok ph) =>
    if own.any (fun r => r.touches ph n && !past) then (s, .error none)
    else match placeBytes s w.id w.cluster ph va n with
      | .ok bs => (dropGot s w.id, .ok bs)
      | .error (.fault c b a a2) => (s, .error (some { cause := c, sub := b, addr := BitVec.ofNat 64 a, addr2 := a2 }))
      | .error (.need d line) => ((askLine s w launch core d line).getD s, .error none)
      | .error .wait => (s, .error none)

/-- A record read for an instruction of a group. -/
def groupRead (s : State) (g : Group) (va n : Nat) : State × Except (Option TrapInfo) (List Byte) :=
  recRead s g.who g.launch g.core (ownReqs g) va n

/-- The fault of a record that cannot be read: the record's own, but where its sector is poisoned (08 R193; assumption 61). -/
def readFault (own e : TrapInfo) : TrapInfo := if e.cause = 0x0C then e else own

/-! ### Values -/

/-- A loaded value in the form of its register or registers (03 R69). -/
def loadVal (sz : BitVec 3) (bs : List Byte) : Nat :=
  let v := leNat bs
  match sz.toNat with
  | 1 => wrapNat 32 (sInt 8 v)
  | 3 => wrapNat 32 (sInt 16 v)
  | _ => v

/-- A loaded value extended to 64 bits (09 R210). -/
def loadScalar (sz : BitVec 3) (bs : List Byte) : W64 :=
  let v := leNat bs
  match sz.toNat with
  | 1 => BitVec.ofInt 64 (sInt 8 v)
  | 3 => BitVec.ofInt 64 (sInt 16 v)
  | _ => BitVec.ofNat 64 v

/-- The parts that a value gives an outstanding result. -/
def retParts (r : Ret) (bs : List Byte) : List (Nat × Nat × W32) × List (Nat × W64) :=
  match r.scl with
  | some d => ([], [(d, loadScalar r.sz bs)])
  | none => ((wordsFrom r.line r.n (loadVal r.sz bs)).flatMap (fun w => r.ts.map (fun t => (w.1, t, w.2))), [])

/-- The new value of an integer atomic (09 R214). -/
def aopNew (op bitsN : Nat) (old v : Nat) : Nat :=
  match op with
  | 0 => (old + v) % 2 ^ bitsN
  | 1 => min old v
  | 2 => max old v
  | 3 => if sInt bitsN old ≤ sInt bitsN v then old else v
  | 4 => if sInt bitsN old ≤ sInt bitsN v then v else old
  | 5 => old &&& v
  | 6 => old ||| v
  | 7 => old ^^^ v
  | 8 => v
  | 9 => if v ≤ old then 0 else (old + 1) % 2 ^ bitsN
  | _ => if old = 0 ∨ v < old then v else old - 1

/-- The new value of a floating-point atomic: subnormals kept, no flag (09 R215, 02 R36). -/
def fopNew (op : Nat) (rnd : Rnd) (size old v : Nat) : Nat :=
  let fm := if size = 8 then fmtF64 else fmtF32
  let md : RMode := ⟨rnd, false, false⟩
  let x := fRead fm false old
  let y := fRead fm false v
  match op with
  | 0 => (fAdd fm md x y).1
  | 1 => (fMinMax fm md false false x y).1
  | 2 => (fMinMax fm md true false x y).1
  | 3 => (fMinMax fm md false true x y).1
  | _ => (fMinMax fm md true true x y).1

/-- What a read-modify-write leaves (09 R214 to R216). -/
def rmwNew (op : Rmw) (size old v : Nat) : Nat :=
  match op with
  | .int o => aopNew o (8 * size) old v
  | .flt o rnd => fopNew o rnd size old v
  | .cas cmp => if old = cmp.toNat % 2 ^ (8 * size) then v else old

/-! ### The loop over the qualifying threads -/

/-- What a memory instruction has gathered: the state, the parts of its result, how many parts are to come, the requests
with their windows, how it stopped: nothing yet, a wait, or a fault; the access that lost its bank: its thread, the team, the
words, whether it loads; how many lane cycles after its first access the instruction goes on; the line of another device that
it has to ask for; and the thread from which on it has to wait for an atomic at another device. -/
structure MAcc where
  s     : State
  parts : List (Nat × Nat × W32)
  scl   : List (Nat × W64)
  need  : Nat
  reqs  : List (Nat × Req)
  stop  : Option (Option TrapInfo)
  lost  : Option (Nat × Nat × List Nat × Bool)
  late  : Nat := 0
  ask   : Option (Nat × Nat) := none
  away  : Option Nat := none
  deriving DecidableEq, Repr

/-- The loop over the qualifying threads in ascending order, with the lane cycle of each (09 R204, R205). -/
def memLoop (f : MAcc → Nat → Nat → MAcc) : List Nat → Nat → MAcc → MAcc
  | [], _, a => a
  | t :: ts, i, a => if a.stop.isSome then a else memLoop f ts (i + 1) (f a i t)

/-- The group as the instruction has left it so far. -/
def accGroup (g : Group) (a : MAcc) : Group := (groupOf a.s g.id).getD g

/-- The unwrapped address of a thread (03 R69, 09 R213). -/
def rawAddr (s : State) (g : Group) (f : MF) (size : Nat) (disp : Bool) (t : Nat) : Int :=
  (g.a.getD f.areg.toNat 0).toNat +
    (if f.x = 0x7FF then 0 else (readV s g f.x.toNat t).toInt * size) + (if disp then f.off8.toInt * size else 0)

/-- The address of a thread, wrapped where the instruction names a modulo register (08 R198). -/
def memAddr (s : State) (g : Group) (f : MF) (size : Nat) (disp : Bool) (t : Nat) : W64 :=
  let k := f.mreg.toNat
  let raw := rawAddr s g f size disp t
  if k = 15 then BitVec.ofInt 64 raw else moduloWrap (g.mB.getD k 0) (g.mL.getD k 0) raw

/-- Whether the modulo register of the instruction may be applied (08 R198). -/
def modOk (g : Group) (f : MF) (size : Nat) : Bool :=
  decide (f.mreg = 15) || moduloOk (g.mL.getD f.mreg.toNat 0) size

/-- The address register after the access (03 R69, 08 R198); a hint whose modulo register may not be applied goes on unwrapped
(09 R221). -/
def postInc (g : Group) (f : MF) (size : Nat) : Group :=
  let inc : Int := match f.inc.toNat with
    | 1 => f.off8.toInt * size
    | 2 => size
    | _ => 0
  let a := g.a.getD f.areg.toNat 0
  let k := f.mreg.toNat
  let v : W64 := if k = 15 ∨ !modOk g f size then a + BitVec.ofInt 64 inc else moduloWrap (g.mB.getD k 0) (g.mL.getD k 0) (a.toNat + inc)
  if f.inc = 0 then g else { g with a := g.a.set f.areg.toNat v }

/-- A request of a group, its identity still to be given. -/
def mkReq (s : State) (g : Group) (slice : Nat) (dev : Option Nat) (page : PageAttr) (kind : ReqKind) (va : Option Nat) (big : Bool) : Req :=
  { key := s.nextId, gid := g.id, ctx := g.ctx, launch := g.launch, team := g.team, cluster := g.cluster, core := g.core,
    seq := 0, slice := slice, dev := dev, hc := page.hc, kind := kind, va := va, big := big, page := page }

/-- Stores of one sector merged: the later thread's byte is kept (08 R185). -/
def mergeCells (old new : List Host.Cell) : List Host.Cell :=
  old.filter (fun c => !(new.map Prod.fst).contains c.1) ++ new

/-- A request put into its window: a store of a sector that the window already has merges into it (08 R185). -/
def addReq (w : Nat) (r : Req) : List (Nat × Req) → List (Nat × Req)
  | [] => [(w, r)]
  | x :: xs =>
    match x.2.kind, r.kind with
    | .store old, .store new =>
      if x.1 = w ∧ x.2.dev = r.dev ∧ (old.head?.map (fun c => c.1 / 128)) = (new.head?.map (fun c => c.1 / 128)) then
        (w, { x.2 with kind := .store (mergeCells old new) }) :: xs
      else x :: addReq w r xs
    | _, _ => x :: addReq w r xs

/-- The requests of the instruction entered behind the group's: its windows in order, each request with its place in the
group's count. -/
def enterReqs (s : State) (g : Group) (reqs : List (Nat × Req)) : State × Group :=
  let rs := (List.range reqs.length).filterMap (fun i => (reqs[i]?).map (fun x => (x.1, { x.2 with key := s.nextId + i, seq := g.seq + 1 + i })))
  let wins := (rs.map Prod.fst).eraseDups
  ({ s with nextId := s.nextId + reqs.length },
   { g with seq := g.seq + reqs.length,
            coal := g.coal ++ wins.map (fun w => (rs.filter (fun x => decide (x.1 = w))).map Prod.snd) })

/-- The words of an access of a scratchpad: an access of 8 or 16 bytes takes 2 or 4 banks (08 R179). -/
def bankWords (off size : Nat) : List Nat := (List.range ((size + 3) / 4)).map (fun i => off / 4 + i)

/-- Whether an access can be served beside those that its core's banks serve in a lane cycle: one word a bank, which loads of it
share (08 R180), and no more words than the grant limit (18 R418) unless it is the first. -/
def bankFree (s : State) (core cyc : Nat) (words : List Nat) (isLoad : Bool) : Bool :=
  let used := (coreAt s core).bankUse.filter (fun u => decide (u.1 = cyc))
  let new := words.filter (fun w => !used.any (fun u => decide (u.2.1 = w)))
  words.all (fun w => used.all (fun u => decide (u.2.1 % 32 ≠ w % 32) || (decide (u.2.1 = w) && u.2.2 && isLoad))) &&
    (decide (used = []) || decide ((used.map (fun u => u.2.1)).eraseDups.length + new.length ≤ (clusterAt s (core / 4)).grantR))

/-- The banks of a core with one more access served in a lane cycle; those of past lane cycles are forgotten. -/
def bankServe (s : State) (core now cyc : Nat) (words : List Nat) (isLoad : Bool) : State :=
  onCore s core (fun c => { c with
    bankUse := words.map (fun w => (cyc, w, isLoad)) ++ c.bankUse.filter (fun u => decide (now ≤ u.1)) })

/-- Whether a bank of a core serves a load of a word in a lane cycle, which a load of the same word joins (08 R180). -/
def servesLoad (s : State) (core cyc w : Nat) : Bool := (coreAt s core).bankUse.contains (cyc, w, true)

/-- Whether accesses that wait at a core rank ahead of one first presented in a lane cycle by a lane, and need a bank that serves this
one (08 R180), not a bank that serves a load of the same word already, which a load joins; or take the grants that it needs (18 R418).
`cyc` is the lane cycle in which the access was first presented, `now` that in which it is to be served. -/
def rankedBehind (s : State) (core lane cyc now : Nat) (words : List Nat) (isLoad : Bool) : Bool :=
  let mine := words.filter (fun w => !(isLoad && servesLoad s core now w))
  let ahead := (coreAt s core).replays.filter (fun x =>
    decide (x.lane ≠ lane) && !x.granted && (decide (x.at_ < cyc) || decide (x.at_ = cyc ∧ x.lane < lane)))
  let used := ((coreAt s core).bankUse.filter (fun u => decide (u.1 = now))).map (fun u => u.2.1)
  let taken := (used ++ (ahead.filter (fun x => bankFree s core now x.words x.load)).flatMap (fun x => x.words)).eraseDups
  ahead.any (fun x => x.words.any (fun a => mine.any (fun b => decide (a % 32 = b % 32)))) ||
    (decide (ahead ≠ []) && decide ((clusterAt s (core / 4)).grantR < taken.length + (mine.filter (fun w => !taken.contains w)).length))

/-- The access that a lane waits to present again. -/
def replayOf (s : State) (lane : Nat) : Option Replay := s.cores.findSome? (fun c => c.replays.find? (fun r => decide (r.lane = lane)))

/-- The state in which no access of a lane waits for its bank: what was under way there has been broken off. -/
def dropReplays (s : State) (lane : Nat) : State :=
  { s with cores := s.cores.map (fun c => { c with replays := c.replays.filter (fun r => decide (r.lane ≠ lane)) }) }

/-- The access of a thread presented at the banks of a scratchpad in its lane cycle (08 R179, R180): served, or lost, and then it
is presented again until it has won (BANK_REPLAY). The turns of the lanes of a core follow one another (assumption 1). -/
def bankTurn (s : State) (g : Group) (team off size : Nat) (isLoad : Bool) (i : Nat) : Option State :=
  match teamOf s team with
  | none => some s
  | some x =>
    let now := cyclesOf s g.cluster
    let words := bankWords off size
    match (coreAt s x.core).replays.find? (fun r => decide (r.lane = g.lane)) with
    | some r =>
      if i = 0 ∧ !r.granted then none
      else if i = 0 then some (onCore s x.core (fun c => { c with replays := c.replays.filter (fun r => decide (r.lane ≠ g.lane)) }))
      else none
    | none =>
      if rankedBehind s x.core g.lane (now + i) (now + i) words isLoad || !bankFree s x.core (now + i) words isLoad then none
      else some (bankServe s x.core now (now + i) words isLoad)

/-- The lane of the group entered among those whose access waits for its bank (08 R180). -/
def bankLost (s : State) (g : Group) (r : Replay) (team : Nat) : State :=
  match teamOf s team with
  | none => s
  | some x => onCore s x.core (fun c =>
      if c.replays.any (fun r => decide (r.lane = g.lane)) then c else { c with replays := c.replays ++ [r] })

/-- What the threads of a memory instruction have done so far stays: their requests are entered, their results begun. -/
def memKeep (i : Instr) (h : Hd) (key : Option Nat) (g : Group) (a : MAcc) : State × Group :=
  let (s, g) := enterReqs a.s g a.reqs
  match key with
  | some k =>
    if a.parts = [] ∧ a.scl = [] ∧ a.need = 0 then (s, g)
    else (s, beginLL s g { newLL i g k h with
      vec := a.parts, scl := a.scl, need := a.need, exact := if a.need = 0 then none else a.away,
      acq := match i with
        | .lda _ m => m.hint.toNat + 1
        | _ => 0,
      sregs := match i with
        | .ldu _ m => [m.data.toNat]
        | _ => [] })
  | none => (s, g)

/-- The end of a memory instruction: what the completed threads did stays; the increment is applied only where all have
completed (09 R204). A fault enters after it. What came from other devices for the instruction has been used. -/
def memEnd (i : Instr) (h : Hd) (f : MF) (size : Nat) (key : Option Nat) (gid : Nat) (a : MAcc) : GOut :=
  match a.stop, groupOf a.s gid with
  | some none, _ => .wait
  | _, none => .wait
  | some (some t), some g =>
    let (s, g) := memKeep i h key g a
    .trap (dropGot (setGroup s g) gid) t
  | none, some g =>
    let (s, g) := memKeep i h key g a
    .done (dropGot (setGroup s (postInc g f size)) gid)

/-- The last of the windows that requests were put into (08 R185). -/
def lastWindow (reqs : List (Nat × Req)) : Option Nat := (((reqs.map Prod.fst).filter (fun w => decide (w < 1000))).getLast?)

/-- A memory instruction that lost a bank at a thread (08 R180): the threads before it have completed; where it is the first,
nothing has changed. -/
def memLost (i : Instr) (h : Hd) (key : Option Nat) (s : State) (g : Group) (t0 : Nat) (ts : List Nat) (late : Nat) (a : MAcc)
    (t team : Nat) (words : List Nat) (isLoad : Bool) : State :=
  let now := cyclesOf s g.cluster
  let first := if t = t0 then ((replayOf s g.lane).bind (fun x => x.first)) else some (now - late)
  let r : Replay := ⟨g.lane, now + ts.idxOf t, false, words, isLoad, first, lastWindow a.reqs⟩
  if t = t0 then bankLost s g r team
  else
    let (s', g') := memKeep i h key (accGroup g a) a
    bankLost (setGroup s' { g' with remain := some (maskOf ((threads (liveMask g)).filter (fun y => decide (t ≤ y)))) }) g r team

/-- A memory instruction that has to wait at a thread for an atomic at another device (09 R204): what the threads before have done
stays, and the atomic of the thread itself, where it is the first, has been sent. -/
def memAway (i : Instr) (h : Hd) (key : Option Nat) (gid : Nat) (a : MAcc) (t : Nat) : State :=
  match groupOf a.s gid with
  | none => a.s
  | some g =>
    let (s, g) := memKeep i h key g a
    dropGot (setGroup s { g with remain := some (maskOf ((threads (liveMask g)).filter (fun y => decide (t ≤ y)))) }) gid

/-- Whether the requests of a window are such as merge there: those of stores to memory (08 R185). -/
def isWindow (rs : List Req) : Bool :=
  rs.any (fun r => match r.kind with
    | .store _ => true
    | _ => false)

/-- Where a memory instruction goes on (08 R180, R185): the window that it last entered is still open, and it counts its lane
cycles from its first access. What it has sent to peers since keeps its place behind that window. -/
def memSeed (s : State) (g : Group) : Option Replay → State × List (Nat × Req) × Nat
  | none => (s, [], 0)
  | some r =>
    let late := match r.first with
      | some c0 => cyclesOf s g.cluster - c0
      | none => 0
    let later := (g.coal.reverse.takeWhile (fun rs => !isWindow rs)).reverse
    let upTo := g.coal.take (g.coal.length - later.length)
    match r.win, upTo.getLast? with
    | some w, some reqs => (setGroup s { g with coal := upTo.dropLast },
        reqs.map (fun q => (w, q)) ++ later.zipIdx.flatMap (fun x => x.1.map (fun q => (2000 + x.2, q))), late)
    | _, _ => (s, [], late)

/-- Whether an acquire load's value has not returned: no later access of the group is performed before (09 R211). -/
def acqPending (g : Group) : Bool := g.ll.any (fun l => decide (l.acq ≠ 0) && decide (l.need ≠ 0))

/-- A memory instruction (09 R202, R204): the threads it acts for, the size that scales and aligns, whether it has a
displacement and a result; no qualifying thread makes no access. A store waits while its group's windows have not left, a
load while 16 results are outstanding. -/
def memOp (i : Instr) (h : Hd) (f : MF) (size : Nat) (one result sends noMod : Bool)
    (f1 : Nat → MAcc → Nat → Nat → MAcc) (s : State) : Host.Outcome State Fault Refusal :=
  runInstr i s (fun g s =>
    let q := threads (qualMask g h)
    let ts := if one then q.take 1 else q
    match ts with
    | [] => .done s
    | t0 :: _ =>
      let again := replayOf s g.lane
      if !modOk g f size && !noMod then .trap s (thrFault 0x0B 0 t0 0)
      else if (result && decide (llLimit ≤ g.ll.length)) || (sends && again.isNone && decide (g.coal ≠ [])) || acqPending g then .wait
      else
        let (key, s1) := takeId s
        let (s2, reqs, late) := memSeed s1 g again
        let a := memLoop (f1 key) ts 0
          { s := s2, parts := [], scl := [], need := 0, reqs := reqs, stop := none, lost := none, late := late }
        match a.ask, a.lost with
        | some (d, line), _ => .hold ((askLine s g.who g.launch g.core d line).getD s)
        | none, some (t, team, words, isLoad) => .hold (memLost i h (if result then some key else none) s g t0 ts late a t team words isLoad)
        | none, none => match a.away with
          | some t => .hold (memAway i h (if result then some key else none) g.id a t)
          | none => memEnd i h f size (if result then some key else none) g.id a)

end Sys2Proof.Machine
end

