-- ==== Sys2Proof/Machine/Memory.lean ====
section
/-! DEFINITION. The memory instructions (09 R202 to R222). -/

namespace Sys2Proof.Machine

/-- The loop stopped: the instruction waits with nothing changed. -/
def MAcc.halt (a : MAcc) : MAcc := { a with stop := some none }
/-- The loop stopped by a fault. -/
def MAcc.fault (a : MAcc) (s : State) (t : TrapInfo) : MAcc := { a with s := s, stop := some (some t) }

/-- Parts of the result. -/
def MAcc.give (a : MAcc) (p : List (Nat × Nat × W32) × List (Nat × W64)) : MAcc :=
  { a with parts := a.parts ++ p.1, scl := a.scl ++ p.2 }

/-- The group's requests to a peer that have not taken effect (14 R341). -/
def peerPending (s : State) (g : Group) (a : MAcc) (team : Nat) : Bool :=
  (ownReqs g ++ s.flight.filter (fun r => decide (r.gid = g.id)) ++ a.reqs.map Prod.snd).any (fun r =>
    match r.kind with
    | .peer x _ => decide (x = team)
    | _ => false)

/-- An access of a thread to a scratchpad of a team: its banks, in the thread's lane cycle (08 R179, R180), and for a peer the
earlier requests of the group to it (14 R341); then what it does. -/
def padAccess (g : Group) (a : MAcc) (i t team off size : Nat) (isLoad : Bool) (k : State → MAcc) : MAcc :=
  if decide (team ≠ g.team) && peerPending a.s g a team then a.halt
  else match bankTurn a.s g team off size isLoad i with
    | none => { a with stop := some none, lost := some (t, team, bankWords off size, isLoad) }
    | some s => k s

/-- A register word of the own window (06 R125): the window is flushed, and an outstanding result of the line comes first. -/
def regAccess (g : Group) (a : MAcc) (r : Nat) (k : State → Group → MAcc) : MAcc :=
  let g := accGroup g a
  if g.ll.any (fun l => l.vregs.contains r) then a.halt
  else
    let g := flushWin a.s g
    k (setGroup a.s g) g

/-- The scratchpad of a team. -/
def padBytes (s : State) (team : Nat) : Memory :=
  match teamOf s team with
  | some x => x.scratch
  | none => []

/-- The sector of an address as a load reads it (08 R186, 14 R338, R339): a hit in the L1 that serves the core, or the home
slice, with the fill of L1, or the refresh of its valid copy; none where the home's sector is poisoned (08 R193). -/
def sectorRead (s : State) (g : Group) (pa : Nat) (home : Bool) : Option (State × List Byte) :=
  let k := servingL1 s g.core pa
  let sec := pa / 128
  let hit := l1Find s k sec
  match (if home then none else hit), s.poison.contains sec with
  | some bs, _ => some (l1Put s k sec ((((coreAt s k).l1.find? (fun x => decide (x.1 = sec))).map (fun x => x.2.1)).getD s.fcycles) bs, bs)
  | none, true => none
  | none, false =>
    let bs := homeBytes s (sec * 128) 128
    if home then
      some (if hit.isSome then l1Store s k ((List.range 128).map (fun i => (sec * 128 + i, bs.getD i 0))) else s, bs)
    else some (l1Put s k sec s.fcycles bs, bs)

/-- The own read-modify-writes to a sector that have not left (so that a later load of the group sees them). -/
def ownRmw (g : Group) (a : MAcc) (pa : Nat) : Bool :=
  (ownReqs g ++ a.reqs.map Prod.snd).any (fun r => isRmw r && (reqSectors r).contains (pa / 128))

/-- A read of a remote page (17 R399, R402): it waits behind the group's own stores to that device, and for its line; a sector that is
poisoned there faults as one here does (08 R193). The instruction holds its lane until its lines have come, so that the fault is exact
(assumption 72). -/
def remoteRead (g : Group) (a : MAcc) (addr : W64) (d size : Nat) (ret : Ret) (ph : Phys) : MAcc :=
  if (ownReqs g).any (fun r => decide (r.dev = some d)) then a.halt
  else match placeBytes a.s g.id g.cluster ph (va57 addr) size with
    | .ok bs => a.give (retParts ret bs)
    | .error (.need dev line) => { a.halt with ask := some (dev, line) }
    | .error .wait => a.halt
    | .error (.fault cause sub _ _) => a.fault a.s (thrFault cause sub ret.t addr)

/-- A load of one thread at its place (09 R209). -/
def loadAt (g : Group) (a : MAcc) (i : Nat) (addr : W64) (size : Nat) (home : Bool) (ret : Ret) (p : Place) : MAcc :=
  match p with
  | .pad team off => padAccess g a i ret.t team off size true (fun s =>
      { a with s := s }.give (retParts ret (memBytes (padBytes s team) off size)))
  | .reg r th => regAccess g a r (fun s g' =>
      { a with s := s }.give (retParts ret (natLE 4 ((cachedLine s g' r).getD th 0).toNat)))
  | .dev ph =>
    match ph.dev with
    | some d => remoteRead g a addr d size ret ph
    | none =>
      let hit := !home && (l1Find a.s (servingL1 a.s g.core ph.pa) (ph.pa / 128)).isSome
      if ownRmw g a ph.pa || (!hit && mustWait a.s g ph.pa) then a.halt
      else match sectorRead a.s g ph.pa home with
        | none => a.fault a.s (thrFault 0x0C 0 ret.t addr)
        | some (s, bs) =>
          { a with s := s }.give
            (retParts ret (overlay (storeCells (ownReqs g)) ph.pa ((bs.drop (ph.pa % 128)).take size)))

/-- One thread of a load. -/
def loadThread (f : MF) (g : Group) (home : Bool) (ad : Admits) (acc : Acc) (ret : Nat → Ret) (done : State → State)
    (a : MAcc) (i t : Nat) : MAcc :=
  let size := szBytes f.sz
  let g' := accGroup g a
  let addr := memAddr a.s g' f size true t
  match resolve a.s g' t addr size acc ad false with
  | (s, .error e) => a.fault s e
  | (s, .ok p) =>
    let a := loadAt g' { a with s := s } i addr size home (ret t) p
    if a.stop.isSome then a else { a with s := done a.s }

/-- Where a vector load puts a thread's value: under the U bit the one access gives it to every qualifying thread
(09 R206). -/
def vecRet (g : Group) (h : Hd) (f : MF) (key t : Nat) : Ret :=
  { key := key, line := lineNo g f.data.toNat, n := szRegs f.sz, t := t,
    ts := if h.u then threads (qualMask g h) else [t], scl := none, sz := f.sz }

/-- A vector load. -/
def loadOp (i : Instr) (h : Hd) (f : MF) (home : Bool) (ad : Admits) (done : Group → State → State) (s : State) :
    Host.Outcome State Fault Refusal :=
  memOp i h f (szBytes f.sz) h.u true false false (fun key a j t =>
    match s.cur.bind (groupOf s) with
    | none => a.halt
    | some g => loadThread f g home ad .rd (vecRet g h f key) (done g) a j t) s

/-- LD (09 R206, R207, R209): with .nl1 it reads at the home slice. -/
def execLd (h : Hd) (f : MF) (s : State) : Host.Outcome State Fault Refusal :=
  loadOp (.ld h f) h f (decide (f.hint = 1)) ⟨true, true⟩ (fun _ s => s) s
/-- LDNT (09 R212). -/
def execLdnt (h : Hd) (f : MF) (s : State) : Host.Outcome State Fault Refusal :=
  loadOp (.ldnt h f) h f true ⟨true, false⟩ (fun _ s => s) s
/-- LDA (09 R211): at cluster scope or wider it reads at the home slice and the L1 that serves the core is emptied. -/
def execLda (h : Hd) (f : MF) (s : State) : Host.Outcome State Fault Refusal :=
  let wide := decide (3 ≤ f.hint.toNat)
  loadOp (.lda h f) h f wide ⟨true, false⟩ (fun g s => if wide then l1Clear s g.core else s) s
/-- SGATH (09 R218): each word is read at its home slice. -/
def execSgath (h : Hd) (f : MF) (s : State) : Host.Outcome State Fault Refusal :=
  loadOp (.sgath h f) h f true ⟨false, false⟩ (fun _ s => s) s

/-- LDU (09 R210): the lowest qualifying thread's load into a scalar register. -/
def execLdu (h : Hd) (f : MF) (s : State) : Host.Outcome State Fault Refusal :=
  memOp (.ldu h f) h f (szBytes f.sz) true true false false (fun key a j t =>
    match s.cur.bind (groupOf s) with
    | none => a.halt
    | some g => loadThread f g (decide (f.hint = 1)) ⟨true, true⟩ .rd
        (fun t => { key := key, line := 0, n := 0, t := t, ts := [t], scl := some f.data.toNat, sz := f.sz }) (fun s => s) a j t) s

/-- A store of one thread at its place (09 R209): at the bank, in the register, or as a request. -/
def storeAt (g : Group) (a : MAcc) (i t size : Nat) (merges : Bool) (v : Nat) (addr : W64) (p : Place) : MAcc :=
  let bs := natLE size v
  match p with
  | .pad team off =>
    if team = g.team then
      padAccess g a i t team off size false (fun s =>
        { a with s := onTeam s team (fun x => { x with scratch := memPut x.scratch off bs }) })
    else
      let cells := (List.range size).map (fun j => (off + j, bs.getD j 0))
      { a with reqs := a.reqs ++ [(1000 + i, mkReq a.s g (1000 + team) none ⟨false, 0, 0⟩ (.peer team cells) none false)] }
  | .reg r th => regAccess g a r (fun s g' =>
      { a with s := setGroup s (cachePut s g' r ((cachedLine s g' r).set th (BitVec.ofNat 32 v)) .general) })
  | .dev ph =>
    let cells := (List.range size).map (fun j => (ph.pa + j, bs.getD j 0))
    let r := mkReq a.s g (homeSlice ph.leaf ph.pa) ph.dev (leafPage ph.leaf) (.store cells) (some (va57 addr)) ph.big
    { a with reqs := if merges then addReq ((a.late + i) / 8) r a.reqs else a.reqs ++ [(1000 + i, r)] }

/-- One thread of a store. -/
def storeThread (f : MF) (g : Group) (ad : Admits) (merges : Bool) (v : State → Group → Nat → Nat) (a : MAcc) (i t : Nat) :
    MAcc :=
  let size := szBytes f.sz
  let g' := accGroup g a
  let addr := memAddr a.s g' f size true t
  match resolve a.s g' t addr size .wr ad false with
  | (s, .error e) => a.fault s e
  | (s, .ok p) => storeAt g' { a with s := s } i t size merges (v s g' t) addr p

/-- The value of a vector store: its low bytes (09 R209). -/
def storeVal (f : MF) (s : State) (g : Group) (t : Nat) : Nat := readVs s g f.data.toNat (szRegs f.sz) t

/-- Whether the group's loads have returned; a pop that waits for its entry is none (12 R306). -/
def loadsBack (g : Group) : Bool :=
  g.ll.all (fun l => decide (l.need = 0) || l.queue)

/-- Whether every earlier access of the group has been performed at a scope (09 R211, R219; 13 R317; 14 R341, R345, R354): its
store FIFO has drained, its loads have returned, and its peer stores have taken effect; from cluster scope up, every store that
left a FIFO of the cluster has been acknowledged by its home, here or on another device. Copies and engine writes are not waited
for (14 R348, R350). -/
def releaseMet (s : State) (g : Group) (scope : Nat) : Bool :=
  decide (g.coal = []) && decide (g.fifo = []) && loadsBack g &&
    s.flight.all (fun r => decide (r.gid ≠ g.id) || (match r.kind with
      | .peer _ _ => false
      | _ => true)) &&
    (decide (scope < 3) || (decide (clusterFlight s g.cluster = []) &&
      s.remotes.all (fun r => !r.writes || r.copy.isSome || decide (r.cluster ≠ g.cluster))))

/-- A vector store. -/
def storeOp (i : Instr) (h : Hd) (f : MF) (ad : Admits) (merges : Bool) (ready : State → Group → Bool)
    (s : State) : Host.Outcome State Fault Refusal :=
  memOp i h f (szBytes f.sz) false false true false (fun _ a j t =>
    match s.cur.bind (groupOf s) with
    | none => a.halt
    | some g => if ready s g then storeThread f g ad merges (storeVal f) a j t else a.halt) s

/-- ST (09 R209). -/
def execSt (h : Hd) (f : MF) (s : State) : Host.Outcome State Fault Refusal :=
  storeOp (.st h f) h f ⟨true, true⟩ true (fun _ _ => true) s
/-- STNT (09 R212). -/
def execStnt (h : Hd) (f : MF) (s : State) : Host.Outcome State Fault Refusal :=
  storeOp (.stnt h f) h f ⟨true, false⟩ true (fun _ _ => true) s
/-- STL (09 R211): a release before its store. -/
def execStl (h : Hd) (f : MF) (s : State) : Host.Outcome State Fault Refusal :=
  storeOp (.stl h f) h f ⟨true, false⟩ false (fun s g => releaseMet s g f.hint.toNat) s

/-- STU (09 R210). -/
def execStu (h : Hd) (f : MF) (s : State) : Host.Outcome State Fault Refusal :=
  memOp (.stu h f) h f (szBytes f.sz) true false true false (fun _ a j t =>
    match s.cur.bind (groupOf s) with
    | none => a.halt
    | some g => storeThread f g ⟨true, true⟩ true (fun _ g _ => (readScalar g f.data.toNat).toNat) a j t) s

/-- A read-modify-write of one thread at its place (08 R183, 09 R213): at the bank at once, or as a request. A returning one
finds a poisoned sector at issue (09 R204); at another device it is sent by itself, after what the threads before have done, and its
instruction goes on once it has been performed (assumption 72). -/
def rmwAt (g : Group) (f : MF) (a : MAcc) (i t : Nat) (addr : W64) (op : Rmw) (v : Nat) (ret : Option Ret) (p : Place) : MAcc :=
  let size := szBytes f.sz
  match p with
  | .pad team off => padAccess g a i t team off size false (fun s =>
      let old := memNat (padBytes s team) off size
      let s := onTeam s team (fun x => { x with scratch := memPut x.scratch off (natLE size (rmwNew op size old v)) })
      match ret with
      | some r => { a with s := s }.give (retParts r (natLE size old))
      | none => { a with s := s })
  | .reg _ _ => a.fault a.s (thrFault 8 0 t addr)
  | .dev ph =>
    if ret.isSome && ph.dev.isNone && a.s.poison.contains (ph.pa / 128) then a.fault a.s (thrFault 0x0C 0 t addr)
    else
      let tgt := ret.map (fun r => (r.key, r.line, r.t))
      let r := mkReq a.s g (homeSlice ph.leaf ph.pa) ph.dev (leafPage ph.leaf) (.rmw op ph.pa size (BitVec.ofNat 64 v) tgt) (some (va57 addr)) ph.big
      if ret.isSome && ph.dev.isSome && (decide (a.reqs ≠ []) || decide (a.parts ≠ [])) then { a.halt with away := some t }
      else
        let a := { a with reqs := a.reqs ++ [(1000 + i, r)], need := a.need + (if ret.isSome then 1 else 0) }
        if ret.isSome && ph.dev.isSome then { a.halt with away := some t } else a

/-- An atomic: its operation and operand, whether it returns the old value, what it may reach. -/
def atomicOp (i : Instr) (h : Hd) (f : MF) (ad : Admits) (returns : Bool) (replayOk : Bool)
    (op : State → Group → Nat → Rmw × Nat) (s : State) : Host.Outcome State Fault Refusal :=
  memOp i h f (szBytes f.sz) false returns true false (fun key a j t =>
    match s.cur.bind (groupOf s) with
    | none => a.halt
    | some g =>
      let g' := accGroup g a
      if !replayOk && isReplay a.s g.ctx then a.fault a.s (thrFault 0x0D 0 t 0)
      else
        let addr := memAddr a.s g' f (szBytes f.sz) false t
        match resolve a.s g' t addr (szBytes f.sz) .rw ad false with
        | (s, .error e) => a.fault s e
        | (s, .ok p) =>
          let (o, v) := op s g' t
          rmwAt g' f { a with s := s } j t addr o v (if returns then some (vecRet g h f key t) else none) p) s

/-- The operand of an atomic: one register or a pair from a register. -/
def atomVal (f : MF) (k : Nat) (s : State) (g : Group) (t : Nat) : Nat := readVs s g (f.data.toNat + k * szRegs f.sz) (szRegs f.sz) t

/-- ATOM (09 R214). -/
def execAtom (h : Hd) (f : MF) (s : State) : Host.Outcome State Fault Refusal :=
  atomicOp (.atom h f) h f ⟨true, false⟩ true true (fun s g t => (.int (aop f), atomVal f 0 s g t)) s
/-- RED (09 R214). -/
def execRed (h : Hd) (f : MF) (s : State) : Host.Outcome State Fault Refusal :=
  atomicOp (.red h f) h f ⟨true, false⟩ false true (fun s g t => (.int (aop f), atomVal f 0 s g t)) s
/-- ATOMF (09 R215): it rounds in RMODE.ARND; in replay mode it is refused. -/
def execAtomf (h : Hd) (f : MF) (s : State) : Host.Outcome State Fault Refusal :=
  atomicOp (.atomf h f) h f ⟨false, false⟩ (!f.off8.getLsbD 3) false
    (fun s g t => (.flt (aop f) (Rnd.ofCode (g.rmode.toNat % 4)), atomVal f 0 s g t)) s
/-- CAS (09 R216). -/
def execCas (h : Hd) (f : MF) (s : State) : Host.Outcome State Fault Refusal :=
  atomicOp (.cas h f) h f ⟨true, false⟩ true true
    (fun s g t => (.cas (BitVec.ofNat 64 (atomVal f 0 s g t)), atomVal f 1 s g t)) s

/-- One thread of ORED (09 R217). -/
def oredThread (f : MF) (g : Group) (a : MAcc) (i t : Nat) : MAcc :=
  let g' := accGroup g a
  let addr := memAddr a.s g' f 16 false t
  match resolve a.s g' t addr 16 .rw ⟨false, false⟩ false with
  | (s, .error e) => a.fault s e
  | (s, .ok (.dev ph)) =>
    let n := szRegs f.sz
    let v := BitVec.ofNat 64 (readVs s g' f.data.toNat n t)
    let idx := (readV s g' (f.data.toNat + n) t).toNat
    let kind := ReqKind.ored (aop f) (Rnd.ofCode (g'.rmode.toNat % 4)) ph.pa idx v
    { a with s := s, reqs := a.reqs ++ [(1000 + i, mkReq s g' (homeSlice ph.leaf ph.pa) ph.dev (leafPage ph.leaf) kind (some (va57 addr)) ph.big)] }
  | (s, .ok _) => a.fault s (thrFault 8 0 t addr)

/-- ORED (09 R217). -/
def execOred (h : Hd) (f : MF) (s : State) : Host.Outcome State Fault Refusal :=
  memOp (.ored h f) h f 16 false false true false (fun _ a j t =>
    match s.cur.bind (groupOf s) with
    | none => a.halt
    | some g => oredThread f g a j t) s

/-- What an acquire at a scope does to L1 (09 R211, R219). -/
def acquireAt (s : State) (core scope : Nat) : State := if 3 ≤ scope then l1Clear s core else s

/-- FENCE (09 R219): it parks while it waits. -/
def execFence (h : Hd) (f : MF) (s : State) : Host.Outcome State Fault Refusal :=
  wideOp (.fence h f) h (fun g s =>
    let acq := f.off8.getLsbD 0
    let rel := f.off8.getLsbD 1
    let scope := f.hint.toNat
    let met := if rel then releaseMet s g scope else loadsBack g
    if met then .done (if acq then acquireAt s g.core scope else s)
    else .done (setGroup s (parkGroup s g (.fence acq rel scope)))) s

/-- A group whose fetched clause is discarded (09 R220, 14 R352): one that still stands at its header starts the clause again, with
the checks and the waits of the header that it then fetches; one inside its clause goes on at its position. -/
def loseClause (x : Group) : Group :=
  if x.clause = [] then x else if x.atHdr then { x with clause := [], checked := false, refetch := false } else { x with refetch := true }

/-- Every clause that a core holds fetched or buffered is discarded, but that of one group (09 R220). -/
def fenceCode (s : State) (core : Nat) (self : Option Nat) : State :=
  let s := onCore s core (fun c => { c with cbuf := [] })
  { s with groups := s.groups.map (fun x => if x.core = core ∧ some x.id ≠ self then loseClause x else x) }

/-- IFENCE (09 R220): every clause that the core holds is discarded but the issuing group's. -/
def execIfence (h : Hd) (f : MF) (s : State) : Host.Outcome State Fault Refusal :=
  wideOp (.ifence h f) h (fun g s => .done (fenceCode s g.core (some g.id))) s

/-- One thread of a hint (09 R221): what cannot be reached, or not be read, is dropped and counted. -/
def hintThread (f : MF) (g : Group) (fill : Bool) (a : MAcc) (_ t : Nat) : MAcc :=
  let size := szBytes f.sz
  let g' := accGroup g a
  let addr := if modOk g' f size then memAddr a.s g' f size true t else BitVec.ofInt 64 (rawAddr a.s g' f size true t)
  let drop := { a with s := onCtx a.s g.ctx (fun c => { c with dropHints := c.dropHints + 1 }) }
  match targetOf (va57 addr), translate a.s g.cluster (some g.core) g.ctx (va57 addr) .hint with
  | .xlat, (s, .ok ph) =>
    if !ph.leaf.getLsbD 5 || !grants ph.leaf .rd || ph.dev.any (fun d => !reachable s d) then drop
    else if !fill || ph.dev.isSome || mustWait s g' ph.pa then { a with s := s }
    else match sectorRead s g' ph.pa false with
      | some (s, _) => { a with s := s }
      | none => drop
  | _, _ => drop

/-- A hint. -/
def hintOp (i : Instr) (h : Hd) (f : MF) (fill : Bool) (s : State) : Host.Outcome State Fault Refusal :=
  memOp i h f (szBytes f.sz) false false false true (fun _ a j t =>
    match s.cur.bind (groupOf s) with
    | none => a.halt
    | some g => hintThread f g fill a j t) s

/-- PREF (09 R221): HINT 0 fills the sector into the L1 that serves the core; what L2 holds is timing. -/
def execPref (h : Hd) (f : MF) (s : State) : Host.Outcome State Fault Refusal := hintOp (.pref h f) h f (decide (f.hint = 0)) s
/-- RESID (09 R221): the retention of an L2 line is timing. -/
def execResid (h : Hd) (f : MF) (s : State) : Host.Outcome State Fault Refusal := hintOp (.resid h f) h f false s

/-- One thread of CLEAN (09 R222). -/
def cleanThread (f : MF) (g : Group) (a : MAcc) (t : Nat) : MAcc :=
  let g' := accGroup g a
  let addr := memAddr a.s g' f (szBytes f.sz) true t
  match resolve a.s g' t addr (szBytes f.sz) .rd ⟨false, false⟩ true with
  | (s, .error e) => a.fault s e
  | (s, .ok (.dev ph)) =>
    let line := ph.pa / 512
    if (ownReqs g' ++ clusterFlight s g.cluster).any (fun r => (reqSectors r).any (fun x => decide (x / 4 = line))) then a.halt
    else if ph.dev.isSome then { a with s := s }
    else { a with s := { s with dirty := s.dirty.filter (fun x => decide (x / 4 ≠ line)),
                                wcbs := s.wcbs.filter (fun w => decide (w.line ≠ line)) } }
  | (s, .ok _) => a.fault s (thrFault 8 0 t addr)

/-- CLEAN (09 R222). -/
def execClean (h : Hd) (f : MF) (s : State) : Host.Outcome State Fault Refusal :=
  memOp (.clean h f) h f (szBytes f.sz) false false false false (fun _ a _ t =>
    match s.cur.bind (groupOf s) with
    | none => a.halt
    | some g => cleanThread f g a t) s

/-- One thread of INVAL (09 R222): an address that does not translate, or lies in a window, is skipped. -/
def invalThread (f : MF) (g : Group) (a : MAcc) (t : Nat) : MAcc :=
  let g' := accGroup g a
  let addr := memAddr a.s g' f (szBytes f.sz) true t
  match targetOf (va57 addr), translate a.s g.cluster (some g.core) g.ctx (va57 addr) .hint with
  | .xlat, (s, .ok ph) => { a with s := l1Drop s g.core (fun sec => decide (sec / 4 = ph.pa / 512)) }
  | _, _ => a

/-- INVAL (09 R222). -/
def execInval (h : Hd) (f : MF) (s : State) : Host.Outcome State Fault Refusal :=
  memOp (.inval h f) h f (szBytes f.sz) false false false false (fun _ a _ t =>
    match s.cur.bind (groupOf s) with
    | none => a.halt
    | some g => invalThread f g a t) s

end Sys2Proof.Machine
end

