-- ==== Sys2Proof/Machine/Arrive.lean ====
section
/-! DEFINITION. Requests on their way and at their homes: the coalescing windows and the store FIFO (08 R185, 09 R209), the
arrival of stores, atomics and ordered reductions at the slices (08 R188, R189, R193, R195; 09 R214 to R217), and the events
of L1 and of the write-combining buffers. -/

namespace Sys2Proof.Machine

/-- Whether a byte lies in the descriptor of a queue that is OPEN or CLOSING (12 R297). -/
def inQueueDesc (s : State) (a : Nat) : Bool := s.queues.any (fun q => decide (q.pa ≤ a) && decide (a < q.pa + 64))
/-- Whether a byte lies in an ACTIVE barrier record (13 R320). -/
def inBarRec (s : State) (a : Nat) : Bool := s.recs.any (fun r => decide (r.pa ≤ a) && decide (a < r.pa + 64))

/-- The origin of a request's fault record. -/
def reqOrigin (s : State) (r : Req) : Origin :=
  { ctx := r.ctx, launch := r.launch, core := r.core,
    team := if r.launch.isSome then ((teamOf s r.team).map (fun t => t.index)).getD 0xFFFFFF else 0xFFFFFF }

/-- Sectors all of whose bytes the cells hold. -/
def fullSectors (cells : List Host.Cell) : List Nat :=
  ((cells.map (fun c => c.1 / 128)).eraseDups).filter (fun sec =>
    (List.range 128).all (fun i => cells.any (fun c => decide (c.1 = sec * 128 + i))))

/-- The buffer that was opened first. -/
def firstOpened (ws : List Wcb) : Option Wcb :=
  ws.foldl (fun m w => match m with
    | none => some w
    | some x => if w.at_ < x.at_ then some w else some x) none

/-- Bytes entered in the write-combining buffer of their line, opening it where there is none: where the slice has 32 open,
its oldest drains; a sector that the mask covers drains alone (08 R189). -/
def wcbPut (s : State) (slice : Nat) (as : List Nat) : List Wcb :=
  match as.head? with
  | none => s.wcbs
  | some a =>
    let line := a / 512
    let old := s.wcbs.find? (fun w => decide (w.line = line))
    let mask := ((match old with | some w => w.mask | none => []) ++ as).eraseDups
    let left := mask.filter (fun x => !(List.range 128).all (fun i => mask.contains (x / 128 * 128 + i)))
    let at_ := match old with
      | some w => w.at_
      | none => s.fcycles
    let rest := s.wcbs.filter (fun w => decide (w.line ≠ line))
    let mine := rest.filter (fun w => decide (w.slice = slice))
    let rest := if 32 ≤ mine.length then
        match firstOpened mine with
        | some w => rest.filter (fun x => decide (x.line ≠ w.line))
        | none => rest
      else rest
    if left = [] then rest else rest ++ [⟨slice, line, left, at_⟩]

/-- Bytes put into memory at their home slice (08 R188, R193, 15 R363): those in the descriptor of a live queue or in an ACTIVE
barrier record are discarded with a fault record (12 R297, 13 R320); a sector written whole loses its poison (whether the single
store that 08 R193 asks for may be a request merged from the stores of several threads, 08 R185, the spec leaves open, and here
it may: assumption 59); the sector is dirty, or written through on a host-coherent page. -/
def landBytes (s : State) (o : Origin) (hc : Bool) (cells : List Host.Cell) : State :=
  let badQ := cells.any (fun c => inQueueDesc s c.1)
  let badR := cells.any (fun c => inBarRec s c.1)
  let ok := cells.filter (fun c => !inQueueDesc s c.1 && !inBarRec s c.1)
  let secs := (ok.map (fun c => c.1 / 128)).eraseDups
  let full := fullSectors ok
  let clean := s.dirty.filter (fun x => !secs.contains x)
  let s := { s with mem := memCells s.mem ok, poison := s.poison.filter (fun x => !full.contains x),
                    dirty := if hc then clean else clean ++ secs }
  let s := if badQ then faultRecord s o false 0x4A 0 else s
  if badR then faultRecord s o false 0x4B 0 else s

/-- The cells of the bytes of a number from an address up. -/
def numCells (pa size v : Nat) : List Host.Cell := (natLE size v).zipIdx.map (fun x => (pa + x.2, x.1))

/-! ### Ordered reductions (09 R217) -/

/-- The contributions that a slice holds. -/
def heldAt (s : State) (slice : Nat) : List OHeld := s.oredHeld.filter (fun h => decide (h.slice = slice))

/-- The index of the next contribution of a cell. -/
def oredNext (s : State) (pa : Nat) : Nat := memNat s.mem (pa + 8) 4

/-- ACC combined with a contribution. -/
def oredCombine (op : Nat) (rnd : Rnd) (acc v : Nat) : Nat :=
  match op with
  | 0 => fopNew 0 rnd 4 acc v
  | 1 => fopNew 0 rnd 8 acc v
  | 2 => (acc + v) % 2 ^ 32
  | 3 => (acc + v) % 2 ^ 64
  | 4 => fopNew 1 rnd 4 acc v
  | _ => fopNew 2 rnd 4 acc v

/-- The bytes of ACC that an operation uses. -/
def oredSize (op : Nat) : Nat := if op = 1 ∨ op = 3 then 8 else 4

/-- One contribution combined into its cell. -/
def oredApply (s : State) (o : Origin) (hc : Bool) (pa op : Nat) (rnd : Rnd) (v : W64) : State :=
  let n := oredSize op
  let acc := memNat s.mem pa n
  let s := landBytes s o hc (numCells pa n (oredCombine op rnd acc (v.toNat % 2 ^ (8 * n))))
  landBytes s o hc (numCells (pa + 8) 4 (oredNext s pa + 1))

/-- The origin of a contribution that is held. -/
def heldOrigin (h : OHeld) : Origin := { ctx := h.ctx, launch := h.launch, core := h.core, team := h.team }

/-- Held contributions combined while the next is held; one whose cell has been poisoned meanwhile is refused as one that arrives there
(09 R245). The fuel counts them. -/
def oredDrain (pa : Nat) : Nat → State → State
  | 0, s => s
  | f + 1, s =>
    match s.oredHeld.find? (fun h => decide (h.pa = pa) && decide (h.idx = oredNext s pa)) with
    | none => s
    | some h =>
      let s := { s with oredHeld := s.oredHeld.filter (fun x => decide (x ≠ h)) }
      oredDrain pa f (if s.poison.contains (pa / 128) then faultRecord s (heldOrigin h) true 0x0C 0
        else oredApply s (heldOrigin h) h.hc pa h.op h.rnd h.v)

/-- The contributions that a cell holds judged against a NEXT that has been stored (09 R217): those out of their order are
discarded with a fault record, and the next combine. -/
def oredJudge (s : State) (pa : Nat) : State :=
  let next := oredNext s pa
  let late := s.oredHeld.filter (fun h => decide (h.pa = pa) && (decide (h.idx < next) || decide (next + 4096 ≤ h.idx)))
  let s := late.foldl (fun s h => faultRecord s (heldOrigin h) true 0x46 0)
    { s with oredHeld := s.oredHeld.filter (fun h => !late.contains h) }
  oredDrain pa s.oredHeld.length s

/-- The cells that hold contributions and whose NEXT lies among some bytes. -/
def cellsStored (s : State) (cells : List Host.Cell) : List Nat :=
  ((s.oredHeld.map (fun h => h.pa)).eraseDups).filter (fun pa => cells.any (fun c => decide (pa + 8 ≤ c.1) && decide (c.1 < pa + 12)))

/-- Bytes written at their home slice: what they come to in memory, and the contributions that an ordered-reduction cell holds
where its NEXT is among them (09 R217). -/
def homeWrite (s : State) (o : Origin) (hc : Bool) (cells : List Host.Cell) : State :=
  (cellsStored s cells).foldl oredJudge (landBytes s o hc cells)

/-- A number of bytes written at its home. -/
def homePut (s : State) (o : Origin) (hc : Bool) (pa size v : Nat) : State := homeWrite s o hc (numCells pa size v)

/-- Bytes that an engine, a copy or the host's window writes at their home: the buffers of their lines drain first (08 R189). -/
def engineWrite (s : State) (o : Origin) (hc : Bool) (cells : List Host.Cell) : State :=
  homeWrite (((cells.map (fun c => c.1 / 512)).eraseDups).foldl drainLine s) o hc cells

/-- What an engine of a cluster writes at its home: the lines leave the L1s of that cluster (09 R232, 10 R273, 11 R292). -/
def agentWrite (s : State) (cluster : Nat) (o : Origin) (hc : Bool) (cells : List Host.Cell) : State :=
  let lines := (cells.map (fun c => c.1 / 512)).eraseDups
  (List.range 4).foldl (fun s k => onCore s (4 * cluster + k) (fun x => { x with l1 := x.l1.filter (fun e => !lines.contains (e.1 / 4)) }))
    (engineWrite s o hc cells)

/-- A store at its home slice: it enters the write-combining buffer of its line, or is written through on a host-coherent page
(08 R189, 15 R363). -/
def storeHome (s : State) (o : Origin) (hc : Bool) (slice : Nat) (cells : List Host.Cell) : State :=
  let s := homeWrite s o hc cells
  if hc then ((cells.map (fun c => c.1 / 512)).eraseDups).foldl drainLine s else { s with wcbs := wcbPut s slice (cells.map Prod.fst) }

/-- Parts given to an outstanding result of a group; where it is that of an acquire load of cluster scope or wider, the L1 that
serves the core is emptied (09 R211). -/
def llGive (s : State) (gid key : Nat) (p : List (Nat × Nat × W32) × List (Nat × W64)) : State :=
  let acq := match groupOf s gid with
    | some g => if g.ll.any (fun l => decide (l.key = key) && decide (4 ≤ l.acq)) then some g.core else none
    | none => none
  let s := onGroup s gid (fun g => { g with ll := g.ll.map (fun l =>
    if l.key = key then { l with need := l.need - 1, vec := l.vec ++ p.1, scl := l.scl ++ p.2 } else l) })
  match acq with
  | some core => l1Clear s core
  | none => s

/-- Whether the instruction of a group waits for an atomic at another device (09 R204). -/
def Group.awaits (g : Group) : Bool := g.ll.any (fun l => l.exact.isSome)

/-- The value of an atomic at another device has come (09 R204, R213): its instruction goes on with the threads after it, or is
complete, with its increment, where none is left. -/
def atomicBack (s : State) (g0 : Group) (l : LL) : State :=
  let g := { g0 with ll := g0.ll.map (fun x => if x.key = l.key then { x with exact := none } else x),
                     remain := some (liveMask g0 &&& ~~~maskOf l.exact.toList) }
  match decodeWord (g0.wordAt g0.pos) with
  | .ok i => (match i.parts with
    | some (_, h, .m f) =>
      if qualMask g h ≠ 0 then setGroup s g
      else
        let s := onCluster s g.cluster (fun x => { x with lastIssue := cyclesOf s g.cluster, issue := x.issue + costOf g0 i })
        setGroup s (finishInstr s i g.handler (costOf g0 i) [l.key] true (postInc g f (szBytes f.sz)))
    | _ => setGroup s g)
  | .error _ => setGroup s g

/-- An atomic at another device has found poison there: it faults at its thread, and what the threads before have done stays
(08 R193, 09 R204). -/
def atomicBad (s : State) (r : Remote) (t : Ret) : State :=
  match groupOf s r.gid with
  | none => s
  | some g =>
    let addr := match (decodeWord (g.wordAt g.pos)).toOption.bind (fun i => i.parts) with
      | some (_, _, .m f) => memAddr s g f (szBytes f.sz) false t.t
      | _ => BitVec.ofNat 64 (r.va.getD 0)
    setGroup s { g with ll := g.ll.filter (fun l => decide (l.key ≠ t.key)),
                        pendTrap := some { thrFault 0x0C 0 t.t addr with at_ := some s.fcycles } }

/-! ### Leaving the lane -/

/-- COALESCE_WINDOW_CLOSE (08 R185): the oldest window of the group closes and its requests enter the store FIFO, where
there is room for them (09 R209); the window that an instruction is still in stays open. -/
def execCoalesceWindowClose (gid : Nat) (s : State) : Host.Outcome State Fault Refusal :=
  onSome (groupOf s gid) (fun g =>
    match g.coal with
    | [] => .fault .notEnabled
    | w :: ws =>
      let open_ := isWindow w && !ws.any isWindow && ((replayOf s g.lane).bind (fun r => r.win)).isSome
      if open_ || decide (32 < g.fifo.length + w.length) then .fault .notEnabled
        else .next (setGroup s { g with coal := ws, fifo := g.fifo ++ w }))

/-- The cores whose L1 a leaving store updates: its own, and for a paired team both, which count as one core (08 R186,
06 R133). -/
def coresFor (s : State) (team core : Nat) : List Nat :=
  match teamOf s team with
  | some t => if t.paired then [t.core, t.core + 1] else [core]
  | none => [core]

/-- What leaving the FIFO does to the L1 that serves the core: a store updates its valid sectors (08 R186), a
read-modify-write invalidates its sector (09 R213). -/
def leaveL1 (s : State) (r : Req) : State :=
  match r.dev, r.kind with
  | none, .store cs => (coresFor s r.team r.core).foldl (fun s c => (l1Portions s c).foldl (fun s k => l1Store s k cs) s) s
  | none, .rmw _ pa _ _ _ => (coresFor s r.team r.core).foldl (fun s c => l1Drop s c (fun x => decide (x = pa / 128))) s
  | none, .ored _ _ pa _ _ => (coresFor s r.team r.core).foldl (fun s c => l1Drop s c (fun x => decide (x = pa / 128))) s
  | _, _ => s

/-- The physical address of a request. -/
def reqPA (r : Req) : Nat :=
  match r.kind with
  | .store cs => (cs.head?.map Prod.fst).getD 0
  | .peer _ cs => (cs.head?.map Prod.fst).getD 0
  | .rmw _ pa _ _ _ => pa
  | .ored _ _ pa _ _ => pa
  | .fma pa _ _ => pa
  | .read pa _ => pa
  | .gbar pa _ => pa

/-- Where the old value of a request goes. -/
def reqRet (r : Req) : Option Ret :=
  match r.kind with
  | .rmw _ _ size _ (some (key, line, t)) =>
    some { key := key, line := line, n := (size + 3) / 4, t := t, ts := [t], scl := none, sz := if size = 8 then 5 else 4 }
  | _ => none

/-- The oldest request of a group's store FIFO leaves it, toward its home slice or over a link (09 R209, 17 R399); none where
it cannot leave now. -/
def fifoLeave (s : State) (gid : Nat) : Option State :=
  match groupOf s gid with
  | none => none
  | some g =>
    match g.fifo with
    | [] => none
    | r :: rs =>
      let s' := leaveL1 (setGroup s { g with fifo := rs }) r
      match r.dev with
      | none => some { s' with flight := s'.flight ++ [r] }
      | some d =>
        if !canSend s d (reqPA r) r.kind.data.length then none
        else some (sendRemote s' { id := r.key, link := 0, dev := d, line := 0, cluster := r.cluster, gid := r.gid,
                                   ctx := r.ctx, launch := r.launch, core := r.core, team := r.team, seq := r.seq,
                                   copy := none, writes := true, ask := r.kind, ret := reqRet r, va := r.va, big := r.big, page := r.page } (reqPA r))

/-! ### Arriving at a home -/

/-- A request on its way. -/
def reqAt (s : State) (key : Nat) : Option Req := s.flight.find? (fun r => decide (r.key = key))

/-- Whether a contribution waits for room: 16,384 are held at its slice and it is not the next of its cell (09 R217). -/
def oredBlocked (s : State) (r : Req) : Bool :=
  match r.kind with
  | .ored _ _ pa idx _ => decide (16384 ≤ (heldAt s r.slice).length) && decide (idx ≠ oredNext s pa)
  | _ => false

/-- Whether a request may arrive now: requests of one port to one slice arrive in order, but for a contribution that passes
those which wait for room (08 R188, 09 R217); a line that the copy engine owns is waited for (09 R232). -/
def mayArrive (s : State) (r : Req) : Bool :=
  let before := s.flight.takeWhile (fun x => decide (x.key ≠ r.key))
  let ahead := before.any (fun x => decide (x.cluster = r.cluster) && decide (x.slice = r.slice) &&
    !(oredBlocked s x && !oredBlocked s r))
  !ahead && !oredBlocked s r && !(reqSectors r).any (fun sec => lineOwned s (sec / 4))

/-- The state without a request that has arrived. -/
def dropReq (s : State) (key : Nat) : State := { s with flight := s.flight.filter (fun r => decide (r.key ≠ key)) }

/-- STORE_ARRIVE_HOME (08 R188, R189, 09 R209): the store enters its buffer and is performed; a peer store takes effect at
the peer's banks, behind the lanes that wait for them (08 R180), and waits while the peer is saved. -/
def execStoreArriveHome (key : Nat) (s : State) : Host.Outcome State Fault Refusal :=
  onSome (reqAt s key) (fun r =>
    if !mayArrive s r then .fault .notEnabled
    else match r.kind with
      | .store cs =>
        .next (storeHome (dropReq s key) (reqOrigin s r) r.hc r.slice cs)
      | .peer team cs =>
        match teamOf s team with
        | some t =>
          let now := cyclesOf s (t.core / 4)
          let words := bankWords (reqPA r) cs.length
          if t.st = .saved ∨ (coreAt s t.core).drained ∨ switching s (t.core / 4) ∨ rankedBehind s t.core 9216 now now words false ∨ !bankFree s t.core now words false then .fault .notEnabled
          else
            let s := bankServe (dropReq s key) t.core now now words false
            .next (onTeam s team (fun t => { t with scratch := memCells t.scratch cs }))
        | none => .next (dropReq s key)
      | _ => .fault .notEnabled)

/-- A read-modify-write performed at its home (08 R189, R195, 09 R213 to R216, R245): the line's buffer drains first; a
poisoned sector is left unchanged with a fault record, and what then returns is a free value (assumption 3). -/
def performRmw (s : State) (o : Origin) (hc : Bool) (op : Rmw) (pa size : Nat) (v : W64) (returns : Bool) : State × Nat :=
  let s := drainLine s (pa / 512)
  if s.poison.contains (pa / 128) then
    let s := faultRecord s { o with addr := 0 } true 0x0C 0
    if returns then
      let (x, s) := takeFree s
      (s, x.toNat)
    else (s, 0)
  else
    let old := memNat s.mem pa size
    (homePut s o hc pa size (rmwNew op size old (v.toNat % 2 ^ (8 * size))), old)

/-- SLICE_ATOMIC (08 R195, 09 R214 to R216). -/
def execSliceAtomic (key : Nat) (s : State) : Host.Outcome State Fault Refusal :=
  onSome (reqAt s key) (fun r =>
    match r.kind with
    | .rmw op pa size v ret =>
      if !mayArrive s r then .fault .notEnabled
      else
        let s := dropReq s key
        let (s, old) := performRmw s (reqOrigin s r) r.hc op pa size v ret.isSome
        .next (match reqRet r with
          | some t => llGive s r.gid t.key (retParts t (natLE size old))
          | none => s)
    | _ => .fault .notEnabled)

/-- Why a slice refuses a contribution (09 R217, R245): the cell is poisoned, or the index is out of its order. -/
def oredRefuses (s : State) (pa idx : Nat) : Option Nat :=
  let next := oredNext s pa
  if s.poison.contains (pa / 128) then some 0x0C
  else if idx < next ∨ next + 4096 ≤ idx ∨ s.oredHeld.any (fun h => decide (h.pa = pa) && decide (h.idx = idx)) then some 0x46
  else none

/-- A contribution at its home slice (09 R217, R245). -/
def oredAt (s : State) (o : Origin) (hc : Bool) (slice op : Nat) (rnd : Rnd) (pa idx : Nat) (v : W64) : State :=
  let s := drainLine s (pa / 512)
  match oredRefuses s pa idx with
  | some cause => faultRecord s o true cause 0
  | none =>
    if idx ≠ oredNext s pa then { s with oredHeld := s.oredHeld ++ [⟨slice, pa, idx, v, op, rnd, o.ctx, o.launch, o.core, o.team, hc⟩] }
    else oredDrain pa s.oredHeld.length (oredApply s o hc pa op rnd v)

/-- ORED_CONTRIBUTION (09 R217). -/
def execOredContribution (key : Nat) (s : State) : Host.Outcome State Fault Refusal :=
  onSome (reqAt s key) (fun r =>
    match r.kind with
    | .ored op rnd pa idx v =>
      if !mayArrive s r then .fault .notEnabled
      else .next (oredAt (dropReq s key) (reqOrigin s r) r.hc r.slice op rnd pa idx v)
    | _ => .fault .notEnabled)

/-- WCB_DRAIN (08 R189). -/
def execWcbDrain (line : Nat) (s : State) : Host.Outcome State Fault Refusal :=
  if s.wcbs.any (fun w => decide (w.line = line)) then .next (drainLine s line) else .fault .notEnabled

/-- L1_SECTOR_EXPIRE (14 R339): a valid sector is dropped; no later than 16,384 fabric cycles after its fill it serves no
load (l1Find). -/
def execL1SectorExpire (core sector : Nat) (s : State) : Host.Outcome State Fault Refusal :=
  if (coreAt s core).l1.any (fun x => decide (x.1 = sector)) then
    .next (onCore s core (fun c => { c with l1 := c.l1.filter (fun x => decide (x.1 ≠ sector)) }))
  else .fault .notEnabled

/-- Whether an atomic whose old value is returned is on its way to a sector. -/
def returningTo (s : State) (sec : Nat) : Bool :=
  (s.groups.flatMap ownReqs ++ s.flight).any (fun r => (reqSectors r).contains sec && (reqRet r).isSome)

/-- UNCORRECTABLE_ERROR (08 R193): the sector is marked poisoned at its home slice. An atomic that returns a value and is on its
way is performed before it, so that its fault is exact (09 R204; assumption 60). -/
def execUncorrectableError (pa : Nat) (s : State) : Host.Outcome State Fault Refusal :=
  if pa < paLimit ∧ returningTo s (pa / 128) then .fault .notEnabled
  else if pa < paLimit then
    .next { s with poison := if s.poison.contains (pa / 128) then s.poison else s.poison ++ [pa / 128] }
  else .fault .noObject

/-- BANK_REPLAY (08 R180): a lane that lost its bank presents its access again in a later lane cycle; it wins where no access
that waits for one of its banks ranks ahead of it and every bank it needs can serve it. The loads that wait for words which are
then served are served with it. -/
def execBankReplay (lane : Nat) (s : State) : Host.Outcome State Fault Refusal :=
  match s.cores.findIdx? (fun c => c.replays.any (fun r => decide (r.lane = lane) && !r.granted)) with
  | none => .fault .notEnabled
  | some k =>
    let c := coreAt s k
    match c.replays.find? (fun r => decide (r.lane = lane)) with
    | none => .fault .notEnabled
    | some r =>
      let now := cyclesOf s (k / 4)
      if r.at_ < now ∧ !rankedBehind s k lane r.at_ now r.words r.load ∧ bankFree s k now r.words r.load then
        let s := bankServe s k now now r.words r.load
        let joins := fun (x : Replay) => x.load && decide (x.at_ < now) && x.words.all (servesLoad s k now)
        .next (onCore s k (fun c =>
          { c with replays := c.replays.map (fun x => if x.lane = lane ∨ joins x then { x with granted := true } else x) }))
      else .fault .notEnabled

/-- LONG_LATENCY_RESULT (03 R66, 06 R128): an outstanding result all of whose parts have come is written; during a frequency switch it
waits (18 R414), and where its instruction waits for one of its parts, for that (09 R204). -/
def execLongLatencyResult (gid key : Nat) (s : State) : Host.Outcome State Fault Refusal :=
  onSome (groupOf s gid) (fun g =>
    match g.ll.find? (fun l => decide (l.key = key)) with
    | none => .fault .noObject
    | some l => if l.need = 0 ∧ l.exact = none ∧ !switchHolds s g then .next (setGroup s (applyLL s g l)) else .fault .notEnabled)

/-- PAGE_WALK (15 R357, R364, R367, R370): a walker translates an address for a core of a context, and the TLBs and the
page-walk cache take what the walk read; a walk that fails caches nothing, and its access takes the fault itself. -/
def execPageWalk (core ctx : Nat) (va : W64) (write : Bool) (s : State) : Host.Outcome State Fault Refusal :=
  if core < s.cores.length ∧ (ctxRec s ctx).isSome then
    .next (translate s (core / 4) (some core) ctx (va57 va) (if write then .wr else .rd)).1
  else .fault .noObject

end Sys2Proof.Machine
end

