-- ==== Sys2Proof/Machine/Tasks.lean ====
section
/-! DEFINITION. Waking parked groups (06 R114), stamps (12 R303), dependence counters and tasks (12 R311 to R314). -/

namespace Sys2Proof.Machine

/-- Whether a group is saved or halted: an event that ends its wait then wakes it at once when it returns (16 R385, R389). -/
def asleep (g : Group) : Bool := decide (g.st = .saved) || g.halted

/-- A parked group woken (06 R114, R116): READY at the position after its instruction, its clause to be fetched again. -/
def wakeGroup (g : Group) : Group :=
  if asleep g then { g with park := some (.sleep 0) } else nextPos { g with st := .ready, park := none, refetch := true }

/-- The state with a group woken. -/
def wake (s : State) (gid : Nat) : State := onGroup s gid wakeGroup

/-- A parked group woken by a fault of its own instruction (13 R319, 12 R302). -/
def wakeTrap (s : State) (gid : Nat) (t : TrapInfo) : State :=
  match groupOf s gid with
  | none => s
  | some g => if asleep g then setGroup s { g with park := none, pendTrap := some { t with at_ := some (t.at_.getD s.fcycles) } }
    else takeTrap s { g with st := .ready, park := none, refetch := true } t

/-- Every request of a group on its way. -/
def reqsOf (s : State) (gid : Nat) : List Req :=
  ((groupOf s gid).map ownReqs).getD [] ++ s.flight.filter (fun r => decide (r.gid = gid))

/-- Whether every request of a group up to a stamp to a sector, of this or another device, that meets a condition has been
performed at its home (12 R303): none is in its store FIFO, on its way, or unacknowledged on a link. The stamp of a push of a
linked device is met once that device has said so. -/
def stampMet (s : State) (st : Nat × Nat) (p : Option Nat → Nat → Bool) : Bool :=
  !s.unmet.contains st && (reqsOf s st.1).all (fun r => decide (st.2 < r.seq) || !(kindSectors r.kind).any (p r.dev)) &&
    s.remotes.all (fun r => decide (r.gid ≠ st.1) || decide (st.2 < r.seq) || !r.writes || r.copy.isSome ||
      !(kindSectors r.ask).any (p (some r.dev)))

/-- Whether every stamp is met. -/
def stampsMet (s : State) (sts : List (Nat × Nat)) : Bool := sts.all (fun x => stampMet s x (fun _ _ => true))

/-- Whether a sector lies in a region of a context as it is mapped now (12 R314). -/
def inRegion (s : State) (ctx : Nat) (rg : Nat × Nat) (dev : Option Nat) (sec : Nat) : Bool :=
  (List.range (rg.2 / 65536 + 2)).any (fun i =>
    let lo := max rg.1 ((rg.1 / 65536 + i) * 65536)
    let hi := min (rg.1 + rg.2) ((rg.1 / 65536 + i + 1) * 65536)
    decide (lo < hi) && match peek s ctx lo .rd with
      | .ok ph => decide (ph.dev = dev) && decide (ph.pa / 128 ≤ sec) && decide (sec * 128 < ph.pa + (hi - lo))
      | .error _ => false)

/-! ### Dependence counters -/

/-- A counter of a context: IDLE with value 0 where the context lists none (12 R311). -/
def ctrOf (s : State) (ctx n : Nat) : Ctr :=
  ((s.contexts[ctx]?).bind (fun c => c.ctrs.find? (fun x => decide (x.n = n)))).getD ⟨n, 0, false, [], none, []⟩

/-- The state with a counter replaced; an IDLE one with value 0 is not listed. -/
def setCtr (s : State) (ctx : Nat) (x : Ctr) : State :=
  onCtx s ctx (fun c =>
    let rest := c.ctrs.filter (fun y => decide (y.n ≠ x.n))
    { c with ctrs := if x.val = 0 ∧ !x.armed ∧ x.stamps = [] then rest else rest ++ [x] })

/-- The regions of a task record (12 R312). -/
def taskRegions (task : List W64) : List (Nat × Nat) :=
  (List.range (bits (task.getD 3 0).toNat 0 4)).map (fun i => ((task.getD (16 + 2 * i) 0).toNat, (task.getD (17 + 2 * i) 0).toNat))

/-- The 64 bytes that a task pushes (12 R312): bytes 0x38 to 0x3F are the home slice's. -/
def taskBytes (task : List W64) : List Byte :=
  wordsLE ([1, 2, 4, 5, 6, 7, 8].map (fun i => task.getD i 0)) ++ List.replicate 8 0

/-- A task fires (12 R314, items 1 and 2): its counter is IDLE with value 0, its push waits for its stores. -/
def fireTask (s : State) (ctx n : Nat) (task : List W64) (launch : Option Nat) (stamps : List (Nat × Nat)) : State :=
  let (key, s) := takeId s
  let s := setCtr s ctx ⟨n, 0, false, [], none, []⟩
  { s with fired := s.fired ++ [⟨key, ctx, launch, task.getD 0 0, taskBytes task, stamps, taskRegions task, false⟩] }

/-- A decrement of a counter (12 R311); the subcause of its refusal: range 1, underflow 2. -/
def decCtr (s : State) (ctx n k : Nat) (stamp : List (Nat × Nat)) : Except Nat State :=
  let x := ctrOf s ctx n
  if !x.armed then
    if x.val - k < -2 ^ 31 then .error 1
    else .ok (setCtr s ctx { x with val := x.val - k, stamps := x.stamps ++ stamp })
  else if (k : Int) < x.val then .ok (setCtr s ctx { x with val := x.val - k, stamps := x.stamps ++ stamp })
  else if (k : Int) = x.val then .ok (fireTask s ctx n x.task x.launch (x.stamps ++ stamp))
  else .error 2

/-- A completion's decrement by 1 (12 R311); counter 0 names none; a refusal is recorded. -/
def compDec (s : State) (ctx n : Nat) (launch : Option Nat) : State :=
  if n = 0 then s
  else match decCtr s ctx n 1 [] with
    | .ok s => s
    | .error _ => faultRecord s { ctx := ctx, launch := launch } false 0x20 1

/-- TASKARM at the counter (12 R311): refused with underflow 2 or armed 3. -/
def armCtr (s : State) (ctx n k : Nat) (task : List W64) (launch : Option Nat) : Except Nat State :=
  let x := ctrOf s ctx n
  if x.armed then .error 3
  else if x.val + k < 0 then .error 2
  else if x.val + k = 0 then .ok (fireTask s ctx n task launch x.stamps)
  else .ok (setCtr s ctx { x with val := x.val + k, armed := true, task := task, launch := launch })

/-- Whether a task record is malformed (12 R312). -/
def taskMalformed (w : List W64) : Bool :=
  let g := fun i => (w.getD i 0).toNat
  let n := bits (g 3) 0 4
  decide (g 0 / 2 ^ 57 ≠ 0) || decide (g 0 % 64 ≠ 0) || decide (g 3 / 16 ≠ 0) || decide (8 < n) ||
    (List.range 7).any (fun i => decide (g (9 + i) ≠ 0)) ||
    (List.range 8).any (fun i =>
      let b := g (16 + 2 * i)
      let l := g (17 + 2 * i)
      decide (b / 2 ^ 57 ≠ 0) || decide (l / 2 ^ 40 ≠ 0) ||
        (if i < n then decide (b % 512 ≠ 0) || decide (l % 512 ≠ 0) else decide (b ≠ 0) || decide (l ≠ 0)))

end Sys2Proof.Machine
end

