-- ==== Sys2Proof/Machine/Queue.lean ====
section
/-! DEFINITION. The queue and task instructions (12 R302, R305 to R308, R312, R313), their acceptance at the home slice
(12 R297 to R301, R309), the results of claims (12 R303, R310), and the push of a task (12 R314). -/

namespace Sys2Proof.Machine

/-- A queue or task instruction that its home has not answered (12 R302): the group parks. A QPOP begins its outstanding
result at once. -/
def askHome (i : Instr) (h : Hd) (g : Group) (s : State) (va : Option Nat) (pa : Nat) (dev : Option Nat) (big : Bool) (ask : QAsk)
    (ll : Option (Nat × Nat)) : GOut :=
  if ll.isSome && decide (llLimit ≤ g.ll.length) then .wait
  else
    let (key, s) := takeId s
    let g := match ll with
      | some (d, p) => beginLL s g { newLL i g key h with
          need := 1, sregs := (List.range 8).map (fun j => d + j), pred := if p < 7 then some p else none, queue := true }
      | none => g
    .done { setGroup s (parkGroup s g .queue) with
      qreqs := s.qreqs ++ [⟨g.id, key, pa, dev, g.seq, ask, g.active, va, big⟩] }

/-- An instruction on the queue whose descriptor's address S[q] holds: alignment, then translation for read and write
(12 R302). -/
def askQueue (i : Instr) (h : Hd) (q : Nat) (ask : Group → QAsk) (ll : Option (Nat × Nat)) (s : State) :
    Host.Outcome State Fault Refusal :=
  wideOp i h (fun g s =>
    let va := va57 (g.s.getD q 0)
    if va % 64 ≠ 0 then .trap s (trapC 0x1E 1)
    else match translate s g.cluster (some g.core) g.ctx va .rw with
      | (s, .error e) => .trap s { e with addr := BitVec.ofNat 64 va }
      | (s, .ok ph) => askHome i h g s (some va) ph.pa ph.dev ph.big (ask g) ll) s

/-- The predicate and register fields of a pop. -/
def popD (f : CF) : Nat := f.fl 0 6
/-- The predicate field of a pop. -/
def popP (f : CF) : Nat := f.fl 6 3

/-- QPUSH (12 R305). -/
def execQpush (h : Hd) (f : CF) (s : State) : Host.Outcome State Fault Refusal :=
  askQueue (.qpush h f) h f.sdesc.toNat (fun g =>
    .push (wordsLE ((List.range 7).map (fun j => g.s.getD (f.fl 0 6 + j) 0)) ++ List.replicate 8 0)) none s
/-- QPUSH.close (12 R297). -/
def execQpushClose (h : Hd) (f : CF) (s : State) : Host.Outcome State Fault Refusal :=
  askQueue (.qpushClose h f) h f.sdesc.toNat (fun _ => .close) none s
/-- QPOP (12 R306). -/
def execQpop (h : Hd) (f : CF) (s : State) : Host.Outcome State Fault Refusal :=
  askQueue (.qpop h f) h f.sdesc.toNat (fun _ => .pop (popD f) (popP f)) (some (popD f, popP f)) s
/-- QTRY (12 R306); in replay mode it acts as QPOP, and parks for its result (04 R96). -/
def execQtry (h : Hd) (f : CF) (s : State) : Host.Outcome State Fault Refusal :=
  askQueue (.qtry h f) h f.sdesc.toNat (fun _ => .try_ (popD f) (popP f)) none s
/-- QSTAT (12 R305); refused in replay mode (04 R96). -/
def execQstat (h : Hd) (f : CF) (s : State) : Host.Outcome State Fault Refusal :=
  wideOp (.qstat h f) h (fun g s =>
    if isReplay s g.ctx then .trap s (trapC 0x0D 0)
    else
      let va := va57 (g.s.getD f.sdesc.toNat 0)
      if va % 64 ≠ 0 then .trap s (trapC 0x1E 1)
      else match translate s g.cluster (some g.core) g.ctx va .rw with
        | (s, .error e) => .trap s { e with addr := BitVec.ofNat 64 va }
        | (s, .ok ph) => askHome (.qstat h f) h g s (some va) ph.pa ph.dev ph.big (.stat (f.fl 0 6)) none) s
/-- GLEAN (12 R308). -/
def execGlean (h : Hd) (f : CF) (s : State) : Host.Outcome State Fault Refusal :=
  askQueue (.glean h f) h f.sdesc.toNat (fun _ => .glean (popD f) (popP f)) none s
/-- GLEAN.done (12 R307). -/
def execGleanDone (h : Hd) (f : CF) (s : State) : Host.Outcome State Fault Refusal :=
  askQueue (.gleanDone h f) h f.sdesc.toNat (fun g => .done ((g.s.getD (f.fl 0 6) 0).toNat % 2 ^ 32)) none s

/-- The low 32 bits of a count that TASKARM and TASKDEC admit (12 R312, R313). -/
def taskCount (v : W64) : Option Nat :=
  let n := v.toNat % 2 ^ 32
  if n = 0 ∨ 2 ^ 31 ≤ n then none else some n

/-- TASKARM (12 R312): the record is read now. -/
def execTaskarm (h : Hd) (f : CF) (s : State) : Host.Outcome State Fault Refusal :=
  wideOp (.taskarm h f) h (fun g s =>
    let ctr := (g.s.getD (f.fl 0 6) 0).toNat % 2 ^ 16
    if ctr = 0 then .trap s (trapC 0x20 4)
    else match taskCount (g.s.getD (f.fl 6 6) 0) with
      | none => .trap s (trapC 0x20 5)
      | some n =>
        let va := va57 (g.s.getD f.sdesc.toNat 0)
        if va % 256 ≠ 0 then .trap s (trapC 0x20 6)
        else match groupRead s g va 256 with
          | (s, .error none) => .hold s
          | (s, .error (some e)) => .trap s (readFault (trapC 0x20 6) e)
          | (s, .ok bs) =>
            let task := wordsAt bs 0 32
            if taskMalformed task then .trap s (trapC 0x20 6)
            else askHome (.taskarm h f) h g s none 0 none false (.arm ctr n task) none) s

/-- TASKDEC (12 R313). -/
def execTaskdec (h : Hd) (f : CF) (s : State) : Host.Outcome State Fault Refusal :=
  wideOp (.taskdec h f) h (fun g s =>
    let ctr := (g.s.getD (f.fl 0 6) 0).toNat % 2 ^ 16
    let count := if f.fl 12 1 = 1 then taskCount (g.s.getD (f.fl 6 6) 0) else some 1
    if ctr = 0 then .trap s (trapC 0x20 4)
    else match count with
      | none => .trap s (trapC 0x20 5)
      | some n => askHome (.taskdec h f) h g s none 0 none false (.dec ctr n) none) s

/-! ### At the home slice -/

/-- What a home slice answers: nothing yet; a refusal; the request done; a word for a register; a claim that waits or holds
its result. -/
inductive QAns where
  | notYet
  | refuse (t : TrapInfo)
  | ok (s : State)
  | word (s : State) (d : Nat) (v : W64)
  | claim (s : State) (c : Claim)
  deriving DecidableEq, Repr

/-- Whether a queue descriptor is malformed (12 R296). -/
def queueMalformed (w : List W64) : Bool :=
  let g := fun i => (w.getD i 0).toNat
  let cap := bits (g 1) 0 21
  decide (g 0 / 2 ^ 57 ≠ 0) || decide (g 0 % 64 ≠ 0) || decide (g 1 / 2 ^ 27 ≠ 0) || decide (bits (g 1) 21 4 ≠ 0) ||
    decide (cap = 0) || decide (1048576 < cap) || decide (g 3 / 2 ^ 40 ≠ 0) || decide (g 4 / 2 ^ 45 ≠ 0) ||
    decide (g 6 ≠ 0) || decide (g 7 ≠ 0) || ((g 1).testBit 26 && decide (bits (g 3) 0 24 = 0xFFFFFF))

/-- The words of a queue descriptor (12 R296). -/
def descWords (s : State) (pa : Nat) : List W64 := (List.range 8).map (fun i => BitVec.ofNat 64 (memNat s.mem (pa + 8 * i) 8))

/-- A queue as the words of its descriptor give it, OPEN (12 R296). -/
def descQueue (w : List W64) (pa ctx sys : Nat) : Queue :=
  let g := fun i => (w.getD i (0 : W64)).toNat
  { pa := pa, ctx := ctx, sys := sys, store := g 0, cap := bits (g 1) 0 21, gleanOk := (g 1).testBit 26,
              edf := (g 1).testBit 25, ownLid := w.getD 2 0, doneCtr := bits (g 3) 24 16, ownTeam := bits (g 3) 0 24,
    st := 1, marked := false, hood := [], next := g 5, ents := [] }

/-- A queue read from its descriptor, OPEN; none where it is malformed (12 R296). -/
def readQueue (s : State) (pa ctx sys : Nat) : Option Queue :=
  if queueMalformed (descWords s pa) then none else some (descQueue (descWords s pa) pa ctx sys)

/-- The queue that a request reaches (12 R297): as the device holds it; CLOSED as its descriptor stands; an IDLE one is opened, or
refused with its subcause. -/
def reachQueue (s : State) (ctx pa : Nat) : Except Nat (State × Queue) :=
  match queueAt s pa with
  | some q => .ok (s, q)
  | none =>
    let w := descWords s pa
    if bits (w.getD 4 0).toNat 42 2 = 3 then .ok (s, { descQueue w pa ctx 0 with st := 3 })
    else if queueMalformed w then .error 1
    else match s.contexts[ctx]? with
      | none => .error 2
      | some c =>
        if ((c.recd.map (fun (r : CRec) => r.nqueue)).getD 0) ≤ c.openQ then .error 2
        else
          let q := descQueue w pa ctx 0
          let s := onCtx s ctx (fun c => { c with openQ := c.openQ + 1 })
          .ok (putQueue { s with queues := s.queues ++ [q] } q, q)

/-- Who asks at a queue: a team of this device, with the group that takes what is returned, its team's launch id and index, and the
core where it runs; or a team of a linked device, which has no core here. What is accepted is known by `id` and `key`. -/
structure Asker where
  id    : Nat
  key   : Nat
  ctx   : Nat
  team  : Nat
  lid   : Option W64
  index : Nat
  core  : Option Nat
  dev   : Option Nat
  launch : Option Nat
  mask  : TMask
  recs  : List (Nat × Nat) := []
  deriving DecidableEq, Repr

/-- A group as it asks. -/
def askerOf (s : State) (g : Group) (r : QReq) : Asker :=
  { id := g.id, key := r.key, ctx := g.ctx, team := g.team, lid := (groupLaunch s g).map (fun l => l.lid),
    index := ((teamOf s g.team).map (fun t => t.index)).getD 0, core := some g.core, dev := none, launch := g.launch, mask := r.mask }

/-- A team of a linked device among the claimers of this one. -/
def farTeam (dev team : Nat) : Nat := 2 ^ 40 * (dev + 1) + team

/-- The linked device of a claimer, or of what has a claim. -/
def farDev (id : Nat) : Option Nat := if id < 2 ^ 40 then none else some (id / 2 ^ 40 - 1)

/-- A team of a linked device as it asks: of the context that has the number of its own here (assumption 68). -/
def peerAsker (x : PeerAsk) : Asker :=
  { id := farTeam x.dev x.who.team, key := x.req, ctx := x.who.ctx, team := farTeam x.dev x.who.team, lid := some x.who.lid,
    index := x.who.index, core := none, dev := some x.dev, launch := none, mask := 0, recs := x.who.recs }

/-- Whether a team may pop (12 R306): the queue has no owner, or the team is it. -/
def mayPop (x : Asker) (q : Queue) : Bool :=
  decide (q.ownTeam = 0xFFFFFF) || (decide (x.lid = some q.ownLid) && decide (x.index = q.ownTeam))

/-- The core that a team of a launch occupies, or last occupied. -/
def ownerCore (s : State) (q : Queue) : Option Nat :=
  (s.teams.find? (fun t => decide (t.index = q.ownTeam) &&
    decide (((t.launch.bind (launchOf s)).map (fun l => l.lid)) = some q.ownLid))).map (fun t => t.core)

/-- Whether two cores lie within a neighbourhood (13 R320, R332): cluster, die, device. -/
def inHood (nbhd a b : Nat) : Bool :=
  match nbhd with
  | 0 => decide (a / 4 = b / 4)
  | 1 => decide (dieOf (a / 4) = dieOf (b / 4))
  | _ => true

/-- Whether a team lies within a neighbourhood of the owner of a queue (13 R332); one of a linked device only where the
neighbourhood takes in the devices one link away. -/
def nearOwner (s : State) (x : Asker) (q : Queue) (nbhd : Nat) : Bool :=
  match x.core, ownerCore s q with
  | some c, some k => inHood nbhd c k
  | some _, none => decide (2 ≤ nbhd)
  | none, _ => decide (nbhd = 3)

/-- Whether a team is a member of the record that marked the queue and lies within its neighbourhood of the owner
(13 R332). The mark of a record of a linked device names that device as well: of the teams of this device it is known here which have
arrived there, and a request of a linked device says of its team at which records it has (assumption 69). -/
def mayGlean (s : State) (x : Asker) (q : Queue) : Bool :=
  match q.hood with
  | [recPA, nbhd] =>
    (s.recs.any (fun r => decide (r.pa = recPA) &&
      ((r.arr ++ r.prev).any (fun (a : Arrived) => decide (peerId a = x.team))))) && nearOwner s x q nbhd
  | [recPA, nbhd, dev] => (if x.dev.isSome then x.recs.contains (dev, recPA)
      else s.farArr.any (fun a => decide (a.dev = dev) && decide (a.recd = recPA) && decide (a.team = x.team))) && nearOwner s x q nbhd
  | _ => false
where
  /-- The team of an arrival among those that may claim. -/
  peerId (a : Arrived) : Nat := match a.dev with
    | none => a.team
    | some d => farTeam d a.team

/-- A claim record of a request; `q` is none where the queue is not live. -/
def mkClaim (x : Asker) (pa : Nat) (q : Queue) (d p : Nat) (direct gleaned : Bool) : Claim :=
  { gid := x.id, key := x.key, qpa := pa, ctx := q.ctx, d := d, p := p, direct := direct,
    done := if q.gleanOk || gleaned then 0 else q.doneCtr,
    ent := none, closed := false, gleaned := gleaned, raw := decide (q.sys ≠ 0), ofDev := decide (2 ≤ q.sys), mask := x.mask }

/-- A pop at its queue (12 R306): the owner first, then the head, the closed result, the empty result of a try. -/
def popAt (s : State) (x : Asker) (pa d p : Nat) (direct try_ : Bool) : QAns :=
  match reachQueue s x.ctx pa with
  | .error sub => .refuse (trapC 0x1E sub)
  | .ok (s, q) =>
    let c := mkClaim x pa q d p direct false
    if q.sys = 1 then .refuse (trapC 0x1E 4)
    else if !mayPop x q then .refuse (trapC 0x1F 0)
    else match queueHead s q with
      | some e => .claim (serveQueue (putQueue s (claimEntry q e x.team false)) q.pa) { c with ent := some e }
      | none => .claim s { c with closed := decide (2 ≤ q.st) || try_ }

/-- A glean at its queue (12 R308). -/
def gleanAt (s : State) (x : Asker) (pa d p : Nat) : QAns :=
  match reachQueue s x.ctx pa with
  | .error sub => .refuse (trapC 0x1E sub)
  | .ok (s, q) =>
    let c := mkClaim x pa q d p true true
    let may := q.gleanOk && q.marked && mayGlean s x q
    if q.sys = 1 then .refuse (trapC 0x1E 4)
    else match (if may then queueTail s q else none) with
      | some e => .claim (serveQueue (putQueue s (claimEntry q e x.team true)) q.pa) { c with ent := some e }
      | none => .claim s { c with closed := true }

/-- GLEAN.done at its queue (12 R307). -/
def doneAt (s : State) (x : Asker) (pa seq : Nat) : QAns :=
  match reachQueue s x.ctx pa with
  | .error sub => .refuse (trapC 0x1E sub)
  | .ok (s, q) =>
    match q.ents.find? (fun e => decide (e.seq % 2 ^ 32 = seq) && decide (e.claimer = some x.team)) with
    | none => .refuse (trapC 0x1E 5)
    | some e =>
      let s := serveQueue (putQueue s { q with ents := q.ents.filter (fun x => decide (x.seq ≠ e.seq)) }) q.pa
      .ok (compDec s q.ctx q.doneCtr x.launch)

/-- A push at its queue (12 R297, R305, R309): it is not accepted while the queue is full. -/
def pushAt (s : State) (ctx pa : Nat) (bytes : List Byte) (stamps regions : List (Nat × Nat)) : QAns :=
  match reachQueue s ctx pa with
  | .error sub => .refuse (trapC 0x1E sub)
  | .ok (s, q) =>
    if 2 ≤ q.sys then .refuse (trapC 0x1E 4)
    else if 2 ≤ q.st then .refuse (trapC 0x1E 3)
    else if queueFull q then .notYet
    else .ok (appendEntry s q bytes stamps regions)

/-- QPUSH.close at its queue (12 R297, R309): a QPUSH too, which the fault queue and the notification queue refuse; the launch queue
closes only with its context. -/
def closeAt (s : State) (ctx pa : Nat) : QAns :=
  match reachQueue s ctx pa with
  | .error sub => .refuse (trapC 0x1E sub)
  | .ok (s, q) =>
    if 2 ≤ q.sys then .refuse (trapC 0x1E 4)
    else if q.sys = 1 ∨ 2 ≤ q.st then .ok s
    else .ok (serveQueue (putQueue s { q with st := 2 }) q.pa)

/-- QSTAT at its queue (12 R305). -/
def statAt (s : State) (ctx pa d : Nat) : QAns :=
  match reachQueue s ctx pa with
  | .error sub => .refuse (trapC 0x1E sub)
  | .ok (s, _) => .word s d (BitVec.ofNat 64 (memNat s.mem (pa + 0x20) 8))

/-- Whether the group's earlier peer stores have all taken effect (12 R303, R313). -/
def peersDone (s : State) (r : QReq) : Bool :=
  (reqsOf s r.gid).all (fun x => match x.kind with
    | .peer _ _ => decide (r.stamp < x.seq)
    | _ => true)

/-- Whether a request can leave its group (12 R303, R307, R313). -/
def hasLeft (s : State) (r : QReq) : Bool :=
  match r.ask with
  | .push _ => peersDone s r
  | .dec _ _ => peersDone s r
  | .done _ => ((groupOf s r.gid).map (fun g => releaseMet s g (if r.dev.isSome then 6 else 5))).getD true
  | _ => true

/-- The answer of the home slice to a request (12 R298). -/
def answerOf (s : State) (g : Group) (r : QReq) : QAns :=
  let x := askerOf s g r
  match r.ask with
  | .push bytes => pushAt s g.ctx r.pa bytes [(r.gid, r.stamp)] []
  | .close => closeAt s g.ctx r.pa
  | .pop d p => popAt s x r.pa d p false false
  | .try_ d p => popAt s x r.pa d p true (!isReplay s g.ctx)
  | .stat d => statAt s g.ctx r.pa d
  | .glean d p => gleanAt s x r.pa d p
  | .done seq => doneAt s x r.pa seq
  | .arm ctr n task => match armCtr s g.ctx ctr n task g.launch with
    | .ok s => .ok s
    | .error sub => .refuse (trapC 0x20 sub)
  | .dec ctr n => match decCtr s g.ctx ctr n [(r.gid, r.stamp)] with
    | .ok s => .ok s
    | .error sub => .refuse (trapC 0x20 sub)

/-- The request of a group. -/
def qreqOf (s : State) (gid : Nat) : Option QReq := s.qreqs.find? (fun r => decide (r.gid = gid))

/-- Whether the registers of a group are in its slot (16 R385, R389). -/
def slotted (g : Group) : Bool := decide (g.st = .saved) || (g.halted && !g.handler)

/-- A scalar register of a group written, in its slot where its registers are there. -/
def putScalar (s : State) (g : Group) (d : Nat) (v : W64) : State :=
  if slotted g then (putVA s g.cluster g.ctx (slotVA s g + 0x100 + 8 * d) (natLE 8 v.toNat)).getD s
  else setGroup s (writeScalar g d v)

/-- A refusal delivered: its fault is raised at the instruction, and the result that it began is dropped. -/
def refuseReq (s : State) (gid key : Nat) (t : TrapInfo) : State :=
  wakeTrap (onGroup s gid (fun g => { g with ll := g.ll.filter (fun l => decide (l.key ≠ key)) })) gid t

/-- An answer delivered to the group of a request. -/
def deliverAns (s0 : State) (r : QReq) (a : QAns) : Option State :=
  let clear := fun (s : State) => { s with qreqs := s.qreqs.filter (fun x => decide (x.gid ≠ r.gid)) }
  match a with
  | .notYet => none
  | .refuse t => some (refuseReq (clear s0) r.gid r.key t)
  | .ok s => some (wake (clear s) r.gid)
  | .word s d v =>
    let s := clear s
    some (wake (((groupOf s r.gid).map (fun g => putScalar s g d v)).getD s) r.gid)
  | .claim s c =>
    let s := { clear s with claims := s.claims ++ [c] }
    some (if c.direct then s else wake s r.gid)

/-- Whether a group is parked on its core, where an event can end its wait: that of a saved or halted group is held (16 R385). -/
def awake (g : Group) : Bool := decide (g.st = .parked) && !g.halted

/-- Whether two requests are for one queue, or for one counter of a context. -/
def sameObject (s : State) (a b : QReq) : Bool :=
  let ctr := fun (r : QReq) => match r.ask with
    | .arm c _ _ => some (c, (groupOf s r.gid).map (fun (g : Group) => g.ctx))
    | .dec c _ => some (c, (groupOf s r.gid).map (fun (g : Group) => g.ctx))
    | _ => none
  match ctr a, ctr b with
  | none, none => decide (a.pa = b.pa) && decide (a.dev = b.dev)
  | x, y => decide (x = y)

/-- Whether a request asks for room in its queue. -/
def QReq.pushes (r : QReq) : Bool :=
  match r.ask with
  | .push _ => true
  | _ => false

/-- Whether a push waits at its queue for room (12 R305): what comes after it, and is no push, takes effect all the same, as it can make
that room. -/
def pushWaits (s : State) (pa : Nat) : Bool := ((queueAt s pa).map queueFull).getD false

/-- Whether a request is behind another that reaches its queue or counter first (12 R298): one of its cluster, whose port keeps their
order (08 R188), but for a push that has come and waits for room; of two pushes, the one that was issued first, whichever its cluster or
device, an order that the spec leaves to their arrival (assumption 70). -/
def behind (s : State) (r : QReq) : Bool :=
  let port := fun (x : QReq) => (groupOf s x.gid).map (fun g => g.cluster)
  (s.qreqs.takeWhile (fun x => decide (x.key ≠ r.key))).any (fun x => x.dev.isNone && sameObject s x r && hasLeft s x &&
    ((decide (port x = port r) && !(x.pushes && !r.pushes && pushWaits s x.pa)) || (x.pushes && r.pushes))) ||
    (r.pushes && s.asks.any (fun x => decide (x.pa = r.pa) && decide (x.op % 7 = 0) && decide (x.key < r.key)))

/-- The state in which the request of a group has been answered; none where it cannot be now. A group that is saved or halted
has its request answered all the same (16 R389, 04 R93). -/
def acceptReq (s : State) (gid : Nat) : Option State :=
  (groupOf s gid).bind (fun g => (qreqOf s gid).bind (fun r =>
    if r.dev.isSome || !(decide (g.st = .parked) || decide (g.st = .saved)) || !hasLeft s r || behind s r then none
    else deliverAns s r (answerOf s g r)))

/-- QUEUE_ACCEPT (12 R302). A request to a queue of another device is answered over its link (FLIT_RECEIVE). -/
def execQueueAccept (gid : Nat) (s : State) : Host.Outcome State Fault Refusal := onSome (acceptReq s gid) .next

/-- The words of a claimed entry as it is returned (12 R299). -/
def claimWords (c : Claim) : List W64 :=
  match c.ent with
  | none => List.replicate 8 0
  | some e =>
    let tail : W64 := BitVec.ofNat 64 (e.seq % 2 ^ 32 + (if c.gleaned then 2 ^ 32 else 0))
    let w := (List.range 8).map (fun i => wAt e.bytes (8 * i))
    if c.raw then w else w.take 7 ++ [tail]

/-- The entry of a claim that begins an interval (12 R310): a record of the device has no BUDGET (04 R88, R89) and begins none. -/
def Claim.slice (c : Claim) : Option QEntry := if c.ofDev then none else c.ent

/-- The interval that a claimed entry begins (12 R310). -/
def beginInterval (c : Claim) (g : Group) : Group :=
  match c.slice with
  | none => g
  | some e =>
    let b := leNat ((e.bytes.drop 8).take 4)
    { g with budget := b, left := b, deadline := wAt e.bytes 0 }

/-- Bytes with a word of 8 bytes replaced. -/
def setWordAt (bs : List Byte) (off : Nat) (v : W64) : List Byte := bs.take off ++ natLE 8 v.toNat ++ bs.drop (off + 8)

/-- The slot of a saved group with the result of a claim (12 R306): its uniform registers, its predicate for the threads that
were active at its issue, and the interval that the entry begins. -/
def claimSlot (c : Claim) (bs : List Byte) : List Byte :=
  let bs := (List.range 8).foldl (fun bs i => setWordAt bs (0x100 + 8 * (c.d + i)) ((claimWords c).getD i 0)) bs
  let act : W64 := c.mask
  let old := wAt bs (0x400 + 8 * c.p)
  let bs := if c.p = 7 then bs else
    setWordAt bs (0x400 + 8 * c.p) ((old &&& ~~~act) ||| (if c.ent.isSome then act else 0))
  match c.slice with
  | none => bs
  | some e => setWordAt bs 0x578 (BitVec.ofNat 64 (leNat ((e.bytes.drop 8).take 4)))

/-- The result of a claim written for a saved group (12 R306, 16 R385): into its slot; its wait is over. A slot that cannot be
written keeps what it holds, and the group finds that out when it is restored. -/
def claimSaved (s : State) (g : Group) (c : Claim) : State :=
  let s := onGroup s g.id (fun g => { g with park := if c.direct then some (.sleep 0) else g.park,
                                             ll := g.ll.filter (fun l => decide (l.key ≠ c.key)) })
  match getVA s g.cluster g.ctx (slotVA s g) 2048 with
  | none => s
  | some (s, bs) => (putVA s g.cluster g.ctx (slotVA s g) (claimSlot c bs)).getD s

/-- The result of a claim written (12 R303, R306, R308, R310, R314): the L1 that serves the consumer's core is emptied
first, which covers the regions of a task; an entry that is DONE as it is taken decrements its counter. -/
def claimResult (s : State) (g : Group) (c : Claim) : State :=
  let s := { s with claims := s.claims.filter (fun x => decide (x ≠ c)) }
  let s := if c.ent.isSome then l1Clear s g.core else s
  let ws := (List.range 8).map (fun i => (c.d + i, (claimWords c).getD i 0))
  let s := onGroup s g.id (beginInterval c)
  let s := if slotted g then claimSaved s g c
    else if c.direct then
      let s := onGroup s g.id (fun g =>
        putPred (ws.foldl (fun g w => writeScalar g w.1 w.2) g) c.p c.mask (if c.ent.isSome then BitVec.allOnes 64 else 0))
      wake s g.id
    else onGroup s g.id (fun g => { g with ll := g.ll.map (fun l =>
      if l.key = c.key then { l with need := 0, scl := ws, pval := c.ent.isSome } else l) })
  if c.ent.isSome then compDec s c.ctx c.done g.launch else s

/-- Whether the result of a claim can be written: closed or empty, or an entry whose stamps are met (12 R303). -/
def claimReady (s : State) (c : Claim) : Bool :=
  c.closed || (match c.ent with
    | some e => stampsMet s e.stamps
    | none => false)

/-- CLAIM_RESULT (12 R303, R306). -/
def execClaimResult (gid : Nat) (s : State) : Host.Outcome State Fault Refusal :=
  onSome (groupOf s gid) (fun g =>
    match s.claims.find? (fun c => !switchHolds s g && decide (c.gid = gid) && claimReady s c && (!c.direct || decide (g.st = .parked) || decide (g.st = .saved))) with
    | none => .fault .notEnabled
    | some c => .next (claimResult s g c))

/-- Whether the stores that a fired task waits for have been performed (12 R314). -/
def firedReady (s : State) (f : Fired) : Bool :=
  f.stamps.all (fun st => stampMet s st (fun dev sec => f.regions.any (fun rg => inRegion s f.ctx rg dev sec)))

/-- A task whose push its queue has refused (12 R314): the entry is discarded and the refusal recorded. -/
def refuseTask (s : State) (f : Fired) : State :=
  faultRecord { s with fired := s.fired.filter (fun x => decide (x.key ≠ f.key)) } { ctx := f.ctx, launch := f.launch } true 0x4C 0

/-- The state in which a fired task has been pushed (12 R314, items 3 and 4), or sent to the device where its queue is homed, or
refused; none where it cannot be now. Tasks for one queue go in firing order. -/
def taskPush (s : State) (key : Nat) : Option State :=
  (s.fired.find? (fun f => decide (f.key = key))).bind (fun f =>
    let before := s.fired.takeWhile (fun x => decide (x.key ≠ key))
    if f.sent || !firedReady s f ||
        before.any (fun x => decide (x.ctx = f.ctx) && decide (x.queue = f.queue) && (x.sent || firedReady s x)) then none
    else match walkNow s f.ctx (va57 f.queue) .rw with
      | (s, .error _) => some (refuseTask s f)
      | (s, .ok ph) =>
        match ph.dev with
        | some d =>
          if !canSend s d ph.pa then none
          else some (sendRemote { s with fired := s.fired.map (fun x => if x.key = key then { x with sent := true } else x) }
            (agentReq key d f.ctx f.launch false (.read ph.pa 0)) ph.pa)
        | none =>
          match pushAt { s with fired := s.fired.filter (fun x => decide (x.key ≠ key)) } f.ctx ph.pa f.bytes [] f.regions with
          | .ok s => some s
          | .notYet => none
          | _ => some (refuseTask s f))

/-- TASK_PUSH (12 R314, items 3 and 4). -/
def execTaskPush (key : Nat) (s : State) : Host.Outcome State Fault Refusal := onSome (taskPush s key) .next

end Sys2Proof.Machine
end

