-- ==== Sys2Proof/Machine/Barrier.lean ====
section
/-! DEFINITION. Named barriers (13 R315 to R319), barrier records and their arrivals (13 R320 to R326), straggler records
(13 R327 to R331), and the slew limiter (18 R417). -/

namespace Sys2Proof.Machine

/-! ### Named barriers -/

/-- A named barrier of a team. -/
def barOf (s : State) (team b : Nat) : NBar := ((teamOf s team).map (fun t => t.bars.getD b NBar.uninit)).getD NBar.uninit

/-- The state with a named barrier replaced. -/
def setBar (s : State) (team b : Nat) (x : NBar) : State := onTeam s team (fun t => { t with bars := t.bars.set b x })

/-- Whether a group waits at a named barrier of its team. -/
def waitsAt (g : Group) (team b : Nat) : Bool :=
  decide (g.team = team) && (match g.park with
    | some (.barw x _) => decide (x = b)
    | some (.barph x _) => decide (x = b)
    | _ => false)

/-- The waiters of the phase that ended: woken, or where they are saved, to be woken at once when they are restored
(13 R316, 16 R385). -/
def releaseWaiters (s : State) (team b : Nat) : State :=
  { s with groups := s.groups.map (fun g =>
      if waitsAt g team b then wakeGroup g else g) }

/-- The waiters woken by a fault, each at its own instruction (13 R316); those that are saved take it when they return. -/
def faultWaiters (s : State) (team b : Nat) (t : TrapInfo) : State :=
  (s.groups.filter (fun g => waitsAt g team b)).foldl (fun s g => wakeTrap s g.id t) s

/-- The barrier fault (13 R334). -/
def barFault (sub : Nat) : TrapInfo := trapC 0x21 sub
/-- The barrier-overrun fault. -/
def overrun : TrapInfo := trapC 0x22 0

/-- The test of a barrier after an arrival or a landing (13 R316). -/
def testBar (s : State) (team b : Nat) (x : NBar) : State :=
  if x.arr < x.exp then setBar s team b x
  else if x.land = x.decl then
    releaseWaiters (setBar s team b { x with ph := !x.ph, arr := 0, decl := x.dbase, land := 0 }) team b
  else if x.decl < x.land then faultWaiters (setBar s team b { x with st := 2 }) team b overrun
  else setBar s team b x

/-- An arrival. -/
def arriveBar (s : State) (team b : Nat) : State :=
  let x := barOf s team b
  testBar s team b { x with arr := x.arr + 1 }

/-- The bytes of a named barrier (16 R386). -/
def barBytes (b : NBar) : List Byte :=
  natLE 8 (b.st + (if b.ph then 4 else 0) + 2 ^ 3 * b.exp + 2 ^ 13 * b.arr) ++ natLE 8 b.dbase ++ natLE 8 b.decl ++ natLE 8 b.land

/-- The barrier of a team that is saved brought up to date in its save area, from which it is restored (13 R316, 16 R386). -/
def saveBar (s : State) (team b : Nat) : State :=
  match teamOf s team with
  | some t => if t.st ≠ .saved then s
      else (putVA s (t.core / 4) t.ctx (t.save.toNat + 0x40 + 32 * b) (barBytes (barOf s team b))).getD s
  | none => s

/-- A landing of copy bytes (13 R316); where none has landed nothing happens. -/
def landBar (s : State) (team b n : Nat) : State :=
  let x := barOf s team b
  if n = 0 then s else match x.st with
  | 1 => saveBar (testBar s team b { x with land := x.land + n }) team b
  | 0 => saveBar (setBar s team b { x with st := 2 }) team b
  | _ => s

/-- Check(b) of 13 R319. -/
def checkBar (x : NBar) : Option TrapInfo :=
  match x.st with
  | 0 => some (barFault 1)
  | 1 => none
  | _ => some overrun

/-- The barrier that MOD names. -/
def barNo (f : RF) : Nat := f.mod.toNat % 16

/-- BARI (13 R319). -/
def execBari (h : Hd) (f : RF) (s : State) : Host.Outcome State Fault Refusal :=
  wideOp (.bari h f) h (fun g s =>
    let b := barNo f
    let c := (g.s.getD f.a.toNat 0).toNat
    let n := if f.mod.getLsbD 4 then (g.s.getD f.b.toNat 0).toNat else 0
    if s.groups.any (fun x => waitsAt x g.team b) then .trap s (barFault 2)
    else if c = 0 ∨ 1023 < c then .trap s (barFault 3)
    else if 2 ^ 32 ≤ n then .trap s (barFault 3)
    else .done (setBar s g.team b ⟨1, false, c, 0, n, n, 0⟩)) s

/-- BARA (13 R317, R319). -/
def execBara (h : Hd) (f : RF) (s : State) : Host.Outcome State Fault Refusal :=
  wideOp (.bara h f) h (fun g s =>
    let b := barNo f
    let x := barOf s g.team b
    match checkBar x with
    | some t => .trap s t
    | none =>
      if !releaseMet s g 2 then .wait
      else .done (arriveBar (setGroup s (writeScalar g f.d.toNat (if x.ph then 1 else 0))) g.team b)) s

/-- BARW (13 R317, R319): an overrun at its own arrival is taken with the arrival counted. -/
def execBarw (h : Hd) (f : RF) (s : State) : Host.Outcome State Fault Refusal :=
  wideOp (.barw h f) h (fun g s =>
    let b := barNo f
    let x := barOf s g.team b
    match checkBar x with
    | some t => .trap s t
    | none =>
      if !releaseMet s g 2 then .wait
      else
        let s := arriveBar s g.team b
        let y := barOf s g.team b
        if y.st = 2 then .trap s overrun
        else if y.ph = x.ph then .done (setGroup s (parkGroup s g (.barw b x.ph)))
        else .done s) s

/-- BAREXP (13 R319). -/
def execBarexp (h : Hd) (f : RF) (s : State) : Host.Outcome State Fault Refusal :=
  wideOp (.barexp h f) h (fun g s =>
    let b := barNo f
    let x := barOf s g.team b
    let n := (g.s.getD f.a.toNat 0).toNat
    match checkBar x with
    | some t => .trap s t
    | none => if 2 ^ 32 ≤ x.decl + n then .trap s (barFault 3) else .done (setBar s g.team b { x with decl := x.decl + n })) s

/-- BARPH (13 R319). -/
def execBarph (h : Hd) (f : RF) (s : State) : Host.Outcome State Fault Refusal :=
  wideOp (.barph h f) h (fun g s =>
    let b := barNo f
    let x := barOf s g.team b
    let v := g.s.getD f.a.toNat 0
    match checkBar x with
    | some t => .trap s t
    | none =>
      if 1 < v.toNat then .trap s (barFault 3)
      else if x.ph = decide (v = 1) then .done (setGroup s (parkGroup s g (.barph b x.ph)))
      else .done s) s

/-- BARINV (13 R316). -/
def execBarinv (h : Hd) (f : RF) (s : State) : Host.Outcome State Fault Refusal :=
  wideOp (.barinv h f) h (fun g s =>
    let b := barNo f
    .done (faultWaiters (setBar s g.team b { barOf s g.team b with st := 0 }) g.team b (barFault 4))) s

/-! ### Barrier records -/

/-- An ACTIVE record. -/
def recAt (s : State) (pa : Nat) : Option GRec := s.recs.find? (fun r => decide (r.pa = pa))

/-- The words of a record in memory. -/
def recWords (s : State) (pa : Nat) : List Nat := (List.range 8).map (fun i => memNat s.mem (pa + 8 * i) 8)

/-- The ordering scope of a record (13 R321), in the codes of 09 R208: die 4, package 5, system 6. -/
def recScope (scope : Nat) : Nat := if scope = 0 then 4 else if scope = 3 then 6 else 5

/-- The pages of an address range. -/
def pagesOf (va len : Nat) : List Nat :=
  (List.range (len / 65536 + 2)).filterMap (fun i =>
    let p := (va / 65536 + i) * 65536
    if p < va + len then some (max p va) else none)

/-- Whether a record is malformed, its straggler array included (13 R320). -/
def recMalformed (s : State) (ctx : Nat) (w : List Nat) : Bool :=
  let g := fun i => w.getD i 0
  let members := bits (g 1) 32 24
  decide (g 0 / 2 ^ 57 ≠ 0) || decide (g 0 % 64 ≠ 0) || decide (g 1 / 2 ^ 62 ≠ 0) || decide (bits (g 1) 3 29 ≠ 0) ||
    decide (bits (g 1) 56 4 = 0) || decide (members = 0) || decide (3 < bits (g 1) 0 3) ||
    decide (bits (g 2) 32 32 < bits (g 2) 0 32) || decide (bits (g 4) 56 6 ≠ 0) || decide (bits (g 4) 62 2 = 3) || decide (g 6 / 2 ^ 24 ≠ 0) ||
    decide (g 7 ≠ 0) || (decide (bits (g 1) 0 3 = 0) && decide (16 < members)) ||
    (pagesOf (g 0) (members * 64)).any (fun p => match peek s ctx p .wr with
      | .ok _ => false
      | .error _ => true)

/-- A straggler entry's own state: cleared where nothing is kept of it (13 R322). -/
def stragOf (r : GRec) (mem : Nat) : Strag :=
  (r.strag.find? (fun x => decide (x.mem = mem))).getD ⟨mem, 0, 0, false, false, 0, List.replicate 8 0⟩

/-- A record with the state of a straggler entry replaced. -/
def setStrag (r : GRec) (x : Strag) : GRec := { r with strag := r.strag.filter (fun y => decide (y.mem ≠ x.mem)) ++ [x] }

/-- The word of LAG, CONSEC, MARKED and SKIP (13 R327). -/
def stragWord (x : Strag) : Nat :=
  x.lag + 2 ^ 32 * x.consec + (if x.marked then 2 ^ 36 else 0) + (if x.skip then 2 ^ 37 else 0)

/-- Bytes written into a straggler entry. -/
def putStrag (s : State) (r : GRec) (mem off : Nat) (bs : List Byte) : State :=
  slicePut s r.ctx (va57 (BitVec.ofNat 64 (r.srec + 64 * mem + off))) bs

/-- The state words of a record written where loads find them (13 R320), behind what the buffer of its line holds (08 R189). -/
def putRecWords (s : State) (r : GRec) (st : Nat) : State :=
  let first := (r.arr.map (fun (a : Arrived) => a.ts)).min?.getD 0
  let s := drainLine s (r.pa / 512)
  { s with mem := memPut s.mem (r.pa + 0x18) (natLE 8 r.ownLid.toNat ++
      natLE 8 (r.gen % 2 ^ 32 + 2 ^ 32 * r.arr.length + 2 ^ 62 * st) ++ natLE 8 first ++ natLE 8 r.ownSpan) }

/-- An ACTIVE record replaced. -/
def putRec (s : State) (r : GRec) : State :=
  putRecWords { s with recs := s.recs.map (fun x => if x.pa = r.pa then r else x) } r 1

/-- The queues of this device that a record homed here marked are unmarked (13 R322). -/
def unmarkAll (s : State) (pa : Nat) : State :=
  (s.queues.filter (fun q => q.marked && decide (q.hood.head? = some pa) && decide (q.hood.drop 2 = []))).foldl
    (fun s q => putQueue s { q with marked := false, hood := [] }) s

/-- Whether a group waits at a record for what comes from it (13 R324). -/
def waitsAtRec (pa : Nat) (g : Group) : Bool :=
  match g.park with
  | some (.gbar x _ 0) => decide (x = pa)
  | _ => false

/-- The clusters that the release of a generation reaches go on in its order (13 R326). -/
def releaseGen (s : State) (pa gen : Nat) : State :=
  { s with clusters := s.clusters.zipIdx.map (fun x =>
      if s.groups.any (fun g => decide (g.cluster = x.2) && waitsAtRec pa g) then { x.1 with slewGen := gen } else x.1) }

/-- What came for the groups that wait at a record (13 R324): their slots are freed. -/
def tellWaiters (s : State) (pa got : Nat) (p : Group → Bool) : State :=
  let hit := fun (g : Group) => p g && waitsAtRec pa g
  let teams := (s.groups.filter hit).map (fun g => g.team)
  let s := { s with groups := s.groups.map (fun g =>
    if hit g then { g with park := match g.park with
      | some (.gbar x sc _) => some (.gbar x sc got)
      | y => y } else g) }
  teams.foldl (fun s t => onTeam s t (fun x => { x with gslots := x.gslots.filter (fun y => decide (y.recd ≠ pa)) })) s

/-- An answer to a linked device, on its link for a place, where the window has room for it (17 R401, R402); else, or while that link is
being trained anew (17 R400), it waits, with those to the device that come after it. -/
def tellDevice (s : State) (dev pa : Nat) (data : List Byte) : State :=
  let wait := { s with outbox := s.outbox ++ [(dev, pa, data)] }
  match linkFor s dev pa with
  | some l => if windowRoom s l 1 data.length && !s.outbox.any (fun x => decide (x.1 = dev)) then sendFlit s l 1 data else wait
  | none => if retraining s dev then wait else s

/-- The oldest answer to a device that can be sent now, sent; one that no link can take any more is dropped. -/
def sendOut (s : State) : Option State :=
  (s.outbox.zipIdx.find? (fun x => !(s.outbox.take x.2).any (fun y => decide (y.1 = x.1.1)) && (match linkFor s x.1.1 x.1.2.1 with
    | some l => windowRoom s l 1 x.1.2.2.length
    | none => !retraining s x.1.1))).map (fun x =>
    let s := { s with outbox := s.outbox.eraseIdx x.2 }
    match linkFor s x.1.1 x.1.2.1 with
    | some l => sendFlit s l 1 x.1.2.2
    | none => s)

/-- An answer to each of some linked devices. -/
def tellDevices (s : State) (devs : List Nat) (pa : Nat) (data : List Byte) : State :=
  devs.eraseDups.foldl (fun s d => tellDevice s d pa data) s

/-- A record that is no longer ACTIVE (13 R322): the queues that it marked are unmarked, here and through the linked devices that marked
them for it. -/
def dropRec (s : State) (r : GRec) (st : Nat) : State :=
  let s := tellDevices (unmarkAll s r.pa) r.markDevs r.pa (natLE 8 r.pa)
  putRecWords { s with recs := s.recs.filter (fun x => decide (x.pa ≠ r.pa)) } r st

/-- A record becomes ABANDONED (13 R322, 17 R404): MARKED is cleared in its entries, and its waiters, those on linked devices among
them, are woken. -/
def abandonRec (s : State) (r : GRec) : State :=
  let s := (r.strag.filter (fun x => x.marked)).foldl (fun s x =>
    putStrag s r x.mem 0x20 (natLE 8 (stragWord { x with marked := false }))) s
  let s := tellDevices (dropRec s r 2) r.devs r.pa (natLE 8 r.pa ++ natLE 1 10)
  tellWaiters s r.pa 10 (fun _ => true)

/-- The state that a record which is not ACTIVE has in memory: IDLE gives uninit, ABANDONED abandoned. -/
def deadSub (s : State) (pa : Nat) : Nat := if bits (memNat s.mem (pa + 0x20) 8) 62 2 = 2 then 10 else 1

/-- The place of a record: aligned, and translated for the access (13 R320, R324). -/
def recPlace (s : State) (g : Group) (va : Nat) (acc : Acc) : State × Option Phys :=
  if va % 64 ≠ 0 then (s, none)
  else match translate s g.cluster (some g.core) g.ctx va acc with
    | (s, .ok ph) => (s, some ph)
    | (s, .error _) => (s, none)

/-- The span length of the group's launch and the index of its team. -/
def teamSpan (s : State) (g : Group) : Option (W64 × Nat × Nat) :=
  match groupLaunch s g, teamOf s g.team with
  | some l, some t => some (l.lid, l.recd.span, t.index)
  | _, _ => none

/-- The member that a GBAR arrives as (13 R321, R324). -/
def memberOf (s : State) (g : Group) (r : GRec) (i : Nat) : Option Nat :=
  if 2 ≤ r.scope then
    if i < r.members ∧ (r.scope = 3 ∨ (r.ctx = g.ctx ∧ g.launch.isSome)) then some i else none
  else if i ≠ 0 then none
  else match teamSpan s g with
    | none => none
    | some (lid, span, idx) =>
      if lid ≠ r.ownLid then none
      else if r.scope = 1 then (if idx < r.members then some idx else none)
      else if span ≠ 0 ∧ r.members = span + 1 ∧ idx - idx % (span + 1) = r.ownSpan then some (idx % (span + 1)) else none

/-- The slice of a record, for its message. -/
def recSlice (ph : Phys) : Nat := homeSlice ph.leaf ph.pa

/-- The name of a record in the waits of its groups: its place, apart from that of a record of another device. -/
def recKey (pa : Nat) (dev : Option Nat) : Nat :=
  match dev with
  | none => pa
  | some d => pa + 2 ^ 64 * (d + 1)

/-- The node where the arrival of a group combines (13 R325): that of its die, at the slice of the record's number there; for the
record of another device one node of this device. -/
def gbarNode (g : Group) (ph : Phys) : Nat := if ph.dev.isSome then recSlice ph else 16 * dieOf g.cluster + recSlice ph % 16

/-- GBAR takes its slot and parks, once its release is performed; the last of the G groups sends the arrival (13 R324). -/
def gbarArrive (s : State) (g : Group) (va : Nat) (ph : Phys) (scope gen mem cnt : Nat) : GOut :=
  match teamOf s g.team with
  | none => .trap s (barFault 6)
  | some t =>
    let old := t.gslots.find? (fun x => decide (x.recd = recKey ph.pa ph.dev))
    if old.isNone && decide (4 ≤ t.gslots.length) then .trap s (barFault 7)
    else if (match old with | some x => decide (x.mem ≠ mem ∨ x.g ≠ cnt) | none => false) then .trap s (barFault 8)
    else if !releaseMet s g (recScope scope) then .wait
    else
      let n := (match old with | some x => x.count | none => 0) + 1
      let slots := t.gslots.filter (fun x => decide (x.recd ≠ recKey ph.pa ph.dev)) ++ [⟨recKey ph.pa ph.dev, gen, mem, cnt, n⟩]
      let s := onTeam s g.team (fun t => { t with gslots := slots })
      let s := setGroup s (parkGroup s g (.gbar (recKey ph.pa ph.dev) (recScope scope) 0))
      let s := { s with joins := if ph.dev.isSome then (s.joins ++ [(g.ctx, ph.dev.getD 0, ph.pa)]).eraseDups else s.joins }
      if n ≠ cnt then .done s
      else
        let (key, s) := takeId s
        let lid := ((groupLaunch s g).map (fun (l : Launch) => l.lid)).getD 0
        .done { s with
          gmsgs := s.gmsgs ++ [⟨key, false, ph.pa, ph.dev, gbarNode g ph, ⟨mem, 0, lid, t.index, t.id, g.ctx, none⟩, some va, ph.big⟩] }

/-- What a GBAR finds at the record of another device, whose words have come (13 R320, R324): its STATE, and a member of a record of
SCOPE 3; the generation that it arrives in. -/
def farRec (w : List Nat) (bad : Bool) (i : Nat) : Except TrapInfo Nat :=
  let st := bits (w.getD 4 0) 62 2
  if st ≠ 1 then .error (barFault (if st = 2 then 10 else 1))
  else if bad then .error (barFault 3)
  else if bits (w.getD 1 0) 0 3 ≠ 3 ∨ bits (w.getD 1 0) 32 24 ≤ i then .error (barFault 6)
  else .ok (bits (w.getD 4 0) 0 32)

/-- GBAR (13 R323, R324). The record of another device is read over its link first; its home looks at it again as the arrival comes
(FLIT_RECEIVE). -/
def execGbar (h : Hd) (f : RF) (s : State) : Host.Outcome State Fault Refusal :=
  wideOp (.gbar h f) h (fun g s =>
    let opd := (g.s.getD f.b.toNat 0).toNat
    let i := bits opd 0 24
    let cnt := bits opd 24 8
    let va := va57 (g.s.getD f.a.toNat 0)
    match recPlace s g va .rw with
    | (s, none) => .trap s (barFault 5)
    | (s, some ph) =>
      let bad := decide (cnt = 0 ∨ 64 < cnt ∨ opd / 2 ^ 32 ≠ 0)
      if ph.dev.isSome then
        match groupRead s g va 64 with
        | (s, .error none) => .hold s
        | (s, .error (some e)) => .trap s (readFault (barFault 5) e)
        | (s, .ok bs) => match farRec ((List.range 8).map (fun k => leNat ((bs.drop (8 * k)).take 8))) bad i with
          | .error t => .trap s t
          | .ok gen => gbarArrive s g va ph 3 gen i cnt
      else match recAt s ph.pa with
        | none => .trap s (barFault (deadSub s ph.pa))
        | some r =>
          if bad then .trap s (barFault 3)
          else match memberOf s g r i with
            | none => .trap s (barFault 6)
            | some mem => gbarArrive s g va ph r.scope r.gen mem cnt) s

/-- GBAR.init (13 R322, R323). -/
def execGbarInit (h : Hd) (f : RF) (s : State) : Host.Outcome State Fault Refusal :=
  wideOp (.gbarInit h f) h (fun g s =>
    match recPlace s g (va57 (g.s.getD f.a.toNat 0)) .rw with
    | (s, none) => .trap s (barFault 5)
    | (s, some ph) =>
      let w := recWords s ph.pa
      if ph.dev.isSome then .trap s (barFault 5)
      else if (recAt s ph.pa).isSome then .trap s (barFault 2)
      else if recMalformed s g.ctx w then .trap s (barFault 5)
      else
        let scope := bits (w.getD 1 0) 0 3
        let (lid, span, idx) := (teamSpan s g).getD (0, 0, 0)
        if scope = 0 ∧ span = 0 then .trap s (barFault 6)
        else
          let own := if scope = 0 then idx - idx % (span + 1) else 0
          let w1 := w.getD 1 0
          let w2 := w.getD 2 0
          let r : GRec := ⟨ph.pa, g.ctx, w.getD 0 0, bits w1 60 2, bits w1 56 4, bits w1 32 24, scope, bits w2 32 32,
            bits w2 0 32, lid, own, 0, [], [], [], [], [], none, []⟩
          let s := (List.range r.members).foldl (fun s i =>
            putStrag (putStrag s r i 0 (List.replicate 40 0)) r i 48 (List.replicate 16 0)) s
          .done (putRec { s with recs := s.recs ++ [r] } r)) s

/-- GBAR.fini (13 R322, R323). -/
def execGbarFini (h : Hd) (f : RF) (s : State) : Host.Outcome State Fault Refusal :=
  wideOp (.gbarFini h f) h (fun g s =>
    match recPlace s g (va57 (g.s.getD f.a.toNat 0)) .rw with
    | (s, none) => .trap s (barFault 5)
    | (s, some ph) =>
      if ph.dev.isSome then .trap s (barFault 5)
      else match recAt s ph.pa with
        | none => .trap s (barFault (deadSub s ph.pa))
        | some r =>
          if r.arr ≠ [] then .trap s (barFault 2)
          else .done (dropRec s r 0)) s

/-- STRAG (13 R331): the record is judged, and its array read, in the translation of the context that initialised it where it is
ACTIVE; an array on a page of another device is read over its link. -/
def execStrag (h : Hd) (f : RF) (s : State) : Host.Outcome State Fault Refusal :=
  wideOp (.strag h f) h (fun g s =>
    if isReplay s g.ctx then .trap s (trapC 0x0D 0)
    else match recPlace s g (va57 (g.s.getD f.a.toNat 0)) .rw with
      | (s, none) => .trap s (barFault 5)
      | (s, some ph) =>
        let w := recWords s ph.pa
        let i := bits (g.s.getD f.b.toNat 0).toNat 0 24
        let ctx := ((recAt s ph.pa).map (fun r => r.ctx)).getD g.ctx
        if ph.dev.isSome then .trap s (barFault 5)
        else if (recAt s ph.pa).isNone ∧ deadSub s ph.pa = 1 then .trap s (barFault 1)
        else if recMalformed s ctx w then .trap s (barFault 5)
        else if bits (w.getD 1 0) 32 24 ≤ i then .trap s (barFault 6)
        else
          let va := va57 (BitVec.ofNat 64 (w.getD 0 0 + 64 * i + 8 * (f.mod.toNat % 8)))
          match recRead s { g.who with ctx := ctx } g.launch g.core (ownReqs g) va 8 with
          | (s, .ok bs) => .done (setGroup s (writeScalar g f.d.toNat (wAt bs 0)))
          | (s, .error none) => .hold s
          | (s, .error (some e)) => .trap s (readFault (barFault 5) e)) s

/-! ### The combining tree -/

/-- The queue that a member names, as a mark finds it (13 R330): translated in the context of the member's team, on the device
where that team runs, for reading and writing (15 R361). -/
def markPlace (s : State) (ctx : Nat) (queue : W64) : State × Option Phys :=
  match walkNow s ctx (va57 queue) .rw with
  | (s, .ok ph) => (s, some ph)
  | (s, .error _) => (s, none)

/-- Whether two marks are of one record: its place, and its device where that is another. -/
def sameRec (a b : List Nat) : Bool := decide (a.head? = b.head?) && decide (a.drop 2 = b.drop 2)

/-- Mark() of 13 R330 at a queue that is homed here, for a record with its neighbourhood: the queue marked, or none where the
attempt fails; a mark that the record holds already is its own. `hood` names the record: its place, its neighbourhood, and its device
where that is another. -/
def markHere (s : State) (pa ctx : Nat) (lid : W64) (index : Nat) (hood : List Nat) : Option State :=
  (queueAt s pa).bind (fun q =>
    if q.gleanOk ∧ (!q.marked || sameRec q.hood hood) ∧ q.ownLid = lid ∧ q.ownTeam = index ∧ q.ctx = ctx then
      some (putQueue s { q with marked := true, hood := hood })
    else none)

/-- The mark of a queue lifted by its record. -/
def unmarkHere (s : State) (pa : Nat) (hood : List Nat) : State :=
  match queueAt s pa with
  | some q => if q.marked ∧ sameRec q.hood hood then putQueue s { q with marked := false, hood := [] } else s
  | none => s

/-- A straggler entry written after its update (13 R327, R329), with the state that the record keeps of it. -/
def stragDone (s : State) (r : GRec) (u : StragUp) (x : Strag) : State :=
  let off := u.arr.ts - u.first
  let x := { x with ts := x.ts.set (u.gen % 8) (min off (2 ^ 32 - 1)) }
  let s := putStrag s r u.arr.mem 0 (x.ts.flatMap (natLE 4) ++ natLE 8 (stragWord x))
  let s := putStrag s r u.arr.mem 0x30 (natLE 8 (x.narr + 2 ^ 32 * u.arr.mt) ++ natLE 8 u.arr.lid.toNat)
  let r := { setStrag r x with ups := r.ups.drop 1, askKey := none }
  { s with recs := s.recs.map (fun y => if y.pa = r.pa then r else y) }

/-- The scores of a member after an update (13 R329). -/
def stragScore (r : GRec) (u : StragUp) : Strag :=
  let x := stragOf r u.arr.mem
  let lag := min (x.lag - x.lag / 8 + 2 * (u.arr.ts - u.first)) (2 ^ 32 - 1)
  { x with lag := lag, consec := if 16 * r.hi < lag then min (x.consec + 1) 15 else 0, narr := (x.narr + 1) % 2 ^ 32 }

/-- Who reads for a record. -/
def recWho (r : GRec) : Who := ⟨2 ^ 42 + r.pa, r.ctx, 144, 0⟩

/-- The QUEUE of a straggler entry, as it stands in memory (13 R327). -/
def stragQueue (s : State) (r : GRec) (mem : Nat) : State × Except CErr W64 :=
  let va := va57 (BitVec.ofNat 64 (r.srec + 64 * mem + 0x28))
  match walkNow s r.ctx va .rd with
  | (s, .error e) => (s, .error (.fault e.cause e.sub va 0))
  | (s, .ok ph) => (s, (placeBytes s (recWho r).id (recWho r).cluster ph va 8).map (fun bs => wAt bs 0))

/-- A request about a mark sent to a linked device (13 R330, 17 R402): to the one where the member's team runs, or where its queue is
homed. -/
def sendMark (s : State) (r : GRec) (dev : Nat) (key : Option Nat) (data : List Byte) : State :=
  match key with
  | some key => sendRemote s (agentReq key dev r.ctx none false (.read r.pa 0)) r.pa
  | none => tellDevices s [dev] r.pa data

/-- The next straggler update of a record (13 R329, R330), or what it needs first: the QUEUE of an entry on a page of another device,
or the answer of the linked device that has to mark the queue. None where it can only wait. -/
def stragStep (s : State) (r : GRec) : Option State :=
  match r.ups with
  | [] => none
  | u :: _ =>
    let x := stragScore r u
    let a := u.arr
    let tries := !x.marked && decide (r.n ≤ x.consec)
    let lifts := x.marked && decide (x.lag < 16 * r.lo)
    if !tries && !lifts then some (stragDone s r u x)
    else if r.askKey.isSome then none
    else match stragQueue s r a.mem with
      | (s, .error (.need d line)) => askLine s (recWho r) none 0x3FF d line
      | (_, .error .wait) => none
      | (s, .error (.fault _ _ _ _)) => some (stragDone s r u (if lifts then { x with marked := false } else { x with skip := true }))
      | (s, .ok w) =>
        let s := dropGot s (recWho r).id
        let queue := va57 w
        let failed := { x with skip := true }
        if lifts then
          let s := match a.dev with
            | some d => sendMark s r d none (natLE 8 r.pa ++ natLE 8 queue)
            | none => match markPlace s a.ctx w with
              | (s, some ph) => (match ph.dev with
                | none => unmarkHere s ph.pa [r.pa, r.nbhd]
                | some d => sendMark s r d none (natLE 8 r.pa ++ natLE 8 queue))
              | (s, none) => s
          some (stragDone s r u { x with marked := false })
        else if queue = 0 then some (stragDone s r u x)
        else
          let ask := fun (s : State) (d : Nat) =>
            let (key, s) := takeId s
            some (sendMark { s with recs := s.recs.map (fun y => if y.pa = r.pa then { y with askKey := some key } else y) } r d (some key) [])
          match a.dev with
          | some d => ask s d
          | none => match markPlace s a.ctx w with
            | (s, none) => some (stragDone s r u failed)
            | (s, some ph) => match ph.dev with
              | some d => ask s d
              | none => match markHere s ph.pa a.ctx a.lid a.mt [r.pa, r.nbhd] with
                | some s => some (stragDone s r u { x with marked := true, skip := false })
                | none => some (stragDone s r u failed)

/-- The updates of a record as far as they can be done now; the fuel is their number. -/
def stragGo (pa : Nat) : Nat → State → State
  | 0, s => s
  | n + 1, s => match (recAt s pa).bind (stragStep s) with
    | some s => stragGo pa n s
    | none => s

/-- The answer of a linked device to a mark (13 R330). -/
def markReply (s : State) (r : GRec) (ok : Bool) : State :=
  match r.ups with
  | [] => s
  | u :: _ =>
    let x := stragScore r u
    let dev := (s.remotes.find? (fun (y : Remote) => decide (some y.id = r.askKey))).map (fun y => y.dev)
    let r := if ok then { r with markDevs := (r.markDevs ++ dev.toList).eraseDups } else r
    let s := { s with remotes := s.remotes.filter (fun y => decide (some y.id ≠ r.askKey)) }
    stragDone s r u (if ok then { x with marked := true, skip := false } else { x with skip := true })

/-- A generation completes (13 R322, R325, R329): the release goes down the tree, ARRIVED is 0, the stragglers are updated. -/
def completeGen (s : State) (r : GRec) : State :=
  let first := (r.arr.map (fun (a : Arrived) => a.ts)).min?.getD 0
  let devs := r.arr.filterMap (fun a => a.dev)
  let ups := r.arr.map (fun a => (⟨r.gen, first, a⟩ : StragUp))
  let s := putRec (releaseGen s r.pa r.gen) { r with gen := (r.gen + 1) % 2 ^ 32, prev := r.arr, arr := [], ups := ups }
  let s := tellWaiters s r.pa 1 (fun _ => true)
  stragGo r.pa ups.length (tellDevices s devs r.pa (natLE 8 r.pa ++ natLE 4 r.gen))

/-- Arrivals counted at an ACTIVE record (13 R322). -/
def countArrival (s : State) (r : GRec) (a : Arrived) : State :=
  let r := { r with arr := r.arr ++ [a], devs := (r.devs ++ a.dev.toList).eraseDups }
  if r.members ≤ r.arr.length then completeGen s r else putRec s r

/-- GBAR_COMBINE (13 R325, R328): the arrival enters its node and is timestamped. -/
def execGbarCombine (key : Nat) (s : State) : Host.Outcome State Fault Refusal :=
  onSome (s.gmsgs.find? (fun m => decide (m.key = key))) (fun m =>
    if m.node then .fault .notEnabled
    else .next { s with gmsgs := s.gmsgs.map (fun x =>
      if x.key = key then { x with node := true, arr := { x.arr with ts := s.fcycles } } else x) })

/-- The arrivals that one message of a node carries (13 R325): those that have entered it. -/
def nodeMsgs (s : State) (m : GMsg) : List GMsg :=
  s.gmsgs.filter (fun x => x.node && decide (x.pa = m.pa) && decide (x.dev = m.dev) && decide (x.node_ = m.node_))

/-- An arrival at the home slice of its record (13 R322, R324), counted or refused: what refuses it tells its team. -/
def arriveHome (tell : State → Nat → State) (pa : Nat) (a : Arrived) (s : State) : State :=
  match recAt s pa with
  | none => tell s (deadSub s pa)
  | some r => if r.arr.any (fun b => decide (b.mem = a.mem)) then tell s 9 else countArrival s r a

/-- Whether the home slice of a record can take arrivals: the updates of a generation are complete before the release of the next
(13 R329). -/
def recReady (s : State) (pa : Nat) (n : Nat) : Bool :=
  match recAt s pa with
  | some r => decide (r.ups = []) || decide (r.arr.length + n < r.members)
  | none => true

/-- GBAR_ARRIVAL (13 R322, R324, R325): the message of a node at the home slice: each of its members is counted, or refused as
abandoned, uninitialised or a duplicate; one for the record of another device crosses its link. -/
def execGbarArrival (key : Nat) (s : State) : Host.Outcome State Fault Refusal :=
  onSome (s.gmsgs.find? (fun m => decide (m.key = key))) (fun m =>
    let ms := nodeMsgs s m
    if !m.node || (m.dev.isNone && !recReady s m.pa ms.length) then .fault .notEnabled
    else
      let s' := { s with gmsgs := s.gmsgs.filter (fun x => !ms.contains x) }
      match m.dev with
      | some d => if !canSend s d m.pa then .fault .notEnabled
          else .next (match linkFor s d m.pa with
            | some _ => sendRemote s' { agentReq m.key d m.arr.ctx none true (.gbar m.pa (ms.map (fun x => x.arr))) with va := m.va, big := m.big } m.pa
            | none => ms.foldl (fun s x => tellWaiters s (recKey m.pa m.dev) 10 (fun g => decide (g.team = x.arr.team))) s')
      | none => .next (ms.foldl (fun s x =>
          arriveHome (fun s sub => tellWaiters s m.pa sub (fun g => decide (g.team = x.arr.team))) m.pa x.arr s) s'))

/-! ### The slew limiter -/

/-- Whether a cluster must be admitted before a lane of it issues or chooses a group (18 R417). -/
def slewed (s : State) (c : Nat) : Bool := decide ((clusterAt s c).lastIssue + 256 ≤ cyclesOf s c)

end Sys2Proof.Machine
end

