-- ==== Sys2Proof/Machine/Engine.lean ====
section
/-! DEFINITION. The matrix engine of a cluster as its instructions and copies reach it: entries, tiles, path-trace registers,
streams (10 R249 to R256, R260; 11 R281), and the leave arbiter (18 R419). -/

namespace Sys2Proof.Machine

/-- The engine of a cluster. -/
def engOf (s : State) (c : Nat) : Engine := (clusterAt s c).eng
/-- The state with an engine changed. -/
def onEng (s : State) (c : Nat) (f : Engine → Engine) : State := onCluster s c (fun x => { x with eng := f x.eng })

/-- The words of a tile: 64 rows of 16 (10 R260). -/
def tileOf (e : Engine) (z : Nat) : List W32 := ((e.tiles.find? (fun t => decide (t.1 = z))).map (·.2)).getD (List.replicate 1024 0)
/-- The engine with a tile replaced. -/
def putTile (e : Engine) (z : Nat) (ws : List W32) : Engine :=
  { e with tiles := (z, ws) :: e.tiles.filter (fun t => decide (t.1 ≠ z)) }
/-- The words of a path-trace register: 64 records of 17 (11 R281). -/
def qOf (e : Engine) (j : Nat) : List W32 := ((e.qregs.find? (fun t => decide (t.1 = j))).map (·.2)).getD (List.replicate 1088 0)
/-- The engine with a path-trace register replaced. -/
def putQ (e : Engine) (j : Nat) (ws : List W32) : Engine :=
  { e with qregs := (j, ws) :: e.qregs.filter (fun t => decide (t.1 ≠ j)) }

/-- The reservation entry of a team (10 R255). -/
def entOf (e : Engine) (team : Nat) : Option REnt := e.ents.find? (fun x => decide (x.team = team))
/-- The engine with the entry of a team changed. -/
def onEnt (e : Engine) (team : Nat) (f : REnt → REnt) : Engine :=
  { e with ents := e.ents.map (fun x => if x.team = team then f x else x) }
/-- Whether a team is the rein holder. -/
def holdsRein (e : Engine) (team : Nat) : Bool := e.ents.any (fun x => decide (x.team = team) && decide (x.st = .rein))
/-- Whether a team's entry holds a tile (10 R256). -/
def holdsTile (e : Engine) (team z : Nat) : Bool :=
  e.ents.any (fun x => decide (x.team = team) && decide (x.st ≠ .posted) && x.tmask.getLsbD z)

/-- The teams of a team's span, itself included (06 R134, 10 R250). -/
def spanIds (s : State) (team : Nat) : List Nat :=
  team :: (List.range 16).filterMap (fun i => (spanTeam s team i).map (fun t => t.id))

/-- Whether a tile is held by a team or by one of its span (10 R260). -/
def spanHolds (s : State) (e : Engine) (team z : Nat) : Bool := (spanIds s team).any (fun t => holdsTile e t z)

/-- A stream of an engine. -/
def streamOf (e : Engine) (n : Nat) : EStream := e.streams.getD n EStream.empty
/-- The engine with a stream replaced. -/
def putStream (e : Engine) (n : Nat) (x : EStream) : Engine := { e with streams := e.streams.set n x }

/-- The binding that a stream has once the commands queued before have acted (10 R254, R276). -/
def boundAs (e : Engine) (n : Nat) : Nat :=
  e.cmds.foldl (fun b c => match c.kind with
    | .osbind x y _ => if x = n then y else b
    | .unbind => 0
    | _ => b) (streamOf e n).bind

/-- The type and depth of the held B once the passes queued before have run (10 R271). -/
def keptB (e : Engine) : Option (Ty × Nat) :=
  e.cmds.foldl (fun b c => match c.kind with
    | .mma _ _ _ ty k _ _ _ _ _ => some (ty, k)
    | .unbind => none
    | _ => b) (e.heldB.map (·.2))

/-! ### Leave -/

/-- Whether a team holds a leave unit (18 R419). -/
def hasLeave (s : State) (c team : Nat) : Bool :=
  (clusterAt s c).leaves.any (fun l => decide (l = .tenure team) || decide (l = .leave team))

/-- Whether the first request that waits can be granted (18 R419). -/
def leaveOpen (x : Cluster) : Bool :=
  decide (x.leaves.length < 2) && (match x.leaveQ with
    | (_, ok) :: _ => !x.throttled || ok
    | [] => false)

/-- The team that a request is for. -/
def LeaveBy.team? : LeaveBy → Option Nat
  | .tenure t => some t
  | .leave t => some t
  | .copy _ => none

/-- The first request granted; a team holds at most one unit (18 R419), so that another request of its own is then none
(assumption 89). -/
def leaveGrant (x : Cluster) : Cluster :=
  match x.leaveQ with
  | (r, _) :: rest => { x with leaves := x.leaves ++ [r], leaveQ := rest.filter (fun l => l.1.team?.isNone || decide (l.1.team? ≠ r.team?)) }
  | [] => x

/-- A request for leave (18 R419): granted at once where a unit is free, no request waits and the cluster is not throttled. -/
def leaveAsk (s : State) (c : Nat) (r : LeaveBy) : State :=
  onCluster s c (fun x =>
    let x' := { x with leaveQ := x.leaveQ ++ [(r, false)] }
    if x.leaveQ = [] && leaveOpen x' then leaveGrant x' else x')

/-- The unit of a team released, however it came by it, and its request withdrawn where it still waits. -/
def leaveDrop (s : State) (c : Nat) (p : LeaveBy → Bool) : State :=
  onCluster s c (fun x => { x with leaves := x.leaves.filter (fun l => !p l), leaveQ := x.leaveQ.filter (fun l => !p l.1) })

/-- Whether a LEAVE of a team waits (18 R420). -/
def leaveAsks (s : State) (c team : Nat) : Bool := (clusterAt s c).leaveQ.any (fun l => decide (l.1 = .leave team))

/-- Whether a request is of a team. -/
def LeaveBy.ofTeam (team : Nat) : LeaveBy → Bool
  | .tenure t => decide (t = team)
  | .leave t => decide (t = team)
  | .copy _ => false

end Sys2Proof.Machine
end

