-- ==== Sys2Proof/Machine/Sheaf.lean ====
section
/-! DEFINITION. The sheaf formats (02 R43 to R48): the layout, the packing procedure with its flags, and the decoding. -/

namespace Sys2Proof.Machine

/-- The magnitude bits of a sheaf type (02 R44). -/
def shMb : Ty → Nat
  | .sh8 => 7
  | .sh5 => 4
  | _ => 2

/-- The size of a sheaf in bytes (02 R44): 34, 22 or 14. -/
def shBytes (ty : Ty) : Nat := 2 + 4 * (shMb ty + 1)

/-- The magnitude of a source at the exponent e and the downshift d, rounded to nearest even (02 R46). -/
def shScaled (mb : Nat) (e d : Int) (m : Nat) (ex : Int) : Nat :=
  let k : Int := ex + (mb - 1) - (e - 127) + d
  if 0 ≤ k then m * 2 ^ k.toNat else roundInt .rne false m (-k).toNat

/-- Whether a source fits at the exponent and downshift; an infinity never does (02 R46). -/
def shFits (mb : Nat) (e d : Int) : FVal → Bool
  | .fin _ m ex => decide (shScaled mb e d m ex ≤ 2 ^ mb - 1)
  | _ => false

/-- Whether the source is an infinity. -/
def isInf : FVal → Bool
  | .inf _ => true
  | _ => false

/-- The exponent of a sheaf without NaN (02 R46). -/
def shExp (mb : Nat) (xs : List FVal) : Nat :=
  if xs.any isInf then 254
  else ((List.range 255).find? (fun (e : Nat) => xs.all (shFits mb e 0))).getD 254

/-- The downshift of one bundle (02 R46). -/
def shDown (mb e : Nat) (xs : List FVal) : Nat :=
  (([3, 2, 1] : List Nat).find? (fun (d : Nat) => xs.all (shFits mb e d))).getD 0

/-- The magnitude of one element (02 R46). -/
def shMag (mb e d : Nat) : FVal → Nat
  | .fin _ m ex => min (shScaled mb e d m ex) (2 ^ mb - 1)
  | _ => 2 ^ mb - 1

/-- Whether m times 2 to the a equals m' times 2 to the b. -/
def dyEq (m : Nat) (a : Int) (m' : Nat) (b : Int) : Bool :=
  decide (m * 2 ^ (a - min a b).toNat = m' * 2 ^ (b - min a b).toNat)

/-- The flags of one packed element (02 R47). -/
def shElemFlags (mb e d : Nat) : FVal → Flags
  | .fin _ m ex =>
    let big := decide (2 ^ mb - 1 < shScaled mb e d m ex)
    let q := shMag mb e d (.fin false m ex)
    flagIf big (flOF ||| flSS) ||| flagIf (decide (q = 0 ∧ m ≠ 0)) flUF |||
      flagIf (!dyEq m ex q ((e : Int) - 127 - d - (mb - 1))) flNX
  | _ => flOF ||| flSS ||| flNX

/-- The flags of a source that is packed into a sheaf with a NaN (02 R47): every m is 0 and every element decodes to NaN
(02 R46), so that each row of the table is read as it stands. -/
def shNanFlags : FVal → Flags
  | .fin _ m _ => flagIf (m ≠ 0) flUF ||| flNX
  | .inf _ => flOF ||| flSS ||| flNX
  | v => flagIf (fIsSig v) flNV

/-- A packed sheaf as one bit string (02 R43) with the flags of the packing (02 R46, R47). -/
def shPack (ty : Ty) (xs : List FVal) : Nat × Flags :=
  let mb := shMb ty
  if xs.any fIsNaN then (255, xs.foldl (fun a x => a ||| shNanFlags x) (0 : Flags))
  else
    let e := shExp mb xs
    let d := fun b => shDown mb e ((xs.drop (8 * b)).take 8)
    let ds := d 0 + 4 * d 1 + 16 * d 2 + 64 * d 3
    let els := (xs.zipIdx).map (fun p => (((if fNeg? p.1 then 2 ^ mb else 0) + shMag mb e (d (p.2 / 8)) p.1), p.2))
    let body := els.foldl (fun a p => a + p.1 * 2 ^ (16 + p.2 * (mb + 1))) 0
    let fl := (xs.zipIdx).foldl (fun a p => a ||| shElemFlags mb e (d (p.2 / 8)) p.1) (0 : Flags)
    (e + 256 * ds + body, fl)

/-- Element i of a sheaf (02 R45). -/
def shElem (ty : Ty) (w i : Nat) : FVal :=
  let mb := shMb ty
  let e := w % 256
  if e = 255 then .nan false
  else
    let d := w / 2 ^ (8 + 2 * (i / 8)) % 4
    let el := w / 2 ^ (16 + i * (mb + 1)) % 2 ^ (mb + 1)
    .fin (el.testBit mb) (el % 2 ^ mb) ((e : Int) - 127 - d - (mb - 1))

/-- The 32 values of a sheaf. -/
def shUnpack (ty : Ty) (w : Nat) : List FVal := (List.range 32).map (shElem ty w)

end Sys2Proof.Machine
end

