-- ==== Sys2Proof/Machine/CopyPlan.lean ====
section
/-! DEFINITION. Copy descriptors, storage formats and conversions (09 R223 to R228, R235), and what a copy reads and writes. -/

namespace Sys2Proof.Machine

/-- A copy descriptor (09 R223); rows counts the rows of the destination (09 R235). -/
structure CDesc where
  src    : Nat
  dst    : Nat
  cols   : Nat
  rows   : Nat
  dpitch : Nat
  spitch : Nat
  dstos  : Bool
  tclog  : Nat
  trlog  : Nat
  dfmt   : Nat
  sfmt   : Nat
  dty    : Ty
  sty    : Ty
  ymask  : Nat
  xmask  : Nat
  ibase  : Nat
  itype  : Nat
  nidx   : Nat
  deriving DecidableEq, Repr

/-- The fields of a descriptor (09 R223). -/
def readDesc (w : List W64) (gather : Bool) : CDesc :=
  let g := fun i => (w.getD i 0).toNat
  { src := bits (g 0) 0 57, dst := bits (g 1) 0 57, cols := bits (g 2) 32 32, rows := if gather then bits (g 7) 0 32 else bits (g 2) 0 32,
    dpitch := bits (g 3) 32 32, spitch := bits (g 3) 0 32, dstos := (g 4).testBit 24, tclog := bits (g 4) 20 4,
    trlog := bits (g 4) 16 4, dfmt := bits (g 4) 12 4, sfmt := bits (g 4) 8 4, dty := Ty.ofCode (bits (g 4) 4 4),
    sty := Ty.ofCode (bits (g 4) 0 4), ymask := bits (g 5) 16 12, xmask := bits (g 5) 0 12, ibase := bits (g 6) 0 57,
    itype := bits (g 7) 32 2, nidx := bits (g 7) 0 32 }

/-- Whether a type is a sheaf type. -/
def isSheaf (ty : Ty) : Bool := tySheaf.contains ty
/-- The size of an element in half bytes: s4 has one (02 R29). -/
def elNib (ty : Ty) : Nat := if ty = .s4 then 1 else ty.bits / 4
/-- The bytes of n consecutive elements. -/
def elBytes (ty : Ty) (n : Nat) : Nat := (n * elNib ty + 1) / 2
/-- The count and the bitmap at the head of a ZCMP row record, in bytes (09 R226). -/
def zcmpHead (cols : Nat) : Nat := 4 + 4 * ceilDiv (ceilDiv cols 8) 4

/-- The most bytes of a ZCMP row record (09 R226). -/
def zcmpMax (ty : Ty) (cols : Nat) : Nat := zcmpHead cols + 4 * ceilDiv (elBytes ty cols) 4
/-- The bytes of one row of operands (10 R247). -/
def rowBytes (ty : Ty) (k : Nat) : Nat := if isSheaf ty then ceilDiv k 32 * shBytes ty else elBytes ty k

/-- Whether a format's constraint fails (09 R224 to R226). -/
def fmtBad (d : CDesc) (fmt : Nat) (ty : Ty) (pitch : Nat) (isDst : Bool) : Bool :=
  match fmt with
  | 0 => isSheaf ty || (decide (ty = .s4) && decide (d.cols % 2 ≠ 0))
  | 1 => isSheaf ty || decide (ty = .s4)
  | 2 => isSheaf ty || decide (d.rows % 2 ^ d.trlog ≠ 0) || decide (d.cols % 2 ^ d.tclog ≠ 0)
  | 3 => isSheaf ty || decide (d.cols * elNib ty % 256 ≠ 0) || decide (pitch % 128 ≠ 0)
  | 4 => isSheaf ty || (isDst && decide (pitch < zcmpMax ty d.cols))
  | 5 => !isSheaf ty || decide (d.cols % 16 ≠ 0)
  | 6 => !isSheaf ty || decide (d.rows % 16 ≠ 0)
  | 7 => !isDst
  | _ => true

/-- Whether a copy converts between two types (09 R227). -/
def convertible (a b : Ty) : Bool :=
  decide (a = b) || (([Ty.f32, Ty.f16, Ty.bf16] : List Ty).contains a && isSheaf b) ||
    (isSheaf a && ([Ty.f32, Ty.f16, Ty.bf16] : List Ty).contains b)

/-- Whether a descriptor is malformed (09 R228); the copy's kind is 0 CPY, 1 CPYM, 2 CPYG. -/
def descMalformed (w : List W64) (kind : Nat) (addsDst : Bool) : Bool :=
  let g := fun i => (w.getD i 0).toNat
  let d := readDesc w (decide (kind = 2))
  let rows := bits (g 2) 0 32
  let one := fun n => decide (1 ≤ n) && decide (n ≤ 65536)
  decide (g 0 / 2 ^ 57 ≠ 0) || decide (g 1 / 2 ^ 57 ≠ 0) || decide (g 4 / 2 ^ 25 ≠ 0) || decide (g 5 / 2 ^ 28 ≠ 0) ||
    decide (bits (g 5) 12 4 ≠ 0) || decide (g 6 / 2 ^ 57 ≠ 0) || decide (g 7 / 2 ^ 34 ≠ 0) || !one d.cols ||
    (if kind = 2 then decide (rows ≠ 0) || !one d.nidx || decide (d.itype = 0) || !([0, 5].contains d.sfmt)
      else !one rows || decide (g 6 ≠ 0) || decide (g 7 ≠ 0)) ||
    (decide (kind ≠ 1) && decide (g 5 ≠ 0)) || decide (6 < d.tclog) || decide (6 < d.trlog) || decide (7 < d.dfmt) ||
    decide (2 ^ 28 < rows * d.cols) || (decide (d.dfmt = 7) && decide (d.dpitch ≠ 0)) ||
    (d.dstos && (decide (d.dfmt ≠ 7) || addsDst || decide (4 ≤ d.dst))) || !convertible d.sty d.dty ||
    fmtBad d d.sfmt d.sty d.spitch false || fmtBad d d.dfmt d.dty d.dpitch true

/-! ### Where elements lie -/

/-- The ranges of addresses that a format's data takes from a base (09 R224, R225). -/
def segsOf (d : CDesc) (fmt : Nat) (ty : Ty) (base pitch : Nat) : List (Nat × Nat) :=
  match fmt with
  | 1 => (List.range d.cols).map (fun j => (base + j * pitch, elBytes ty d.rows))
  | 2 => (List.range (d.rows / 2 ^ d.trlog)).map (fun a => (base + a * pitch, elBytes ty (d.cols * 2 ^ d.trlog)))
  | 4 => (List.range d.rows).map (fun i => (base + i * pitch, zcmpMax ty d.cols))
  | 5 => (List.range d.rows).map (fun i => (base + i * pitch, ceilDiv d.cols 32 * shBytes ty))
  | 6 => (List.range (ceilDiv d.rows 32)).map (fun r => (base + r * pitch, d.cols * shBytes ty))
  | 7 => [(base, if isSheaf ty then ceilDiv d.cols 32 * d.rows * shBytes ty else ceilDiv d.cols 8 * d.rows * elBytes ty 8)]
  | _ => (List.range d.rows).map (fun i => (base + i * pitch, elBytes ty d.cols))

/-- The lowest address of some ranges and the one after the highest. -/
def spanOf (segs : List (Nat × Nat)) : Nat × Nat :=
  (((segs.map Prod.fst).min?).getD 0, ((segs.map (fun x => x.1 + x.2)).max?).getD 0)

/-- The place of element (i, j) in half bytes from the base, in the formats that place elements one by one (09 R224). -/
def nibPos (d : CDesc) (fmt : Nat) (ty : Ty) (pitch i j : Nat) : Nat :=
  let e := elNib ty
  match fmt with
  | 1 => 2 * (j * pitch) + i * e
  | 2 =>
    let tr := 2 ^ d.trlog
    let tc := 2 ^ d.tclog
    2 * (i / tr * pitch) + j / tc * (tr * tc * e) + (i % tr * tc + j % tc) * e
  | 3 =>
    let o := j * e
    2 * (i * pitch) + 2 * (((o / 32) ^^^ (i % 8)) * 16) + o % 32
  | _ => 2 * (i * pitch) + j * e

/-- Elements packed from the first up: s4 two to a byte, the first in the low half (02 R29). -/
def packEls (ty : Ty) : List Nat → List Byte
  | [] => []
  | [a] => natLE (elBytes ty 1) a
  | a :: b :: rest => if ty = .s4 then BitVec.ofNat 8 (a % 16 + 16 * (b % 16)) :: packEls ty rest
      else natLE (ty.bits / 8) a ++ (natLE (ty.bits / 8) b ++ packEls ty rest)

/-- The element at a place of bytes. -/
def takeEl (ty : Ty) (bs : List Byte) (nib : Nat) : Nat :=
  if ty = .s4 then leNat ((bs.drop (nib / 2)).take 1) / 16 ^ (nib % 2) % 16 else leNat ((bs.drop (nib / 2)).take (ty.bits / 8))

/-! ### Reading the source -/

/-- The bytes of a team's scratchpad, or scratch-range. -/
def padRange (t : Team) (va off n : Nat) : Except CErr (List Byte) :=
  if t.size < off + n then .error (.fault 0x0A 0 va 0) else .ok (memBytes t.scratch off n)

/-- Bytes of one page, or of a scratchpad, as an engine reads them (09 R232, R244), by the translation of its cluster (15 R365). -/
def readPiece (s : State) (w : Who) (va n : Nat) : Except CErr (List Byte) :=
  match targetOf va with
  | .own off => match teamOf s w.team with
    | some t => padRange t va off n
    | none => .error (.fault 0x0A 0 va 0)
  | .peer idx off => match peerTeam s w.team idx with
    | some t => padRange t va off n
    | none => .error (.fault 9 0 va 0)
  | .xlat => match (translate s w.cluster none w.ctx va .rd).2 with
    | .error t => .error (.fault t.cause t.sub va t.addr2)
    | .ok ph => placeBytes s w.id w.cluster ph va n
  | _ => .error (.fault 8 0 va 0)

/-- Bytes of any range, page by page; the fuel counts pages. -/
def readGo (s : State) (w : Who) : Nat → Nat → Nat → Except CErr (List Byte)
  | 0, _, _ => .ok []
  | f + 1, va, n =>
    let room := 65536 - va % 65536
    if n ≤ room then readPiece s w va n
    else do
      let a ← readPiece s w va room
      let b ← readGo s w f (va + room) (n - room)
      return a ++ b

/-- Bytes that an engine reads from an address up; addresses wrap at 2^57. -/
def readBytes (s : State) (w : Who) (va n : Nat) : Except CErr (List Byte) := readGo s w (n / 65536 + 2) (va % 2 ^ 57) n

/-- The value of raw bits in a floating-point type. -/
def valOf (ty : Ty) (v : Nat) : FVal := fDecode (fmtOf ty) v

/-- A value exact in f32 as its bits (02 R45). -/
def f32Bits (v : FVal) : Nat := (fPut fmtF32 ⟨.rne, false, false⟩ v).1

/-- The type in which the elements of a source are held once read: sheaf elements as f32 (02 R45). -/
def heldTy (ty : Ty) : Ty := if isSheaf ty then .f32 else ty

/-- A row of the source: its elements, and its whole sheaves where the format keeps them in rows. -/
structure SrcRow where
  els : List Nat
  shs : List Nat
  deriving DecidableEq, Repr

/-- The bitmap of a ZCMP row record from its head (09 R226): the count must be that of the bitmap's bits for the COLS elements. Whether the
bits beyond them in its last byte count, the spec does not say: they do not (assumption 85). -/
def zcmpMap (cols va : Nat) (bs : List Byte) : Except CErr (List Bool) :=
  let bm := (List.range cols).map (fun j => (leNat ((bs.drop (4 + j / 8)).take 1)).testBit (j % 8))
  if leNat (bs.take 4) ≠ bm.count true then .error (.fault 0x47 0 va 0) else .ok bm

/-- The row of a ZCMP record from its bitmap and its elements (09 R226, 02 R48). -/
def zcmpRow (ty : Ty) (bm : List Bool) (body : List Byte) : SrcRow :=
  ⟨(List.range bm.length).map (fun j => if bm.getD j false then takeEl ty body ((bm.take j).count true * elNib ty) else 0), []⟩

/-- Row i of a source whose rows begin at their own address va: the formats ROW, SWZ, ZCMP and SHROW; and of COL, TILED and
SHCOL from the base of the whole. -/
def srcRow (s : State) (w : Who) (d : CDesc) (base va i : Nat) : Except CErr SrcRow :=
  match d.sfmt with
  | 4 => do
    let bm ← zcmpMap d.cols va (← readBytes s w va (zcmpHead d.cols))
    return zcmpRow d.sty bm (← readBytes s w (va + zcmpHead d.cols) (elBytes d.sty (bm.count true)))
  | 5 => do
    let n := shBytes d.sty
    let bs ← readBytes s w va (ceilDiv d.cols 32 * n)
    let shs := (List.range (ceilDiv d.cols 32)).map (fun k => leNat ((bs.drop (k * n)).take n))
    return ⟨(List.range d.cols).map (fun j => f32Bits (shElem d.sty (shs.getD (j / 32) 0) (j % 32))), shs⟩
  | 6 => do
    let n := shBytes d.sty
    let bs ← readBytes s w (base + i / 32 * d.spitch) (d.cols * n)
    let shs := (List.range d.cols).map (fun j => leNat ((bs.drop (j * n)).take n))
    return ⟨shs.map (fun sh => f32Bits (shElem d.sty sh (i % 32))), shs⟩
  | 0 => do
    let bs ← readBytes s w va (elBytes d.sty d.cols)
    return ⟨(List.range d.cols).map (fun j => takeEl d.sty bs (j * elNib d.sty)), []⟩
  | f => do
    let els ← (List.range d.cols).mapM (fun j => do
      let p := nibPos d f d.sty d.spitch i j
      return takeEl d.sty (← readBytes s w (base + p / 2) (elBytes d.sty 1)) (p % 2))
    return ⟨els, []⟩

/-- The rows read, and the first that fails with why (09 R244). -/
def rowsGo (f : Nat → Except CErr SrcRow) : Nat → Nat → List SrcRow → List SrcRow × Option (Nat × CErr)
  | 0, _, acc => (acc, none)
  | n + 1, i, acc =>
    match f i with
    | .error e => (acc, some (i, e))
    | .ok r => rowsGo f n (i + 1) (acc ++ [r])

/-! ### Forming the destination -/

/-- An element converted to the destination's type with its flags (09 R227); a sheaf destination is packed afterwards. -/
def convEl (d : CDesc) (v : Nat) : Nat × Flags :=
  let st := heldTy d.sty
  if isSheaf d.dty || decide (st = d.dty) then (v, 0)
  else if isSheaf d.sty then fPut (fmtOf d.dty) ⟨.rne, false, false⟩ (valOf st v)
  else (v, 0)

/-- Up to 32 elements packed into a sheaf, padded with +0 (09 R227, 02 R46). -/
def packSheaf (d : CDesc) (els : List Nat) : Nat × Flags :=
  shPack d.dty ((els.map (valOf (heldTy d.sty))) ++ List.replicate (32 - els.length) (.fin false 0 0))

/-- What a copy writes at one offset of its destination: bytes, with the source row on which they depend last. -/
structure Piece where
  row : Nat
  off : Nat
  bs  : List Byte
  fl  : Flags
  deriving DecidableEq, Repr

/-- Whether an element is zero for the zero detector (02 R48). -/
def isZeroEl (ty : Ty) (v : Nat) : Bool := if tyFlt.contains ty then decide (v % 2 ^ (ty.bits - 1) = 0) else decide (v = 0)

/-- The record of a ZCMP row (09 R226). -/
def zcmpBytes (ty : Ty) (els : List Nat) : List Byte :=
  let pad := fun (bs : List Byte) => bs ++ List.replicate ((4 - bs.length % 4) % 4) 0
  let nz := els.filter (fun v => !isZeroEl ty v)
  let bm := (List.range (ceilDiv els.length 8)).map (fun b => BitVec.ofNat 8 (((List.range 8).map (fun i =>
    match els[8 * b + i]? with
    | some v => if isZeroEl ty v then 0 else 2 ^ i
    | none => 0)).foldl (· + ·) 0))
  natLE 4 nz.length ++ pad bm ++ pad (packEls ty nz)

/-- The pieces of an s4 destination that places its elements one by one: its half bytes joined. -/
def nibPieces (xs : List (Nat × Nat × Nat)) : List Piece :=
  ((xs.map (fun x => x.2.1 / 2)).eraseDups).map (fun b =>
    let mine := xs.filter (fun x => decide (x.2.1 / 2 = b))
    ⟨((mine.map (fun x => x.1)).max?).getD 0, b, [BitVec.ofNat 8 ((mine.map (fun x => x.2.2 % 16 * 16 ^ (x.2.1 % 2))).foldl (· + ·) 0)], 0⟩)

/-- The pieces of the destination from rows of the source, the canonical layout in ascending offset (09 R224, R225). -/
def pieces (d : CDesc) (rows : List SrcRow) : List Piece :=
  let n := rows.length
  let row := fun i => rows.getD i ⟨[], []⟩
  let conv := fun i => ((row i).els.map (fun v => (convEl d v).1), (row i).els.foldl (fun fl v => fl ||| (convEl d v).2) 0)
  let same := decide (d.sty = d.dty) && isSheaf d.sty
  let sb := shBytes d.dty
  let rowSheaf := fun i k => if same && decide (d.sfmt = 5) then ((row i).shs.getD k 0, (0 : Flags))
    else packSheaf d (((row i).els.drop (32 * k)).take 32)
  match d.dfmt with
  | 4 => (List.range n).map (fun i => ⟨i, i * d.dpitch, zcmpBytes d.dty (conv i).1, (conv i).2⟩)
  | 5 => (List.range n).flatMap (fun i => (List.range (ceilDiv d.cols 32)).map (fun k =>
      let (w, fl) := rowSheaf i k
      ⟨i, i * d.dpitch + k * sb, natLE sb w, fl⟩))
  | 6 => (List.range (ceilDiv n 32)).flatMap (fun r => (List.range d.cols).map (fun j =>
      let is := (List.range 32).filterMap (fun k => if 32 * r + k < n then some (32 * r + k) else none)
      let (w, fl) := if same && decide (d.sfmt = 6) then ((row (32 * r)).shs.getD j 0, (0 : Flags))
        else packSheaf d (is.map (fun i => (row i).els.getD j 0))
      ⟨min (32 * r + 31) (d.rows - 1), r * d.dpitch + j * sb, natLE sb w, fl⟩))
  | 7 =>
    if isSheaf d.dty then
      (List.range (ceilDiv d.cols 32)).flatMap (fun k => (List.range n).map (fun i =>
        let (w, fl) := rowSheaf i k
        ⟨i, (k * d.rows + i) * sb, natLE sb w, fl⟩))
    else
      let cb := elBytes d.dty 8
      (List.range (ceilDiv d.cols 8)).flatMap (fun k => (List.range n).map (fun i =>
        let els := (conv i).1
        ⟨i, (k * d.rows + i) * cb, packEls d.dty ((List.range 8).map (fun j => els.getD (8 * k + j) 0)), if k = 0 then (conv i).2 else 0⟩))
  | f =>
    if d.dty = .s4 then
      (nibPieces ((List.range d.rows).flatMap (fun i => (List.range d.cols).map (fun j =>
        (i, nibPos d f d.dty d.dpitch i j, (row i).els.getD j 0))))).filter (fun p => decide (p.row < n))
    else (List.range n).flatMap (fun i =>
      let (els, fl) := conv i
      (List.range d.cols).map (fun j =>
        ⟨i, nibPos d f d.dty d.dpitch i j / 2, natLE (d.dty.bits / 8) (els.getD j 0), if j = 0 then fl else 0⟩))

/-! ### What a pass takes from streams -/

/-- The stream and the size of the A operand of a pass: rows, type, depth (10 R247, 11 R283). -/
def CmdK.aUse : CmdK → Option (Nat × Nat × Ty × Nat)
  | .mma _ sa _ ty k m _ _ _ _ => some (sa, m, ty, k)
  | .desc _ _ sa _ m _ t => some (sa, m, t.ty, t.k)
  | .dstep _ sa _ m _ t => some (sa, m, t.ty, t.k)
  | .ascend _ sa _ m _ _ t => some (sa, m, t.ty, t.k)
  | _ => none

/-- The stream and the bytes of the B operand of a pass that reads one (10 R247). -/
def CmdK.bUse : CmdK → Option (Nat × Nat)
  | .mma _ _ sb ty k _ _ keep _ _ => if keep then none else some (sb, 16 * rowBytes ty k)
  | _ => none

/-- The bytes of one row that the harness gives a pass: whole words (10 R252). -/
def rowWords (ty : Ty) (k : Nat) : Nat := 4 * ceilDiv (rowBytes ty k) 4

/-- Whether a command has taken all of A. -/
def aFull (c : ECmd) : Bool :=
  match c.kind.aUse with
  | none => true
  | some (_, m, ty, k) =>
    if c.a.length = m ∧ m ≠ 1 then c.a.all (fun r => decide (r.length = rowWords ty k))
    else decide ((c.a.getD 0 []).length = m * rowBytes ty k) || decide (m = 1 ∧ (c.a.getD 0 []).length = rowWords ty k)

/-- Whether a command has taken all of B. -/
def bFull (c : ECmd) : Bool :=
  match c.kind.bUse with
  | none => true
  | some (_, n) => decide (c.b.length = n)

/-- The engine with a command replaced. -/
def putCmd (e : Engine) (c : ECmd) : Engine := { e with cmds := e.cmds.map (fun x => if x.key = c.key then c else x) }

/-- Whether a command still takes data from a stream. -/
def wantsFrom (c : ECmd) (n : Nat) : Bool :=
  (decide (c.kind.bUse.map (fun x => x.1) = some n) && !bFull c) || (decide (c.kind.aUse.map (fun x => x.1) = some n) && !aFull c)

end Sys2Proof.Machine
end

