-- ==== Sys2Proof/Machine/Copy.lean ====
section
/-! DEFINITION. Copies and their tags (09 R229 to R239, R244, R245), and the copy plan (05 R104). -/

namespace Sys2Proof.Machine

/-! ### Issue -/

/-- Who issues a copy: a group, or the plan of a team. -/
structure Issuer where
  gid     : Nat
  ctx     : Nat
  launch  : Option Nat
  team    : Nat
  cluster : Nat
  core    : Nat
  deriving DecidableEq, Repr

/-- The issuer of a group's copy. -/
def issuerOf (g : Group) : Issuer := ⟨g.id, g.ctx, g.launch, g.team, g.cluster, g.core⟩

/-- The tags of a team (05 R101). -/
def teamTags (s : State) (team : Nat) : Nat :=
  (((teamOf s team).bind (fun t => t.launch.bind (launchOf s))).map (fun (l : Launch) => l.recd.tags)).getD 0

/-- The destination segments of a copy in address space; none for an operand stream. -/
def dstSegs (d : CDesc) (dst : Nat) : List (Nat × Nat) := if d.dstos then [] else segsOf d d.dfmt d.dty dst d.dpitch

/-- The span that a copy's source takes for the overlap check: of CPYG, its index list (09 R230). -/
def srcSpan (d : CDesc) (kind src : Nat) : Nat × Nat :=
  if kind = 2 then (d.ibase, d.ibase + d.nidx * 2 ^ d.itype) else spanOf (segsOf d d.sfmt d.sty src d.spitch)

/-- The clusters that CPYM selects (09 R234). -/
def selected (d : CDesc) : List Nat := (List.range 144).filter (fun c => d.xmask.testBit (c % 12) && d.ymask.testBit (c / 12))

/-- Whether a context's partition holds a cluster (04 R80). -/
def inPart (s : State) (ctx c : Nat) : Bool := ((ctxRec s ctx).map (fun (r : CRec) => r.part.getD c false)).getD false

/-- Item 4 of 09 R230, with the destination of CPYM in the own scratchpad (09 R234). -/
def copyBases (s : State) (who : Issuer) (d : CDesc) (kind src dst : Nat) : Option TrapInfo :=
  let bad := fun (va : Nat) => some { trapC 8 0 with addr := BitVec.ofNat 64 va }
  let srcBad := match targetOf src with
    | .reg _ _ => true
    | .bad => true
    | _ => false
  if srcBad then bad src
  else if d.dstos then (if kind = 1 then bad dst else none)
  else match targetOf dst with
    | .reg _ _ => bad dst
    | .bad => bad dst
    | .own off =>
      if dst % 4 ≠ 0 then bad dst
      else if ((teamOf s who.team).map (fun (t : Team) => t.size)).getD 0 < off + ((spanOf (dstSegs d dst)).2 - dst) then
        some { trapC 0x0A 0 with addr := BitVec.ofNat 64 dst }
      else none
    | .peer _ _ => if dst % 4 ≠ 0 ∨ kind = 1 then bad dst else none
    | .xlat => if kind = 1 then bad dst else none

/-- Items 5 to 7 of 09 R230. -/
def copyLast (s : State) (who : Issuer) (d : CDesc) (kind src dst : Nat) : Option TrapInfo :=
  let st := streamOf (engOf s who.cluster) (d.dst % 4)
  let a := srcSpan d kind src
  let b := spanOf (dstSegs d dst)
  if d.dstos && (decide (st.bind ≠ 1) || !st.span.contains who.team) then some (trapC 0x12 0)
  else if !d.dstos && decide (a.1 < b.2) && decide (b.1 < a.2) then some (trapC 0x13 0)
  else if kind = 1 ∧ (selected d).any (fun c => !inPart s who.ctx c) then some (trapC 0x14 0)
  else none

/-- The teams that receive a copy (09 R233, R234). -/
def copyRecvs (s : State) (who : Issuer) (d : CDesc) (kind dst : Nat) : List Nat :=
  if kind = 1 then
    (s.teams.filter (fun t => decide (t.launch = who.launch) && t.launch.isSome && (decide (t.st = .resident) || decide (t.st = .saved)) &&
      (selected d).contains (t.core / 4))).map (fun t => t.id)
  else match targetOf dst with
    | .peer idx _ => if d.dstos then [who.team] else match spanTeam s who.team idx with
        | some t => if t.st = .resident ∨ t.st = .saved then [t.id] else [who.team]
        | none => [who.team]
    | _ => [who.team]

/-- Who reads the descriptor of a copy. -/
def Issuer.who (x : Issuer) : Who := ⟨if x.gid = 0 then x.team else x.gid, x.ctx, x.cluster, x.team⟩

/-- The words of a copy's descriptor kept for a group whose stores have still to leave (09 R230): this device's own place, 0 as a leaf names
it (15 R362). -/
def keepDesc (s : State) (id va : Nat) (w : List W64) : State := { dropGot s id with rgot := (dropGot s id).rgot ++ [⟨id, 0, va, wordsLE w, 0⟩] }

/-- The descriptor of a copy (09 R228, R230): as it was read before its group began to wait, else as it is now. Whether it is read past
the stores that the group has not sent yet is a free choice each time, so that an old field may be seen without a FENCE (24 R472;
assumption 90). -/
def readCopyDesc (s : State) (who : Issuer) (va : Nat) : State × Except (Option TrapInfo) (List Byte) :=
  match s.rgot.find? (fun x => decide (x.id = who.who.id) && decide (x.dev = 0) && decide (x.line = va)) with
  | some x => (dropGot s who.who.id, .ok x.data)
  | none =>
    let own := ((groupOf s who.gid).map ownReqs).getD []
    recRead (if own = [] then s else { s with freeCtr := s.freeCtr + 1 }) who.who who.launch who.core own va 64 (Config.freeChoice s.freeCtr)

/-- The checks of a copy at issue (09 R230): its descriptor's words with the two bases, or the fault; none where the descriptor
has still to come. -/
def checkCopy (s : State) (who : Issuer) (kind tag va : Nat) (aS aT : Option W64) :
    State × Except (Option TrapInfo) (List W64 × Nat × Nat) :=
  let at_ := fun (sub : Nat) => { trapC 0x11 sub with addr := BitVec.ofNat 64 va }
  if teamTags s who.team ≤ tag then (s, .error (some (trapC 0x10 0)))
  else if va % 64 ≠ 0 then (s, .error (some (at_ 0)))
  else match readCopyDesc s who va with
    | (s, .error e) => (s, .error (e.map (readFault (at_ 0))))
    | (s, .ok bs) =>
      let w := wordsAt bs 0 8
      let d := readDesc w (decide (kind = 2))
      if descMalformed w kind aT.isSome then (s, .error (some (at_ 1)))
      else
        let src := (d.src + (aS.getD 0).toNat) % 2 ^ 57
        let dst := if d.dstos then d.dst else (d.dst + (aT.getD 0).toNat) % 2 ^ 57
        match (copyBases s who d kind src dst).or (copyLast s who d kind src dst) with
        | some t => (s, .error (some t))
        | none => (s, .ok (w, src, dst))

/-- The lines of this device that an engine of a cluster will write (09 R232), as their pages are mapped now. Whether it owns lines of
another device too the spec does not say: it owns none there, and what it writes there goes line by line (assumption 86). -/
def ownedLines (s : State) (cluster ctx : Nat) (segs : List (Nat × Nat)) : List Nat :=
  (segs.flatMap (fun x => (List.range (ceilDiv (x.1 % 512 + x.2) 512)).filterMap (fun i =>
    let va := max x.1 ((x.1 / 512 + i) * 512)
    match targetOf va with
    | .xlat => match (translate s cluster none ctx va .wr).2 with
      | .ok ph => if ph.dev.isNone then some (ph.pa / 512) else none
      | .error _ => none
    | _ => none))).eraseDups

/-- A copy that has passed its checks and has not taken its tag. -/
def mkCopy (id : Nat) (who : Issuer) (kind tag ctr : Nat) (bar : Option Nat) (w : List W64) (src dst : Nat) : Copy :=
  { id := id, kind := kind, ctx := who.ctx, launch := who.launch, team := who.team, gid := who.gid, cluster := who.cluster,
    core := who.core, tag := tag, ctr := ctr, bar := bar, desc := w, src := src, dst := dst, queued := false, started := false,
    recvs := [], served := [], owned := [], moved := 0, failed := none, flags := 0, leaveWait := false }

/-- A copy by its identity. -/
def copyOf (s : State) (id : Nat) : Option Copy := s.copies.find? (fun c => decide (c.id = id))
/-- The state with a copy changed. -/
def onCopy (s : State) (id : Nat) (f : Copy → Copy) : State :=
  { s with copies := s.copies.map (fun c => if c.id = id then f c else c) }
/-- The descriptor of a copy. -/
def Copy.cd (c : Copy) : CDesc := readDesc c.desc (decide (c.kind = 2))

/-- Whether a tag of a team has a copy outstanding (09 R231). -/
def tagBusy (s : State) (team tag : Nat) : Bool := s.copies.any (fun c => c.queued && decide (c.team = team) && decide (c.tag = tag))

/-- Whether the copy engine of a cluster can queue one more copy (09 R230). -/
def copyRoom (s : State) (cluster : Nat) : Bool :=
  decide ((s.copies.filter (fun c => c.queued && !c.started && decide (c.cluster = cluster))).length < 64)

/-- Whether a copy comes behind one that was issued before it into the same stream and has not taken its tag, so that it must not pass
it (10 R250); one whose group has been saved will be issued again. -/
def copyBehind (s : State) (c : Copy) : Bool :=
  c.cd.dstos && s.copies.any (fun x => !x.queued && decide (x.id < c.id) && decide (x.cluster = c.cluster) && x.cd.dstos &&
    decide (x.cd.dst % 4 = c.cd.dst % 4) && ((groupOf s x.gid).map awake).getD false)

/-- Whether a copy may take its tag now. -/
def mayTake (s : State) (c : Copy) : Bool := !tagBusy s c.team c.tag && copyRoom s c.cluster && !copyBehind s c

/-- The conversion flags kept with tags of a mask for a group, ORed into its FLAGS (09 R227). -/
def orConv (s : State) (team gid : Nat) (mask : W64) : State :=
  match teamOf s team with
  | none => s
  | some t =>
    let hit := fun (x : Nat × Nat × Flags) => decide (x.2.1 = gid) && mask.getLsbD x.1
    let fl := (t.conv.filter hit).foldl (fun a x => a ||| x.2.2) 0
    onGroup (onTeam s team (fun t => { t with conv := t.conv.filter (fun x => !hit x) })) gid (fun g => { g with flags := g.flags ||| fl })

/-! ### The end of a copy -/

/-- The index of a team that a copy names, also after it has retired (09 R245). -/
def copyIndex (s : State) (c : Copy) (team : Nat) : Nat :=
  match teamOf s team with
  | some t => t.index
  | none => ((c.names.find? (fun x => decide (x.1 = team))).map Prod.snd).getD 0xFFFFFF

/-- The origin of a copy's fault record. -/
def copyOrigin (s : State) (c : Copy) (team : Nat) (addr : Nat) : Origin :=
  { ctx := c.ctx, launch := c.launch, core := c.core, tag := c.tag, team := copyIndex s c team, addr := BitVec.ofNat 64 addr }

/-- A bit set in a word of the save area of a team (04 R93, 16 R386). -/
def setAreaBit (s : State) (t : Team) (off bit : Nat) : State :=
  match getVA s (t.core / 4) t.ctx (t.save.toNat + off) 8 with
  | some (s, bs) => (putVA s (t.core / 4) t.ctx (t.save.toNat + off) (natLE 8 (wAt bs 0 ||| (1 <<< bit)).toNat)).getD s
  | none => s

/-- A tag of a saved team set in its save area (04 R93). -/
def setSavedTag (s : State) (t : Team) (tag : Nat) (bad : Option (Nat × Nat × W64)) : State :=
  let s := setAreaBit s t 0x28 tag
  match bad with
  | some (cause, sub, addr) =>
    let s := setAreaBit s t 0x30 tag
    (putVA s (t.core / 4) t.ctx (t.save.toNat + 0x240 + 16 * tag) (natLE 8 (cause + 256 * sub) ++ natLE 8 addr.toNat)).getD s
  | none => s

/-- The bits that a delivery sets for a team (09 R233, R237): the error bit and the record with a failure; for a saved team
they are set in its saved state too (04 R93). -/
def setTag (s : State) (team tag : Nat) (bad : Option (Nat × Nat × W64)) : State :=
  let bit : W64 := 1 <<< tag
  let s := onTeam s team (fun t => { t with
    tagbits := t.tagbits ||| bit,
    tagerr := if bad.isSome then t.tagerr ||| bit else t.tagerr,
    tagrec := match bad with
      | some (cause, sub, addr) => t.tagrec.filter (fun x => decide (x.1 ≠ tag)) ++ [(tag, cause, sub, addr)]
      | none => t.tagrec })
  match teamOf s team with
  | some t => if t.st = .saved then setSavedTag s t tag bad else s
  | none => s

/-- Whether a team is RESIDENT or SAVED, so that a failure is reported with its tags (09 R245). -/
def takesTags (s : State) (team : Nat) : Bool :=
  match teamOf s team with
  | some t => decide (t.st = .resident) || decide (t.st = .saved) || decide (t.st = .starting)
  | none => false

/-- The failure of a copy reported for a team (09 R245). -/
def reportCopy (s : State) (c : Copy) (team cause sub addr : Nat) : State :=
  if takesTags s team then setTag s team c.tag (some (cause, sub, BitVec.ofNat 64 addr))
  else faultRecord s (copyOrigin s c team addr) true cause sub

/-- The end of a copy for its issuing team (09 R233, R234, R237): its leave unit is released, its tag bit set, with the error
of a failed delivery, and its conversion flags kept; without a failure its counter is decremented. -/
def finishCopy (s : State) (c : Copy) : State :=
  let s := { s with copies := s.copies.filter (fun x => decide (x.id ≠ c.id)), rgot := s.rgot.filter (fun x => decide (x.id ≠ c.id)) }
  let s := leaveDrop s c.cluster (fun l => decide (l = .copy c.id))
  let s := if c.flags = 0 then s else onTeam s c.team (fun t => { t with conv := t.conv ++ [(c.tag, c.gid, c.flags)] })
  match c.failed with
  | some (cause, sub, addr) => reportCopy s c c.team cause sub addr.toNat
  | none => compDec (setTag s c.team c.tag none) c.ctx c.ctr c.launch

/-! ### Tags taken, and the instructions -/

/-- A copy takes its tag (09 R231) and enters the queue of its engine; its receivers are those of this moment, and it owns
its lines from now on (09 R232). A multicast without a receiver completes at once (09 R234), and a copy whose stream was
discarded while it waited for its tag fails at once (10 R251). -/
def takeTag (s : State) (c : Copy) : State :=
  let who : Issuer := ⟨c.gid, c.ctx, c.launch, c.team, c.cluster, c.core⟩
  let bit : W64 := 1 <<< c.tag
  let s := orConv s c.team c.gid bit
  let s := onTeam s c.team (fun t => { t with tagbits := t.tagbits &&& ~~~bit, tagerr := t.tagerr &&& ~~~bit,
                                              tagrec := t.tagrec.filter (fun x => decide (x.1 ≠ c.tag)) })
  let c : Copy := { c with queued := true, recvs := copyRecvs s who c.cd c.kind c.dst, owned := ownedLines s c.cluster c.ctx (dstSegs c.cd c.dst) }
  let c : Copy := { c with names := (c.team :: c.recvs).filterMap (fun t => (teamOf s t).map (fun x => (t, x.index))) }
  let s := { s with copies := s.copies.filter (fun x => decide (x.id ≠ c.id)) ++ [c] }
  if c.failed.isSome ∨ (c.kind = 1 ∧ c.recvs = []) then finishCopy s c else s

/-- Whether stores and atomics of a group have not all been performed at their homes, so that what it issues next to be read or written
there must not pass them (09 R230, 14 R348). -/
def storesOut (s : State) (g : Group) : Bool :=
  decide (g.coal ≠ []) || decide (g.fifo ≠ []) || s.flight.any (fun r => decide (r.gid = g.id) && !oredBlocked s r)

/-- A copy instruction (09 R229 to R231): after its checks the group waits until its stores have been performed (14 R348), with the
descriptor as it was read; it parks where the tag is busy, the queue is full, or a copy issued before it into its stream waits. -/
def copyOp (i : Instr) (h : Hd) (f : CF) (kind : Nat) (s : State) : Host.Outcome State Fault Refusal :=
  wideOp i h (fun g s =>
    let aS := if f.flags.getLsbD 0 then some (g.a.getD f.asrc.toNat 0) else none
    let aT := if f.flags.getLsbD 1 then some (g.a.getD f.adst.toNat 0) else none
    match checkCopy s (issuerOf g) kind f.tag.toNat (va57 (g.s.getD f.sdesc.toNat 0)) aS aT with
    | (s, .error (some t)) => .trap s t
    | (s, .error none) => .hold s
    | (s, .ok (w, src, dst)) =>
      if storesOut s g then .hold (keepDesc s g.id (va57 (g.s.getD f.sdesc.toNat 0)) w)
      else
        let (id, s) := takeId s
        let bar := if f.flags.getLsbD 2 then some (f.fl 3 4) else none
        let c := mkCopy id (issuerOf g) kind f.tag.toNat f.depctr.toNat bar w src dst
        if mayTake s c then .done (takeTag s c)
        else .done (setGroup { s with copies := s.copies ++ [c] } (parkGroup s g (.copy id)))) s

/-- CPY (09 R229). -/
def execCpy (h : Hd) (f : CF) (s : State) : Host.Outcome State Fault Refusal := copyOp (.cpy h f) h f 0 s
/-- CPYM (09 R234). -/
def execCpym (h : Hd) (f : CF) (s : State) : Host.Outcome State Fault Refusal := copyOp (.cpym h f) h f 1 s
/-- CPYG (09 R235). -/
def execCpyg (h : Hd) (f : CF) (s : State) : Host.Outcome State Fault Refusal := copyOp (.cpyg h f) h f 2 s

/-- STAGE (09 R236). -/
def execStage (h : Hd) (f : CF) (s : State) : Host.Outcome State Fault Refusal :=
  wideOp (.stage h f) h (fun g s =>
    .done (onTeam s g.team (fun t => { t with stage := max t.stage ((g.s.getD f.sdesc.toNat 0).toNat % 2 ^ 16) }))) s
/-- STAGE.inc (09 R236). -/
def execStageInc (h : Hd) (f : CF) (s : State) : Host.Outcome State Fault Refusal :=
  wideOp (.stageInc h f) h (fun g s => .done (onTeam s g.team (fun t => { t with stage := min (t.stage + 1) 65535 }))) s

/-! ### The engine -/

/-- Who reads for a copy. -/
def Copy.who (c : Copy) : Who := ⟨c.id, c.ctx, c.cluster, c.team⟩

/-- The address of a row that CPYG gathers, once its index is read (09 R235). -/
def gatherRow (s : State) (c : Copy) (i : Nat) : Except CErr Nat := do
  let d := c.cd
  let n := 2 ^ d.itype
  let raw := leNat (← readBytes s c.who (d.ibase + i * n) n)
  let idx : Int := if d.itype = 3 then sInt 64 raw else raw
  return ((c.src + idx * d.spitch) % 2 ^ 57).toNat

/-- The bytes of a row that CPYG gathers. -/
def gatherLen (d : CDesc) : Nat := if d.sfmt = 5 then ceilDiv d.cols 32 * shBytes d.sty else elBytes d.sty d.cols

/-- The rows that a copy reads (09 R235), with the first that fails. -/
def copyRows (s : State) (c : Copy) : List SrcRow × Option (Nat × CErr) :=
  let d := c.cd
  if c.kind = 2 then
    rowsGo (fun i => do
      let va ← gatherRow s c i
      let len := gatherLen d
      let dsp := spanOf (dstSegs d c.dst)
      if !d.dstos && decide (va < dsp.2) && decide (dsp.1 < va + len) then .error (.fault 0x13 0 va 0)
      else srcRow s c.who d c.src va i) d.rows 0 []
  else rowsGo (fun i => srcRow s c.who d c.src (c.src + i * d.spitch) i) d.rows 0 []

/-- A place that one byte of a destination names, as an engine writes it for a receiver (09 R232, R234). -/
inductive CPut where
  | pad (team off : Nat)
  | mem (ph : Phys)
  deriving DecidableEq, Repr

/-- Where a piece of a destination lies for a receiver, or why it cannot be written (09 R234, R244), by the translation of the copy's
cluster as it stands (15 R365). -/
def putPlace (s : State) (c : Copy) (recv va n : Nat) : Except CErr CPut :=
  let pad := fun (t : Team) (off : Nat) => if t.size < off + n then Except.error (CErr.fault 0x0A 0 va 0) else Except.ok (CPut.pad t.id off)
  match targetOf va with
  | .own off => match teamOf s (if c.kind = 1 then recv else c.team) with
    | some t => pad t off
    | none => .error (.fault 9 0 va 0)
  | .peer idx off => match spanTeam s c.team idx with
    | some t => if t.st = .resident ∨ t.st = .saved then pad t off else .error (.fault 9 0 va 0)
    | none => .error (.fault 9 0 va 0)
  | .xlat => match (translate s c.cluster none c.ctx va .wr).2 with
    | .ok ph => .ok (.mem ph)
    | .error t => .error (.fault t.cause t.sub va t.addr2)
  | _ => .error (.fault 8 0 va 0)

/-- Bytes of a piece cut where pages end. -/
def cutPages (va : Nat) (bs : List Byte) : List (Nat × List Byte) :=
  let room := 65536 - va % 65536
  if bs.length ≤ room then [(va, bs)] else [(va, bs.take room), (va + room, bs.drop room)]

/-- The first piece whose place fails, by row. -/
def firstBad (s : State) (c : Copy) (recv : Nat) (ps : List Piece) : Option (Nat × CErr) :=
  (ps.filterMap (fun p => (cutPages ((c.dst + p.off) % 2 ^ 57) p.bs).findSome? (fun x => match putPlace s c recv x.1 x.2.length with
    | .ok _ => none
    | .error e => some (p.row, e)))).foldl (fun m e => match m with
      | none => some e
      | some b => if e.1 < b.1 then some e else some b) none

/-- The outcome of a copy for a receiver as its data stands: the pieces, and the first failing row with why (09 R244). -/
def copyPlan (s : State) (c : Copy) (recv : Nat) : List Piece × Option (Nat × CErr) :=
  let d := c.cd
  let (rows, bad) := copyRows s c
  let ps := pieces d rows
  if d.dstos then (ps, bad)
  else match firstBad s c recv ps, bad with
    | none, b => (ps, b)
    | some e, none => (ps, some e)
    | some e, some b => (ps, some (if e.1 ≤ b.1 then e else b))

/-- The state in which an agent of a cluster has translated an address (15 R367): for a read the leaf has its accessed bit, for a write its
dirty bit. -/
def touchPage (s : State) (c : Copy) (acc : Acc) (va : Nat) : State :=
  match targetOf va with
  | .xlat => (translate s c.cluster none c.ctx va acc).1
  | _ => s

/-- One run of bytes written at its place: in a scratchpad, at its home slice with the line leaving the L1s of the issuing
cluster, or over a link, line by line (09 R232, 17 R402). One translation gives the place and sets the dirty bit (15 R365, R367). -/
def putBytes (s : State) (c : Copy) (recv va : Nat) (bs : List Byte) : State :=
  match putPlace s c recv va bs.length with
  | .error _ => s
  | .ok (.pad team off) => onTeam s team (fun t => { t with scratch := memPut t.scratch off bs })
  | .ok (.mem ph) =>
    let s := touchPage s c .wr va
    let cells := (List.range bs.length).map (fun i => (ph.pa + i, bs.getD i 0))
    match ph.dev with
    | none => agentWrite s c.cluster (copyOrigin s c c.team va) (ph.leaf.getLsbD 54) cells
    | some d =>
      sendLines s { agentReq 0 d c.ctx c.launch true (.store []) with
        cluster := c.cluster, core := c.core, team := c.team, copy := some c.id, va := some va, big := ph.big, page := leafPage ph.leaf } cells

/-- The pieces written for a receiver. -/
def putPieces (s : State) (c : Copy) (recv : Nat) (ps : List Piece) : State :=
  ps.foldl (fun s p => (cutPages ((c.dst + p.off) % 2 ^ 57) p.bs).foldl (fun s x => putBytes s c recv x.1 x.2) s) s

/-- The bytes of some pieces that land for a receiver as they are written: those for another device land when their home has
acknowledged them (landRemote). -/
def landNow (s : State) (c : Copy) (recv : Nat) (ps : List Piece) : Nat :=
  ((ps.flatMap (fun p => cutPages ((c.dst + p.off) % 2 ^ 57) p.bs)).map (fun x => match putPlace s c recv x.1 x.2.length with
    | .ok (.mem ph) => if ph.dev.isSome then 0 else x.2.length
    | _ => x.2.length)).foldl (· + ·) 0

/-- A write of a copy that another device has acknowledged: its bytes have landed (09 R233). -/
def landRemote (s : State) (r : Remote) : State :=
  let s := { s with remotes := s.remotes.filter (fun x => decide (x.id ≠ r.id)) }
  match r.ask, r.copy.bind (copyOf s) with
  | .store cells, some c => match c.bar with
    | some b => landBar s c.team b cells.length
    | none => s
  | _, _ => s

/-- The ranges that a copy reads for its first n rows; those of a gather whose indices can be read (09 R235). -/
def srcSegs (s : State) (c : Copy) (n : Nat) : List (Nat × Nat) :=
  let d := c.cd
  let all := segsOf d d.sfmt d.sty c.src d.spitch
  if c.kind = 2 then
    (d.ibase, n * 2 ^ d.itype) :: (List.range n).filterMap (fun i => match gatherRow s c i with
      | .ok va => some (va, gatherLen d)
      | .error _ => none)
  else all.take (match d.sfmt with
    | 1 => all.length
    | 2 => ceilDiv n (2 ^ d.trlog)
    | 6 => ceilDiv n 32
    | _ => n)

/-- The accessed bits of the pages that a copy read for its first n rows (15 R367); each write sets the dirty bit itself. -/
def touchPages (s : State) (c : Copy) (n : Nat) : State :=
  (((srcSegs s c n).flatMap (fun x => pagesOf x.1 x.2)).eraseDups).foldl (fun s va => touchPage s c .rd va) s

/-- The bytes of a copy that fit into its stream now, after those that have landed (10 R250). -/
def streamRoom (s : State) (c : Copy) (bs : List Byte) : List Byte :=
  (bs.drop c.moved).take (16384 - (streamOf (engOf s c.cluster) (c.cd.dst % 4)).data.length)

/-- The receivers that a copy has still to serve. -/
def Copy.left (c : Copy) : List Nat := c.recvs.filter (fun t => !c.served.contains t)

/-- Whether a copy runs and may go on: it is started, has its leave, and no copy issued before it owns one of its lines
(09 R232). -/
def mayRun (s : State) (c : Copy) : Bool :=
  c.started && !c.leaveWait &&
    !(s.copies.takeWhile (fun x => decide (x.id ≠ c.id))).any (fun x => x.queued && x.owned.any (fun l => c.owned.contains l))

/-- Whether a delivery has to do with a team of which a condition holds: the one that sends it from its scratchpad, or the one that
receives it there (09 R234). -/
def recvTeam (s : State) (c : Copy) (recv : Nat) (hold : Team → Bool) : Bool :=
  let pad := fun (va : Nat) => match targetOf va with
    | .own _ => true
    | _ => false
  ((pad c.src || (pad c.dst && !c.cd.dstos)) && ((teamOf s (if c.kind = 1 then recv else c.team)).map hold).getD false) ||
    (match targetOf c.dst with
      | .peer _ _ => !c.cd.dstos && ((teamOf s recv).map hold).getD false
      | _ => false) || (pad c.src && ((teamOf s c.team).map hold).getD false)

/-- Whether a delivery to a team must wait for the team: it is saved, or its core is halted and drained (09 R234, 16 R390). -/
def recvHeld (s : State) (c : Copy) (recv : Nat) : Bool := recvTeam s c recv (fun t => decide (t.st = .saved) || (coreAt s t.core).drained)

/-- Whether a delivery to a team must wait: for the team, or for the end of the frequency switch of its cluster or that of the stream
(18 R414). -/
def recvWaits (s : State) (c : Copy) (recv : Nat) : Bool :=
  recvHeld s c recv || recvTeam s c recv (fun t => switching s (t.core / 4)) || (c.cd.dstos && switching s c.cluster)

/-- The first receiver that a copy can serve now: one that waits holds up no other (09 R234). -/
def nextRecv (s : State) (c : Copy) : Option Nat := c.left.find? (fun t => !recvWaits s c t)

/-- COPY_START (09 R230): the oldest queued copy of the cluster's engine starts, where fewer than 8 run and no other runs into
its stream; a CPYM of more than 1 MiB asks for leave (09 R234). -/
def execCopyStart (cluster : Nat) (s : State) : Host.Outcome State Fault Refusal :=
  match s.copies.find? (fun c => c.queued && !c.started && decide (c.cluster = cluster)) with
  | none => .fault .notEnabled
  | some c =>
    let running := s.copies.filter (fun x => x.started && decide (x.cluster = cluster))
    if 8 ≤ running.length ∨ (c.cd.dstos ∧ running.any (fun x => x.cd.dstos && decide (x.cd.dst = c.cd.dst))) then .fault .notEnabled
    else
      let total := ((segsOf c.cd c.cd.dfmt c.cd.dty 0 c.cd.dpitch).map (fun x => x.2)).foldl (· + ·) 0 * c.recvs.length
      let heavy := decide (c.kind = 1) && decide (2 ^ 20 < total)
      let s := onCopy s c.id (fun c => { c with started := true, leaveWait := heavy })
      if heavy then
        let s := leaveAsk s cluster (.copy c.id)
        .next (onCopy s c.id (fun c => { c with leaveWait := !(clusterAt s cluster).leaves.contains (.copy c.id) }))
      else .next s

/-- A delivery into an operand stream that is bound to the copy engine: what fits lands now (10 R249, R250); the copy is served
once all has landed. -/
def deliverStream (s : State) (c : Copy) (recv : Nat) (ps : List Piece) : Option State :=
  let bs := ps.flatMap (fun p => p.bs)
  let now := streamRoom s c bs
  if (now = [] ∧ bs.length ≠ c.moved) ∨ (streamOf (engOf s c.cluster) (c.cd.dst % 4)).bind ≠ 1 then none
  else
    let s := onEng s c.cluster (fun e =>
      let st := streamOf e (c.cd.dst % 4)
      putStream e (c.cd.dst % 4) { st with data := st.data ++ now })
    let s := match c.bar with
      | some b => landBar s recv b now.length
      | none => s
    let fl := ps.foldl (fun a p => a ||| p.fl) 0
    some (onCopy s c.id (fun c =>
      { c with moved := c.moved + now.length, flags := fl,
               served := if c.moved + now.length = bs.length then c.served ++ [recv] else c.served }))

/-- COPY_DELIVERY (09 R232, R233): the data lands for the next receiving team, which counts the bytes on its barrier; a
receiver other than the sender gets its tag bit. -/
def execCopyDelivery (copy team : Nat) (s : State) : Host.Outcome State Fault Refusal :=
  onSome (copyOf s copy) (fun c =>
    if !mayRun s c || !c.left.contains team || recvWaits s c team then .fault .notEnabled
    else match copyPlan s c team with
      | (ps, none) =>
        if c.cd.dstos then
          match deliverStream s c team ps with
          | some s => .next (touchPages s c c.cd.rows)
          | none => .fault .notEnabled
        else
          let n := landNow s c team ps
          let s := putPieces (touchPages s c c.cd.rows) c team ps
          let s := match c.bar with
            | some b => landBar s team b n
            | none => s
          let s := if team = c.team then s else setTag s team c.tag none
          let fl := ps.foldl (fun a p => a ||| p.fl) 0
          .next (onCopy s copy (fun c =>
            { c with flags := fl, served := c.served ++ [team],
                     owned := if { c with served := c.served ++ [team] }.left = [] then [] else c.owned }))
      | _ => .fault .notEnabled)

/-- COPY_COMPLETE (09 R233): every delivery has landed, and every write over a link is acknowledged. -/
def execCopyComplete (copy : Nat) (s : State) : Host.Outcome State Fault Refusal :=
  onSome (copyOf s copy) (fun c =>
    if c.started && !c.leaveWait && decide (c.left = []) && !s.remotes.any (fun r => decide (r.copy = some c.id)) then
      .next (finishCopy s c)
    else .fault .notEnabled)

/-- The bytes of some pieces by their address. -/
def pieceCells (c : Copy) (ps : List Piece) : List Host.Cell :=
  ps.flatMap (fun p => p.bs.zipIdx.map (fun x => ((c.dst + p.off + x.2) % 2 ^ 57, x.1)))

/-- Whether a byte of a destination belongs to a row that a failed copy has not formed (09 R244): it lies in the destination and the
rows before, whose bytes are given, do not write it; a row of ZCMP has its whole place. -/
def lateByte (c : Copy) (row : Nat) (mine : List Host.Cell) (a : Nat) : Bool :=
  let d := c.cd
  let segs := dstSegs d c.dst
  let within := fun (xs : List (Nat × Nat)) => xs.any (fun x => decide (x.1 ≤ a) && decide (a < x.1 + x.2))
  if d.dfmt = 4 then within (segs.drop row) else within segs && !mine.any (fun x => decide (x.1 = a))

/-- The words of a destination that a failed copy has written (09 R244): which of them is not specified, each is chosen by a free value;
one that the failing row or a later one has a byte of keeps its old value whole. -/
def chosenWords (s : State) (c : Copy) (row : Nat) (mine : List Host.Cell) : List Host.Cell :=
  let words := ((mine.map (fun x => x.1 / 4)).eraseDups).filter (fun w =>
    Config.freeChoice (s.freeCtr + (w - c.dst / 4)) && !(List.range 4).any (fun i => lateByte c row mine (4 * w + i)))
  mine.filter (fun x => words.contains (x.1 / 4))

/-- The words before the failing row that have landed, by free choices; the bytes that landed are counted on the barrier
(09 R244). -/
def putChosen (s : State) (c : Copy) (recv row : Nat) (ps : List Piece) : State :=
  let mine := pieceCells c (ps.filter (fun p => decide (p.row < row)))
  let cells := chosenWords s c row mine
  let n := (cells.map (fun x => match putPlace s c recv x.1 1 with
    | .ok (.mem ph) => if ph.dev.isSome then 0 else 1
    | _ => 1)).foldl (· + ·) 0
  let s := { s with freeCtr := s.freeCtr + ((mine.map (fun x => x.1 / 4 + 1)).max?).getD 0 }
  let s := cells.foldl (fun s x => putBytes s c recv x.1 [x.2]) s
  match c.bar with
  | some b => landBar s recv b n
  | none => s

/-- The bytes of one row in a chunk of the canonical layout of a stream (09 R225, 10 R247). -/
def chunkBytes (d : CDesc) : Nat := if isSheaf d.dty then shBytes d.dty else elBytes d.dty 8

/-- The bytes of a stream destination that precede the first byte of the failing row stay in the stream (09 R244): those of the first
chunk of the rows before it. -/
def putPrefix (s : State) (c : Copy) (recv row : Nat) (ps : List Piece) : State :=
  let bs := (ps.filter (fun p => decide (p.off < row * chunkBytes c.cd))).flatMap (fun p => p.bs)
  let now := streamRoom s c bs
  let s := onEng s c.cluster (fun e =>
    let st := streamOf e (c.cd.dst % 4)
    putStream e (c.cd.dst % 4) { st with data := st.data ++ now })
  match c.bar with
  | some b => landBar s recv b now.length
  | none => s

/-- An ASCEND that cannot go on (11 R294): it sends no further update, and its MWAIT reports the failing address. -/
def ascendStop (s : State) (cluster : Nat) (c : ECmd) (va : Nat) : State :=
  onEng s cluster (fun e => putCmd e { c with
    phase := 2, todo := [], fail := some { trapC 0x1C 0 with addr := BitVec.ofNat 64 va, at_ := some s.fcycles } })

/-- What a failed copy means to the first command that still takes data from its stream: an ASCEND to which what has come does not
suffice stops (11 R294; which ASCEND the stream's failure is one of, the spec does not say: assumption 88). -/
def starveAscend (s : State) (cluster n va : Nat) : State :=
  let e := engOf s cluster
  match e.cmds.find? (fun c => wantsFrom c n) with
  | some c => match c.kind with
    | .ascend _ _ _ m _ _ t =>
      if (c.a.getD 0 []).length + (streamOf e n).data.length < m * rowBytes t.ty t.k then ascendStop s cluster c va else s
    | _ => s
  | none => s

/-- What the failure of a copy means to the commands of its cluster. -/
def copyStarves (s : State) (c : Copy) (va : Nat) : State := if c.cd.dstos then starveAscend s c.cluster (c.cd.dst % 4) va else s

/-- A delivery that has failed (09 R244, R245): its failure is reported to the team that owns it, and the copy ends where it
was the last and no write of it is on a link any more. -/
def failDelivery (s : State) (c : Copy) (recv cause sub addr : Nat) : State :=
  let bad := some (cause, sub, BitVec.ofNat 64 addr)
  let s := if recv = c.team then s else reportCopy s c recv cause sub addr
  let c := { c with failed := c.failed <|> bad, served := c.served ++ [recv] }
  if c.left ≠ [] then onCopy s c.id (fun _ => c)
  else if s.remotes.any (fun r => decide (r.copy = some c.id) && r.writes) then onCopy s c.id (fun _ => { c with owned := [] })
  else finishCopy s c

/-- A copy that fails as a whole (10 R251, 10 R265, 17 R403). -/
def failCopy (s : State) (c : Copy) (cause sub : Nat) : State :=
  let s := (c.left.filter (fun r => decide (r ≠ c.team))).foldl (fun s r => reportCopy s c r cause sub 0) s
  copyStarves (finishCopy s { c with failed := c.failed <|> some (cause, sub, 0) }) c 0

/-- Whether a copy fails with a cause at a row: what its data gives, or the engine's own error (09 R244). -/
def failsAs (s : State) (c : Copy) (recv row cause : Nat) : Option (Nat × Nat × List Piece) :=
  match copyPlan s c recv with
  | (ps, some (r, .fault k sub addr _)) =>
    if k = cause ∧ r = row then some (sub, addr, ps) else if cause = 0x4D ∧ row ≤ r then some (0, 0, ps) else none
  | (ps, none) => if cause = 0x4D ∧ row < c.cd.rows then some (0, 0, ps) else none
  | _ => none

/-- COPY_FAIL (09 R244, R245). -/
def execCopyFail (copy row cause : Nat) (s : State) : Host.Outcome State Fault Refusal :=
  onSome (copyOf s copy) (fun c =>
    match nextRecv s c with
    | none => .fault .notEnabled
    | some recv =>
      if !mayRun s c then .fault .notEnabled
      else match failsAs s c recv row cause with
        | none => .fault .notEnabled
        | some (sub, addr, ps) =>
          let s := touchPages s c row
          let s := if c.cd.dstos then putPrefix s c recv row ps else putChosen s c recv row ps
          .next (copyStarves (failDelivery s c recv cause sub addr) c addr))

/-! ### Tags -/

/-- The trap of a tag wait whose tags hold an error (09 R238): the record of the lowest. -/
def copyFault (t : Team) (bad : W64) : TrapInfo :=
  let k := (lowest bad).getD 0
  match t.tagrec.find? (fun x => decide (x.1 = k)) with
  | some (_, cause, sub, addr) => { cause := 0x15, sub := cause, tag := k, tcause := cause, tsub := sub, taddr := addr }
  | none => { cause := 0x15, sub := 0, tag := k }

/-- Whether a tag wait is satisfied (09 R238). -/
def tagsMet (t : Team) (all : Bool) (m : W64) : Bool :=
  if all then decide (t.tagbits &&& m = m) else decide (t.tagbits &&& m ≠ 0) || decide (m = 0)

/-- The bits that TAGS admits. -/
def tagMask (s : State) (team : Nat) : W64 := BitVec.ofNat 64 (2 ^ teamTags s team - 1)

/-- TAGALL and TAGANY (09 R238): in replay mode TAGANY takes every tag (04 R96). -/
def tagWait (i : Instr) (h : Hd) (f : CF) (all : Bool) (s : State) : Host.Outcome State Fault Refusal :=
  wideOp i h (fun g s =>
    let m := g.s.getD f.sdesc.toNat 0
    let every := all || isReplay s g.ctx
    match teamOf s g.team with
    | none => .wait
    | some t =>
      if m &&& ~~~(tagMask s g.team) ≠ 0 then .trap s (trapC 0x10 0)
      else if !tagsMet t every m then .done (setGroup s (parkGroup s g (.tags every all m)))
      else if t.tagbits &&& m &&& t.tagerr ≠ 0 then .trap s (copyFault t (t.tagbits &&& m &&& t.tagerr))
      else .done (if all then orConv s g.team g.id m else s)) s

/-- TAGALL (09 R238). -/
def execTagall (h : Hd) (f : CF) (s : State) : Host.Outcome State Fault Refusal := tagWait (.tagall h f) h f true s
/-- TAGANY (09 R238). -/
def execTagany (h : Hd) (f : CF) (s : State) : Host.Outcome State Fault Refusal := tagWait (.tagany h f) h f false s

/-- The answer of TAGFF for a tag (09 R239). -/
def tagffVal (t : Team) (k : Nat) : W64 := BitVec.ofNat 64 (k + (if t.tagerr.getLsbD k then 256 else 0))

/-- The tags of a team that have a copy outstanding. -/
def busyTags (s : State) (team : Nat) : W64 :=
  maskOf ((s.copies.filter (fun c => c.queued && decide (c.team = team))).map (fun c => c.tag))

/-- TAGFF (09 R239): in replay mode it waits for the lowest tag of the mask that has completed or will (04 R96). -/
def execTagff (h : Hd) (f : CF) (s : State) : Host.Outcome State Fault Refusal :=
  wideOp (.tagff h f) h (fun g s =>
    let m := g.s.getD f.sdesc.toNat 0 &&& tagMask s g.team
    match teamOf s g.team with
    | none => .wait
    | some t =>
      let pool := m &&& (if isReplay s g.ctx then t.tagbits ||| busyTags s g.team else t.tagbits)
      match lowest pool with
      | none => .done (setGroup s (writeScalar g (f.fl 0 6) 64))
      | some k =>
        if t.tagbits.getLsbD k then .done (setGroup s (writeScalar g (f.fl 0 6) (tagffVal t k)))
        else .done (setGroup s (parkGroup s g (.tagff k (f.fl 0 6))))) s

/-- TAGCLR (09 R239). -/
def execTagclr (h : Hd) (f : CF) (s : State) : Host.Outcome State Fault Refusal :=
  wideOp (.tagclr h f) h (fun g s =>
    let m := g.s.getD f.sdesc.toNat 0
    .done (onTeam s g.team (fun t => { t with tagbits := t.tagbits &&& ~~~m, tagerr := t.tagerr &&& ~~~m }))) s

/-- The answer of TAGRD (09 R239). -/
def tagrdVal (s : State) (t : Team) (err : Bool) : W64 := (if err then t.tagerr else t.tagbits) &&& tagMask s t.id

/-- TAGRD (09 R239): in replay mode it waits for every tag that has a copy outstanding (04 R96). -/
def execTagrd (h : Hd) (f : CF) (s : State) : Host.Outcome State Fault Refusal :=
  wideOp (.tagrd h f) h (fun g s =>
    match teamOf s g.team with
    | none => .wait
    | some t =>
      let busy := busyTags s g.team &&& tagMask s g.team
      if isReplay s g.ctx && decide (busy ≠ 0) then .done (setGroup s (parkGroup s g (.tagrd busy (f.flags.getLsbD 6) (f.fl 0 6))))
      else .done (setGroup s (writeScalar g (f.fl 0 6) (tagrdVal s t (f.flags.getLsbD 6))))) s

/-! ### The copy plan -/

/-- COPY_PLAN_ISSUE (05 R104): the next entry of a team's plan, as it stood when the launch was popped (assumption 63), once
its stage has come and its tag has no copy outstanding. An entry that fails a check of 09 R230 is reported as a failed copy with
its tag. No group issued it, so that no group takes its conversion flags, and what a team has not issued when its last group has
retired is never issued: the spec names neither case (assumption 64). -/
def execCopyPlanIssue (team : Nat) (s : State) : Host.Outcome State Fault Refusal :=
  onSome (teamOf s team) (fun t =>
    match (t.launch.bind (launchOf s)).bind (fun l => l.plan[t.planNext]?) with
    | none => .fault .notEnabled
    | some (va, stage, tag) =>
      if (t.st ≠ .resident ∧ t.st ≠ .starting) ∨ t.stage < stage ∨ tagBusy s team tag ∨ !copyRoom s (t.core / 4) then .fault .notEnabled
      else
        let who : Issuer := ⟨0, t.ctx, t.launch, team, t.core / 4, t.core⟩
        let next := fun (s : State) => onTeam s team (fun t => { t with planNext := t.planNext + 1 })
        match checkCopy s who 0 tag va none none with
        | (s, .error none) => .next s
        | (s, .error (some e)) =>
          .next (finishCopy (next s) { mkCopy 0 who 0 tag 0 none [] 0 0 with failed := some (e.cause, e.sub, e.addr) })
        | (s, .ok (w, src, dst)) =>
          let (id, s) := takeId s
          let c := mkCopy id who 0 tag 0 none w src dst
          if copyBehind s c then .fault .notEnabled else .next (next (takeTag s c)))

end Sys2Proof.Machine
end

