-- ==== Sys2Proof/Machine/Strm.lean ====
section
/-! DEFINITION. Streams: their records, the generators, and the instructions (08 R199 to R201; 09 R240 to R243). -/

namespace Sys2Proof.Machine

/-- The state with a stream slot replaced. -/
def putSlot (s : State) (core n : Nat) (x : Stream) : State := onCore s core (fun c => { c with streams := c.streams.set n x })

/-- The index code of a record: 0 none, 1 u16, 2 u32, 3 s64. -/
def strmInd (w : List W64) : Nat := bits (w.getD 6 0).toNat 3 2
/-- Whether a record scatters. -/
def strmScatters (w : List W64) : Bool := (w.getD 6 0).getLsbD 5
/-- The extent of a dimension. -/
def strmCount (w : List W64) (d : Nat) : Nat := bits (w.getD (2 + d) 0).toNat 0 24
/-- The elements that a record names. -/
def strmTotal (w : List W64) : Nat := ((List.range 4).map (strmCount w)).foldl (· * ·) 1

/-- Whether an address lies in a window that a record must not name (08 R199). -/
def strmWindow (va : Nat) : Bool :=
  match targetOf va with
  | .peer _ _ => true
  | .reg _ _ => true
  | .bad => true
  | _ => false

/-- Whether a record is malformed (08 R199). -/
def strmMalformed (w : List W64) : Bool :=
  let g := fun i => (w.getD i 0).toNat
  decide (g 0 / 2 ^ 57 ≠ 0) || decide (g 1 / 2 ^ 57 ≠ 0) || decide (g 6 / 64 ≠ 0) || decide (g 7 ≠ 0) ||
    (List.range 4).any (fun d => decide (strmCount w d = 0) || decide (bits (g (2 + d)) 24 8 ≠ 0)) ||
    decide (4 < bits (g 6) 0 3) || strmWindow (g 0) || (decide (strmInd w ≠ 0) && strmWindow (g 1))

/-- The byte offset of the n-th point, i0 innermost (08 R200). -/
def strmOff (w : List W64) (n : Nat) : Int :=
  let c := strmCount w
  let st := fun d => sInt 32 ((w.getD (2 + d) 0).toNat / 2 ^ 32)
  let i0 := n % c 0
  let i1 := n / c 0 % c 1
  let i2 := n / (c 0 * c 1) % c 2
  let i3 := n / (c 0 * c 1 * c 2)
  i0 * st 0 + i1 * st 1 + i2 * st 2 + i3 * st 3

/-- Who reads for a stream slot. -/
def strmWho (s : State) (core n team : Nat) : Who := ⟨2 ^ 40 + 4 * core + n, ((teamOf s team).map (fun (t : Team) => t.ctx)).getD 0, core / 4, team⟩

/-- One access of a generator as a load finds it, through L1 (08 R201): aligned to its size. -/
def genRead (s : State) (core : Nat) (w : Who) (va n : Nat) : State × Except CErr (List Byte) :=
  match targetOf va with
  | .xlat =>
    if va % n ≠ 0 then (s, .error (.fault 7 0 va 0))
    else match translate s w.cluster (some core) w.ctx va .rd with
      | (s, .error t) => (s, .error (.fault t.cause t.sub va t.addr2))
      | (s, .ok ph) =>
        if ph.dev.isSome then (s, readBytes s w va n)
        else
          let k := servingL1 s core ph.pa
          match l1Find s k (ph.pa / 128) with
          | some bs => (s, .ok ((bs.drop (ph.pa % 128)).take n))
          | none =>
            if inFlight s w.cluster (ph.pa / 128 * 128) 128 then (s, .error .wait)
            else if s.poison.contains (ph.pa / 128) then (s, .error (.fault 0x0C 0 va 0))
            else
              let bs := homeBytes s (ph.pa / 128 * 128) 128
              (l1Put s k (ph.pa / 128) s.fcycles bs, .ok ((bs.drop (ph.pa % 128)).take n))
  | .own off => if off % n ≠ 0 then (s, .error (.fault 7 0 va 0)) else (s, readBytes s w va n)
  | _ => (s, .error (.fault 8 0 va 0))

/-- Whether an access must wait for a line that a copy owns (09 R232). -/
def genWaits (s : State) (w : Who) (va : Nat) : Bool :=
  match targetOf va with
  | .xlat => match peek s w.ctx va .rd with
    | .ok ph => ph.dev.isNone && lineOwned s (ph.pa / 512)
    | .error _ => false
  | _ => false

/-- Where a generator writes n bytes, or the fault of the access (08 R201): aligned to its size, in the own scratchpad, or at a
translated place. -/
def genPlace (s : State) (core : Nat) (w : Who) (va n : Nat) : State × Except CErr Place :=
  match targetOf va with
  | .own off =>
    if off % n ≠ 0 then (s, .error (.fault 7 0 va 0))
    else match teamOf s w.team with
      | some t => (s, if t.size < off + n then .error (.fault 0x0A 0 va 0) else .ok (.pad w.team off))
      | none => (s, .error (.fault 0x0A 0 va 0))
  | .xlat =>
    if va % n ≠ 0 then (s, .error (.fault 7 0 va 0))
    else match translate s w.cluster (some core) w.ctx va .wr with
      | (s, .error t) => (s, .error (.fault t.cause t.sub va t.addr2))
      | (s, .ok ph) => (s, .ok (.dev ph))
  | _ => (s, .error (.fault 8 0 va 0))

/-- One access of a generator as a store does it, in element order (08 R201, 09 R243): at home it comes behind the requests of
its cluster to the sector that are on their way (08 R188), and enters the write-combining buffer (08 R189). -/
def genWrite (s : State) (core : Nat) (w : Who) (va : Nat) (bs : List Byte) : Except CErr State :=
  let launch := (teamOf s w.team).bind (fun t => t.launch)
  match genPlace s core w va bs.length with
  | (_, .error e) => .error e
  | (s, .ok (.pad team off)) => .ok (onTeam s team (fun t => { t with scratch := memPut t.scratch off bs }))
  | (_, .ok (.reg _ _)) => .error (.fault 8 0 va 0)
  | (s, .ok (.dev ph)) =>
    let cells := bs.zipIdx.map (fun x => (ph.pa + x.2, x.1))
    match ph.dev with
    | none =>
      if inFlight s w.cluster ph.pa bs.length then .error .wait
      else
        let slice := homeSlice ph.leaf ph.pa
        let s := (coresFor s w.team core).foldl (fun s c => (l1Portions s c).foldl (fun s k => l1Store s k cells) s) s
        .ok (storeHome s { ctx := w.ctx, launch := launch, core := core } (ph.leaf.getLsbD 54) slice cells)
    | some d =>
      if !canSend s d ph.pa then .error .wait
      else
        let (id, s) := takeId s
        .ok (sendRemote s { id := id, link := 0, dev := d, line := 0, cluster := w.cluster, gid := 0, ctx := w.ctx,
                            launch := launch, core := core, team := w.team, seq := 0, copy := some w.id, writes := true,
                            ask := .store cells, ret := none, va := some va, big := ph.big, page := leafPage ph.leaf } ph.pa)

/-- The address of an element, once its index is read (08 R200). -/
def strmAddr (s : State) (core : Nat) (w : Who) (recd : List W64) (n : Nat) : State × Except CErr Nat :=
  let off := strmOff recd n
  let base := (recd.getD 0 0).toNat
  match strmInd recd with
  | 0 => (s, .ok ((base + off) % 2 ^ 57).toNat)
  | k =>
    match genRead s core w (((recd.getD 1 0).toNat + off) % 2 ^ 57).toNat (2 ^ k) with
    | (s, .error e) => (s, .error e)
    | (s, .ok bs) =>
      let idx : Int := if k = 3 then sInt 64 (leNat bs) else leNat bs
      (s, .ok ((base + idx * strmSize recd) % 2 ^ 57).toNat)

/-- A fault held for the slot, met at an element (08 R201). -/
def strmHold (s : State) (core n : Nat) (x : Stream) (el cause sub addr : Nat) (addr2 : W64) : State :=
  putSlot s core n { x with bad := some { cause := cause, sub := sub, addr := BitVec.ofNat 64 addr, addr2 := addr2 }, badAt := el }

/-- Whether the generator has stopped at the element of a held fault: the elements that were pushed before that one are still
written (08 R201). -/
def strmStops (x : Stream) : Bool := x.bad.isSome && (!strmScatters x.recd || decide (x.badAt ≤ x.moved))

/-- A slot given back: what it has asked of other devices is no longer for it. -/
def freeSlot (s : State) (core n : Nat) : State := putSlot (forgetReads s (2 ^ 40 + 4 * core + n)) core n Stream.empty

/-- STREAM_ELEMENT (08 R200, R201; 09 R243): the generator of a RUNNING slot moves its next element. -/
def execStreamElement (core slot : Nat) (s : State) : Host.Outcome State Fault Refusal :=
  let x := slotOf s core slot
  let n := strmSize x.recd
  let w := strmWho s core slot x.team
  if x.st ≠ .running ∨ (coreAt s core).drained ∨ switching s (core / 4) ∨ strmStops x ∨ strmTotal x.recd ≤ x.moved then .fault .notEnabled
  else match strmAddr s core w x.recd x.moved with
    | (_, .error (.need _ _)) => .fault .notEnabled
    | (_, .error .wait) => .fault .notEnabled
    | (s, .error (.fault c b a a2)) => .next (strmHold s core slot x x.moved c b a a2)
    | (s, .ok va) =>
      if genWaits s w va then .fault .notEnabled
      else if strmScatters x.recd then
        match x.fifo with
        | [] => .fault .notEnabled
        | e :: rest => match genWrite s core w va e with
          | .error (.need _ _) => .fault .notEnabled
          | .error .wait => .fault .notEnabled
          | .error (.fault c b a a2) => .next (strmHold s core slot x x.moved c b a a2)
          | .ok s => .next (dropGot (putSlot s core slot { x with moved := x.moved + 1, fifo := rest }) w.id)
      else if 2048 < (x.fifo.length + 1) * n then .fault .notEnabled
      else match genRead s core w va n with
        | (_, .error (.need _ _)) => .fault .notEnabled
        | (_, .error .wait) => .fault .notEnabled
        | (s, .error (.fault c b a a2)) => .next (strmHold s core slot x x.moved c b a a2)
        | (s, .ok bs) => .next (dropGot (putSlot s core slot { x with moved := x.moved + 1, fifo := x.fifo ++ [bs] }) w.id)

/-- The stream-state fault (09 R240). -/
def strmState : TrapInfo := trapC 0x16 0

/-- STRMSET (09 R241). -/
def execStrmset (h : Hd) (f : CF) (s : State) : Host.Outcome State Fault Refusal :=
  wideOp (.strmset h f) h (fun g s =>
    let x := slotOf s g.core (strmNo f)
    let va := va57 (g.s.getD f.sdesc.toNat 0)
    let bad := { trapC 0x17 0 with addr := BitVec.ofNat 64 va }
    if x.st ≠ .free then .trap s strmState
    else if va % 64 ≠ 0 then .trap s bad
    else match groupRead s g va 64 with
      | (s, .error none) => .hold s
      | (s, .error (some e)) => .trap s (readFault bad e)
      | (s, .ok bs) =>
        let w := wordsAt bs 0 8
        if strmMalformed w then .trap s bad
        else .done (putSlot s g.core (strmNo f) { Stream.empty with st := .set, team := g.team, recd := w })) s

/-- STRMGO (09 R241): it waits until the group's store FIFO is empty. -/
def execStrmgo (h : Hd) (f : CF) (s : State) : Host.Outcome State Fault Refusal :=
  wideOp (.strmgo h f) h (fun g s =>
    let x := slotOf s g.core (strmNo f)
    if x.st ≠ .set ∨ x.team ≠ g.team then .trap s strmState
    else if g.coal ≠ [] ∨ g.fifo ≠ [] then .wait
    else .done (putSlot s g.core (strmNo f) { x with st := .running })) s

/-- Whether a stream can end: a gather at once, a scatter once every pushed element is written, those before the element of a held
fault where there is one. -/
def strmEnds (s : State) (core n : Nat) (x : Stream) : Bool :=
  !strmScatters x.recd ||
    ((decide (x.fifo = []) || strmStops x) && !s.remotes.any (fun r => decide (r.copy = some (2 ^ 40 + 4 * core + n))))

/-- STRMEND (09 R241). -/
def execStrmend (h : Hd) (f : CF) (s : State) : Host.Outcome State Fault Refusal :=
  wideOp (.strmend h f) h (fun g s =>
    let x := slotOf s g.core (strmNo f)
    if x.st = .free ∨ x.team ≠ g.team then .trap s strmState
    else if strmEnds s g.core (strmNo f) x then .done (freeSlot s g.core (strmNo f))
    else .done (setGroup (putSlot s g.core (strmNo f) { x with ending := true }) (parkGroup s g (.strmend (strmNo f))))) s

/-- How the threads of a STRMPOP or STRMPSH end: all done, a thread that must wait, or one that faults. -/
inductive StrmOut where
  | all (s : State)
  | park (s : State) (rest : List Nat)
  | fault (s : State) (t : TrapInfo)
  deriving DecidableEq, Repr

/-- The access that a scatter will make of its next element, looked at before the element is taken (08 R201): its fault goes to
the thread whose push reaches it. -/
def pushCheck (s : State) (core slot : Nat) (x : Stream) : State × Except CErr Place :=
  let w := strmWho s core slot x.team
  match strmAddr s core w x.recd x.done with
  | (s, .error e) => (s, .error e)
  | (s, .ok va) => genPlace s core w va (strmSize x.recd)

/-- One thread after another (09 R242); regs written to the register cache over what the window holds. -/
def strmGo (core slot gid reg : Nat) (push : Bool) : List Nat → State → StrmOut
  | [], s => .all s
  | t :: ts, s =>
    let x := slotOf s core slot
    match groupOf s gid with
    | none => .all s
    | some g =>
      if strmTotal x.recd ≤ x.done then .fault s { strmState with sub := 1, thread := some t }
      else if push then
        match x.bad with
        | some b => .fault s { b with thread := some t }
        | none =>
          let n := strmSize x.recd
          if 2048 < (x.fifo.length + 1) * n then .park s (t :: ts)
          else match pushCheck s core slot x with
            | (s, .error (.fault c b a a2)) => .fault (strmHold s core slot x x.done c b a a2)
                { cause := c, sub := b, addr := BitVec.ofNat 64 a, addr2 := a2, thread := some t }
            | (s, .error _) => .park s (t :: ts)
            | (s, .ok _) =>
              let e := (List.range (strmRegs x.recd)).flatMap (fun i => natLE 4 (readV s g (reg + i) t).toNat)
              strmGo core slot gid reg push ts (putSlot s core slot { x with fifo := x.fifo ++ [e.take n], done := x.done + 1 })
      else match x.fifo, x.bad with
        | e :: rest, _ =>
          let ws := wordsFrom reg (strmRegs x.recd) (leNat e)
          let g := ws.foldl (fun g w => holdLine s g (lineNo g w.1) [(t, w.2)] .general) g
          strmGo core slot gid reg push ts (putSlot (setGroup s g) core slot { x with fifo := rest, done := x.done + 1 })
        | [], some b => .fault s { b with thread := some t }
        | [], none => .park s (t :: ts)

/-- STRMPOP and STRMPSH (09 R242): once for each active thread in ascending index. The faults of their register field come
first, with those of the word (03 R74; preFault). -/
def strmOp (i : Instr) (h : Hd) (f : CF) (push : Bool) (s : State) : Host.Outcome State Fault Refusal :=
  wideOp i h (fun g s =>
    let slot := strmNo f
    let x := slotOf s g.core slot
    let reg := f.fl 0 11
    if x.st ≠ .running ∨ x.team ≠ g.team ∨ strmScatters x.recd ≠ push then .trap s strmState
    else match strmGo g.core slot g.id reg push (threads (liveMask g)) s with
      | .all s => .done s
      | .fault s t => .trap s t
      | .park s rest => .done (setGroup s (parkGroup s ((groupOf s g.id).getD g) (.strm slot push reg (maskOf rest))))) s

/-- STRMPOP (09 R242). -/
def execStrmpop (h : Hd) (f : CF) (s : State) : Host.Outcome State Fault Refusal := strmOp (.strmpop h f) h f false s
/-- STRMPSH (09 R242). -/
def execStrmpsh (h : Hd) (f : CF) (s : State) : Host.Outcome State Fault Refusal := strmOp (.strmpsh h f) h f true s

/-- A group that waits at a stream goes on with the threads still to run, and wakes when none is left or one faults. Where another
group has ended the stream meanwhile the spec does not say what it gets: the slot is no longer one on which its instruction is
allowed, and its next thread takes the stream-state fault (assumption 87). -/
def strmResume (s : State) (g : Group) (slot : Nat) (push : Bool) (reg : Nat) (rest : TMask) : Option State :=
  let x := slotOf s g.core slot
  if x.st ≠ .running ∨ x.team ≠ g.team ∨ strmScatters x.recd ≠ push then
    some (wakeTrap s g.id { strmState with thread := (threads rest).head? })
  else match strmGo g.core slot g.id reg push (threads rest) s with
  | .all s => some (wake (onGroup s g.id (flushWin s)) g.id)
  | .fault s t => some (wakeTrap s g.id t)
  | .park s' left => if maskOf left = rest then none
      else some (onGroup s' g.id (fun g => { flushWin s' g with park := some (.strm slot push reg (maskOf left)) }))

end Sys2Proof.Machine
end

