-- ==== Sys2Proof/Machine/Pass.lean ====
section
/-! DEFINITION. The arithmetic of the matrix engine (02 R49 to R51; 10 R246, R247, R271, R272): operands as a pass takes
them, the products, and the operations on tiles in place. -/

namespace Sys2Proof.Machine

/-- The elements per step of a type (10 R246). -/
def stepEls (ty : Ty) : Nat :=
  match ty with
  | .f16 => 8
  | .bf16 => 8
  | .s4 => 32
  | .sh5 => 32
  | .sh3 => 32
  | _ => 16
/-- The bytes of A per row and step (10 R246). -/
def stepBytes (ty : Ty) : Nat :=
  match ty with
  | .sh8 => 17
  | .sh5 => 22
  | .sh3 => 14
  | _ => 16
/-- The steps of a pass of depth k (10 R246). -/
def passSteps (ty : Ty) (k : Nat) : Nat := ceilDiv k (stepEls ty)

/-- The rows of an operand from its canonical bytes (09 R225, 10 R247). -/
def canonRows (ty : Ty) (k rows : Nat) (bs : List Byte) : List (List Byte) :=
  let n := if isSheaf ty then shBytes ty else elBytes ty 8
  let blocks := if isSheaf ty then ceilDiv k 32 else ceilDiv k 8
  (List.range rows).map (fun i => (List.range blocks).flatMap (fun b => (bs.drop ((b * rows + i) * n)).take n))

/-- The values of a row of floating-point or sheaf elements (10 R247). -/
def rowVals (ty : Ty) (k : Nat) (bs : List Byte) : List FVal :=
  if isSheaf ty then
    let n := shBytes ty
    (List.range (ceilDiv k 32)).flatMap (fun b =>
      let w := leNat ((bs.drop (b * n)).take n)
      ((List.range 32).map (shElem ty w)).take (k - 32 * b))
  else (List.range k).map (fun j => valOf ty (takeEl ty bs (j * elNib ty)))

/-- The integers of a row, with the signedness given (02 R51). -/
def rowInts (ty : Ty) (signed : Bool) (k : Nat) (bs : List Byte) : List Int :=
  (List.range k).map (fun j =>
    let v := takeEl ty bs (j * elNib ty)
    if signed then sInt ty.bits v else v)

/-- RNE without flushing, in which the engine rounds (02 R49). -/
def rne : RMode := ⟨.rne, false, false⟩

/-- The exact sum of the products of one chunk, with its flags (02 R49, R50). -/
def chunkSum (ps : List (FVal × FVal)) : FVal × Flags :=
  let qs := ps.map (fun p => fProd p.1 p.2)
  let (v, fl) := fSum .rne (qs.map Prod.fst)
  (v, qs.foldl (fun a q => a ||| q.2) fl)

/-- An f32 accumulator after the chunks of two rows in ascending k (02 R49). -/
def dotF (z : W32) (x y : List FVal) : W32 × Flags :=
  let ps := x.zip y
  (List.range (ceilDiv ps.length 8)).foldl (fun a j =>
    let (v, fl) := chunkSum ((ps.drop (8 * j)).take 8)
    let (w, fl') := fAdd fmtF32 rne (fDecode fmtF32 a.1.toNat) v
    (BitVec.ofNat 32 w, a.2 ||| fl ||| fl')) (z, 0)

/-- An s32 accumulator after the chunks of two rows in ascending k (02 R51). -/
def dotI (z : W32) (x y : List Int) : W32 × Flags :=
  let ps := (x.zip y).map (fun p => p.1 * p.2)
  (List.range (ceilDiv ps.length 8)).foldl (fun a j =>
    let v := a.1.toInt + (((ps.drop (8 * j)).take 8).foldl (· + ·) 0)
    (BitVec.ofInt 32 v, a.2 ||| flagIf (decide (v < -2 ^ 31) || decide (2 ^ 31 ≤ v)) flIV)) (z, 0)

/-- Whether a pass of the type accumulates integers (10 R246). -/
def isIntPass (ty : Ty) : Bool := ([Ty.s8, Ty.u8, Ty.s4] : List Ty).contains ty

/-- The tile after a pass (10 R271): rows 0 to m - 1 of it accumulated, the others unchanged; with the flags. -/
def mmaTile (ty : Ty) (k : Nat) (acc mix : Bool) (a b : List (List Byte)) (tile : List W32) : List W32 × Flags :=
  let start := fun r c => if acc then tile.getD (16 * r + c) 0 else 0
  let outs :=
    if isIntPass ty then
      let sg := decide (ty ≠ .u8)
      let bs := b.map (rowInts ty (sg != mix) k)
      (a.zipIdx).flatMap (fun x =>
        let xs := rowInts ty sg k x.1
        (bs.zipIdx).map (fun y => dotI (start x.2 y.2) xs y.1))
    else
      let bs := b.map (rowVals ty k)
      (a.zipIdx).flatMap (fun x =>
        let xs := rowVals ty k x.1
        (bs.zipIdx).map (fun y => dotF (start x.2 y.2) xs y.1))
  (outs.map Prod.fst ++ tile.drop outs.length, outs.foldl (fun f o => f ||| o.2) 0)

/-- An integer result in s32 with IV where the exact one lies outside (10 R272). -/
def s32Of (v : Int) : W32 × Flags := (BitVec.ofInt 32 v, flagIf (decide (v < -2 ^ 31) || decide (2 ^ 31 ≤ v)) flIV)
/-- A pair of bits and flags as a tile element. -/
def w32Of (r : Nat × Flags) : W32 × Flags := (BitVec.ofNat 32 r.1, r.2)

/-- ZSCALE of one element (10 R272). -/
def scaleEl (ty : Ty) (c z : W32) : W32 × Flags :=
  if ty = .f32 then w32Of (fMul fmtF32 rne (fDecode fmtF32 z.toNat) (fDecode fmtF32 c.toNat)) else s32Of (z.toInt * c.toInt)
/-- ZADD of one element (10 R272). -/
def addEl (ty : Ty) (w z : W32) : W32 × Flags :=
  if ty = .f32 then w32Of (fAdd fmtF32 rne (fDecode fmtF32 z.toNat) (fDecode fmtF32 w.toNat)) else s32Of (z.toInt + w.toInt)
/-- ZCVT of one element (10 R272, 02 R40). -/
def cvtEl (ty : Ty) (z : W32) : W32 × Flags :=
  if ty = .f32 then w32Of (fOfInt fmtF32 rne z.toInt)
  else
    let (v, fl) := fToInt .rne (-2 ^ 31) (2 ^ 31 - 1) (fDecode fmtF32 z.toNat)
    (BitVec.ofInt 32 v, fl)

/-- A tile whose elements are treated separately, with the flags of all (10 R272). -/
def mapTile (f : Nat → W32 → W32 × Flags) (tile : List W32) : List W32 × Flags :=
  let outs := (tile.zipIdx).map (fun x => f x.2 x.1)
  (outs.map Prod.fst, outs.foldl (fun a o => a ||| o.2) 0)

/-- The size of an element of ZLD and ZST (10 R273). -/
def tileEl (ty : Ty) : Nat := if ty.bits = 16 then 2 else 4

/-- The elements of a tile's row from memory (10 R273). A signalling NaN of f16 or bf16 becomes quiet; whether that sets NV, as a wider
conversion does in 02 R40, where 10 R273 names no flag for ZLD, the spec leaves open: in the model ZLD sets none (assumption 73). -/
def rowLoad (ty : Ty) (bs : List Byte) : List W32 :=
  (List.range 16).map (fun c =>
    let v := leNat ((bs.drop (tileEl ty * c)).take (tileEl ty))
    BitVec.ofNat 32 (if tileEl ty = 2 then f32Bits (valOf ty v) else v))

/-- The bytes of a tile's row in memory, with the flags of its conversion (10 R273). -/
def rowStore (ty : Ty) (ws : List W32) : List Byte × Flags :=
  let els := ws.map (fun w => if tileEl ty = 2 then fPut (fmtOf ty) rne (fDecode fmtF32 w.toNat) else (w.toNat, (0 : Flags)))
  (els.flatMap (fun e => natLE (tileEl ty) e.1), els.foldl (fun a e => a ||| e.2) 0)

end Sys2Proof.Machine
end

