-- ==== Sys2Proof/Machine/Matrix.lean ====
section
/-! DEFINITION. The matrix engine (10 R246 to R278): the reservation table and the rein, the streams and the harness, the
command queue, the commands, the counters and the engine reset. -/

namespace Sys2Proof.Machine

/-- Bits of XFLAGS. -/
def xb (f : XF) (lo n : Nat) : Nat := bits f.xf.toNat lo n
/-- The matrix-state fault with a subcause, in the order of 10 R278 and 11 R282. -/
def mxFault (sub : Nat) : TrapInfo := trapC 0x18 sub
/-- The engine-reset fault (10 R265). -/
def mxReset : TrapInfo := trapC 0x1A 0

/-- An instruction of opcodes 0x160 to 0x187 other than MREQ: while its team is reset-pending it takes the engine-reset
fault (10 R265). -/
def engOp (i : Instr) (h : Hd) (k : Group → State → GOut) (s : State) : Host.Outcome State Fault Refusal :=
  wideOp i h (fun g s =>
    match teamOf s g.team with
    | some t => if t.resetPend then .trap s mxReset else k g s
    | none => k g s) s

/-- The checks of a command that changes tiles (10 R260, R266): the rein, then every tile named. -/
def needRein (s : State) (g : Group) (tiles : List Nat) : Option TrapInfo :=
  let e := engOf s g.cluster
  if !holdsRein e g.team then some (mxFault 4)
  else if tiles.all (holdsTile e g.team) then none
  else some (mxFault 5)

/-- The check of a command that reads a tile only (10 R260). -/
def needSpan (s : State) (g : Group) (z : Nat) : Option TrapInfo :=
  if spanHolds s (engOf s g.cluster) g.team z then none else some (mxFault 5)

/-! ### Entries and the rein -/

/-- The lowest free entry index (10 R255). -/
def freeEnt (e : Engine) : Option Nat := (List.range 32).find? (fun i => !e.ents.any (fun x => decide (x.idx = i)))

/-- The engine with an entry posted (10 R255); what it is to restore is 0 for a new one (10 R264). -/
def postEnt (e : Engine) (team : Nat) (mask : BitVec 32) (heavy : Bool) (tree : Option Tree) (restore : Nat) : Engine :=
  match freeEnt e with
  | none => e
  | some i => { e with ents := e.ents ++ [⟨i, .posted, team, mask, heavy, e.age, 0, false, tree, restore⟩], age := e.age + 1 }

/-- The groups of a team that are parked for some reason. -/
def parkedIn (s : State) (team : Nat) (p : Park → Bool) : List Nat :=
  (s.groups.filter (fun g => decide (g.team = team) && (match g.park with
    | some x => p x
    | none => false))).map (fun g => g.id)

/-- The rein granted to an entry (10 R255, R257): the others that wait count it, the groups of its team in REINGET wake, and
a heavy entry asks for leave where its team has none and asks for none. -/
def grantRein (s : State) (c : Nat) (x : REnt) : State :=
  let s := onEng s c (fun e => { e with ents := e.ents.map (fun y =>
    if y.idx = x.idx then { y with st := .rein, pending := false, waits := 0, restore := if y.restore = 2 then 0 else y.restore }
    else if y.pending then { y with waits := min 16 (y.waits + 1) } else y) })
  let s := (parkedIn s x.team (fun p => decide (p = .reinget))).foldl wake s
  let asks := (clusterAt s c).leaveQ.any (fun l => l.1.ofTeam x.team)
  if x.heavy && !hasLeave s c x.team && !asks then leaveAsk s c (.tenure x.team) else s

/-- Whether an entry can be granted the rein. -/
def wantsRein (x : REnt) : Bool := decide (x.st = .holding) && x.pending

/-- The priority of the context of a team (04 R80). -/
def teamPrio (s : State) (team : Nat) : Nat :=
  (((teamOf s team).bind (fun t => ctxRec s t.ctx)).map (fun (r : CRec) => r.prio)).getD 0

/-- Whether entry x ranks before entry y for the rein (10 R257). -/
def reinBefore (s : State) (x y : REnt) : Bool :=
  if decide (16 ≤ x.waits) != decide (16 ≤ y.waits) then decide (16 ≤ x.waits)
  else if 16 ≤ x.waits then decide (x.age < y.age)
  else if teamPrio s x.team ≠ teamPrio s y.team then decide (teamPrio s y.team < teamPrio s x.team)
  else decide (x.age < y.age)

/-- The entry that the arbiter grants (10 R257). -/
def reinNext (s : State) (c : Nat) : Option REnt :=
  ((engOf s c).ents.filter wantsRein).foldl (fun m x => match m with
    | none => some x
    | some y => if reinBefore s x y then some x else some y) none

/-- REIN_GRANT (10 R257). -/
def execReinGrant (cluster : Nat) (s : State) : Host.Outcome State Fault Refusal :=
  if (engOf s cluster).ents.any (fun x => decide (x.st = .rein)) then .fault .notEnabled
  else match reinNext s cluster with
    | none => .fault .notEnabled
    | some x => .next (grantRein s cluster x)

/-- The discard that a team leaves among the commands at the end of its tenure: of no group, and work of its launch (20 R437). -/
def unbindCmd (s : State) (key team : Nat) : ECmd :=
  let t := teamOf s team
  { key := key, gid := 0, ctx := (t.map (fun t => t.ctx)).getD 0, launch := t.bind (fun t => t.launch), team := team,
    core := (t.map (fun t => t.core)).getD 0, kind := .unbind, phase := 0, lv := false, a := [], b := [], todo := [], flags := 0,
    fail := none }

/-- The rein holder leaves REIN for HOLDING (10 R255): its unit of leave is released, or the request of the tenure dropped, while one of a
LEAVE waits on (18 R419); the streams and
the held B are discarded at this place among the commands, so that those queued before keep their operands (10 R268). -/
def leaveRein (s : State) (c team : Nat) : State :=
  let (key, s) := takeId s
  let s := onEng s c (fun e =>
    let e := onEnt e team (fun x => { x with st := .holding })
    { e with cmds := e.cmds ++ [unbindCmd s key team] })
  onCluster s c (fun x => { x with leaves := x.leaves.filter (fun l => !l.ofTeam team),
                                   leaveQ := x.leaveQ.filter (fun l => decide (l.1 ≠ .tenure team)) })

/-- An entry freed with its tiles and path-trace registers, which their next holder finds zero (10 R255, R256, 11 R281). -/
def freeTeamEnt (s : State) (c team : Nat) : State :=
  let s := if holdsRein (engOf s c) team then leaveRein s c team else s
  onEng s c (fun e => { e with ents := e.ents.filter (fun x => decide (x.team ≠ team)) })

/-- Whether commands of a team are queued or running (10 R264, R268); the discard at the end of its tenure is none. -/
def teamCmds (s : State) (c team : Nat) : Bool :=
  ((engOf s c).cmds ++ (engOf s c).pend).any (fun x => decide (x.team = team) && decide (x.kind ≠ .unbind))

/-- The tiles that a command names. -/
def CmdK.tiles : CmdK → List Nat
  | .mma z _ _ _ _ _ _ _ _ _ => [z]
  | .zzero z => [z]
  | .zscale z _ _ => [z]
  | .zadd z w _ => [z, w]
  | .zcvt z _ => [z]
  | .zld z _ _ => [z]
  | .zst z _ _ => [z]
  | .hdrain z _ _ _ => [z]
  | .osbind _ _ _ => []
  | .osflush _ => []
  | .desc z q _ _ _ _ _ => q :: (match z with
    | some (n, _) => [n]
    | none => [])
  | .dstep q _ _ _ _ _ => [q]
  | .ascend q _ _ _ _ _ _ => [q]
  | .qrd q _ _ _ _ => [q]
  | .qwr q _ _ _ => [q]
  | .unbind => []

/-- Whether the commands of a team that name tiles of its entry have all retired (10 R268). -/
def tilesQuiet (s : State) (c team : Nat) : Bool :=
  match entOf (engOf s c) team with
  | none => true
  | some x => !((engOf s c).cmds ++ (engOf s c).pend).any (fun k => decide (k.team = team) && k.kind.tiles.any (fun z => x.tmask.getLsbD z))

/-- The place in a team save area of a tile's or a path-trace register's image (16 R386). -/
def saveWords (s : State) (t : Team) (c off n : Nat) : Option (State × List W32) :=
  match getVA s c t.ctx (t.save.toNat + off) (4 * n) with
  | some (s, bs) => some (s, (List.range n).map (fun i => BitVec.ofNat 32 (leNat ((bs.drop (4 * i)).take 4))))
  | none => none

/-- The tiles and path-trace registers of a restored entry loaded (10 R264, 11 R295); what was not saved is zero. -/
def loadTiles (s : State) (c : Nat) (t : Team) (mask : BitVec 32) : State :=
  let s := ((List.range 32).filter (fun j => mask.getLsbD j && t.zsaved.getLsbD j)).foldl (fun s j =>
    match saveWords s t c (0x4000 + 4096 * j) 1024 with
    | some (s, ws) => onEng s c (fun e => putTile e j ws)
    | none => s) s
  ((List.range 8).filter (fun j => mask.getLsbD j && t.qsaved)).foldl (fun s j =>
    match saveWords s t c (0x24000 + 4352 * j) 1088 with
    | some (s, ws) => onEng s c (fun e => putQ e j ws)
    | none => s) s

/-- Whether a POSTED entry can acquire its tiles (10 R256). -/
def mayAcquire (e : Engine) (x : REnt) : Bool :=
  decide (x.st = .posted) && e.ents.all (fun y => decide (y.idx = x.idx) || decide (y.tmask &&& x.tmask = 0) ||
    (decide (y.st = .posted) && decide (x.age < y.age)))

/-- TILE_ACQUIRE (10 R256): the tiles are zero, or are loaded for a restored team, which then has a REINGET pending where it
held the rein (10 R264). -/
def execTileAcquire (cluster entry : Nat) (s : State) : Host.Outcome State Fault Refusal :=
  onSome ((engOf s cluster).ents.find? (fun x => decide (x.idx = entry))) (fun x =>
    if !mayAcquire (engOf s cluster) x then .fault .notEnabled
    else
      let s := onEng s cluster (fun e => { e with
        ents := e.ents.map (fun y => if y.idx = entry then
          { y with st := .holding, pending := y.pending || decide (y.restore = 2), waits := if y.restore = 2 then 16 else y.waits,
                   restore := if y.restore = 1 then 0 else y.restore } else y),
        tiles := e.tiles.filter (fun z => !x.tmask.getLsbD z.1), qregs := e.qregs.filter (fun q => !x.tmask.getLsbD q.1) })
      .next (match (if x.restore = 0 then none else teamOf s x.team) with
        | some t => loadTiles s cluster t x.tmask
        | none => s))

/-- MREQ at a table with a free entry (10 R255, R267). -/
def mreqPost (s : State) (g : Group) (mask : BitVec 32) (heavy : Bool) : State :=
  onEng s g.cluster (fun e => postEnt e g.team mask heavy none 0)

/-- MREQ (10 R267). -/
def execMreq (h : Hd) (f : XF) (s : State) : Host.Outcome State Fault Refusal :=
  wideOp (.mreq h f) h (fun g s =>
    let v := g.s.getD (xb f 0 6) 0
    if 2 ^ 32 ≤ v.toNat then .trap s (mxFault 3)
    else if (entOf (engOf s g.cluster) g.team).isSome then .trap s (mxFault 2)
    else
      let s := onTeam s g.team (fun t => { t with resetPend := false })
      if (freeEnt (engOf s g.cluster)).isSome then .done (mreqPost s g (v.truncate 32) (f.xf.getLsbD 6))
      else .done (setGroup s (parkGroup s g (.mreq (v.truncate 32) (f.xf.getLsbD 6))))) s

/-- REINGET (10 R268). -/
def execReinget (h : Hd) (f : XF) (s : State) : Host.Outcome State Fault Refusal :=
  engOp (.reinget h f) h (fun g s =>
    match entOf (engOf s g.cluster) g.team with
    | none => .trap s (mxFault 1)
    | some x =>
      if x.st = .rein then .done s
      else
        let s := onEng s g.cluster (fun e => onEnt e g.team (fun x => { x with pending := true }))
        .done (setGroup s (parkGroup s g .reinget))) s

/-- The next entry in rotation of a passer (10 R258). -/
def reinRotate (s : State) (c : Nat) (x : REnt) : Option REnt :=
  let launch := fun (y : REnt) => (teamOf s y.team).bind (fun t => t.launch)
  ((List.range 31).filterMap (fun i => (engOf s c).ents.find? (fun y => decide (y.idx = (x.idx + 1 + i) % 32)))).find? (fun y =>
    wantsRein y && decide (launch y = launch x) && (launch x).isSome)

/-- REINPASS (10 R258). -/
def execReinpass (h : Hd) (f : XF) (s : State) : Host.Outcome State Fault Refusal :=
  engOp (.reinpass h f) h (fun g s =>
    match needRein s g [], entOf (engOf s g.cluster) g.team with
    | some t, _ => .trap s t
    | _, none => .trap s (mxFault 4)
    | none, some x =>
      let s := leaveRein s g.cluster g.team
      match reinRotate s g.cluster x with
      | some y => .done (grantRein s g.cluster y)
      | none => .done s) s

/-- REINREL (10 R255, R268): the rein is released at once; the entry is freed when the team's commands on its tiles have
retired. -/
def execReinrel (h : Hd) (f : XF) (s : State) : Host.Outcome State Fault Refusal :=
  engOp (.reinrel h f) h (fun g s =>
    if (entOf (engOf s g.cluster) g.team).isNone then .trap s (mxFault 1)
    else
      let s := if holdsRein (engOf s g.cluster) g.team then leaveRein s g.cluster g.team else s
      if tilesQuiet s g.cluster g.team then .done (freeTeamEnt s g.cluster g.team)
      else .done (setGroup s (parkGroup s g .reinrel))) s

/-- REINREL.keep (10 R255, R268). -/
def execReinrelKeep (h : Hd) (f : XF) (s : State) : Host.Outcome State Fault Refusal :=
  engOp (.reinrelKeep h f) h (fun g s =>
    if (entOf (engOf s g.cluster) g.team).isNone then .trap s (mxFault 1)
    else match needRein s g [] with
      | some t => .trap s t
      | none => .done (leaveRein s g.cluster g.team)) s

/-! ### The harness -/

/-- The bytes of HFEED's words. -/
def feedBytes (ws : List W32) : List Byte := ws.flatMap (fun w => natLE 4 w.toNat)

/-- The row queue of a group: its cluster lane (10 R252). -/
def feedRow (g : Group) : Nat := g.lane % 64

/-- Whether another group of the lane waits to append to the same queue and issued its HFEED before (10 R252); one whose team the binding
does not serve waits for its own binding, and holds up none (10 R269). -/
def feedBehind (s : State) (g : Group) (n : Nat) (key : Nat) : Bool :=
  s.groups.any (fun x => decide (x.id ≠ g.id) && decide (x.lane = g.lane) && awake x && (streamOf (engOf s g.cluster) n).span.contains x.team && (match x.park with
    | some (.hfeed m k _) => decide (m = n ∧ k < key)
    | _ => false))

/-- Whether the words of an HFEED can be appended now (10 R269), in issue order (10 R252). -/
def feedFits (s : State) (g : Group) (n key : Nat) (ws : List W32) : Bool :=
  let x := streamOf (engOf s g.cluster) n
  !feedBehind s g n key && decide (x.bind = 2) && x.span.contains g.team && decide ((x.rows.getD (feedRow g) []).length + 4 * ws.length ≤ 256)

/-- HFEED's words appended as one unit. -/
def feedPut (s : State) (g : Group) (n : Nat) (ws : List W32) : State :=
  onEng s g.cluster (fun e =>
    let x := streamOf e n
    putStream e n { x with rows := x.rows.set (feedRow g) (x.rows.getD (feedRow g) [] ++ feedBytes ws) })

/-- HFEED (10 R269). -/
def execHfeed (h : Hd) (f : XF) (s : State) : Host.Outcome State Fault Refusal :=
  engOp (.hfeed h f) h (fun g s =>
    let ws := (threads g.active).map (fun t => readV s g (xb f 0 11) t)
    if feedFits s g f.sa.toNat s.nextId ws then .done (feedPut s g f.sa.toNat ws)
    else
      let (key, s) := takeId s
      .done (setGroup s (parkGroup s g (.hfeed f.sa.toNat key ws)))) s

/-- HFEED_APPEND (10 R269): the words of a parked HFEED enter their queue. -/
def execHfeedAppend (gid : Nat) (s : State) : Host.Outcome State Fault Refusal :=
  onSome (groupOf s gid) (fun g =>
    match g.park with
    | some (.hfeed n key ws) => if awake g && !switchHolds s g && feedFits s g n key ws then .next (wake (feedPut s g n ws) gid) else .fault .notEnabled
    | _ => .fault .notEnabled)

/-! ### The command queue -/

/-- A command of a group (10 R254). -/
def mkCmd (s : State) (g : Group) (key : Nat) (k : CmdK) : ECmd :=
  { key := key, gid := g.id, ctx := g.ctx, launch := g.launch, team := g.team, core := g.core, kind := k, phase := 0,
    lv := hasLeave s g.cluster g.team, a := [], b := [], todo := [], flags := 0, fail := none }

/-- Whether a command takes a place of the queue: accesses of path-trace registers and the discard at a tenure's end are only
ordered with the commands. -/
def CmdK.counts : CmdK → Bool
  | .qrd _ _ _ _ _ => false
  | .qwr _ _ _ _ => false
  | .unbind => false
  | _ => true

/-- Whether the queue of 16 has room (10 R254). -/
def cmdRoom (e : Engine) : Bool := decide ((e.cmds.filter (fun c => c.kind.counts)).length < 16)

/-- A command enters the queue, or its group parks until there is room (10 R254). -/
def submit (s : State) (g : Group) (key : Nat) (k : CmdK) : GOut :=
  let e := engOf s g.cluster
  let c := mkCmd s g key k
  if cmdRoom e && decide (e.pend = []) then
    .done (onEng (setGroup s g) g.cluster (fun e => { e with cmds := e.cmds ++ [c] }))
  else
    .done (onEng (setGroup s (parkGroup s g (.command key))) g.cluster (fun e => { e with pend := e.pend ++ [c] }))

/-- A command without a result: the fault of its checks, or its entry into the queue. -/
def command (bad : Option TrapInfo) (g : Group) (s : State) (k : CmdK) : GOut :=
  match bad with
  | some t => .trap s t
  | none =>
    let (key, s) := takeId s
    submit s g key k

/-- A command with a long-latency result (03 R66): it waits while 16 are outstanding. -/
def commandLL (bad : Option TrapInfo) (i : Instr) (h : Hd) (g : Group) (s : State) (k : CmdK) : GOut :=
  match bad with
  | some t => .trap s t
  | none =>
    if llLimit ≤ g.ll.length then .wait
    else
      let (key, s) := takeId s
      submit s (beginLL s g { newLL i g key h with need := 1 }) key k

/-- The oldest command that waits for room enters the queue, and its group goes on (10 R254). -/
def enterPend (s : State) (c : Nat) : Option State :=
  let e := engOf s c
  match e.pend with
  | [] => none
  | x :: rest =>
    if !cmdRoom e then none
    else
      let s := onEng s c (fun e => { e with cmds := e.cmds ++ [x], pend := rest })
      some (match groupOf s x.gid with
        | some g => if g.park = some (.command x.key) then wake s x.gid else s
        | none => s)

/-- HDRAIN (10 R270). -/
def execHdrain (h : Hd) (f : XF) (s : State) : Host.Outcome State Fault Refusal :=
  engOp (.hdrain h f) h (fun g s =>
    let z := f.z.toNat
    commandLL (needSpan s g z) (.hdrain h f) h g s
      (.hdrain z ((g.s.getD (xb f 11 6) 0).toNat % 64) (lineNo g (xb f 0 11)) (threads g.active))) s

/-- The depth of a pass (10 R271). -/
def mmaK (f : XF) : Nat := 16 * (f.shape.toNat + 1)

/-- The checks of MMA (10 R266, R271): bindings and the held B as the commands queued before leave them. -/
def mmaBad (s : State) (g : Group) (f : XF) : Option TrapInfo :=
  let e := engOf s g.cluster
  let keep := f.xf.getLsbD 7
  (needRein s g [f.z.toNat]).or
    (if boundAs e f.sa.toNat = 0 then some (mxFault 6)
     else if !keep && decide (boundAs e f.sb.toNat ≠ 1) then some (mxFault 6)
     else if keep && decide (keptB e ≠ some (f.t, mmaK f)) then some (mxFault 7)
     else none)

/-- MMA (10 R271). -/
def execMma (h : Hd) (f : XF) (s : State) : Host.Outcome State Fault Refusal :=
  engOp (.mma h f) h (fun g s =>
    command (mmaBad s g f) g s (.mma f.z.toNat f.sa.toNat f.sb.toNat f.t (mmaK f) (xb f 0 6 + 1) (f.xf.getLsbD 6)
      (f.xf.getLsbD 7) (f.xf.getLsbD 8) (f.xf.getLsbD 9))) s

/-- ZZERO (10 R272). -/
def execZzero (h : Hd) (f : XF) (s : State) : Host.Outcome State Fault Refusal :=
  engOp (.zzero h f) h (fun g s => command (needRein s g [f.z.toNat]) g s (.zzero f.z.toNat)) s
/-- ZSCALE (10 R272). -/
def execZscale (h : Hd) (f : XF) (s : State) : Host.Outcome State Fault Refusal :=
  engOp (.zscale h f) h (fun g s =>
    command (needRein s g [f.z.toNat]) g s (.zscale f.z.toNat f.t ((g.s.getD (xb f 0 6) 0).truncate 32))) s
/-- ZADD (10 R272). -/
def execZadd (h : Hd) (f : XF) (s : State) : Host.Outcome State Fault Refusal :=
  engOp (.zadd h f) h (fun g s =>
    command (needRein s g [f.z.toNat, xb f 0 5]) g s (.zadd f.z.toNat (xb f 0 5) f.t)) s
/-- ZCVT (10 R272). -/
def execZcvt (h : Hd) (f : XF) (s : State) : Host.Outcome State Fault Refusal :=
  engOp (.zcvt h f) h (fun g s => command (needRein s g [f.z.toNat]) g s (.zcvt f.z.toNat f.t)) s

/-- The pieces of one row in memory, as its issue checks and translates them (10 R273, 08 R182). -/
def rowPieces (s : State) (g : Group) (addr : W64) (e : Nat) (acc : Acc) : State × Except TrapInfo (List EPiece) :=
  let va := va57 addr
  let n := 16 * e
  let bad := fun (cause : Nat) => Except.error { trapC cause 0 with addr := addr }
  let pad := fun (t : Team) (off : Nat) =>
    if t.size < off + n then bad 0x0A
    else if off % e ≠ 0 then bad 7
    else Except.ok [EPiece.mk va (.pad t.id off) n false]
  match targetOf va with
  | .own off => match teamOf s g.team with
    | some t => (s, pad t off)
    | none => (s, bad 0x0A)
  | .peer idx off => match peerTeam s g.team idx with
    | some t => (s, pad t off)
    | none => (s, bad 9)
  | .xlat =>
    if va % e ≠ 0 then (s, bad 7)
    else
      let room := min n (65536 - va % 65536)
      match translate s g.cluster (some g.core) g.ctx va acc with
      | (s, .error t) => (s, .error { t with addr := addr })
      | (s, .ok ph) =>
        let one := EPiece.mk va (.mem ph.dev ph.pa (leafPage ph.leaf)) room ph.big
        if room = n then (s, .ok [one])
        else
          let va' := (va + room) % 2 ^ 57
          match translate s g.cluster (some g.core) g.ctx va' acc with
          | (s, .error t) => (s, .error t)
          | (s, .ok ph) => (s, .ok [one, EPiece.mk va' (.mem ph.dev ph.pa (leafPage ph.leaf)) (n - room) ph.big])
  | _ => (s, bad 8)

/-- The pieces of the rows of a tile in memory in ascending order; the fuel counts the rows. -/
def tileRows (g : Group) (base pitch : W64) (e : Nat) (acc : Acc) : Nat → Nat → State → State × Except TrapInfo (List (List EPiece))
  | 0, _, s => (s, .ok [])
  | k + 1, r, s =>
    match rowPieces s g (base + BitVec.ofNat 64 r * pitch) e acc with
    | (s, .error t) => (s, .error t)
    | (s, .ok p) => match tileRows g base pitch e acc k (r + 1) s with
      | (s, .error t) => (s, .error t)
      | (s, .ok ps) => (s, .ok (p :: ps))

/-- The rows of ZLD or ZST. -/
def zRows (s : State) (g : Group) (f : XF) (acc : Acc) : State × Except TrapInfo (List (List EPiece)) :=
  tileRows g (g.a.getD (xb f 0 4) 0) (g.s.getD (xb f 4 6) 0) (tileEl f.t) acc 64 0 s

/-- ZLD (10 R273): it waits until the group's store FIFO is empty. -/
def execZld (h : Hd) (f : XF) (s : State) : Host.Outcome State Fault Refusal :=
  engOp (.zld h f) h (fun g s =>
    match needRein s g [f.z.toNat] with
    | some t => .trap s t
    | none => match zRows s g f .rd with
      | (s, .error t) => .trap s t
      | (s, .ok rows) =>
        if g.coal ≠ [] ∨ g.fifo ≠ [] then .wait
        else commandLL none (.zld h f) h g s (.zld f.z.toNat f.t rows)) s

/-- The lines of this device that pieces lie in. -/
def pieceLines (rows : List (List EPiece)) : List Nat :=
  (rows.flatten.flatMap (fun p => match p.at_ with
    | .mem none pa _ => (List.range (ceilDiv (pa % 512 + p.n) 512)).map (fun i => pa / 512 + i)
    | _ => [])).eraseDups

/-- ZST (10 R273): from its issue the engine owns the lines that it will write. -/
def execZst (h : Hd) (f : XF) (s : State) : Host.Outcome State Fault Refusal :=
  engOp (.zst h f) h (fun g s =>
    match needSpan s g f.z.toNat with
    | some t => .trap s t
    | none => match zRows s g f .wr with
      | (s, .error t) => .trap s t
      | (s, .ok rows) =>
        let (key, s) := takeId s
        submit { s with owned := s.owned ++ (pieceLines rows).map (fun l => (key, l)) } g key (.zst f.z.toNat f.t rows)) s

/-- OSBIND (10 R276). -/
def execOsbind (h : Hd) (f : XF) (s : State) : Host.Outcome State Fault Refusal :=
  engOp (.osbind h f) h (fun g s =>
    command (needRein s g []) g s (.osbind f.sa.toNat (xb f 0 2) (spanIds s g.team))) s
/-- OSFLUSH (10 R276). -/
def execOsflush (h : Hd) (f : XF) (s : State) : Host.Outcome State Fault Refusal :=
  engOp (.osflush h f) h (fun g s => command (needRein s g []) g s (.osflush f.sa.toNat)) s

/-! ### The commands at work -/

/-- Whether a command needs leave (10 R259). -/
def CmdK.heavy : CmdK → Bool
  | .mma _ _ _ ty _ _ _ _ _ _ => ([Ty.s4, Ty.sh5, Ty.sh3] : List Ty).contains ty
  | .desc _ _ _ _ _ _ _ => true
  | _ => false

/-- The first command of a queue but for accesses of path-trace registers. -/
def headCmd (e : Engine) : Option ECmd := e.cmds.find? (fun c => match c.kind with
  | .qrd _ _ _ _ _ => false
  | .qwr _ _ _ _ => false
  | _ => true)

/-- The rows of A that a command has taken (10 R247, R252). -/
def aRows (c : ECmd) : List (List Byte) :=
  match c.kind.aUse with
  | none => []
  | some (_, m, ty, k) =>
    if c.a.length = m ∧ m ≠ 1 then c.a.map (fun r => r.take (rowBytes ty k))
    else canonRows ty k m ((c.a.getD 0 []).take (m * rowBytes ty k))

/-- The first step of A has come (10 R248). -/
def aReady (e : Engine) (c : ECmd) : Bool :=
  match c.kind.aUse with
  | none => true
  | some (sa, m, ty, k) =>
    let x := streamOf e sa
    let n := min (stepBytes ty) (rowBytes ty k)
    if x.bind = 2 then decide (n ≤ (x.rows.getD 0 []).length) else decide (min n (m * rowBytes ty k) ≤ x.data.length)

/-- A pass takes from its stream the bytes of B that have come (10 R248). -/
def feedB (e : Engine) (c : ECmd) : Option (Engine × ECmd) :=
  match c.kind.bUse with
  | none => none
  | some (sb, n) =>
    let x := streamOf e sb
    let now := x.data.take (n - c.b.length)
    if now = [] then none
    else some (putStream e sb { x with data := x.data.drop now.length }, { c with b := c.b ++ now })

/-- A pass that runs takes from its stream the bytes of A that have come, from a copy binding in order, from the harness in
each row (10 R247, R252). -/
def feedA (e : Engine) (c : ECmd) : Option (Engine × ECmd) :=
  match c.kind.aUse with
  | none => none
  | some (sa, m, ty, k) =>
    let x := streamOf e sa
    if x.bind = 2 then
      let want := rowWords ty k
      let have_ := fun r => (c.a.getD r []).length
      let now := (List.range m).map (fun r => (x.rows.getD r []).take (want - have_ r))
      if now.all (fun bs => decide (bs = [])) then none
      else some (putStream e sa { x with rows := (x.rows.zipIdx).map (fun p => p.1.drop ((now.getD p.2 []).length)) },
                 { c with a := (List.range m).map (fun r => c.a.getD r [] ++ now.getD r []) })
    else
      let now := x.data.take (m * rowBytes ty k - (c.a.getD 0 []).length)
      if now = [] then none
      else some (putStream e sa { x with data := x.data.drop now.length }, { c with a := [c.a.getD 0 [] ++ now] })

/-- Whether a command changes a stream at its place in the queue (10 R251, R276). -/
def CmdK.turnsStream : CmdK → Bool
  | .osbind _ _ _ => true
  | .osflush _ => true
  | .unbind => true
  | _ => false

/-- The pass after the first command, whose B loads while that one runs (10 R248): no command before it changes a stream, and its
stream has nothing more to give to the first. -/
def nextPass (e : Engine) (c : ECmd) : Option ECmd :=
  let rest := (e.cmds.dropWhile (fun x => decide (x.key ≠ c.key))).drop 1
  match (rest.takeWhile (fun x => !x.kind.turnsStream)).find? (fun x => x.kind.aUse.isSome) with
  | some n => match n.kind.bUse with
    | some (sb, _) => if c.kind.turnsStream || wantsFrom c sb then none else some n
    | none => none
  | none => none

/-- One movement from a stream into the first command, or of B into the pass after it, where there is one. -/
def feedStep (e : Engine) : Option Engine :=
  match headCmd e with
  | none => none
  | some c =>
    match (if c.phase = 2 then none else feedB e c), (if c.phase = 1 then feedA e c else none) with
    | some (e, c), _ => some (putCmd e c)
    | none, some (e, c) => some (putCmd e c)
    | none, none => ((nextPass e c).bind (feedB e)).map (fun x => putCmd x.1 x.2)

/-- A counter of MSTAT 0 to 3 increased. -/
def addStat (e : Engine) (i n : Nat) : Engine := { e with mstat := e.mstat.set i ((e.mstat.getD i 0 + n) % 2 ^ 64) }

/-- Whether a pass has the data that row r needs for its step j (10 R247, R248, R252). -/
def stepHere (c : ECmd) (r j : Nat) : Bool :=
  match c.kind.aUse with
  | none => true
  | some (_, m, ty, k) =>
    let need := min ((j + 1) * stepBytes ty) (rowBytes ty k)
    if c.a.length = m ∧ m ≠ 1 then decide (need ≤ (c.a.getD r []).length)
    else
      let n := if isSheaf ty then shBytes ty else elBytes ty 8
      decide (((ceilDiv need n - 1) * m + r + 1) * n ≤ (c.a.getD 0 []).length)

/-- The lane cycles in which a pass without waits feeds its rows: the last step of its last row is the end (10 R248, 20 R434). -/
def passBeats (c : ECmd) : Nat :=
  match c.kind.aUse with
  | none => 0
  | some (_, m, ty, k) => m + passSteps ty k - 1

/-- Whether every row whose step falls into lane cycle p of a pass has its data (10 R248, 20 R434). -/
def beatHere (c : ECmd) (p : Nat) : Bool :=
  match c.kind.aUse with
  | none => true
  | some (_, m, ty, k) => (List.range m).all (fun r => decide (p < r) || decide (passSteps ty k ≤ p - r) || stepHere c r (p - r))

/-- A pass some lane cycles further (10 R248): it goes on while its rows have the data of their slots; and the lane cycles in which the
array waited. -/
def beatOn (n : Nat) (c : ECmd) : ECmd × Nat :=
  let left := passBeats c - c.beat
  let ahead := ((List.range (min n left)).takeWhile (fun i => beatHere c (c.beat + i))).length
  ({ c with beat := c.beat + ahead }, if ahead = left then 0 else n - ahead)

/-- The engine some lane cycles later: its pass goes on, and MSTAT item 3 counts the lane cycles in which the array waited (10 R275). -/
def passOn (n : Nat) (e : Engine) : Engine :=
  match headCmd e with
  | some c => if c.phase = 1 then let (c, w) := beatOn n c; addStat (putCmd e c) 3 w else e
  | none => e

/-- Whether an engine has a pass in progress (18 R412): one that runs, or that waits as the first command for the data of its streams
(26 R488, R492). -/
def passRuns (e : Engine) : Bool :=
  e.cmds.any (fun c => decide (c.phase = 1)) || (match headCmd e with
    | some c => c.kind.aUse.isSome && decide (c.phase = 0) && !(bFull c && aReady e c)
    | none => false)

/-- PASS_START (10 R248, R259): the first command is a pass, has leave where it needs it, its B and the first step of its A
have come; not during a frequency switch (18 R414). -/
def execPassStart (cluster : Nat) (s : State) : Host.Outcome State Fault Refusal :=
  let e := engOf s cluster
  match headCmd e with
  | none => .fault .notEnabled
  | some c =>
    if !switching s cluster && c.phase = 0 && c.kind.aUse.isSome && (!c.kind.heavy || c.lv || hasLeave s cluster c.team) && bFull c && aReady e c then
      .next (onEng s cluster (fun e => putCmd e { c with phase := 1 }))
    else .fault .notEnabled

/-- Bytes of a piece as the engine reads them (10 R273). -/
def readAt (s : State) (id cluster : Nat) (p : EPiece) : Except CErr (List Byte) :=
  match p.at_ with
  | .pad team off => .ok (memBytes (padBytes s team) off p.n)
  | .mem dev pa _ => placeBytes s id cluster ⟨dev, pa, 0, false⟩ p.va p.n

/-- The bytes of a row. -/
def readRow (s : State) (id cluster : Nat) (ps : List EPiece) : Except CErr (List Byte) := do
  let xs ← ps.mapM (readAt s id cluster)
  return xs.flatten

/-- The origin of a fault record of a command. -/
def cmdOrigin (s : State) (c : ECmd) (addr : W64) : Origin :=
  { ctx := c.ctx, launch := c.launch, core := c.core,
    team := if c.launch.isSome then ((teamOf s c.team).map (fun t => t.index)).getD 0xFFFFFF else 0xFFFFFF, addr := addr }

/-- Bytes of a piece written by the engine as a copy writes its destination, over a link line by line (10 R273, 09 R232, 17 R399). -/
def writeAt (s : State) (c : ECmd) (cluster : Nat) (p : EPiece) (bs : List Byte) : State :=
  match p.at_ with
  | .pad team off => onTeam s team (fun t => { t with scratch := memPut t.scratch off bs })
  | .mem none pa page => agentWrite s cluster (cmdOrigin s c (BitVec.ofNat 64 p.va)) page.hc (bs.zipIdx.map (fun x => (pa + x.2, x.1)))
  | .mem (some d) pa page =>
    sendLines s { agentReq 0 d c.ctx c.launch true (.store []) with
      cluster := cluster, core := c.core, team := c.team, copy := some c.key, va := some p.va, big := p.big, page := page }
      (bs.zipIdx.map (fun x => (pa + x.2, x.1)))

/-- A row written piece after piece. -/
def writeRow (c : ECmd) (cluster : Nat) : List EPiece → List Byte → State → State
  | [], _, s => s
  | p :: ps, bs, s => writeRow c cluster ps (bs.drop p.n) (writeAt s c cluster p (bs.take p.n))

/-- The elements of a row that cannot be read take free values, and the failure is kept (assumption 3). -/
def zldRow (s : State) (c : ECmd) (cluster : Nat) (ty : Ty) (ps : List EPiece) : State × ECmd × List W32 :=
  match readRow s c.key cluster ps with
  | .ok bs => (s, c, rowLoad ty bs)
  | .error e =>
    let ws := (List.range 16).map (fun i => (Config.freeValue (s.freeCtr + i)).truncate 32)
    let bad := match e with
      | .fault cause sub a a2 => some { trapC cause sub with addr := BitVec.ofNat 64 a, addr2 := a2 }
      | _ => none
    ({ s with freeCtr := s.freeCtr + 16 }, { c with fail := c.fail.or bad }, ws)

/-- ZLD at the head of the queue. -/
def runZld (s : State) (cluster : Nat) (c : ECmd) (z : Nat) (ty : Ty) (rows : List (List EPiece)) : State × ECmd :=
  let (s, c, ws) := rows.foldl (fun a ps =>
    let (s, c, ws) := zldRow a.1 a.2.1 cluster ty ps
    (s, c, a.2.2 ++ ws)) (s, c, [])
  (onEng s cluster (fun e => putTile e z ws), c)

/-- ZST at the head of the queue. -/
def runZst (s : State) (cluster : Nat) (c : ECmd) (z : Nat) (ty : Ty) (rows : List (List EPiece)) : State × ECmd :=
  let tile := tileOf (engOf s cluster) z
  let (s, fl) := (rows.zipIdx).foldl (fun a x =>
    let (bs, fl) := rowStore ty ((tile.drop (16 * x.2)).take 16)
    (writeRow c cluster x.1 bs a.1, a.2 ||| fl)) (s, (0 : Flags))
  ({ s with owned := s.owned.filter (fun x => decide (x.1 ≠ c.key)) }, { c with flags := fl })

/-- Every copy of a cluster into some streams whose bytes have not all landed fails (10 R251, R265); one that still waits for its
tag fails when it takes it. -/
def failStreams (s : State) (cluster : Nat) (p : Nat → Bool) (cause : Nat) : State :=
  let hit := fun (c : Copy) => decide (c.cluster = cluster) && c.cd.dstos && p (c.cd.dst % 4)
  let s := (s.copies.filter (fun c => c.queued && hit c && decide (c.left ≠ []))).foldl (fun s c => failCopy s c cause 0) s
  { s with copies := s.copies.map (fun c => if !c.queued && hit c then { c with failed := some (cause, 0, 0) } else c) }

/-- The contents of a stream discarded (10 R251): every copy into it that has not landed fails as stream-flushed. -/
def discardStream (s : State) (cluster n : Nat) : State :=
  onEng (failStreams s cluster (fun k => decide (k = n)) 0x48) cluster (fun e =>
    let x := streamOf e n
    putStream e n { x with data := [], rows := List.replicate 64 [] })

/-- A stream discarded and bound (10 R250, R276). -/
def bindStream (s : State) (cluster n b : Nat) (span : List Nat) : State :=
  onEng (discardStream s cluster n) cluster (fun e =>
    let x := streamOf e n
    putStream e n { x with bind := b, span := if b = 0 then [] else span })

/-- The parts of an outstanding result given at once. -/
def giveLL (s : State) (gid key : Nat) (vec : List (Nat × Nat × W32)) : State :=
  onGroup s gid (fun g => { g with ll := g.ll.map (fun l => if l.key = key then { l with need := 0, vec := vec } else l) })

/-- The words that HDRAIN moves (10 R270). -/
def drainVec (tile : List W32) (row0 line : Nat) (ts : List Nat) : List (Nat × Nat × W32) :=
  ts.map (fun t => (line, t, tile.getD (16 * ((row0 + t / 16) % 64) + t % 16) 0))

/-- The held B, or what the pass has taken. -/
def bRows (e : Engine) (c : ECmd) (ty : Ty) (k : Nat) (keep : Bool) : List (List Byte) :=
  if keep then (e.heldB.map (fun b => b.1)).getD [] else canonRows ty k 16 c.b

/-- Idle counts of the rows that do no useful work (10 R263). -/
def addIdle (e : Engine) (useful : Nat → Bool) (n : Nat) : Engine :=
  { e with idle := (e.idle.zipIdx).map (fun x => if useful x.2 then x.1 else (x.1 + n) % 2 ^ 64) }

/-- The runs of a checked pass (10 R262): whether an engine error shows, once or twice, is a free choice (assumption 3). -/
def checkRuns (s : State) (chk : Bool) : State × Bool × Bool :=
  if !chk then (s, false, false)
  else
    let one := Config.engineError s.freeCtr
    ({ s with freeCtr := s.freeCtr + 2 }, one, one && Config.engineError (s.freeCtr + 1))

/-- A pass of MMA with its operands taken (10 R262, R263, R271). Whether a checked pass whose second mismatch leaves the tile as it was
gives its flags at MWAIT, the spec does not say (02 R52): it gives none (assumption 82). -/
def runMma (s : State) (cluster : Nat) (c : ECmd) (z : Nat) (ty : Ty) (k m : Nat) (acc keep chk mix : Bool) : State × ECmd :=
  let e := engOf s cluster
  let b := bRows e c ty k keep
  let (tile, fl) := mmaTile ty k acc mix (aRows c) b (tileOf e z)
  let (s, one, two) := checkRuns s chk
  let s := onEng s cluster (fun e =>
    let e := if two then e else putTile e z tile
    let e := addIdle { e with heldB := some (b, ty, k) } (fun r => decide (r < m)) (passSteps ty k)
    let e := if one then addStat e 0 1 else e
    if two then addStat e 1 1 else e)
  (s, if two then { c with fail := some { trapC 0x19 0 with info := BitVec.ofNat 64 z } } else { c with flags := fl })

/-- What a command without operands from streams does, or a pass MMA once it has them (10 R270 to R276). -/
def runTile (s : State) (cluster : Nat) (c : ECmd) : State × ECmd :=
  let e := engOf s cluster
  match c.kind with
  | .mma z _ _ ty k m acc keep chk mix => runMma s cluster c z ty k m acc keep chk mix
  | .zzero z => (onEng s cluster (fun e => putTile e z (List.replicate 1024 0)), c)
  | .zscale z ty k =>
    let (t, fl) := mapTile (fun _ w => scaleEl ty k w) (tileOf e z)
    (onEng s cluster (fun e => putTile e z t), { c with flags := fl })
  | .zadd z w ty =>
    let src := tileOf e w
    let (t, fl) := mapTile (fun i x => addEl ty (src.getD i 0) x) (tileOf e z)
    (onEng s cluster (fun e => putTile e z t), { c with flags := fl })
  | .zcvt z ty =>
    let (t, fl) := mapTile (fun _ w => cvtEl ty w) (tileOf e z)
    (onEng s cluster (fun e => putTile e z t), { c with flags := fl })
  | .zld z ty rows =>
    let (s, c) := runZld s cluster c z ty rows
    (giveLL s c.gid c.key [], c)
  | .zst z ty rows => runZst s cluster c z ty rows
  | .hdrain z row0 line ts => (giveLL s c.gid c.key (drainVec (tileOf e z) row0 line ts), c)
  | .osbind n b span => (bindStream s cluster n b span, c)
  | .osflush n => (discardStream s cluster n, c)
  | .unbind =>
    let s := (List.range 4).foldl (fun s n => bindStream s cluster n 0 []) s
    (onEng s cluster (fun e => { e with heldB := none }), c)
  | _ => (s, c)

/-- The path-trace register that a command writes, or reads (11 R290). -/
def CmdK.qUse : CmdK → Option (Nat × Bool)
  | .desc _ q _ _ _ _ _ => some (q, true)
  | .dstep q _ _ _ _ _ => some (q, true)
  | .ascend q _ _ _ _ _ _ => some (q, false)
  | .qrd q _ _ _ _ => some (q, false)
  | .qwr q _ _ _ => some (q, true)
  | _ => none

/-- Whether an access of a path-trace register must wait for a command before it (11 R290). -/
def qBlocks (c before : ECmd) : Bool :=
  match c.kind.qUse, before.kind.qUse with
  | some (q, w), some (q', w') => decide (q = q') && (w || w')
  | _, _ => false

/-- An access of a path-trace register that can take effect. -/
def qReady (e : Engine) : Option ECmd :=
  e.cmds.find? (fun c => decide (c.phase = 0) && (match c.kind with
    | .qrd _ _ _ _ _ => true
    | .qwr _ _ _ _ => true
    | _ => false) && !(e.cmds.takeWhile (fun x => decide (x.key ≠ c.key))).any (qBlocks c))

/-- Whether every line of other devices that a command reads has come. -/
def rowsHere (s : State) (cluster : Nat) (c : ECmd) : Bool :=
  match c.kind with
  | .zld _ _ rows => rows.all (fun ps => match readRow s c.key cluster ps with
    | .error (.need _ _) => false
    | .error .wait => false
    | _ => true)
  | .zst _ _ rows => rows.flatten.all (fun p => match p.at_ with
    | .mem (some d) pa _ => canSend s d pa
    | _ => true)
  | _ => true

/-- Whether the first command can have its effect now: a pass has its operands, an access of another agent's line its turn. -/
def cmdReady (s : State) (cluster : Nat) (c : ECmd) : Bool :=
  if c.kind.aUse.isSome then decide (c.phase = 1) && aFull c && bFull c else decide (c.phase = 0) && rowsHere s cluster c

/-- The flags and the failure of a retired command given to its group: kept for its MWAIT (02 R52, 10 R274), ORed into the
FLAGS of its slot where it is saved (10 R264); a group that has retired drops the flags, and its failure is recorded. -/
def cmdReport (s : State) (cluster : Nat) (c : ECmd) : State :=
  match groupOf s c.gid with
  | none => match c.fail with
    | some t => faultRecord s { cmdOrigin s c t.addr with at_ := t.at_ } true t.cause t.sub
    | none => s
  | some g =>
    if g.st = .retiring then match c.fail with
      | some t => faultRecord s { cmdOrigin s c t.addr with at_ := t.at_ } true t.cause t.sub
      | none => s
    else
      let s := onGroup s c.gid (fun g => { g with mwFault := g.mwFault.or c.fail })
      if g.st = .saved then
        match getVA s cluster g.ctx (slotVA s g + 0x550) 8 with
        | some (s, bs) => (putVA s cluster g.ctx (slotVA s g + 0x550) (natLE 8 ((wAt bs 0) ||| c.flags.zeroExtend 64).toNat)).getD s
        | none => s
      else onGroup s c.gid (fun g => { g with mwFlags := g.mwFlags ||| c.flags })

/-- Whether a command whose effect is done may retire: its updates are sent, and what it sent over links is acknowledged. -/
def cmdDone (s : State) (c : ECmd) : Bool :=
  decide (c.phase = 2) && decide (c.todo = []) && !s.remotes.any (fun r => decide (r.copy = some c.key) && r.writes)

/-- Whether MWAIT of a group is satisfied (10 R274). -/
def mwaitMet (s : State) (g : Group) : Bool :=
  !((engOf s g.cluster).cmds ++ (engOf s g.cluster).pend).any (fun c => decide (c.gid = g.id) && c.kind.counts)

/-- What MWAIT does once it is satisfied: the flags, then the failure (10 R274, 11 R294). -/
def mwaitEnd (g : Group) : Group × Option TrapInfo :=
  ({ g with flags := g.flags ||| g.mwFlags, mwFlags := 0, mwFault := none }, g.mwFault)

/-- MWAIT (10 R274). -/
def execMwait (h : Hd) (f : XF) (s : State) : Host.Outcome State Fault Refusal :=
  engOp (.mwait h f) h (fun g s =>
    if mwaitMet s g then
      match mwaitEnd g with
      | (g, none) => .done (setGroup s g)
      | (g, some t) => .trap (setGroup s g) t
    else .done (setGroup s (parkGroup s g .mwait))) s

/-- The value of an MSTAT item (10 R275). -/
def mstatVal (e : Engine) (item : Nat) : Nat := if item < 64 then e.mstat.getD item 0 else e.idle.getD (item - 64) 0

/-- MSTAT (10 R275). -/
def execMstat (h : Hd) (f : XF) (s : State) : Host.Outcome State Fault Refusal :=
  engOp (.mstat h f) h (fun g s =>
    let item := f.shape.toNat
    let clr := f.xf.getLsbD 6
    let e := engOf s g.cluster
    if (entOf e g.team).isNone then .trap s (mxFault 1)
    else if clr && !holdsRein e g.team then .trap s (mxFault 4)
    else if isReplay s g.ctx then .trap s (trapC 0x0D 0)
    else
      let s := setGroup s (writeScalar g (xb f 0 6) (BitVec.ofNat 64 (mstatVal e item)))
      .done (if clr then onEng s g.cluster (fun e =>
        if item < 64 then { e with mstat := e.mstat.set item 0 } else { e with idle := e.idle.set (item - 64) 0 }) else s)) s

/-! ### The engine reset -/

/-- MRESET (10 R277): it parks until the reset is complete. -/
def execMreset (h : Hd) (f : XF) (s : State) : Host.Outcome State Fault Refusal :=
  engOp (.mreset h f) h (fun g s =>
    let c := (g.s.getD (xb f 0 6) 0).toNat
    if 143 < c then .trap s (mxFault 8)
    else if !inPart s g.ctx c then .trap s (mxFault 8)
    else .done (setGroup s (parkGroup s g (.mreset c)))) s

/-- Step 1 of 10 R265: the commands are discarded, outstanding results become zero, copies into the streams fail with the
engine's own error. -/
def resetStep1 (s : State) (cluster : Nat) : State :=
  let cmds := (engOf s cluster).cmds ++ (engOf s cluster).pend
  let s := cmds.foldl (fun s c => match c.kind with
    | .hdrain _ _ line ts => giveLL s c.gid c.key (ts.map (fun t => (line, t, 0)))
    | .qrd _ _ _ line ts => giveLL s c.gid c.key (ts.map (fun t => (line, t, 0)))
    | .zld _ _ _ => giveLL s c.gid c.key []
    | _ => s) s
  let keys := cmds.map (fun c => c.key)
  let s := { s with owned := s.owned.filter (fun x => !keys.contains x.1), rgot := s.rgot.filter (fun x => !keys.contains x.id) }
  failStreams s cluster (fun _ => true) 0x4D

/-- A group of the cluster after a reset (10 R265, step 3): in REINGET or MWAIT of an affected team it takes the engine-reset
fault there; where its command or its wait is gone it goes on. -/
def resetGroup (affected : List Nat) (s : State) (g : Group) : State :=
  let mine := affected.contains g.team
  match g.park with
  | some .reinget => if mine then wakeTrap s g.id mxReset else s
  | some .mwait =>
    if mine then wakeTrap (onGroup s g.id (fun g => { g with mwFault := none })) g.id mxReset else s
  | some (.command _) => wake s g.id
  | some (.qwr _) => wake s g.id
  | some .reinrel => wake s g.id
  | _ => s

/-- Whether a team has a live group. -/
def hasLive (s : State) (team : Nat) : Bool := s.groups.any (fun g => decide (g.team = team) && decide (g.st ≠ .retiring))

/-- An engine reset (10 R265). -/
def resetEngine (s : State) (cluster : Nat) : State :=
  let affected := (engOf s cluster).ents.map (fun x => x.team)
  let s := resetStep1 s cluster
  let s := affected.foldl (fun s t => leaveDrop s cluster (LeaveBy.ofTeam t)) s
  let s := onEng s cluster (fun e => { Engine.empty with age := e.age, ncache := e.ncache })
  let s := affected.foldl (fun s t =>
    let s := onTeam s t (fun x => { x with resetPend := true })
    if hasLive s t then s
    else match teamOf s t with
      | some x => faultRecord s { ctx := x.ctx, launch := x.launch, core := x.core,
                                  team := if x.launch.isSome then x.index else 0xFFFFFF } false 0x1A 0
      | none => s) s
  (s.groups.filter (fun g => decide (g.cluster = cluster))).foldl (resetGroup affected) s

/-- ENGINE_RESET_COMPLETE (10 R265, R277). -/
def execEngineResetComplete (cluster : Nat) (s : State) : Host.Outcome State Fault Refusal :=
  let who := (s.groups.filter (fun g => decide (g.park = some (.mreset cluster)))).map (fun g => g.id)
  if who = [] then .fault .notEnabled else .next (who.foldl wake (resetEngine s cluster))

end Sys2Proof.Machine
end

