-- ==== Sys2Proof/Machine/Descent.lean ====
section
/-! DEFINITION. Tree layers and descent (11 R279 to R295), and the engine's steps: a command's effect, the updates of
ASCEND, retiring (10 R254). -/

namespace Sys2Proof.Machine

/-! ### Binding a tree -/

/-- The tree-descriptor fault with its address (11 R284). -/
def treeFault (va : Nat) : TrapInfo := { trapC 0x1B 0 with addr := BitVec.ofNat 64 va }

/-- Whether a tree descriptor's fields are out of their range (11 R279). -/
def treeMalformed (w : List Nat) : Bool :=
  let g := fun i => w.getD i 0
  let size := fun n => decide (n % 16 = 0) && decide (16 ≤ n) && decide (n ≤ 8192)
  decide (g 0 / 2 ^ 57 ≠ 0) || decide (g 1 / 2 ^ 57 ≠ 0) || decide (g 2 / 2 ^ 57 ≠ 0) || decide (g 0 % 16 ≠ 0) ||
    decide (g 1 % 4 ≠ 0) || decide (g 2 % 128 ≠ 0) || decide (g 3 / 2 ^ 48 ≠ 0) || decide (bits (g 3) 16 16 ≠ 0) ||
    decide (g 4 / 2 ^ 32 ≠ 0) || decide (bits (g 4) 12 4 ≠ 0) || decide (bits (g 4) 5 3 ≠ 0) ||
    decide (g 5 ≠ 0) || decide (g 6 ≠ 0) || decide (g 7 ≠ 0) || !size (bits (g 3) 32 16) || !size (bits (g 3) 0 16) ||
    !size (bits (g 4) 16 16) || !([8, 9, 12, 13, 14].contains (bits (g 4) 8 4)) || decide (bits (g 4) 0 5 = 0) ||
    decide (16 < bits (g 4) 0 5)

/-- The distance of two node vectors (11 R280). -/
def nodeStride (ty : Ty) (k : Nat) : Nat := 16 * ceilDiv (rowBytes ty k) 16

/-- The tree of a descriptor (11 R279). -/
def treeOf (addr : Nat) (w : List Nat) : Tree :=
  let g := fun i => w.getD i 0
  let ty := Ty.ofCode (bits (g 4) 8 4)
  { addr := addr, nodes := g 0, bias := g 1, k := bits (g 4) 16 16, ty := ty, depth := bits (g 4) 0 5,
    stride := nodeStride ty (bits (g 4) 16 16) }

/-- The first page of a range that an access cannot translate, or that lies in a window. -/
def rangeBad (s : State) (ctx va len : Nat) (acc : Acc) : Option (Nat × TrapInfo) :=
  (pagesOf va len).findSome? (fun p =>
    if 2 ^ 57 ≤ p ∨ inWindows p then some (p, { trapC 8 0 with addr := BitVec.ofNat 64 p })
    else match peek s ctx p acc with
      | .ok _ => none
      | .error t => some (p, t))

/-- Reading and checking a tree descriptor (11 R284); none where it has still to come. -/
def readTree (s : State) (w : Who) (launch : Option Nat) (core : Nat) (own : List Req) (va : Nat) :
    State × Except (Option TrapInfo) Tree :=
  let ctx := w.ctx
  if va % 64 ≠ 0 then (s, .error (some (treeFault va)))
  else match recRead s w launch core own va 64 with
    | (s, .error e) => (s, .error (e.map (readFault (treeFault va))))
    | (s, .ok bs) =>
      let w := (wordsAt bs 0 8).map (fun x => x.toNat)
      if treeMalformed w then (s, .error (some (treeFault va)))
      else
        let t := treeOf va w
        let n := 2 ^ t.depth - 1
        match (rangeBad s ctx t.nodes (n * t.stride) .rd).or (rangeBad s ctx t.bias (4 * n) .rd) with
        | some (p, _) => (s, .error (some (treeFault p)))
        | none => (s, .ok t)

/-- TREEBIND (11 R284): it parks the group, which goes on once the descriptor has been read. -/
def execTreebind (h : Hd) (f : XF) (s : State) : Host.Outcome State Fault Refusal :=
  engOp (.treebind h f) h (fun g s =>
    if (entOf (engOf s g.cluster) g.team).isNone then .trap s (mxFault 1)
    else .done (setGroup s (parkGroup s g (.treebind (va57 (g.s.getD (xb f 0 6) 0)))))) s

/-- The end of TREEBIND (11 R284): the descriptor is read and checked, and bound to the entry, and the node cache is emptied. An entry that
the team has given up meanwhile leaves nothing to bind to (10 R265, R278). -/
def settleTreebind (s : State) (g : Group) (va : Nat) : Option State :=
  if (entOf (engOf s g.cluster) g.team).isNone then
    some (wakeTrap s g.id (if ((teamOf s g.team).map (fun (t : Team) => t.resetPend)).getD false then mxReset else mxFault 1))
  else match readTree s g.who g.launch g.core (ownReqs g) va with
    | (s', .error none) => if s'.remotes.length = s.remotes.length then none else some s'
    | (s, .error (some t)) => some (wakeTrap s g.id t)
    | (s, .ok t) =>
      some (wake (onEng s g.cluster (fun e => { onEnt e g.team (fun x => { x with tree := some t }) with ncache := [] })) g.id)

/-! ### Node addresses and regrouping -/

/-- The level of a node (11 R285). -/
def nodeLevel (x : Nat) : Nat := (x + 1).log2

/-- NADDR's result (11 R285). -/
def naddrVal (op depth x : Nat) : Nat :=
  (match op with
    | 0 => 2 * x + 1
    | 1 => 2 * x + 2
    | 2 => if x = 0 then 2 ^ 32 - 1 else (x - 1) / 2
    | 3 => nodeLevel x
    | 4 => 2 ^ depth - 1 + x % 2 ^ depth
    | _ => x - (2 ^ nodeLevel x - 1)) % 2 ^ 32

/-- NADDR (11 R285). -/
def execNaddr (h : Hd) (f : XF) (s : State) : Host.Outcome State Fault Refusal :=
  engOp (.naddr h f) h (fun g s =>
    let ws := (threads g.active).map (fun t =>
      (t, BitVec.ofNat 32 (naddrVal (f.shape.toNat % 8) (f.shape.toNat / 16) (readV s g (xb f 11 11) t).toNat)))
    .done (setGroup s (holdLine s g (lineNo g (xb f 0 11)) ws .general))) s

/-- The checks of a range that must lie in the own scratchpad (11 R287, R291, 08 R182): its offset. -/
def ownRange (s : State) (g : Group) (addr : W64) (n : Nat) : Except TrapInfo Nat :=
  let bad := fun (cause : Nat) => Except.error { trapC cause 0 with addr := addr }
  match targetOf (va57 addr), teamOf s g.team with
  | .own off, some t => if t.size < off + n then bad 0x0A else if off % 4 ≠ 0 then bad 7 else .ok off
  | .own _, none => bad 0x0A
  | _, _ => bad 8

/-- The REGRP fault (11 R291). -/
def regrpFault (sub : Nat) : TrapInfo := trapC 0x1D sub

/-- REGRP (11 R291). -/
def execRegrp (h : Hd) (f : XF) (s : State) : Host.Outcome State Fault Refusal :=
  engOp (.regrp h f) h (fun g s =>
    let v := (g.s.getD (xb f 8 6) 0).toNat
    let n := v % 2 ^ 32
    let l := v / 2 ^ 32
    match ownRange s g (g.a.getD (xb f 0 4) 0) (4 * n), ownRange s g (g.a.getD (xb f 4 4) 0) (4 * (2 * l + n)) with
    | .error t, _ => .trap s t
    | _, .error t => .trap s t
    | .ok inp, .ok out =>
      if n = 0 ∨ 65536 < n ∨ l = 0 ∨ 65536 < l then .trap s (regrpFault 1)
      else if inp < out + 4 * (2 * l + n) ∧ out < inp + 4 * n then .trap s (regrpFault 2)
      else .done (setGroup s (parkGroup s g (.regrp inp out n l)))) s

/-- A u32 of a scratchpad. -/
def padWord (m : Memory) (off i : Nat) : Nat := memNat m (off + 4 * i) 4

/-- The counts of the leaves (11 R291). -/
def regrpCounts (vs : List Nat) (l : Nat) : List Nat := (List.range l).map (fun x => vs.count x)

/-- The sums of the counts before each leaf. -/
def prefixSums : Nat → List Nat → List Nat
  | _, [] => []
  | a, c :: cs => a :: prefixSums (a + c) cs

/-- The output of REGRP in words: counts, offsets, and the stable permutation (11 R291). -/
def regrpWords (vs : List Nat) (l : Nat) : List Nat :=
  let cnt := regrpCounts vs l
  let perm := (List.range l).flatMap (fun x => (List.range vs.length).filter (fun i => decide (vs.getD i (2 ^ 32) = x)))
  cnt ++ prefixSums 0 cnt ++ perm ++ List.replicate (vs.length - perm.length) (2 ^ 32 - 1)

/-- REGRP_COMPLETE (11 R291). -/
def execRegrpComplete (gid : Nat) (s : State) : Host.Outcome State Fault Refusal :=
  onSome (groupOf s gid) (fun g =>
    match g.park with
    | some (.regrp inp out n l) =>
      if !awake g || switchHolds s g then .fault .notEnabled
      else
        let m := padBytes s g.team
        let vs := (List.range n).map (padWord m inp)
        if vs.any (fun v => decide (l ≤ v) && decide (v ≠ 2 ^ 32 - 1)) then .next (wakeTrap s gid (regrpFault 3))
        else
          let bs := (regrpWords vs l).flatMap (natLE 4)
          .next (wake (onTeam s g.team (fun t => { t with scratch := memPut t.scratch out bs })) gid)
    | _ => .fault .notEnabled)

/-! ### Path-trace registers -/

/-- A record of a path-trace register (11 R281). -/
def recOf (ws : List W32) (r : Nat) : List W32 := (ws.drop (17 * r)).take 17
/-- The words with a record replaced. -/
def setRec (ws : List W32) (r : Nat) (x : List W32) : List W32 := ws.take (17 * r) ++ x ++ ws.drop (17 * r + 17)
/-- The header of a record. -/
def recHdr (x : List W32) : Nat := (x.getD 0 0).toNat
/-- Whether a record describes a descent (11 R281). -/
def recValid (x : List W32) : Bool := (recHdr x).testBit 31
/-- The levels completed. -/
def recLvl (x : List W32) : Nat := bits (recHdr x) 16 5
/-- The choices made. -/
def recPath (x : List W32) : Nat := recHdr x % 2 ^ 16
/-- Whether a record is consistent (11 R281). -/
def recOk (x : List W32) (depth : Nat) : Bool := decide (recLvl x ≤ depth) && decide (recPath x < 2 ^ recLvl x)
/-- A header. -/
def mkHdr (valid : Bool) (lvl path : Nat) : W32 := BitVec.ofNat 32 ((if valid then 2 ^ 31 else 0) + 2 ^ 16 * lvl + path)

/-- QRD (11 R290). -/
def execQrd (h : Hd) (f : XF) (s : State) : Host.Outcome State Fault Refusal :=
  engOp (.qrd h f) h (fun g s =>
    let q := xb f 17 3
    if !spanHolds s (engOf s g.cluster) g.team q then .trap s (mxFault 11)
    else if llLimit ≤ g.ll.length then .wait
    else
      let (key, s) := takeId s
      let g := beginLL s g { newLL (.qrd h f) g key h with need := 1 }
      let k := CmdK.qrd q ((g.s.getD (xb f 11 6) 0).toNat % 64) f.shape.toNat (lineNo g (xb f 0 11)) (threads g.active)
      .done (onEng (setGroup s g) g.cluster (fun e => { e with cmds := e.cmds ++ [mkCmd s g key k] }))) s

/-- QWR (11 R290). -/
def execQwr (h : Hd) (f : XF) (s : State) : Host.Outcome State Fault Refusal :=
  engOp (.qwr h f) h (fun g s =>
    let q := xb f 17 3
    let e := engOf s g.cluster
    if !holdsRein e g.team then .trap s (mxFault 4)
    else if !holdsTile e g.team q then .trap s (mxFault 11)
    else
      let (key, s) := takeId s
      let ws := (threads g.active).map (fun t => (t, readV s g (xb f 0 11) t))
      let k := CmdK.qwr q ((g.s.getD (xb f 11 6) 0).toNat % 64) f.shape.toNat ws
      .done (onEng (setGroup s (parkGroup s g (.qwr key))) g.cluster (fun e => { e with cmds := e.cmds ++ [mkCmd s g key k] }))) s

/-- The words that QRD moves (11 R290). -/
def qrdVec (ws : List W32) (row0 item line : Nat) (ts : List Nat) : List (Nat × Nat × W32) :=
  ts.map (fun t => (line, t, ws.getD (17 * ((row0 + t) % 64) + item) 0))

/-- The register after QWR: bits [30:21] of a header are written as zero (11 R281, R290). -/
def qwrWords (ws : List W32) (row0 item : Nat) (vs : List (Nat × W32)) : List W32 :=
  vs.foldl (fun ws v => ws.set (17 * ((row0 + v.1) % 64) + item) (if item = 0 then v.2 &&& 0x801FFFFF else v.2)) ws

/-! ### The descent commands at issue -/

/-- The rows of a descent command. -/
def descM (f : XF) : Nat := f.shape.toNat % 64 + 1

/-- The checks that DESC, DSTEP and ASCEND share (11 R283, items 1 to 4), with the tree they use. -/
def descCheck (s : State) (g : Group) (f : XF) (span : Bool) (tile : Option Nat) : Except TrapInfo (Tree × TMask) :=
  let e := engOf s g.cluster
  let q := xb f 10 3
  let mask := g.s.getD (xb f 0 6) 0
  if !holdsRein e g.team then .error (mxFault 4)
  else match (entOf e g.team).bind (fun x => x.tree) with
    | none => .error (mxFault 9)
    | some t =>
      if !(if span then spanHolds s e g.team q else holdsTile e g.team q) then .error (mxFault 11)
      else if (match tile with | some z => !holdsTile e g.team z | none => false) then .error (mxFault 5)
      else if f.t ≠ t.ty then .error (mxFault 10)
      else if boundAs e f.sa.toNat = 0 then .error (mxFault 6)
      else if 2 ^ descM f ≤ mask.toNat then .error (mxFault 12)
      else .ok (t, mask)

/-- DESC (11 R283, R287). -/
def execDesc (h : Hd) (f : XF) (s : State) : Host.Outcome State Fault Refusal :=
  engOp (.desc h f) h (fun g s =>
    let sp := f.xf.getLsbD 13
    let m := descM f
    match descCheck s g f false (if sp then none else some f.z.toNat) with
    | .error t => .trap s t
    | .ok (t, mask) =>
      if 65536 < m * rowBytes t.ty t.k then .trap s (mxFault 13)
      else
        let cmd := fun (z : Option (Nat × Nat)) (o : Option Nat) => CmdK.desc z (xb f 10 3) f.sa.toNat mask m o t
        if sp then match ownRange s g (g.a.getD (xb f 14 4) 0) (4 * m) with
          | .error t => .trap s t
          | .ok off => command none g s (cmd none (some off))
        else command none g s (cmd (some (f.z.toNat, xb f 6 4)) none)) s

/-- DSTEP (11 R289). -/
def execDstep (h : Hd) (f : XF) (s : State) : Host.Outcome State Fault Refusal :=
  engOp (.dstep h f) h (fun g s =>
    match descCheck s g f false none with
    | .error t => .trap s t
    | .ok (t, mask) => command none g s (.dstep (xb f 10 3) f.sa.toNat mask (descM f) (f.xf.getLsbD 13) t)) s

/-- The check of a range of gradients at issue (11 R292). -/
def gradBad (s : State) (g : Group) (base : W64) (len : Nat) : Option TrapInfo :=
  let va := va57 base
  if va % 4 ≠ 0 then some { trapC 7 0 with addr := base } else (rangeBad s g.ctx va len .wr).map (fun x => x.2)

/-- ASCEND (11 R292). -/
def execAscend (h : Hd) (f : XF) (s : State) : Host.Outcome State Fault Refusal :=
  engOp (.ascend h f) h (fun g s =>
    match descCheck s g f true none with
    | .error t => .trap s t
    | .ok (t, mask) =>
      let n := 2 ^ t.depth - 1
      let gb := g.s.getD (xb f 14 6) 0
      let bb := g.s.getD (xb f 14 6 + 1) 0
      let nob := f.xf.getLsbD 13
      match (gradBad s g gb (4 * t.k * n)).or (if nob then none else gradBad s g bb (4 * n)) with
      | some t => .trap s t
      | none => command none g s
          (.ascend (xb f 10 3) f.sa.toNat mask (descM f) (va57 gb) (if nob then none else some (va57 bb)) t)) s

/-! ### Descent at work -/

/-- Who reads for a command. -/
def cmdWho (c : ECmd) (cluster : Nat) : Who := ⟨c.key, c.ctx, cluster, c.team⟩

/-- Bytes of the tree through the node cache (11 R284, R288, R295): where the cache holds other bytes than memory, a store
after the binding may or may not be seen, by a free choice (assumption 3). A fill sets the accessed bit of its pages (15 R367). -/
def nodeBytes (s : State) (cluster : Nat) (c : ECmd) (va n : Nat) : State × Except CErr (List Byte) :=
  let s := (pagesOf va n).foldl (fun s p => (translate s cluster none c.ctx p .rd).1) s
  match readBytes s (cmdWho c cluster) va n with
  | .error e => (s, .error e)
  | .ok now =>
    let key := c.ctx * 2 ^ 57 + va
    match (engOf s cluster).ncache.find? (fun x => decide (x.1 = key) && decide (x.2.length = n)) with
    | none => (onEng s cluster (fun e => { e with ncache := e.ncache ++ [(key, now)] }), .ok now)
    | some (_, old) =>
      if old = now then (s, .ok now)
      else ({ s with freeCtr := s.freeCtr + 1 }, .ok (if Config.freeChoice s.freeCtr then old else now))

/-- d of a row at a node with its flags (11 R286). -/
def nodeDot (t : Tree) (w b : List Byte) (x : List FVal) : W32 × Flags :=
  let (d, fl) := dotF (BitVec.ofNat 32 (leNat b)) (rowVals t.ty t.k w) x
  (d, fl ||| flagIf (fIsNaN (fDecode fmtF32 d.toNat)) flNV)

/-- Whether d sends a row right (11 R286). -/
def goesRight (d : W32) : Bool :=
  match fDecode fmtF32 d.toNat with
  | .fin false m _ => decide (m ≠ 0)
  | .inf false => true
  | _ => false

/-- A record one level further by a d (11 R287, R289). -/
def recStep (recd : List W32) (d : W32) : List W32 :=
  (recd.set (1 + recLvl recd) d).set 0 (mkHdr true (recLvl recd + 1) (2 * recPath recd + (if goesRight d then 1 else 0)))

/-- d of a row at the node where it stands with its flags (11 R287, R289), or why the node cannot be read. -/
def rowStep (s : State) (cluster : Nat) (c : ECmd) (t : Tree) (x : List FVal) (recd : List W32) :
    State × Except CErr (W32 × Flags) :=
  let n := 2 ^ recLvl recd - 1 + recPath recd
  match nodeBytes s cluster c (t.nodes + n * t.stride) (rowBytes t.ty t.k) with
  | (s, .error e) => (s, .error e)
  | (s, .ok w) => match nodeBytes s cluster c (t.bias + 4 * n) 4 with
    | (s, .error e) => (s, .error e)
    | (s, .ok b) => (s, .ok (nodeDot t w b x))

/-- What a descent has so far: the state, the records, the flags, and the failure. -/
structure Walk where
  s    : State
  q    : List W32
  fl   : Flags
  bad  : Option CErr
  deriving DecidableEq, Repr

/-- Some rows one level further, in ascending order of their nodes (11 R288). Where a node cannot be read the first failure is
kept, and what the row would have got there is a free value, so that its new value is left open (11 R294, assumption 3). -/
def walkRows (cluster : Nat) (c : ECmd) (t : Tree) (xs : List (List FVal)) (rows : List Nat) (a : Walk) : Walk :=
  rows.foldl (fun a r =>
    match rowStep a.s cluster c t (xs.getD r []) (recOf a.q r) with
    | (s, .error e) =>
      let (v, s) := takeFree s
      { a with s := s, q := setRec a.q r (recStep (recOf a.q r) (v.truncate 32)), bad := a.bad.or (some e) }
    | (s, .ok (d, fl)) => { a with s := s, q := setRec a.q r (recStep (recOf a.q r) d), fl := a.fl ||| fl }) a

/-- The node at which a row stands. -/
def rowNode (q : List W32) (r : Nat) : Nat := 2 ^ recLvl (recOf q r) - 1 + recPath (recOf q r)

/-- The rounds of a level (11 R288): the distinct nodes in ascending index, in pieces. -/
def roundsOf (q : List W32) (rows : List Nat) (stride : Nat) : List (List Nat) :=
  let nodes := sortBy (fun a b => decide (a ≤ b)) ((rows.map (rowNode q)).eraseDups)
  let n := min 16 (65536 / stride)
  (List.range (ceilDiv nodes.length n)).map (fun i => (nodes.drop (n * i)).take n)

/-- One level: its rounds one after another, with the idle counts of the rows that are not in a round (11 R288, 10 R263). -/
def walkLevel (cluster : Nat) (c : ECmd) (t : Tree) (xs : List (List FVal)) (rows : List Nat) (a : Walk) : Walk :=
  let q0 := a.q
  (roundsOf q0 rows t.stride).foldl (fun a nodes =>
    let mine := rows.filter (fun r => nodes.contains (rowNode q0 r))
    let a := walkRows cluster c t xs mine a
    { a with s := onEng a.s cluster (fun e => addIdle e mine.contains (passSteps t.ty t.k)) }) a

/-- A failure that a walk met, as its MWAIT reports it (11 R294). -/
def descFail (e : CErr) : TrapInfo :=
  match e with
  | .fault _ _ a _ => { trapC 0x1C 0 with addr := BitVec.ofNat 64 a }
  | _ => trapC 0x1C 0

/-- Words of which each holds its old or its new value, by free choices (11 R294, assumption 3). -/
def mixWords (ctr : Nat) (old new : List W32) : List W32 :=
  (new.zipIdx).map (fun x => if Config.freeChoice (ctr + x.2) then old.getD x.2 0 else x.1)

/-- Records of which each has its old or its new value, by free choices (11 R294, assumption 3). -/
def mixRecs (ctr : Nat) (old new : List W32) : List W32 :=
  (List.range 64).flatMap (fun r => if Config.freeChoice (ctr + r) then recOf old r else recOf new r)

/-- DESC with its operands taken (11 R287). -/
def runDesc (s : State) (cluster : Nat) (c : ECmd) (z : Option (Nat × Nat)) (q : Nat) (mask : TMask) (t : Tree) : State × ECmd :=
  let old := qOf (engOf s cluster) q
  let xs := (aRows c).map (rowVals t.ty t.k)
  let rows := threads mask
  let a := (List.range t.depth).foldl (fun a _ => walkLevel cluster c t xs rows a) (Walk.mk s (List.replicate 1088 0) 0 none)
  let leaf := fun (r : Nat) => BitVec.ofNat 32 (recPath (recOf a.q r))
  let tile := fun (s : State) (mine : List Nat) => match z with
    | some (n, col) => onEng s cluster (fun e => putTile e n (mine.foldl (fun ws r => ws.set (16 * r + col) (leaf r)) (tileOf e n)))
    | none => s
  match a.bad with
  | some e =>
    let k := a.s.freeCtr
    let s := { a.s with freeCtr := k + 128 }
    let s := onEng s cluster (fun e => putQ e q (mixRecs k old a.q))
    (tile s (rows.filter (fun r => Config.freeChoice (k + 64 + r))), { c with flags := a.fl, fail := some (descFail e), outw := a.q })
  | none => (tile (onEng a.s cluster (fun e => putQ e q a.q)) rows, { c with flags := a.fl, outw := a.q })

/-- DSTEP with its operands taken (11 R289). -/
def runDstep (s : State) (cluster : Nat) (c : ECmd) (q : Nat) (mask : TMask) (root : Bool) (t : Tree) : State × ECmd :=
  let old := qOf (engOf s cluster) q
  let xs := (aRows c).map (rowVals t.ty t.k)
  let q0 := if root then (threads mask).foldl (fun ws r => setRec ws r (mkHdr true 0 0 :: List.replicate 16 0)) old else old
  let live := (threads mask).filter (fun r => recValid (recOf q0 r) && decide (recLvl (recOf q0 r) ≠ t.depth))
  let bad := live.any (fun r => !recOk (recOf q0 r) t.depth)
  let rows := live.filter (fun r => recOk (recOf q0 r) t.depth)
  let a := walkLevel cluster c t xs rows (Walk.mk s q0 (flagIf bad flNV) none)
  match a.bad with
  | some e =>
    let s := { a.s with freeCtr := a.s.freeCtr + 64 }
    (onEng s cluster (fun e => putQ e q (mixRecs a.s.freeCtr old a.q)), { c with flags := a.fl, fail := some (descFail e) })
  | none => (onEng a.s cluster (fun e => putQ e q a.q), { c with flags := a.fl })

/-- ASCEND with its operands taken: the updates that it will send, by row and level (11 R292). -/
def runAscend (s : State) (cluster : Nat) (c : ECmd) (q : Nat) (mask : TMask) (t : Tree) : State × ECmd :=
  let ws := qOf (engOf s cluster) q
  let live := (threads mask).filter (fun r => recValid (recOf ws r))
  let rows := live.filter (fun r => recOk (recOf ws r) t.depth)
  (s, { c with todo := rows.flatMap (fun r => (List.range (recLvl (recOf ws r))).map (fun l => (r, l, 0))),
               flags := flagIf (decide (rows.length ≠ live.length)) flNV })

/-- What the first command does (10 R254). -/
def runCmd (s : State) (cluster : Nat) (c : ECmd) : State × ECmd :=
  match c.kind with
  | .desc z q _ mask _ _ t => runDesc s cluster c z q mask t
  | .dstep q _ mask _ root t => runDstep s cluster c q mask root t
  | .ascend q _ mask _ _ _ t => runAscend s cluster c q mask t
  | _ => runTile s cluster c

/-- Whether node data that a descent reads now has still to come: from other devices, or by a store of its cluster that is on its
way to a page of it. -/
def treeNeed (s : State) (cluster : Nat) (c : ECmd) : Bool :=
  let need := fun (t : Tree) =>
    let n := 2 ^ t.depth - 1
    let far := fun (va len : Nat) => (pagesOf va len).any (fun p => match peek s c.ctx p .rd with
      | .ok ph => ph.dev.isSome || inFlight s cluster ph.pa (min len 65536)
      | .error _ => false)
    let pend := fun (va len : Nat) => match readBytes s (cmdWho c cluster) va len with
      | .error (.fault _ _ _ _) => false
      | .error _ => true
      | .ok _ => false
    (far t.nodes (n * t.stride) && pend t.nodes (n * t.stride)) || (far t.bias (4 * n) && pend t.bias (4 * n))
  match c.kind with
  | .desc _ _ _ _ _ _ t => need t
  | .dstep _ _ _ _ _ t => need t
  | _ => false

/-- An access of a path-trace register takes effect (11 R290). -/
def runQ (s : State) (cluster : Nat) (c : ECmd) : State :=
  let s' := onEng s cluster (fun e => { e with cmds := e.cmds.filter (fun x => decide (x.key ≠ c.key)) })
  match c.kind with
  | .qrd q row0 item line ts => giveLL s' c.gid c.key (qrdVec (qOf (engOf s cluster) q) row0 item line ts)
  | .qwr q row0 item ws =>
    let s := onEng s' cluster (fun e => putQ e q (qwrWords (qOf e q) row0 item ws))
    match groupOf s c.gid with
    | some g => if g.park = some (.qwr c.key) then wake s c.gid else s
    | none => s
  | _ => s'

/-- ENGINE_COMMAND (10 R254, 11 R290): an access of a path-trace register whose turn has come, or else the effect of the first
command of the queue. -/
def execEngineCommand (cluster : Nat) (s : State) : Host.Outcome State Fault Refusal :=
  let e := engOf s cluster
  match qReady e, headCmd e with
  | some c, _ => .next (runQ s cluster c)
  | none, some c =>
    if cmdReady s cluster c && !treeNeed s cluster c then
      let (s, c) := runCmd s cluster c
      .next (onEng s cluster (fun e => putCmd e { c with phase := 2, fail := c.fail.map (fun t => { t with at_ := some s.fcycles }) }))
    else .fault .notEnabled
  | none, none => .fault .notEnabled

/-! ### ASCEND's updates -/

/-- The node at a level of a row's path (11 R292). -/
def pathNode (recd : List W32) (l : Nat) : Nat := 2 ^ l - 1 + recPath recd / 2 ^ (recLvl recd - l)

/-- One update performed at its home (11 R292): G + g times x, rounded once, RNE. -/
def gradAt (s : State) (cluster : Nat) (c : ECmd) (va : Nat) (g x : W32) : Option (Option State) :=
  match translate s cluster none c.ctx va .wr with
  | (_, .error _) => some none
  | (s, .ok ph) => match ph.dev with
    | some d =>
      if !canSend s d ph.pa then none
      else
        let (id, s) := takeId s
        let r : Remote := { agentReq id d c.ctx c.launch true (.fma ph.pa g x) with
          cluster := cluster, core := c.core, team := c.team, copy := some c.key, va := some va, big := ph.big, page := leafPage ph.leaf }
        some (some (sendRemote s r ph.pa))
    | none =>
      if lineOwned s (ph.pa / 512) || (clusterFlight s cluster).any (fun r => (reqSectors r).contains (ph.pa / 128)) then none
      else if s.poison.contains (ph.pa / 128) then some none
      else
        let s := drainLine s (ph.pa / 512)
        let old := memNat s.mem ph.pa 4
        let v := (fFma fmtF32 rne (fDecode fmtF32 g.toNat) (fDecode fmtF32 x.toNat) (fDecode fmtF32 old)).1
        some (some (agentWrite s cluster (cmdOrigin s c (BitVec.ofNat 64 va)) (ph.leaf.getLsbD 54) (numCells ph.pa 4 v)))

/-- ASCEND_UPDATE (11 R292, R293): the next update of the running ASCEND, elements in ascending order and then the bias. -/
def execAscendUpdate (cluster : Nat) (s : State) : Host.Outcome State Fault Refusal :=
  let e := engOf s cluster
  match headCmd e with
  | none => .fault .notEnabled
  | some c => match c.kind, c.todo with
    | .ascend q _ _ _ gb bb t, (r, l, k) :: rest =>
      let recd := recOf (qOf e q) r
      let n := pathNode recd l
      let g := recd.getD (1 + l) 0
      let bias := decide (k = t.k)
      let va := if bias then bb.getD 0 + 4 * n else gb + 4 * t.k * n + 4 * k
      let x : W32 := if bias then 0x3F800000
        else BitVec.ofNat 32 (f32Bits ((rowVals t.ty t.k ((aRows c).getD r [])).getD k (.fin false 0 0)))
      let last := decide (k + 1 = t.k + (if bb.isSome then 1 else 0))
      match gradAt s cluster c va g x with
      | none => .fault .notEnabled
      | some none => .next (ascendStop s cluster c va)
      | some (some s) =>
        .next (onEng s cluster (fun e => putCmd e { c with todo := if last then rest else (r, l, k + 1) :: rest }))
    | _, _ => .fault .notEnabled

/-! ### Retiring -/

/-- The words that DESC.sp writes (11 R287). -/
def spWords (ws : List W32) (mask : TMask) (m : Nat) : List W32 :=
  (List.range m).map (fun r => if mask.getLsbD r then BitVec.ofNat 32 (recPath (recOf ws r)) else 0xFFFFFFFF)

/-- The scratchpad output of a DESC that retires (11 R287): the choices that the descent has come to; after a failure each word is the old
or that new one (11 R294). -/
def retireSp (s : State) (c : ECmd) : State :=
  match c.kind with
  | .desc _ _ _ mask m (some off) _ =>
    let new := spWords c.outw mask m
    let old := (List.range m).map (fun i => BitVec.ofNat 32 (padWord (padBytes s c.team) off i))
    let (ws, s) := if c.fail.isSome then (mixWords s.freeCtr old new, { s with freeCtr := s.freeCtr + m }) else (new, s)
    onTeam s c.team (fun t => { t with scratch := memPut t.scratch off (ws.flatMap (fun w => natLE 4 w.toNat)) })
  | _ => s

/-- The passes of a command, which MSTAT item 2 counts (10 R263, R275): an MMA is one, and each level of a descent. -/
def CmdK.passes : CmdK → Nat
  | .mma _ _ _ _ _ _ _ _ _ _ => 1
  | .desc _ _ _ _ _ _ t => t.depth
  | .dstep _ _ _ _ _ _ => 1
  | _ => 0

/-- COMMAND_RETIRE (10 R254): the first command whose effects are complete leaves the queue, and reports. -/
def execCommandRetire (cluster : Nat) (s : State) : Host.Outcome State Fault Refusal :=
  match headCmd (engOf s cluster) with
  | none => .fault .notEnabled
  | some c =>
    if !cmdDone s c then .fault .notEnabled
    else
      let s := retireSp s c
      let s := { s with rgot := s.rgot.filter (fun x => decide (x.id ≠ c.key)) }
      let s := onEng s cluster (fun e =>
        let e := { e with cmds := e.cmds.filter (fun x => decide (x.key ≠ c.key)) }
        addStat e 2 c.kind.passes)
      .next (if c.kind = .unbind then s else cmdReport s cluster c)

end Sys2Proof.Machine
end

