-- ==== Sys2Proof/Machine/Spawn.lean ====
section
/-! DEFINITION. New groups (05 R103, R111) and spawn bins (06 R137 to R142). -/

namespace Sys2Proof.Machine

/-- A group as it is created, before it has its frame and slot (05 R103, 06 R115): s0 holds ARGS, everything else zero. -/
def freshGroup (id ctx : Nat) (launch : Option Nat) (team idx width nregs lane : Nat) (pc s0 : W64) : Group :=
  { id := id, ctx := ctx, launch := launch, team := team, idx := idx, width := width, nregs := nregs, lane := lane,
    hslot := false, birth := 0, pass := 0, yielded := false, st := .pending, halted := false, park := none, saving := false,
    pc := BitVec.ofNat 64 (va57 pc), pos := 0, atHdr := true, fresh := true, checked := false, refetch := false, clause := [],
    transfer := none, active := widthMask width, stack := [], s := s0 :: List.replicate 63 0, a := List.replicate 16 0,
    mB := List.replicate 16 0, mL := List.replicate 16 0, p := List.replicate 7 0, flags := 0, flagen := 0, rmode := 0,
    liveIdx := 0, live := [], frame := 0, slot := 0, budget := 0, left := 0, deadline := 0, issued := 0, held := 0, handler := false,
    remain := none, win := [], lines := [], ll := [], coal := [], fifo := [], seq := 0, pendTrap := none, mwFlags := 0,
    mwFault := none, fullSave := false, after := [] }

/-- The lane of a group of a team (05 R111): index mod 16 on its core, mod 32 on a core pair. -/
def laneOf (t : Team) (idx : Nat) : Nat := 16 * t.core + idx % (if t.paired then 32 else 16)

/-- The lowest index at or above a count that no live group of the team holds, modulo 65,536 (06 R139); the fuel bounds the
search. -/
def freeIdx (s : State) (team : Nat) : Nat → Nat → Nat
  | 0, n => n % 65536
  | f + 1, n => if s.groups.any (fun g => decide (g.team = team) && decide (g.idx = n % 65536)) then freeIdx s team f (n + 1) else n % 65536

/-- The group of a bin (06 R139, R141): thread i holds the bin's i-th deposit in v0 and v1, the other threads are not
active; it waits in PENDING for what R115 names and for the stores of its depositors. -/
def binGroup (b : Bin) (t : Team) (l : Launch) (id idx : Nat) : Group :=
  let line := fun (r : Nat) (f : W32 × W32 → W32) =>
    (⟨r, (List.range l.recd.width).map (fun i => ((b.deps[i]?).map f).getD 0), true, 0, .general⟩ : Line)
  let g := freshGroup id t.ctx t.launch t.id idx l.recd.width l.recd.nregs (laneOf t idx) b.entry l.recd.args
  { g with active := maskOf (List.range b.deps.length), lines := [line 0 Prod.fst, line 1 Prod.snd], after := b.from_ }

/-- LaunchBin (06 R139): the bin is freed, and its owner team has one more group. -/
def launchBin (s : State) (cluster : Nat) (b : Bin) : State :=
  let s := onCluster s cluster (fun c => { c with bins := c.bins.filter (fun x => decide (x.num ≠ b.num)) })
  match teamOf s b.owner, launchOf s b.launch with
  | some t, some l =>
    let (id, s) := takeId s
    let idx := freeIdx s t.id (s.groups.length + 1) l.recd.groups
    { s with groups := s.groups ++ [binGroup b t l id idx] }
  | _, _ => s

/-- Bins launched in ascending bin number (06 R139, R142). -/
def launchBins (s : State) (cluster : Nat) (p : Bin → Bool) : State :=
  (List.range 64).foldl (fun s n => match (clusterAt s cluster).bins.find? (fun b => decide (b.num = n)) with
    | some b => if p b then launchBin s cluster b else s
    | none => s) s

/-- The lowest-numbered free bin (06 R137). -/
def freeBin (s : State) (cluster : Nat) : Option Nat :=
  (List.range 64).find? (fun n => !(clusterAt s cluster).bins.any (fun b => decide (b.num = n)))

/-- The bin that a full table launches (06 R140): of the earliest start, then of the lowest number. -/
def oldestBin (s : State) (cluster : Nat) : Option Bin :=
  (clusterAt s cluster).bins.foldl (fun m b => match m with
    | none => some b
    | some x => if b.start < x.start ∨ (b.start = x.start ∧ b.num < x.num) then some b else some x) none

/-- The key that a thread's deposit names (06 R137): launch, entry, 16 bits, and in replay mode the team and the group. -/
structure BinKey where
  launch : Nat
  entry  : W64
  key    : Nat
  replay : Option (Nat × Nat)
  deriving DecidableEq, Repr

/-- Whether a bin has a key. -/
def Bin.hasKey (b : Bin) (k : BinKey) : Bool :=
  decide (b.launch = k.launch) && decide (b.entry = k.entry) && decide (b.key = k.key) && decide (b.replay = k.replay)

/-- The key of one thread's deposit. -/
def depositKey (s : State) (g : Group) (entry : W64) (p t : Nat) : BinKey :=
  ⟨g.launch.getD 0, entry, (readV s g (p + 2) t).toNat % 65536, if isReplay s g.ctx then some (g.team, g.idx) else none⟩

/-- A payload appended to a bin, which launches where it is full (06 R138). -/
def appendBin (s : State) (g : Group) (b : Bin) (pay : W32 × W32) : State :=
  let b := { b with deps := b.deps ++ [pay], from_ := b.from_.filter (fun x => decide (x.1 ≠ g.id)) ++ [(g.id, g.seq)] }
  let s := onCluster s g.cluster (fun c => { c with bins := c.bins.filter (fun x => decide (x.num ≠ b.num)) ++ [b] })
  if g.width ≤ b.deps.length then launchBin s g.cluster b else s

/-- One deposit (06 R138, R140); none where the full table of replay mode has no bin for it. The n-th deposit of a SPAWN is
made n lane cycles after its first. -/
def deposit (s : State) (g : Group) (entry : W64) (p timer n t : Nat) : Option State :=
  let k := depositKey s g entry p t
  let pay := (readV s g p t, readV s g (p + 1) t)
  let fresh := fun (num : Nat) =>
    (⟨num, k.launch, k.entry, k.key, k.replay, g.team, timer, cyclesOf s g.cluster + n, [], []⟩ : Bin)
  match (clusterAt s g.cluster).bins.find? (fun b => b.hasKey k) with
  | some b => some (appendBin s g b pay)
  | none =>
    match freeBin s g.cluster with
    | some num => some (appendBin s g (fresh num) pay)
    | none =>
      if k.replay.isSome then none
      else (oldestBin s g.cluster).map (fun b => appendBin (launchBin s g.cluster b) g (fresh b.num) pay)

/-- The deposits of threads in ascending order, up to one that finds no bin; the threads left (06 R138, R140). -/
def deposits (g : Group) (entry : W64) (p timer : Nat) : List Nat → Nat → State → State × List Nat
  | [], _, s => (s, [])
  | t :: ts, n, s => match deposit s g entry p timer n t with
    | some s => deposits g entry p timer ts (n + 1) s
    | none => (s, t :: ts)

/-- The state after the deposits: the group parks with the threads that found no bin (06 R140). -/
def spawnFrom (s : State) (g : Group) (entry : W64) (p timer : Nat) (ts : List Nat) : State :=
  match deposits g entry p timer ts 0 s with
  | (s, []) => s
  | (s, rest) => setGroup s (parkGroup s g (.spawn entry p timer (maskOf rest)))

/-- SPAWN (06 R138): the entry address is checked before any deposit. (In an activation, which has no launch, the word is
illegal, illegalHere.) -/
def execSpawn (h : Hd) (f : CF) (s : State) : Host.Outcome State Fault Refusal :=
  runInstr (.spawn h f) s (fun g s =>
    if !wideActs g h then .done s
    else
      let entry := va57 (g.s.getD f.sdesc.toNat 0)
      let bad := { trapC 0x0F 0 with addr := BitVec.ofNat 64 entry }
      if entry % 8 ≠ 0 then .trap s bad
      else match translate s g.cluster (some g.core) g.ctx entry .fetch with
        | (s, .error _) => .trap s bad
        | (s, .ok _) => .done (spawnFrom s g (BitVec.ofNat 64 entry) (f.fl 0 11) (1024 * 2 ^ f.asrc.toNat)
            (threads (predMask g (f.fl 11 3) &&& g.active))))

/-- A SPAWN that waits for a bin goes on when one is freed (06 R140): none while the table is full. -/
def spawnResume (s : State) (g : Group) : Option State :=
  match g.park with
  | some (.spawn entry p timer rest) =>
    if (freeBin s g.cluster).isNone then none
    else match deposits g entry p timer (threads rest) 0 s with
      | (s, []) => some (wake s g.id)
      | (s, left) => some (onGroup s g.id (fun g => { g with park := some (.spawn entry p timer (maskOf left)) }))
  | _ => none

/-- BINFL of either form (06 R142). -/
def binflOp (i : Instr) (h : Hd) (p : Group → Bin → Bool) (s : State) : Host.Outcome State Fault Refusal :=
  runInstr i s (fun g s =>
    if g.launch.isNone then .trap s illegal
    else if !wideActs g h then .done s
    else .done (launchBins s g.cluster (fun b => decide (some b.launch = g.launch) &&
      (!isReplay s g.ctx || decide (b.replay = some (g.team, g.idx))) && p g b)))

/-- BINFL (06 R142). -/
def execBinfl (h : Hd) (f : CF) (s : State) : Host.Outcome State Fault Refusal :=
  binflOp (.binfl h f) h (fun g b => decide (b.entry = BitVec.ofNat 64 (va57 (g.s.getD f.sdesc.toNat 0)))) s
/-- BINFL.all (06 R142). -/
def execBinflAll (h : Hd) (f : CF) (s : State) : Host.Outcome State Fault Refusal :=
  binflOp (.binflAll h f) h (fun _ _ => true) s

/-- Whether the timer of a bin has expired (06 R139); in replay mode it never does (04 R96). -/
def binDue (s : State) (cluster : Nat) (b : Bin) : Bool :=
  b.replay.isNone && decide (b.start + b.timer ≤ cyclesOf s cluster)

/-- BIN_TIMER_EXPIRE (06 R139). -/
def execBinTimerExpire (cluster bin : Nat) (s : State) : Host.Outcome State Fault Refusal :=
  onSome ((clusterAt s cluster).bins.find? (fun b => decide (b.num = bin))) (fun b =>
    if binDue s cluster b then .next (launchBin s cluster b) else .fault .notEnabled)

end Sys2Proof.Machine
end

