-- ==== Sys2Proof/Machine/Life.lean ====
section
/-! DEFINITION. The life of a launch, its teams and its groups: the launch record and its checks (05 R101, R102, R105, R109),
grants (04 R82), the backing area and the save slots (04 R84, R85, 16 R386), placement (05 R107 to R111, 06 R134), creation
and retirement (06 R115, R132), completion (05 R106), and the notification handler (04 R91, R92). -/

namespace Sys2Proof.Machine

/-! ### The launch record -/

/-- The fields of a launch record, from its 8-byte words (05 R101). -/
def readRec (w : Nat → Nat) : LRec :=
  { entry := BitVec.ofNat 64 (va57 (BitVec.ofNat 64 (w 0))), livebase := BitVec.ofNat 64 (w 1 % 2 ^ 57), tags := bits (w 2) 43 7,
    nregs := bits (w 2) 32 11 + 1, nlive := bits (w 2) 20 12, span := bits (w 2) 16 4, replay := (w 2).testBit 11,
    persist := (w 2).testBit 10, fuse := (w 2).testBit 9, paired := (w 2).testBit 8, groups := bits (w 2) 2 6 + 1,
    width := 16 * 2 ^ (w 2 % 4), scratch := bits (w 3) 32 8, teams := bits (w 3) 0 24, maxw := bits (w 4) 20 16,
    fmin := bits (w 4) 4 16, boost := (w 4).testBit 3, opclass := bits (w 4) 0 3,
    copybase := BitVec.ofNat 64 (w 5 % 2 ^ 57), nregion := bits (w 6) 32 4, donectr := bits (w 6) 16 16,
    ncopy := bits (w 6) 0 13, args := BitVec.ofNat 64 (w 7),
    regions := (List.range (bits (w 6) 32 4)).map (fun i => (w (16 + 2 * i), w (17 + 2 * i))) }

/-- A region of a launch record that is malformed: in use, or required to be zero (05 R101). -/
def regionBad (w : Nat → Nat) (n i : Nat) : Bool :=
  let b := w (16 + 2 * i)
  let l := w (17 + 2 * i)
  if i < n then decide (b / 2 ^ 57 ≠ 0) || decide (b % 512 ≠ 0) || decide (l / 2 ^ 40 ≠ 0) || decide (l % 512 ≠ 0)
  else decide (b ≠ 0) || decide (l ≠ 0)

/-- Whether a launch record is malformed by its own fields (05 R101). -/
def recFieldsBad (w : Nat → Nat) : Bool :=
  let r := readRec w
  decide (w 0 / 2 ^ 57 ≠ 0) || decide (w 0 % 8 ≠ 0) || decide (w 1 / 2 ^ 57 ≠ 0) ||
    (decide (r.nlive ≠ 0) && decide (w 1 % 128 ≠ 0)) || decide (w 2 / 2 ^ 50 ≠ 0) || decide (bits (w 2) 12 4 ≠ 0) ||
    decide (64 < r.tags) || decide (w 2 % 4 = 3) || decide (w 3 / 2 ^ 40 ≠ 0) || decide (bits (w 3) 24 8 ≠ 0) ||
    decide (48 < r.scratch) || decide (r.teams = 0) || decide (w 4 / 2 ^ 36 ≠ 0) || decide (2400 < r.maxw) ||
    (decide (r.fmin ≠ 0) && (decide (r.fmin < 1200) || decide (4400 < r.fmin))) || decide (w 5 / 2 ^ 57 ≠ 0) ||
    (decide (r.ncopy ≠ 0) && decide (w 5 % 16 ≠ 0)) || decide (w 6 / 2 ^ 36 ≠ 0) || decide (bits (w 6) 13 3 ≠ 0) ||
    decide (8 < r.nregion) || decide (4096 < r.ncopy) || (List.range 7).any (fun i => decide (w (9 + i) ≠ 0)) ||
    (List.range 8).any (regionBad w r.nregion)

/-- Whether every page of a range can be read by a context. -/
def rangeReads (s : State) (ctx va len : Nat) : Bool :=
  decide (len = 0) || (pagesOf va len).all (fun p => match peek s ctx p .rd with
    | .ok _ => true
    | .error _ => false)

/-- The entries of a copy plan, from their bytes: the address of the descriptor, and the word of stage and tag (05 R104). -/
def planWords (bs : List Byte) (n : Nat) : List (Nat × Nat) := (List.range n).map (fun i => (va57 (wAt bs (16 * i)), (wAt bs (16 * i + 8)).toNat))

/-- Whether a copy plan is sound: its reserved bits are zero, its tags are the team's, its stages never decrease (05 R102,
R104). -/
def planOk (r : LRec) (ws : List (Nat × Nat)) : Bool :=
  ws.all (fun w => decide (w.2 / 2 ^ 22 = 0) && decide (bits w.2 16 6 < r.tags)) &&
    (ws.zip ws.tail).all (fun x => decide (x.1.2 % 65536 ≤ x.2.2 % 65536))

/-- A plan as its teams replay it: descriptor, stage, tag. -/
def planOf (ws : List (Nat × Nat)) : List (Nat × Nat × Nat) := ws.map (fun w => (w.1, w.2 % 65536, bits w.2 16 6))

/-- The bytes of a group frame (04 R84). -/
def frameSize (width nregs : Nat) : Nat := (nregs + 64) * 4 * width
/-- The bytes of a team save area (16 R386). -/
def areaSize (scratch : Nat) : Nat := 192 * 1024 + 16384 * scratch
/-- The backing area that groups may use: from its start to its end (04 R85, R91). -/
def backing (r : CRec) : Nat × Nat := (r.rbase + frameSize 16 r.nregs, r.rbase + 65536 * r.rsize)

/-- The cores, or even cores of pairs, of a context's partition on a die (05 R102, R111). -/
def dieCores (s : State) (ctx : Nat) (paired : Bool) (die : Nat) : List Nat :=
  (List.range 576).filter (fun c => decide (dieOf (c / 4) = die) && inPart s ctx (c / 4) && (!paired || decide (c % 2 = 0)))

/-- Whether the launch asks for more than the context can ever give (04 R85, 16 R386, 05 R102). -/
def recExceeds (s : State) (ctx : Nat) (r : LRec) : Bool :=
  match ctxRec s ctx with
  | none => true
  | some c =>
    let (lo, hi) := backing c
    decide (hi - lo < r.groups * frameSize r.width r.nregs + areaSize r.scratch) || decide (c.nslot - 1 < r.groups) ||
      (List.range 9).all (fun d => decide ((dieCores s ctx r.paired d).length < r.span + 1))

/-- The check of a popped launch (05 R102, R105): the cause for which it fails, in the order malformed, replay-required,
persistent-duplicate, resource-exceeded; none stands for a plan that cannot be read. -/
def launchBad (s : State) (ctx : Nat) (entryBad : Bool) (w : Nat → Nat) (plan : Option (List (Nat × Nat))) : Option Nat :=
  let r := readRec w
  if entryBad || recFieldsBad w || (decide (r.span ≠ 0) && decide (r.teams % (r.span + 1) ≠ 0)) ||
      !rangeReads s ctx r.livebase.toNat (128 * r.nlive) || !rangeReads s ctx r.copybase.toNat (16 * r.ncopy) || !(plan.map (planOk r)).getD false then some 0x41
  else if r.replay && !isReplay s ctx then some 0x42
  else if r.persist && s.launches.any (fun l => decide (l.ctx = ctx) && l.recd.persist && decide (l.recd.entry = r.entry)) then some 0x43
  else if recExceeds s ctx r then some 0x40
  else none

/-! ### Completion -/

/-- STATUS written at the record's physical place (05 R101): of a record on a page of another device, over its link. -/
def putStatus (s : State) (l : Launch) (v : Nat) : State :=
  match l.recPA, l.recDev with
  | some pa, none =>
    let s := drainLine s ((pa + 0x40) / 512)
    { s with mem := memPut s.mem (pa + 0x40) (natLE 8 v) }
  | some pa, some d =>
    sendBytes s d l.ctx (some l.id) l.recPage none (pa + 0x40) (natLE 8 v)
  | none, _ => s

/-- The STATUS of a launch that ends (05 R101). -/
def endStatus (s : State) (l : Launch) : Nat :=
  (if l.cause.isSome then 3 else 2) + 2 ^ 8 * l.cause.getD 0 + 2 ^ 16 * (s.fcycles % 2 ^ 48)

/-- The completion sequence of a launch whose work is done (05 R106): STATUS, where it has not been sent before, DONECTR, the
event. -/
def finishLaunch (s : State) (l : Launch) : State :=
  let s := if l.told then s else putStatus s l (endStatus s l)
  let s := compDec s l.ctx l.recd.donectr (some l.id)
  let s := raiseEvent s l.ctx (if l.cause.isSome then 1 else 0)
  { s with launches := s.launches.filter (fun x => decide (x.id ≠ l.id)) }

/-- The class granted where a class is asked for (04 R82). -/
def grantClass (classes c : Nat) : Nat :=
  if classes.testBit c then c
  else match ((List.range c).filter (fun i => classes.testBit i)).getLast? with
    | some i => i
    | none => ((List.range 8).find? (fun i => classes.testBit i)).getD 0

/-- A launch with its requests reduced to the grant (04 R82), and which of them were: bit 0 class, 1 frequency, 2 power,
3 boost. -/
def grantLaunch (l : Launch) (grant : Nat) : Launch × Nat :=
  let cls := grantClass (bits grant 0 8) l.recd.opclass
  let maxw := bits grant 8 16
  let fmin := bits grant 24 16
  let bad := [decide (cls ≠ l.recd.opclass), decide (fmin < l.recd.fmin), decide (maxw < l.recd.maxw),
    l.recd.boost && !grant.testBit 40]
  let n := ((List.range 4).map (fun i => if bad.getD i false then 2 ^ i else 0)).foldl (· + ·) 0
  ({ l with cls := cls, fmin := min l.recd.fmin fmin, maxw := if l.recd.maxw = 0 then maxw else min l.recd.maxw maxw,
            boost := l.recd.boost && grant.testBit 40 }, n)

/-- The dispatchers of a context as they read over links. -/
def dispatchers (ctx : Nat) : Who := ⟨2 ^ 41 + ctx, ctx, 144, 0⟩

/-- The words of a record from its bytes. -/
def recWord (bs : List Byte) (i : Nat) : Nat := (wAt bs (8 * i)).toNat

/-- What the dispatchers find at a popped entry (05 R101): the place of the record, none where it does not translate; its bytes,
none where a sector of it is poisoned; the entries of its copy plan, none where they cannot be read. A record that is not
aligned has a place and bytes as well. -/
structure Popped where
  place : Option Phys
  bytes : Option (List Byte)
  plan  : Option (List (Nat × Nat))
  deriving DecidableEq, Repr

/-- The reading of a popped entry (05 R101, R102, 15 R361), or the line of another device that has still to come. -/
def readPopped (s : State) (ctx : Nat) (e : QEntry) : State × Except (Nat × Nat) Popped :=
  let va := va57 (wAt e.bytes 0)
  let got := fun (r : Except CErr (List Byte)) => match r with
    | .ok bs => Except.ok (some bs)
    | .error (.need d l) => Except.error (d, l)
    | .error _ => Except.ok none
  match translate s 144 none ctx va .rd with
  | (s, .error _) => (s, .ok ⟨none, none, none⟩)
  | (s, .ok ph) =>
    match got (placeBytes s (dispatchers ctx).id 144 ph va (min 256 (65536 - va % 65536))) with
    | .error x => (s, .error x)
    | .ok none => (s, .ok ⟨some ph, none, none⟩)
    | .ok (some bs) =>
      let r := readRec (recWord bs)
      if recFieldsBad (recWord bs) then (s, .ok ⟨some ph, some bs, none⟩)
      else
        let s := if r.ncopy = 0 then s
          else (pagesOf r.copybase.toNat (16 * r.ncopy)).foldl (fun s p => (translate s 144 none ctx p .rd).1) s
        match got (if r.ncopy = 0 then .ok [] else readBytes s (dispatchers ctx) r.copybase.toNat (16 * r.ncopy)) with
        | .error x => (s, .error x)
        | .ok o => (s, .ok ⟨some ph, some bs, o.map (fun ws => planWords ws r.ncopy)⟩)

/-- The head of the launch queue with its bytes: read now, where its slot lies in a page of another device (04 R87, 17 R402), or the line
that has still to come. -/
def headEntry (s : State) (ctx : Nat) (q : Queue) (e : QEntry) : State × Except (Nat × Nat) QEntry :=
  if e.bytes ≠ [] then (s, .ok e)
  else
    let va := va57 (BitVec.ofNat 64 (q.store + 64 * (e.seq % q.cap)))
    ((translate s 144 none ctx va .rd).1, match readBytes s (dispatchers ctx) va 64 with
      | .ok bs => .ok { e with bytes := bs }
      | .error (.need d l) => .error (d, l)
      | .error _ => .ok { e with bytes := List.replicate 64 255 })

/-- The head of the launch queue and what it leads to. -/
def readHead (s : State) (ctx : Nat) (q : Queue) (e : QEntry) : State × Except (Nat × Nat) (QEntry × Popped) :=
  match headEntry s ctx q e with
  | (s, .error x) => (s, .error x)
  | (s, .ok e) => ((readPopped s ctx e).1, (readPopped s ctx e).2.map (fun x => (e, x)))

/-- Whether the entry itself, or the place of its record, makes a launch malformed (04 R87, 05 R101). -/
def entryBad (e : QEntry) (x : Popped) : Bool :=
  x.bytes.isNone || decide (va57 (wAt e.bytes 0) % 256 ≠ 0) || (e.bytes.drop 16).any (fun b => decide (b ≠ 0))

/-- A popped entry: the launch is checked, and placed from now on or failed (05 R105, R107, 04 R87). What a poisoned record would
say of DONECTR is not known, and none is decremented for it (assumption 65). -/
def popLaunch (s : State) (ctx : Nat) (e : QEntry) (x : Popped) : State :=
  let w := recWord (x.bytes.getD [])
  let bad := launchBad s ctx (entryBad e x) w x.plan
  let (id, s) := takeId s
  let r := readRec w
  let l : Launch := { id := id, ctx := ctx, lid := wAt e.bytes 8, recPA := x.place.map (fun p => p.pa), recd := r, st := .checking, next := 0,
                      cause := none, cls := r.opclass, fmin := r.fmin, maxw := r.maxw, boost := r.boost, waited := s.fcycles,
                      recDev := x.place.bind (fun p => p.dev), plan := planOf (x.plan.getD []),
                      recPage := ((x.place.map (fun p => leafPage p.leaf)).getD ⟨false, 0, 0⟩) }
  let grant := ((ctxRec s ctx).map (fun (c : CRec) => c.grant.toNat)).getD 0
  match bad with
  | some cause =>
    let s := faultRecord { s with launches := s.launches ++ [l] } { ctx := ctx, launch := some id } true cause 0
    let l := { l with cause := some cause, st := .failing }
    if l.recDev.isSome then onLaunch s id (fun _ => l) else finishLaunch s l
  | none =>
    let (l, n) := grantLaunch { l with st := .placing } grant
    let s := { s with launches := s.launches ++ [l] }
    let s := putStatus s l (w 8 / 4 * 4 + 1)
    if n = 0 then s else notify s ctx 3 l.lid.toNat n

/-- Whether a launch of a context is still placing (05 R107). -/
def isPlacing (s : State) (ctx : Nat) : Bool := s.launches.any (fun l => decide (l.ctx = ctx) && decide (l.st = .placing))

/-- LAUNCH_POP (05 R105, R107): the dispatchers take the head of the launch queue, whose pusher's stores they wait for
(12 R303), and the entry is DONE (12 R301); a record on a page of another device is asked for first. -/
def execLaunchPop (ctx : Nat) (s : State) : Host.Outcome State Fault Refusal :=
  onSome (s.contexts[ctx]?) (fun c =>
    onSome (sysQueue s ctx 1) (fun q =>
      match queueHead s q with
      | none => .fault .notEnabled
      | some e =>
        if c.st ≠ .active ∨ isPlacing s ctx ∨ !stampsMet s e.stamps then .fault .notEnabled
        else match readHead s ctx q e with
          | (s, .error (d, line)) => match askLine s (dispatchers ctx) none 0x3FF d line with
            | some s => .next s
            | none => .fault .notEnabled
          | (s, .ok (e, x)) =>
            let s := compDec (serveQueue (putQueue s (claimEntry q e 0 false)) q.pa) ctx q.doneCtr none
            .next (popLaunch (dropGot s (dispatchers ctx).id) ctx e x)))

/-! ### Frames, slots and save areas -/

/-- A number rounded up to a multiple. -/
def alignUp (n a : Nat) : Nat := (n + a - 1) / a * a

/-- The lowest place in the backing area for a size (DESIGN CHOICE, assumption 30). -/
def allocAt (s : State) (ctx align size : Nat) : Option Nat :=
  match s.contexts[ctx]?, ctxRec s ctx with
  | some c, some r =>
    let (lo, hi) := backing r
    let fits := fun (a : Nat) => decide (a + size ≤ hi) && c.alloc.all (fun x => decide (x.1 + x.2 ≤ a) || decide (a + size ≤ x.1))
    (((lo :: c.alloc.map (fun x => x.1 + x.2)).map (fun a => alignUp a align)).filter fits).min?
  | _, _ => none

/-- A part of the backing area taken. -/
def takeArea (s : State) (ctx align size : Nat) : Option (Nat × State) :=
  (allocAt s ctx align size).map (fun a => (a, onCtx s ctx (fun c => { c with alloc := (a, size) :: c.alloc })))

/-- A part of the backing area released. -/
def dropArea (s : State) (ctx a : Nat) : State := onCtx s ctx (fun c => { c with alloc := c.alloc.filter (fun x => decide (x.1 ≠ a)) })

/-- The lowest free save slot taken (04 R85, R86). -/
def takeSlot (s : State) (ctx : Nat) : Option (Nat × State) :=
  match s.contexts[ctx]?, ctxRec s ctx with
  | some c, some r =>
    match (List.range (r.nslot - 1)).find? (fun n => !c.slots.contains n) with
    | some n => some (n, onCtx s ctx (fun c => { c with slots := n :: c.slots }))
    | none => none
  | _, _ => none

/-- A frame and a slot reserved for a group: both, or neither (04 R85). -/
def reserve (s : State) (ctx width nregs : Nat) : Option ((Nat × Nat) × State) :=
  match takeArea s ctx (4 * width) (frameSize width nregs) with
  | none => none
  | some (a, s) => (takeSlot s ctx).map (fun x => ((a, x.1), x.2))

/-- A frame filled with zeros (06 R115); none where its memory cannot be written. -/
def zeroFrame (s : State) (cluster ctx va len : Nat) : Option State :=
  (pagesOf va len).foldl (fun o p => o.bind (fun s => match translate s cluster none ctx p .wr with
    | (s, .ok ph) => if ph.dev.isSome then none else
        some { s with mem := memClear s.mem ph.pa (min (va + len) (p / 65536 * 65536 + 65536) - p) }
    | (_, .error _) => none)) (some s)

/-- A group created from what it was given (06 R115): its frame is zeroed, it gets its creation number and is READY; where
its frame cannot be written, a backing-fault stops it (04 R86). -/
def startGroup (s : State) (g : Group) (frame slot : Nat) : State :=
  let g := { g with frame := BitVec.ofNat 64 frame, slot := slot, birth := s.birth, st := .ready, after := [] }
  let s := setGroup { s with birth := s.birth + 1 } g
  match zeroFrame s g.cluster g.ctx frame (frameSize g.width g.nregs) with
  | some s => s
  | none => stopGroup s g true 0x44 0 (BitVec.ofNat 64 frame)

/-! ### Placement -/

/-- Whether a team holds its core or pair: not while it is saved. -/
def Team.onCore (t : Team) : Bool := decide (t.st ≠ .pending) && (decide (t.st ≠ .saved) || t.back)
/-- The cores of a team. -/
def Team.cores (t : Team) : List Nat := if t.paired then [t.core, t.core + 1] else [t.core]

/-- The groups that hold a slot of a lane, but for those of some teams (05 R111, 06 R115). -/
def laneUsed (s : State) (skip : Team → Bool) (lane : Nat) : Nat :=
  (s.groups.filter (fun g => decide (g.lane = lane) && decide (g.st ≠ .pending) && !g.hslot &&
    (match teamOf s g.team with
      | some t => t.onCore && !skip t
      | none => false))).length

/-- What a team needs of a core (05 R111). -/
structure Need where
  ctx     : Nat
  paired  : Bool
  fuse    : Bool
  scratch : Nat
  groups  : List Nat
  deriving DecidableEq, Repr

/-- What a team of a launch needs when it is placed. -/
def launchNeed (l : Launch) : Need := ⟨l.ctx, l.recd.paired, l.recd.fuse, l.recd.scratch, List.range l.recd.groups⟩

/-- Whether a core, the even one of a pair, has what a team needs where some teams are disregarded (05 R111, R102). Whether the
activation of a notification handler counts as a resident team of its cluster for fusion, and as a resident group in the choice of a
core (coreLoad), the spec leaves open: it counts as neither (assumption 76). -/
def coreFits (s : State) (skip : Team → Bool) (n : Need) (core : Nat) : Bool :=
  let here := s.teams.filter (fun t => t.onCore && !skip t && t.launch.isSome)
  let units := ((here.filter (fun t => decide (t.core = core))).map (fun t => t.size / 16384)).foldl (· + ·) 0
  let lanes := if n.paired then 32 else 16
  inPart s n.ctx (core / 4) && (!n.paired || decide (core % 2 = 0)) && decide (units + n.scratch ≤ 48) &&
    here.all (fun t => decide (t.core / 4 ≠ core / 4) || decide (t.fused = n.fuse)) &&
    (List.range lanes).all (fun i =>
      decide (laneUsed s skip (16 * core + i) + (n.groups.filter (fun g => decide (g % lanes = i))).length ≤ 8))

/-- The resident groups of a core or pair (05 R111). -/
def coreLoad (s : State) (skip : Team → Bool) (paired : Bool) (core : Nat) : Nat :=
  ((List.range (if paired then 32 else 16)).map (fun i => laneUsed s skip (16 * core + i))).foldl (· + ·) 0

/-- Cores in the order of choice (05 R111): the fewest resident groups first, then the lowest index. -/
def byLoad (s : State) (skip : Team → Bool) (paired : Bool) (cs : List Nat) : List Nat :=
  (sortBy (fun (a b : Nat × Nat) => decide (a.1 < b.1) || (decide (a.1 = b.1) && decide (a.2 ≤ b.2)))
    (cs.map (fun c => (coreLoad s skip paired c, c)))).map Prod.snd

/-- The core for a team (05 R111). -/
def pickCore (s : State) (skip : Team → Bool) (n : Need) (ok : Nat → Bool) : Option Nat :=
  (byLoad s skip n.paired ((List.range 576).filter (fun c => ok c && coreFits s skip n c))).head?

/-- The cores for the teams of a span, on the lowest die that has as many (05 R111). -/
def pickSpan (s : State) (skip : Team → Bool) (n : Need) (k : Nat) (ok : Nat → Bool) : Option (List Nat) :=
  (List.range 9).findSome? (fun d =>
    let cs := (dieCores s n.ctx n.paired d).filter (fun c => ok c && coreFits s skip n c)
    if cs.length < k then none else some ((byLoad s skip n.paired cs).take k))

/-- The L1 portion of a core after a change of its division (08 R178): the sectors that lie in units which it gives up are
dropped, and no set of the new division holds more than 8 lines (08 R186). -/
def shrinkL1 (s : State) (core old : Nat) : State :=
  let new := l1Units s core
  if old = new then s
  else onCore s core (fun c => { c with
    l1 := (c.l1.filter (fun x => decide (x.1 / 4 % (4 * old) < 4 * new) || decide (old ≤ new))).foldr (l1Insert new) [] })

/-- The L1 of a cluster that a fused team makes one: a portion keeps only the lines that it serves from then on (08 R187). -/
def fuseL1 (s : State) (cluster : Nat) : State :=
  if !isFused s cluster then s
  else (List.range 4).foldl (fun s i => onCore s (4 * cluster + i) (fun c =>
    { c with l1 := c.l1.filter (fun x => inPortion (4 * cluster + i) x.1) })) s

/-- What placing a team does to its cores before its first group issues: the lines of the launch's regions leave the L1s of
the cluster (05 R108), and each core fetches its code anew (05 R110). -/
def readyCores (s : State) (t : Team) (regions : List (Nat × Nat)) : State :=
  let s := (List.range 4).foldl (fun s i =>
    let k := t.core / 4 * 4 + i
    let hit := fun (sec : Nat) => regions.any (fun rg => inRegion s t.ctx rg none sec)
    onCore s k (fun c => { c with l1 := c.l1.filter (fun x => !hit x.1) })) s
  t.cores.foldl (fun s k => fenceCode s k none) s

/-- A team as it starts on a core (06 R132). -/
def freshTeam (id : Nat) (l : Launch) (index core save : Nat) : Team :=
  { id := id, ctx := l.ctx, launch := some l.id, index := index, core := core, paired := l.recd.paired, fused := l.recd.fuse,
    st := .resident, size := 16384 * l.recd.scratch, scratch := [], trapbase := 0, stage := 0, planNext := 0, tagbits := 0,
    tagerr := 0, tagrec := [], conv := [], bars := List.replicate 16 NBar.uninit, gslots := [], save := BitVec.ofNat 64 save,
    resetPend := false, preq := none, zsaved := 0, back := false, strm := [] }

/-- A group of a launch as dispatch makes it. -/
def launchGroup (id : Nat) (l : Launch) (t : Team) (idx : Nat) : Group :=
  freshGroup id l.ctx (some l.id) t.id idx l.recd.width l.recd.nregs (laneOf t idx) l.recd.entry l.recd.args

/-- A team started on a core, with its groups in PENDING in ascending index (06 R115, R132). -/
def startTeam (s : State) (l : Launch) (index core save : Nat) : State × Team :=
  let old := l1Units s core
  let (id, s) := takeId s
  let t := freshTeam id l index core save
  let s := fuseL1 (shrinkL1 { s with teams := s.teams ++ [t] } core old) (core / 4)
  let s := readyCores s t l.recd.regions
  let gs := (List.range l.recd.groups).map (fun i => launchGroup (s.nextId + i) l t i)
  ({ s with nextId := s.nextId + l.recd.groups, groups := s.groups ++ gs }, t)

/-- A launch with its next team index after a placement; with every team placed it is RUNNING (05 R105). -/
def advanceLaunch (s : State) (l : Launch) (n : Nat) : State :=
  onLaunch s l.id (fun x => { x with next := l.next + n, waited := s.fcycles,
                                     st := if x.st = .placing ∧ x.recd.teams ≤ l.next + n then .running else x.st })

/-- Whether a launch may place now (05 R105, R107, 04 R93). -/
def mayPlace (s : State) (l : Launch) : Bool :=
  decide (l.st = .placing) && decide (l.next < l.recd.teams) && decide (((s.contexts[l.ctx]?).map (fun c => c.st)) = some .active)

/-- The next team of a launch placed (05 R111, 06 R132); none where it must wait. -/
def placeTeam (s : State) (l : Launch) : Option State :=
  match pickCore s (fun _ => false) (launchNeed l) (fun _ => true), takeArea s l.ctx 65536 (areaSize l.recd.scratch) with
  | some core, some (save, s) => some (advanceLaunch (startTeam s l l.next core save).1 l 1)
  | _, _ => none

/-- TEAM_PLACE (05 R107, R111, 06 R132). -/
def execTeamPlace (launch : Nat) (s : State) : Host.Outcome State Fault Refusal :=
  onSome (launchOf s launch) (fun l =>
    if !mayPlace s l || decide (l.recd.span ≠ 0) then .fault .notEnabled
    else match placeTeam s l with
      | some s => .next s
      | none => .fault .notEnabled)

/-- The groups of a span's team created from their reservations, without waiting (06 R134). -/
def createAll (s : State) : List (Group × Nat × Nat) → State
  | [] => s
  | x :: xs => createAll (startGroup s x.1 x.2.1 x.2.2) xs

/-- The teams of a span started in index order, with everything reserved (06 R134): none where something is lacking. -/
def reserveSpan (l : Launch) : List (Nat × Nat) → State → Option (State × List (Group × Nat × Nat))
  | [], s => some (s, [])
  | x :: xs, s =>
    match takeArea s l.ctx 65536 (areaSize l.recd.scratch) with
    | none => none
    | some (save, s) =>
      let (s, t) := startTeam s l x.1 x.2 save
      let mine := s.groups.filter (fun g => decide (g.team = t.id))
      let got := mine.foldl (fun o g => o.bind (fun (y : State × List (Group × Nat × Nat)) =>
        (reserve y.1 l.ctx g.width g.nregs).map (fun z => (z.2, y.2 ++ [(g, z.1.1, z.1.2)])))) (some (s, []))
      match got with
      | none => none
      | some (s, gs) => (reserveSpan l xs s).map (fun z => (z.1, gs ++ z.2))

/-- The next span of a launch placed as one unit (05 R111, 06 R134). -/
def placeSpan (s : State) (l : Launch) : Option State :=
  let k := l.recd.span + 1
  match pickSpan s (fun _ => false) (launchNeed l) k (fun _ => true) with
  | none => none
  | some cores =>
    (reserveSpan l ((List.range k).map (fun i => (l.next + i, cores.getD i 0))) s).map (fun x =>
      advanceLaunch (createAll x.1 x.2) l k)

/-- SPAN_PLACE (05 R111, 06 R134). -/
def execSpanPlace (launch : Nat) (s : State) : Host.Outcome State Fault Refusal :=
  onSome (launchOf s launch) (fun l =>
    if !mayPlace s l || decide (l.recd.span = 0) then .fault .notEnabled
    else match placeSpan s l with
      | some s => .next s
      | none => .fault .notEnabled)

/-! ### Groups -/

/-- Whether every request of the depositors of a spawned group has been performed (06 R141). -/
def depositsDone (s : State) (g : Group) : Bool :=
  g.after.all (fun st => (reqsOf s st.1).all (fun r => decide (st.2 < r.seq)) &&
    s.remotes.all (fun r => decide (r.gid ≠ st.1) || decide (st.2 < r.seq) || !r.writes || r.copy.isSome))

/-- GROUP_CREATE (04 R85, R93, 06 R115): a PENDING group of a RESIDENT team of an ACTIVE context gets its frame, its save slot and a group
slot of its lane; a spawned group acquires at cluster scope (06 R141). -/
def execGroupCreate (gid : Nat) (s : State) : Host.Outcome State Fault Refusal :=
  onSome (groupOf s gid) (fun g =>
    let live := match teamOf s g.team with
      | some t => decide (t.st = .resident) && decide (((s.contexts[t.ctx]?).map (fun c => c.st)) = some .active)
      | none => false
    if g.st ≠ .pending ∨ !live ∨ switchHolds s g ∨ 8 ≤ laneUsed s (fun _ => false) g.lane ∨ !depositsDone s g then .fault .notEnabled
    else match reserve s g.ctx g.width g.nregs with
      | none => .fault .notEnabled
      | some ((frame, slot), s) =>
        let s := startGroup s g frame slot
        .next (if g.after = [] then s else l1Clear s g.core))

/-- The entries that a team claimed and has not done return READY (12 R301). -/
def abandonClaims (s : State) (t : Team) : State :=
  s.queues.foldl (fun s q =>
    let mine := q.ents.filter (fun e => decide (e.claimer = some t.id))
    match mine with
    | [] => s
    | _ =>
      let s := mine.foldl (fun s _ => faultRecord s
        { ctx := t.ctx, launch := t.launch, core := t.core, team := t.index } false 0x49 0) s
      match queueAt s q.pa with
      | none => s
      | some q => serveQueue (putQueue s { q with ents := q.ents.map (fun e => if e.claimer = some t.id then { e with claimer := none } else e) }) q.pa) s

/-- A team enters DRAINING (06 R132): it gives up the rein, as REINREL does (10 R255), its leave (18 R419), its claims
(12 R301); its streams end (09 R240). -/
def drainTeam (s : State) (t : Team) : State :=
  let c := t.core / 4
  let s := onTeam s t.id (fun t => { t with st := .draining })
  let s := if holdsRein (engOf s c) t.id then leaveRein s c t.id else leaveDrop s c (LeaveBy.ofTeam t.id)
  let s := abandonClaims s t
  t.cores.foldl (fun s k => onCore s k (fun x => { x with streams := x.streams.map (fun y =>
    if y.st ≠ .free ∧ y.team = t.id then { y with ending := true } else y) })) s

/-- A group released with its frame, save slot and group slot (06 R115); a failure that a command left for an MWAIT which it has not
made is recorded (10 R262, R274). -/
def releaseGroup (s : State) (g : Group) : State :=
  let s := match g.mwFault with
    | some t => faultRecord s { groupOrigin s g with addr := t.addr, at_ := t.at_ } true t.cause t.sub
    | none => s
  let s := { s with groups := s.groups.filter (fun x => decide (x.id ≠ g.id)), cur := if s.cur = some g.id then none else s.cur }
  if g.hslot then { s with teams := s.teams.filter (fun t => decide (t.id ≠ g.team)) }
  else onCtx (dropArea s g.ctx g.frame.toNat) g.ctx (fun c => { c with slots := c.slots.filter (fun n => decide (n ≠ g.slot)) })

/-- A team whose last group has retired launches its bins, on every cluster where it opened some, and drains where none held
threads (06 R132, R139). -/
def lastGroup (s : State) (team : Nat) : State :=
  let none_ := fun (s : State) => !s.groups.any (fun g => decide (g.team = team))
  match teamOf s team with
  | none => s
  | some t =>
    if t.st ≠ .resident ∨ !none_ s then s
    else
      let mine := fun (b : Bin) => decide (b.owner = team)
      let s := ((List.range s.clusters.length).filter (fun c => (clusterAt s c).bins.any mine)).foldl (fun s c => launchBins s c mine) s
      if none_ s then drainTeam s t else s

/-- GROUP_RETIRE (06 R115): a RETIRING group whose store FIFO is empty and whose results are written. -/
def execGroupRetire (gid : Nat) (s : State) : Host.Outcome State Fault Refusal :=
  onSome (groupOf s gid) (fun g =>
    if g.st ≠ .retiring ∨ g.coal ≠ [] ∨ g.fifo ≠ [] ∨ g.ll ≠ [] then .fault .notEnabled
    else .next (lastGroup (releaseGroup s g) g.team))

/-! ### The end of teams and launches -/

/-- The teams whose scratchpads a command reads or writes. -/
def CmdK.pads : CmdK → List Nat
  | .zld _ _ rows => rows.flatten.filterMap (fun p => match p.at_ with
    | .pad t _ => some t
    | .mem _ _ _ => none)
  | .zst _ _ rows => rows.flatten.filterMap (fun p => match p.at_ with
    | .pad t _ => some t
    | .mem _ _ _ => none)
  | _ => []

/-- Whether a request addresses the scratchpad of a team. -/
def Req.toPad (r : Req) (team : Nat) : Bool :=
  match r.kind with
  | .peer t _ => decide (t = team)
  | _ => false

/-- Whether a request is a store to a scratchpad. -/
def Req.isPeer (r : Req) : Bool :=
  match r.kind with
  | .peer _ _ => true
  | _ => false

/-- Whether copies, peer stores and engine commands addressed to a team's scratchpad, or issued by the team, are under way. -/
def teamWork (s : State) (t : Team) : Bool :=
  s.copies.any (fun x => decide (x.team = t.id) || (x.recvs.contains t.id && !x.served.contains t.id)) ||
    (s.flight ++ s.groups.flatMap ownReqs).any (fun r => r.toPad t.id || (r.isPeer && decide (r.team = t.id))) ||
    teamCmds s (t.core / 4) t.id ||
    s.clusters.any (fun x => (x.eng.cmds ++ x.eng.pend).any (fun k => k.kind.pads.contains t.id))

/-- Whether a copy has to do with the scratchpad of a team: it delivers there, or is the team's own and reads or writes it, or names a
peer by its span. -/
def padCopy (t : Team) (c : Copy) : Bool :=
  let window := fun (va : Nat) => decide (targetOf va ≠ .xlat)
  (decide (c.team = t.id) && (decide (c.kind = 1) || window c.src || (window c.dst && !c.cd.dstos))) ||
    (decide (c.team ≠ t.id) && c.recvs.contains t.id && !c.served.contains t.id)

/-- Whether work with a team's scratchpad is still under way (06 R132); the model also waits for what reads it, for the entry whose
commands name the team's tiles, and for its streams (assumption 31). -/
def teamBusy (s : State) (t : Team) : Bool :=
  s.copies.any (padCopy t) || (s.flight ++ s.groups.flatMap ownReqs).any (fun r => r.toPad t.id) ||
    s.clusters.any (fun x => (x.eng.cmds ++ x.eng.pend).any (fun k => k.kind.pads.contains t.id || (decide (k.kind = .unbind) && decide (k.team = t.id)))) ||
    (entOf (engOf s (t.core / 4)) t.id).isSome || t.cores.any (fun k => (coreAt s k).streams.any (fun y => decide (y.st ≠ .free) && decide (y.team = t.id)))

/-- A team retired: its scratchpad, barriers and tags go with it, its save area is released (06 R132, 16 R386), and the store of
its core is divided anew (08 R178). -/
def dropTeam (s : State) (t : Team) : State :=
  let old := l1Units s t.core
  shrinkL1 (dropArea { s with teams := s.teams.filter (fun x => decide (x.id ≠ t.id)) } t.ctx t.save.toNat) t.core old

/-- TEAM_RETIRE (06 R132). -/
def execTeamRetire (team : Nat) (s : State) : Host.Outcome State Fault Refusal :=
  onSome (teamOf s team) (fun t =>
    if t.st ≠ .draining ∨ teamBusy s t then .fault .notEnabled else .next (dropTeam s t))

/-- Whether work that a launch issued is still under way (05 R105): a team with groups, or one that has none yet; a DRAINING team may
retire later, and keeps its scratchpad, barriers and tags until then (06 R132). The discard of what a tenure left in the engine is work of
its launch as well (20 R437). A contribution that its slice holds for a predecessor has arrived
and counts as completed, which the spec leaves open (assumption 75). -/
def launchBusy (s : State) (l : Launch) : Bool :=
  let mine := fun (x : Option Nat) => decide (x = some l.id)
  s.teams.any (fun t => mine t.launch && decide (t.st ≠ .draining)) || s.copies.any (fun c => mine c.launch) || s.flight.any (fun r => mine r.launch) ||
    s.remotes.any (fun r => mine r.launch) || s.fired.any (fun f => mine f.launch) ||
    s.clusters.any (fun c => (c.eng.cmds ++ c.eng.pend).any (fun k => mine k.launch))

/-- LAUNCH_COMPLETE (05 R105, R106). A STATUS on a page of another device is written, and acknowledged, before the rest. -/
def execLaunchComplete (launch : Nat) (s : State) : Host.Outcome State Fault Refusal :=
  onSome (launchOf s launch) (fun l =>
    if l.st = .placing ∨ l.st = .checking ∨ launchBusy s l then .fault .notEnabled
    else if l.recDev.isSome && !l.told then .next (putStatus (onLaunch s launch (fun l => { l with told := true })) l (endStatus s l))
    else .next (finishLaunch s l))

/-! ### The notification handler -/

/-- The first lane of the partition whose handler slot is free (04 R91). -/
def handlerLane (s : State) (ctx : Nat) : Option Nat :=
  ((List.range 144).filter (fun c => inPart s ctx c)).findSome? (fun c =>
    ((List.range 64).map (fun i => 64 * c + i)).find? (fun l => !s.groups.any (fun g => g.hslot && decide (g.lane = l))))

/-- Whether a handler activation of a context is live. -/
def activationLive (s : State) (ctx : Nat) : Bool := s.teams.any (fun t => decide (t.ctx = ctx) && t.launch.isNone)

/-- The team and the group of an activation (04 R91). -/
def activate (s : State) (ctx lane : Nat) (r : CRec) : State :=
  let (tid, s) := takeId s
  let (gid, s) := takeId s
  let t : Team :=
    { id := tid, ctx := ctx, launch := none, index := 0, core := lane / 16, paired := false, fused := false, st := .resident,
      size := 0, scratch := [], trapbase := 0, stage := 0, planNext := 0, tagbits := 0, tagerr := 0, tagrec := [], conv := [],
      bars := List.replicate 16 NBar.uninit, gslots := [], save := 0, resetPend := false, preq := none, zsaved := 0, back := false, strm := [] }
  let g := { freshGroup gid ctx none tid 0 16 r.nregs lane r.nentry r.nqd with hslot := true }
  startGroup { s with teams := s.teams ++ [t], groups := s.groups ++ [g] } g r.rbase (r.nslot - 1)

/-- NOTIFY_ACTIVATION (04 R91): while the notification queue holds a record and no activation is live. -/
def execNotifyActivation (ctx : Nat) (s : State) : Host.Outcome State Fault Refusal :=
  onSome (s.contexts[ctx]?) (fun c =>
    match c.recd, sysQueue s ctx 3, handlerLane s ctx with
    | some r, some q, some lane =>
      if readyEnts q = [] ∨ activationLive s ctx ∨ !(decide (c.st = .created) || decide (c.st = .active) || decide (c.st = .suspending)) then
        .fault .notEnabled
      else .next (activate s ctx lane r)
    | _, _, _ => .fault .notEnabled)

end Sys2Proof.Machine
end

