-- ==== Sys2Proof/Machine/Lane.lean ====
section
/-! DEFINITION. What a lane does before an instruction runs: choosing a group (06 R114 to R117), fetching and checking its
clause (03 R55 to R60, R62; 14 R352), liveness (05 R98 to R100, 06 R124), the waits for results (03 R66), fills (06 R123),
budgets (12 R310, 04 R92) and the entry of a trap that had to wait (16 R380). -/

namespace Sys2Proof.Machine

/-! ### Liveness -/

/-- Whether a register line is dead under the group's current entry (06 R124). -/
def lineDead (g : Group) (n : Nat) : Bool :=
  decide (g.live ≠ []) && decide (n < g.nregs) && !(liveRegs g.live).any (fun r => decide (r.1 ≤ n) && decide (n < r.1 + r.2))

/-- A dead line as a read may find it (05 R100, 06 R124): as it stands in the cache, or dropped, and then as its frame holds
it, or as zero. Which of these is unspecified (assumption 3). -/
def dropDead (s : State) (gid : Nat) (n : Nat) : State :=
  match groupOf s gid with
  | none => s
  | some g =>
    if !lineDead g n then s
    else
      let gone := Config.freeChoice s.freeCtr
      let zero := Config.freeChoice (s.freeCtr + 1)
      let s := { s with freeCtr := s.freeCtr + 2 }
      if !gone then s
      else
        let rest := g.lines.filter (fun l => decide (l.reg ≠ n))
        setGroup s { g with lines := if zero then ⟨n, List.replicate g.width 0, false, s.fcycles, .general⟩ :: rest else rest }

/-- The lines that an instruction of a group names. -/
def instrLines (s : State) (g : Group) (i : Instr) : List Nat :=
  ((spanRegs (vreads i ++ vwrites i ++ strmSpan s g i)).map (lineNo g)).eraseDups

/-- The dead lines that an instruction names, as it will find them. -/
def dropDeads (s : State) (g : Group) (i : Instr) : State := (instrLines s g i).foldl (fun s n => dropDead s g.id n) s

/-! ### Fetch and header -/

/-- One word of a clause (03 R58, 14 R352): where the clause buffer holds another word than memory, either may be read. -/
def fetchWord (s : State) (g : Group) (va : Nat) : State × Except TrapInfo W64 :=
  match translate s g.cluster (some g.core) g.ctx va .fetch with
  | (s, .error e) => (s, .error { e with cause := 1 })
  | (s, .ok ph) =>
    let now : W64 := BitVec.ofNat 64 (memNat s.mem ph.pa 8)
    let put := fun (s : State) (w : W64) =>
      (onCore s g.core (fun c => { c with cbuf := (g.ctx, ph.pa, w) :: c.cbuf.filter (fun x => decide (x.1 ≠ g.ctx ∨ x.2.1 ≠ ph.pa)) }),
        (Except.ok w : Except TrapInfo W64))
    match (coreAt s g.core).cbuf.find? (fun x => decide (x.1 = g.ctx ∧ x.2.1 = ph.pa)) with
    | none => put s now
    | some x =>
      if x.2.2 = now then (s, .ok now)
      else put { s with freeCtr := s.freeCtr + 1 } (if Config.freeChoice s.freeCtr then x.2.2 else now)

/-- Words of a clause from an address up. -/
def fetchGo (g : Group) : Nat → Nat → List W64 → State → State × Except TrapInfo (List W64)
  | 0, _, ws, s => (s, .ok ws)
  | n + 1, va, ws, s => match fetchWord s g va with
    | (s, .error e) => (s, .error e)
    | (s, .ok w) => fetchGo g n ((va + 8) % 2 ^ 57) (ws ++ [w]) s

/-- The clause of a group fetched whole (03 R56, R58). -/
def fetchClause (s : State) (g : Group) : State × Except TrapInfo (List W64) :=
  match fetchWord s g (va57 g.pc) with
  | (s, .error e) => (s, .error e)
  | (s, .ok h) => fetchGo g (headerOf h).n ((va57 g.pc + 8) % 2 ^ 57) [h] s

/-- Whether a store of the group's cluster to the bytes of its clause is still on its way: a fetch reads the home slices behind
it (08 R188, 09 R220, 14 R352). -/
def fetchHeld (s : State) (g : Group) : Bool :=
  let held := fun (va n : Nat) => match peek s g.ctx (va % 2 ^ 57) .fetch with
    | .ok ph => inFlight s g.cluster ph.pa n
    | .error _ => false
  let va := va57 g.pc
  let room := 65536 - va % 65536
  decide (clusterFlight s g.cluster ≠ []) && (held va (min 136 room) || (decide (room < 136) && held (va + room) (136 - room)))

/-- The turn in which a lane fetches (03 R58, R59, 06 R114): the fault of a misaligned target falls at the target, without a
fetch; a fetch fault is taken at the header, but for a group that was woken from a park, whose header is not checked again: it
takes it at its resume position (06 R114), which after the last instruction of a clause is the header that follows. So does, as a
choice of the model, a group inside a clause that another group's IFENCE discarded: it has executed instructions of the clause, and
03 R58 does not say where its fault is taken (assumption 58). An access broken off before does not go on: what it has
read over links is not kept, nor its place at the banks. -/
def fetchTurn (s : State) (g : Group) : State :=
  if g.transfer.isSome then takeTrap s g { trapC 2 0 with addr := g.pc }
  else match fetchClause s g with
    | (s, .error e) => takeTrap s (if g.checked then Group.named { g with clause := [] } s else { g with clause := [], atHdr := true, pos := 0 }) e
    | (s, .ok ws) => setGroup (dropReplays (forgetReads s g.id) g.lane) { g with clause := ws, refetch := false }

/-- Whether the words of a clause fail a check of 03 R59 other than that of liveness. -/
def clauseBad (ws : List W64) : Bool :=
  let h := headerOf (ws.getD 0 0)
  let ops := (ws.drop 1).map opOf
  decide (h.magic ≠ 13) || decide (h.rsv ≠ 0) ||
    ops.any (fun o => match classBit o with
      | some b => !h.mask.getLsbD b
      | none => false) ||
    (ops.dropLast).any lastOnly

/-- Whether a command is a matrix or descent pass (03 R55). -/
def CmdK.isPass : CmdK → Bool
  | .mma _ _ _ _ _ _ _ _ _ _ => true
  | .desc _ _ _ _ _ _ _ => true
  | .dstep _ _ _ _ _ _ => true
  | .ascend _ _ _ _ _ _ _ => true
  | _ => false

/-- Whether the waits of the group's header are met (03 R55, R60). -/
def headerMet (s : State) (g : Group) : Bool :=
  let h := headerOf (g.clause.getD 0 0)
  let e := engOf s g.cluster
  (!h.wstore || (decide (g.coal = []) && decide (g.fifo = []))) &&
    (!h.wmx || !(e.cmds ++ e.pend).any (fun c => decide (c.gid = g.id) && c.kind.isPass)) && (!h.wla || decide (g.ll = []))

/-- The group at a header that is sound (03 R60, 06 R115): it waits for its header, with its lane released; else it is READY
where it came here as its clause ended, and goes on where its lane has chosen it already, as it does after it was created, after
a trap was taken and after RETT (assumption 35). -/
def headerWait (s : State) (g : Group) : Group :=
  let g := { g with checked := true, fresh := false, ending := false, st := if g.ending then .ready else g.st }
  if headerMet s g then g else { g with st := .waiting }

/-- The turn in which a lane checks a header (03 R59, R60, R62, 16 R384): a header with LIVE ≠ 0 at which the clause starts
sets the current entry, and is a pre-emption point outside handler mode. A header that fails both the checks of subcause 0 and
that of LIVE takes subcause 0, an order that 03 R59 does not give (assumption 58). -/
def headerTurn (s : State) (g : Group) : State :=
  let n := (headerOf (g.clause.getD 0 0)).live
  let atHead := { g with atHdr := true, pos := 0 }
  if clauseBad g.clause then takeTrap s atHead (trapC 2 0)
  else if n = 0 then setGroup s (headerWait s g)
  else match liveRead s g n, liveEntry s g n with
    | .error (.need d line), _ => (askLine s g.who g.launch g.core d line).getD s
    | .error .wait, _ => s
    | _, none => takeTrap (dropGot (liveTouch s g n) g.id) atHead (trapC 2 1)
    | _, some w =>
      let s := dropGot (liveTouch s g n) g.id
      if !g.atHdr then setGroup s (headerWait s g)
      else
        let g := { g with liveIdx := n, live := w }
        let asked := ((teamOf s g.team).map (fun t => t.preq.isSome)).getD false
        if asked && g.fresh && !g.handler then setGroup s { g with saving := true, ending := false, st := .waiting }
        else setGroup s (headerWait s g)

/-- HEADER_WAIT_MET (03 R60, 06 R115). -/
def execHeaderWaitMet (gid : Nat) (s : State) : Host.Outcome State Fault Refusal :=
  onSome (groupOf s gid) (fun g =>
    if g.st ≠ .waiting ∨ g.saving ∨ switchHolds s g ∨ !headerMet s g then .fault .notEnabled else .next (setGroup s { g with st := .ready }))

/-! ### Choosing -/

/-- Whether a context is being torn down: its groups stop before their next instruction (04 R95). -/
def tearing (s : State) (ctx : Nat) : Bool := decide (((s.contexts[ctx]?).map (fun (c : Context) => c.st)) = some .tearing)

/-- Whether a lane may choose a group. -/
def mayChoose (s : State) (g : Group) (lane : Nat) : Bool :=
  !tearing s g.ctx && decide (g.lane = lane) && decide (g.st = .ready) && !g.halted && !(g.fullSave && !g.handler) && !(coreAt s g.core).halted

/-- The rank of a group in the choice of its lane (06 R116): handler mode, a pass count of 16, then PRIO with a group that
yielded behind the others of its PRIO, then age. A lower list ranks first. -/
def laneRank (s : State) (g : Group) : List Nat :=
  let prio := ((ctxRec s g.ctx).map (fun (r : CRec) => r.prio)).getD 0
  if g.handler || g.hslot then [0, 0, 0, g.birth]
  else if 16 ≤ g.pass then [1, 0, 0, g.birth]
  else [2, 7 - prio, if g.yielded then 1 else 0, g.birth]

/-- Whether a rank comes before another. -/
def rankLt : List Nat → List Nat → Bool
  | a :: as, b :: bs => decide (a < b) || (decide (a = b) && rankLt as bs)
  | _, _ => false

/-- The group that a lane chooses (06 R116). -/
def laneChoice (s : State) (lane : Nat) : Option Group :=
  (s.groups.filter (fun g => mayChoose s g lane)).foldl (fun m g => match m with
    | none => some g
    | some x => if rankLt (laneRank s g) (laneRank s x) then some g else some x) none

/-- Whether a lane holds a group. -/
def laneHeld (s : State) (lane : Nat) : Bool := s.groups.any (fun g => decide (g.lane = lane) && decide (g.st = .running))

/-- Whether a lane may choose now: it is free, its cluster admitted (18 R417) and not in a frequency switch. -/
def laneMay (s : State) (lane : Nat) : Bool := !laneHeld s lane && !slewed s (lane / 64) && !switching s (lane / 64)

/-- LANE_CHOOSE (06 R115, R116): the chosen group runs with its pass count cleared; each group passed over counts one
more. -/
def execLaneChoose (lane : Nat) (s : State) : Host.Outcome State Fault Refusal :=
  if !laneMay s lane then .fault .notEnabled
  else match laneChoice s lane with
    | none => .fault .notEnabled
    | some c =>
      .next { s with groups := s.groups.map (fun g =>
        if g.id = c.id then { g with st := .running, pass := 0, yielded := false }
        else if g.lane = lane ∧ g.st = .ready then { g with pass := min 16 (g.pass + 1), yielded := false } else g) }

/-! ### Waits and faults before an instruction -/

/-- The predicate that a word of format V names in SUB: the carry, or the condition of SEL (07 R147). -/
def subPred : Instr → List Nat
  | .iaddc _ f => [96 + f.sub.toNat % 8]
  | .isubb _ f => [96 + f.sub.toNat % 8]
  | .sel _ f => [96 + f.sub.toNat % 8]
  | _ => []

/-- The registers of the scalar space that a modulo register names: none for 15 (08 R198). -/
def modRegs (k : Nat) : List Nat := if k = 15 then [] else [80 + k]

/-- The address registers that a copy adds (09 R229). -/
def copyRegs (f : CF) : List Nat :=
  f.sdesc.toNat :: ((if f.flags.getLsbD 0 then [64 + f.asrc.toNat] else []) ++ (if f.flags.getLsbD 1 then [64 + f.adst.toNat] else []))

/-- The registers of the scalar space that an instruction reads or writes (03 R70). -/
def scalarUse : Instr → List Nat
  | .brx _ f => [f.a.toNat]
  | .ssel _ f => [f.d.toNat, f.a.toNat, f.b.toNat, 96 + f.mod.toNat % 8]
  | .smov _ f => [f.d.toNat, f.a.toNat]
  | .spopc _ f => [f.d.toNat, f.a.toNat]
  | .sctz _ f => [f.d.toNat, f.a.toNat]
  | .aadd _ f => [f.d.toNat, f.a.toNat] ++ modRegs (bits f.imm.toNat 20 4)
  | .tlbinvVa _ f => [f.d.toNat, f.a.toNat]
  | .tlbinvCtx _ f => [f.d.toNat]
  | .tlbinvAll _ _ => []
  | .fence _ _ => []
  | .ifence _ _ => []
  | .cpy _ f => copyRegs f
  | .cpym _ f => copyRegs f
  | .cpyg _ f => copyRegs f
  | .stage _ f => [f.sdesc.toNat]
  | .bari _ f => f.a.toNat :: (if f.mod.getLsbD 4 then [f.b.toNat] else [])
  | .bara _ f => [f.d.toNat]
  | .barw _ _ => []
  | .barexp _ f => [f.a.toNat]
  | .barph _ f => [f.a.toNat]
  | .barinv _ _ => []
  | .gbar _ f => [f.a.toNat, f.b.toNat]
  | .gbarInit _ f => [f.a.toNat]
  | .gbarFini _ f => [f.a.toNat]
  | .sread _ f => if f.mod = 0 then [] else [f.d.toNat]
  | .swrite _ f => [f.a.toNat]
  | .rett _ _ => []
  | .rettSkip _ _ => []
  | .rettExit _ _ => []
  | .leave _ _ => []
  | .leaveRel _ _ => []
  | .pwrq _ f => [f.d.toNat]
  | .halt _ f => [f.d.toNat]
  | .haltResume _ f => [f.d.toNat]
  | .dbgdrain _ f => [f.d.toNat]
  | .rdfirst _ f => [f.d.toNat]
  | .smovi _ f => [f.d.toNat]
  | .stageInc _ _ => []
  | .tagff _ f => [f.sdesc.toNat, f.fl 0 6]
  | .tagrd _ f => [f.fl 0 6]
  | .strmgo _ _ => []
  | .strmend _ _ => []
  | .strmpop _ _ => []
  | .strmpsh _ _ => []
  | .qpush _ f => f.sdesc.toNat :: (List.range 7).map (fun i => f.fl 0 6 + i)
  | .qpop _ f => [f.sdesc.toNat, 96 + f.fl 6 3] ++ (List.range 8).map (fun i => f.fl 0 6 + i)
  | .qtry _ f => [f.sdesc.toNat, 96 + f.fl 6 3] ++ (List.range 8).map (fun i => f.fl 0 6 + i)
  | .glean _ f => [f.sdesc.toNat, 96 + f.fl 6 3] ++ (List.range 8).map (fun i => f.fl 0 6 + i)
  | .qstat _ f => [f.sdesc.toNat, f.fl 0 6]
  | .gleanDone _ f => [f.sdesc.toNat, f.fl 0 6]
  | .taskarm _ f => [f.sdesc.toNat, f.fl 0 6, f.fl 6 6]
  | .taskdec _ f => [f.fl 0 6, f.fl 6 6]
  | .spawn _ f => [f.sdesc.toNat, 96 + f.fl 11 3]
  | .binflAll _ _ => []
  | .ldu _ f => [f.data.toNat, 64 + f.areg.toNat] ++ modRegs f.mreg.toNat
  | .stu _ f => [f.data.toNat, 64 + f.areg.toNat] ++ modRegs f.mreg.toNat
  | .icmpi _ f => [96 + f.d.toNat]
  | .mreq _ f => [xb f 0 6]
  | .hdrain _ f => [xb f 11 6]
  | .zscale _ f => [xb f 0 6]
  | .zld _ f => [64 + xb f 0 4, xb f 4 6]
  | .zst _ f => [64 + xb f 0 4, xb f 4 6]
  | .mstat _ f => [xb f 0 6]
  | .mreset _ f => [xb f 0 6]
  | .treebind _ f => [xb f 0 6]
  | .desc _ f => xb f 0 6 :: (if f.xf.getLsbD 13 then [64 + xb f 14 4] else [])
  | .dstep _ f => [xb f 0 6]
  | .regrp _ f => [64 + xb f 0 4, 64 + xb f 4 4, xb f 8 6]
  | .qrd _ f => [xb f 11 6]
  | .qwr _ f => [xb f 11 6]
  | .ascend _ f => xb f 0 6 :: xb f 14 6 :: (if f.xf.getLsbD 13 then [] else [xb f 14 6 + 1])
  | i => match i.parts with
    | some (_, _, .v f) => (match i.vuse with
      | some (_, _, u) => (if u.d = .pred then [96 + f.d.toNat] else []) ++ (if u.a = .pred then [96 + f.a.toNat] else [])
      | none => []) ++ subPred i
    | some (_, _, .m f) => (64 + f.areg.toNat) :: modRegs f.mreg.toNat
    | some (_, _, .c f) => [f.sdesc.toNat]
    | some (_, _, .r f) => [f.d.toNat, f.a.toNat, f.b.toNat]
    | some (_, _, .s f) => [f.d.toNat, f.a.toNat]
    | _ => []

/-- The tiles that an instruction reads or writes, or whose pass does (10 R269 to R273, 11 R285). -/
def tileUse : Instr → List Nat
  | .hdrain _ f => [f.z.toNat]
  | .mma _ f => [f.z.toNat]
  | .zzero _ f => [f.z.toNat]
  | .zscale _ f => [f.z.toNat]
  | .zadd _ f => [f.z.toNat, xb f 0 5]
  | .zcvt _ f => [f.z.toNat]
  | .zld _ f => [f.z.toNat]
  | .zst _ f => [f.z.toNat]
  | .desc _ f => if f.xf.getLsbD 13 then [] else [f.z.toNat]
  | _ => []

/-- The predicate that guards an instruction. -/
def guardReg (i : Instr) : Nat :=
  match i.parts with
  | some (_, h, _) => 96 + h.pred.toNat
  | none => 103

/-- Whether an instruction accesses memory, or makes another agent access it: those of the classes from memory on (03 R71). -/
def accesses (i : Instr) : Bool :=
  match i.parts with
  | some (op, _, _) => decide (0x100 ≤ op)
  | none => false

/-- Whether an instruction must wait for one outstanding result: its lookahead is used up, or the instruction reads or writes
a register or a tile that the result will write, or issues a pass that does (03 R66). -/
def llHolds (s : State) (g : Group) (i : Instr) (l : LL) : Bool :=
  let ss := guardReg i :: scalarUse i
  decide (l.left = 0) || l.vregs.any (fun r => (instrLines s g i).contains r) || l.sregs.any (fun r => ss.contains r) ||
    (match l.tile with
      | some z => (tileUse i).contains z
      | none => false) ||
    (match l.pred with
      | some p => ss.contains (96 + p)
      | none => false)

/-- Whether an instruction must wait for an outstanding result, or would make an access before the value of an acquire load has
returned (03 R66, 09 R211). -/
def llBlocks (s : State) (g : Group) (i : Instr) : Bool := (acqPending g && accesses i) || g.ll.any (llHolds s g i)

/-- Whether an instruction waits, where it acts, until every outstanding result has been written: SREAD and SWRITE of FLAGS, TFENCE
(02 R54, 16 R393) and the returns from a trap (16 R395). -/
def waitsAll (g : Group) (i : Instr) : Bool :=
  match i with
  | .tfence h _ => wideActs g h
  | .sread h f => wideActs g h && decide (f.mod.toNat = 12)
  | .swrite h f => wideActs g h && decide (f.mod.toNat = 12)
  | .rett h _ => wideActs g h && g.handler
  | .rettSkip h _ => wideActs g h && g.handler
  | .rettExit h _ => wideActs g h && g.handler
  | _ => false

/-- Whether an instruction that acts has an outstanding result (03 R66). -/
def makesResult (g : Group) (i : Instr) : Bool :=
  match i, i.parts with
  | .sread h f, _ => wideActs g h && decide (f.mod.toNat = 17 ∨ f.mod.toNat = 18)
  | .atomf h f, _ => decide (qualMask g h ≠ 0) && !f.off8.getLsbD 3
  | _, some (op, h, _) =>
    if isPerThread i ∨ op = 0x104 then
      decide (qualMask g h ≠ 0) &&
        (match i with
          | .ld _ _ => true
          | .lda _ _ => true
          | .ldu _ _ => true
          | .ldnt _ _ => true
          | .atom _ _ => true
          | .cas _ _ => true
          | .sgath _ _ => true
          | .fdiv _ _ => true
          | .fsqrt _ _ => true
          | .frcp _ _ => true
          | .frsq _ _ => true
          | .fexp2 _ _ => true
          | .flog2 _ _ => true
          | .fsin _ _ => true
          | .fcos _ _ => true
          | .ftanh _ _ => true
          | _ => false)
    else
      wideActs g h &&
        (match i with
          | .hdrain _ _ => true
          | .zld _ _ => true
          | .qrd _ _ => true
          | .qpop _ _ => true
          | _ => false)
  | _, none => false

/-- The result of a QPOP that has not come and that an instruction waits for: its group parks (12 R306). -/
def popAwaited (s : State) (g : Group) (i : Instr) : Option LL :=
  g.ll.find? (fun l => l.queue && decide (l.need ≠ 0) &&
    (llHolds s g i l || ((preFault s g i).isNone && waitsAll g i) ||
      (decide (16 ≤ g.ll.length) && makesResult g i && decide ((g.ll.head?.map (fun (x : LL) => x.key)) = some l.key))))

/-- Whether a line is where a read finds it without a fill. -/
def linePresent (g : Group) (n : Nat) : Bool := g.win.any (fun h => decide (h.reg = n)) || g.lines.any (fun l => decide (l.reg = n))

/-- The registers that threads reach through the register window with a memory instruction (06 R125, 08 R181). -/
def windowRegs (s : State) (g : Group) (f : MF) (ts : List Nat) : List Nat :=
  (ts.filterMap (fun t => match targetOf (va57 (memAddr s g f (szBytes f.sz) true t)) with
    | .reg r _ => if r < g.nregs then some r else none
    | _ => none)).eraseDups

/-- The lines that an instruction reads or writes through the register window (08 R183). -/
def windowLines (s : State) (g : Group) : Instr → List Nat
  | .ld h f => windowRegs s g f (threads (qualMask g h))
  | .st h f => windowRegs s g f (threads (qualMask g h))
  | .ldu h f => windowRegs s g f (lowest (qualMask g h)).toList
  | .stu h f => windowRegs s g f (lowest (qualMask g h)).toList
  | _ => []

/-- The line that an instruction needs filled first (06 R122, R123): a read, or a write that does not cover every thread; an
access of the register window; a register of a stream's element. -/
def lineMissing (s : State) (g : Group) (i : Instr) : Option Nat :=
  let whole := match i.parts with
    | some (_, h, _) => decide (qualMask g h = widthMask g.width)
    | none => false
  let need := vreads i ++ (if whole then [] else vwrites i) ++ strmSpan s g i
  ((((spanRegs need).filter (fun r => decide (r < 2048))).map (lineNo g) ++ windowLines s g i).filter (fun n => !linePresent g n)).min?

/-- The lines of an instruction marked as used now, for the order of eviction (06 R124); those that it reaches through the register
window are used too. -/
def touchLines (s : State) (g : Group) (i : Instr) : Group :=
  let ns := instrLines s g i ++ windowLines s g i
  { g with lines := g.lines.map (fun l => if ns.contains l.reg then { l with use := s.fcycles } else l) }

/-- A line filled from its frame (06 R123); a frame that does not translate is a backing-fault (04 R86). What tag a line has that was
evicted and is filled again the spec does not say: GENERAL (06 R120; assumption 81). -/
def fillLine (s : State) (g : Group) (n : Nat) : State :=
  let va := va57 g.frame + 4 * g.width * n
  match getVA s g.cluster g.ctx va (4 * g.width) with
  | none => stopGroup s g true 0x44 0 (BitVec.ofNat 64 va)
  | some (s, bs) =>
    let data := (List.range g.width).map (fun t => (BitVec.ofNat 32 (leNat ((bs.drop (4 * t)).take 4)) : W32))
    setGroup s { g with lines := ⟨n, data, false, s.fcycles, .general⟩ :: g.lines }

/-- REGCACHE_FILL (06 R123): the line of a register arrives from its frame. -/
def execRegcacheFill (gid reg : Nat) (s : State) : Host.Outcome State Fault Refusal :=
  onSome (groupOf s gid) (fun g =>
    if g.st ≠ .running ∨ g.nregs + 64 ≤ reg ∨ linePresent g reg then .fault .notEnabled else .next (fillLine s g reg))

/-! ### The size of the register cache -/

/-- The bytes of a core's register cache: what scratchpads and the L1 portion leave of the unified store (06 R122, 08 R177). -/
def regBytes (s : State) (core : Nat) : Nat := 16384 * (64 - padUnits s core - l1Units s core)

/-- The lines in the register cache of a core, with their groups: of those that have their frame and are not saved. -/
def coreLines (s : State) (core : Nat) : List (Group × Line) :=
  (s.groups.filter (fun g => decide (g.core = core) && decide (g.st ≠ .pending) && decide (g.st ≠ .saved))).flatMap (fun g =>
    g.lines.map (fun l => (g, l)))

/-- The bytes that they take (06 R122). -/
def cacheUsed (s : State) (core : Nat) : Nat := (coreLines s core).foldl (fun n x => n + 4 * x.1.width) 0

/-- The lines that the instruction before which a RUNNING group stands needs, which stay until it has run (assumption 18). -/
def keptLines (s : State) (g : Group) : List Nat :=
  if g.st ≠ .running then []
  else match decodeWord (g.wordAt g.pos) with
    | .ok i => instrLines s g i ++ windowLines s g i
    | .error _ => []

/-- The least recently used of some lines. -/
def oldestLine (ls : List (Group × Line)) : Option (Group × Line) :=
  ls.foldl (fun m x => match m with
    | none => some x
    | some y => if x.2.use < y.2.use then some x else some y) none

/-- The line that the register cache of a core evicts first (06 R124): a dead one; then the least recently used among the clean
lines of groups that are not RUNNING, the clean lines, the dirty lines. -/
def evictee (s : State) (core : Nat) : Option (Group × Line) :=
  let ls := (coreLines s core).filter (fun x => !(keptLines s x.1).contains x.2.reg)
  let clean := ls.filter (fun x => !x.2.dirty)
  (ls.find? (fun x => lineDead x.1 x.2.reg)).or <| (oldestLine (clean.filter (fun x => decide (x.1.st ≠ .running)))).or <|
    (oldestLine clean).or (oldestLine ls)

/-- A line evicted (06 R124): a dead or clean one is dropped, a dirty one is written back to its frame; a frame that cannot be
written is a backing-fault (04 R86). -/
def evictLine (s : State) (g : Group) (l : Line) : State :=
  let out := fun (s : State) => onGroup s g.id (fun g => { g with lines := g.lines.filter (fun x => decide (x.reg ≠ l.reg)) })
  if lineDead g l.reg || !l.dirty then out s
  else
    let va := va57 g.frame + 4 * g.width * l.reg
    match putVA s g.cluster g.ctx va (l.data.flatMap (fun w => natLE 4 w.toNat)) with
    | some s => out s
    | none => stopGroup s { g with lines := g.lines.filter (fun x => decide (x.reg ≠ l.reg)) } true 0x44 0 (BitVec.ofNat 64 va)

/-- Lines evicted until those of a core fit; the fuel is their number. -/
def fitGo : Nat → Nat → State → State
  | 0, _, s => s
  | n + 1, core, s =>
    if cacheUsed s core ≤ regBytes s core then s
    else match evictee s core with
      | none => s
      | some x => fitGo n core (evictLine s x.1 x.2)

/-- The register caches as a turn leaves them: no more lines than fit, whether lines came or a new scratchpad took their room
(06 R122, R124, 08 R178). -/
def fitCaches (s : State) : State :=
  ((s.groups.map (fun g => g.core)).eraseDups).foldl (fun s k => fitGo (coreLines s k).length k s) s

/-! ### Budgets -/

/-- A group that has held its lane for lane cycles without completing an instruction (12 R310): they count against its budget,
but for handler mode and replay mode, which counts instructions (04 R96). -/
def chargeLane (s : State) (n : Nat) (g : Group) : Group :=
  if g.handler || isReplay s g.ctx then g
  else { g with held := g.held + n, left := if g.budget = 0 then g.left else g.left - n }

/-- Whether the budget of a group is used up before its next instruction (12 R310), or the time of an activation (04 R92). -/
def budgetDue (g : Group) : Bool :=
  !g.handler && ((decide (g.budget ≠ 0) && decide (g.left = 0)) || (g.hslot && decide (262144 < g.held)))

/-- The budget-exhausted trap (12 R310, 16 R378): the count is cleared, and the interval goes on with the same budget. -/
def budgetTrap (s : State) (g : Group) : State :=
  let b := if g.budget ≠ 0 ∧ g.left = 0 then g.budget else 262144
  takeTrap s { g with left := g.budget, held := 0 } { trapC 0x23 0 with info := BitVec.ofNat 64 b }

/-- Whether a running group stands before an instruction that its lane has fetched and admitted. -/
def beforeInstr (g : Group) : Bool :=
  decide (g.st = .running) && decide (g.pos + 1 < g.clause.length) && !g.refetch && g.checked && g.pendTrap.isNone && !g.halted &&
    !(g.fullSave && !g.handler)

/-- BUDGET_EXHAUSTED (12 R310, 04 R92). -/
def execBudgetExhausted (gid : Nat) (s : State) : Host.Outcome State Fault Refusal :=
  onSome (groupOf s gid) (fun g =>
    if beforeInstr g && !(coreAt s g.core).halted && !tearing s g.ctx && !g.awaits && budgetDue g then .next (budgetTrap s { g with atHdr := false }) else .fault .notEnabled)

/-- TRAP_ENTRY (03 R66, 16 R380): a trap that waited for the outstanding results, or a breakpoint for the group's stores, enters. -/
def execTrapEntry (gid : Nat) (s : State) : Host.Outcome State Fault Refusal :=
  onSome (groupOf s gid) (fun g =>
    match g.pendTrap with
    | none => .fault .notEnabled
    | some t => if !asleep g && !switchHolds s g && !tearing s g.ctx && !trapWaits s g t then .next (enterTrap s g t)
      else .fault .notEnabled)

/-- SLEEP_WAKE (06 R130). -/
def execSleepWake (gid : Nat) (s : State) : Host.Outcome State Fault Refusal :=
  onSome (groupOf s gid) (fun g =>
    match g.park with
    | some (.sleep till) => if awake g && !switchHolds s g && decide (till ≤ cyclesOf s g.cluster) then .next (wake s gid) else .fault .notEnabled
    | _ => .fault .notEnabled)

/-! ### The turn of a lane -/

/-- What the turn of a lane comes to: nothing it can do, a change that is no instruction, or an instruction of the group that
holds it. -/
inductive LaneDo where
  | idle
  | turn (s : State)
  | run (s : State) (gid : Nat) (i : Instr)
  deriving DecidableEq, Repr

/-- The instruction that a group stands before, with the faults and the waits that come before it. -/
def instrTurn (s : State) (g0 : Group) : LaneDo :=
  let g := { g0 with atHdr := false }
  if budgetDue g then .turn (budgetTrap s g)
  else match decodeWord (g.wordAt g.pos) with
    | .error _ => .turn (takeTrap s g illegal)
    | .ok i =>
      match popAwaited s g i with
      | some l => .turn (setGroup s (parkGroup s g (.result l.key)))
      | none =>
        if llBlocks s g i then .idle
        else match (preFault s g i, lineMissing s g i) with
          | (none, some n) => .turn (fillLine s g0 n)
          | _ => .run (dropDeads (setGroup s (touchLines s g i)) g i) g.id i

/-- The turn of the group that holds a lane. One in an instruction that waits for an atomic at another device goes on with it once
that has been performed (09 R204). -/
def groupTurn (s : State) (g : Group) : LaneDo :=
  if g.pendTrap.isSome || switching s g.cluster then .idle
  else match g.ll.find? (fun l => l.exact.isSome) with
  | some l => if l.need = 0 then .turn (atomicBack s g l) else .idle
  | none =>
  if g.halted || (coreAt s g.core).halted || tearing s g.ctx || (g.fullSave && !g.handler) then .idle
  else if g.clause = [] ∨ g.refetch then (if g.transfer.isNone && fetchHeld s g then .idle else .turn (fetchTurn s g))
  else if !g.checked then .turn (headerTurn s g)
  else if !g.atHdr && decide (g.clause.length ≤ g.pos + 1) then .turn (setGroup s (toHeader g (nextClause g)))
  else instrTurn s g

/-- The turn of a lane (06 R114); a cluster that must be admitted issues nothing before it is (18 R417). -/
def laneTurn (s : State) (lane : Nat) : LaneDo :=
  match s.groups.find? (fun g => decide (g.lane = lane) && decide (g.st = .running)) with
  | none => .idle
  | some g => match groupTurn s g with
    | .run s' gid i => if slewed s g.cluster then .idle else .run s' gid i
    | x => x

/-! ### The slew limiter -/

/-- Whether a group is what its cluster must be admitted for: a lane would choose it, or it would issue (18 R417). -/
def wantsIssue (s : State) (g : Group) : Bool :=
  (mayChoose s g g.lane && !laneHeld s g.lane) ||
    (decide (g.st = .running) && (match groupTurn s g with
      | .run _ _ _ => true
      | _ => false))

/-- The place of a cluster in the order of 13 R326. -/
def slewRank (s : State) (c : Nat) : Nat := (c + 144 - (clusterAt s c).slewGen % 144) % 144

/-- The next cluster to admit, in the order of 13 R326. -/
def slewNext (s : State) : Option Nat :=
  ((List.range 144).filter (fun c => slewed s c && s.groups.any (fun g => decide (g.cluster = c) && wantsIssue s g))).foldl
    (fun m c => match m with
      | none => some c
      | some x => if slewRank s c < slewRank s x then some c else some x) none

/-- SLEW_ADMIT (18 R417): at most 16 clusters in 64 fabric cycles. -/
def execSlewAdmit (s : State) : Host.Outcome State Fault Refusal :=
  let recent := s.slew.filter (fun t => decide (s.fcycles < t + 64))
  match slewNext s with
  | none => .fault .notEnabled
  | some c =>
    if 16 ≤ recent.length then .fault .notEnabled
    else .next (onCluster { s with slew := s.fcycles :: recent } c (fun x => { x with lastIssue := cyclesOf s c }))

/-! ### Stalls -/

/-- Whether an instruction of a group puts requests into its windows. -/
def sendsReqs : Instr → Bool
  | .st _ _ => true
  | .stl _ _ => true
  | .stu _ _ => true
  | .stnt _ _ => true
  | .atom _ _ => true
  | .red _ _ => true
  | .atomf _ _ => true
  | .cas _ _ => true
  | .ored _ _ => true
  | _ => false

/-- Whether the lane of a RUNNING group is stalled on memory (18 R412): before an instruction that waits for a line of the register
cache, for an outstanding result, for room in the store FIFO, or for a bank or a grant. -/
def memStalled (s : State) (g : Group) : Bool :=
  beforeInstr g && !(coreAt s g.core).halted && !tearing s g.ctx && !switching s g.cluster &&
    (match decodeWord (g.wordAt g.pos) with
      | .error _ => false
      | .ok i => g.awaits || llBlocks s g i || (replayOf s g.lane).isSome ||
          ((preFault s g i).isNone && (lineMissing s g i).isSome) ||
          (sendsReqs i && (match g.coal with
            | [] => false
            | w :: _ => decide (32 < g.fifo.length + w.length))))

/-- Whether a RUNNING group holds its lane idle (12 R310). -/
def holdsIdle (s : State) (g : Group) : Bool :=
  decide (g.st = .running) && (memStalled s g || (match groupTurn s g with
    | .idle => true
    | .run _ _ _ => slewed s g.cluster
    | _ => false))

/-- Whether a lane cycle of a cluster counts as MEMSTALL (18 R412): a lane holds a RUNNING group, and every one that does is stalled
on memory. -/
def clusterStalled (s : State) (c : Nat) : Bool :=
  let gs := s.groups.filter (fun g => decide (g.cluster = c) && decide (g.st = .running))
  decide (gs ≠ []) && gs.all (memStalled s)

end Sys2Proof.Machine
end

