-- ==== Sys2Proof/Machine/Save.lean ====
section
/-! DEFINITION. Pre-emption (16 R383 to R388): the requests, the save of a group, the save of a team, and its restoration
(05 R112, 06 R136, R496; 10 R264; 11 R295). -/

namespace Sys2Proof.Machine

/-! ### Requests -/

/-- A team requested (16 R383): a request stays pending until the team is saved. -/
def requestTeam (s : State) (team : Nat) : State :=
  onTeam s team (fun t => if t.st = .resident ∧ t.launch.isSome ∧ t.preq.isNone then { t with preq := some s.fcycles } else t)

/-- The priority of a context (04 R80). -/
def ctxPrio (s : State) (ctx : Nat) : Nat := ((ctxRec s ctx).map (fun (r : CRec) => r.prio)).getD 0

/-- The teams to request on a core so that a waiting team finds it free (16 R383): those of lower priority, youngest first,
until it would qualify with those not requested in place; `got` are those that are requested, before or here. -/
def victims (s : State) (need : Need) (core : Nat) : List Nat → List Nat → List Nat
  | _, [] => []
  | got, t :: ts =>
    if coreFits s (fun x => got.contains x.id) need core then [] else t :: victims s need core (t :: got) ts

/-- The resident teams of lower priority on a core or pair, the youngest first. -/
def lowerTeams (s : State) (prio : Nat) (need : Need) (core : Nat) : List Nat :=
  sortBy (fun a b => decide (b ≤ a)) ((s.teams.filter (fun t => t.onCore && t.launch.isSome && decide (ctxPrio s t.ctx < prio) &&
    t.cores.any (fun k => decide (k = core) || (need.paired && decide (k = core + 1))))).map (fun t => t.id))

/-- The cores that a waiting team or span would get if the teams of lower priority were absent (16 R383), and none where it
finds room as it is. -/
def preemptCores (s : State) (l : Launch) : List Nat :=
  let need := launchNeed l
  let prio := ctxPrio s l.ctx
  let lower := fun (t : Team) => decide (ctxPrio s t.ctx < prio)
  if l.recd.span = 0 then
    if (pickCore s (fun _ => false) need (fun _ => true)).isSome then [] else (pickCore s lower need (fun _ => true)).toList
  else if (pickSpan s (fun _ => false) need (l.recd.span + 1) (fun _ => true)).isSome then []
  else (pickSpan s lower need (l.recd.span + 1) (fun _ => true)).getD []

/-- The teams that the dispatcher requests for a launch that waits. -/
def preemptTeams (s : State) (l : Launch) : List Nat :=
  (preemptCores s l).flatMap (fun core =>
    let asked := (s.teams.filter (fun t => t.preq.isSome)).map (fun t => t.id)
    victims s (launchNeed l) core asked ((lowerTeams s (ctxPrio s l.ctx) (launchNeed l) core).filter (fun t => !asked.contains t)))

/-- PREEMPT_WAIT_EXPIRE (16 R383): a team, or a whole span, has waited for 10 µs. -/
def execPreemptWaitExpire (launch : Nat) (s : State) : Host.Outcome State Fault Refusal :=
  onSome (launchOf s launch) (fun l =>
    let new := (preemptTeams s l).filter (fun t => ((teamOf s t).map (fun x => x.preq.isNone && decide (x.st = .resident))).getD false)
    if !mayPlace s l || decide (s.fcycles < l.waited + 20000) || decide (new = []) then .fault .notEnabled
    else .next (new.foldl requestTeam s))

/-- Whether a full save can still come upon a group. -/
def mayFull (g : Group) : Bool :=
  decide (g.st ≠ .pending) && decide (g.st ≠ .retiring) && decide (g.st ≠ .saved) && !g.saving && !g.fullSave

/-- The interval of PTO in fabric cycles (04 R79). -/
def ptoCycles (s : State) (ctx : Nat) : Nat :=
  let p := ((ctxRec s ctx).map (fun (r : CRec) => r.pto)).getD 0
  2000 * (if p = 0 then 200 else p)

/-- PTO_EXPIRE (16 R385): PTO after the request every group that is not saved is to be fully saved, one in handler mode at
the resume point that its RETT reaches. -/
def execPtoExpire (team : Nat) (s : State) : Host.Outcome State Fault Refusal :=
  onSome (teamOf s team) (fun t =>
    let some_ := s.groups.any (fun g => decide (g.team = team) && mayFull g)
    match t.preq with
    | some t0 =>
      if s.fcycles < t0 + ptoCycles s t.ctx ∨ !some_ then .fault .notEnabled
      else .next { s with groups := s.groups.map (fun g => if g.team = team && mayFull g then { g with fullSave := true } else g) }
    | none => .fault .notEnabled)

/-! ### The save of a group -/

/-- Whether the store FIFO of a group is empty, its requests performed and its results written (16 R384, step 1); that of a QPOP
stays registered while its group is saved (12 R306). -/
def drained (s : State) (g : Group) : Bool :=
  decide (g.coal = []) && decide (g.fifo = []) && !s.flight.any (fun r => decide (r.gid = g.id)) &&
    loadsBack g

/-- The group with its results written, and its window flushed. -/
def drainRegs (s : State) (g : Group) : Group :=
  flushWin s ((g.ll.filter (fun l => !(l.queue && decide (l.need ≠ 0)))).foldl (applyLL s) g)

/-- The group as a save or a halt names its position: a parked group goes on after the instruction that parked it (16 R385). -/
def Group.standing (g : Group) (s : State) : Group := if g.park.isSome then g else g.named s

/-- The scalar state of a group as a liveness save leaves it (05 R98, R100): what the entry does not name reads afterwards as
it was, or as zero, and which of the two is unspecified (assumption 3). The lines that it does not name leave the cache, and
read as the frame holds them, or as zero. -/
def thinRegs (s : State) (g : Group) : State × Group :=
  let zero := fun (k : Nat) => Config.freeChoice (s.freeCtr + k)
  let keep := fun (w lo k i : Nat) => (liveW g.live w).testBit (lo + i) || !zero (k + i)
  let thin := fun {α : Type} (z : α) (w lo k : Nat) (xs : List α) => xs.zipIdx.map (fun x => if keep w lo k x.2 then x.1 else z)
  let lines := (List.range g.nregs).filter (fun n => lineDead g n && zero (103 + n))
  ({ s with freeCtr := s.freeCtr + 103 + g.nregs },
   { g with s := thin 0 8 0 0 g.s, a := thin 0 9 0 64 g.a, mB := thin 0 9 16 80 g.mB, mL := thin 0 9 16 80 g.mL,
            p := thin 0 9 32 96 g.p,
            lines := g.lines.filter (fun l => !lineDead g l.reg) ++
              lines.map (fun n => ⟨n, List.replicate g.width 0, false, s.fcycles, .general⟩) })

/-- A group parked before an instruction that waits for a QPOP result, once the result has come: it stands before that instruction,
where it goes on (12 R306). -/
def atInstr (g : Group) : Group := if g.beforePop then { g with st := .ready, park := none, refetch := true } else g

/-- A group saved (16 R384, R385): the lines, then the slot with its frame. Every line leaves the register cache; of those that its
entry does not name, the ones that will read as zero stay known as such (assumption 3). Memory that cannot be written is a
backing-fault (04 R86). -/
def saveGroup (s : State) (g : Group) (full : Bool) : State :=
  let g := (drainRegs s g).standing s
  let (s, g) := if full then (s, g) else thinRegs s g
  match writeLines s g (fun _ => true) with
  | none => stopGroup s g true 0x44 0 g.frame
  | some s =>
    match saveSlot s g (saveFrame s g 0x29 full) with
    | none => stopGroup s g true 0x44 0 (BitVec.ofNat 64 (slotVA s g))
    | some s => setGroup s { g with st := .saved, saving := false, fullSave := full,
                                    lines := if full then [] else g.lines.filter (fun l => lineDead g l.reg && !l.dirty) }

/-- Whether a group may be saved now: at its pre-emption point, or fully once PTO has passed and it is not in handler mode. A group
that a breakpoint halted alone is saved as any other, and is halted again where it is restored (assumption 14). -/
def maySave (s : State) (g : Group) : Bool :=
  (g.saving || (g.fullSave && !g.handler)) && decide (g.st ≠ .pending) && decide (g.st ≠ .saved) && decide (g.st ≠ .retiring) &&
    !(coreAt s g.core).halted && g.pendTrap.isNone && drained s g

/-- GROUP_SAVE (16 R384, R385). -/
def execGroupSave (gid : Nat) (s : State) : Host.Outcome State Fault Refusal :=
  onSome (groupOf s gid) (fun g => if maySave s g then .next (saveGroup s g (!g.saving)) else .fault .notEnabled)

/-! ### The team save area -/

/-- A named barrier from its 32 bytes. -/
def barAt (bs : List Byte) (off : Nat) : NBar :=
  let w := leNat ((bs.drop off).take 8)
  ⟨bits w 0 2, w.testBit 2, bits w 3 10, bits w 13 10, (wAt bs (off + 8)).toNat, (wAt bs (off + 16)).toNat, (wAt bs (off + 24)).toNat⟩

/-- The number of a state of a stream slot (16 R386). -/
def StSt.code : StSt → Nat
  | .free => 0
  | .set => 1
  | .running => 2

/-- The 128 bytes of a stream slot (16 R386). -/
def streamBytes (x : Stream) : List Byte :=
  let w := (List.range 8).flatMap (fun i => natLE 8 (x.recd.getD i 0).toNat)
  w ++ natLE 8 (x.st.code + (if x.bad.isSome then 4 else 0)) ++ natLE 8 x.moved ++ natLE 8 (x.fifo.flatten.length) ++
    natLE 8 ((x.bad.map (fun (t : TrapInfo) => t.addr)).getD 0).toNat ++ List.replicate 32 0

/-- Bytes cut into elements. -/
def chunks (n : Nat) : Nat → List Byte → List (List Byte)
  | 0, _ => []
  | k + 1, bs => if bs = [] then [] else bs.take n :: chunks n k (bs.drop n)

/-- A stream slot from its bytes and those of its FIFO; what the area has no room for is as it was (16 R386, R387). -/
def streamAt (bs fifo : List Byte) (old : Stream) : Stream :=
  let st := bits (wAt bs 64).toNat 0 2
  let recd := wordsAt bs 0 8
  let moved := (wAt bs 72).toNat
  let els := chunks (strmSize recd) 2048 (fifo.take (min 2048 (wAt bs 80).toNat))
  { old with st := if st = 1 then .set else if st = 2 then .running else .free, recd := recd, moved := moved, fifo := els,
             done := if strmScatters recd then moved + els.length else moved - els.length,
             badAt := if old.bad.isSome then old.badAt else moved + els.length,
             bad := if (wAt bs 64).getLsbD 2 then some { old.bad.getD (trapC 0 0) with addr := wAt bs 88 } else none }

/-- The team's stream slots: 0 to 3 on its core, 4 to 7 on the odd core of a pair. -/
def teamStreams (s : State) (t : Team) : List (Nat × Stream) :=
  (List.range (4 * t.cores.length)).filterMap (fun i =>
    let x := slotOf s (t.core + i / 4) (i % 4)
    if x.st ≠ .free ∧ x.team = t.id then some (i, x) else none)

/-- Byte ranges, sorted, merged where they meet. -/
def mergeRanges (rs : List (Nat × Nat)) : List (Nat × Nat) :=
  (sortBy (fun (a b : Nat × Nat) => decide (a.1 ≤ b.1)) (rs.filter (fun r => decide (r.2 ≠ 0)))).foldl (fun acc r =>
    match acc with
    | (o, n) :: rest => if r.1 ≤ o + n then (o, max n (r.1 + r.2 - o)) :: rest else r :: acc
    | [] => [r]) [] |>.reverse

/-- The scratch ranges that the save of a team writes (16 R387): the union of those of the entries at which its groups were
saved; none stands for the whole scratchpad, where a group was fully saved, or has not run yet, or the union has more than 256
ranges. -/
def saveRanges (gs : List Group) : Option (List (Nat × Nat)) :=
  let rs := mergeRanges (gs.flatMap (fun g => liveScratch g.live))
  if gs.any (fun g => g.fullSave || decide (g.st = .pending)) ∨ 256 < rs.length then none else some rs

/-- The pages of the image of a scratchpad that a byte range of it touches: page, offset in the scratchpad, length. -/
def imagePages (off len : Nat) : List (Nat × Nat) :=
  (List.range (len / 65536 + 2)).filterMap (fun i =>
    let lo := max off ((off / 65536 + i) * 65536)
    let hi := min (off + len) ((off / 65536 + i + 1) * 65536)
    if lo < hi then some (lo, hi - lo) else none)

/-- A range of the scratchpad written to its image. -/
def putImage (s : State) (t : Team) (off len : Nat) : Option State :=
  (imagePages off len).foldl (fun o p => o.bind (fun s =>
    match translate s (t.core / 4) none t.ctx (t.save.toNat + 0x30000 + p.1) .wr with
    | (s, .ok ph) => if ph.dev.isSome then none else
        let cells := t.scratch.filter (fun c => decide (p.1 ≤ c.1) && decide (c.1 < p.1 + p.2))
        some { s with mem := memCells (memClear s.mem ph.pa p.2) (cells.map (fun c => (ph.pa + (c.1 - p.1), c.2))) }
    | (_, .error _) => none)) (some s)

/-- A range of the scratchpad loaded from its image. -/
def getImage (s : State) (t : Team) (off len : Nat) : Option State :=
  (imagePages off len).foldl (fun o p => o.bind (fun s =>
    match translate s (t.core / 4) none t.ctx (t.save.toNat + 0x30000 + p.1) .rd with
    | (s, .ok ph) => if ph.dev.isSome then none else
        let cells := s.mem.filter (fun c => decide (ph.pa ≤ c.1) && decide (c.1 < ph.pa + p.2))
        some (onTeam s t.id (fun t => { t with scratch := memCells t.scratch (cells.map (fun c => (p.1 + (c.1 - ph.pa), c.2))) }))
    | (_, .error _) => none)) (some s)

/-- Bytes written into the save area of a team. -/
def putArea (t : Team) (off : Nat) (bs : List Byte) (s : State) : Option State :=
  putVA s (t.core / 4) t.ctx (t.save.toNat + off) bs

/-- The tiles, and path-trace registers, that an entry holds: none while it is POSTED (10 R255). -/
def heldMask (x : REnt) : BitVec 32 := if x.st = .posted then 0 else x.tmask

/-- The tiles of an entry that a save writes (10 R264). -/
def saveTiles (gs : List Group) (x : REnt) : BitVec 32 :=
  if gs.any (fun g => g.fullSave) then heldMask x
  else heldMask x &&& gs.foldl (fun m g => if g.st = .saved then m ||| (g.live.getD 10 0).truncate 32 else m) 0

/-- The tiles and the path-trace registers of a team written (10 R264, 11 R295). -/
def putTiles (s : State) (t : Team) (mask tmask : BitVec 32) : Option State :=
  let e := engOf s (t.core / 4)
  let bytes := fun (ws : List W32) => ws.flatMap (fun w => natLE 4 w.toNat)
  let o := ((List.range 32).filter (fun j => mask.getLsbD j)).foldl (fun o j =>
    o.bind (putArea t (0x4000 + 4096 * j) (bytes (tileOf e j)))) (some s)
  ((List.range 8).filter (fun j => tmask.getLsbD j)).foldl (fun o j => o.bind (putArea t (0x24000 + 4352 * j) (bytes (qOf e j)))) o

/-- The save area of a team written (16 R386, R387): the engine's part, the streams, the barriers, tags, stage counter and
TRAPBASE, then the scratchpad; `full` writes every tile and the whole scratchpad, as the drain of a halted core does. -/
def writeArea (s : State) (t : Team) (full : Bool) : Option State :=
  let gs := s.groups.filter (fun g => decide (g.team = t.id))
  let ent := entOf (engOf s (t.core / 4)) t.id
  let bit := fun (b : Bool) (n : Nat) => if b then 2 ^ n else 0
  let ranges := if full then none else saveRanges gs
  let strm := teamStreams s t
  let slot := fun (i : Nat) => ((strm.find? (fun x => decide (x.1 = i))).map (fun x => x.2)).getD Stream.empty
  let fault := fun (i : Nat) => (t.tagrec.find? (fun x => decide (x.1 = i))).getD (i, 0, 0, 0)
  let tree := ent.bind (fun x => x.tree)
  let head := natLE 8 (bit ent.isSome 0 + bit ((ent.map (fun x => x.heavy)).getD false) 1 +
      bit ((ent.map (fun x => decide (x.st = .rein))).getD false) 2 + bit tree.isSome 3 +
      16 * ((ranges.map (fun rs => rs.length)).getD 511)) ++
    natLE 8 ((ent.map (fun (x : REnt) => x.tmask)).getD 0).toNat ++ natLE 8 ((tree.map (fun (x : Tree) => x.addr)).getD 0) ++
    natLE 8 t.trapbase.toNat ++ natLE 8 (t.stage % 65536) ++ natLE 8 t.tagbits.toNat ++ natLE 8 t.tagerr.toNat ++ natLE 8 0 ++
    t.bars.flatMap barBytes ++
    (List.range 64).flatMap (fun i => let x := fault i; natLE 8 (x.2.1 + 256 * x.2.2.1) ++ natLE 8 x.2.2.2.toNat) ++
    (List.range 4).flatMap (fun i => streamBytes (slot i)) ++
    (ranges.getD []).flatMap (fun r => natLE 8 (r.1 / 4 + 2 ^ 18 * (r.2 / 4)))
  let o := putArea t 0 head s
  let o := (List.range 4).foldl (fun o i => o.bind (putArea t (0x2000 + 2048 * i) (slot i).fifo.flatten)) o
  let o := match ent with
    | none => o
    | some x => o.bind (fun s => putTiles s t (if full then heldMask x else saveTiles gs x) (heldMask x))
  match ranges with
  | none => o.bind (fun s => putImage s t 0 t.size)
  | some rs => rs.foldl (fun o r => o.bind (fun s => putImage s t r.1 r.2)) o

/-- A team whose save area cannot be written or read (04 R86): the fault is recorded, and its groups stop. -/
def stopTeam (s : State) (t : Team) (cause sub : Nat) (addr : W64) : State :=
  let s := faultRecord s { ctx := t.ctx, launch := t.launch, core := t.core, team := t.index, addr := addr } true cause sub
  { s with groups := s.groups.map (fun g => if g.team = t.id then { toRetiring s g with lines := [] } else g) }

/-- Whether a team can be saved now (16 R387, 10 R264): every group that has run is saved, its commands have retired, and its
scatters have drained. A group that is PENDING holds nothing and stays so. -/
def maySaveTeam (s : State) (t : Team) : Bool :=
  decide (t.st = .resident) && t.preq.isSome && !(coreAt s t.core).halted &&
    s.groups.all (fun g => decide (g.team ≠ t.id) || decide (g.st = .saved) || decide (g.st = .pending)) &&
    !teamCmds s (t.core / 4) t.id && (teamStreams s t).all (fun x => strmEnds s (t.core + x.1 / 4) (x.1 % 4) x.2)

/-- The flags that commands left to a saved group, in its slot (10 R264). -/
def slotFlags (s : State) (g : Group) : State :=
  if g.mwFlags = 0 then s
  else
    let s := onGroup s g.id (fun g => { g with mwFlags := 0 })
    match getVA s g.cluster g.ctx (slotVA s g + 0x550) 8 with
    | some (s, bs) => (putVA s g.cluster g.ctx (slotVA s g + 0x550) (natLE 8 (wAt bs 0 ||| g.mwFlags.zeroExtend 64).toNat)).getD s
    | none => s

/-- What a saved team gives up (10 R264, 16 R387): its entry, its streams and its core. -/
def leaveCore (s : State) (t : Team) (tiles : BitVec 32) (qs : Bool) : State :=
  let c := t.core / 4
  let strm := teamStreams s t
  let s := freeTeamEnt s c t.id
  let s := leaveDrop s c (LeaveBy.ofTeam t.id)
  let s := strm.foldl (fun s x => freeSlot s (t.core + x.1 / 4) (x.1 % 4)) s
  let old := l1Units s t.core
  let s := onTeam s t.id (fun t => { t with st := .saved, preq := none, scratch := [], zsaved := tiles, qsaved := qs, strm := strm, savedAt := s.nextId })
  shrinkL1 s t.core old

/-- TEAM_SAVE (16 R387, 10 R264). Of a restored team whose entry is POSTED still, what it saved before is still saved (11 R295). -/
def execTeamSave (team : Nat) (s : State) : Host.Outcome State Fault Refusal :=
  onSome (teamOf s team) (fun t =>
    if !maySaveTeam s t then .fault .notEnabled
    else
      let gs := s.groups.filter (fun g => decide (g.team = team))
      let s := (gs.filter (fun g => decide (g.st = .saved))).foldl slotFlags s
      let ent := entOf (engOf s (t.core / 4)) team
      let waits := (ent.map (fun x => decide (x.st = .posted) && decide (x.restore ≠ 0))).getD false
      match writeArea s t false with
      | some s => .next (leaveCore s t (if waits then t.zsaved else (ent.map (saveTiles gs)).getD 0)
          (if waits then t.qsaved else (ent.map (fun x => decide (heldMask x ≠ 0))).getD false))
      | none => .next (stopTeam s t 0x44 0 t.save))

/-! ### The restoration of a team -/

/-- What a saved team needs of a core (05 R111, 06 R496): room for the groups of its launch, as at placement. -/
def backNeed (t : Team) (groups : List Nat) : Need := ⟨t.ctx, t.paired, t.fused, t.size / 16384, groups⟩

/-- Whether a core suits a saved team: it qualifies, has the slots of its saved groups, and its streams; on another cluster, once
the requests that were on their way from the old one when it was saved have arrived, so that what a group read there in L1 it
reads again (14 R338, R347). -/
def backFits (s : State) (t : Team) (core : Nat) : Bool :=
  let n := ((t.launch.bind (launchOf s)).map (fun l => l.recd.groups)).getD 0
  let mine := (s.groups.filter (fun g => decide (g.team = t.id) && decide (g.st = .saved))).map (fun g => g.idx)
  coreFits s (fun _ => false) (backNeed t (List.range n)) core && coreFits s (fun _ => false) (backNeed t mine) core &&
    t.strm.all (fun x => decide ((slotOf s (core + x.1 / 4) (x.1 % 4)).st = .free)) &&
    (decide (core / 4 = t.core / 4) || (clusterFlight s (t.core / 4)).all (fun r => decide (t.savedAt ≤ r.key)))

/-- The members of the span of a team. -/
def spanMates (s : State) (t : Team) : List Team :=
  let k := ((t.launch.bind (launchOf s)).map (fun l => l.recd.span)).getD 0 + 1
  s.teams.filter (fun x => decide (x.launch = t.launch) && decide (x.index / k = t.index / k) && decide (x.st ≠ .pending))

/-- The core for a saved team, where the rules of its span allow its return now (05 R112, 06 R136): beside the resident teams
of its span, else with the whole span on one die once all of them are saved. -/
def backCores (s : State) (t : Team) : List (Nat × Nat) :=
  let all := spanMates s t
  let here := all.filter (fun x => x.onCore)
  let die := fun (c : Nat) => dieOf (c / 4)
  let order := fun (cs : List Nat) => byLoad s (fun _ => false) t.paired cs
  match here with
  | [] =>
    if all.length ≤ 1 then ((order ((List.range 576).filter (backFits s t))).head?.map (fun c => (t.id, c))).toList
    else ((List.range 9).findSome? (fun d =>
      let cs := order ((dieCores s t.ctx t.paired d).filter (fun c => all.all (fun x => backFits s x c)))
      if cs.length < all.length then none else some ((all.map (fun x => x.id)).zip cs))).getD []
  | h :: _ =>
    ((order ((dieCores s t.ctx t.paired (die h.core)).filter (fun c => backFits s t c && !here.any (fun x => x.cores.contains c)))).head?.map
      (fun c => (t.id, c))).toList

/-- A group as its slot gives it: one with no active thread does what EXIT does then (16 R395), on a lane that is yet to choose it. -/
def takenUp (s : State) (g : Group) : Group :=
  if g.active ≠ 0 then g
  else
    let k := resumeOrRetire s { g with park := none, halted := false }
    { k with st := if k.st = .retiring then .retiring else .ready }

/-- A group taken from its slot (16 R387, R390), as RETT takes it: READY at its resume point, or PARKED again, then to go on as a
parked group does, without another check of its header (06 R114); what cannot be read is a backing-fault. -/
def reloadGroup (s : State) (g : Group) : State :=
  match getVA s g.cluster g.ctx (slotVA s g) 2048 with
  | none => stopGroup s g true 0x44 0 (BitVec.ofNat 64 (slotVA s g))
  | some (s, bs) =>
    match loadRegs bs { g with fullSave := false, saving := false, halted := false } with
    | none => stopGroup s g true 0x44 0 (BitVec.ofNat 64 (slotVA s g))
    | some g1 =>
      let s := reLiveTouch s g.liveIdx g1
      let g' := reLive s g.liveIdx g1
      if !(wAt bs 0).toNat.testBit 23 then
        setGroup s (takenUp s { resumeAt bs false g' with st := .ready, fresh := false, pendTrap := g.pendTrap })
      else
        let c := g.cluster
        let g' := { g' with st := .ready, pc := BitVec.ofNat 64 (va57 (wAt bs 0x10)), pos := bits (wAt bs 0).toNat 16 4, atHdr := false,
                            fresh := false, clause := [], checked := true, refetch := false, remain := none, transfer := none,
                            handler := false }
        match g.park with
        | none => setGroup s (takenUp s (if g.pendTrap.isSome then g' else nextPos g'))
        | some p =>
          let s := setGroup s (takenUp s { g' with st := .parked, park := some p })
          if p = .leave && !(hasLeave s c g.team || leaveAsks s c g.team) then leaveAsk s c (.leave g.team) else s

/-- A group of a restored team; one that is PENDING stays so, and one that a breakpoint halted alone is halted still. -/
def restoreGroup (s : State) (g : Group) : State :=
  if g.st ≠ .saved then s
  else onGroup (reloadGroup s g) g.id (fun k => { k with halted := g.halted && decide (k.st ≠ .retiring) })

/-- What a sleeping group waits for, counted in the lane cycles of the cluster it moves to (06 R130). -/
def moveSleep (s : State) (old new : Nat) : Park → Park
  | .sleep till => .sleep (cyclesOf s new + (till - cyclesOf s old))
  | p => p

/-- The groups of a team on the lanes of the core that it is given, whose slots they hold from then on (06 R496). -/
def moveGroups (s : State) (t : Team) : State :=
  { s with groups := s.groups.map (fun g =>
      if g.team = t.id then { g with lane := laneOf t g.idx, park := g.park.map (moveSleep s g.cluster (t.core / 4)) } else g) }

/-- The state of a team loaded from its save area (16 R387); none where it cannot be read. -/
def loadArea (s : State) (t : Team) : Option State :=
  let c := t.core / 4
  match getVA s c t.ctx t.save.toNat 0x1040 with
  | none => none
  | some (s, bs) =>
    let nr := bits (wAt bs 0).toNat 4 9
    let o := (List.range 4).foldl (fun (o : Option (State × List (List Byte))) i => o.bind (fun x =>
      (getVA x.1 c t.ctx (t.save.toNat + 0x2000 + 2048 * i) 2048).map (fun y => (y.1, x.2 ++ [y.2])))) (some (s, []))
    match o with
    | none => none
    | some (s, fifos) =>
      let s := t.strm.foldl (fun s x =>
        let y := if x.1 < 4 then streamAt ((bs.drop (0x640 + 128 * x.1)).take 128) (fifos.getD x.1 []) x.2 else x.2
        putSlot s (t.core + x.1 / 4) (x.1 % 4) y) s
      let recs := (List.range 64).filterMap (fun i =>
        let w := (wAt bs (0x240 + 16 * i)).toNat
        if w = 0 then none else some (i, bits w 0 8, bits w 8 8, wAt bs (0x248 + 16 * i)))
      let s := onTeam s t.id (fun t => { t with
        trapbase := BitVec.ofNat 64 (va57 (wAt bs 0x18) / 8 * 8), stage := (wAt bs 0x20).toNat % 65536, tagbits := wAt bs 0x28,
        tagerr := wAt bs 0x30, tagrec := recs, bars := (List.range 16).map (fun i => barAt bs (0x40 + 32 * i)),
        scratch := [], strm := [] })
      if nr = 511 then getImage s t 0 t.size
      else (List.range (min 256 nr)).foldl (fun o i => o.bind (fun s =>
        let w := (wAt bs (0x840 + 8 * i)).toNat
        getImage s t (4 * bits w 0 18) (min (4 * bits w 18 18) (t.size - 4 * bits w 0 18)))) (some s)

/-- The last part of a restoration: the team is RESIDENT on its core with its state and its groups (16 R387). -/
def resumeTeam (s : State) (t : Team) : State :=
  match loadArea s t with
  | none => stopTeam (onTeam s t.id (fun t => { t with st := .resident, back := false })) t 0x44 0 t.save
  | some s =>
    let regions := ((t.launch.bind (launchOf s)).map (fun l => l.recd.regions)).getD []
    let s := onTeam s t.id (fun t => { t with st := .resident, back := false })
    let s := t.cores.foldl l1Clear (readyCores s t regions)
    (s.groups.filter (fun g => decide (g.team = t.id))).foldl restoreGroup s

/-- A team whose tree cannot be bound again (11 R295): it goes from SAVED to RETIRED without running, with a record of the tree-descriptor
fault whatever the binding failed of. -/
def dropSaved (s : State) (t : Team) (bad : TrapInfo) : State :=
  let s := faultRecord s { ctx := t.ctx, launch := t.launch, core := t.core, team := t.index, addr := bad.addr } true 0x1B 0
  let s := (s.groups.filter (fun g => decide (g.team = t.id))).foldl releaseGroup s
  dropTeam (abandonClaims (freeTeamEnt s (t.core / 4) t.id) t) t

/-- A team given a core (10 R264, 11 R295, 06 R496): its groups take their slots there, its entry is posted again, its tree bound
as TREEBIND binds it, which empties the node cache (11 R284); a team that held the rein waits for it. -/
def takeCore (s0 : State) (t : Team) (core : Nat) : State :=
  let s := s0
  let old := l1Units s core
  let c := core / 4
  let s := fuseL1 (shrinkL1 (onTeam s t.id (fun t => { t with core := core, back := true })) core old) (core / 4)
  match teamOf s t.id with
  | none => s
  | some t =>
    let s := moveGroups s t
    match getVA s c t.ctx t.save.toNat 0x18 with
    | none => stopTeam (onTeam s t.id (fun t => { t with st := .resident, back := false })) t 0x44 0 t.save
    | some (s, bs) =>
      let w := wAt bs 0
      if !w.getLsbD 0 then resumeTeam s t
      else
        let post := fun (s : State) (tree : Option Tree) =>
          let s := onEng s c (fun e => postEnt e t.id ((wAt bs 8).truncate 32) (w.getLsbD 1) tree (if w.getLsbD 2 then 2 else 1))
          let s := if (parkedIn s t.id (fun p => decide (p = .reinget))) = [] then s
            else onEng s c (fun e => onEnt e t.id (fun x => { x with pending := true }))
          if w.getLsbD 2 then s else resumeTeam s t
        if !w.getLsbD 3 then post s none
        else match readTree s ⟨t.id, t.ctx, c, t.id⟩ t.launch core [] (wAt bs 0x10).toNat with
          | (s, .ok tree) => post (onEng s c (fun e => { e with ncache := [] })) (some tree)
          | (s, .error (some bad)) => dropSaved s t bad
          | (_, .error none) => s0

/-- Whether the saved area of a team holds an entry, for which the table of its new cluster must have room. -/
def needsEnt (s : State) (t : Team) : Bool :=
  match getVA s (t.core / 4) t.ctx t.save.toNat 8 with
  | some (_, bs) => (wAt bs 0).getLsbD 0
  | none => false

/-- Whether the tree that a saved team has bound can be read now for its new core (11 R295); where its descriptor lies on a page of
another device it is asked for. -/
def treeHere (s : State) (t : Team) (core : Nat) : State × Bool :=
  match getVA s (core / 4) t.ctx t.save.toNat 0x18 with
  | none => (s, true)
  | some (s, bs) =>
    if !(wAt bs 0).getLsbD 0 || !(wAt bs 0).getLsbD 3 then (s, true)
    else match readTree s ⟨t.id, t.ctx, core / 4, t.id⟩ t.launch core [] (wAt bs 0x10).toNat with
      | (s, .error none) => (s, false)
      | _ => (s, true)

/-- TEAM_RESTORE (16 R387, 05 R112, 06 R136, R496): a saved team of an ACTIVE context is given a core; one that held the rein
resumes once its entry has been granted it (10 R264). -/
def execTeamRestore (team : Nat) (s : State) : Host.Outcome State Fault Refusal :=
  onSome (teamOf s team) (fun t =>
    let active := decide (((s.contexts[t.ctx]?).map (fun c => c.st)) = some .active)
    if t.st ≠ .saved ∨ !active then .fault .notEnabled
    else if t.back then
      if holdsRein (engOf s (t.core / 4)) team then .next (resumeTeam s t) else .fault .notEnabled
    else
      let cs := backCores s t
      let room := fun (c : Nat) => decide ((cs.filter (fun x => decide (x.2 / 4 = c) && ((teamOf s x.1).map (needsEnt s)).getD false)).length +
        (engOf s c).ents.length ≤ 32)
      if cs = [] ∨ !cs.all (fun x => room (x.2 / 4)) then .fault .notEnabled
      else
        let on := fun (s : State) (x : Nat × Nat) => (teamOf s x.1).map (fun t => (t, x.2))
        let (asked, here) := cs.foldl (fun (a : State × Bool) x => match on a.1 x with
          | some (t, core) => let (s, ok) := treeHere a.1 t core; (s, a.2 && ok)
          | none => a) (s, true)
        if !here then .next asked
        else .next (cs.foldl (fun s x => match on s x with
          | some (t, core) => takeCore s t core
          | none => s) s))

end Sys2Proof.Machine
end

