-- ==== Sys2Proof/Machine/Debug.lean ====
section
/-! DEFINITION. Halting and draining cores (16 R389, R390, R396, R397), and the invalidation of translations (15 R371 to
R373). -/

namespace Sys2Proof.Machine

/-! ### HALT and DBGDRAIN -/

/-- A group that can execute on a core, and is not yet stopped. -/
def stillGoing (g : Group) (core : Nat) : Bool :=
  decide (g.core = core) && !g.halted && decide (g.st ≠ .pending) && decide (g.st ≠ .saved) && decide (g.st ≠ .retiring)

/-- A group of a halted core stopped (16 R389): its results written, its lines, frame and slot with them; one in handler mode
stops as it is; none where it has to wait. -/
def haltGroup (s : State) (g : Group) : Option State :=
  let stop := fun (g : Group) => { g with halted := true, st := if g.st = .running then .ready else g.st }
  if g.handler then (if g.coal = [] ∧ g.fifo = [] then some (setGroup s (stop g)) else none)
  else if g.pendTrap.isSome || !drained s g then none
  else
    let g := (drainRegs s g).standing s
    match writeLines s g (fun _ => true) with
    | none => some (stopGroup s g true 0x44 0 g.frame)
    | some s =>
      match saveSlot s g (saveFrame s g 0x2A true) with
      | none => some (stopGroup s g true 0x44 0 (BitVec.ofNat 64 (slotVA s g)))
      | some s => some (setGroup s { stop g with lines := [] })

/-- Whether every group of a halted core has stopped. -/
def allStopped (s : State) (core : Nat) : Bool := !s.groups.any (fun g => stillGoing g core)

/-- The teams on a core. -/
def coreTeams (s : State) (core : Nat) : List Team := s.teams.filter (fun t => t.onCore && t.launch.isSome && t.cores.contains core)

/-- Whether a halted core can be drained (16 R390). -/
def mayDrain (s : State) (core : Nat) : Bool :=
  allStopped s core && (coreTeams s core).all (fun t => !teamWork s t && (teamStreams s t).all (fun x =>
    strmEnds s (t.core + x.1 / 4) (x.1 % 4) x.2))

/-- A core drained: the state of its teams is written, and stays in the core (16 R390). -/
def drainCore (s : State) (core : Nat) : State :=
  let s := (coreTeams s core).foldl (fun s t => match writeArea s t true with
    | some s => s
    | none => faultRecord s { ctx := t.ctx, launch := t.launch, core := t.core, team := t.index, addr := t.save } true 0x44 0) s
  onCore s core (fun c => { c with drained := true })

/-- The part of a team's state that DBGDRAIN wrote loaded again, with the tiles of its entry (16 R390). -/
def reloadTeam (s : State) (t : Team) : State :=
  let s := onTeam s t.id (fun x => { x with strm := teamStreams s t })
  match (teamOf s t.id).bind (loadArea s) with
  | none => stopTeam s t 0x44 0 t.save
  | some s => match entOf (engOf s (t.core / 4)) t.id with
    | none => s
    | some x => loadTiles s (t.core / 4) { t with zsaved := heldMask x, qsaved := true } (heldMask x)

/-- A halted core resumed (16 R390): what DBGDRAIN wrote is loaded, every frame and slot is taken as RETT takes them, and a
group in handler mode goes on. -/
def resumeCore (s : State) (core : Nat) : State :=
  let s := if (coreAt s core).drained then (coreTeams s core).foldl reloadTeam s else s
  let s := onCore s core (fun c => { c with halted := false, drained := false })
  (s.groups.filter (fun g => decide (g.core = core) && g.halted)).foldl (fun s g =>
    if g.handler then setGroup s { g with halted := false } else reloadGroup s g) s

/-- The core that an instruction names: none where its index is too large or its cluster is not of the partition (16 R396). -/
def coreArg (s : State) (g : Group) (f : RF) : Option Nat :=
  let v := (g.s.getD f.d.toNat 0).toNat
  if 575 < v ∨ !inPart s g.ctx (v / 4) then none else some v

/-- HALT (16 R396): the groups of the core stop as they can (16 R389), and the issuer waits for them. -/
def execHalt (h : Hd) (f : RF) (s : State) : Host.Outcome State Fault Refusal :=
  wideOp (.halt h f) h (fun g s =>
    match coreArg s g f with
    | none => .trap s illegal
    | some k =>
      if (coreAt s k).halted then .done s
      else .done (onCore (setGroup s (parkGroup s g (.halt k 0))) k (fun c => { c with halted := true }))) s

/-- HALT.resume (16 R396). -/
def execHaltResume (h : Hd) (f : RF) (s : State) : Host.Outcome State Fault Refusal :=
  wideOp (.haltResume h f) h (fun g s =>
    match coreArg s g f with
    | none => .trap s illegal
    | some k => if !(coreAt s k).halted then .done s else .done (setGroup s (parkGroup s g (.halt k 1)))) s

/-- DBGDRAIN (16 R397). -/
def execDbgdrain (h : Hd) (f : RF) (s : State) : Host.Outcome State Fault Refusal :=
  wideOp (.dbgdrain h f) h (fun g s =>
    match coreArg s g f with
    | none => .trap s illegal
    | some k => if !(coreAt s k).halted then .done s else .done (setGroup s (parkGroup s g (.halt k 2)))) s

/-- What the wait of HALT (form 0), HALT.resume (1) or DBGDRAIN (2) comes to, once it can (16 R389, R390). -/
def haltEnd (s : State) (g : Group) (k form : Nat) : Option State :=
  let c := coreAt s k
  if !awake g then none
  else if !c.halted then some (wake s g.id)
  else if !allStopped s k then none
  else match form with
    | 0 => some (wake s g.id)
    | 1 => some (wake (resumeCore s k) g.id)
    | _ => if c.drained then some (wake s g.id) else if mayDrain s k then some (wake (drainCore s k) g.id) else none

/-! ### TLBINV -/

/-- Whether a cached translation is of the contexts and addresses named. -/
def TlbEnt.covered (e : TlbEnt) (ctx : Option Nat) (lo hi : Nat) : Bool :=
  (match ctx with
    | some c => decide (e.ctx = c)
    | none => true) && decide (e.va < hi) && decide (lo < e.va + (if e.big then 2 ^ 29 else 65536))

/-- The covered entries gone from every TLB, and the page-walk cache entries of the contexts (15 R371, R372). -/
def dropEntries (s : State) (ctx : Option Nat) (lo hi : Nat) : State :=
  { s with
    cores := s.cores.map (fun c => { c with tlb := c.tlb.filter (fun e => !e.covered ctx lo hi) }),
    clusters := s.clusters.map (fun c => { c with l2tlb := c.l2tlb.filter (fun e => !e.covered ctx lo hi) }),
    pwc := s.pwc.filter (fun e => match ctx with
      | some c => decide (e.ctx ≠ c)
      | none => false) }

/-- Whether the page of a translated address meets what an invalidation covers (15 R371, R372). -/
def pageMeets (lo hi : Nat) (big : Bool) (va : Nat) : Bool :=
  let n := if big then 2 ^ 29 else 65536
  decide (va / n * n < hi) && decide (lo < (va / n + 1) * n)

/-- Whether the page of an access was translated and is covered. -/
def vaCovered (lo hi : Nat) (va : Option Nat) (big : Bool) : Bool := (va.map (pageMeets lo hi big)).getD false

/-- Whether the page of an address has 512 MiB, as its cluster has it cached, else as the tables give it now. -/
def pageBig (s : State) (cluster ctx va : Nat) : Bool :=
  match tlbFind s cluster none ctx va with
  | some e => e.big
  | none => match walkGo s.mem s.poison (fun _ => none) va 4 0 (ctxRoot s ctx) [] with
    | .ok w => w.big
    | .error _ => false

/-- The pages that a copy reads and writes (15 R372); of a gather, the rows whose indices can be read. -/
def copyPages (s : State) (c : Copy) : List Nat :=
  (((srcSegs s c c.cd.rows ++ dstSegs c.cd c.dst).flatMap (fun x => pagesOf x.1 x.2)).filter (fun va => match targetOf va with
    | .xlat => true
    | _ => false)).eraseDups

/-- The accesses already translated that an invalidation waits for (15 R372, R373), of the contexts and the pages that it covers: the
requests on their way, here or on a link, the requests at queues and the arrivals at barrier records, the copies under way, and the
queued transfers between tiles and memory that were translated at their issue. -/
def translated (s : State) (ctx : Option Nat) (lo hi : Nat) : List Nat :=
  let of := fun (c : Nat) => match ctx with
    | some x => decide (c = x)
    | none => true
  let rows := fun (ps : List (List EPiece)) => ps.flatten.any (fun p => match p.at_ with
    | .mem _ _ _ => pageMeets lo hi p.big p.va
    | .pad _ _ => false)
  ((s.flight ++ s.groups.flatMap ownReqs).filter (fun r => of r.ctx && vaCovered lo hi r.va r.big)).map (fun r => r.key) ++
    (s.remotes.filter (fun r => of r.ctx && vaCovered lo hi r.va r.big)).map (fun r => r.id) ++
    (s.qreqs.filter (fun r => ((groupOf s r.gid).map (fun g => of g.ctx)).getD false && vaCovered lo hi r.va r.big)).map (fun r => r.key) ++
    (s.gmsgs.filter (fun m => of m.arr.ctx && vaCovered lo hi m.va m.big)).map (fun m => m.key) ++
    (s.copies.filter (fun c => of c.ctx && c.started &&
      (copyPages s c).any (fun va => pageMeets lo hi (pageBig s c.cluster c.ctx va) va))).map (fun c => c.id) ++
    s.clusters.flatMap (fun x => ((x.eng.cmds ++ x.eng.pend).filter (fun k => of k.ctx && (match k.kind with
      | .zld _ _ ps => rows ps
      | .zst _ _ ps => rows ps
      | _ => false))).map (fun k => k.key))

/-- The identities of all accesses that are under way. -/
def underWay (s : State) : List Nat :=
  (s.flight ++ s.groups.flatMap ownReqs).map (fun r => r.key) ++ s.remotes.map (fun r => r.id) ++ s.qreqs.map (fun r => r.key) ++
    s.gmsgs.map (fun m => m.key) ++ s.copies.map (fun c => c.id) ++
    s.clusters.flatMap (fun x => (x.eng.cmds ++ x.eng.pend).map (fun k => k.key))

/-- The translation fault of an operand (15 R371). -/
def operandFault : TrapInfo := trapC 6 6

/-- TLBINV of a context's addresses, or of every context's (15 R371): a FREE context completes at once. -/
def tlbinvOp (i : Instr) (h : Hd) (k : Group → Except TrapInfo (Option Nat × Nat × Nat)) (s : State) :
    Host.Outcome State Fault Refusal :=
  wideOp i h (fun g s =>
    match k g with
    | .error t => .trap s t
    | .ok (ctx, lo, hi) =>
      let free : Bool := match ctx with
        | some c => decide (((s.contexts[c]?).map (fun (x : Context) => x.st)) = some .free)
        | none => false
      if free then .done s
      else .done (dropEntries (setGroup s (parkGroup s g (.tlbinv ctx lo hi (translated s ctx lo hi)))) ctx lo hi)) s

/-- The context that S[C] names. -/
def ctxArg (g : Group) (f : RF) : Except TrapInfo Nat :=
  let v := (g.s.getD f.d.toNat 0).toNat
  if 63 < v then .error operandFault else .ok v

/-- TLBINV.va (15 R371). -/
def execTlbinvVa (h : Hd) (f : RF) (s : State) : Host.Outcome State Fault Refusal :=
  tlbinvOp (.tlbinvVa h f) h (fun g => (ctxArg g f).map (fun c =>
    let a := va57 (g.s.getD f.a.toNat 0)
    (some c, a, a + 1))) s

/-- TLBINV.range (15 R371). -/
def execTlbinvRange (h : Hd) (f : RF) (s : State) : Host.Outcome State Fault Refusal :=
  tlbinvOp (.tlbinvRange h f) h (fun g => (ctxArg g f).bind (fun c =>
    let a := va57 (g.s.getD f.a.toNat 0)
    let n := (g.s.getD f.b.toNat 0).toNat
    if n = 0 ∨ 2 ^ 57 < a + n then .error operandFault else .ok (some c, a, a + n))) s

/-- TLBINV.ctx (15 R371). -/
def execTlbinvCtx (h : Hd) (f : RF) (s : State) : Host.Outcome State Fault Refusal :=
  tlbinvOp (.tlbinvCtx h f) h (fun g => (ctxArg g f).map (fun c => (some c, 0, 2 ^ 57))) s

/-- TLBINV.all (15 R371). -/
def execTlbinvAll (h : Hd) (f : RF) (s : State) : Host.Outcome State Fault Refusal :=
  tlbinvOp (.tlbinvAll h f) h (fun _ => .ok (none, 0, 2 ^ 57)) s

/-- TLBINV_COMPLETE (15 R372, R373): the accesses translated before have been performed, and no covered entry is left. -/
def execTlbinvComplete (gid : Nat) (s : State) : Host.Outcome State Fault Refusal :=
  onSome (groupOf s gid) (fun g =>
    match g.park with
    | some (.tlbinv ctx lo hi ids) =>
      if !awake g || switchHolds s g || (underWay s).any (fun x => ids.contains x) then .fault .notEnabled
      else .next (wake (dropEntries s ctx lo hi) gid)
    | _ => .fault .notEnabled)

end Sys2Proof.Machine
end

