-- ==== Sys2Proof/Machine/Power.lean ====
section
/-! DEFINITION. Operating points, the policy step, droop, leave and their instructions (18 R409 to R421). -/

namespace Sys2Proof.Machine

/-! ### Pools and bands -/

/-- The lane frequency of a pool in MHz (18 R409). -/
def poolMhz (k : Nat) : Nat := 1200 + 200 * k

/-- The voltage requested for a cluster in a pool (18 R409): the nominal one, with its calibration and the undervolt. -/
def poolMv (s : State) (c k : Nat) : Int :=
  600 + 25 * (k : Int) + (((Config.calibration c k).val : Int) - 100) + s.undervolt.getD k 0

/-- The band of an operating class (18 R410). -/
def classBand : Nat → Nat × Nat
  | 0 => (0, 4)
  | 1 => (0, 8)
  | 2 => (2, 10)
  | 3 => (4, 12)
  | 4 => (6, 14)
  | 5 => (8, 14)
  | 6 => (10, 14)
  | _ => (12, 14)

/-- The band of a launch (18 R410). -/
def launchBand (l : Launch) : Nat × Nat :=
  let b := classBand l.cls
  (b.1, if l.boost && decide (b.2 = 14) then 16 else b.2)

/-- The teams on a cluster. -/
def clusterTeams (s : State) (c : Nat) : List Team := s.teams.filter (fun t => t.onCore && decide (t.core / 4 = c))

/-- The launches with teams on a cluster. -/
def clusterLaunches (s : State) (c : Nat) : List Launch :=
  ((clusterTeams s c).filterMap (fun t => t.launch)).eraseDups.filterMap (launchOf s)

/-- The lowest pool at or above a frequency; the highest pool where none reaches it. -/
def poolOver (fmin : Nat) : Nat := ((List.range 17).find? (fun k => decide (fmin ≤ poolMhz k))).getD 16

/-- The band of a cluster (18 R411). -/
def bandOf (s : State) (c : Nat) : Nat × Nat :=
  match clusterLaunches s c with
  | [] => (0, 0)
  | ls =>
    let lo := max ((ls.map (fun l => (launchBand l).1)).foldl max 0) (poolOver ((ls.map (fun l => l.fmin)).foldl max 0))
    let hi0 := (ls.map (fun l => (launchBand l).2)).foldl max 0
    let hi := if ls.all (fun l => l.boost) then hi0 else min hi0 14
    if hi < lo then (hi, hi) else (lo, hi)

/-! ### Clocks -/

/-- The cluster with its lane clock based anew at this fabric cycle, before its frequency changes (01 R23, 18 R416). -/
def rebase (s : State) (c : Nat) : State :=
  let now := cyclesOf s c
  onCluster s c (fun x => { x with cyc0 := now, cycF := s.fcycles,
                                   stretched := if x.droop then x.stretched + (now - x.cyc0) else x.stretched })

/-- A notification to each context with a team on a cluster (18 R414, R415). -/
def notifyCluster (s : State) (c kind a1 : Nat) : State :=
  ((clusterTeams s c).map (fun t => t.ctx)).eraseDups.foldl (fun s x => notify s x kind c a1) s

/-! ### The policy step -/

/-- The target pool from the ratios of the interval and the band (18 R413), before the limits. -/
def targetPool (x : Cluster) (band : Nat × Nat) : Nat :=
  let mem := x.ratios.getD 0 0
  let iss := x.ratios.getD 1 0
  let mx := x.ratios.getD 2 0
  let p := if 512 ≤ mx ∨ 768 ≤ iss then x.pool + 1
    else if 768 ≤ mem then x.pool - 1
    else if iss < 128 then band.1
    else x.pool
  min (max p band.1) band.2

/-- The clusters whose targets a limit that does not hold would have lowered (18 R415). -/
def overLimit (s : State) (ts : List Nat) : List Nat :=
  let power := fun (c : Nat) => Config.powerEstimate c (ts.getD c 0) (clusterAt s c).ratios
  let all := List.range 144
  let sum := fun (cs : List Nat) => (cs.map power).foldl (· + ·) 0
  let package := if 2400 < sum all then all else []
  let launches := s.launches.flatMap (fun l =>
    let cs := all.filter (fun c => (clusterTeams s c).any (fun t => decide (t.launch = some l.id)))
    if l.maxw < sum cs then cs else [])
  let dies := (List.range 9).flatMap (fun d =>
    let cs := all.filter (fun c => decide (dieOf c = d))
    if Config.coolEnough d s.freeCtr (cs.map (fun c => ts.getD c 0)) then [] else cs)
  package ++ launches ++ dies

/-- The targets lowered, one pool at a time in descending cluster index, until the limits hold (18 R415). -/
def lowerTargets (s : State) : List Nat → List Nat → List Nat
  | [], ts => ts
  | c :: cs, ts =>
    lowerTargets s cs (if (overLimit s ts).contains c then ts.set c (ts.getD c 0 - 1) else ts)

/-- The pool that a cluster is to be in before the limits are looked at: its target (18 R413), or where a change is under way, which no
target replaces, that of the change. -/
def wishedPool (s : State) (c : Nat) : Nat :=
  match (clusterAt s c).change with
  | some y => y.pool
  | none => targetPool (clusterAt s c) (bandOf s c)

/-- The ratios of the interval that ends, and the counters begun anew (18 R412). -/
def closeInterval (s : State) (c : Nat) : State :=
  let now := cyclesOf s c
  onCluster s c (fun x =>
    let r := fun (n : Nat) => if now ≤ x.mark then 0 else min 1024 (n * 1024 / (now - x.mark))
    { x with ratios := [r x.memstall, r x.issue, r x.mxbusy], memstall := 0, issue := 0, mxbusy := 0, mark := now })

/-- A change of pool asked of the root (18 R413, R414): denied whole below 550 mV, else begun, a raise with the voltage and a
lowering with the frequency. -/
def askPool (s : State) (c target : Nat) : State :=
  let x := clusterAt s c
  let mv := poolMv s c target
  if target = x.pool then s
  else if mv < 550 then notifyCluster s c 4 mv.toNat
  else
    let up := decide (x.pool < target)
    onCluster s c (fun x => { x with change := some ⟨target, up, mv, up, s.fcycles, x.mv⟩ })

/-- Throttling as a policy step leaves it (18 R415): it begins where the limits lowered the target of a cluster below its band and it is
placed there, and ends where it is placed in the band again. -/
def setThrottle (s : State) (c target pool lo : Nat) : State :=
  let was := (clusterAt s c).throttled
  let is := decide (pool < lo) && (was || decide (target < lo))
  let s := onCluster s c (fun x => { x with throttled := is })
  if is && !was then notifyCluster s c 1 (poolMhz pool) else if was && !is then notifyCluster s c 2 (poolMhz pool) else s

/-- One cluster at a policy step: its target is asked for unless a change is under way (18 R413), one pool lower where it is
throttled and a request for leave waits (18 R419). -/
def placeCluster (ts : List Nat) (s : State) (c : Nat) : State :=
  let x := clusterAt s c
  if x.change.isSome then s
  else
    let waits := x.throttled && x.leaveQ.any (fun l => !l.2)
    let target := if waits then ts.getD c 0 - 1 else ts.getD c 0
    let s := onCluster s c (fun x => { x with leaveQ := x.leaveQ.map (fun l => (l.1, true)) })
    let s := askPool s c target
    let pool := ((clusterAt s c).change.map (fun (y : Change) => y.pool)).getD x.pool
    setThrottle s c (ts.getD c 0) pool (bandOf s c).1

/-- The launches of a context under its latest grant (04 R83). -/
def applyGrant (s : State) (ctx : Nat) : State :=
  match (s.contexts[ctx]?).bind (fun c => c.grantNew) with
  | none => s
  | some w =>
    let g := w.toNat
    let s := onCtx s ctx (fun c => { c with grantNew := none })
    { s with launches := s.launches.map (fun l =>
        if l.ctx = ctx then { l with cls := grantClass (bits g 0 8) l.cls, maxw := min l.maxw (bits g 8 16),
                                     fmin := min l.fmin (bits g 24 16), boost := l.boost && g.testBit 40 } else l) }

/-- POLICY_STEP (18 R412, R413, R415, R418; 04 R83), once at every boundary of 20,000 fabric cycles: the work of the stable, which
runs in normal mode alone (19 R427). -/
def execPolicyStep (s : State) : Host.Outcome State Fault Refusal :=
  if s.firm.mode ≠ 1 ∨ s.fcycles < s.policyAt then .fault .notEnabled
  else
    let all := List.range 144
    let s := (List.range 64).foldl applyGrant { s with policyAt := (s.fcycles / 20000 + 1) * 20000 }
    let s := all.foldl closeInterval s
    let down := (List.replicate 17 (all.reverse.filter (fun c => (clusterAt s c).change.isNone))).flatten
    let ts := lowerTargets s down (all.map (wishedPool s))
    let s := all.foldl (placeCluster ts) s
    let k := s.freeCtr
    let s := all.foldl (fun s c => onCluster s c (fun x => { x with
      grantR := ([32, 24, 16, 12, 8, 4] : List Nat).getD (Config.ration c k).val 32 })) s
    .next { s with freeCtr := k + 1 }

/-- The fabric cycles that a ramp takes (18 R414): 1 µs for 100 mV. -/
def rampCycles (x : Change) : Nat := 20 * (x.mv - x.from_).natAbs

/-- VOLTAGE_RAMP_END (18 R413, R414): of a raise, the frequency switch follows; of a lowering, the change is complete. -/
def execVoltageRampEnd (cluster : Nat) (s : State) : Host.Outcome State Fault Refusal :=
  onSome ((clusterAt s cluster).change) (fun x =>
    if !x.ramp ∨ s.fcycles < x.at_ + rampCycles x then .fault .notEnabled
    else .next (onCluster s cluster (fun c => { c with
      mv := x.mv, change := if x.up then some { x with ramp := false, at_ := s.fcycles } else none })))

/-- FREQUENCY_SWITCH_END (18 R413, R414). -/
def execFrequencySwitchEnd (cluster : Nat) (s : State) : Host.Outcome State Fault Refusal :=
  onSome ((clusterAt s cluster).change) (fun x =>
    if x.ramp ∨ s.fcycles < x.at_ + 64 then .fault .notEnabled
    else .next (onCluster (rebase s cluster) cluster (fun c => { c with
      pool := x.pool, mhz := poolMhz x.pool,
      change := if x.up then none else some { x with ramp := true, at_ := s.fcycles } })))

/-! ### Droop -/

/-- DROOP_DETECT (18 R416): a charge injection, or where 64 fall into the last 65,536 lane cycles, a stretched clock. -/
def execDroopDetect (cluster : Nat) (s : State) : Host.Outcome State Fault Refusal :=
  if 144 ≤ cluster ∨ (clusterAt s cluster).droop then .fault .notEnabled
  else
    let now := cyclesOf s cluster
    let recent := (clusterAt s cluster).injects.filter (fun t => decide (now < t + 65536))
    if recent.length < 64 then
      .next (onCluster s cluster (fun c => { c with injects := now :: recent, injected := c.injected + 1 }))
    else .next (onCluster (rebase s cluster) cluster (fun c => { c with injects := recent, droop := true }))

/-- DROOP_END (18 R416). -/
def execDroopEnd (cluster : Nat) (s : State) : Host.Outcome State Fault Refusal :=
  if (clusterAt s cluster).droop then .next (onCluster (rebase s cluster) cluster (fun c => { c with droop := false }))
  else .fault .notEnabled

/-- UNDERVOLT (18 R409): the stable asks the root for an offset of a pool; one outside −100 to 0 mV is refused. -/
def execUndervolt (pool mv : Nat) (s : State) : Host.Outcome State Fault Refusal :=
  if s.firm.mode ≠ 1 then .fault .notEnabled
  else if 16 < pool ∨ 100 < mv then .next s else .next { s with undervolt := s.undervolt.set pool (-(mv : Int)) }

/-! ### Leave -/

/-- Whether a request of a team waits for leave. -/
def leaveWaits (s : State) (c team : Nat) : Bool := (clusterAt s c).leaveQ.any (fun l => l.1.ofTeam team)

/-- LEAVE (18 R420): the request of a tenure does not stand for it, which ends with the tenure (18 R419). -/
def execLeave (h : Hd) (f : RF) (s : State) : Host.Outcome State Fault Refusal :=
  wideOp (.leave h f) h (fun g s =>
    if hasLeave s g.cluster g.team then .done s
    else
      let s := if leaveAsks s g.cluster g.team then s else leaveAsk s g.cluster (.leave g.team)
      if hasLeave s g.cluster g.team then .done s else .done (setGroup s (parkGroup s g .leave))) s

/-- LEAVE.rel (18 R420): the unit that the team holds; a request that waits is not withdrawn. -/
def execLeaveRel (h : Hd) (f : RF) (s : State) : Host.Outcome State Fault Refusal :=
  wideOp (.leaveRel h f) h (fun g s =>
    .done (onCluster s g.cluster (fun x => { x with leaves := x.leaves.filter (fun l => !l.ofTeam g.team) }))) s

/-- LEAVE_GRANT (18 R419): the oldest request that waits. -/
def execLeaveGrant (cluster : Nat) (s : State) : Host.Outcome State Fault Refusal :=
  if leaveOpen (clusterAt s cluster) then .next (onCluster s cluster leaveGrant) else .fault .notEnabled

/-- A heavy command at the head of a queue, under a heavy tenure whose unit was released, asks for leave again (10 R259,
18 R420). -/
def leaveAgain (s : State) (c : Nat) : Option State :=
  match headCmd (engOf s c) with
  | some k =>
    let heavy := ((entOf (engOf s c) k.team).map (fun (x : REnt) => x.heavy && decide (x.st = .rein))).getD false
    if k.kind.heavy && decide (k.phase = 0) && !k.lv && heavy && !hasLeave s c k.team && !leaveWaits s c k.team then
      some (leaveAsk s c (.tenure k.team)) else none
  | none => none

/-! ### PWRQ -/

/-- The voltage of a cluster in mV as it stands now (18 R421): during a ramp as ramped so far, in steps of 25 mV. -/
def mvNow (s : State) (x : Cluster) : Int :=
  match x.change with
  | some y =>
    if !y.ramp then x.mv
    else
      let d : Nat := min (y.mv - y.from_).natAbs ((s.fcycles - y.at_) / 20) / 25 * 25
      if y.from_ ≤ y.mv then y.from_ + d else y.from_ - d
  | none => x.mv

/-- The lane cycles of a cluster that a droop stretched (18 R416, R421). -/
def stretchedOf (s : State) (c : Nat) : Nat :=
  let x := clusterAt s c
  if x.droop then x.stretched + (cyclesOf s c - x.cyc0) else x.stretched

/-- The value of an item of PWRQ (18 R421). -/
def pwrVal (s : State) (g : Group) (item : Nat) : Nat :=
  let x := clusterAt s g.cluster
  match item with
  | 0 => x.mhz
  | 1 => (mvNow s x).toNat
  | 2 => x.pool
  | 3 => ((groupLaunch s g).map (fun (l : Launch) => l.cls)).getD 0
  | 4 => x.ratios.getD 0 0
  | 5 => x.ratios.getD 1 0
  | 6 => x.ratios.getD 2 0
  | 7 => x.injected
  | 8 => stretchedOf s g.cluster
  | 9 => x.grantR
  | _ => (if hasLeave s g.cluster g.team then 1 else 0) + (if leaveWaits s g.cluster g.team then 2 else 0) +
      (if x.throttled then 4 else 0)

/-- PWRQ (18 R421). -/
def execPwrq (h : Hd) (f : RF) (s : State) : Host.Outcome State Fault Refusal :=
  wideOp (.pwrq h f) h (fun g s =>
    if isReplay s g.ctx ∧ f.mod ≠ 3 then .trap s (trapC 0x0D 0)
    else .done (setGroup s (writeScalar g f.d.toNat (BitVec.ofNat 64 (pwrVal s g f.mod.toNat))))) s

end Sys2Proof.Machine
end

