-- ==== Sys2Proof/Machine/Commands.lean ====
section
/-! DEFINITION. The commands of a context's control page, and the teardown of a context (04 R79 to R81, R83, R87, R91, R93 to
R95). -/

namespace Sys2Proof.Machine

/-! ### The context record -/

/-- Whether the fields of a context record are out of their ranges, or a reserved one is not zero (04 R79, R80). -/
def crecBad (w : Nat → Nat) : Bool :=
  decide (w 0 / 2 ^ 52 ≠ 0) || decide (w 0 % 2 ^ 16 ≠ 0) || decide (w 1 / 2 ^ 11 ≠ 0) || decide (bits (w 1) 2 6 ≠ 0) ||
    decide (w 4 / 2 ^ 16 ≠ 0) || (decide (w 2 = 0) && decide (w 3 = 0) && decide (w 4 = 0)) || decide (w 5 / 2 ^ 41 ≠ 0) ||
    decide (bits (w 5) 24 16 < 1200) || decide (4400 < bits (w 5) 24 16) || decide (bits (w 5) 8 16 = 0) ||
    decide (2400 < bits (w 5) 8 16) || decide (bits (w 5) 0 8 = 0) || decide (w 6 / 2 ^ 16 ≠ 0) || decide (bits (w 6) 0 16 = 0) ||
    decide (4096 < bits (w 6) 0 16) || decide (w 7 / 2 ^ 57 ≠ 0) || decide (w 7 % 2 ^ 16 ≠ 0) || decide (w 8 / 2 ^ 40 ≠ 0) ||
    decide (w 8 % 2 ^ 16 ≠ 0) || decide (bits (w 8) 16 24 = 0) || decide (w 9 / 2 ^ 57 ≠ 0) || decide (w 9 % 2 ^ 16 ≠ 0) ||
    decide (w 10 < 2) || decide (73728 < w 10) || decide (w 11 % 64 ≠ 0) || decide (w 12 % 64 ≠ 0) || decide (w 13 % 64 ≠ 0) ||
    decide (w 14 % 8 ≠ 0) || decide (w 15 / 2 ^ 32 ≠ 0) || decide (bits (w 15) 11 5 ≠ 0) || decide (bits (w 15) 0 11 = 0)

/-- The fields of a context record (04 R79). -/
def readCRec (w : Nat → Nat) : CRec :=
  { ptroot := bits (w 0) 16 36, prio := bits (w 1) 8 3, replay := (w 1).testBit 1, priv := (w 1).testBit 0,
    part := (List.range 144).map (fun c => (w (2 + c / 64)).testBit (c % 64)), grant := BitVec.ofNat 64 (w 5),
    nqueue := bits (w 6) 0 16, rbase := w 7, rsize := bits (w 8) 16 24, sbase := w 9, nslot := w 10,
    lqd := BitVec.ofNat 64 (w 11), fqd := BitVec.ofNat 64 (w 12), nqd := BitVec.ofNat 64 (w 13), nentry := BitVec.ofNat 64 (w 14),
    pto := bits (w 15) 16 16, nregs := bits (w 15) 0 11 + 1 }

/-- The words of the record that CREC names; none where it does not lie aligned in readable memory. -/
def crecWords (s : State) (c : Context) : Option (Nat → Nat) :=
  let a := c.crec.toNat
  if a % 128 ≠ 0 ∨ paLimit ≤ a ∨ s.poison.contains (a / 128) then none else some (fun i => memNat s.mem (a + 8 * i) 8)

/-! ### Commands -/

/-- A command reported in CSTAT (04 R94). -/
def report (s : State) (ctx cmd result : Nat) : State := onCtx s ctx (fun c => { c with cmd := cmd, result := result })

/-- A command on a context (04 R94): ignored while another is in progress. -/
def command_ (ctx cmd : Nat) (s : State) (k : Context → State → State) : Host.Outcome State Fault Refusal :=
  onSome (s.contexts[ctx]?) (fun c => .next (if c.busy then report s ctx cmd 1 else k c s))

/-- A system queue opened from its descriptor (04 R87): FIFO, and not gleanable. The device reads and writes it in the translation of the
context (15 R361, R367). -/
def openSys (s : State) (ctx n : Nat) (va : W64) : Option State :=
  match walkNow s ctx (va57 va) .rw with
  | (_, .error _) => none
  | (s, .ok ph) =>
    if ph.dev.isSome || (queueAt s ph.pa).isSome then none
    else (readQueue s ph.pa ctx n).map (fun q =>
      let q := { q with gleanOk := false, edf := false }
      putQueue { s with queues := s.queues ++ [q] } q)

/-- A context with its record read and its queues opened; none where a descriptor is unusable (04 R93). Which registers of the control page
begin anew the spec does not say: LOST and DROPHINT do, EVPEND, EVMASK, MSIVEC and CREC keep their values (assumption 84). -/
def createWith (s : State) (ctx : Nat) (r : CRec) : Option State :=
  let s := onCtx s ctx (fun c => { c with
    st := .created, recd := some r, openQ := 3, ctrs := [], alloc := [], slots := [], grantNew := none, lostN := 0, lostF := 0,
    dropHints := 0 })
  (openSys s ctx 1 r.lqd).bind (fun s => (openSys s ctx 2 r.fqd).bind (fun s => openSys s ctx 3 r.nqd))

/-- CREATE (04 R93, R87, R91). -/
def execCreate (ctx : Nat) (s : State) : Host.Outcome State Fault Refusal :=
  command_ ctx 1 s (fun c s =>
    if s.firm.mode ≠ 1 then report s ctx 1 4
    else if c.st ≠ .free then report s ctx 1 2
    else match crecWords s c with
      | none => report s ctx 1 3
      | some w =>
        if crecBad w then report s ctx 1 3
        else
          let r := readCRec w
          if r.nqueue < 3 ∨ 65536 * r.rsize < frameSize 16 r.nregs then report s ctx 1 4
          else match createWith s ctx r with
            | none => report s ctx 1 3
            | some s => report s ctx 1 0)

/-- START (04 R93). -/
def execStart (ctx : Nat) (s : State) : Host.Outcome State Fault Refusal :=
  command_ ctx 2 s (fun c s =>
    if c.st = .created then report (onCtx s ctx (fun c => { c with st := .active })) ctx 2 0 else report s ctx 2 2)

/-- A SUSPENDING context becomes SUSPENDED once its last team is saved, while no activation is live (04 R91, R93). -/
def suspendDone (s : State) (ctx : Nat) : State :=
  match s.contexts[ctx]? with
  | some c =>
    let gone := s.teams.all (fun t => decide (t.ctx ≠ ctx) || (t.launch.isSome && decide (t.st ≠ .resident)))
    if c.st = .suspending && gone then raiseEvent (onCtx s ctx (fun c => { c with st := .suspended })) ctx 4 else s
  | none => s

/-- SUSPEND (04 R93): dispatch stops, and every resident team is requested. -/
def execSuspend (ctx : Nat) (s : State) : Host.Outcome State Fault Refusal :=
  command_ ctx 3 s (fun c s =>
    if c.st ≠ .active then report s ctx 3 2
    else
      let s := onCtx s ctx (fun c => { c with st := .suspending })
      let s := ((s.teams.filter (fun t => decide (t.ctx = ctx))).map (fun t => t.id)).foldl requestTeam s
      suspendDone (report s ctx 3 0) ctx)

/-- RESUME (04 R93). -/
def execResume (ctx : Nat) (s : State) : Host.Outcome State Fault Refusal :=
  command_ ctx 4 s (fun c s =>
    match c.st with
    | .suspending => report s ctx 4 1
    | .suspended => raiseEvent (report (onCtx s ctx (fun c => { c with st := .active })) ctx 4 0) ctx 4
    | _ => report s ctx 4 2)

/-- GRANT (04 R81, R83): PRIO and the power grant reread; what it lowers reaches running launches at the next policy step. The
spec has no row for a GRANT whose record is malformed, misaligned or poisoned: the model checks the whole record as CREATE does,
reports result 3 and rereads nothing (assumption 66). -/
def execGrant (ctx : Nat) (s : State) : Host.Outcome State Fault Refusal :=
  command_ ctx 6 s (fun c s =>
    if c.st ≠ .active then report s ctx 6 2
    else match crecWords s c with
      | none => report s ctx 6 3
      | some w =>
        if crecBad w then report s ctx 6 3
        else
          let r := readCRec w
          report (onCtx s ctx (fun c => { c with recd := c.recd.map (fun x => { x with prio := r.prio, grant := r.grant }),
                                                 grantNew := some r.grant })) ctx 6 0)

/-! ### Teardown -/

/-- The cause teardown (16 R374). -/
def teardownCause : Nat := 0x45

/-- A context with its queues and its translations released (04 R93, R95): FREE, with event TDONE. -/
def releaseCtx (s : State) (ctx : Nat) : State :=
  let s := { dropEntries (forgetReads s (dispatchers ctx).id) (some ctx) 0 (2 ^ 57) with queues := s.queues.filter (fun q => decide (q.ctx ≠ ctx)) }
  let s := onCtx s ctx (fun c => { c with st := .free, busy := false, recd := none, openQ := 0, ctrs := [], alloc := [], slots := [],
                                          grantNew := none })
  raiseEvent s ctx 5

/-- The cause and the time that a launch ended by a teardown has in STATUS (05 R101, R105). -/
def tornStatus (s : State) : Nat := 3 + 2 ^ 8 * teardownCause + 2 ^ 16 * (s.fcycles % 2 ^ 48)

/-- STATUS of a launch that still stands in the launch queue, where the record of its entry lies now (05 R105). -/
def entryStatus (s : State) (ctx : Nat) (e : QEntry) : State :=
  match walkNow s ctx (va57 (wAt e.bytes 0)) .rd with
  | (s, .ok ph) =>
    putStatus s { id := 0, ctx := ctx, lid := 0, recPA := some ph.pa, recd := readRec (fun _ => 0), st := .checking, next := 0,
                  cause := none, cls := 0, fmin := 0, maxw := 0, boost := false, waited := 0, recDev := ph.dev,
                  recPage := leafPage ph.leaf } (tornStatus s)
  | (s, .error _) => s

/-- The launches of a context that have not completed, queued ones among them, ended by its teardown (04 R95, step 6, 05 R105). -/
def tearLaunches (s : State) (ctx : Nat) : State :=
  let s := (s.launches.filter (fun l => decide (l.ctx = ctx))).foldl (fun s l => if l.told then s else putStatus s l (tornStatus s)) s
  (((sysQueue s ctx 1).map (fun q => q.ents)).getD []).foldl (fun s e => entryStatus s ctx e) s

/-- The first entry of the launch queue that has still to be read from another device, so that the record of its launch is known at a
teardown. -/
def unreadEntry (s : State) (ctx : Nat) : Option (Queue × QEntry) :=
  (sysQueue s ctx 1).bind (fun q => (q.ents.find? (fun e => decide (e.bytes = []))).map (fun e => (q, e)))

/-- TEARDOWN (04 R93, R95): a CREATED context is released at once; of any other, dispatch and groups stop, and its spawn bins are
discarded; so too of a CREATED one whose launch queue has entries that must first be read from another device. A CREATED context has no
launch but those in its queue: whether they too get the STATUS of 05 R105 ("any but DONE, FAILED") where 04 R93 names only the release,
the spec leaves open; in the model they do (assumption 67). -/
def execTeardown (ctx : Nat) (s : State) : Host.Outcome State Fault Refusal :=
  command_ ctx 5 s (fun c s =>
    match c.st, unreadEntry s ctx with
    | .created, none =>
      let s := { s with groups := s.groups.filter (fun g => decide (g.ctx ≠ ctx)), teams := s.teams.filter (fun t => decide (t.ctx ≠ ctx)) }
      report (releaseCtx (tearLaunches s ctx) ctx) ctx 5 0
    | .free, _ => report s ctx 5 2
    | .tearing, _ => report s ctx 5 2
    | _, _ =>
      let s := report (onCtx s ctx (fun c => { c with st := .tearing, busy := true })) ctx 5 0
      let mine := fun (l : Nat) => decide ((launchOf s l).map (fun x => x.ctx) = some ctx)
      { s with
        clusters := s.clusters.map (fun x => { x with bins := x.bins.filter (fun b => !mine b.launch) }),
        groups := s.groups.map (fun g => if g.ctx = ctx ∧ g.st = .running then { g with st := .ready } else g) })

/-- Whether a request or a task of a context at a queue or a counter can take effect now, or has still to be sent to another device: it
drains (04 R95, step 3). What waits for a full queue, or for an entry, waits for others and does not. -/
def queueWork (s : State) (ctx : Nat) : Bool :=
  let sent := fun (key : Nat) => s.remotes.any (fun r => decide (r.id = key) && decide (r.link ≠ unsent))
  s.qreqs.any (fun r => decide (((groupOf s r.gid).map (fun g => g.ctx)) = some ctx) &&
      ((acceptReq s r.gid).isSome || (r.dev.isSome && !sent r.key))) ||
    s.fired.any (fun f => decide (f.ctx = ctx) && ((taskPush s f.key).isSome || (firedReady s f && !f.sent && firedFar s f)))
where
  /-- Whether the queue of a fired task is homed on another device. -/
  firedFar (s : State) (f : Fired) : Bool :=
    match (walkNow s f.ctx (va57 f.queue) .rw).2 with
    | .ok ph => ph.dev.isSome
    | .error _ => false

/-- The copies of a context that are issued and can deliver no more: their receivers are saved, or halted and drained, and the teardown
restores none (09 R234, 16 R390); and those whose lines such a copy owns. -/
def stuckCopies (s : State) (ctx : Nat) : List Copy :=
  (s.copies.filter (fun c => decide (c.ctx = ctx) && c.queued)).foldl (fun acc c =>
    if (c.left ≠ [] && c.left.all (recvHeld s c)) || acc.any (fun x => x.owned.any (fun l => c.owned.contains l)) then acc ++ [c] else acc) []

/-- Whether work of a context is under way (04 R95, step 3). A copy that waits for its tag has not been issued. -/
def ctxWork (s : State) (ctx : Nat) : Bool :=
  queueWork s ctx || s.copies.any (fun c => c.queued && decide (c.ctx = ctx) && !(stuckCopies s ctx).contains c) ||
    (s.flight ++ s.groups.flatMap ownReqs).any (fun r => decide (r.ctx = ctx) && !toSaved s r) ||
    s.remotes.any (fun r => decide (r.ctx = ctx) && !s.qreqs.any (fun q => decide (q.key = r.id))) ||
    s.clusters.any (fun x => (x.eng.cmds ++ x.eng.pend).any (fun k => decide (k.kind ≠ .unbind) && decide (k.ctx = ctx))) ||
    s.gmsgs.any (fun m => decide (m.arr.ctx = ctx))
where
  /-- Whether a request waits for a team that is saved, which the teardown does not restore. -/
  toSaved (s : State) (r : Req) : Bool :=
    match r.kind with
    | .peer team _ => ((teamOf s team).map (fun (t : Team) => decide (t.st = .saved) || (coreAt s t.core).drained)).getD false
    | _ => false

/-- The teams of a context taken from the engine, the arbiters and the streams of their cluster (04 R95, step 4). -/
def expelTeam (s : State) (t : Team) : State :=
  let c := t.core / 4
  let s := leaveDrop (freeTeamEnt s c t.id) c (LeaveBy.ofTeam t.id)
  t.cores.foldl (fun s k => onCore s k (fun x => { x with streams := x.streams.map (fun y =>
    if y.st ≠ .free ∧ y.team = t.id then Stream.empty else y) })) s

/-- What is left of a context discarded (04 R95, steps 4 to 7); a launch that still stands in the launch queue is not complete
either (05 R105), and a STATUS on its way to another device is not discarded (05 R101). -/
def sweepCtx (s : State) (ctx : Nat) : State :=
  let s := (s.teams.filter (fun t => decide (t.ctx = ctx) && t.onCore)).foldl expelTeam s
  let waits := fun (r : GRec) => s.groups.any (fun g => decide (g.ctx = ctx) && (match g.park with
    | some (.gbar x _ 0) => decide (x = r.pa)
    | _ => false))
  let s := (s.recs.filter (fun r => decide (r.ctx = ctx) || waits r ||
    (r.arr ++ r.prev).any (fun (a : Arrived) => a.dev.isNone && decide (a.ctx = ctx)))).foldl abandonRec s
  let s := (s.joins.filter (fun j => decide (j.1 = ctx))).foldl (fun s j => tellDevices s [j.2.1] j.2.2 (natLE 8 j.2.2)) s
  let gone := fun (gid : Nat) => ((groupOf s gid).map (fun (g : Group) => decide (g.ctx = ctx))).getD false
  let s := tearLaunches { s with remotes := s.remotes.filter (fun r => decide (r.ctx ≠ ctx)) } ctx
  { s with
    copies := s.copies.filter (fun c => decide (c.ctx ≠ ctx)), qreqs := s.qreqs.filter (fun r => !gone r.gid), claims := s.claims.filter (fun c => !gone c.gid && decide (c.ctx ≠ ctx)),
    fired := s.fired.filter (fun f => decide (f.ctx ≠ ctx)), launches := s.launches.filter (fun l => decide (l.ctx ≠ ctx)),
    teams := s.teams.filter (fun t => decide (t.ctx ≠ ctx)), groups := s.groups.filter (fun g => decide (g.ctx ≠ ctx)),
    flight := s.flight.filter (fun r => decide (r.ctx ≠ ctx)), joins := s.joins.filter (fun j => decide (j.1 ≠ ctx)), cur := none }

/-- TEARDOWN_COMPLETE (04 R95): once the work of the context has drained; the entries of its launch queue that lie in pages of another
device are read first. -/
def execTeardownComplete (ctx : Nat) (s : State) : Host.Outcome State Fault Refusal :=
  onSome (s.contexts[ctx]?) (fun c =>
    if c.st ≠ .tearing ∨ ctxWork s ctx then .fault .notEnabled
    else match unreadEntry s ctx with
      | none => .next (releaseCtx (sweepCtx s ctx) ctx)
      | some (q, e) => match headEntry s ctx q e with
        | (s, .ok e') => .next (putQueue s { q with ents := q.ents.map (fun x => if x.seq = e.seq then e' else x) })
        | (s, .error (d, line)) => match askLine s (dispatchers ctx) none 0x3FF d line with
          | some s => .next s
          | none => .fault .notEnabled)

/-! ### The other registers of the page -/

/-- An entry that software has written behind the tail of the launch queue (04 R87, R94), read by its home slice (15 R367): one in a page
of another device is read when it is popped. -/
def launchEntry (s : State) (q : Queue) (seq : Nat) : State × List Byte :=
  match walkNow s q.ctx (va57 (BitVec.ofNat 64 (q.store + 64 * (seq % q.cap)))) .rd with
  | (s, .ok ph) => (s, if ph.dev.isSome then [] else memBytes s.mem ph.pa 64)
  | (s, .error _) => (s, List.replicate 64 255)

/-- LDOOR (04 R94): entries made visible at the tail of the launch queue, all of them or none. -/
def execLdoor (ctx n : Nat) (s : State) : Host.Outcome State Fault Refusal :=
  onSome (s.contexts[ctx]?) (fun _ =>
    match sysQueue s ctx 1 with
    | none => .next (report s ctx 0 3)
    | some q =>
      if n = 0 ∨ 4096 < n ∨ q.cap < q.ents.length + n then .next (report s ctx 0 3)
      else
        let (s, new) := (List.range n).foldl (fun (x : State × List QEntry) i =>
          let (s, bs) := launchEntry x.1 q (q.next + i)
          (s, x.2 ++ [⟨q.next + i, bs, [], [], none⟩])) (s, [])
        .next (putQueue s { q with next := q.next + n, ents := q.ents ++ new }))

/-- EVPEND written with ones (04 R94). -/
def execEvpendClear (ctx : Nat) (ones : W64) (s : State) : Host.Outcome State Fault Refusal :=
  onSome (s.contexts[ctx]?) (fun _ => .next (onCtx s ctx (fun c => { c with evpend := c.evpend &&& ~~~(ones.truncate 6) })))

end Sys2Proof.Machine
end

