-- ==== Sys2Proof/Machine/Trans.lean ====
section
/-! DEFINITION. The deterministic functions of 02 R42: the exact mathematical result rounded once to f32. The functions
are computed in fixed point with 512 fraction bits and the result is marked as not exact, which rounds as the exact value
does unless that value lies within 2 to the minus 300 of a rounding boundary (assumption 9). -/

namespace Sys2Proof.Machine

/-- The number of fraction bits of the fixed-point values. -/
def fxP : Nat := 512
/-- One in fixed point. -/
def fxOne : Nat := 2 ^ fxP
/-- The product in fixed point. -/
def fxMul (a b : Nat) : Nat := a * b / fxOne

/-- The series of the inverse tangent (alternating) or hyperbolic tangent from the power pw, n2 being the square of the
ratio of the powers. -/
def arcGo (alt : Bool) (n2 : Nat) : Nat → Nat → Nat → Int → Int
  | 0, _, _, acc => acc
  | f + 1, k, pw, acc =>
    let term : Int := pw / (2 * k + 1)
    arcGo alt n2 f (k + 1) (pw / n2) (if alt && decide (k % 2 = 1) then acc - term else acc + term)

/-- The natural logarithm of 2 as twice the inverse hyperbolic tangent of 1/3. -/
def fxLn2 : Nat := 2 * (arcGo false 9 170 0 (fxOne / 3) 0).toNat
/-- Half of pi, from 16 arctan (1/5) and 4 arctan (1/239). -/
def fxHalfPi : Nat :=
  (8 * arcGo true 25 120 0 (fxOne / 5) 0 - 2 * arcGo true 57121 40 0 (fxOne / 239) 0).toNat

/-- The inverse hyperbolic tangent of a fixed-point value. -/
def atanhGo (t2 : Nat) : Nat → Nat → Nat → Nat → Nat
  | 0, _, _, acc => acc
  | f + 1, k, pw, acc => atanhGo t2 f (k + 1) (fxMul pw t2) (acc + pw / (2 * k + 1))

/-- The exponential series: the term of index k is term. -/
def expGo (y : Nat) : Nat → Nat → Nat → Nat → Nat
  | 0, _, _, acc => acc
  | f + 1, k, term, acc => expGo y f (k + 1) (fxMul term y / (k + 1)) (acc + term)

/-- The exponential of a fixed-point value below 1. -/
def fxExp (y : Nat) : Nat := expGo y 110 0 fxOne 0

/-- The alternating series of the sine and the cosine. -/
def trigGo (y2 : Nat) : Nat → Nat → Nat → Int → Int
  | 0, _, _, acc => acc
  | f + 1, k, term, acc =>
    trigGo y2 f (k + 2) (fxMul term y2 / (k * (k + 1))) (if k / 2 % 2 = 1 then acc + term else acc - term)

/-- The sine of a fixed-point value up to half of pi. -/
def fxSin (y : Nat) : Nat := (trigGo (fxMul y y) 70 2 y 0).toNat
/-- The cosine of a fixed-point value up to half of pi. -/
def fxCos (y : Nat) : Nat := (trigGo (fxMul y y) 70 1 fxOne 0).natAbs

/-- A fixed-point magnitude, not exact, rounded to f32 to nearest (02 R42). -/
def fxPut (flush neg : Bool) (v : Nat) (e : Int) : Nat × Flags :=
  fRound fmtF32 .rne false flush neg (4 * v + 1) (e - 2)

/-- m times 2 to the e in fixed point, cut off. -/
def fxOf (m : Nat) (e : Int) : Nat :=
  if 0 ≤ e + fxP then m * 2 ^ (e + fxP).toNat else m / 2 ^ (-(e + fxP)).toNat

/-- Whether m times 2 to the e is below 2 to the minus 40. -/
def isTiny (m : Nat) (e : Int) : Bool := decide ((m.log2 : Int) + e < -40)

/-- A value just below m times 2 to the e. -/
def justBelow (flush neg : Bool) (m : Nat) (e : Int) : Nat × Flags :=
  fRound fmtF32 .rne false flush neg (m * 2 ^ 64 - 1) (e - 64)

/-- FRSQ (02 R42). -/
def fRsq (flush : Bool) : FVal → Nat × Flags
  | .nan s => (fNaN fmtF32, flagIf s flNV)
  | .inf n => if n then (fNaN fmtF32, flNV) else (0, 0)
  | .fin n m e =>
    if m = 0 then (fInf fmtF32 n, flDZ)
    else if n then (fNaN fmtF32, flNV)
    else
      let odd := decide (e % 2 = 1)
      let m' := if odd then 2 * m else m
      let h : Int := (if odd then e - 1 else e) / 2
      let r := isqrt (2 ^ 128 / m')
      if r * r * m' = 2 ^ 128 then fRound fmtF32 .rne false flush false r (-h - 64)
      else fRound fmtF32 .rne false flush false (4 * r + 1) (-h - 66)

/-- FEXP2 (02 R42). -/
def fExp2 (flush : Bool) : FVal → Nat × Flags
  | .nan s => (fNaN fmtF32, flagIf s flNV)
  | .inf n => (if n then 0 else fInf fmtF32 false, 0)
  | .fin n m e =>
    if m = 0 then fRound fmtF32 .rne false flush false 1 0
    else if isTiny m e then
      (if n then justBelow flush false 1 0 else fRound fmtF32 .rne false flush false (2 ^ 64 + 1) (-64))
    else
      let v : Int := if n then -(fxOf m e : Int) else fxOf m e
      let k := v / fxOne
      let f := (v % fxOne).toNat
      if f = 0 then fRound fmtF32 .rne false flush false 1 k
      else fxPut flush false (fxExp (fxMul f fxLn2)) (k - fxP)

/-- FLOG2 (02 R42). -/
def fLog2 (flush : Bool) : FVal → Nat × Flags
  | .nan s => (fNaN fmtF32, flagIf s flNV)
  | .inf n => if n then (fNaN fmtF32, flNV) else (fInf fmtF32 false, 0)
  | .fin n m e =>
    if m = 0 then (fInf fmtF32 true, flDZ)
    else if n then (fNaN fmtF32, flNV)
    else
      let l := m.log2
      let k : Int := l + e
      if m = 2 ^ l then fRound fmtF32 .rne false flush (decide (k < 0)) k.natAbs 0
      else
        let t := (m - 2 ^ l) * fxOne / (m + 2 ^ l)
        let g := 2 * atanhGo (fxMul t t) 170 0 t 0 * fxOne / fxLn2
        let v : Int := k * fxOne + g
        fxPut flush (decide (v < 0)) v.natAbs (-fxP)

/-- FSIN or FCOS of a value that is not tiny: the quadrant chooses the function and the sign. -/
def trigOf (flush cos neg : Bool) (m : Nat) (e : Int) : Nat × Flags :=
  let y := fxOf m e
  let k := y / fxHalfPi
  let r := y % fxHalfPi
  let quad := (if cos then k + 1 else k) % 4
  let v := if quad % 2 = 0 then fxSin r else fxCos r
  fxPut flush (decide (2 ≤ quad) != (neg && !cos)) v (-fxP)

/-- FSIN (02 R42). -/
def fSin (flush : Bool) : FVal → Nat × Flags
  | .nan s => (fNaN fmtF32, flagIf s flNV)
  | .inf _ => (fNaN fmtF32, flNV)
  | .fin n m e =>
    if m = 0 then (fSign fmtF32 n, 0)
    else if isTiny m e then justBelow flush n m e
    else trigOf flush false n m e

/-- FCOS (02 R42). -/
def fCos (flush : Bool) : FVal → Nat × Flags
  | .nan s => (fNaN fmtF32, flagIf s flNV)
  | .inf _ => (fNaN fmtF32, flNV)
  | .fin n m e =>
    if m = 0 then fRound fmtF32 .rne false flush false 1 0
    else if isTiny m e then justBelow flush false 1 0
    else trigOf flush true n m e

/-- FTANH (02 R42). -/
def fTanh (flush : Bool) : FVal → Nat × Flags
  | .nan s => (fNaN fmtF32, flagIf s flNV)
  | .inf n => fRound fmtF32 .rne false flush n 1 0
  | .fin n m e =>
    if m = 0 then (fSign fmtF32 n, 0)
    else if isTiny m e then justBelow flush n m e
    else if 5 ≤ (m.log2 : Int) + e then justBelow flush n 1 0
    else
      let y := fxOf m (e + 1)
      let k := y / fxLn2
      let ex := fxExp (y % fxLn2) * 2 ^ k
      fxPut flush n ((ex - fxOne) * fxOne / (ex + fxOne)) (-fxP)

end Sys2Proof.Machine
end

