-- ==== Sys2Proof/Machine/FloatVec.lean ====
section
/-! DEFINITION. The floating-point vector instructions (07 R155 to R157), the packed and dot-product instructions (R158,
R159) and the conversions (R160, R161, R495). -/

namespace Sys2Proof.Machine

/-- Whether the group flushes subnormals of the type (02 R34, R36): FZS for f32, FZH for f16 and bf16, never f64. -/
def flushOf (g : Group) : Ty → Bool
  | .f32 => g.rmode.getLsbD 2
  | .f16 => g.rmode.getLsbD 3
  | .bf16 => g.rmode.getLsbD 3
  | _ => false

/-- How the instruction rounds a result of the type (02 R33, R35, R36). -/
def modeOf (g : Group) (f : VF) (ty : Ty) : RMode := ⟨f.rnd, f.sat, flushOf g ty⟩

/-- A floating-point operand of one thread under the flush control. -/
def readF (s : State) (g : Group) (ty : Ty) (r t : Nat) : FVal := fRead (fmtOf ty) (flushOf g ty) (readT s g ty r t)

/-- A floating-point result in its register or pair, with its flags. -/
def outF (ty : Ty) (d : Nat) (r : Nat × Flags) : ThreadOut := outW (holdW ty d r.1) r.2

/-- A result of x and y. -/
def flt2 (f : VF) (op : FFmt → RMode → FVal → FVal → Nat × Flags) (s : State) (g : Group) (t : Nat) : ThreadOut :=
  outF f.t f.d.toNat (op (fmtOf f.t) (modeOf g f f.t) (readF s g f.t f.a.toNat t) (readF s g f.t f.b.toNat t))

/-- A result of x, y and d. -/
def flt3 (f : VF) (op : FFmt → RMode → FVal → FVal → FVal → Nat × Flags) (s : State) (g : Group) (t : Nat) : ThreadOut :=
  outF f.t f.d.toNat (op (fmtOf f.t) (modeOf g f f.t) (readF s g f.t f.a.toNat t) (readF s g f.t f.b.toNat t)
    (readF s g f.t f.d.toNat t))

/-- A result of x. -/
def flt1 (f : VF) (op : FFmt → RMode → FVal → Nat × Flags) (s : State) (g : Group) (t : Nat) : ThreadOut :=
  outF f.t f.d.toNat (op (fmtOf f.t) (modeOf g f f.t) (readF s g f.t f.a.toNat t))

/-- A bit operation on x and y, which sets no flag (02 R37). -/
def fltBits (f : VF) (op : Nat → Nat → Nat → Nat) (s : State) (g : Group) (t : Nat) : ThreadOut :=
  let top := 2 ^ (f.t.bits - 1)
  outW (holdW f.t f.d.toNat (op top (readT s g f.t f.a.toNat t) (readT s g f.t f.b.toNat t))) 0

/-- The relation of FCMP into a predicate bit (07 R156). -/
def fcmpOp (f : VF) (s : State) (g : Group) (t : Nat) : ThreadOut :=
  let (b, fl) := fRel f.sub.toNat (readF s g f.t f.a.toNat t) (readF s g f.t f.b.toNat t)
  outP f.d.toNat b fl

/-- FEXPN of one thread (07 R157): one s32 register. -/
def expnOp (f : VF) (s : State) (g : Group) (t : Nat) : ThreadOut :=
  let (v, fl) := fExpn (readF s g f.t f.a.toNat t)
  outW (holdI .s32 f.d.toNat v) fl

/-- FSCL of one thread: k is B as s32 (07 R157). -/
def sclOp (f : VF) (s : State) (g : Group) (t : Nat) : ThreadOut :=
  outF f.t f.d.toNat (fScale (fmtOf f.t) (modeOf g f f.t) (readV s g f.b.toNat t).toInt (readF s g f.t f.a.toNat t))

/-- Element i of a packed pair (02 R29). -/
def readH (s : State) (g : Group) (ty : Ty) (r t i : Nat) : FVal :=
  fRead (fmtOf ty) (flushOf g ty) ((readV s g r t).toNat / 2 ^ (16 * i) % 2 ^ 16)

/-- A packed pair from its elements (02 R29). -/
def outH (d : Nat) (e0 e1 : Nat × Flags) : ThreadOut := outW (hold1 d (e0.1 + 2 ^ 16 * e1.1)) (e0.2 ||| e1.2)

/-- A packed result of x and y. -/
def pack2 (f : VF) (op : FFmt → RMode → FVal → FVal → Nat × Flags) (s : State) (g : Group) (t : Nat) : ThreadOut :=
  let e := fun i => op (fmtOf f.t) (modeOf g f f.t) (readH s g f.t f.a.toNat t i) (readH s g f.t f.b.toNat t i)
  outH f.d.toNat (e 0) (e 1)

/-- A packed result of x, y and d. -/
def pack3 (f : VF) (op : FFmt → RMode → FVal → FVal → FVal → Nat × Flags) (s : State) (g : Group) (t : Nat) : ThreadOut :=
  let e := fun i => op (fmtOf f.t) (modeOf g f f.t) (readH s g f.t f.a.toNat t i) (readH s g f.t f.b.toNat t i)
    (readH s g f.t f.d.toNat t i)
  outH f.d.toNat (e 0) (e 1)

/-- DOT2H of one thread (07 R158). -/
def dot2Op (f : VF) (s : State) (g : Group) (t : Nat) : ThreadOut :=
  let x := fun i => readH s g f.t f.a.toNat t i
  let y := fun i => readH s g f.t f.b.toNat t i
  outF .f32 f.d.toNat (fDot2 fmtF32 (modeOf g f .f32) (readF s g .f32 f.d.toNat t) (x 0) (y 0) (x 1) (y 1))

/-- The sum of products of n packed integers of w bits (07 R158, R159). -/
def dotInt (w : Nat) (sx sy : Bool) (x y : Nat) : Nat → Int
  | 0 => 0
  | n + 1 =>
    let e := fun (sg : Bool) (v : Nat) => if sg then sInt w (v / 2 ^ (w * n)) else ((v / 2 ^ (w * n) % 2 ^ w : Nat) : Int)
    dotInt w sx sy x y n + e sx x * e sy y

/-- DOT4 and DOT8 of one thread: the exact sum wrapped, or clamped to s32 with IV under SAT (07 R159). -/
def dotOp (f : VF) (w n : Nat) (sx sy : Bool) (s : State) (g : Group) (t : Nat) : ThreadOut :=
  outI .s32 f.sat f.d.toNat ((readV s g f.d.toNat t).toInt +
    dotInt w sx sy (readV s g f.a.toNat t).toNat (readV s g f.b.toNat t).toNat n)

/-- The source type of a conversion (07 R160). -/
def srcTy (f : VF) : Ty := Ty.ofCode f.sub.toNat

/-- CVTFF of one thread (02 R40). -/
def cvtffOp (f : VF) (s : State) (g : Group) (t : Nat) : ThreadOut :=
  outF f.t f.d.toNat (fPut (fmtOf f.t) (modeOf g f f.t) (readF s g (srcTy f) f.a.toNat t))
/-- CVTFI of one thread (02 R40). -/
def cvtfiOp (f : VF) (s : State) (g : Group) (t : Nat) : ThreadOut :=
  let (v, fl) := fToInt f.rnd (intMin f.t) (intMax f.t) (readF s g (srcTy f) f.a.toNat t)
  outW (holdI f.t f.d.toNat v) fl
/-- CVTIF of one thread (02 R40). -/
def cvtifOp (f : VF) (s : State) (g : Group) (t : Nat) : ThreadOut :=
  outF f.t f.d.toNat (fOfInt (fmtOf f.t) (modeOf g f f.t) (readI s g (srcTy f) f.a.toNat t))
/-- CVTII of one thread (07 R495). -/
def cvtiiOp (f : VF) (s : State) (g : Group) (t : Nat) : ThreadOut :=
  outI f.t f.sat f.d.toNat (readI s g (srcTy f) f.a.toNat t)

/-- PK2 of one thread (07 R160). -/
def pk2Op (f : VF) (s : State) (g : Group) (t : Nat) : ThreadOut :=
  outH f.d.toNat (fPut (fmtOf f.t) (modeOf g f f.t) (readF s g .f32 f.a.toNat t))
    (fPut (fmtOf f.t) (modeOf g f f.t) (readF s g .f32 f.b.toNat t))
/-- UNPK2 of one thread (07 R160). -/
def unpk2Op (f : VF) (s : State) (g : Group) (t : Nat) : ThreadOut :=
  let e := fun i => fPut fmtF32 (modeOf g f .f32) (readH s g f.t f.a.toNat t i)
  outW [(f.d.toNat, BitVec.ofNat 32 (e 0).1), (f.d.toNat + 1, BitVec.ofNat 32 (e 1).1)] ((e 0).2 ||| (e 1).2)

/-- The elements of PK4I (07 R160): each source as s32, or u32 for u8. -/
def pk4iGo (f : VF) (s : State) (g : Group) (t : Nat) : Nat → Nat × Flags
  | 0 => (0, 0)
  | i + 1 =>
    let (w, fl) := pk4iGo f s g t i
    let v := readI s g (if f.t = .u8 then .u32 else .s32) (f.a.toNat + i) t
    let (r, fl') := saturate f.t f.sat v
    (w + wrapNat f.t.bits r * 2 ^ (f.t.bits * i), fl ||| fl')

/-- PK4I of one thread (07 R160). -/
def pk4iOp (f : VF) (s : State) (g : Group) (t : Nat) : ThreadOut :=
  let (w, fl) := pk4iGo f s g t (32 / f.t.bits)
  outW (hold1 f.d.toNat w) fl

/-- UNPK4I of one thread (07 R160). -/
def unpk4iOp (f : VF) (s : State) (g : Group) (t : Nat) : ThreadOut :=
  let w := (readV s g f.a.toNat t).toNat
  outW ((List.range (32 / f.t.bits)).map (fun i =>
    (f.d.toNat + i, BitVec.ofInt 32 (intVal f.t (w / 2 ^ (f.t.bits * i)))))) 0

/-- How many registers a packed sheaf takes (07 R161). -/
def sheafWords (ty : Ty) : Nat := (shBytes ty + 3) / 4

/-- SHPACK of one thread (07 R161). -/
def shpackOp (f : VF) (s : State) (g : Group) (t : Nat) : ThreadOut :=
  let xs := (List.range 32).map (fun i => fRead fmtF32 false (readV s g (f.a.toNat + i) t).toNat)
  let (w, fl) := shPack f.t xs
  outW (wordsFrom f.d.toNat (sheafWords f.t) w) fl

/-- SHUNPK of one thread (07 R161). -/
def shunpkOp (f : VF) (s : State) (g : Group) (t : Nat) : ThreadOut :=
  let vs := shUnpack f.t (readVs s g f.a.toNat (sheafWords f.t) t)
  outW ((vs.zipIdx).map (fun p => (f.d.toNat + p.2, BitVec.ofNat 32 (fPut fmtF32 ⟨.rne, false, false⟩ p.1).1))) 0

/-- FADD (07 R155). -/
def execFadd (h : Hd) (f : VF) (s : State) : Host.Outcome State Fault Refusal :=
  vecOp (.fadd h f) h (flt2 f fAdd) s
/-- FSUB (07 R155). -/
def execFsub (h : Hd) (f : VF) (s : State) : Host.Outcome State Fault Refusal :=
  vecOp (.fsub h f) h (flt2 f (fun m r x y => fAdd m r x (fNegV y))) s
/-- FMUL (07 R155). -/
def execFmul (h : Hd) (f : VF) (s : State) : Host.Outcome State Fault Refusal :=
  vecOp (.fmul h f) h (flt2 f fMul) s
/-- FFMA (07 R155). -/
def execFfma (h : Hd) (f : VF) (s : State) : Host.Outcome State Fault Refusal :=
  vecOp (.ffma h f) h (flt3 f fFma) s
/-- FFMS (07 R155). -/
def execFfms (h : Hd) (f : VF) (s : State) : Host.Outcome State Fault Refusal :=
  vecOp (.ffms h f) h (flt3 f (fun m r x y d => fFma m r x y (fNegV d))) s
/-- FMIN (07 R155). -/
def execFmin (h : Hd) (f : VF) (s : State) : Host.Outcome State Fault Refusal :=
  vecOp (.fmin h f) h (flt2 f (fun m r => fMinMax m r false false)) s
/-- FMAX (07 R155). -/
def execFmax (h : Hd) (f : VF) (s : State) : Host.Outcome State Fault Refusal :=
  vecOp (.fmax h f) h (flt2 f (fun m r => fMinMax m r true false)) s
/-- FMINN (07 R155). -/
def execFminn (h : Hd) (f : VF) (s : State) : Host.Outcome State Fault Refusal :=
  vecOp (.fminn h f) h (flt2 f (fun m r => fMinMax m r false true)) s
/-- FMAXN (07 R155). -/
def execFmaxn (h : Hd) (f : VF) (s : State) : Host.Outcome State Fault Refusal :=
  vecOp (.fmaxn h f) h (flt2 f (fun m r => fMinMax m r true true)) s
/-- FABS (07 R155). -/
def execFabs (h : Hd) (f : VF) (s : State) : Host.Outcome State Fault Refusal :=
  vecOp (.fabs h f) h (fltBits f (fun top x _ => x % top)) s
/-- FNEG (07 R155). -/
def execFneg (h : Hd) (f : VF) (s : State) : Host.Outcome State Fault Refusal :=
  vecOp (.fneg h f) h (fltBits f (fun top x _ => (x + top) % (2 * top))) s
/-- FCPYS (07 R155). -/
def execFcpys (h : Hd) (f : VF) (s : State) : Host.Outcome State Fault Refusal :=
  vecOp (.fcpys h f) h (fltBits f (fun top x y => x % top + y / top * top)) s
/-- FCMP (07 R156). -/
def execFcmp (h : Hd) (f : VF) (s : State) : Host.Outcome State Fault Refusal :=
  vecOp (.fcmp h f) h (fcmpOp f) s
/-- FCLASS (07 R156). -/
def execFclass (h : Hd) (f : VF) (s : State) : Host.Outcome State Fault Refusal :=
  vecOp (.fclass h f) h (fun s g t => outW (hold1 f.d.toNat (fClass (fmtOf f.t) (readT s g f.t f.a.toNat t))) 0) s
/-- FDIV (07 R155). -/
def execFdiv (h : Hd) (f : VF) (s : State) : Host.Outcome State Fault Refusal :=
  vecOpLL (.fdiv h f) h (flt2 f fDiv) s
/-- FSQRT (07 R155). -/
def execFsqrt (h : Hd) (f : VF) (s : State) : Host.Outcome State Fault Refusal :=
  vecOpLL (.fsqrt h f) h (flt1 f fSqrt) s
/-- FRCP (02 R42). -/
def execFrcp (h : Hd) (f : VF) (s : State) : Host.Outcome State Fault Refusal :=
  vecOpLL (.frcp h f) h (flt1 f (fun m r x => fDiv m r (.fin false 1 0) x)) s
/-- FRSQ (02 R42). -/
def execFrsq (h : Hd) (f : VF) (s : State) : Host.Outcome State Fault Refusal :=
  vecOpLL (.frsq h f) h (flt1 f (fun _ r => fRsq r.flush)) s
/-- FEXP2 (02 R42). -/
def execFexp2 (h : Hd) (f : VF) (s : State) : Host.Outcome State Fault Refusal :=
  vecOpLL (.fexp2 h f) h (flt1 f (fun _ r => fExp2 r.flush)) s
/-- FLOG2 (02 R42). -/
def execFlog2 (h : Hd) (f : VF) (s : State) : Host.Outcome State Fault Refusal :=
  vecOpLL (.flog2 h f) h (flt1 f (fun _ r => fLog2 r.flush)) s
/-- FSIN (02 R42). -/
def execFsin (h : Hd) (f : VF) (s : State) : Host.Outcome State Fault Refusal :=
  vecOpLL (.fsin h f) h (flt1 f (fun _ r => fSin r.flush)) s
/-- FCOS (02 R42). -/
def execFcos (h : Hd) (f : VF) (s : State) : Host.Outcome State Fault Refusal :=
  vecOpLL (.fcos h f) h (flt1 f (fun _ r => fCos r.flush)) s
/-- FTANH (02 R42). -/
def execFtanh (h : Hd) (f : VF) (s : State) : Host.Outcome State Fault Refusal :=
  vecOpLL (.ftanh h f) h (flt1 f (fun _ r => fTanh r.flush)) s
/-- FRND (07 R157). -/
def execFrnd (h : Hd) (f : VF) (s : State) : Host.Outcome State Fault Refusal :=
  vecOp (.frnd h f) h (flt1 f (fun m r => fRnd m r (f.sub.getLsbD 0))) s
/-- FFRC (07 R157). -/
def execFfrc (h : Hd) (f : VF) (s : State) : Host.Outcome State Fault Refusal :=
  vecOp (.ffrc h f) h (flt1 f fFrac) s
/-- FSCL (07 R157). -/
def execFscl (h : Hd) (f : VF) (s : State) : Host.Outcome State Fault Refusal :=
  vecOp (.fscl h f) h (sclOp f) s
/-- FEXPN (07 R157). -/
def execFexpn (h : Hd) (f : VF) (s : State) : Host.Outcome State Fault Refusal :=
  vecOp (.fexpn h f) h (expnOp f) s
/-- HADD2 (07 R158). -/
def execHadd2 (h : Hd) (f : VF) (s : State) : Host.Outcome State Fault Refusal :=
  vecOp (.hadd2 h f) h (pack2 f fAdd) s
/-- HMUL2 (07 R158). -/
def execHmul2 (h : Hd) (f : VF) (s : State) : Host.Outcome State Fault Refusal :=
  vecOp (.hmul2 h f) h (pack2 f fMul) s
/-- HFMA2 (07 R158). -/
def execHfma2 (h : Hd) (f : VF) (s : State) : Host.Outcome State Fault Refusal :=
  vecOp (.hfma2 h f) h (pack3 f fFma) s
/-- HMIN2 (07 R158). -/
def execHmin2 (h : Hd) (f : VF) (s : State) : Host.Outcome State Fault Refusal :=
  vecOp (.hmin2 h f) h (pack2 f (fun m r => fMinMax m r false false)) s
/-- HMAX2 (07 R158). -/
def execHmax2 (h : Hd) (f : VF) (s : State) : Host.Outcome State Fault Refusal :=
  vecOp (.hmax2 h f) h (pack2 f (fun m r => fMinMax m r true false)) s
/-- DOT2H (07 R158). -/
def execDot2h (h : Hd) (f : VF) (s : State) : Host.Outcome State Fault Refusal :=
  vecOp (.dot2h h f) h (dot2Op f) s
/-- DOT4 (07 R159). -/
def execDot4 (h : Hd) (f : VF) (s : State) : Host.Outcome State Fault Refusal :=
  vecOp (.dot4 h f) h (dotOp f 8 4 f.t.signed (f.t.signed != f.sub.getLsbD 0)) s
/-- DOT8 (07 R159). -/
def execDot8 (h : Hd) (f : VF) (s : State) : Host.Outcome State Fault Refusal :=
  vecOp (.dot8 h f) h (dotOp f 4 8 true true) s
/-- CVTFF (07 R160). -/
def execCvtff (h : Hd) (f : VF) (s : State) : Host.Outcome State Fault Refusal :=
  vecOp (.cvtff h f) h (cvtffOp f) s
/-- CVTFI (07 R160). -/
def execCvtfi (h : Hd) (f : VF) (s : State) : Host.Outcome State Fault Refusal :=
  vecOp (.cvtfi h f) h (cvtfiOp f) s
/-- CVTIF (07 R160). -/
def execCvtif (h : Hd) (f : VF) (s : State) : Host.Outcome State Fault Refusal :=
  vecOp (.cvtif h f) h (cvtifOp f) s
/-- CVTII (07 R495). -/
def execCvtii (h : Hd) (f : VF) (s : State) : Host.Outcome State Fault Refusal :=
  vecOp (.cvtii h f) h (cvtiiOp f) s
/-- PK2 (07 R160). -/
def execPk2 (h : Hd) (f : VF) (s : State) : Host.Outcome State Fault Refusal :=
  vecOp (.pk2 h f) h (pk2Op f) s
/-- UNPK2 (07 R160). -/
def execUnpk2 (h : Hd) (f : VF) (s : State) : Host.Outcome State Fault Refusal :=
  vecOp (.unpk2 h f) h (unpk2Op f) s
/-- PK4I (07 R160). -/
def execPk4i (h : Hd) (f : VF) (s : State) : Host.Outcome State Fault Refusal :=
  vecOp (.pk4i h f) h (pk4iOp f) s
/-- UNPK4I (07 R160). -/
def execUnpk4i (h : Hd) (f : VF) (s : State) : Host.Outcome State Fault Refusal :=
  vecOp (.unpk4i h f) h (unpk4iOp f) s
/-- SHPACK (07 R161). -/
def execShpack (h : Hd) (f : VF) (s : State) : Host.Outcome State Fault Refusal :=
  vecOp (.shpack h f) h (shpackOp f) s
/-- SHUNPK (07 R161). -/
def execShunpk (h : Hd) (f : VF) (s : State) : Host.Outcome State Fault Refusal :=
  vecOp (.shunpk h f) h (shunpkOp f) s

end Sys2Proof.Machine
end

