-- ==== Sys2Proof/Machine/Cross.lean ====
section
/-! DEFINITION. The cross-thread instructions (07 R162 to R164): every source is read as it stood before the instruction. -/

namespace Sys2Proof.Machine

/-- Whether a thread is active. -/
def isActive (g : Group) (t : Nat) : Bool := g.active.getLsbD t

/-- The value of a source index as thread t receives it: its own where the index names no active thread of the width
(07 R162). -/
def srcAt (f : VF) (s : State) (g : Group) (j : Int) (t : Nat) : Nat :=
  let ok := decide (0 ≤ j) && decide (j < g.width) && isActive g j.toNat
  readT s g f.t f.a.toNat (if ok then j.toNat else t)

/-- A shuffle: thread t receives the source that idx names (07 R163). -/
def shufOp (f : VF) (idx : State → Group → Nat → Int) (s : State) (g : Group) (t : Nat) : ThreadOut :=
  outW (holdW f.t f.d.toNat (srcAt f s g (idx s g t) t)) 0

/-- SHFL (07 R163). -/
def execShfl (h : Hd) (f : VF) (s : State) : Host.Outcome State Fault Refusal :=
  vecOp (.shfl h f) h (shufOp f (fun s g t => (readV s g f.b.toNat t).toNat)) s
/-- SHFLUP (07 R163). -/
def execShflup (h : Hd) (f : VF) (s : State) : Host.Outcome State Fault Refusal :=
  vecOp (.shflup h f) h (shufOp f (fun _ _ t => (t : Int) - f.b.toNat)) s
/-- SHFLDN (07 R163). -/
def execShfldn (h : Hd) (f : VF) (s : State) : Host.Outcome State Fault Refusal :=
  vecOp (.shfldn h f) h (shufOp f (fun _ _ t => (t : Int) + f.b.toNat)) s
/-- SHFLX (07 R163). -/
def execShflx (h : Hd) (f : VF) (s : State) : Host.Outcome State Fault Refusal :=
  vecOp (.shflx h f) h (shufOp f (fun _ _ t => ((t ^^^ f.b.toNat : Nat) : Int))) s

/-- BCAST of one thread: thread k where it is active, else the lowest active thread (07 R163). -/
def bcastOp (f : VF) (s : State) (g : Group) (_ : Nat) : ThreadOut :=
  let k := f.b.toNat
  let src := if decide (k < g.width) && isActive g k then k else (lowest g.active).getD 0
  outW (holdW f.t f.d.toNat (readT s g f.t f.a.toNat src)) 0

/-- BCAST (07 R163). -/
def execBcast (h : Hd) (f : VF) (s : State) : Host.Outcome State Fault Refusal := vecOp (.bcast h f) h (bcastOp f) s

/-- The qualifying threads whose bit of predicate A differs from SUB[0] (07 R163). -/
def voters (h : Hd) (f : VF) (g : Group) : TMask :=
  let p := predMask g f.a.toNat
  qualMask g h &&& (if f.sub.getLsbD 0 then ~~~p else p)

/-- VOTEANY (07 R163). -/
def execVoteany (h : Hd) (f : VF) (s : State) : Host.Outcome State Fault Refusal :=
  vecOp (.voteany h f) h (fun _ g _ => outP f.d.toNat (decide (voters h f g ≠ 0)) 0) s
/-- VOTEALL (07 R163). -/
def execVoteall (h : Hd) (f : VF) (s : State) : Host.Outcome State Fault Refusal :=
  vecOp (.voteall h f) h (fun _ g _ => outP f.d.toNat (decide (voters h f g = qualMask g h)) 0) s
/-- BALLOT (07 R163). -/
def execBallot (h : Hd) (f : VF) (s : State) : Host.Outcome State Fault Refusal :=
  vecOp (.ballot h f) h (fun _ g _ => outW (wordsFrom f.d.toNat 2 (voters h f g).toNat) 0) s

/-- The qualifying threads whose value of A equals that of thread t. -/
def matching (h : Hd) (f : VF) (s : State) (g : Group) (t : Nat) : List Nat :=
  (threads (qualMask g h)).filter (fun u => decide (readT s g f.t f.a.toNat u = readT s g f.t f.a.toNat t))

/-- MATCH (07 R163). -/
def execMatchx (h : Hd) (f : VF) (s : State) : Host.Outcome State Fault Refusal :=
  vecOp (.matchx h f) h (fun s g t => outW (wordsFrom f.d.toNat 2 (maskOf (matching h f s g t)).toNat) 0) s
/-- MRANK; with u64 its count fills the pair D:D+1 (07 R162, R163). -/
def execMrank (h : Hd) (f : VF) (s : State) : Host.Outcome State Fault Refusal :=
  vecOp (.mrank h f) h (fun s g t =>
    outW (holdW f.t f.d.toNat ((matching h f s g t).filter (fun u => decide (u < t))).length) 0) s
/-- ELECT (07 R163). -/
def execElect (h : Hd) (f : VF) (s : State) : Host.Outcome State Fault Refusal :=
  vecOp (.elect h f) h (fun _ g t => outP f.d.toNat (decide (lowest (qualMask g h) = some t)) 0) s

/-- The identity of a fold as raw bits (07 R164). -/
def foldId (ty : Ty) (op : Nat) : Nat :=
  if ty = .f32 then
    match op with
    | 0 => 2 ^ 31
    | 1 => fInf fmtF32 false
    | _ => fInf fmtF32 true
  else
    match op with
    | 1 => wrapNat ty.bits (intMax ty)
    | 2 => wrapNat ty.bits (intMin ty)
    | 3 => 2 ^ ty.bits - 1
    | _ => 0

/-- One step of a fold of raw bits (07 R164). -/
def foldStep (f : VF) (g : Group) (a x : Nat) : Nat × Flags :=
  let op := f.sub.toNat % 8
  if f.t = .f32 then
    let rd := fRead fmtF32 (flushOf g .f32)
    match op with
    | 0 => fAdd fmtF32 (modeOf g f .f32) (rd a) (rd x)
    | 1 => fMinMax fmtF32 (modeOf g f .f32) false false (rd a) (rd x)
    | _ => fMinMax fmtF32 (modeOf g f .f32) true false (rd a) (rd x)
  else
    match op with
    | 0 => (wrapNat f.t.bits (intVal f.t a + intVal f.t x), 0)
    | 1 => (wrapNat f.t.bits (min (intVal f.t a) (intVal f.t x)), 0)
    | 2 => (wrapNat f.t.bits (max (intVal f.t a) (intVal f.t x)), 0)
    | 3 => (a &&& x, 0)
    | 4 => (a ||| x, 0)
    | _ => (a ^^^ x, 0)

/-- The fold over threads: the value before each step, the value after it, the flags of the step. -/
def foldTrace (f : VF) (s : State) (g : Group) : Nat → List Nat → List (Nat × Nat × Nat × Flags)
  | _, [] => []
  | a, u :: us =>
    let r := foldStep f g a (readT s g f.t f.a.toNat u)
    (u, a, r.1, r.2) :: foldTrace f s g r.1 us

/-- The result of a fold: for thread u, its raw bits and the flags of its step. -/
def foldOut (f : VF) (w : Nat) (fl : Flags) : ThreadOut :=
  if f.t = .f32 then outW (holdW f.t f.d.toNat w) fl else outW (holdI f.t f.d.toNat (intVal f.t w)) fl

/-- REDX of one thread (07 R164). -/
def redxOp (h : Hd) (f : VF) (s : State) (g : Group) (_ : Nat) : ThreadOut :=
  let tr := foldTrace f s g (foldId f.t (f.sub.toNat % 8)) (threads (qualMask g h))
  match tr.getLast? with
  | some x => foldOut f x.2.2.1 (tr.foldl (fun a y => a ||| y.2.2.2) 0)
  | none => outW [] 0

/-- SCANX of one thread (07 R164). -/
def scanxOp (h : Hd) (f : VF) (s : State) (g : Group) (t : Nat) : ThreadOut :=
  let tr := foldTrace f s g (foldId f.t (f.sub.toNat % 8)) (threads (qualMask g h))
  match tr.find? (fun x => decide (x.1 = t)) with
  | some x => foldOut f (if f.sub.getLsbD 3 then x.2.1 else x.2.2.1) x.2.2.2
  | none => outW [] 0

/-- REDX (07 R164). -/
def execRedx (h : Hd) (f : VF) (s : State) : Host.Outcome State Fault Refusal := vecOp (.redx h f) h (redxOp h f) s
/-- SCANX (07 R164). -/
def execScanx (h : Hd) (f : VF) (s : State) : Host.Outcome State Fault Refusal := vecOp (.scanx h f) h (scanxOp h f) s

end Sys2Proof.Machine
end

