-- ==== Sys2Proof/Machine/Digest.lean ====
section
/-! DEFINITION. The functions that 00 R1, 19 R425 and R429 name: SHA-512, and the check of a signature that is RSASSA-PSS with
RSA-4096 over it. The spec gives their names; what they compute is taken from their standards, FIPS 180-4 and RFC 8017
(assumption 7). -/

namespace Sys2Proof.Machine

/-! ### SHA-512 -/

/-- The first 64 bits of the fractions of the square roots of the first 8 primes. -/
def shaStart : List W64 :=
  [0x6A09E667F3BCC908, 0xBB67AE8584CAA73B, 0x3C6EF372FE94F82B, 0xA54FF53A5F1D36F1,
   0x510E527FADE682D1, 0x9B05688C2B3E6C1F, 0x1F83D9ABFB41BD6B, 0x5BE0CD19137E2179]

/-- The first 64 bits of the fractions of the cube roots of the first 80 primes, 16 at a time. -/
def shaK0 : List W64 :=
  [0x428A2F98D728AE22, 0x7137449123EF65CD, 0xB5C0FBCFEC4D3B2F, 0xE9B5DBA58189DBBC,
   0x3956C25BF348B538, 0x59F111F1B605D019, 0x923F82A4AF194F9B, 0xAB1C5ED5DA6D8118,
   0xD807AA98A3030242, 0x12835B0145706FBE, 0x243185BE4EE4B28C, 0x550C7DC3D5FFB4E2,
   0x72BE5D74F27B896F, 0x80DEB1FE3B1696B1, 0x9BDC06A725C71235, 0xC19BF174CF692694]
@[inherit_doc shaK0] def shaK1 : List W64 :=
  [0xE49B69C19EF14AD2, 0xEFBE4786384F25E3, 0x0FC19DC68B8CD5B5, 0x240CA1CC77AC9C65,
   0x2DE92C6F592B0275, 0x4A7484AA6EA6E483, 0x5CB0A9DCBD41FBD4, 0x76F988DA831153B5,
   0x983E5152EE66DFAB, 0xA831C66D2DB43210, 0xB00327C898FB213F, 0xBF597FC7BEEF0EE4,
   0xC6E00BF33DA88FC2, 0xD5A79147930AA725, 0x06CA6351E003826F, 0x142929670A0E6E70]
@[inherit_doc shaK0] def shaK2 : List W64 :=
  [0x27B70A8546D22FFC, 0x2E1B21385C26C926, 0x4D2C6DFC5AC42AED, 0x53380D139D95B3DF,
   0x650A73548BAF63DE, 0x766A0ABB3C77B2A8, 0x81C2C92E47EDAEE6, 0x92722C851482353B,
   0xA2BFE8A14CF10364, 0xA81A664BBC423001, 0xC24B8B70D0F89791, 0xC76C51A30654BE30,
   0xD192E819D6EF5218, 0xD69906245565A910, 0xF40E35855771202A, 0x106AA07032BBD1B8]
@[inherit_doc shaK0] def shaK3 : List W64 :=
  [0x19A4C116B8D2D0C8, 0x1E376C085141AB53, 0x2748774CDF8EEB99, 0x34B0BCB5E19B48A8,
   0x391C0CB3C5C95A63, 0x4ED8AA4AE3418ACB, 0x5B9CCA4F7763E373, 0x682E6FF3D6B2B8A3,
   0x748F82EE5DEFB2FC, 0x78A5636F43172F60, 0x84C87814A1F0AB72, 0x8CC702081A6439EC,
   0x90BEFFFA23631E28, 0xA4506CEBDE82BDE9, 0xBEF9A3F7B2C67915, 0xC67178F2E372532B]
@[inherit_doc shaK0] def shaK4 : List W64 :=
  [0xCA273ECEEA26619C, 0xD186B8C721C0C207, 0xEADA7DD6CDE0EB1E, 0xF57D4F7FEE6ED178,
   0x06F067AA72176FBA, 0x0A637DC5A2C898A6, 0x113F9804BEF90DAE, 0x1B710B35131C471B,
   0x28DB77F523047D84, 0x32CAAB7B40C72493, 0x3C9EBE0A15C9BEBC, 0x431D67C49C100D4C,
   0x4CC5D4BECB3E42B6, 0x597F299CFC657E2A, 0x5FCB6FAB3AD6FAEC, 0x6C44198C4A475817]

/-- The constants of the 80 rounds. -/
def shaK : List W64 := shaK0 ++ shaK1 ++ shaK2 ++ shaK3 ++ shaK4

/-- One word more of the schedule of a block: from those that stand 16, 15, 7 and 2 before it. The newest word comes first. -/
def shaNext (ws : List W64) : W64 :=
  let x := ws.getD 14 0
  let y := ws.getD 1 0
  ws.getD 15 0 + (x.rotateRight 1 ^^^ x.rotateRight 8 ^^^ x >>> 7) + ws.getD 6 0 + (y.rotateRight 19 ^^^ y.rotateRight 61 ^^^ y >>> 6)

/-- The schedule of a block: its 16 words and so many more, the newest first. -/
def shaSchedule : Nat → List W64 → List W64
  | 0, ws => ws
  | n + 1, ws => let r := shaSchedule n ws; shaNext r :: r

/-- A round with the sum of its constant and its word. -/
def shaRound (h : List W64) (kw : W64) : List W64 :=
  match h with
  | [a, b, c, d, e, f, g, x] =>
    let t1 := x + (e.rotateRight 14 ^^^ e.rotateRight 18 ^^^ e.rotateRight 41) + ((e &&& f) ^^^ (~~~e &&& g)) + kw
    let t2 := (a.rotateRight 28 ^^^ a.rotateRight 34 ^^^ a.rotateRight 39) + ((a &&& b) ^^^ (a &&& c) ^^^ (b &&& c))
    [t1 + t2, a, b, c, d + t1, e, f, g]
  | _ => h

/-- The chaining value after a block of 128 bytes. -/
def shaBlock (h : List W64) (blk : List Byte) : List W64 :=
  let ws := (List.range 16).map (fun i => BitVec.ofNat 64 (leNat ((blk.drop (8 * i)).take 8).reverse))
  let sched := (shaSchedule 64 ws.reverse).reverse
  (h.zip (((shaK.zip sched).map (fun x => x.1 + x.2)).foldl shaRound h)).map (fun x => x.1 + x.2)

/-- A number as bytes, the most significant first. -/
def beBytes (n v : Nat) : List Byte := (natLE n v).reverse

/-- A message padded to whole blocks. -/
def shaPad (m : List Byte) : List Byte :=
  m ++ natLE 1 0x80 ++ List.replicate ((239 - m.length % 128) % 128) 0 ++ beBytes 16 (8 * m.length)

/-- The chaining value after so many blocks of a padded message. -/
def shaGo : Nat → List Byte → List W64 → List W64
  | 0, _, h => h
  | n + 1, m, h => shaGo n (m.drop 128) (shaBlock h (m.take 128))

/-- The SHA-512 digest of a message. -/
def sha512 (m : List Byte) : List Byte :=
  let p := shaPad m
  (shaGo (p.length / 128) p shaStart).flatMap (fun w => beBytes 8 w.toNat)

/-! ### RSASSA-PSS -/

/-- A number from bytes, the most significant first. -/
def beNat (bs : List Byte) : Nat := leNat bs.reverse

/-- The power of a number to an exponent modulo n, by the bits of the exponent; the fuel bounds their number. -/
def powMod (n : Nat) : Nat → Nat → Nat → Nat
  | 0, _, _ => 1 % n
  | f + 1, x, e => if e = 0 then 1 % n else
    let r := powMod n f (x * x % n) (e / 2)
    if e % 2 = 1 then x * r % n else r

/-- The mask of some bytes from a seed (MGF1). -/
def maskBytes (seed : List Byte) (len : Nat) : List Byte :=
  ((List.range ((len + 63) / 64)).flatMap (fun i => sha512 (seed ++ beBytes 4 i))).take len

/-- Whether the encoded message of a signature is one of a digest, whatever the length of its salt. -/
def pssValid (em digest : List Byte) : Bool :=
  let n := em.length
  let masked := em.take (n - 65)
  let h := (em.drop (n - 65)).take 64
  let db := (masked.zip (maskBytes h (n - 65))).map (fun x => x.1 ^^^ x.2)
  let db := db.take 1 |>.map (fun b => b &&& 0x7F) |> (· ++ db.drop 1)
  let rest := db.dropWhile (fun b => decide (b = 0))
  decide ((em.getD (n - 1) 0) = 0xBC) && decide ((masked.getD 0 0).toNat < 128) && decide (rest.head? = some 1) &&
    decide (h = sha512 (List.replicate 8 0 ++ digest ++ rest.drop 1))

/-- Whether the 512 bytes of a signature are one of a message under the public key of an index: the key is not in the spec, which
gives the digests of the four to the fuses (19 R425, assumption 7). -/
def signatureValid (key : Nat) (msg sig : List Byte) : Bool :=
  let n := (Config.publicKey key).1
  let s := beNat sig
  decide (s < n) && pssValid (beBytes 512 (powMod n 4096 s (Config.publicKey key).2)) (sha512 msg)

end Sys2Proof.Machine
end

