-- ==== Sys2Proof/Machine/Port.lean ====
section
/-! DEFINITION. The host port (17 R405 to R408): writes of control registers, what its registers read as, the slow window and
the MSI-X table. -/

namespace Sys2Proof.Machine

/-- An entry of the MSI-X table after a write of one of its two words (17 R405, R408; the layout and the mask bit are PCIe's,
assumption 10): a message that was pending is sent once its entry is not masked. -/
def putMsix (s : State) (o : Nat) (val : W64) : State :=
  let v := o / 16
  let e := s.msix.getD v (0, 0)
  let e := if o % 16 = 8 then (e.1, val) else (val, e.2)
  let s := { s with msix := s.msix.set v e }
  if s.msixPend.contains v && !e.2.getLsbD 32 then
    { s with msixPend := s.msixPend.filter (fun x => decide (x ≠ v)), out := s.out ++ [.msi v] }
  else s

/-- A code of CCMD that is no command (04 R94). The six commands are rows of their own. -/
def otherCommand (s : State) (ctx code : Nat) : State :=
  if 1 ≤ code ∧ code ≤ 6 then s
  else match s.contexts[ctx]? with
    | some c => report s ctx code (if c.busy then 1 else 2)
    | none => s

/-- A code of MCMD that is no command (19 R424). The seven commands are rows of their own. -/
def otherMailbox (s : State) (code : Nat) : State :=
  if 1 ≤ code ∧ code ≤ 7 then s
  else { s with firm := { s.firm with mlast := code, mresult := if s.firm.busy then 1 else if s.firm.mode = 2 then 5 else 3 } }

/-- REGISTER_WRITE (04 R94, 17 R406, 19 R423): an offset of BAR 0, or past its 16 MiB an offset of BAR 4; registers that are
read-only, and offsets that hold none, ignore the write. -/
def execRegisterWrite (off : Nat) (val : W64) (s : State) : Host.Outcome State Fault Refusal :=
  .next (
    if off < 0x800000 then
      match off % 0x20000 with
      | 0x000 => otherCommand s (off / 0x20000) (val.toNat % 256)
      | 0x010 => onCtx s (off / 0x20000) (fun c => { c with crec := val })
      | 0x028 => onCtx s (off / 0x20000) (fun c => { c with evmask := val.truncate 6 })
      | 0x030 => onCtx s (off / 0x20000) (fun c => { c with msivec := BitVec.ofNat 64 (bits val.toNat 0 48) })
      | _ => s
    else if off = 0x800000 then otherMailbox s (val.toNat % 256)
    else if off = 0x800008 then { s with firm := { s.firm with marg := val } }
    else if off = 0x800010 then { s with firm := { s.firm with marg2 := val } }
    else if off = 0xF00108 then { s with swbase := bits val.toNat 34 18 * 2 ^ 34 }
    else if 0x1000000 ≤ off ∧ off < 0x1001000 ∧ off % 8 = 0 then putMsix s (off - 0x1000000) val
    else s)

/-- What a register of a control page reads as (04 R94). The spec does not say what LOST shows once a count passes 2^32 - 1: the counts
of the model have no bound, so that the low one then reaches into the high field (assumption 74). -/
def pageRead (c : Context) (r : Nat) : Nat :=
  let st := match c.st with
    | .free => 0
    | .created => 1
    | .active => 2
    | .suspending => 3
    | .suspended => 4
    | .tearing => 5
  match r with
  | 0x008 => st + 2 ^ 8 * c.cmd + 2 ^ 16 * c.result + (if c.busy then 2 ^ 24 else 0)
  | 0x010 => c.crec.toNat
  | 0x020 => c.evpend.toNat
  | 0x028 => c.evmask.toNat
  | 0x030 => c.msivec.toNat
  | 0x038 => c.lostN + 2 ^ 32 * c.lostF
  | 0x040 => c.dropHints
  | _ => 0

/-- What BAR 4 reads as (17 R405): the two words of each entry of the MSI-X table, and the pending bits of 64 entries each. -/
def msixRead (s : State) (o : Nat) : Nat :=
  if o < 0x1000 then
    let e := s.msix.getD (o / 16) (0, 0)
    if o % 16 = 0 then e.1.toNat else if o % 16 = 8 then e.2.toNat else 0
  else if o < 0x1020 ∧ o % 8 = 0 then
    ((List.range 64).map (fun i => if s.msixPend.contains (64 * ((o - 0x1000) / 8) + i) then 2 ^ i else 0)).sum
  else 0

/-- What a register of BAR 0 reads as, or past its 16 MiB of BAR 4 (04 R94, 17 R405, R406, 19 R423, R428). -/
def barRead (s : State) (off : Nat) : Nat :=
  let f := s.firm
  if off < 0x800000 then
    match s.contexts[off / 0x20000]? with
    | some c => pageRead c (off % 0x20000)
    | none => 0
  else if 0xF00000 ≤ off ∧ off < 0xF00100 then
    match s.links[(off - 0xF00000) / 16]? with
    | some l => if off % 16 = 0 then l.st + 2 ^ 3 * l.lanes + 2 ^ 8 * l.peer + 2 ^ 16 * l.peerLink
        else if off % 16 = 8 then l.replays % 2 ^ 32 + 2 ^ 32 * (l.crcErrs % 2 ^ 32) else 0
    | none => 0
  else if 0x1000000 ≤ off then msixRead s (off - 0x1000000)
  else match off with
    | 0x800008 => f.marg.toNat
    | 0x800010 => f.marg2.toNat
    | 0x800018 => (if f.busy then 1 else 0) + 2 ^ 8 * f.mlast + 2 ^ 16 * f.mresult
    | 0x801000 => f.mode + 2 ^ 4 * f.failCnt + 2 ^ 8 * f.lastStep + 2 ^ 16 * f.reason
    | 0x801008 => f.rootVer
    | 0x801010 => f.stableVer
    | 0x801018 => f.ready
    | 0xF00100 => deviceId s
    | 0xF00108 => s.swbase
    | _ => 0

/-- The fault of a host write into the descriptor of a live queue or an ACTIVE barrier record is of their context (12 R297,
13 R320). -/
def hostOrigin (s : State) (pa : Nat) : Origin :=
  { ctx := match s.queues.find? (fun q => decide (q.pa ≤ pa) && decide (pa < q.pa + 64)) with
      | some q => q.ctx
      | none => ((s.recs.find? (fun r => decide (r.pa ≤ pa) && decide (pa < r.pa + 64))).map (fun r => r.ctx)).getD 64,
    launch := none }

/-- One unit of a host write at its home slice (17 R407): the bytes that the request covers; beyond memory it is discarded. -/
def hostUnit (s : State) (cells : List Host.Cell) : State :=
  let cs := cells.filter (fun c => decide (c.1 < paLimit))
  match cs with
  | [] => s
  | c :: _ => homeWrite (drainLine s (c.1 / 512)) (hostOrigin s (c.1 / 64 * 64)) false cs

/-- HOST_SLOW_WRITE (17 R405, R407), of at most 256 bytes: naturally aligned units of 8 bytes in ascending address; a byte that is not
enabled is none. -/
def execHostSlowWrite (off : Nat) (bytes : List (Option Byte)) (s : State) : Host.Outcome State Fault Refusal :=
  if 2 ^ 34 < off + bytes.length ∨ 256 < bytes.length then .fault .notEnabled
  else
    let pa := s.swbase + off
    let cells := bytes.zipIdx.filterMap (fun x => x.1.map (fun b => (pa + x.2, b)))
    .next ((List.range (bytes.length / 8 + 2)).foldl (fun s i =>
      hostUnit s (cells.filter (fun c => decide (c.1 / 8 = pa / 8 + i)))) s)

/-- HOST_SLOW_READ (17 R405, R407), of at most 512 bytes: the completion carries the requested bytes, with EP where a unit lies in a
poisoned sector; beyond memory it is an Unsupported Request. -/
def execHostSlowRead (off len : Nat) (s : State) : Host.Outcome State Fault Refusal :=
  if 2 ^ 34 < off + len ∨ 512 < len then .fault .notEnabled
  else
    let pa := s.swbase + off
    if len ≠ 0 ∧ paLimit < pa + len then .next { s with out := s.out ++ [.unsupported none] }
    else .next { s with out := s.out ++ [.data (memBytes s.mem pa len)
      (s.poison.any (fun p => decide (pa < p * 128 + 128) && decide (p * 128 < pa + len)))] }

/-- UNSUPPORTED_REQUEST (17 R405). -/
def execUnsupportedRequest (tag : Nat) (s : State) : Host.Outcome State Fault Refusal :=
  .next { s with out := s.out ++ [.unsupported (some tag)] }

end Sys2Proof.Machine
end

