-- ==== Sys2Proof/Machine/Link.lean ====
section
/-! DEFINITION. Fabric links: their states, loss, flits, and what arrives over them (17 R398 to R404). -/

namespace Sys2Proof.Machine

/-! ### States -/

/-- A link of the state. -/
def linkAt (s : State) (n : Nat) : Option Link := s.links[n]?
/-- A link changed. -/
def onLink (s : State) (n : Nat) (f : Link → Link) : State := { s with links := s.links.modify n f }

/-- A link in a new state (17 R400): each change is notified to every ACTIVE context. -/
def setLink (s : State) (n st : Nat) (f : Link → Link) : State :=
  let old := (linkAt s n).map (fun l => l.st)
  let s := onLink s n (fun l => { f l with st := st })
  if old = some st then s
  else (List.range 64).foldl (fun s c =>
    if ((s.contexts[c]?).map (fun x => x.st)) = some .active then notify s c 6 n st else s) s

/-- Whether a link is UP or DEGRADED. -/
def Link.live (l : Link) : Bool := decide (l.st = 2) || decide (l.st = 3)

/-- The state of a link that holds so many lanes. -/
def lanesState (lanes : Nat) : Nat := if lanes = 8 then 2 else 3

/-! ### Loss -/

/-- A request of an asynchronous agent lost (17 R403, 09 R244): a copy fails; whatever else reads goes on with zeros, since the
subcause lost reaches the fault queue only. -/
def loseAsync (s : State) (r : Remote) (id : Nat) : State :=
  match copyOf s id with
  | some c => if c.failed.isSome then s else failCopy s c 0x28 2
  | none => if r.writes ∨ id = 0 then s else { s with rgot := s.rgot ++ [⟨id, r.dev, r.line, List.replicate 512 0, 0⟩] }

/-- The answer of a remote home to a queue request (12 R302, 17 R402): byte 0 is 0 for done, with a word for QSTAT; 1 for an
entry, 4 for a record of the device; 2 for the closed or empty result; 3 for a refusal, with its cause and subcause. A push that
was accepted is owed the word that its stamp is met (12 R303). -/
def queueReply (s : State) (q : QReq) (data : List Byte) : State :=
  let s := { s with qreqs := s.qreqs.filter (fun x => decide (x.key ≠ q.key)), remotes := s.remotes.filter (fun x => decide (x.id ≠ q.key)) }
  let byte := fun (i : Nat) => ((data.getD i 0 : Byte)).toNat
  match groupOf s q.gid with
  | none => s
  | some g =>
    let direct := !g.ll.any (fun l => decide (l.key = q.key))
    let result := fun (d p : Nat) =>
      let ent : Option QEntry := if byte 0 = 1 ∨ byte 0 = 4 then some ⟨0, (data.drop 1).take 64, [], [], none⟩ else none
      let c : Claim := ⟨q.gid, q.key, q.pa, g.ctx, d, p, direct, 0, ent, decide (byte 0 = 2), false, true, decide (byte 0 = 4), q.mask⟩
      let s := claimResult s g c
      if direct then s else wake s q.gid
    if byte 0 = 3 then refuseReq s q.gid q.key (trapC (byte 1) (byte 2))
    else match q.ask with
      | .pop d p => result d p
      | .try_ d p => result d p
      | .glean d p => result d p
      | .stat d => wake (putScalar s g d (wAt data 1)) q.gid
      | _ => wake s q.gid

/-- The answer to a task's push (12 R314): refused or done. -/
def taskReply (s : State) (f : Fired) (data : List Byte) : State :=
  let s := { s with remotes := s.remotes.filter (fun x => decide (x.id ≠ f.key)) }
  if ((data.getD 0 0 : Byte)).toNat = 3 then refuseTask s f else { s with fired := s.fired.filter (fun x => decide (x.key ≠ f.key)) }

/-- Where a request of this device arose, as a fault record names it; the combined arrivals of several launches for each of them. -/
def remoteOrigins (s : State) (r : Remote) : List Origin :=
  match r.ask with
  | .gbar _ arrs => (arrs.map (fun a =>
      ({ ctx := a.ctx, launch := (teamOf s a.team).bind (fun (t : Team) => t.launch), team := a.mt } : Origin))).eraseDups
  | _ => [{ ctx := r.ctx, launch := r.launch, core := r.core, team := ((teamOf s r.team).map (fun (t : Team) => t.index)).getD 0xFFFFFF }]

/-- The fault record of a request of this device that its remote home has refused, or that is lost (09 R245, 17 R403). -/
def failRemote (s : State) (r : Remote) (cause sub : Nat) : State :=
  (remoteOrigins s r).foldl (fun s o => faultRecord s o true cause sub) s

/-- A mark that this device has passed on answered: its answer goes to the device of the record (13 R330). -/
def relayReply (s : State) (x : Relay) (ok : Bool) : State :=
  let s := { s with remotes := s.remotes.filter (fun r => decide (r.id ≠ x.key)),
                    relays := if ok then s.relays.map (fun y => if y.key = x.key then { y with done := true } else y)
                      else s.relays.filter (fun y => decide (y.key ≠ x.key)) }
  tellDevice s x.dev x.recd (natLE 1 (if ok then 1 else 0))

/-- A request lost with its link (17 R403): recorded, its result zero, and counted as acknowledged. -/
def loseRemote (s : State) (r : Remote) : State :=
  let s := failRemote { s with remotes := s.remotes.filter (fun x => decide (x.id ≠ r.id)) } r 0x28 2
  match r.copy, s.qreqs.find? (fun q => decide (q.key = r.id)) with
  | some id, _ => loseAsync s r id
  | none, some q => queueReply s q (natLE 1 2)
  | none, none => match r.ret, s.fired.find? (fun f => decide (f.key = r.id)), s.recs.find? (fun x => decide (x.askKey = some r.id)) with
    | some t, _, _ => llGive s r.gid t.key (retParts t (List.replicate 16 0))
    | none, some f, _ => taskReply s f []
    | none, none, some x => markReply s x false
    | none, none, none => ((s.relays.find? (fun x => decide (x.key = r.id) && !x.done)).map (fun x => relayReply s x false)).getD s

/-- What follows when no link to a device is left (17 R404): its claims return, the records it had arrived at are abandoned, the
waits at its own records end, and its marks are lifted. The stamps of its pushes count as met (assumption 71). -/
def peerGone (s : State) (dev : Nat) : State :=
  let waits := fun (r : GRec) => s.groups.any (fun g => match g.park with
    | some (.gbar x _ 0) => decide (x = r.pa)
    | _ => false)
  let s := (s.recs.filter (fun r => decide (r.scope = 3) && r.devs.contains dev && (decide (r.arr ≠ []) || waits r))).foldl abandonRec s
  let away := (s.groups.filterMap (fun g => match g.park with
    | some (.gbar x _ 0) => if x / 2 ^ 64 = dev + 1 then some x else none
    | _ => none)).eraseDups
  let s := away.foldl (fun s x => tellWaiters s x 10 (fun _ => true)) s
  let of := fun (id : Nat) => decide (farDev id = some dev)
  let s := { s with claims := s.claims.filter (fun c => !of c.gid), asks := s.asks.filter (fun a => decide (a.dev ≠ dev)),
                    unmet := s.unmet.filter (fun x => !of x.1), owed := s.owed.filter (fun x => decide (x.dev ≠ dev)),
                    joins := s.joins.filter (fun j => decide (j.2.1 ≠ dev)), farArr := s.farArr.filter (fun a => decide (a.dev ≠ dev)),
                    relays := s.relays.filter (fun x => decide (x.dev ≠ dev) && decide (x.home ≠ dev)),
                    outbox := s.outbox.filter (fun x => decide (x.1 ≠ dev)), inbox := s.inbox.filter (fun x => decide (x.1 ≠ dev)) }
  s.queues.foldl (fun s q =>
    let mine := q.ents.filter (fun e => (e.claimer.map of).getD false)
    match queueAt s q.pa with
    | none => s
    | some q =>
      let q := if q.hood.drop 2 = [dev] then { q with marked := false, hood := [] } else q
      let s := mine.foldl (fun s _ => faultRecord s { ctx := q.ctx, launch := none } false 0x49 0) (putQueue s q)
      let q := (queueAt s q.pa).getD q
      if mine = [] then s
      else
        serveQueue (putQueue s { q with ents := q.ents.map (fun e =>
          if (e.claimer.map of).getD false then { e with claimer := none } else e) }) q.pa) s

/-- A link that leaves its bundle (17 R403, R404). -/
def linkLoss (s : State) (n st : Nat) : State :=
  match linkAt s n with
  | none => s
  | some l =>
    let dev := l.peer
    let s := setLink s n st (fun l => { l with lanes := 0, peer := if st = 0 then 0 else l.peer, peerLink := if st = 0 then 0 else l.peerLink,
                                               retrain := false, unacked := [], txSeq := 0, rxSeq := 0, replayAt := [], naks := [] })
    let s := (s.remotes.filter (fun r => decide (r.link = n))).foldl loseRemote s
    if bundle s dev = [] then peerGone s dev else s

/-! ### Events -/

/-- 100 ms in fabric cycles (17 R400, 01 R23). -/
def trainCycles : Nat := 200000000

/-- LINK_LOCK (17 R400): 8, 4 or 2 lanes and the peer's id. An id that is this device's own, or that of the peer of another
bundle (another link already leads to that link of it), quarantines the link; a retrain that finds another peer has failed. -/
def execLinkLock (link lanes peer peerLink : Nat) (s : State) : Host.Outcome State Fault Refusal :=
  onSome (linkAt s link) (fun l =>
    if l.st ≠ 1 ∨ !([8, 4, 2] : List Nat).contains lanes ∨ peer = 0 ∨ 255 < peer ∨ l.trainAt + trainCycles < s.fcycles then .fault .notEnabled
    else if l.retrain then
      if peer = l.peer ∧ peerLink = l.peerLink then .next (setLink s link (lanesState lanes) (fun l => { l with lanes := lanes, retrain := false }))
      else .next (linkLoss s link 0)
    else
      let twin := s.links.any (fun x => x.live && decide (x.peer = peer) && decide (x.peerLink = peerLink))
      let f := fun (l : Link) => { l with peer := peer, peerLink := peerLink }
      if peer = s.fid ∨ twin then .next (setLink s link 4 (fun l => { f l with lanes := 0 }))
      else .next (setLink s link (lanesState lanes) (fun l => { f l with lanes := lanes, txSeq := 0, rxSeq := 0, unacked := [], naks := [] })))

/-- LINK_TRAINING_TIMEOUT (17 R400): no lock, or a peer in minimal mode; after a retrain with loss. -/
def execLinkTrainingTimeout (link : Nat) (s : State) : Host.Outcome State Fault Refusal :=
  onSome (linkAt s link) (fun l =>
    if l.st ≠ 1 then .fault .notEnabled
    else if l.retrain then .next (linkLoss s link 0)
    else .next (setLink s link 0 (fun l => { l with lanes := 0, peer := 0, peerLink := 0 })))

/-- LINK_LANE_LOSS (17 R400): so many lanes are left, of which a link runs at 4 or 2. -/
def execLinkLaneLoss (link left : Nat) (s : State) : Host.Outcome State Fault Refusal :=
  onSome (linkAt s link) (fun l =>
    if !(l.live || (decide (l.st = 1) && l.retrain)) ∨ l.lanes ≤ left then .fault .notEnabled
    else if left < 2 then .next (linkLoss s link 0)
    else if l.st = 1 then .next s
    else .next (setLink s link 3 (fun l => { l with lanes := if 4 ≤ left then 4 else 2 })))

/-- LINK_PEER_RESET (17 R400). -/
def execLinkPeerReset (link : Nat) (s : State) : Host.Outcome State Fault Refusal :=
  onSome (linkAt s link) (fun l =>
    if l.live || (decide (l.st = 1) && l.retrain) then .next (linkLoss s link 0) else .fault .notEnabled)

/-- LINK_REPLAY_LIMIT (17 R400): more than 1,024 replays within 1 ms. -/
def execLinkReplayLimit (link : Nat) (s : State) : Host.Outcome State Fault Refusal :=
  onSome (linkAt s link) (fun l =>
    if l.live && decide (1024 < (l.replayAt.filter (fun t => decide (s.fcycles < t + 2000000))).length) then .next (linkLoss s link 4)
    else .fault .notEnabled)

/-- FLIT_NAK (17 R401): the flits from the refused one on are sent again. -/
def execFlitNak (link seq : Nat) (s : State) : Host.Outcome State Fault Refusal :=
  onSome (linkAt s link) (fun l =>
    if !l.live || !l.unacked.any (fun f => decide (f.seq = seq)) then .fault .notEnabled
    else .next (onLink s link (fun l => { l with
      replays := l.replays + 1, replayAt := s.fcycles :: l.replayAt.filter (fun t => decide (s.fcycles < t + 2000000)) })))

/-- FLIT_ACK (17 R401): the flits up to the acknowledged one are released. -/
def execFlitAck (link seq : Nat) (s : State) : Host.Outcome State Fault Refusal :=
  onSome (linkAt s link) (fun l =>
    if !l.live || !l.unacked.any (fun f => decide (f.seq = seq)) then .fault .notEnabled
    else .next (onLink s link (fun l => { l with
      unacked := (l.unacked.dropWhile (fun f => decide (f.seq ≠ seq))).drop 1 })))

/-! ### What a flit brings -/

/-- The value of a remote read or atomic, where it goes, and which of its sectors are poisoned there (17 R402, 08 R193): an agent
finds that out as it reads; an atomic faults at its thread. -/
def replyTo (s : State) (r : Remote) (data : List Byte) (secs : Nat) : State :=
  let s := { s with remotes := s.remotes.filter (fun x => decide (x.id ≠ r.id)) }
  match r.copy, r.ret with
  | some id, _ => if id = 0 then s else { s with rgot := s.rgot ++ [⟨id, r.dev, r.line, (data ++ List.replicate 512 0).take 512, secs⟩] }
  | none, some t => if secs = 0 then llGive s r.gid t.key (retParts t data) else atomicBad s r t
  | none, none => if secs = 0 then s else failRemote s r 0x0C 0

/-- What comes back for a request of this device: to a queue request, a task's push, a mark, or a read or atomic. -/
def replyFor (s : State) (req : Nat) (data : List Byte) (secs : Nat) : State :=
  match s.qreqs.find? (fun q => decide (q.key = req)), s.fired.find? (fun f => decide (f.key = req)),
      s.recs.find? (fun x => decide (x.askKey = some req)), s.relays.find? (fun x => decide (x.key = req) && !x.done),
      s.remotes.find? (fun r => decide (r.id = req)) with
  | some q, _, _, _, _ => queueReply s q data
  | none, some f, _, _, _ => taskReply s f data
  | none, none, some x, _, _ => markReply s x (decide (data.head? = some 1))
  | none, none, none, some x, _ => relayReply s x (decide (data.head? = some 1))
  | none, none, none, none, some r => replyTo s r data secs
  | none, none, none, none, none => s

/-- An answer of this device to a request of a linked one, on the link of its line. -/
def answerPeer (s : State) (dev pa : Nat) (data : List Byte) : State := tellDevice s dev pa data

/-- The entry that a claim of a linked device returns, as it is sent to it. -/
def peerEntry (c : Claim) : List Byte :=
  if c.ent.isSome then natLE 1 (if c.ofDev then 4 else 1) ++ wordsLE (claimWords c) else natLE 1 2

/-- A refusal sent to a linked device. -/
def peerRefuse (cause sub : Nat) : List Byte := natLE 1 3 ++ natLE 1 cause ++ natLE 1 sub

/-- The answer to a request of a linked device at a queue that is homed here (12 R302, R305 to R308, 17 R402), by the rules that the
requests of this device follow. A push of its groups is stamped, until it says that their stores have been performed. -/
def askAnswer (s : State) (x : PeerAsk) : QAns :=
  let a := peerAsker x
  match x.op with
  | 0 => pushAt { s with unmet := s.unmet ++ [(a.id, x.req)] } a.ctx x.pa x.data [(a.id, x.req)] []
  | 1 => closeAt s a.ctx x.pa
  | 2 => popAt s a x.pa 0 7 true false
  | 3 => popAt s a x.pa 0 7 true true
  | 4 => statAt s a.ctx x.pa 0
  | 5 => gleanAt s a x.pa 0 7
  | 6 => doneAt s a x.pa (leNat (x.data.take 4))
  | _ => pushAt s a.ctx x.pa x.data [] []

/-- Whether a request of a linked device is behind another at its queue: of that device, but for a push that waits there for room, or for
two pushes of any (12 R298). -/
def askBehind (s : State) (x : PeerAsk) : Bool :=
  let pushes := decide (x.op % 7 = 0)
  s.asks.any (fun y => decide (y.pa = x.pa) && decide (y.key < x.key) &&
      ((decide (y.dev = x.dev) && !(decide (y.op % 7 = 0) && !pushes && pushWaits s x.pa)) || (pushes && decide (y.op % 7 = 0)))) ||
    (pushes && s.qreqs.any (fun r => r.dev.isNone && decide (r.pa = x.pa) && r.pushes && decide (r.key < x.key) && hasLeft s r))

/-- The state in which a request of a linked device has been answered; none where it cannot be now. -/
def answerAsk (s : State) (x : PeerAsk) : Option State :=
  if askBehind s x then none
  else
    let clear := fun (s : State) => { s with asks := s.asks.filter (fun y => decide (y.key ≠ x.key)) }
    match askAnswer s x with
    | .notYet => none
    | .refuse t => some (answerPeer (clear s) x.dev x.pa (peerRefuse t.cause t.sub))
    | .ok s => some (answerPeer (clear s) x.dev x.pa (natLE 1 0))
    | .word s _ v => some (answerPeer (clear s) x.dev x.pa (natLE 1 0 ++ natLE 8 v.toNat))
    | .claim s c => some { clear s with claims := s.claims ++ [c] }

/-- A claim of a linked device whose entry is ready, sent to it (12 R303, R306). -/
def peerClaim (s : State) : Option State :=
  (s.claims.find? (fun c => (farDev c.gid).isSome && claimReady s c)).map (fun c =>
    let s := { s with claims := s.claims.filter (fun x => decide (x ≠ c)) }
    let s := if c.ent.isSome then compDec s c.ctx c.done none else s
    answerPeer s ((farDev c.gid).getD 0) c.qpa (peerEntry c))

/-- The word that the stores which a remote push was stamped with have been performed (12 R303). -/
def tellPerformed (s : State) : Option State :=
  (s.owed.find? (fun o => stampMet s (o.gid, o.seq) (fun _ _ => true) && canSend s o.dev o.pa)).map (fun o =>
    tellDevices { s with owed := s.owed.filter (fun x => decide (x.key ≠ o.key)) } [o.dev] o.pa (natLE 8 o.key))

/-- The arrivals of a linked device at a barrier record (13 R322, R324, R325, R327, R328), each counted or refused: the refusal names
its team. -/
def peerArrive (dev pa : Nat) (s : State) (m : Nat × PeerTeam) : State :=
  let refuse := fun (s : State) (sub : Nat) => tellDevices s [dev] pa (natLE 8 pa ++ natLE 1 sub ++ natLE 8 m.2.team)
  match recAt s pa with
  | some r => if r.members ≤ m.1 ∨ r.scope ≠ 3 then refuse s 6
      else arriveHome refuse pa ⟨m.1, s.fcycles, m.2.lid, m.2.index, m.2.team, m.2.ctx, some dev⟩ s
  | none => refuse s (deadSub s pa)

/-- How a mark names its record here: its place and neighbourhood, and its device where that is another. -/
def hoodOf (s : State) (recPA nbhd home : Nat) : List Nat := if home = deviceId s then [recPA, nbhd] else [recPA, nbhd, home]

/-- A mark asked for by a record of a linked device (13 R330), for a member whose team runs here: its queue is found in the translation of
the team's context, and where it is homed on another device the mark is passed on to that one. -/
def peerMark (s : State) (dev : Nat) (queue : W64) (who : PeerTeam) (recPA nbhd : Nat) : State :=
  match markPlace s who.ctx queue with
  | (s, none) => answerPeer s dev recPA (natLE 1 0)
  | (s, some ph) => match ph.dev with
    | some d =>
      let (key, s) := takeId s
      sendRemote { s with relays := s.relays ++ [⟨key, dev, recPA, d, false⟩] } (agentReq key d who.ctx none false (.read ph.pa 0)) ph.pa
    | none =>
      let marked := markHere s ph.pa who.ctx who.lid who.index (hoodOf s recPA nbhd dev)
      answerPeer (marked.getD s) dev recPA (natLE 1 (if marked.isSome then 1 else 0))

/-- A mark that a linked device has passed on, for a queue that is homed here. -/
def peerMarkAt (s : State) (dev pa : Nat) (who : PeerTeam) (recPA nbhd home : Nat) : State :=
  let marked := markHere s pa who.ctx who.lid who.index (hoodOf s recPA nbhd home)
  answerPeer (marked.getD s) dev pa (natLE 1 (if marked.isSome then 1 else 0))

/-- The marks of a record of a device lifted, of one queue that is homed here or of all. -/
def unmarkAt (s : State) (queue : Option Nat) (recPA home : Nat) : State :=
  match queue with
  | some pa => unmarkHere s pa (hoodOf s recPA 0 home)
  | none => (s.queues.map (fun q => q.pa)).foldl (fun s pa => unmarkHere s pa (hoodOf s recPA 0 home)) s

/-- The marks of a record of a linked device lifted, those that were passed on too. -/
def peerUnmark (s : State) (dev recPA : Nat) (queue : Option (Nat × W64)) : State :=
  match queue with
  | some (ctx, w) => match markPlace s ctx w with
    | (s, some ph) => (match ph.dev with
      | none => unmarkAt s (some ph.pa) recPA dev
      | some d => tellDevice s d ph.pa (natLE 8 ph.pa ++ natLE 8 recPA))
    | (s, none) => s
  | none =>
    let mine := fun (x : Relay) => decide (x.dev = dev) && decide (x.recd = recPA) && x.done
    let s := tellDevices s ((s.relays.filter mine).map (fun x => x.home)) recPA (natLE 8 recPA)
    unmarkAt { s with relays := s.relays.filter (fun x => !mine x) } none recPA dev

/-- An access of a linked device to memory here, at its home slice (17 R402), written through where its page is host-coherent (15 R363);
of a poisoned sector only that is told, and it is left unchanged (09 R245). -/
def peerRmw (s : State) (dev pa size : Nat) (op : Rmw) (v : W64) (page : PageAttr) : State :=
  if s.poison.contains (pa / 128) then answerPeer s dev pa (natLE size 0 ++ natLE 1 1)
  else
    let (s, old) := performRmw s (hostOrigin s pa) page.hc op pa size v true
    answerPeer s dev pa (natLE size old)

/-- A contribution of a linked device (09 R217), at the slice that its leaf gives (15 R362): combined, held, or refused to that device,
whose launch it is (09 R245). -/
def peerOred (s : State) (dev pa op : Nat) (rnd : Rnd) (idx : Nat) (v : W64) (page : PageAttr) : State :=
  match oredRefuses s pa idx with
  | some cause => answerPeer s dev pa (natLE 1 cause)
  | none => answerPeer (oredAt s (hostOrigin s pa) page.hc (homeSlice (pageLeaf page) pa) op rnd pa idx v) dev pa []

/-- The poisoned sectors of some bytes, as bits from the first one's sector on. -/
def poisonBits (s : State) (pa len : Nat) : Nat :=
  ((List.range (ceilDiv (pa % 128 + len) 128)).map (fun i => if s.poison.contains (pa / 128 + i) then 2 ^ i else 0)).foldl (· + ·) 0

/-- The bytes that a linked device has read, with the bits of the sectors that are poisoned. -/
def peerRead (s : State) (dev pa len : Nat) : State :=
  answerPeer s dev pa (memBytes s.mem pa len ++ (if poisonBits s pa len = 0 then [] else natLE 1 (poisonBits s pa len)))

/-- A store of a linked device at the home slices that its leaf gives (15 R362, R363), line by line, acknowledged. -/
def peerWrite (s : State) (dev pa : Nat) (data : List Byte) (page : PageAttr) : State :=
  let cells := data.zipIdx.map (fun x => (pa + x.2, x.1))
  let lines := (cells.map (fun c => c.1 / 512)).eraseDups
  answerPeer (lines.foldl (fun s l => storeHome s (hostOrigin s (pa / 64 * 64)) page.hc (homeSlice (pageLeaf page) (512 * l))
    (cells.filter (fun c => decide (c.1 / 512 = l)))) s) dev pa []

/-- A product added to a gradient element for a linked device (11 R292). -/
def peerFma (s : State) (dev pa : Nat) (g x : W32) (page : PageAttr) : State :=
  if s.poison.contains (pa / 128) then answerPeer s dev pa (natLE 1 0x0C)
  else
    let s := drainLine s (pa / 512)
    let v := (fFma fmtF32 rne (fDecode fmtF32 g.toNat) (fDecode fmtF32 x.toNat) (fDecode fmtF32 (memNat s.mem pa 4))).1
    answerPeer (homePut s (hostOrigin s pa) page.hc pa 4 v) dev pa []

/-- The teams whose arrivals a message carried have arrived at the record of a linked device (13 R332). -/
def farArrive (s : State) (dev pa : Nat) (arrs : List Arrived) : State :=
  { s with farArr := s.farArr.filter (fun a => !(decide (a.dev = dev) && decide (a.recd = pa) && arrs.any (fun x => decide (x.team = a.team)))) ++
      arrs.map (fun x => ⟨dev, pa, x.team, true⟩) }

/-- A generation of a record of a linked device is complete (13 R325, R326, R332): what this device has sent of it has arrived, those
that have arrived have done so in the generation before, and the waiters go on. -/
def farRelease (s : State) (dev pa gen : Nat) : State :=
  let sent := s.remotes.flatMap (fun r => match r.ask with
    | .gbar x arrs => if r.dev = dev ∧ x = pa then arrs else []
    | _ => [])
  let s := farArrive s dev pa sent
  let s := { s with farArr := (s.farArr.filter (fun a => decide (a.dev ≠ dev) || decide (a.recd ≠ pa) || a.now)).map (fun a =>
    if a.dev = dev ∧ a.recd = pa then { a with now := false } else a) }
  tellWaiters (releaseGen s (recKey pa (some dev)) gen) (recKey pa (some dev)) 1 (fun _ => true)

/-- A request of this device acknowledged: what it brought about has taken place. -/
def ackRemote (s : State) (r : Remote) : State :=
  match r.ask with
  | .gbar pa arrs => farArrive { s with remotes := s.remotes.filter (fun x => decide (x.id ≠ r.id)) } r.dev pa arrs
  | _ => landRemote s r

/-- The place that a request of a linked device is for; none for an answer. -/
def payloadPA : Payload → Option Nat
  | .read pa _ => some pa
  | .write pa _ _ => some pa
  | .atomic pa _ _ _ _ => some pa
  | .atomicF pa _ _ _ _ _ => some pa
  | .cas pa _ _ _ _ => some pa
  | .ored pa _ _ _ _ _ => some pa
  | .fma pa _ _ _ => some pa
  | .gbar pa _ => some pa
  | .gbarGone pa => some pa
  | _ => none

/-- What a flit that is accepted does; none where its request has to wait: for a line that a copy owns (09 R232), for the updates of a
barrier record (13 R329). -/
def payloadDo (s : State) (dev : Nat) : Payload → Option State
  | .idle => some s
  | .reply req data => some (replyFor s req data 0)
  | .poisoned req data secs => some (replyFor s req data secs)
  | .ack req => some (match s.remotes.find? (fun r => decide (r.id = req)) with
    | some r => ackRemote s r
    | none => s)
  | .failed req cause => some (match s.remotes.find? (fun r => decide (r.id = req)) with
    | some r => failRemote { s with remotes := s.remotes.filter (fun r => decide (r.id ≠ req)) } r cause 0
    | none => s)
  | .read pa len => if lineOwned s (pa / 512) then none else some (peerRead s dev pa len)
  | .write pa data page =>
    if (List.range (data.length / 512 + 2)).any (fun i => decide (512 * (pa / 512 + i) < pa + data.length) && lineOwned s (pa / 512 + i)) then none
    else some (peerWrite s dev pa data page)
  | .atomic pa aop size v page => if lineOwned s (pa / 512) then none else some (peerRmw s dev pa size (.int aop) v page)
  | .atomicF pa fop rnd size v page => if lineOwned s (pa / 512) then none else some (peerRmw s dev pa size (.flt fop rnd) v page)
  | .cas pa size cmp v page => if lineOwned s (pa / 512) then none else some (peerRmw s dev pa size (.cas cmp) v page)
  | .ored pa op rnd idx v page => if lineOwned s (pa / 512) then none else some (peerOred s dev pa op rnd idx v page)
  | .fma pa g x page => if lineOwned s (pa / 512) then none else some (peerFma s dev pa g x page)
  | .gbar pa members => if recReady s pa members.length then some (members.foldl (peerArrive dev pa) s) else none
  | .gbarRelease pa gen => some (farRelease s dev pa gen)
  | .gbarRefuse pa sub team => some (tellWaiters s (recKey pa (some dev)) sub (fun g => team.isNone || decide (team = some g.team)))
  | .gbarGone pa => some (match recAt s pa with
    | some r => if r.scope = 3 then abandonRec s r else s
    | none => s)
  | .mark _ queue who recPA nbhd => some (peerMark s dev queue who recPA nbhd)
  | .unmark recPA queue => some (peerUnmark s dev recPA queue)
  | .markAt _ pa who recPA nbhd home => some (peerMarkAt s dev pa who recPA nbhd home)
  | .unmarkAt queue recPA home => some (unmarkAt s queue recPA home)
  | .queue req pa op data who =>
    let (key, s) := takeId s
    some { s with asks := s.asks ++ [⟨key, dev, req, pa, op, data, who⟩] }
  | .performed req => some { s with unmet := s.unmet.filter (fun x => decide (farDev x.1 ≠ some dev) || decide (x.2 ≠ req)) }

/-- Whether a request of a linked device comes behind another to its line that has to wait. -/
def inboxBehind (box : List (Nat × Payload)) (dev : Nat) (p : Payload) : Bool :=
  match payloadPA p with
  | none => false
  | some pa => box.any (fun x => decide (x.1 = dev) && ((payloadPA x.2).map (fun a => decide (a / 512 = pa / 512))).getD false)

/-- A request of a linked device that had to wait and is served now. -/
def serveInbox (s : State) : Option State :=
  s.inbox.zipIdx.findSome? (fun x =>
    if inboxBehind (s.inbox.take x.2) x.1.1 x.1.2 then none
    else payloadDo { s with inbox := s.inbox.eraseIdx x.2 } x.1.1 x.1.2)

/-- FLIT_RECEIVE (17 R401): a flit that fails its CRC or is out of sequence is refused with a NAK, which asks for the flits from the next
in sequence on, and changes nothing else but a count; the next in sequence is accepted, and does what it carries. A request that has to
wait does not hold up the flits behind it, nor does the window of its own answer. -/
def execFlitReceive (link seq : Nat) (crcOk : Bool) (payload : Payload) (s : State) : Host.Outcome State Fault Refusal :=
  onSome (linkAt s link) (fun l =>
    if !l.live then .fault .notEnabled
    else if !crcOk then .next (onLink s link (fun l => { l with crcErrs := l.crcErrs + 1, naks := l.naks ++ [l.rxSeq] }))
    else if seq ≠ l.rxSeq then .next (onLink s link (fun l => { l with naks := l.naks ++ [l.rxSeq] }))
    else
      let s := onLink s link (fun l => { l with rxSeq := (l.rxSeq + 1) % 4096 })
      match (if inboxBehind s.inbox l.peer payload then none else payloadDo s l.peer payload) with
      | none => .next { s with inbox := s.inbox ++ [(l.peer, payload)] }
      | some s => .next s)

/-- A request of a group to a queue of another device, sent over its link (12 R302, 17 R402). A push does not wait for the group's
stores (12 R303): the device is told once they have been performed. -/
def sendQueue (s : State) (q : QReq) : Option State :=
  match q.dev, groupOf s q.gid with
  | some d, some g =>
    if s.remotes.any (fun r => decide (r.id = q.key)) || !canSend s d q.pa || !hasLeft s q then none
    else
      let s := if q.pushes then { s with owed := s.owed ++ [⟨d, q.key, q.pa, q.gid, q.stamp⟩] } else s
      some (sendRemote s { id := q.key, link := 0, dev := d, line := 0, cluster := g.cluster, gid := g.id, ctx := g.ctx,
                              launch := g.launch, core := g.core, team := g.team, seq := g.seq, copy := none, writes := false,
                              ask := .read q.pa 0, ret := none } q.pa)
  | _, _ => none

end Sys2Proof.Machine
end

