-- ==== Sys2Proof/Machine/Firmware.lean ====
section
/-! DEFINITION. The host mailbox, images, the start sequence and attestation (19 R422 to R429). -/

namespace Sys2Proof.Machine

/-! ### The mailbox -/

/-- A command of the mailbox reported (19 R423). -/
def mreport (s : State) (cmd result : Nat) : State := { s with firm := { s.firm with mlast := cmd, mresult := result } }

/-- A command of the mailbox (19 R423, R424): while the mailbox is busy it is ignored with result 1; in minimal mode only ATTEST, UPDATE
and RESET are accepted. -/
def mailbox (cmd : Nat) (s : State) (k : State → State) : Host.Outcome State Fault Refusal :=
  .next (if s.firm.busy then mreport s cmd 1 else if s.firm.mode = 2 ∧ cmd < 5 then mreport s cmd 5 else k s)

/-- The link that MARG names. -/
def margLink (s : State) : Nat := s.firm.marg.toNat % 16

/-- A command on a link: its new state where the link meets the condition, else result 2. -/
def linkCmd (cmd : Nat) (ok : Link → Bool) (k : State → Nat → State) (s : State) : Host.Outcome State Fault Refusal :=
  mailbox cmd s (fun s =>
    if ((linkAt s (margLink s)).map ok).getD false then mreport (k s (margLink s)) cmd 0 else mreport s cmd 2)

/-- LINKTRAIN (19 R424, 17 R400). -/
def execLinktrain (s : State) : Host.Outcome State Fault Refusal :=
  linkCmd 1 (fun l => decide (l.st = 0)) (fun s n => setLink s n 1 (fun l => { l with retrain := false, trainAt := s.fcycles })) s

/-- LINKRETRAIN (19 R424, 17 R400). -/
def execLinkretrain (s : State) : Host.Outcome State Fault Refusal :=
  linkCmd 2 Link.live (fun s n => setLink s n 1 (fun l => { l with retrain := true, trainAt := s.fcycles })) s

/-- LINKREL (19 R424, 17 R400). -/
def execLinkrel (s : State) : Host.Outcome State Fault Refusal :=
  linkCmd 3 (fun l => decide (l.st = 4)) (fun s n => setLink s n 0 (fun l => { l with lanes := 0, peer := 0, peerLink := 0 })) s

/-- SETFID (19 R424, 17 R398): an id of 0 is malformed. -/
def execSetfid (s : State) : Host.Outcome State Fault Refusal :=
  mailbox 4 s (fun s =>
    let id := s.firm.marg.toNat % 256
    if id = 0 then mreport s 4 3
    else if s.links.all (fun l => decide (l.st = 0) || decide (l.st = 4)) then mreport { s with fid := id } 4 0
    else mreport s 4 2)

/-! ### Images -/

/-- A number in an image. -/
def imgNat (img : List Byte) (off n : Nat) : Nat := leNat ((img.drop off).take n)

/-- Why an image is not verified (19 R425, R427): 4 where only its VERSION is below the minimum, else 3. -/
def imageBad (f : Firm) (kind : Nat) (img : List Byte) : Option Nat :=
  let len := imgNat img 0x10 8
  let key := imgNat img 0x18 8
  if imgNat img 0 4 ≠ 0x5A584657 ∨ imgNat img 4 4 ≠ kind ∨ len = 0 ∨ 2 ^ 26 < len ∨ img.length ≠ 0x400 + len ∨ 3 < key ∨
      f.revoked.getD key true ∨ !((img.drop 0x20).take 480).all (fun b => decide (b = 0)) ∨ !signatureValid key (img.take 0x200 ++ img.drop 0x400) ((img.drop 0x200).take 512) then some 3
  else if imgNat img 8 8 < f.minVer.getD (kind - 1) 0 then some 4
  else none

/-- The slot that UPDATE writes (19 R426): the one that does not run, or without a stable the one that was tried first. -/
def updateSlot (f : Firm) : Nat :=
  match f.running with
  | some n => 1 - n
  | none => f.tried

/-- UPDATE (19 R426). -/
def execUpdate (s : State) : Host.Outcome State Fault Refusal :=
  mailbox 6 s (fun s =>
    let a := s.firm.marg.toNat
    let n := s.firm.marg2.toNat
    if 0x400 + 2 ^ 26 < n ∨ paLimit < a + n then mreport s 6 4
    else
      let img := memBytes s.mem a n
      if (imageBad s.firm 2 img).isSome then mreport s 6 4
      else
        let k := updateSlot s.firm
        mreport { s with firm := { s.firm with slots := s.firm.slots.set k (some img), marked := k } } 6 0)

/-! ### The start sequence -/

/-- The slot of the stable that a start runs: the marked one, else the other; or the reason for which neither is verified. -/
def pickStable (f : Firm) : Except Nat Nat :=
  let why := fun (n : Nat) => match f.slots.getD n none with
    | none => some 3
    | some img => imageBad f 2 img
  match why f.marked, why (1 - f.marked) with
  | none, _ => .ok f.marked
  | some _, none => .ok (1 - f.marked)
  | some _, some r => .error r

/-- One start (19 R427): the step it reached, and there the reason of its failure, or the slot that runs; or nothing where it stands at
that step, as it does at step 1 where the world outside says nothing of it. -/
def tryStart (f : Firm) : Option StartOutcome → Nat × Option (Except Nat Nat)
  | none => (1, none)
  | some o =>
    if o.stop = 1 then (1, none)
    else if !o.selfTest then (1, some (.error 1))
    else if o.stop = 2 then (2, none)
    else if (imageBad f 1 Config.rootImage).isSome then (2, some (.error 2))
    else if o.stop = 3 then (3, none)
    else match pickStable f with
      | .error r => (3, some (.error r))
      | .ok k =>
        if o.stop = 4 then (4, none)
        else if !o.hbm then (4, some (.error 5))
        else if o.stop = 5 then (5, none)
        else if !o.mesh then (5, some (.error 6))
        else if o.stop = 6 then (6, none)
        else if !o.stable then (6, some (.error 7))
        else (7, some (.ok k))

/-- The device after a reset: everything as at reset but the flash, what the boot record says of the last start until the next one
overwrites it, what the host has been sent, and the model's own schedule and counters. Memory keeps its bytes until step 4 zeroes it. -/
def resetState (s : State) : State :=
  { State.reset with
    agenda := s.agenda, freeCtr := s.freeCtr, nextId := s.nextId, mem := s.mem, poison := s.poison, out := s.out,
    firm := { s.firm with mode := 0, stableVer := 0, ready := 0, running := none, marg := 0, marg2 := 0, mlast := 0, mresult := 0,
                          busy := false } }

/-- Minimal mode (19 R427): the boot record keeps the reason and the last step of the start that failed (19 R428). -/
def minimal (s : State) : State :=
  let s := resetState s
  { s with firm := { s.firm with mode := 2 } }

/-- What a start that has reached a step has done (19 R427): the boot record names the step, the root's version and the slot tried first
stand once the root is verified, and memory is zero after step 4. -/
def reachStep (s : State) (step : Nat) : State :=
  let s := if 3 ≤ step then { s with firm := { s.firm with rootVer := imgNat Config.rootImage 8 8, tried := s.firm.marked } } else s
  let s := if 5 ≤ step then { s with mem := [], poison := [] } else s
  { s with firm := { s.firm with lastStep := step } }

/-- A start that succeeded (19 R427, step 7): memory is zero, the count is cleared, and FCYCLES stands at a value that the spec
does not give (assumption 3). -/
def started (s : State) (k : Nat) : State :=
  let (x, s) := takeFree (reachStep s 7)
  let now := x.toNat % 60000000000 + 1
  { s with
    fcycles := now, policyAt := (now / 20000 + 1) * 20000, dirty := [],
    clusters := s.clusters.map (fun x => { x with cycF := now }),
    firm := { s.firm with mode := 1, failCnt := 0, reason := 0, stableVer := imgNat ((s.firm.slots.getD k none).getD []) 8 8,
                          ready := now, running := some k } }

/-- Starts until one succeeds or stands, or three have failed, and the device is in minimal mode (19 R427). The count goes up at
step 1. -/
def startSeq : List StartOutcome → Nat → State → State
  | _, 0, s => minimal s
  | os, n + 1, s =>
    let s := resetState s
    let s := { s with firm := { s.firm with failCnt := s.firm.failCnt + 1, lastStep := 1, rootVer := 0 } }
    match tryStart s.firm os.head? with
    | (step, none) => reachStep s step
    | (_, some (.ok k)) => started s k
    | (step, some (.error r)) =>
      let s := reachStep s step
      startSeq (os.drop 1) n { s with firm := { s.firm with reason := r } }

/-- A start with the failed starts that the flash counts (19 R427). -/
def start (os : List StartOutcome) (s : State) : State := startSeq os (3 - s.firm.failCnt) s

/-- A start that a RESET began (19 R423, R424): the mailbox is busy while it is under way, and reports the command when it has ended. -/
def resetStart (os : List StartOutcome) (s : State) : State :=
  let s := start os s
  if s.firm.mode = 0 then { s with firm := { s.firm with mlast := 7, busy := true } } else mreport s 7 0

/-- RESET (19 R424, R427): in minimal mode with MARG[0] = 0 the device returns to minimal mode at once, and with MARG[0] = 1 the count
begins anew. -/
def execReset (o : List StartOutcome) (s : State) : Host.Outcome State Fault Refusal :=
  mailbox 7 s (fun s =>
    if s.firm.mode = 2 then
      if s.firm.marg.getLsbD 0 then resetStart o { s with firm := { s.firm with failCnt := 0 } } else mreport (minimal s) 7 0
    else resetStart o s)

/-- POWER_ON (19 R427): what memory and the registers held is gone; the flash is not. -/
def execPowerOn (o : List StartOutcome) (s : State) : Host.Outcome State Fault Refusal :=
  .next (start o { s with mem := [], poison := [], out := [] })

/-- START_TIMEOUT (19 R427): a start that has not reached step 7 within 30 s, of 2 GHz, fails with reason 8; below a count of 3 the
device starts again. -/
def execStartTimeout (o : List StartOutcome) (s : State) : Host.Outcome State Fault Refusal :=
  if s.firm.mode ≠ 0 ∨ s.firm.lastStep = 0 ∨ s.fcycles < 60000000000 then .fault .notEnabled
  else
    let late := { s with firm := { s.firm with reason := 8 } }
    .next (if s.firm.busy then resetStart o late else start o late)

/-! ### Attestation -/

/-- A signature cut or filled to its length. -/
def fitBytes (n : Nat) (bs : List Byte) : List Byte := (bs ++ List.replicate n 0).take n

/-- The first 256 bytes of a report (19 R429). -/
def reportBody (s : State) (nonce : List Byte) : List Byte :=
  let f := s.firm
  let stable := match f.running with
    | some k => (f.slots.getD k none).getD []
    | none => []
  nonce ++ natLE 8 f.rootVer ++ natLE 8 f.stableVer ++ natLE 8 (s.fid + 2 ^ 8 * f.mode) ++ natLE 8 0 ++
    sha512 Config.rootImage ++ sha512 stable ++ sha512 Config.fuses

/-- ATTEST (19 R429): an address that is misaligned, or not of memory, is malformed. -/
def execAttest (s : State) : Host.Outcome State Fault Refusal :=
  mailbox 5 s (fun s =>
    let a := s.firm.marg.toNat
    if a % 256 ≠ 0 ∨ paLimit < a + 768 then mreport s 5 3
    else
      let body := reportBody s (memBytes s.mem a 32)
      let bs := body ++ fitBytes 512 (Config.attestSignature (sha512 body))
      mreport (homeWrite s (hostOrigin s a) false (bs.zipIdx.map (fun x => (a + x.2, x.1)))) 5 0)

end Sys2Proof.Machine
end

