-- ==== Sys2Proof/Machine/IntVec.lean ====
section
/-! DEFINITION. The integer vector instructions (07 R147 to R154): each computes an exact integer, or the bits, from the
operands of one thread. -/

namespace Sys2Proof.Machine

/-- Two integer operands x and y, an exact result, SAT. -/
def int2 (f : VF) (op : Int → Int → Int) (s : State) (g : Group) (t : Nat) : ThreadOut :=
  outI f.t f.sat f.d.toNat (op (readI s g f.t f.a.toNat t) (readI s g f.t f.b.toNat t))

/-- Three integer operands x, y and d, an exact result, SAT. -/
def int3 (f : VF) (op : Int → Int → Int → Int) (s : State) (g : Group) (t : Nat) : ThreadOut :=
  outI f.t f.sat f.d.toNat
    (op (readI s g f.t f.a.toNat t) (readI s g f.t f.b.toNat t) (readI s g f.t f.d.toNat t))

/-- One integer operand, an exact result, SAT. -/
def int1 (f : VF) (op : Int → Int) (s : State) (g : Group) (t : Nat) : ThreadOut :=
  outI f.t f.sat f.d.toNat (op (readI s g f.t f.a.toNat t))

/-- Raw bits of x, and of B in the same type. -/
def bit2 (f : VF) (op : Nat → Nat → Nat) (s : State) (g : Group) (t : Nat) : ThreadOut :=
  outW (holdW f.t f.d.toNat (op (readT s g f.t f.a.toNat t) (readT s g f.t f.b.toNat t) % 2 ^ f.t.bits)) 0

/-- Raw bits of x with the amount in B, one register read as u32 (07 R147, R150). -/
def bitSh (f : VF) (op : Nat → Nat → Nat) (s : State) (g : Group) (t : Nat) : ThreadOut :=
  outW (holdW f.t f.d.toNat (op (readT s g f.t f.a.toNat t) (readV s g f.b.toNat t).toNat % 2 ^ f.t.bits)) 0

/-- Raw bits of x alone. -/
def bit1 (f : VF) (op : Nat → Nat) (s : State) (g : Group) (t : Nat) : ThreadOut :=
  outW (holdW f.t f.d.toNat (op (readT s g f.t f.a.toNat t) % 2 ^ f.t.bits)) 0

/-- A count of bits of x, in one u32 register. -/
def count1 (f : VF) (op : Nat → Nat) (s : State) (g : Group) (t : Nat) : ThreadOut :=
  outW (hold1 f.d.toNat (op (readT s g f.t f.a.toNat t))) 0

/-- IADD (07 R147). -/
def execIadd (h : Hd) (f : VF) (s : State) : Host.Outcome State Fault Refusal :=
  vecOp (.iadd h f) h (int2 f (fun x y => x + y)) s
/-- ISUB (07 R147). -/
def execIsub (h : Hd) (f : VF) (s : State) : Host.Outcome State Fault Refusal :=
  vecOp (.isub h f) h (int2 f (fun x y => x - y)) s

/-- The carry in of a thread: a bit of the predicate, p7 reads as 1 (07 R148). -/
def carryIn (g : Group) (f : VF) (t : Nat) : Int := if (predMask g (f.sub.toNat % 8)).getLsbD t then 1 else 0

/-- IADDC and ISUBB: the sum or difference with the carry, and the carry out in the same predicate (07 R148). -/
def carryOp (f : VF) (op : Int → Int → Int → Int) (s : State) (g : Group) (t : Nat) : ThreadOut :=
  let r := op (readT s g f.t f.a.toNat t) (readT s g f.t f.b.toNat t) (carryIn g f t)
  ⟨holdI f.t f.d.toNat r, [(f.sub.toNat % 8, decide (r < 0 ∨ 2 ^ f.t.bits ≤ r))], 0⟩

/-- IADDC (07 R148). -/
def execIaddc (h : Hd) (f : VF) (s : State) : Host.Outcome State Fault Refusal :=
  vecOp (.iaddc h f) h (carryOp f (fun x y c => x + y + c)) s
/-- ISUBB (07 R148). -/
def execIsubb (h : Hd) (f : VF) (s : State) : Host.Outcome State Fault Refusal :=
  vecOp (.isubb h f) h (carryOp f (fun x y c => x - y - c)) s
/-- IMUL (07 R147). -/
def execImul (h : Hd) (f : VF) (s : State) : Host.Outcome State Fault Refusal :=
  vecOp (.imul h f) h (int2 f (fun x y => x * y)) s
/-- IMULH: the high half of the product, rounded down (07 R147). -/
def execImulh (h : Hd) (f : VF) (s : State) : Host.Outcome State Fault Refusal :=
  vecOp (.imulh h f) h (int2 f (fun x y => x * y / 2 ^ f.t.bits)) s
/-- IMAD (07 R147). -/
def execImad (h : Hd) (f : VF) (s : State) : Host.Outcome State Fault Refusal :=
  vecOp (.imad h f) h (int3 f (fun x y d => x * y + d)) s

/-- The old pair of D plus the product of the 32-bit operands (07 R147). -/
def madWide (f : VF) (s : State) (g : Group) (t : Nat) : ThreadOut :=
  outW (wordsFrom f.d.toNat 2 (wrapNat 64
    ((readVs s g f.d.toNat 2 t : Int) + readI s g f.t f.a.toNat t * readI s g f.t f.b.toNat t))) 0

/-- IMADW (07 R147). -/
def execImadw (h : Hd) (f : VF) (s : State) : Host.Outcome State Fault Refusal := vecOp (.imadw h f) h (madWide f) s

/-- The quotient truncated toward zero; by zero all-ones with DZ (07 R149). -/
def divOp (f : VF) (s : State) (g : Group) (t : Nat) : ThreadOut :=
  let x := readI s g f.t f.a.toNat t
  let y := readI s g f.t f.b.toNat t
  if y = 0 then outW (holdI f.t f.d.toNat (-1)) flDZ else outI f.t f.sat f.d.toNat (x.tdiv y)

/-- The remainder with the sign of the dividend; by zero the dividend with DZ (07 R149). -/
def remOp (f : VF) (s : State) (g : Group) (t : Nat) : ThreadOut :=
  let x := readI s g f.t f.a.toNat t
  let y := readI s g f.t f.b.toNat t
  if y = 0 then outW (holdI f.t f.d.toNat x) flDZ else outW (holdI f.t f.d.toNat (x.tmod y)) 0

/-- IDIV (07 R149). -/
def execIdiv (h : Hd) (f : VF) (s : State) : Host.Outcome State Fault Refusal := vecOp (.idiv h f) h (divOp f) s
/-- IREM (07 R149). -/
def execIrem (h : Hd) (f : VF) (s : State) : Host.Outcome State Fault Refusal := vecOp (.irem h f) h (remOp f) s
/-- INEG (07 R147). -/
def execIneg (h : Hd) (f : VF) (s : State) : Host.Outcome State Fault Refusal :=
  vecOp (.ineg h f) h (int1 f (fun x => -x)) s
/-- IABS (07 R147). -/
def execIabs (h : Hd) (f : VF) (s : State) : Host.Outcome State Fault Refusal :=
  vecOp (.iabs h f) h (int1 f (fun x => x.natAbs)) s
/-- IMIN (07 R147). -/
def execImin (h : Hd) (f : VF) (s : State) : Host.Outcome State Fault Refusal :=
  vecOp (.imin h f) h (int2 f (fun x y => min x y)) s
/-- IMAX (07 R147). -/
def execImax (h : Hd) (f : VF) (s : State) : Host.Outcome State Fault Refusal :=
  vecOp (.imax h f) h (int2 f (fun x y => max x y)) s
/-- ICLAMP (07 R147). -/
def execIclamp (h : Hd) (f : VF) (s : State) : Host.Outcome State Fault Refusal :=
  vecOp (.iclamp h f) h (int3 f (fun x y d => min (max d x) y)) s

/-- d plus the distance of x and y, d and the result u32 (07 R147). -/
def sadOp (f : VF) (s : State) (g : Group) (t : Nat) : ThreadOut :=
  let x := readI s g f.t f.a.toNat t
  let y := readI s g f.t f.b.toNat t
  outI .u32 f.sat f.d.toNat (readI s g .u32 f.d.toNat t + (x - y).natAbs)

/-- ISAD (07 R147). -/
def execIsad (h : Hd) (f : VF) (s : State) : Host.Outcome State Fault Refusal := vecOp (.isad h f) h (sadOp f) s
/-- AND (07 R147). -/
def execIand (h : Hd) (f : VF) (s : State) : Host.Outcome State Fault Refusal :=
  vecOp (.iand h f) h (bit2 f (fun x y => x &&& y)) s
/-- OR (07 R147). -/
def execIor (h : Hd) (f : VF) (s : State) : Host.Outcome State Fault Refusal :=
  vecOp (.ior h f) h (bit2 f (fun x y => x ||| y)) s
/-- XOR (07 R147). -/
def execIxor (h : Hd) (f : VF) (s : State) : Host.Outcome State Fault Refusal :=
  vecOp (.ixor h f) h (bit2 f (fun x y => x ^^^ y)) s
/-- ANDN (07 R147). -/
def execAndn (h : Hd) (f : VF) (s : State) : Host.Outcome State Fault Refusal :=
  vecOp (.andn h f) h (bit2 f (fun x y => x &&& (2 ^ 64 - 1 - y))) s
/-- NOT (07 R147). -/
def execInot (h : Hd) (f : VF) (s : State) : Host.Outcome State Fault Refusal :=
  vecOp (.inot h f) h (bit1 f (fun x => 2 ^ 64 - 1 - x)) s

/-- A left shift; nothing is left from the width up (07 R147). -/
def shlBits (n x a : Nat) : Nat := if n ≤ a then 0 else x * 2 ^ a
/-- A right shift with zeros (07 R147). -/
def shrBits (n x a : Nat) : Nat := if n ≤ a then 0 else x / 2 ^ a
/-- A right shift with the sign (07 R147). -/
def sarBits (n x a : Nat) : Nat := wrapNat n (sInt n x / 2 ^ min a n)

/-- SHL (07 R147). -/
def execShl (h : Hd) (f : VF) (s : State) : Host.Outcome State Fault Refusal :=
  vecOp (.shl h f) h (bitSh f (shlBits f.t.bits)) s
/-- SHR (07 R147). -/
def execShr (h : Hd) (f : VF) (s : State) : Host.Outcome State Fault Refusal :=
  vecOp (.shr h f) h (bitSh f (shrBits f.t.bits)) s
/-- SAR (07 R147). -/
def execSar (h : Hd) (f : VF) (s : State) : Host.Outcome State Fault Refusal :=
  vecOp (.sar h f) h (bitSh f (sarBits f.t.bits)) s
/-- ROT (07 R147). -/
def execRot (h : Hd) (f : VF) (s : State) : Host.Outcome State Fault Refusal :=
  vecOp (.rot h f) h (bitSh f (fun x a => x * 2 ^ (a % f.t.bits) + x / 2 ^ (f.t.bits - a % f.t.bits))) s

/-- Bits [63:32] of x and y joined and shifted left by d modulo 32 (07 R147). -/
def shldOp (f : VF) (s : State) (g : Group) (t : Nat) : ThreadOut :=
  let x := (readV s g f.a.toNat t).toNat
  let y := (readV s g f.b.toNat t).toNat
  outW (hold1 f.d.toNat ((x * 2 ^ 32 + y) * 2 ^ ((readV s g f.d.toNat t).toNat % 32) / 2 ^ 32)) 0

/-- SHLD (07 R147). -/
def execShld (h : Hd) (f : VF) (s : State) : Host.Outcome State Fault Refusal := vecOp (.shld h f) h (shldOp f) s

/-- The field of x at pos = a[7:0] of len = a[15:8] bits, extended by the type (07 R150). -/
def bfxOp (f : VF) (s : State) (g : Group) (t : Nat) : ThreadOut :=
  let n := f.t.bits
  let x := readT s g f.t f.a.toNat t
  let a := (readV s g f.b.toNat t).toNat
  let pos := a % 256
  let len := a / 256 % 256
  let m := min (pos + len) n - pos
  let v : Int := if len = 0 ∨ n ≤ pos then 0 else if f.t.signed then sInt m (x / 2 ^ pos) else (x / 2 ^ pos % 2 ^ m : Nat)
  outW (holdI f.t f.d.toNat v) 0

/-- BFX (07 R150). -/
def execBfx (h : Hd) (f : VF) (s : State) : Host.Outcome State Fault Refusal := vecOp (.bfx h f) h (bfxOp f) s

/-- d with the field at pos replaced by the low bits of x (07 R150). -/
def bfiOp (f : VF) (s : State) (g : Group) (t : Nat) : ThreadOut :=
  let n := f.t.bits
  let x := readT s g f.t f.a.toNat t
  let d := readT s g f.t f.d.toNat t
  let a := (readV s g f.b.toNat t).toNat
  let pos := a % 256
  let m := min (pos + a / 256 % 256) n - pos
  let v := if n ≤ pos then d else d - bits d pos m * 2 ^ pos + x % 2 ^ m * 2 ^ pos
  outW (holdW f.t f.d.toNat v) 0

/-- BFI (07 R150). -/
def execBfi (h : Hd) (f : VF) (s : State) : Host.Outcome State Fault Refusal := vecOp (.bfi h f) h (bfiOp f) s

/-- The number of 1 bits among the low n. -/
def popCount : Nat → Nat → Nat
  | 0, _ => 0
  | n + 1, x => x % 2 + popCount n (x / 2)
/-- The zeros below the lowest 1 bit, n for zero. -/
def trailZeros : Nat → Nat → Nat
  | 0, _ => 0
  | n + 1, x => if x % 2 = 1 then 0 else 1 + trailZeros n (x / 2)
/-- The low n bits in reverse. -/
def revBits : Nat → Nat → Nat
  | 0, _ => 0
  | n + 1, x => x % 2 * 2 ^ n + revBits n (x / 2)
/-- The zeros above the highest 1 bit, n for zero. -/
def leadZeros (n x : Nat) : Nat := if x = 0 then n else n - 1 - x.log2

/-- POPC (07 R147). -/
def execPopc (h : Hd) (f : VF) (s : State) : Host.Outcome State Fault Refusal :=
  vecOp (.popc h f) h (count1 f (popCount f.t.bits)) s
/-- CLZ (07 R147). -/
def execClz (h : Hd) (f : VF) (s : State) : Host.Outcome State Fault Refusal :=
  vecOp (.clz h f) h (count1 f (leadZeros f.t.bits)) s
/-- CTZ (07 R147). -/
def execCtz (h : Hd) (f : VF) (s : State) : Host.Outcome State Fault Refusal :=
  vecOp (.ctz h f) h (count1 f (trailZeros f.t.bits)) s
/-- BREV (07 R147). -/
def execBrev (h : Hd) (f : VF) (s : State) : Host.Outcome State Fault Refusal :=
  vecOp (.brev h f) h (bit1 f (revBits f.t.bits)) s

/-- Byte i of the permutation: the selector picks one of eight bytes, or its sign (07 R151). -/
def permByte (x y d i : Nat) : Nat :=
  let b := (y * 2 ^ 32 + x) / 2 ^ (8 * (d / 2 ^ (4 * i) % 8)) % 256
  if d / 2 ^ (4 * i + 3) % 2 = 1 then (if 128 ≤ b then 255 else 0) else b

/-- PERMB of one thread (07 R151). -/
def permOp (f : VF) (s : State) (g : Group) (t : Nat) : ThreadOut :=
  let x := (readV s g f.a.toNat t).toNat
  let y := (readV s g f.b.toNat t).toNat
  let d := (readV s g f.d.toNat t).toNat
  outW (hold1 f.d.toNat (permByte x y d 0 + 2 ^ 8 * permByte x y d 1 + 2 ^ 16 * permByte x y d 2 + 2 ^ 24 * permByte x y d 3)) 0

/-- PERMB (07 R151). -/
def execPermb (h : Hd) (f : VF) (s : State) : Host.Outcome State Fault Refusal := vecOp (.permb h f) h (permOp f) s

/-- x where the predicate, negated by SUB[3], holds, else y (07 R147). -/
def selOp (f : VF) (s : State) (g : Group) (t : Nat) : ThreadOut :=
  let c := (predMask g (f.sub.toNat % 8)).getLsbD t != f.sub.getLsbD 3
  outW (holdW f.t f.d.toNat (readT s g f.t (if c then f.a else f.b).toNat t)) 0

/-- SEL (07 R147). -/
def execSel (h : Hd) (f : VF) (s : State) : Host.Outcome State Fault Refusal := vecOp (.sel h f) h (selOp f) s
/-- MOV (07 R147). -/
def execMov (h : Hd) (f : VF) (s : State) : Host.Outcome State Fault Refusal := vecOp (.mov h f) h (bit1 f (fun x => x)) s

/-- The relation of x and y into a predicate bit (07 R152). -/
def icmpOp (f : VF) (s : State) (g : Group) (t : Nat) : ThreadOut :=
  outP f.d.toNat (intRel f.sub.toNat (readI s g f.t f.a.toNat t) (readI s g f.t f.b.toNat t)) 0

/-- ICMP (07 R152). -/
def execIcmp (h : Hd) (f : VF) (s : State) : Host.Outcome State Fault Refusal := vecOp (.icmp h f) h (icmpOp f) s
/-- IADDS (07 R147). -/
def execIadds (h : Hd) (f : VF) (s : State) : Host.Outcome State Fault Refusal :=
  vecOp (.iadds h f) h (int2 f (fun x y => x + y * 2 ^ f.sub.toNat)) s

/-- A 32-bit operation on the register and the immediate as u32 (07 R153). -/
def immOp (f : IF) (op : W32 → W32 → W32) (s : State) (g : Group) (t : Nat) : ThreadOut :=
  outW [(f.d.toNat, op (readV s g f.a.toNat t) (f.imm.signExtend 32))] 0

/-- IADDI (07 R153). -/
def execIaddi (h : Hd) (f : IF) (s : State) : Host.Outcome State Fault Refusal :=
  vecOp (.iaddi h f) h (immOp f (fun x k => x + k)) s
/-- ANDI (07 R153). -/
def execAndi (h : Hd) (f : IF) (s : State) : Host.Outcome State Fault Refusal :=
  vecOp (.andi h f) h (immOp f (fun x k => x &&& k)) s
/-- ORI (07 R153). -/
def execOri (h : Hd) (f : IF) (s : State) : Host.Outcome State Fault Refusal :=
  vecOp (.ori h f) h (immOp f (fun x k => x ||| k)) s
/-- XORI (07 R153). -/
def execXori (h : Hd) (f : IF) (s : State) : Host.Outcome State Fault Refusal :=
  vecOp (.xori h f) h (immOp f (fun x k => x ^^^ k)) s
/-- SHLI (07 R153). -/
def execShli (h : Hd) (f : IF) (s : State) : Host.Outcome State Fault Refusal :=
  vecOp (.shli h f) h (immOp f (fun x _ => x <<< (f.imm.toNat % 32))) s
/-- SHRI (07 R153). -/
def execShri (h : Hd) (f : IF) (s : State) : Host.Outcome State Fault Refusal :=
  vecOp (.shri h f) h (immOp f (fun x _ => x >>> (f.imm.toNat % 32))) s
/-- SARI (07 R153). -/
def execSari (h : Hd) (f : IF) (s : State) : Host.Outcome State Fault Refusal :=
  vecOp (.sari h f) h (immOp f (fun x _ => x.sshiftRight (f.imm.toNat % 32))) s

/-- The relation of x and the 20-bit immediate, sign-extended, in the signedness of IMM24[23] (07 R153). -/
def icmpiOp (f : IF) (s : State) (g : Group) (t : Nat) : ThreadOut :=
  let k : W32 := (f.imm.extractLsb' 0 20).signExtend 32
  let x := readV s g f.a.toNat t
  let rel := (f.imm.extractLsb' 20 3).toNat
  outP f.d.toNat (if f.imm.getLsbD 23 then intRel rel x.toNat k.toNat else intRel rel x.toInt k.toInt) 0

/-- ICMPI (07 R153). -/
def execIcmpi (h : Hd) (f : IF) (s : State) : Host.Outcome State Fault Refusal := vecOp (.icmpi h f) h (icmpiOp f) s
/-- MOVI (07 R154). -/
def execMovi (h : Hd) (f : WF) (s : State) : Host.Outcome State Fault Refusal :=
  vecOp (.movi h f) h (fun _ _ _ => outW [(f.d.toNat, f.imm)] 0) s
/-- MOVHI writes the register after D (07 R154). -/
def execMovhi (h : Hd) (f : WF) (s : State) : Host.Outcome State Fault Refusal :=
  vecOp (.movhi h f) h (fun _ _ _ => outW [(f.d.toNat + 1, f.imm)] 0) s

end Sys2Proof.Machine
end

