-- ==== Sys2Proof/Machine/Dispatch.lean ====
section
/-! DEFINITION. The dispatch of a step to its meaning: one arm for each constructor of Instr. -/

namespace Sys2Proof.Machine

/-- The outcome of an instruction or of a step of another agent. -/
def exec (i : Instr) (s : State) : Host.Outcome State Fault Refusal :=
  match i with
  | .iadd h f => Sys2Proof.Machine.execIadd h f s
  | .isub h f => Sys2Proof.Machine.execIsub h f s
  | .iaddc h f => Sys2Proof.Machine.execIaddc h f s
  | .isubb h f => Sys2Proof.Machine.execIsubb h f s
  | .imul h f => Sys2Proof.Machine.execImul h f s
  | .imulh h f => Sys2Proof.Machine.execImulh h f s
  | .imad h f => Sys2Proof.Machine.execImad h f s
  | .imadw h f => Sys2Proof.Machine.execImadw h f s
  | .idiv h f => Sys2Proof.Machine.execIdiv h f s
  | .irem h f => Sys2Proof.Machine.execIrem h f s
  | .ineg h f => Sys2Proof.Machine.execIneg h f s
  | .iabs h f => Sys2Proof.Machine.execIabs h f s
  | .imin h f => Sys2Proof.Machine.execImin h f s
  | .imax h f => Sys2Proof.Machine.execImax h f s
  | .iclamp h f => Sys2Proof.Machine.execIclamp h f s
  | .isad h f => Sys2Proof.Machine.execIsad h f s
  | .iand h f => Sys2Proof.Machine.execIand h f s
  | .ior h f => Sys2Proof.Machine.execIor h f s
  | .ixor h f => Sys2Proof.Machine.execIxor h f s
  | .andn h f => Sys2Proof.Machine.execAndn h f s
  | .inot h f => Sys2Proof.Machine.execInot h f s
  | .shl h f => Sys2Proof.Machine.execShl h f s
  | .shr h f => Sys2Proof.Machine.execShr h f s
  | .sar h f => Sys2Proof.Machine.execSar h f s
  | .rot h f => Sys2Proof.Machine.execRot h f s
  | .shld h f => Sys2Proof.Machine.execShld h f s
  | .bfx h f => Sys2Proof.Machine.execBfx h f s
  | .bfi h f => Sys2Proof.Machine.execBfi h f s
  | .popc h f => Sys2Proof.Machine.execPopc h f s
  | .clz h f => Sys2Proof.Machine.execClz h f s
  | .ctz h f => Sys2Proof.Machine.execCtz h f s
  | .brev h f => Sys2Proof.Machine.execBrev h f s
  | .permb h f => Sys2Proof.Machine.execPermb h f s
  | .sel h f => Sys2Proof.Machine.execSel h f s
  | .mov h f => Sys2Proof.Machine.execMov h f s
  | .icmp h f => Sys2Proof.Machine.execIcmp h f s
  | .iadds h f => Sys2Proof.Machine.execIadds h f s
  | .iaddi h f => Sys2Proof.Machine.execIaddi h f s
  | .andi h f => Sys2Proof.Machine.execAndi h f s
  | .ori h f => Sys2Proof.Machine.execOri h f s
  | .xori h f => Sys2Proof.Machine.execXori h f s
  | .shli h f => Sys2Proof.Machine.execShli h f s
  | .shri h f => Sys2Proof.Machine.execShri h f s
  | .sari h f => Sys2Proof.Machine.execSari h f s
  | .icmpi h f => Sys2Proof.Machine.execIcmpi h f s
  | .movi h f => Sys2Proof.Machine.execMovi h f s
  | .movhi h f => Sys2Proof.Machine.execMovhi h f s
  | .fadd h f => Sys2Proof.Machine.execFadd h f s
  | .fsub h f => Sys2Proof.Machine.execFsub h f s
  | .fmul h f => Sys2Proof.Machine.execFmul h f s
  | .ffma h f => Sys2Proof.Machine.execFfma h f s
  | .ffms h f => Sys2Proof.Machine.execFfms h f s
  | .fmin h f => Sys2Proof.Machine.execFmin h f s
  | .fmax h f => Sys2Proof.Machine.execFmax h f s
  | .fminn h f => Sys2Proof.Machine.execFminn h f s
  | .fmaxn h f => Sys2Proof.Machine.execFmaxn h f s
  | .fabs h f => Sys2Proof.Machine.execFabs h f s
  | .fneg h f => Sys2Proof.Machine.execFneg h f s
  | .fcpys h f => Sys2Proof.Machine.execFcpys h f s
  | .fcmp h f => Sys2Proof.Machine.execFcmp h f s
  | .fclass h f => Sys2Proof.Machine.execFclass h f s
  | .fdiv h f => Sys2Proof.Machine.execFdiv h f s
  | .fsqrt h f => Sys2Proof.Machine.execFsqrt h f s
  | .frcp h f => Sys2Proof.Machine.execFrcp h f s
  | .frsq h f => Sys2Proof.Machine.execFrsq h f s
  | .fexp2 h f => Sys2Proof.Machine.execFexp2 h f s
  | .flog2 h f => Sys2Proof.Machine.execFlog2 h f s
  | .fsin h f => Sys2Proof.Machine.execFsin h f s
  | .fcos h f => Sys2Proof.Machine.execFcos h f s
  | .ftanh h f => Sys2Proof.Machine.execFtanh h f s
  | .frnd h f => Sys2Proof.Machine.execFrnd h f s
  | .ffrc h f => Sys2Proof.Machine.execFfrc h f s
  | .fscl h f => Sys2Proof.Machine.execFscl h f s
  | .fexpn h f => Sys2Proof.Machine.execFexpn h f s
  | .hadd2 h f => Sys2Proof.Machine.execHadd2 h f s
  | .hmul2 h f => Sys2Proof.Machine.execHmul2 h f s
  | .hfma2 h f => Sys2Proof.Machine.execHfma2 h f s
  | .hmin2 h f => Sys2Proof.Machine.execHmin2 h f s
  | .hmax2 h f => Sys2Proof.Machine.execHmax2 h f s
  | .dot2h h f => Sys2Proof.Machine.execDot2h h f s
  | .dot4 h f => Sys2Proof.Machine.execDot4 h f s
  | .dot8 h f => Sys2Proof.Machine.execDot8 h f s
  | .cvtff h f => Sys2Proof.Machine.execCvtff h f s
  | .cvtfi h f => Sys2Proof.Machine.execCvtfi h f s
  | .cvtif h f => Sys2Proof.Machine.execCvtif h f s
  | .cvtii h f => Sys2Proof.Machine.execCvtii h f s
  | .pk2 h f => Sys2Proof.Machine.execPk2 h f s
  | .unpk2 h f => Sys2Proof.Machine.execUnpk2 h f s
  | .pk4i h f => Sys2Proof.Machine.execPk4i h f s
  | .unpk4i h f => Sys2Proof.Machine.execUnpk4i h f s
  | .shpack h f => Sys2Proof.Machine.execShpack h f s
  | .shunpk h f => Sys2Proof.Machine.execShunpk h f s
  | .shfl h f => Sys2Proof.Machine.execShfl h f s
  | .shflup h f => Sys2Proof.Machine.execShflup h f s
  | .shfldn h f => Sys2Proof.Machine.execShfldn h f s
  | .shflx h f => Sys2Proof.Machine.execShflx h f s
  | .bcast h f => Sys2Proof.Machine.execBcast h f s
  | .voteany h f => Sys2Proof.Machine.execVoteany h f s
  | .voteall h f => Sys2Proof.Machine.execVoteall h f s
  | .ballot h f => Sys2Proof.Machine.execBallot h f s
  | .matchx h f => Sys2Proof.Machine.execMatchx h f s
  | .mrank h f => Sys2Proof.Machine.execMrank h f s
  | .elect h f => Sys2Proof.Machine.execElect h f s
  | .redx h f => Sys2Proof.Machine.execRedx h f s
  | .scanx h f => Sys2Proof.Machine.execScanx h f s
  | .sadd h f => Sys2Proof.Machine.execSadd h f s
  | .ssub h f => Sys2Proof.Machine.execSsub h f s
  | .smul h f => Sys2Proof.Machine.execSmul h f s
  | .sand h f => Sys2Proof.Machine.execSand h f s
  | .sor h f => Sys2Proof.Machine.execSor h f s
  | .sxor h f => Sys2Proof.Machine.execSxor h f s
  | .sshl h f => Sys2Proof.Machine.execSshl h f s
  | .sshr h f => Sys2Proof.Machine.execSshr h f s
  | .scmp h f => Sys2Proof.Machine.execScmp h f s
  | .ssel h f => Sys2Proof.Machine.execSsel h f s
  | .smov h f => Sys2Proof.Machine.execSmov h f s
  | .smovi h f => Sys2Proof.Machine.execSmovi h f s
  | .saddi h f => Sys2Proof.Machine.execSaddi h f s
  | .rdfirst h f => Sys2Proof.Machine.execRdfirst h f s
  | .spopc h f => Sys2Proof.Machine.execSpopc h f s
  | .sctz h f => Sys2Proof.Machine.execSctz h f s
  | .aadd h f => Sys2Proof.Machine.execAadd h f s
  | .mset h f => Sys2Proof.Machine.execMset h f s
  | .bra h f => Sys2Proof.Machine.execBra h f s
  | .brx h f => Sys2Proof.Machine.execBrx h f s
  | .brd h f => Sys2Proof.Machine.execBrd h f s
  | .join h f => Sys2Proof.Machine.execJoin h f s
  | .call h f => Sys2Proof.Machine.execCall h f s
  | .ret h f => Sys2Proof.Machine.execRet h f s
  | .exit h f => Sys2Proof.Machine.execExit h f s
  | .nop h f => Sys2Proof.Machine.execNop h f s
  | .sleep h f => Sys2Proof.Machine.execSleep h f s
  | .yield h f => Sys2Proof.Machine.execYield h f s
  | .trap h f => Sys2Proof.Machine.execTrap h f s
  | .tfence h f => Sys2Proof.Machine.execTfence h f s
  | .bkpt h f => Sys2Proof.Machine.execBkpt h f s
  | .ld h f => Sys2Proof.Machine.execLd h f s
  | .st h f => Sys2Proof.Machine.execSt h f s
  | .lda h f => Sys2Proof.Machine.execLda h f s
  | .stl h f => Sys2Proof.Machine.execStl h f s
  | .ldu h f => Sys2Proof.Machine.execLdu h f s
  | .stu h f => Sys2Proof.Machine.execStu h f s
  | .ldnt h f => Sys2Proof.Machine.execLdnt h f s
  | .stnt h f => Sys2Proof.Machine.execStnt h f s
  | .atom h f => Sys2Proof.Machine.execAtom h f s
  | .red h f => Sys2Proof.Machine.execRed h f s
  | .atomf h f => Sys2Proof.Machine.execAtomf h f s
  | .cas h f => Sys2Proof.Machine.execCas h f s
  | .ored h f => Sys2Proof.Machine.execOred h f s
  | .sgath h f => Sys2Proof.Machine.execSgath h f s
  | .fence h f => Sys2Proof.Machine.execFence h f s
  | .ifence h f => Sys2Proof.Machine.execIfence h f s
  | .pref h f => Sys2Proof.Machine.execPref h f s
  | .resid h f => Sys2Proof.Machine.execResid h f s
  | .clean h f => Sys2Proof.Machine.execClean h f s
  | .inval h f => Sys2Proof.Machine.execInval h f s
  | .cpy h f => Sys2Proof.Machine.execCpy h f s
  | .cpym h f => Sys2Proof.Machine.execCpym h f s
  | .cpyg h f => Sys2Proof.Machine.execCpyg h f s
  | .stage h f => Sys2Proof.Machine.execStage h f s
  | .stageInc h f => Sys2Proof.Machine.execStageInc h f s
  | .tagall h f => Sys2Proof.Machine.execTagall h f s
  | .tagany h f => Sys2Proof.Machine.execTagany h f s
  | .tagff h f => Sys2Proof.Machine.execTagff h f s
  | .tagclr h f => Sys2Proof.Machine.execTagclr h f s
  | .tagrd h f => Sys2Proof.Machine.execTagrd h f s
  | .strmset h f => Sys2Proof.Machine.execStrmset h f s
  | .strmgo h f => Sys2Proof.Machine.execStrmgo h f s
  | .strmpop h f => Sys2Proof.Machine.execStrmpop h f s
  | .strmpsh h f => Sys2Proof.Machine.execStrmpsh h f s
  | .strmend h f => Sys2Proof.Machine.execStrmend h f s
  | .qpush h f => Sys2Proof.Machine.execQpush h f s
  | .qpushClose h f => Sys2Proof.Machine.execQpushClose h f s
  | .qpop h f => Sys2Proof.Machine.execQpop h f s
  | .qtry h f => Sys2Proof.Machine.execQtry h f s
  | .qstat h f => Sys2Proof.Machine.execQstat h f s
  | .glean h f => Sys2Proof.Machine.execGlean h f s
  | .gleanDone h f => Sys2Proof.Machine.execGleanDone h f s
  | .taskarm h f => Sys2Proof.Machine.execTaskarm h f s
  | .taskdec h f => Sys2Proof.Machine.execTaskdec h f s
  | .spawn h f => Sys2Proof.Machine.execSpawn h f s
  | .binfl h f => Sys2Proof.Machine.execBinfl h f s
  | .binflAll h f => Sys2Proof.Machine.execBinflAll h f s
  | .mreq h f => Sys2Proof.Machine.execMreq h f s
  | .reinget h f => Sys2Proof.Machine.execReinget h f s
  | .reinpass h f => Sys2Proof.Machine.execReinpass h f s
  | .reinrel h f => Sys2Proof.Machine.execReinrel h f s
  | .reinrelKeep h f => Sys2Proof.Machine.execReinrelKeep h f s
  | .hfeed h f => Sys2Proof.Machine.execHfeed h f s
  | .hdrain h f => Sys2Proof.Machine.execHdrain h f s
  | .mma h f => Sys2Proof.Machine.execMma h f s
  | .zzero h f => Sys2Proof.Machine.execZzero h f s
  | .zscale h f => Sys2Proof.Machine.execZscale h f s
  | .zadd h f => Sys2Proof.Machine.execZadd h f s
  | .zcvt h f => Sys2Proof.Machine.execZcvt h f s
  | .zld h f => Sys2Proof.Machine.execZld h f s
  | .zst h f => Sys2Proof.Machine.execZst h f s
  | .mwait h f => Sys2Proof.Machine.execMwait h f s
  | .mstat h f => Sys2Proof.Machine.execMstat h f s
  | .osbind h f => Sys2Proof.Machine.execOsbind h f s
  | .osflush h f => Sys2Proof.Machine.execOsflush h f s
  | .mreset h f => Sys2Proof.Machine.execMreset h f s
  | .treebind h f => Sys2Proof.Machine.execTreebind h f s
  | .desc h f => Sys2Proof.Machine.execDesc h f s
  | .dstep h f => Sys2Proof.Machine.execDstep h f s
  | .regrp h f => Sys2Proof.Machine.execRegrp h f s
  | .qrd h f => Sys2Proof.Machine.execQrd h f s
  | .qwr h f => Sys2Proof.Machine.execQwr h f s
  | .ascend h f => Sys2Proof.Machine.execAscend h f s
  | .naddr h f => Sys2Proof.Machine.execNaddr h f s
  | .bari h f => Sys2Proof.Machine.execBari h f s
  | .bara h f => Sys2Proof.Machine.execBara h f s
  | .barw h f => Sys2Proof.Machine.execBarw h f s
  | .barexp h f => Sys2Proof.Machine.execBarexp h f s
  | .barph h f => Sys2Proof.Machine.execBarph h f s
  | .barinv h f => Sys2Proof.Machine.execBarinv h f s
  | .gbar h f => Sys2Proof.Machine.execGbar h f s
  | .gbarInit h f => Sys2Proof.Machine.execGbarInit h f s
  | .gbarFini h f => Sys2Proof.Machine.execGbarFini h f s
  | .strag h f => Sys2Proof.Machine.execStrag h f s
  | .sread h f => Sys2Proof.Machine.execSread h f s
  | .swrite h f => Sys2Proof.Machine.execSwrite h f s
  | .rett h f => Sys2Proof.Machine.execRett h f s
  | .rettSkip h f => Sys2Proof.Machine.execRettSkip h f s
  | .rettExit h f => Sys2Proof.Machine.execRettExit h f s
  | .leave h f => Sys2Proof.Machine.execLeave h f s
  | .leaveRel h f => Sys2Proof.Machine.execLeaveRel h f s
  | .pwrq h f => Sys2Proof.Machine.execPwrq h f s
  | .halt h f => Sys2Proof.Machine.execHalt h f s
  | .haltResume h f => Sys2Proof.Machine.execHaltResume h f s
  | .dbgdrain h f => Sys2Proof.Machine.execDbgdrain h f s
  | .tlbinvVa h f => Sys2Proof.Machine.execTlbinvVa h f s
  | .tlbinvRange h f => Sys2Proof.Machine.execTlbinvRange h f s
  | .tlbinvCtx h f => Sys2Proof.Machine.execTlbinvCtx h f s
  | .tlbinvAll h f => Sys2Proof.Machine.execTlbinvAll h f s
  | .create ctx => Sys2Proof.Machine.execCreate ctx s
  | .start ctx => Sys2Proof.Machine.execStart ctx s
  | .suspend ctx => Sys2Proof.Machine.execSuspend ctx s
  | .resume ctx => Sys2Proof.Machine.execResume ctx s
  | .teardown ctx => Sys2Proof.Machine.execTeardown ctx s
  | .grant ctx => Sys2Proof.Machine.execGrant ctx s
  | .teardownComplete ctx => Sys2Proof.Machine.execTeardownComplete ctx s
  | .ldoor ctx n => Sys2Proof.Machine.execLdoor ctx n s
  | .evpendClear ctx ones => Sys2Proof.Machine.execEvpendClear ctx ones s
  | .registerWrite off val => Sys2Proof.Machine.execRegisterWrite off val s
  | .hostSlowWrite off bytes => Sys2Proof.Machine.execHostSlowWrite off bytes s
  | .hostSlowRead off len => Sys2Proof.Machine.execHostSlowRead off len s
  | .unsupportedRequest tag => Sys2Proof.Machine.execUnsupportedRequest tag s
  | .linktrain => Sys2Proof.Machine.execLinktrain s
  | .linkretrain => Sys2Proof.Machine.execLinkretrain s
  | .linkrel => Sys2Proof.Machine.execLinkrel s
  | .setfid => Sys2Proof.Machine.execSetfid s
  | .attest => Sys2Proof.Machine.execAttest s
  | .update => Sys2Proof.Machine.execUpdate s
  | .reset o => Sys2Proof.Machine.execReset o s
  | .powerOn o => Sys2Proof.Machine.execPowerOn o s
  | .startTimeout o => Sys2Proof.Machine.execStartTimeout o s
  | .launchPop ctx => Sys2Proof.Machine.execLaunchPop ctx s
  | .teamPlace launch => Sys2Proof.Machine.execTeamPlace launch s
  | .spanPlace launch => Sys2Proof.Machine.execSpanPlace launch s
  | .groupCreate gid => Sys2Proof.Machine.execGroupCreate gid s
  | .copyPlanIssue team => Sys2Proof.Machine.execCopyPlanIssue team s
  | .laneChoose lane => Sys2Proof.Machine.execLaneChoose lane s
  | .headerWaitMet gid => Sys2Proof.Machine.execHeaderWaitMet gid s
  | .regcacheFill gid reg => Sys2Proof.Machine.execRegcacheFill gid reg s
  | .bankReplay lane => Sys2Proof.Machine.execBankReplay lane s
  | .longLatencyResult gid key => Sys2Proof.Machine.execLongLatencyResult gid key s
  | .groupRetire gid => Sys2Proof.Machine.execGroupRetire gid s
  | .teamRetire team => Sys2Proof.Machine.execTeamRetire team s
  | .launchComplete launch => Sys2Proof.Machine.execLaunchComplete launch s
  | .coalesceWindowClose gid => Sys2Proof.Machine.execCoalesceWindowClose gid s
  | .storeArriveHome key => Sys2Proof.Machine.execStoreArriveHome key s
  | .wcbDrain line => Sys2Proof.Machine.execWcbDrain line s
  | .l1SectorExpire core sector => Sys2Proof.Machine.execL1SectorExpire core sector s
  | .sliceAtomic key => Sys2Proof.Machine.execSliceAtomic key s
  | .oredContribution key => Sys2Proof.Machine.execOredContribution key s
  | .uncorrectableError pa => Sys2Proof.Machine.execUncorrectableError pa s
  | .pageWalk core ctx va write => Sys2Proof.Machine.execPageWalk core ctx va write s
  | .tlbinvComplete gid => Sys2Proof.Machine.execTlbinvComplete gid s
  | .queueAccept gid => Sys2Proof.Machine.execQueueAccept gid s
  | .claimResult gid => Sys2Proof.Machine.execClaimResult gid s
  | .taskPush key => Sys2Proof.Machine.execTaskPush key s
  | .copyStart cluster => Sys2Proof.Machine.execCopyStart cluster s
  | .copyDelivery copy team => Sys2Proof.Machine.execCopyDelivery copy team s
  | .copyComplete copy => Sys2Proof.Machine.execCopyComplete copy s
  | .copyFail copy row cause => Sys2Proof.Machine.execCopyFail copy row cause s
  | .streamElement core slot => Sys2Proof.Machine.execStreamElement core slot s
  | .tileAcquire cluster entry => Sys2Proof.Machine.execTileAcquire cluster entry s
  | .reinGrant cluster => Sys2Proof.Machine.execReinGrant cluster s
  | .engineCommand cluster => Sys2Proof.Machine.execEngineCommand cluster s
  | .passStart cluster => Sys2Proof.Machine.execPassStart cluster s
  | .commandRetire cluster => Sys2Proof.Machine.execCommandRetire cluster s
  | .hfeedAppend gid => Sys2Proof.Machine.execHfeedAppend gid s
  | .ascendUpdate cluster => Sys2Proof.Machine.execAscendUpdate cluster s
  | .engineResetComplete cluster => Sys2Proof.Machine.execEngineResetComplete cluster s
  | .binTimerExpire cluster bin => Sys2Proof.Machine.execBinTimerExpire cluster bin s
  | .sleepWake gid => Sys2Proof.Machine.execSleepWake gid s
  | .budgetExhausted gid => Sys2Proof.Machine.execBudgetExhausted gid s
  | .trapEntry gid => Sys2Proof.Machine.execTrapEntry gid s
  | .notifyActivation ctx => Sys2Proof.Machine.execNotifyActivation ctx s
  | .gbarCombine key => Sys2Proof.Machine.execGbarCombine key s
  | .gbarArrival key => Sys2Proof.Machine.execGbarArrival key s
  | .slewAdmit => Sys2Proof.Machine.execSlewAdmit s
  | .preemptWaitExpire launch => Sys2Proof.Machine.execPreemptWaitExpire launch s
  | .groupSave gid => Sys2Proof.Machine.execGroupSave gid s
  | .ptoExpire team => Sys2Proof.Machine.execPtoExpire team s
  | .teamSave team => Sys2Proof.Machine.execTeamSave team s
  | .teamRestore team => Sys2Proof.Machine.execTeamRestore team s
  | .policyStep => Sys2Proof.Machine.execPolicyStep s
  | .voltageRampEnd cluster => Sys2Proof.Machine.execVoltageRampEnd cluster s
  | .frequencySwitchEnd cluster => Sys2Proof.Machine.execFrequencySwitchEnd cluster s
  | .leaveGrant cluster => Sys2Proof.Machine.execLeaveGrant cluster s
  | .droopDetect cluster => Sys2Proof.Machine.execDroopDetect cluster s
  | .droopEnd cluster => Sys2Proof.Machine.execDroopEnd cluster s
  | .linkLock link lanes peer peerLink => Sys2Proof.Machine.execLinkLock link lanes peer peerLink s
  | .linkTrainingTimeout link => Sys2Proof.Machine.execLinkTrainingTimeout link s
  | .linkLaneLoss link left => Sys2Proof.Machine.execLinkLaneLoss link left s
  | .linkPeerReset link => Sys2Proof.Machine.execLinkPeerReset link s
  | .linkReplayLimit link => Sys2Proof.Machine.execLinkReplayLimit link s
  | .flitReceive link seq crcOk payload => Sys2Proof.Machine.execFlitReceive link seq crcOk payload s
  | .flitNak link seq => Sys2Proof.Machine.execFlitNak link seq s
  | .flitAck link seq => Sys2Proof.Machine.execFlitAck link seq s
  | .undervolt pool mv => Sys2Proof.Machine.execUndervolt pool mv s
  | .regrpComplete gid => Sys2Proof.Machine.execRegrpComplete gid s

end Sys2Proof.Machine
end

