-- ==== Sys2Proof/Machine/Settle.lean ====
section
/-! DEFINITION. What follows from a step without a step of its own: the waits of parked groups that its events have ended
(06 R114), and the movements that no row of the table names. -/

namespace Sys2Proof.Machine

/-! ### Parked groups -/

/-- The end of TAGALL or TAGANY (09 R238, 04 R96). -/
def settleTags (s : State) (g : Group) (all ors : Bool) (m : W64) : Option State :=
  match teamOf s g.team with
  | none => none
  | some t =>
    let bad := t.tagbits &&& m &&& t.tagerr
    if !tagsMet t all m then none
    else if bad ≠ 0 then some (wakeTrap s g.id (copyFault t bad))
    else some (wake (if ors then orConv s g.team g.id m else s) g.id)

/-- The end of TAGFF in replay mode (09 R239, 04 R96). -/
def settleTagff (s : State) (g : Group) (k d : Nat) : Option State :=
  match teamOf s g.team with
  | none => none
  | some t => if t.tagbits.getLsbD k then some (wake (onGroup s g.id (fun g => writeScalar g d (tagffVal t k))) g.id) else none

/-- The end of TAGRD in replay mode (09 R239, 04 R96). -/
def settleTagrd (s : State) (g : Group) (m : W64) (err : Bool) (d : Nat) : Option State :=
  match teamOf s g.team with
  | none => none
  | some t =>
    if busyTags s g.team &&& m ≠ 0 then none
    else some (wake (onGroup s g.id (fun g => writeScalar g d (tagrdVal s t err))) g.id)

/-- A copy whose tag is free and for which the queue has room (09 R230, R231). -/
def settleCopy (s : State) (g : Group) (id : Nat) : Option State :=
  match copyOf s id with
  | none => some (wake s g.id)
  | some c => if mayTake s c then some (wake (takeTag s c) g.id) else none

/-- The end of FENCE (09 R219). -/
def settleFence (s : State) (g : Group) (acq rel : Bool) (scope : Nat) : Option State :=
  if if rel then releaseMet s g scope else loadsBack g then
    some (wake (if acq then acquireAt s g.core scope else s) g.id)
  else none

/-- The end of STRMEND (09 R241). -/
def settleStrmend (s : State) (g : Group) (slot : Nat) : Option State :=
  if strmEnds s g.core slot (slotOf s g.core slot) then some (wake (freeSlot s g.core slot) g.id) else none

/-- The end of GBAR (13 R324): the acquire at the record's scope, or the fault that came. -/
def settleGbar (s : State) (g : Group) (scope got : Nat) : Option State :=
  match got with
  | 0 => none
  | 1 => some (wake (acquireAt s g.core scope) g.id)
  | n => some (wakeTrap s g.id (barFault n))

/-- MREQ at a table that has a free entry again (10 R255, R267). -/
def settleMreq (s : State) (g : Group) (mask : BitVec 32) (heavy : Bool) : Option State :=
  let e := engOf s g.cluster
  if (entOf e g.team).isSome then some (wakeTrap s g.id (mxFault 2))
  else if (freeEnt e).isSome then some (wake (mreqPost s g mask heavy) g.id)
  else none

/-- Whether the team of a group is reset-pending (10 R265). -/
def resetPending (s : State) (g : Group) : Bool := ((teamOf s g.team).map (fun (t : Team) => t.resetPend)).getD false

/-- The end of REINGET (10 R265, R268). -/
def settleReinget (s : State) (g : Group) : Option State :=
  let e := engOf s g.cluster
  if holdsRein e g.team then some (wake s g.id)
  else if (entOf e g.team).isNone then some (wakeTrap s g.id (if resetPending s g then mxReset else mxFault 1))
  else none

/-- The end of REINREL (10 R255, R268). -/
def settleReinrel (s : State) (g : Group) : Option State :=
  if tilesQuiet s g.cluster g.team then some (wake (freeTeamEnt s g.cluster g.team) g.id) else none

/-- The end of MWAIT (10 R265, R274). -/
def settleMwait (s : State) (g : Group) : Option State :=
  if resetPending s g then some (wakeTrap (onGroup s g.id (fun g => { g with mwFault := none })) g.id mxReset)
  else if !mwaitMet s g then none
  else match mwaitEnd g with
    | (g, none) => some (wake (setGroup s g) g.id)
    | (g, some t) => some (wakeTrap (setGroup s g) g.id t)

/-- A command that has entered its queue, or was discarded with it, is no longer waited for. -/
def settleCommand (s : State) (g : Group) (id : Nat) : Option State :=
  if (engOf s g.cluster).pend.any (fun c => decide (c.key = id)) then none else some (wake s g.id)

/-- An access of a path-trace register that has taken effect is no longer waited for. -/
def settleQwr (s : State) (g : Group) (id : Nat) : Option State :=
  if (engOf s g.cluster).cmds.any (fun c => decide (c.key = id)) then none else some (wake s g.id)

/-- The end of the wait for a QPOP result (12 R306): the instruction runs. -/
def settleResult (s : State) (g : Group) (key : Nat) : Option State :=
  if g.ll.any (fun l => decide (l.key = key)) then none else some (setGroup s (atInstr g))

/-- What ends the wait of a parked group, where it has come (06 R114). The other waits end in steps of their own. -/
def settleParked (s : State) (g : Group) : Option State :=
  match g.park with
  | some (.tags all ors m) => settleTags s g all ors m
  | some (.tagff k d) => settleTagff s g k d
  | some (.tagrd m err d) => settleTagrd s g m err d
  | some (.copy id) => settleCopy s g id
  | some (.fence acq rel scope) => settleFence s g acq rel scope
  | some (.strmend slot) => settleStrmend s g slot
  | some (.strm slot push reg rest) => strmResume s g slot push reg rest
  | some (.spawn _ _ _ _) => spawnResume s g
  | some (.result key) => settleResult s g key
  | some (.gbar _ scope got) => settleGbar s g scope got
  | some (.mreq mask heavy) => settleMreq s g mask heavy
  | some .reinget => settleReinget s g
  | some .reinrel => settleReinrel s g
  | some (.command id) => settleCommand s g id
  | some (.qwr id) => settleQwr s g id
  | some (.treebind va) => settleTreebind s g va
  | some .mwait => settleMwait s g
  | some .leave => if hasLeave s g.cluster g.team then some (wake s g.id) else none
  | some (.halt core form) => haltEnd s g core form
  | _ => none

/-- What follows for a group: it stops with its halted core (16 R389), or its wait ends. Those of a context that is being torn
down do neither (04 R95), and in a frequency switch no wait ends (18 R414). -/
def settleGroup (s : State) (g : Group) : Option State :=
  if tearing s g.ctx then none
  else if (coreAt s g.core).halted && stillGoing g g.core then haltGroup s g
  else if awake g && !switchHolds s g then settleParked s g
  else none

/-! ### Other devices -/

/-- The line that a copy lacks. -/
def copyNeed (s : State) (c : Copy) : Option State :=
  match nextRecv s c with
  | none => none
  | some r =>
    if !mayRun s c then none
    else match (copyPlan s c r).2 with
      | some (_, .need dev line) => askLine s c.who c.launch c.core dev line
      | _ => none

/-- The line that the generator of a slot lacks. -/
def slotNeed (s : State) (core n : Nat) (x : Stream) : Option State :=
  if x.st ≠ .running ∨ strmStops x ∨ strmTotal x.recd ≤ x.moved then none
  else
    let w := strmWho s core n x.team
    let launch := (teamOf s x.team).bind (fun t => t.launch)
    let ask : Except CErr (List Byte) → Option State := fun r => match r with
      | .error (.need dev line) => askLine s w launch core dev line
      | _ => none
    match (strmAddr s core w x.recd x.moved).2 with
    | .error (.need dev line) => askLine s w launch core dev line
    | .error _ => none
    | .ok va => if strmScatters x.recd then none else ask (genRead s core w va (strmSize x.recd)).2

/-- The line that the first command of an engine lacks. -/
def cmdNeed (s : State) (cluster : Nat) : Option State :=
  match headCmd (engOf s cluster) with
  | none => none
  | some c =>
    let ask : Except CErr (List Byte) → Option State := fun r => match r with
      | .error (.need dev line) => askLine s (cmdWho c cluster) c.launch c.core dev line
      | _ => none
    let tree := fun (t : Tree) =>
      let n := 2 ^ t.depth - 1
      (ask (readBytes s (cmdWho c cluster) t.nodes (n * t.stride))).or (ask (readBytes s (cmdWho c cluster) t.bias (4 * n)))
    match c.kind with
    | .zld _ _ rows => rows.findSome? (fun ps => ask (readRow s c.key cluster ps))
    | .desc _ _ _ _ _ _ t => tree t
    | .dstep _ _ _ _ _ t => tree t
    | _ => none

/-- What goes over links: lost requests, queue requests and their answers, lines asked for (17 R402, R403, 12 R302). -/
def settleLinks (s : State) : Option State :=
  match s.remotes.find? (fun r => decide (r.link = noLink)) with
  | some r => some (loseRemote s r)
  | none =>
    (sendWaiting s).or <| (s.qreqs.findSome? (sendQueue s)).or <| (s.asks.findSome? (answerAsk s)).or <| (peerClaim s).or <|
      (tellPerformed s).or <| (sendOut s).or <| (serveInbox s).or <| (s.recs.findSome? (stragStep s)).or <|
      if !s.links.any Link.live then none
      else (s.copies.findSome? (copyNeed s)).or <|
        ((s.cores.zipIdx).findSome? (fun k => (k.1.streams.zipIdx).findSome? (fun x => slotNeed s k.2 x.2 x.1))).or <|
        (List.range s.clusters.length).findSome? (cmdNeed s)

/-! ### Engines, copies, teams and contexts -/

/-- What moves in a cluster: a command that waits for room enters (10 R254), stream data enters a pass (10 R248), a heavy
command asks for leave again (10 R259). -/
def settleCluster (s : State) (c : Nat) : Option State :=
  let e := engOf s c
  if e.cmds = [] ∧ e.pend = [] then none
  else (enterPend s c).or <| ((feedStep e).map (fun e' => onEng s c (fun _ => e'))).or (leaveAgain s c)

/-- A copy that has been granted the leave it waits for (09 R234, 18 R419). -/
def settleLeave (s : State) (c : Copy) : Option State :=
  if c.leaveWait && (clusterAt s c.cluster).leaves.contains (.copy c.id) then
    some (onCopy s c.id (fun c => { c with leaveWait := false }))
  else none

/-- What a DRAINING team gives back as it can: its entry (10 R255), its streams (09 R240). -/
def settleTeam (s : State) (t : Team) : Option State :=
  let c := t.core / 4
  if t.st ≠ .draining then none
  else if (entOf (engOf s c) t.id).isSome && tilesQuiet s c t.id then some (freeTeamEnt s c t.id)
  else t.cores.findSome? (fun k => (List.range 4).findSome? (fun n =>
    let x := slotOf s k n
    if x.st ≠ .free ∧ x.team = t.id ∧ x.ending ∧ strmEnds s k n x then some (freeSlot s k n) else none))

/-- A context whose suspension is complete (04 R93). -/
def settleCtx (s : State) (n : Nat) : Option State :=
  let s' := suspendDone s n
  let st := fun (s : State) => (s.contexts[n]?).map (fun (c : Context) => c.st)
  if st s = some .suspending ∧ st s' = some .suspended then some s' else none

/-! ### All of it -/

/-- A lane whose group has left it no longer waits for a bank (08 R180). -/
def settleReplay (s : State) : Option State :=
  ((s.cores.flatMap (fun c => c.replays)).find? (fun r =>
    !s.groups.any (fun g => decide (g.lane = r.lane) && decide (g.st = .running)))).map (fun r => dropReplays s r.lane)

/-- One thing that follows, where something does. Of several SPAWNs that wait for a bin in replay mode (06 R140) the group that was created
first takes the one that is freed, an order that the spec does not give (assumption 32). -/
def settleOne (s : State) : Option State :=
  (settleReplay s).or <|
  (s.groups.findSome? (settleGroup s)).or <| ((List.range s.clusters.length).findSome? (settleCluster s)).or <|
    (s.copies.findSome? (settleLeave s)).or <| (s.teams.findSome? (settleTeam s)).or <|
    ((List.range s.contexts.length).findSome? (settleCtx s)).or (settleLinks s)

/-- Everything that follows, one thing after another; the fuel bounds it. -/
def settleGo : Nat → State → State
  | 0, s => s
  | f + 1, s => match settleOne s with
    | none => s
    | some s' => settleGo f s'

/-- The state with everything that follows from it. What the fuel leaves over follows after the next step. -/
def settle (s : State) : State := settleGo (64 + 4 * s.groups.length) s

end Sys2Proof.Machine
end

