-- ==== Sys2Proof/Machine/Turns.lean ====
section
/-! DEFINITION. The model's schedule (assumptions 1 and 2): what a turn does, the advance of the clocks, the turns of a round,
and how a word comes to run. -/

namespace Sys2Proof.Machine

/-! ### Time -/

/-- The fabric cycles that some lane cycles of a cluster take (01 R23, 18 R416). -/
def fabricOf (s : State) (c lanes : Nat) : Nat :=
  let x := clusterAt s c
  let f := if x.droop then x.mhz / 2 else x.mhz
  if f = 0 then lanes else (2000 * lanes + f - 1) / f

/-- The counters of a cluster after some lane cycles (18 R412, 10 R275). -/
def countCycles (stall : Bool) (d : Nat) (x : Cluster) : Cluster :=
  { x with mxbusy := if passRuns x.eng then x.mxbusy + d else x.mxbusy,
           memstall := if stall then x.memstall + d else x.memstall,
           eng := passOn d x.eng }

/-- The groups that held their lanes idle in a turn, by the state before it, but for the lane whose turn it was (12 R310). -/
def idleGroups (s0 : State) (actor : Option Nat) : List Nat :=
  (s0.groups.filter (fun g => decide (some g.lane ≠ actor) && holdsIdle s0 g)).map (fun g => g.id)

/-- The state some fabric cycles later: the groups that held their lanes idle in the turn have held them for that long (12 R310), and
the counters of the clusters go on (18 R412), both by the state before the turn. -/
def advance (s0 : State) (actor : Option Nat) (n : Nat) (s : State) : State :=
  let s' := { s with fcycles := s.fcycles + n }
  let idle := idleGroups s0 actor
  { s' with
    groups := if idle = [] then s.groups else s.groups.map (fun g =>
      if g.st = .running ∧ idle.contains g.id then chargeLane s (cyclesOf s' g.cluster - cyclesOf s g.cluster) g else g),
    clusters := s.clusters.zipIdx.map (fun x =>
      let stall := clusterStalled s0 x.2
      if stall || passRuns x.1.eng then countCycles stall (cyclesOf s' x.2 - cyclesOf s x.2) x.1 else x.1) }

/-- The end of every turn: no group has its turn any more, the register caches hold what fits, time goes on, and what follows
from the turn happens. -/
def endTurn (s0 : State) (actor : Option Nat) (n : Nat) (s : State) : State :=
  settle (advance s0 actor n (fitCaches { s with cur := none }))

/-- The end of a turn in which the group of a lane held it without completing an instruction (12 R310). -/
def heldTurn (s0 : State) (lane : Nat) (s : State) : State :=
  endTurn s0 (some lane) 1 { s with groups := s.groups.map (fun g => if g.lane = lane ∧ g.st = .running then chargeLane s 1 g else g) }

/-! ### What a turn does -/

/-- How many instructions a group has issued. -/
def issuedOf (s : State) (gid : Nat) : Nat := ((groupOf s gid).map (fun (g : Group) => g.issued)).getD 0

/-- The state after an instruction of a group (18 R412, R417): where it has issued, its lane cycles are counted and pass. -/
def afterIssue (s0 : State) (gid lane : Nat) (i : Instr) (s : State) : State :=
  let c := lane / 64
  if issuedOf s gid = issuedOf s0 gid then heldTurn s0 lane s
  else
    let cost := ((groupOf s0 gid).map (fun g => costOf g i)).getD 1
    let s := onCluster s c (fun x => { x with lastIssue := cyclesOf s c, issue := x.issue + cost })
    endTurn s0 (some lane) (max 1 (fabricOf s c cost)) s

/-- The turn of a lane: an instruction runs by its meaning. -/
def laneDo (lane : Nat) (s : State) : Host.Outcome State Fault Refusal :=
  match laneTurn s lane with
  | .idle => .next s
  | .turn s' => .next (heldTurn s lane s')
  | .run s' gid i =>
    match exec i { s' with cur := some gid } with
    | .next t => .next (afterIssue s' gid lane i t)
    | .fault f => .fault f
    | .refused r => .refused r

/-- A step of the machine itself, by the meaning of its row. -/
def ownDo (o : Own) (s : State) : Host.Outcome State Fault Refusal :=
  match o with
  | .trapEntry gid => execTrapEntry gid s
  | .longLatencyResult gid key => execLongLatencyResult gid key s
  | .coalesceWindowClose gid => execCoalesceWindowClose gid s
  | .groupCreate gid => execGroupCreate gid s
  | .headerWaitMet gid => execHeaderWaitMet gid s
  | .groupSave gid => execGroupSave gid s
  | .groupRetire gid => execGroupRetire gid s
  | .claimResult gid => execClaimResult gid s
  | .sleepWake gid => execSleepWake gid s
  | .queueAccept gid => execQueueAccept gid s
  | .hfeedAppend gid => execHfeedAppend gid s
  | .regrpComplete gid => execRegrpComplete gid s
  | .tlbinvComplete gid => execTlbinvComplete gid s
  | .storeArriveHome key => execStoreArriveHome key s
  | .sliceAtomic key => execSliceAtomic key s
  | .oredContribution key => execOredContribution key s
  | .wcbDrain line => execWcbDrain line s
  | .taskPush key => execTaskPush key s
  | .gbarCombine key => execGbarCombine key s
  | .gbarArrival key => execGbarArrival key s
  | .copyStart cluster => execCopyStart cluster s
  | .copyDelivery copy team => execCopyDelivery copy team s
  | .copyFail copy row cause => execCopyFail copy row cause s
  | .copyComplete copy => execCopyComplete copy s
  | .copyPlanIssue team => execCopyPlanIssue team s
  | .ptoExpire team => execPtoExpire team s
  | .teamSave team => execTeamSave team s
  | .teamRestore team => execTeamRestore team s
  | .teamRetire team => execTeamRetire team s
  | .launchComplete launch => execLaunchComplete launch s
  | .teamPlace launch => execTeamPlace launch s
  | .spanPlace launch => execSpanPlace launch s
  | .preemptWaitExpire launch => execPreemptWaitExpire launch s
  | .launchPop ctx => execLaunchPop ctx s
  | .notifyActivation ctx => execNotifyActivation ctx s
  | .teardownComplete ctx => execTeardownComplete ctx s
  | .streamElement core slot => execStreamElement core slot s
  | .bankReplay lane => execBankReplay lane s
  | .l1SectorExpire core sector => execL1SectorExpire core sector s
  | .passStart cluster => execPassStart cluster s
  | .engineCommand cluster => execEngineCommand cluster s
  | .ascendUpdate cluster => execAscendUpdate cluster s
  | .commandRetire cluster => execCommandRetire cluster s
  | .tileAcquire cluster entry => execTileAcquire cluster entry s
  | .reinGrant cluster => execReinGrant cluster s
  | .engineResetComplete cluster => execEngineResetComplete cluster s
  | .binTimerExpire cluster bin => execBinTimerExpire cluster bin s
  | .leaveGrant cluster => execLeaveGrant cluster s
  | .voltageRampEnd cluster => execVoltageRampEnd cluster s
  | .frequencySwitchEnd cluster => execFrequencySwitchEnd cluster s
  | .linkTrainingTimeout link => execLinkTrainingTimeout link s
  | .linkReplayLimit link => execLinkReplayLimit link s
  | .policyStep => execPolicyStep s
  | .slewAdmit => execSlewAdmit s
  | .laneChoose lane => execLaneChoose lane s

/-- The fabric cycles that a step of the machine itself takes; the drop of a sector takes none. -/
def ownCycles : Own → Nat
  | .l1SectorExpire _ _ => 0
  | _ => 1

/-- A turn. One that cannot be taken now changes nothing. -/
def doTurn (t : Turn) (s : State) : Host.Outcome State Fault Refusal :=
  match t with
  | .tick n => .next (settle (advance s none n s))
  | .fifo gid => match fifoLeave s gid with
    | some s' => .next (endTurn s none 1 s')
    | none => .next s
  | .own o => match ownDo o { s with cur := none } with
    | .next s' => .next (endTurn s none (ownCycles o) s')
    | .fault _ => .next s
    | .refused r => .refused r
  | .act i => match exec i { s with cur := none } with
    | .next s' => .next (endTurn s none 1 s')
    | .fault _ => .next s
    | .refused r => .refused r
  | .lane l => laneDo l s

/-! ### The turns of a round -/

/-- The steps that concern one group. -/
def groupTurns (g : Group) : List Turn :=
  let acts : List Own :=
    (if g.pendTrap.isSome then [.trapEntry g.id] else []) ++
    (g.ll.map (fun l => .longLatencyResult g.id l.key)) ++
    (match g.st with
      | .pending => [.groupCreate g.id]
      | .waiting => [.headerWaitMet g.id, .groupSave g.id]
      | .retiring => [.groupRetire g.id]
      | .saved => [.queueAccept g.id, .claimResult g.id]
      | .parked => match g.park with
        | some (.sleep _) => [.sleepWake g.id]
        | some .queue => [.queueAccept g.id, .claimResult g.id]
        | some (.hfeed _ _ _) => [.hfeedAppend g.id]
        | some (.regrp _ _ _ _) => [.regrpComplete g.id]
        | some (.tlbinv _ _ _ _) => [.tlbinvComplete g.id]
        | _ => [.claimResult g.id]
      | _ => [.claimResult g.id]) ++
    (if g.fullSave then [.groupSave g.id] else [])
  acts.map Turn.own

/-- The arrival of a request. -/
def reqTurn (r : Req) : Turn :=
  .own (match r.kind with
    | .rmw _ _ _ _ _ => .sliceAtomic r.key
    | .ored _ _ _ _ _ => .oredContribution r.key
    | _ => .storeArriveHome r.key)

/-- The steps of one copy: its delivery, its failure, its end. -/
def copyTurns (s : State) (c : Copy) : List Turn :=
  if !c.queued then []
  else if !c.started then [.own (.copyStart c.cluster)]
  else match nextRecv s c with
    | none => [.own (.copyComplete c.id)]
    | some r =>
      let bad := match (copyPlan s c r).2 with
        | some (row, .fault cause _ _ _) => [Turn.own (.copyFail c.id row cause)]
        | _ => []
      .own (.copyDelivery c.id r) :: bad

/-- The steps of one team. -/
def teamTurns (t : Team) : List Turn :=
  ([.copyPlanIssue t.id] ++ (match t.st with
    | .resident => if t.preq.isSome then [.ptoExpire t.id, .teamSave t.id] else []
    | .draining => [.teamRetire t.id]
    | _ => []) : List Own).map Turn.own

/-- The steps of one launch. -/
def launchTurns (l : Launch) : List Turn :=
  ([.launchComplete l.id, .preemptWaitExpire l.id] : List Own).map Turn.own

/-- The placing and restoring of teams, those of the contexts of higher priority first (05 R111, 16 R383). -/
def placeTurns (s : State) : List Turn :=
  let back := (s.teams.filter (fun t => decide (t.st = .saved))).map (fun t => (ctxPrio s t.ctx, Own.teamRestore t.id))
  let new := (s.launches.filter (fun l => decide (l.st = .placing))).map (fun l =>
    (ctxPrio s l.ctx, if l.recd.span = 0 then Own.teamPlace l.id else .spanPlace l.id))
  (sortBy (fun (a b : Nat × Own) => decide (b.1 ≤ a.1)) (back ++ new)).map (fun x => .own x.2)

/-- The steps of one context. -/
def ctxTurns (n : Nat) (c : Context) : List Turn :=
  match c.st with
  | .free => []
  | .tearing => [.own (.teardownComplete n)]
  | _ => [.own (.launchPop n), .own (.notifyActivation n)]

/-- The steps of one core: its generators, its banks, and the sectors of its L1, which the schedule drops at every round (14 R339
lets a sector be dropped at any time; assumption 2). -/
def coreTurns (n : Nat) (c : Core) : List Turn :=
  (c.streams.zipIdx.filter (fun x => decide (x.1.st = .running))).map (fun x => .own (.streamElement n x.2)) ++
    c.replays.map (fun r => .own (.bankReplay r.lane)) ++
    c.l1.map (fun x => .own (.l1SectorExpire n x.1))

/-- The steps of one cluster. -/
def clusterTurns (n : Nat) (x : Cluster) : List Turn :=
  ((if x.eng.cmds = [] then [] else [.passStart n, .engineCommand n, .ascendUpdate n, .commandRetire n]) ++
    (x.eng.ents.map (fun e => .tileAcquire n e.idx)) ++ (if x.eng.ents = [] then [] else [.reinGrant n]) ++
    x.bins.map (fun b => .binTimerExpire n b.num) ++ (if x.leaveQ = [] then [] else [.leaveGrant n]) ++
    (match x.change with
      | some _ => [.voltageRampEnd n, .frequencySwitchEnd n]
      | none => []) : List Own).map Turn.own

/-- The engines whose reset a group waits for (10 R277). -/
def resetTurns (s : State) : List Turn :=
  s.groups.filterMap (fun g => match g.park with
    | some (.mreset c) => some (.own (.engineResetComplete c))
    | _ => none)

/-- The links whose training has lasted too long, or that have replayed too often (17 R400). -/
def linkTurns (s : State) : List Turn :=
  s.links.zipIdx.flatMap (fun x =>
    (if x.1.st = 1 ∧ x.1.trainAt + trainCycles ≤ s.fcycles then [Turn.own (.linkTrainingTimeout x.2)] else []) ++
    (if x.1.replayAt = [] then [] else [Turn.own (.linkReplayLimit x.2)]))

/-- The lanes that choose, and the lanes that hold a group. -/
def laneTurns (s : State) : List Turn :=
  let at_ := fun (st : GSt) => ((s.groups.filter (fun g => decide (g.st = st))).map (fun g => g.lane)).eraseDups
  (at_ .ready).map (fun l => .own (.laneChoose l)) ++ (at_ .running).map Turn.lane

/-- The steps of stores on their way: a window closed, a request out of its FIFO, an arrival. -/
def storeTurns (s : State) : List Turn :=
  s.groups.flatMap (fun g => (if g.coal ≠ [] then [.own (.coalesceWindowClose g.id)] else []) ++
    (if g.fifo ≠ [] then [.fifo g.id] else [])) ++ s.flight.map reqTurn

/-- The turns that a round asks about, the lanes last. -/
def asked (s : State) : List Turn :=
  s.groups.flatMap groupTurns ++
    (s.wcbs.filter (fun w => decide (w.at_ + 512 ≤ s.fcycles))).map (fun w => .own (.wcbDrain w.line)) ++
    s.copies.flatMap (copyTurns s) ++ s.fired.map (fun f => .own (.taskPush f.key)) ++
    s.gmsgs.map (fun m => .own (if m.node then .gbarArrival m.key else .gbarCombine m.key)) ++ resetTurns s ++
    s.clusters.zipIdx.flatMap (fun x => clusterTurns x.2 x.1) ++ s.cores.zipIdx.flatMap (fun x => coreTurns x.2 x.1) ++
    s.launches.flatMap launchTurns ++ s.teams.flatMap teamTurns ++ placeTurns s ++ s.contexts.zipIdx.flatMap (fun x => ctxTurns x.2 x.1) ++
    linkTurns s ++ [.own .policyStep, .own .slewAdmit] ++ laneTurns s

/-- Whether a turn can be taken now. -/
def able (s : State) (t : Turn) : Bool :=
  match t with
  | .tick _ => true
  | .fifo gid => (fifoLeave s gid).isSome
  | .own o => match ownDo o { s with cur := none } with
    | .next _ => true
    | _ => false
  | .act _ => true
  | .lane l => match laneTurn s l with
    | .idle => false
    | _ => true

/-- The fabric cycle at which a cluster's lane clock reaches a value. -/
def cycleAt (s : State) (c till : Nat) : Nat := (clusterAt s c).cycF + fabricOf s c (till - (clusterAt s c).cyc0)

/-- The fabric cycles at which something may become due. -/
def deadlines (s : State) : List Nat :=
  s.policyAt ::
    (s.groups.filterMap (fun g => match g.park with
      | some (.sleep till) => some (cycleAt s g.cluster till)
      | _ => none)) ++
    (s.clusters.zipIdx.flatMap (fun x => x.1.bins.map (fun b => cycleAt s x.2 (b.start + b.timer)) ++
      (match x.1.change with
        | some y => [y.at_ + (if y.ramp then rampCycles y else 64)]
        | none => []))) ++
    (s.teams.filterMap (fun t => t.preq.map (fun t0 => t0 + ptoCycles s t.ctx))) ++
    (s.launches.map (fun l => l.waited + 20000)) ++ s.wcbs.map (fun w => w.at_ + 512) ++ s.slew.map (fun t => t + 64) ++
    (s.cores.flatMap (fun c => c.replays.map (fun _ => s.fcycles + 2))) ++ s.links.map (fun l => l.trainAt + trainCycles)

/-- How long nothing is due: at least one fabric cycle. -/
def quiet (s : State) : Nat := (((deadlines s).filter (fun t => decide (s.fcycles < t))).min?.getD (s.fcycles + 64)) - s.fcycles

/-- The turns of the next round: those of stores while one can be taken; else every other one that can be taken, or where there
is none, time until something is due. -/
def round (s : State) : List Turn :=
  match (storeTurns s).filter (able s) with
  | [] => match (asked s).filter (able s) with
    | [] => [.tick (quiet s)]
    | ts => ts
  | ts => ts

/-- A turn of the agenda, or where it is empty, the making of the next round. -/
def takeTurn (s : State) : Host.Outcome State Fault Refusal :=
  match s.agenda with
  | [] => .next { s with agenda := round s }
  | t :: rest => doTurn t { s with agenda := rest }

/-! ### A word that runs next -/

/-- The words of a clause with one instruction: its header, with every class named (03 R55). -/
def soloHeader : W64 := 0xD0FC000000000000

/-- The bytes that fetching needs: a page table that maps the first 512 MiB to themselves, readable, writable and executable,
with the accessed and dirty bits set (15 R357 to R361), and the clause. -/
def soloMem (m : Memory) (w : W64) : Memory :=
  let m := memPut m 0x10000 (natLE 8 0x20001)
  let m := memPut m 0x20000 (natLE 8 0x30001)
  let m := memPut m 0x30000 (natLE 8 0x7F)
  memPut m 0x40000 (natLE 8 soloHeader.toNat ++ natLE 8 w.toNat)

/-- The context, the launch, the team and the group that run it: on lane 0, before the first position of its clause, with the
lines of the registers that the instruction names (assumption 2). -/
def soloCtx : CRec :=
  { ptroot := 1, prio := 0, replay := false, priv := true, part := List.replicate 144 true, grant := 0x112C0960FF, nqueue := 16,
    rbase := 0x100000, rsize := 64, sbase := 0x800000, nslot := 64, lqd := 0x900000, fqd := 0x900040, nqd := 0x900080, nentry := 0x40000,
    pto := 0, nregs := 64 }
@[inherit_doc soloCtx] def soloRec : LRec :=
  { readRec (fun _ => 0) with entry := 0x40000, nregs := 2048, tags := 64, groups := 1, width := 64, scratch := 4, teams := 1 }
@[inherit_doc soloCtx] def soloLaunch (id : Nat) (now : Nat) : Launch := ⟨id, 0, 0, none, soloRec, .running, 1, none, 0, 0, 0, false, now, none, [], false, ⟨false, 0, 0⟩⟩
@[inherit_doc soloCtx] def soloGroup (s : State) (id launch team : Nat) (w : W64) : Group :=
  let g := freshGroup id 0 (some launch) team 0 64 2048 0 0x40000 0
  let g := { g with st := .running, atHdr := false, fresh := false, checked := true, clause := [soloHeader, w], frame := 0x200000 }
  match decodeWord w with
  | .ok i => { g with lines := (instrLines s g i).map (fun n => ⟨n, List.replicate 64 0, false, 0, .general⟩) }
  | .error _ => g

/-- The state in which the next step runs a word (assumption 2). -/
def placeWord (s : State) (w : W64) : State :=
  let l := s.nextId
  let t := freshTeam (l + 1) (soloLaunch l s.fcycles) 0 0 0x400000
  let g := soloGroup s (l + 2) l (l + 1) w
  { s with
    mem := soloMem s.mem w, nextId := l + 3, agenda := [.lane 0], cur := none, firm := { s.firm with mode := 1 },
    contexts := s.contexts.set 0 { Context.empty with st := .active, recd := some soloCtx, openQ := 3 },
    launches := s.launches ++ [soloLaunch l s.fcycles], teams := s.teams ++ [t],
    clusters := s.clusters.modify 0 (fun x => { x with lastIssue := cyclesOf s 0 }),
    groups := s.groups.filter (fun x => decide (x.lane ≠ 0)) ++ [g] }

end Sys2Proof.Machine
end

