-- ==== Sys2Proof/Machine/Step.lean ====
section
/-! DEFINITION. One step of the machine, and how a word comes to run in the next one. -/

namespace Sys2Proof.Machine

/-- One step: the next turn of the model's schedule (assumption 2). -/
def step (s : State) : Host.Outcome State Fault Refusal := takeTurn s

/-- The state in which the next step runs the instruction with these bits: it stands in memory, in a clause that lane 0 has
fetched for a running group of an active context (assumption 2). -/
def State.withFetchWord (s : State) (_nbits w : Nat) : State := placeWord s (BitVec.ofNat 64 w)

end Sys2Proof.Machine
end

