-- ==== Sys2Proof/Safety.lean ====
section
/-! DEFINITION. The terms in which the claims speak: a sound state, an instruction that has its turn, what it leaves as it was. -/

namespace Sys2Proof.Machine

/-- The parts of the state that exist once for each unit of the device have that many entries (01 R14, R16; 04 R79; 17 R398). -/
def State.shaped (s : State) : Bool :=
  decide (s.cores.length = 576) && decide (s.clusters.length = 144) && decide (s.contexts.length = 64) && decide (s.links.length = 16)

/-- Every memory of the state is in its canonical form. -/
def State.canon (s : State) : Bool := Memory.wf s.mem && s.teams.all (fun t => Memory.wf t.scratch)

/-- A step that goes on: the machine does not stop. -/
def State.goesOn (s : State) : Prop := ∃ t, step s = .next t

/-- A group that runs has the turn, and the word raises none of the faults that come before its own operation (03 R74). -/
def Runs (s : State) (g : Group) (i : Instr) : Prop :=
  s.cur = some g.id ∧ groupOf s g.id = some g ∧ g.st = .running ∧ preFault s g i = none

/-- The instruction answers a next state t, in which the group, now g', is as Q says. -/
def Answers (s : State) (g : Group) (i : Instr) (Q : State → Group → Prop) : Prop :=
  ∃ t g', exec i s = .next t ∧ groupOf t g.id = some g' ∧ Q t g'

/-- A group but for where its vector registers are held: the forwarding window and the register cache (06 R122, R126). -/
def Group.outside (g : Group) : Group := { g with win := [], lines := [] }

/-- No vector register reads otherwise but those whose words are listed, and those that the instruction kills (06 R127). -/
def Reads (s t : State) (g g' : Group) (i : Instr) (ws : Nat → List (Nat × W32)) : Prop :=
  ∀ n, n ∉ killed g i → readLine t g' n = mergeLine (readLine s g n) (ws n)

/-- Nothing of the machine changes but this group. -/
def OnlyGroup (s t : State) (g : Group) : Prop :=
  t = { s with groups := t.groups } ∧ ∀ k, k ≠ g.id → groupOf t k = groupOf s k

/-- The group gk with its instruction counted: the outstanding results but the new ones one instruction older (03 R66), one
instruction more issued; the counts of a budget (12 R310) are those of g'. -/
def Group.counted (gk g' : Group) (new : List Nat) : Group :=
  { gk with issued := gk.issued + 1, held := g'.held, left := g'.left,
            ll := gk.ll.map (fun (l : LL) => if new.contains l.key then l else { l with left := l.left - 1 }) }

/-- A group that an instruction leaves as gk, having set its position, is g', but for its window and cache. -/
def Counted (gk g' : Group) (new : List Nat) : Prop := g'.outside = (gk.counted g' new).outside

/-- A group that an instruction leaves as gk, and which goes on to its next position (03 R56), is g', but for its window and
cache. -/
def Completed (gk g' : Group) (new : List Nat) : Prop := Counted (nextPos gk) g' new

/-- An instruction that is done in a state s', where it leaves its group as gk: the group goes on to its next position, and
nothing else changes in s'. -/
def Does (i : Instr) (s s' : State) (g gk : Group) (new : List Nat) : Prop :=
  Answers s g i (fun t g' => Reads s' t g g' i (fun _ => []) ∧ Completed gk g' new ∧ OnlyGroup s' t g)

/-- The outstanding result that a group's instruction begins, under an identity that no other has. -/
def newKey (g : Group) (k : Nat) : List Nat := if g.ll.any (fun l => decide (l.key = k)) then [] else [k]

/-- An instruction whose result l is outstanding when the group goes on (03 R66), in a state s'. -/
def Begins (i : Instr) (s s' : State) (g : Group) (l : LL) : Prop := Does i s s' g { g with ll := g.ll ++ [l] } (newKey g l.key)

/-- An instruction that leaves its group as gk, at the position that gk has, in a state s'. -/
def Moves (i : Instr) (s s' : State) (g gk : Group) : Prop :=
  Answers s g i (fun t g' => Reads s' t g g' i (fun _ => []) ∧ Counted gk g' [] ∧ OnlyGroup s' t g)

/-- A group as an instruction's exception finds it: counted, where it goes on with the next instruction afterwards, so that this one has
been issued (04 R96, 16 R377). -/
def raising (i : Instr) (s : State) (g : Group) (c : TrapInfo) : Group :=
  if c.after then countInstr s g.handler g (costOf g i) [] else g

/-- An instruction that takes an exception in a state s' (16 R375). -/
def Traps (i : Instr) (s s' : State) (g : Group) (c : TrapInfo) : Prop := exec i s = .next (takeTrap s' (raising i s g c) c)

/-- The threads for which a memory instruction makes an access: the qualifying ones, under the U bit the lowest of them
(09 R204, R206). -/
def accessors (g : Group) (h : Hd) (one : Bool) : List Nat := if one then (threads (qualMask g h)).take 1 else threads (qualMask g h)

/-- Whether nothing holds a memory instruction back: no acquire is outstanding, none of its lane's accesses waits for its bank,
and its modulo register may be applied. -/
def MayAccess (s : State) (g : Group) (f : MF) (size : Nat) : Prop :=
  acqPending g = false ∧ replayOf s g.lane = none ∧ modOk g f size = true

/-- Whether nothing holds a load back: beside it, a result is free. -/
def MayLoad (s : State) (g : Group) (f : MF) : Prop := g.ll.length < 16 ∧ MayAccess s g f (szBytes f.sz)

/-- Whether nothing holds a store back: beside it, the windows of the group's earlier stores have left its lane. -/
def MayStore (s : State) (g : Group) (f : MF) (size : Nat) : Prop := g.coal = [] ∧ MayAccess s g f size

/-- The accesses of some threads in a scratchpad, each in its own lane cycle, where every one of them wins its banks (08 R179,
R180): the state after them; none where one loses. -/
def bankTurns (s : State) (g : Group) (team size : Nat) (isLoad : Bool) (off : Nat → Nat) : List Nat → Nat → Option State
  | [], _ => some s
  | t :: ts, i => match bankTurn s g team (off t) size isLoad i with
    | none => none
    | some s => bankTurns s g team size isLoad off ts (i + 1)

/-- Thread t's access names an aligned place inside the own scratchpad (08 R181, R182). -/
def InPad (team : Team) (size : Nat) (addr : W64) : Prop :=
  addr.toNat % 2 ^ 57 / 2 ^ 48 = 0x1F0 ∧ addr.toNat % 2 ^ 48 + size ≤ team.size ∧ addr.toNat % 2 ^ 48 % size = 0

/-- Thread t's access names an aligned translated address, which the leaf grants: the state after the translation, the place. -/
def AtPlace (s : State) (g : Group) (acc : Acc) (size : Nat) (addr : W64) (s1 : State) (ph : Phys) : Prop :=
  addr.toNat % 2 ^ 57 / 2 ^ 48 < 0x1F0 ∧ addr.toNat % 2 ^ 57 % size = 0 ∧
  translate { s with nextId := s.nextId + 1 } g.cluster (some g.core) g.ctx (addr.toNat % 2 ^ 57) acc = (s1, .ok ph)

/-- The bytes of a value at an address. -/
def cellsAt (pa size v : Nat) : List Host.Cell := (List.range size).map (fun j => (pa + j, (natLE size v).getD j 0))

/-- The words that evaluations give for a line, by thread. -/
def lineWords (g : Group) (os : List (Nat × ThreadOut)) (n : Nat) : List (Nat × W32) :=
  os.flatMap (fun o => (o.2.regs.filter (fun w => decide (lineNo g w.1 = n))).map (fun w => (o.1, w.2)))

/-- The bits that evaluations give for a predicate of a thread. -/
def predBits (os : List (Nat × ThreadOut)) (p t : Nat) : List Bool :=
  os.flatMap (fun o => if o.1 = t then (o.2.preds.filter (fun x => decide (x.1 = p))).map (fun x => x.2) else [])

/-- The predicates after evaluations: only the bits of their threads are written (07 R144), and p7 stays (03 R70). -/
def PredsWritten (g g' : Group) (os : List (Nat × ThreadOut)) : Prop :=
  ∀ p t, p < g.p.length → t < 64 → (predMask g' p).getLsbD t = ((if p < 7 then predBits os p t else []).getLast?).getD ((predMask g p).getLsbD t)

/-- What a vector instruction does whose threads evaluate to os: their words, predicates and flags are written, the group goes
on to its next position, and nothing else changes. -/
def VectorResult (s : State) (g : Group) (i : Instr) (os : List (Nat × ThreadOut)) (t : State) (g' : Group) : Prop :=
  Reads s t g g' i (lineWords g os) ∧ PredsWritten g g' os ∧
  Completed { g with p := g'.p, flags := g.flags ||| outFlags os } g' [] ∧
  OnlyGroup s t g

/-- A vector instruction of which each qualifying thread evaluates as E says of the state before it (03 R64, R65). -/
def VectorRule (i : Instr) (h : Hd) (E : State → Group → Nat → ThreadOut) : Prop :=
  ∀ s g, Runs s g i → Answers s g i (VectorResult s g i (evalThreads g h (E s g)))

/-- A group-wide instruction that leaves its group as R says, where its lowest active thread qualifies, and else as it was
(03 R64); nothing else changes. -/
def WideRule (i : Instr) (h : Hd) (R : State → Group → Group) : Prop :=
  ∀ s g, Runs s g i → Answers s g i (fun t g' =>
    Reads s t g g' i (fun _ => []) ∧ Completed (if wideActs g h then R s g else g) g' [] ∧ OnlyGroup s t g)

end Sys2Proof.Machine
end

