-- ==== Sys2Proof/Certificates/Slice0/Obligations.lean ====
section
/-! DEFINITION. The statements for the provers, from the numbered rules of the spec. -/

namespace Sys2Proof.Claims
open Sys2Proof.Machine

/-- The integer sources x, y and d of a thread. -/
def ix (s : State) (g : Group) (f : VF) (t : Nat) : Int := readI s g f.t f.a.toNat t
@[inherit_doc ix] def iy (s : State) (g : Group) (f : VF) (t : Nat) : Int := readI s g f.t f.b.toNat t
@[inherit_doc ix] def id_ (s : State) (g : Group) (f : VF) (t : Nat) : Int := readI s g f.t f.d.toNat t
/-- The raw bits of the sources x and y of a thread. -/
def bx (s : State) (g : Group) (f : VF) (t : Nat) : Nat := readT s g f.t f.a.toNat t
@[inherit_doc bx] def by_ (s : State) (g : Group) (f : VF) (t : Nat) : Nat := readT s g f.t f.b.toNat t
/-- One 32-bit register of a source as a number. -/
def wa (s : State) (g : Group) (f : VF) (t : Nat) : Nat := (readV s g f.a.toNat t).toNat
@[inherit_doc wa] def wb (s : State) (g : Group) (f : VF) (t : Nat) : Nat := (readV s g f.b.toNat t).toNat
@[inherit_doc wa] def wd (s : State) (g : Group) (f : VF) (t : Nat) : Nat := (readV s g f.d.toNat t).toNat

/-- An instruction that gives each thread the exact integer v in its type, saturated where SAT is set (02 R29, R31). -/
def IntRule (i : Hd → VF → Instr) (v : State → Group → VF → Nat → Int) : Prop :=
  ∀ h f, VectorRule (i h f) h (fun s g t => outI f.t f.sat f.d.toNat (v s g f t))

/-- An instruction that gives each thread the bits v in its type, and no flag. -/
def BitRule (i : Hd → VF → Instr) (v : State → Group → VF → Nat → Nat) : Prop :=
  ∀ h f, VectorRule (i h f) h (fun s g t => outW (holdW f.t f.d.toNat (v s g f t % 2 ^ f.t.bits)) 0)

/-- An instruction that gives each thread a number in one register, and no flag. -/
def WordRule (i : Hd → VF → Instr) (v : State → Group → VF → Nat → Nat) : Prop :=
  ∀ h f, VectorRule (i h f) h (fun s g t => outW (hold1 f.d.toNat (v s g f t)) 0)

/-- An instruction of format I that gives each thread a word from its register and the immediate extended by its sign. -/
def ImmRule (i : Hd → IF → Instr) (v : W32 → BitVec 24 → W32) : Prop :=
  ∀ h f, VectorRule (i h f) h (fun s g t => outW [(f.d.toNat, v (readV s g f.a.toNat t) f.imm)] 0)

end Sys2Proof.Claims

open Sys2Proof Sys2Proof.Machine Sys2Proof.Claims

/-- The integer instructions whose result is one exact integer in the type, wrapped or saturated (07 R147). -/
def Sys2Proof.Claims.IntegerArithmetic : Prop :=
  IntRule .iadd (fun s g f t => ix s g f t + iy s g f t) ∧ IntRule .isub (fun s g f t => ix s g f t - iy s g f t) ∧
  IntRule .imul (fun s g f t => ix s g f t * iy s g f t) ∧ IntRule .imulh (fun s g f t => ix s g f t * iy s g f t / 2 ^ f.t.bits) ∧
  IntRule .imad (fun s g f t => ix s g f t * iy s g f t + id_ s g f t) ∧ IntRule .ineg (fun s g f t => -ix s g f t) ∧
  IntRule .iabs (fun s g f t => (ix s g f t).natAbs) ∧ IntRule .imin (fun s g f t => min (ix s g f t) (iy s g f t)) ∧
  IntRule .imax (fun s g f t => max (ix s g f t) (iy s g f t)) ∧
  IntRule .iclamp (fun s g f t => min (max (id_ s g f t) (ix s g f t)) (iy s g f t)) ∧
  IntRule .iadds (fun s g f t => ix s g f t + iy s g f t * 2 ^ f.sub.toNat) ∧
  (∀ h f, VectorRule (.imadw h f) h (fun s g t =>
    outW (wordsFrom f.d.toNat 2 (wrapNat 64 (readVs s g f.d.toNat 2 t + ix s g f t * iy s g f t))) 0)) ∧
  (∀ h f, VectorRule (.isad h f) h (fun s g t =>
    outI .u32 f.sat f.d.toNat (readI s g .u32 f.d.toNat t + (ix s g f t - iy s g f t).natAbs)))

/-- Addition and subtraction with a carry in and out of one predicate, and division, where a divisor of zero gives all ones, or
leaves the dividend, and raises DZ (07 R148, R149). -/
def Sys2Proof.Claims.CarryAndDivision : Prop :=
  (∀ h f, VectorRule (.iaddc h f) h (fun s g t =>
    let r : Int := bx s g f t + by_ s g f t + (if (predMask g (f.sub.toNat % 8)).getLsbD t then 1 else 0)
    ⟨holdI f.t f.d.toNat r, [(f.sub.toNat % 8, decide (2 ^ f.t.bits ≤ r))], 0⟩)) ∧
  (∀ h f, VectorRule (.isubb h f) h (fun s g t =>
    let r : Int := bx s g f t - by_ s g f t - (if (predMask g (f.sub.toNat % 8)).getLsbD t then 1 else 0)
    ⟨holdI f.t f.d.toNat r, [(f.sub.toNat % 8, decide (r < 0))], 0⟩)) ∧
  (∀ h f, VectorRule (.idiv h f) h (fun s g t =>
    if iy s g f t = 0 then outW (holdI f.t f.d.toNat (-1)) flDZ else outI f.t f.sat f.d.toNat ((ix s g f t).tdiv (iy s g f t)))) ∧
  (∀ h f, VectorRule (.irem h f) h (fun s g t =>
    if iy s g f t = 0 then outW (holdI f.t f.d.toNat (ix s g f t)) flDZ
    else outW (holdI f.t f.d.toNat ((ix s g f t).tmod (iy s g f t))) 0))

/-- The instructions on bits: the logical ones, the shifts, whose amount is one register, the field moves, the counts and the
permutation of bytes (07 R147, R150, R151). -/
def Sys2Proof.Claims.BitInstructions : Prop :=
  BitRule .iand (fun s g f t => bx s g f t &&& by_ s g f t) ∧ BitRule .ior (fun s g f t => bx s g f t ||| by_ s g f t) ∧
  BitRule .ixor (fun s g f t => bx s g f t ^^^ by_ s g f t) ∧ BitRule .andn (fun s g f t => bx s g f t &&& (2 ^ 64 - 1 - by_ s g f t)) ∧
  BitRule .inot (fun s g f t => 2 ^ 64 - 1 - bx s g f t) ∧ BitRule .mov bx ∧
  BitRule .shl (fun s g f t => if f.t.bits ≤ wb s g f t then 0 else bx s g f t * 2 ^ wb s g f t) ∧
  BitRule .shr (fun s g f t => if f.t.bits ≤ wb s g f t then 0 else bx s g f t / 2 ^ wb s g f t) ∧
  BitRule .sar (fun s g f t => wrapNat f.t.bits (sInt f.t.bits (bx s g f t) / 2 ^ min (wb s g f t) f.t.bits)) ∧
  BitRule .rot (fun s g f t => bx s g f t * 2 ^ (wb s g f t % f.t.bits) + bx s g f t / 2 ^ (f.t.bits - wb s g f t % f.t.bits)) ∧
  BitRule .brev (fun s g f t => revBits f.t.bits (bx s g f t)) ∧
  WordRule .shld (fun s g f t => (wa s g f t * 2 ^ 32 + wb s g f t) * 2 ^ (wd s g f t % 32) / 2 ^ 32) ∧
  WordRule .popc (fun s g f t => popCount f.t.bits (bx s g f t)) ∧ WordRule .clz (fun s g f t => leadZeros f.t.bits (bx s g f t)) ∧
  WordRule .ctz (fun s g f t => trailZeros f.t.bits (bx s g f t)) ∧
  WordRule .permb (fun s g f t => permByte (wa s g f t) (wb s g f t) (wd s g f t) 0 + 2 ^ 8 * permByte (wa s g f t) (wb s g f t) (wd s g f t) 1 +
    2 ^ 16 * permByte (wa s g f t) (wb s g f t) (wd s g f t) 2 + 2 ^ 24 * permByte (wa s g f t) (wb s g f t) (wd s g f t) 3) ∧
  (∀ h f, VectorRule (.sel h f) h (fun s g t => outW (holdW f.t f.d.toNat
    (if (predMask g (f.sub.toNat % 8)).getLsbD t = f.sub.getLsbD 3 then by_ s g f t else bx s g f t)) 0)) ∧
  (∀ h f, VectorRule (.bfx h f) h (fun s g t =>
    let pos := wb s g f t % 256
    let len := wb s g f t / 256 % 256
    let m := min (pos + len) f.t.bits - pos
    outW (holdI f.t f.d.toNat (if len = 0 ∨ f.t.bits ≤ pos then 0
      else if f.t.signed then sInt m (bx s g f t / 2 ^ pos) else (bx s g f t / 2 ^ pos % 2 ^ m : Nat))) 0)) ∧
  (∀ h f, VectorRule (.bfi h f) h (fun s g t =>
    let pos := wb s g f t % 256
    let m := min (pos + wb s g f t / 256 % 256) f.t.bits - pos
    let d := readT s g f.t f.d.toNat t
    outW (holdW f.t f.d.toNat (if f.t.bits ≤ pos then d else d - bits d pos m * 2 ^ pos + bx s g f t % 2 ^ m * 2 ^ pos)) 0))

/-- The relations into a predicate, and the forms with an immediate (07 R152, R153, R154). -/
def Sys2Proof.Claims.ComparesAndImmediates : Prop :=
  (∀ h f, VectorRule (.icmp h f) h (fun s g t => outP f.d.toNat (intRel f.sub.toNat (ix s g f t) (iy s g f t)) 0)) ∧
  ImmRule .iaddi (fun x k => x + k.signExtend 32) ∧ ImmRule .andi (fun x k => x &&& k.signExtend 32) ∧
  ImmRule .ori (fun x k => x ||| k.signExtend 32) ∧ ImmRule .xori (fun x k => x ^^^ k.signExtend 32) ∧
  ImmRule .shli (fun x k => x <<< (k.toNat % 32)) ∧ ImmRule .shri (fun x k => x >>> (k.toNat % 32)) ∧
  ImmRule .sari (fun x k => x.sshiftRight (k.toNat % 32)) ∧
  (∀ h f, VectorRule (.icmpi h f) h (fun s g t =>
    let x := readV s g f.a.toNat t
    let k : W32 := (f.imm.extractLsb' 0 20).signExtend 32
    let rel := (f.imm.extractLsb' 20 3).toNat
    outP f.d.toNat (if f.imm.getLsbD 23 then intRel rel x.toNat k.toNat else intRel rel x.toInt k.toInt) 0)) ∧
  (∀ h f, VectorRule (.movi h f) h (fun _ _ _ => outW [(f.d.toNat, f.imm)] 0)) ∧
  (∀ h f, VectorRule (.movhi h f) h (fun _ _ _ => outW [(f.d.toNat + 1, f.imm)] 0))

namespace Sys2Proof.Claims
open Sys2Proof.Machine

/-- The floating-point sources x, y and d of a thread, read under the flush control (02 R36). -/
def fx (s : State) (g : Group) (f : VF) (t : Nat) : FVal := readF s g f.t f.a.toNat t
@[inherit_doc fx] def fy (s : State) (g : Group) (f : VF) (t : Nat) : FVal := readF s g f.t f.b.toNat t
@[inherit_doc fx] def fd (s : State) (g : Group) (f : VF) (t : Nat) : FVal := readF s g f.t f.d.toNat t

/-- An instruction that gives each thread a floating-point result of its type with its flags. -/
def FltRule (i : Hd → VF → Instr) (v : FFmt → RMode → State → Group → VF → Nat → Nat × Flags) : Prop :=
  ∀ h f, VectorRule (i h f) h (fun s g t => outF f.t f.d.toNat (v (fmtOf f.t) (modeOf g f f.t) s g f t))

/-- An instruction that gives each thread bits made of x and y by their sign bit, and no flag. -/
def SignRule (i : Hd → VF → Instr) (v : Nat → Nat → Nat → Nat) : Prop :=
  ∀ h f, VectorRule (i h f) h (fun s g t => outW (holdW f.t f.d.toNat (v (2 ^ (f.t.bits - 1)) (bx s g f t) (by_ s g f t))) 0)

/-- An instruction that gives each thread a packed pair, element by element. -/
def PairRule (i : Hd → VF → Instr) (v : FFmt → RMode → (BitVec 11 → FVal) → VF → Nat × Flags) : Prop :=
  ∀ h f, VectorRule (i h f) h (fun s g t =>
    let e := fun k => v (fmtOf f.t) (modeOf g f f.t) (fun r => readH s g f.t r.toNat t k) f
    outH f.d.toNat (e 0) (e 1))

end Sys2Proof.Claims

/-- The floating-point instructions that round, compare and take apart (07 R155, R156, R157). -/
def Sys2Proof.Claims.FloatArithmetic : Prop :=
  FltRule .fadd (fun m r s g f t => fAdd m r (fx s g f t) (fy s g f t)) ∧
  FltRule .fsub (fun m r s g f t => fAdd m r (fx s g f t) (fNegV (fy s g f t))) ∧
  FltRule .fmul (fun m r s g f t => fMul m r (fx s g f t) (fy s g f t)) ∧
  FltRule .ffma (fun m r s g f t => fFma m r (fx s g f t) (fy s g f t) (fd s g f t)) ∧
  FltRule .ffms (fun m r s g f t => fFma m r (fx s g f t) (fy s g f t) (fNegV (fd s g f t))) ∧
  FltRule .fmin (fun m r s g f t => fMinMax m r false false (fx s g f t) (fy s g f t)) ∧
  FltRule .fmax (fun m r s g f t => fMinMax m r true false (fx s g f t) (fy s g f t)) ∧
  FltRule .fminn (fun m r s g f t => fMinMax m r false true (fx s g f t) (fy s g f t)) ∧
  FltRule .fmaxn (fun m r s g f t => fMinMax m r true true (fx s g f t) (fy s g f t)) ∧
  SignRule .fabs (fun top x _ => x % top) ∧ SignRule .fneg (fun top x _ => (x + top) % (2 * top)) ∧
  SignRule .fcpys (fun top x y => x % top + y / top * top) ∧
  (∀ h f, VectorRule (.fcmp h f) h (fun s g t =>
    outP f.d.toNat (fRel f.sub.toNat (fx s g f t) (fy s g f t)).1 (fRel f.sub.toNat (fx s g f t) (fy s g f t)).2)) ∧
  WordRule .fclass (fun s g f t => fClass (fmtOf f.t) (bx s g f t)) ∧
  FltRule .frnd (fun m r s g f t => fRnd m r (f.sub.getLsbD 0) (fx s g f t)) ∧ FltRule .ffrc (fun m r s g f t => fFrac m r (fx s g f t)) ∧
  FltRule .fscl (fun m r s g f t => fScale m r (readV s g f.b.toNat t).toInt (fx s g f t)) ∧
  (∀ h f, VectorRule (.fexpn h f) h (fun s g t => outW (holdI .s32 f.d.toNat (fExpn (fx s g f t)).1) (fExpn (fx s g f t)).2))

/-- The packed instructions and the dot products (07 R158, R159). -/
def Sys2Proof.Claims.PackedAndDotProducts : Prop :=
  PairRule .hadd2 (fun m r e f => fAdd m r (e f.a) (e f.b)) ∧ PairRule .hmul2 (fun m r e f => fMul m r (e f.a) (e f.b)) ∧
  PairRule .hfma2 (fun m r e f => fFma m r (e f.a) (e f.b) (e f.d)) ∧
  PairRule .hmin2 (fun m r e f => fMinMax m r false false (e f.a) (e f.b)) ∧
  PairRule .hmax2 (fun m r e f => fMinMax m r true false (e f.a) (e f.b)) ∧
  (∀ h f, VectorRule (.dot2h h f) h (fun s g t =>
    let e := fun (r : BitVec 11) k => readH s g f.t r.toNat t k
    outF .f32 f.d.toNat (fDot2 fmtF32 (modeOf g f .f32) (readF s g .f32 f.d.toNat t) (e f.a 0) (e f.b 0) (e f.a 1) (e f.b 1)))) ∧
  (∀ h f, VectorRule (.dot4 h f) h (fun s g t => outI .s32 f.sat f.d.toNat ((readV s g f.d.toNat t).toInt +
    dotInt 8 f.t.signed (f.t.signed != f.sub.getLsbD 0) (wa s g f t) (wb s g f t) 4))) ∧
  (∀ h f, VectorRule (.dot8 h f) h (fun s g t => outI .s32 f.sat f.d.toNat ((readV s g f.d.toNat t).toInt +
    dotInt 4 true true (wa s g f t) (wb s g f t) 8)))

/-- The conversions, the packing of pairs and integers, and the sheaves (07 R160, R161, R495; 02 R40, R46). -/
def Obligations.Conversions : Prop :=
  (∀ h f, VectorRule (.cvtff h f) h (fun s g t =>
    outF f.t f.d.toNat (fPut (fmtOf f.t) (modeOf g f f.t) (readF s g (Ty.ofCode f.sub.toNat) f.a.toNat t)))) ∧
  (∀ h f, VectorRule (.cvtfi h f) h (fun s g t =>
    let r := fToInt f.rnd (intMin f.t) (intMax f.t) (readF s g (Ty.ofCode f.sub.toNat) f.a.toNat t)
    outW (holdI f.t f.d.toNat r.1) r.2)) ∧
  (∀ h f, VectorRule (.cvtif h f) h (fun s g t =>
    outF f.t f.d.toNat (fOfInt (fmtOf f.t) (modeOf g f f.t) (readI s g (Ty.ofCode f.sub.toNat) f.a.toNat t)))) ∧
  (∀ h f, VectorRule (.cvtii h f) h (fun s g t => outI f.t f.sat f.d.toNat (readI s g (Ty.ofCode f.sub.toNat) f.a.toNat t))) ∧
  (∀ h f, VectorRule (.pk2 h f) h (fun s g t =>
    let e := fun (r : BitVec 11) => fPut (fmtOf f.t) (modeOf g f f.t) (readF s g .f32 r.toNat t)
    outH f.d.toNat (e f.a) (e f.b))) ∧
  (∀ h f, VectorRule (.unpk2 h f) h (fun s g t =>
    let e := fun k => fPut fmtF32 (modeOf g f .f32) (readH s g f.t f.a.toNat t k)
    outW [(f.d.toNat, BitVec.ofNat 32 (e 0).1), (f.d.toNat + 1, BitVec.ofNat 32 (e 1).1)] ((e 0).2 ||| (e 1).2))) ∧
  (∀ h f, VectorRule (.pk4i h f) h (fun s g t =>
    let e := fun k => saturate f.t f.sat (readI s g (if f.t = .u8 then .u32 else .s32) (f.a.toNat + k) t)
    let ks := List.range (32 / f.t.bits)
    outW (hold1 f.d.toNat (ks.foldl (fun w k => w + wrapNat f.t.bits (e k).1 * 2 ^ (f.t.bits * k)) 0))
      (ks.foldl (fun fl k => fl ||| (e k).2) 0))) ∧
  (∀ h f, VectorRule (.unpk4i h f) h (fun s g t => outW ((List.range (32 / f.t.bits)).map (fun k =>
    (f.d.toNat + k, BitVec.ofInt 32 (intVal f.t (wa s g f t / 2 ^ (f.t.bits * k)))))) 0)) ∧
  (∀ h f, VectorRule (.shpack h f) h (fun s g t =>
    let r := shPack f.t ((List.range 32).map (fun k => fRead fmtF32 false (readV s g (f.a.toNat + k) t).toNat))
    outW (wordsFrom f.d.toNat ((shBytes f.t + 3) / 4) r.1) r.2)) ∧
  (∀ h f, VectorRule (.shunpk h f) h (fun s g t =>
    outW ((shUnpack f.t (readVs s g f.a.toNat ((shBytes f.t + 3) / 4) t)).zipIdx.map (fun p =>
      (f.d.toNat + p.2, BitVec.ofNat 32 (fPut fmtF32 ⟨.rne, false, false⟩ p.1).1))) 0))

namespace Sys2Proof.Claims
open Sys2Proof.Machine

/-- The value of A that thread j gives thread t: t's own where j is no active thread of the width (07 R162). -/
def from_ (s : State) (g : Group) (f : VF) (t : Nat) (j : Int) : Nat :=
  readT s g f.t f.a.toNat (if 0 ≤ j ∧ j < g.width ∧ g.active.getLsbD j.toNat then j.toNat else t)

/-- The qualifying threads whose bit of predicate A, inverted by SUB[0], is 1 (07 R163). -/
def votes (g : Group) (h : Hd) (f : VF) : List Nat :=
  (threads (qualMask g h)).filter (fun t => (predMask g f.a.toNat).getLsbD t != f.sub.getLsbD 0)

/-- The qualifying threads whose value of A is that of thread t (07 R163). -/
def peers (s : State) (g : Group) (h : Hd) (f : VF) (t : Nat) : List Nat :=
  (threads (qualMask g h)).filter (fun u => decide (bx s g f u = bx s g f t))

end Sys2Proof.Claims

/-- The shuffles, votes, ballots and matches (07 R162, R163). -/
def Sys2Proof.Claims.CrossThread : Prop :=
  (∀ h f, VectorRule (.shfl h f) h (fun s g t => outW (holdW f.t f.d.toNat (from_ s g f t (wb s g f t : Int))) 0)) ∧
  (∀ h f, VectorRule (.shflup h f) h (fun s g t => outW (holdW f.t f.d.toNat (from_ s g f t ((t : Int) - f.b.toNat))) 0)) ∧
  (∀ h f, VectorRule (.shfldn h f) h (fun s g t => outW (holdW f.t f.d.toNat (from_ s g f t ((t : Int) + f.b.toNat))) 0)) ∧
  (∀ h f, VectorRule (.shflx h f) h (fun s g t => outW (holdW f.t f.d.toNat (from_ s g f t ((t ^^^ f.b.toNat : Nat) : Int))) 0)) ∧
  (∀ h f, VectorRule (.bcast h f) h (fun s g _ => outW (holdW f.t f.d.toNat (bx s g f
    (if f.b.toNat < g.width ∧ g.active.getLsbD f.b.toNat then f.b.toNat else (lowest g.active).getD 0))) 0)) ∧
  (∀ h f, VectorRule (.voteany h f) h (fun _ g _ => outP f.d.toNat (decide (votes g h f ≠ [])) 0)) ∧
  (∀ h f, VectorRule (.voteall h f) h (fun _ g _ => outP f.d.toNat (decide (votes g h f = threads (qualMask g h))) 0)) ∧
  (∀ h f, VectorRule (.ballot h f) h (fun _ g _ => outW (wordsFrom f.d.toNat 2 (maskOf (votes g h f)).toNat) 0)) ∧
  (∀ h f, VectorRule (.matchx h f) h (fun s g t => outW (wordsFrom f.d.toNat 2 (maskOf (peers s g h f t)).toNat) 0)) ∧
  (∀ h f, VectorRule (.mrank h f) h (fun s g t => outW (holdW f.t f.d.toNat ((peers s g h f t).filter (fun u => decide (u < t))).length) 0)) ∧
  (∀ h f, VectorRule (.elect h f) h (fun _ g t => outP f.d.toNat (decide ((threads (qualMask g h)).head? = some t)) 0))

namespace Sys2Proof.Claims
open Sys2Proof.Machine

/-- The fold of the values of some threads, in order, from the identity of the operation, with the flags of its steps
(07 R164). -/
def folded (s : State) (g : Group) (f : VF) (ts : List Nat) : Nat × Flags :=
  ts.foldl (fun a u => ((foldStep f g a.1 (bx s g f u)).1, a.2 ||| (foldStep f g a.1 (bx s g f u)).2)) (foldId f.t (f.sub.toNat % 8), 0)

end Sys2Proof.Claims

/-- The reduction and the scan over the qualifying threads in ascending order (07 R164). -/
def Sys2Proof.Claims.ReductionAndScan : Prop :=
  (∀ h f, VectorRule (.redx h f) h (fun s g _ =>
    foldOut f (folded s g f (threads (qualMask g h))).1 (folded s g f (threads (qualMask g h))).2)) ∧
  (∀ h f, VectorRule (.scanx h f) h (fun s g t =>
    let before := (folded s g f ((threads (qualMask g h)).filter (fun u => decide (u < t)))).1
    let own := foldStep f g before (bx s g f t)
    foldOut f (if f.sub.getLsbD 3 then before else own.1) own.2))

namespace Sys2Proof.Claims
open Sys2Proof.Machine

/-- A vector instruction whose result is long-latency (03 R66): no qualifying thread gives none; with 16 outstanding it waits;
else the result of the evaluations is outstanding, to be written before LA more instructions have issued. -/
def LongLatencyRule (i : Hd → VF → Instr) (v : FFmt → RMode → State → Group → VF → Nat → Nat × Flags) : Prop :=
  ∀ s g h f, Runs s g (i h f) →
    let os := evalThreads g h (fun t => outF f.t f.d.toNat (v (fmtOf f.t) (modeOf g f f.t) s g f t))
    let l : LL := { key := s.nextId, left := h.la.toNat, need := 0, vregs := (List.range f.t.regs).map (fun k => lineNo g (f.d.toNat + k)),
                    sregs := [], pred := none, vec := os.flatMap (fun o => o.2.regs.map (fun w => (lineNo g w.1, o.1, w.2))),
                    scl := [], pval := false, flags := outFlags os,
                    uni := llUniform g (i h f) h, mask := g.active }
    (os = [] → Does (i h f) s s g g []) ∧
    (os ≠ [] → g.ll.length < 16 → Begins (i h f) s { s with nextId := s.nextId + 1 } g l) ∧
    (os ≠ [] → 16 ≤ g.ll.length → exec (i h f) s = .next s)

end Sys2Proof.Claims

/-- Division, the square root and the transcendental functions, whose results are long-latency (07 R155; 02 R42; 03 R66). -/
def Sys2Proof.Claims.LongLatencyFunctions : Prop :=
  LongLatencyRule .fdiv (fun m r s g f t => fDiv m r (fx s g f t) (fy s g f t)) ∧
  LongLatencyRule .fsqrt (fun m r s g f t => fSqrt m r (fx s g f t)) ∧
  LongLatencyRule .frcp (fun m r s g f t => fDiv m r (.fin false 1 0) (fx s g f t)) ∧
  LongLatencyRule .frsq (fun _ r s g f t => fRsq r.flush (fx s g f t)) ∧
  LongLatencyRule .fexp2 (fun _ r s g f t => fExp2 r.flush (fx s g f t)) ∧
  LongLatencyRule .flog2 (fun _ r s g f t => fLog2 r.flush (fx s g f t)) ∧
  LongLatencyRule .fsin (fun _ r s g f t => fSin r.flush (fx s g f t)) ∧
  LongLatencyRule .fcos (fun _ r s g f t => fCos r.flush (fx s g f t)) ∧
  LongLatencyRule .ftanh (fun _ r s g f t => fTanh r.flush (fx s g f t))

/-- An outstanding result all of whose parts have come is written: its words where no newer result is held, its uniform
registers, its predicate for every thread active at its issue, its flags; and it is outstanding no more (03 R66, 06 R128; 12 R305). -/
def Sys2Proof.Claims.LongLatencyResultIsWritten : Prop :=
  ∀ s gid key g l, groupOf s gid = some g → g.ll.find? (fun x => decide (x.key = key)) = some l → l.need = 0 → l.exact = none →
    switchHolds s g = false →
    ∃ t g', exec (.longLatencyResult gid key) s = .next t ∧ groupOf t gid = some g' ∧ OnlyGroup s t g ∧
      (∀ n, readLine t g' n = if n ∈ l.vregs ∧ ∀ x ∈ g.win, x.reg ≠ n
        then mergeLine (readLine s g n) ((l.vec.filter (fun x => decide (x.1 = n))).map (fun x => x.2)) else readLine s g n) ∧
      g'.outside = { (match l.pred with
        | some p => putPred (l.scl.foldl (fun (g : Group) (x : Nat × W64) => writeScalar g x.1 x.2) g) p l.mask (if l.pval then BitVec.allOnes 64 else 0)
        | none => l.scl.foldl (fun (g : Group) (x : Nat × W64) => writeScalar g x.1 x.2) g) with
          flags := g.flags ||| l.flags, ll := g.ll.filter (fun x => decide (x.key ≠ key)) }.outside

namespace Sys2Proof.Claims
open Sys2Proof.Machine

/-- The scalar sources in the type: the low 32 bits, or all 64 (07 R165). -/
def sa (g : Group) (f : RF) : Int := intVal f.t (readScalar g f.a.toNat).toNat
@[inherit_doc sa] def sb (g : Group) (f : RF) : Int := intVal f.t (readScalar g f.b.toNat).toNat
/-- The bits of the scalar sources in the type. -/
def ua (g : Group) (f : RF) : Nat := (readScalar g f.a.toNat).toNat % 2 ^ f.t.bits
@[inherit_doc ua] def ub (g : Group) (f : RF) : Nat := (readScalar g f.b.toNat).toNat % 2 ^ f.t.bits

/-- A scalar instruction whose result is wrapped to its type, extended by the type's signedness, and written to D (07 R165). -/
def ScalarRule (i : Hd → RF → Instr) (v : State → Group → RF → Int) : Prop :=
  ∀ h f, WideRule (i h f) h (fun s g => writeScalar g f.d.toNat (BitVec.ofInt 64 (intVal f.t (wrapNat f.t.bits (v s g f)))))

/-- The predicate c of the lowest active thread, inverted where bit 3 of the field is set. -/
def choice (g : Group) (f : RF) : Bool :=
  (predMask g (f.mod.toNat % 8)).getLsbD ((lowest g.active).getD 0) != f.mod.getLsbD 3

end Sys2Proof.Claims

/-- The scalar instructions (07 R165, R166, R167). That SSHL and SSHR take their amount as a number without a sign, in the signed types
too, is the model's choice (assumption 77). -/
def Sys2Proof.Claims.ScalarInstructions : Prop :=
  ScalarRule .sadd (fun _ g f => sa g f + sb g f) ∧ ScalarRule .ssub (fun _ g f => sa g f - sb g f) ∧
  ScalarRule .smul (fun _ g f => sa g f * sb g f) ∧ ScalarRule .sand (fun _ g f => (ua g f &&& ub g f : Nat)) ∧
  ScalarRule .sor (fun _ g f => (ua g f ||| ub g f : Nat)) ∧ ScalarRule .sxor (fun _ g f => (ua g f ^^^ ub g f : Nat)) ∧
  ScalarRule .sshl (fun _ g f => ((if f.t.bits ≤ ub g f then 0 else ua g f * 2 ^ ub g f : Nat) : Int)) ∧
  ScalarRule .sshr (fun _ g f => ((if f.mod.getLsbD 0 then wrapNat f.t.bits (sInt f.t.bits (ua g f) / 2 ^ min (ub g f) f.t.bits)
    else if f.t.bits ≤ ub g f then 0 else ua g f / 2 ^ ub g f : Nat) : Int)) ∧
  ScalarRule .ssel (fun _ g f => if choice g f then sa g f else sb g f) ∧
  ScalarRule .rdfirst (fun s g f => readI s g f.t f.a.toNat ((lowest g.active).getD 0)) ∧
  ScalarRule .sctz (fun _ g f => (ctzNat f.t.bits (readScalar g f.a.toNat).toNat : Nat)) ∧
  (∀ h f, WideRule (.spopc h f) h (fun _ g =>
    writeScalar g f.d.toNat (BitVec.ofNat 64 (popNat 64 (readScalar g f.a.toNat).toNat)))) ∧
  (∀ h f, WideRule (.scmp h f) h (fun _ g =>
    let b := intRel f.mod.toNat (sa g f) (sb g f)
    if f.d.toNat < 96 then writeScalar g f.d.toNat (if b then 1 else 0)
    else putPred g (f.d.toNat - 96) g.active (if b then BitVec.allOnes 64 else 0))) ∧
  (∀ h f, WideRule (.smov h f) h (fun _ g => writeScalar g f.d.toNat (readScalar g f.a.toNat))) ∧
  (∀ h f, WideRule (.smovi h f) h (fun _ g => writeScalar g f.d.toNat (f.imm.signExtend 64))) ∧
  (∀ h f, WideRule (.saddi h f) h (fun _ g => writeScalar g f.d.toNat (readScalar g f.a.toNat + f.imm.signExtend 64)))

/-- A register of the scalar space reads as it was written: an m register keeps bits [56:0] as its base, a predicate the bits of
the width, p7 discards the write and reads as ones; no other register changes (03 R70; 07 R165, R168). -/
def Sys2Proof.Claims.ScalarSpaceReadsAsWritten : Prop :=
  ∀ (g : Group) (d : Nat) (v : W64), g.s.length = 64 → g.a.length = 16 → g.mB.length = 16 → g.p.length = 7 → d < 104 →
    readScalar (writeScalar g d v) d = (if d < 80 then v else if d < 96 then v &&& BitVec.ofNat 64 (2 ^ 57 - 1)
      else if d < 103 then v &&& widthMask g.width else widthMask g.width) ∧
    ∀ e, e < 104 → e ≠ d → readScalar (writeScalar g d v) e = readScalar g e

/-- The address instructions (07 R168; 08 R198): AADD adds its increment, wrapped into the range of the modulo register that it
names, whose length must be one that a modulo register may have; MSET sets a base and a length. -/
def Sys2Proof.Claims.AddressInstructions : Prop :=
  (∀ h f, WideRule (.mset h f) h (fun _ g =>
    let g1 := writeScalar g f.d.toNat (readScalar g f.a.toNat)
    { g1 with mL := g1.mL.set (f.d.toNat - 80) (readScalar g f.b.toNat) })) ∧
  (∀ s g h f, Runs s g (.aadd h f) → wideActs g h = true →
    let k := bits f.imm.toNat 20 4
    let inc := sInt 20 f.imm.toNat
    let len := g.mL.getD k 0
    let a := readScalar g f.a.toNat
    let gives := fun (v : W64) => Does (.aadd h f) s s g (writeScalar g f.d.toNat v) []
    (k = 15 → gives (a + BitVec.ofInt 64 inc)) ∧
    (k ≠ 15 → len ≠ 0 → len.toNat < 2 ^ 40 →
      gives (BitVec.ofInt 64 ((g.mB.getD k 0).toNat + (a.toNat + inc - (g.mB.getD k 0).toNat) % (len.toNat : Int)))) ∧
    (k ≠ 15 → (len = 0 ∨ 2 ^ 40 ≤ len.toNat) → Traps (.aadd h f) s s g { cause := 0x0B, sub := 0 }))

namespace Sys2Proof.Claims
open Sys2Proof.Machine

/-- The target of a transfer: a signed count of words from the header of the clause (03 R68). -/
def target (g : Group) (off : Int) : W64 := BitVec.ofInt 64 ((va57 g.pc + 8 * off) % 2 ^ 57)

/-- The group at a target, where its next clause is to be fetched; it keeps its lane until the header there is looked at (03 R56,
06 R115). -/
def landed (g : Group) (pc : W64) : Group :=
  { toHeader g pc with transfer := if pc.toNat % 8 = 0 then none else some (g.wordAt g.pos) }

/-- The stack of a group read from its top. -/
def fromTop (g : Group) : List CEnt := g.stack.reverse

/-- An entry without the active threads of its group (07 R175). -/
def CEnt.less (g : Group) (e : CEnt) : CEnt := { e with mask := e.mask &&& ~~~g.active }

end Sys2Proof.Claims

/-- BRA, BRX, CALL and RET (07 R171, R174). -/
def Sys2Proof.Claims.UniformTransfers : Prop :=
  (∀ s g h f, Runs s g (.bra h f) → wideActs g h = true → Moves (.bra h f) s s g (landed g (target g f.off.toInt))) ∧
  (∀ s g h f, Runs s g (.brx h f) → wideActs g h = true →
    Moves (.brx h f) s s g (landed g (BitVec.ofNat 64 ((readScalar g f.a.toNat).toNat % 2 ^ 57)))) ∧
  (∀ s g h f, Runs s g (.call h f) → wideActs g h = true →
    (g.stack.length < 16 →
      Moves (.call h f) s s g (landed { g with stack := g.stack ++ [⟨g.active, nextClause g, 2⟩] } (target g f.off.toInt))) ∧
    (16 ≤ g.stack.length → Traps (.call h f) s s g { cause := 0x0E, sub := 1 })) ∧
  (∀ s g h f, Runs s g (.ret h f) → wideActs g h = true →
    (∀ e rest, fromTop g = e :: rest → e.kind = 2 → e.mask ≠ 0 →
      Moves (.ret h f) s s g (landed { g with stack := rest.reverse, active := e.mask } e.addr)) ∧
    (∀ e rest, fromTop g = e :: rest → e.kind ≠ 2 → Traps (.ret h f) s s g { cause := 0x0E, sub := 3 }) ∧
    (g.stack = [] → Traps (.ret h f) s s g { cause := 0x0E, sub := 2 }))

/-- BRD: all threads go to the target, or none, or the taken ones wait on the stack while the others go on; the join stands
below them; its predicate gives each thread's condition (07 R172). -/
def Sys2Proof.Claims.DivergentBranch : Prop :=
  ∀ s g h f, Runs s g (.brd h f) →
    let tk := condMask g h
    let j : CEnt := ⟨g.active, target g f.joff.toNat, 0⟩
    let t : CEnt := ⟨tk, target g f.off.toInt, 1⟩
    (tk = g.active → g.stack.length < 16 → Moves (.brd h f) s s g (landed { g with stack := g.stack ++ [j] } (target g f.off.toInt))) ∧
    (tk ≠ g.active → tk = 0 → g.stack.length < 16 → Does (.brd h f) s s g { g with stack := g.stack ++ [j] } []) ∧
    (tk ≠ g.active → tk ≠ 0 → g.stack.length < 15 →
      Does (.brd h f) s s g { g with stack := g.stack ++ [j, t], active := g.active &&& ~~~tk } []) ∧
    (16 - g.stack.length < (if tk = g.active ∨ tk = 0 then 1 else 2) → Traps (.brd h f) s s g { cause := 0x0E, sub := 1 })

/-- JOIN resumes the topmost entry with a thread, unless the stack ends or a call stands above it (07 R173). -/
def Sys2Proof.Claims.JoinResumes : Prop :=
  ∀ s g h f, Runs s g (.join h f) → wideActs g h = true →
    (∀ es e rest, fromTop g = es ++ e :: rest → (∀ x ∈ es, x.mask = 0 ∧ x.kind ≠ 2) → e.kind ≠ 2 → e.mask ≠ 0 →
      Moves (.join h f) s s g (landed { g with stack := rest.reverse, active := e.mask } e.addr)) ∧
    (∀ es e rest, fromTop g = es ++ e :: rest → (∀ x ∈ es, x.mask = 0 ∧ x.kind ≠ 2) → e.kind = 2 →
      Traps (.join h f) s s g { cause := 0x0E, sub := 3 }) ∧
    ((∀ x ∈ g.stack, x.mask = 0 ∧ x.kind ≠ 2) → Traps (.join h f) s s g { cause := 0x0E, sub := 2 })

/-- EXIT retires the active threads: the topmost entry that keeps a thread resumes; where none does, the group enters
RETIRING (07 R175; 06 R115). -/
def Sys2Proof.Claims.ExitRetires : Prop :=
  ∀ s g h f, Runs s g (.exit h f) → wideActs g h = true →
    (∀ es e rest, (fromTop g).map (CEnt.less g) = es ++ e :: rest → (∀ x ∈ es, x.mask = 0) → e.mask ≠ 0 →
      Moves (.exit h f) s s g (landed { g with stack := rest.reverse, active := e.mask } e.addr)) ∧
    ((∀ x ∈ g.stack, (CEnt.less g x).mask = 0) →
      Answers s g (.exit h f) (fun t g' => Reads s t g g' (.exit h f) (fun _ => []) ∧ OnlyGroup s t g ∧
        Counted { g with st := .retiring, active := 0, stack := [], park := none, pendTrap := none } g' []))

/-- NOP does nothing but take its turn; SLEEP parks its group, with its lane released, until the count has passed; a count of 0
and YIELD make it READY behind the others of its priority (07 R176; 06 R130, R131). -/
def Sys2Proof.Claims.NopSleepYield : Prop :=
  (∀ s g h f, Runs s g (.nop h f) → Does (.nop h f) s s g g []) ∧
  (∀ s g h f, Runs s g (.sleep h f) → wideActs g h = true → f.imm ≠ 0 →
    Moves (.sleep h f) s s g { g with st := .parked, park := some (.sleep (cyclesOf s g.cluster + f.imm.toNat)) }) ∧
  (∀ s g i, ((∃ h f, i = .sleep h f ∧ wideActs g h = true ∧ f.imm = 0) ∨ (∃ h f, i = .yield h f ∧ wideActs g h = true)) → Runs s g i →
    Does i s s g { g with st := .ready, yielded := true, refetch := true, left := if g.budget = 0 then g.left else g.budget + 1 } [])

namespace Sys2Proof.Claims
open Sys2Proof.Machine

/-- The outstanding result of a memory instruction that writes vector registers, whose threads have got these bytes. -/
def loadResult (s : State) (g : Group) (i : Instr) (h : Hd) (f : MF) (need acq : Nat) (got : List (Nat × List Byte)) : LL :=
  { key := s.nextId, left := h.la.toNat, need := need, vregs := (List.range (szRegs f.sz)).map (fun k => lineNo g (f.data.toNat + k)),
    sregs := [], pred := none,
    vec := got.flatMap (fun x => (retParts (vecRet g h f s.nextId x.1) x.2).1), scl := [], pval := false, flags := 0, acq := acq,
    uni := llUniform g i h, mask := g.active }

/-- The outstanding result of a load into a scalar register. -/
def scalarResult (s : State) (g : Group) (h : Hd) (f : MF) (bs : List Byte) : LL :=
  { key := s.nextId, left := h.la.toNat, need := 0, vregs := [], sregs := [f.data.toNat], pred := none, vec := [],
    scl := [(f.data.toNat, loadScalar f.sz bs)], pval := false, flags := 0, uni := llUniform g (.ldu h f) h, mask := g.active }

/-- A request of a group as it enters the lane's windows. -/
def entered (s1 : State) (g : Group) (ph : Phys) (va : Nat) (kind : ReqKind) : Req :=
  { key := s1.nextId, gid := g.id, ctx := g.ctx, launch := g.launch, team := g.team, cluster := g.cluster, core := g.core,
    seq := g.seq + 1, slice := homeSlice ph.leaf ph.pa, dev := ph.dev, hc := ph.leaf.getLsbD 54, kind := kind, va := some va,
    big := ph.big, page := leafPage ph.leaf }

/-- The group with one request entered in a window of its own. -/
def withRequest (g : Group) (r : Req) : Group := { g with seq := g.seq + 1, coal := [[r]] }

/-- Where thread t's access lands: the state after the translation, and the place. -/
def xlated (s : State) (g : Group) (acc : Acc) (addr : W64) : State × Except TrapInfo Phys :=
  translate { s with nextId := s.nextId + 1 } g.cluster (some g.core) g.ctx (addr.toNat % 2 ^ 57) acc

/-- Whether an address is aligned, lies below the windows and translates, to this place. -/
def Lands (s : State) (g : Group) (acc : Acc) (size : Nat) (addr : W64) (ph : Phys) : Prop :=
  AtPlace s g acc size addr (xlated s g acc addr).1 ph

end Sys2Proof.Claims

/-- Loads and stores in the own scratchpad, where every thread's access wins its banks in its lane cycle: each thread's value is
read, or stored, at its offset, in ascending order of the threads; the address register takes its increment (09 R204, R206, R209,
R210; 08 R179, R181). -/
def Obligations.ScratchpadAccesses : Prop :=
  (∀ s g h f team s2 t0 ts, Runs s g (.ld h f) → teamOf s g.team = some team → MayLoad s g f → accessors g h h.u = t0 :: ts →
    let addr := fun t => memAddr s g f (szBytes f.sz) true t
    (∀ t ∈ t0 :: ts, InPad team (szBytes f.sz) (addr t)) →
    bankTurns { s with nextId := s.nextId + 1 } g g.team (szBytes f.sz) true (fun t => (addr t).toNat % 2 ^ 48) (t0 :: ts) 0 = some s2 →
    Does (.ld h f) s (dropGot s2 g.id) g (postInc { g with ll := g.ll ++ [loadResult s g (.ld h f) h f 0 0 ((t0 :: ts).map (fun t =>
      (t, memBytes team.scratch ((addr t).toNat % 2 ^ 48) (szBytes f.sz))))] } f (szBytes f.sz)) (newKey g s.nextId)) ∧
  (∀ s g h f team s2 t, Runs s g (.ldu h f) → teamOf s g.team = some team → MayLoad s g f → accessors g h true = [t] →
    let addr := memAddr s g f (szBytes f.sz) true t
    InPad team (szBytes f.sz) addr →
    bankTurn { s with nextId := s.nextId + 1 } g g.team (addr.toNat % 2 ^ 48) (szBytes f.sz) true 0 = some s2 →
    Does (.ldu h f) s (dropGot s2 g.id) g (postInc { g with
      ll := g.ll ++ [scalarResult s g h f (memBytes team.scratch (addr.toNat % 2 ^ 48) (szBytes f.sz))] } f (szBytes f.sz)) (newKey g s.nextId)) ∧
  (∀ s g h f team s2 t0 ts, Runs s g (.st h f) → teamOf s g.team = some team → MayStore s g f (szBytes f.sz) → accessors g h false = t0 :: ts →
    let addr := fun t => memAddr s g f (szBytes f.sz) true t
    (∀ t ∈ t0 :: ts, InPad team (szBytes f.sz) (addr t)) →
    bankTurns { s with nextId := s.nextId + 1 } g g.team (szBytes f.sz) false (fun t => (addr t).toNat % 2 ^ 48) (t0 :: ts) 0 = some s2 →
    Does (.st h f) s (dropGot (onTeam s2 g.team (fun x =>
      let put := fun m t => memPut m ((addr t).toNat % 2 ^ 48) (natLE (szBytes f.sz) (readVs s g f.data.toNat (szRegs f.sz) t))
      { x with scratch := (t0 :: ts).foldl put x.scratch })) g.id)
      g (postInc g f (szBytes f.sz)) []) ∧
  (∀ s g h f team s2 t, Runs s g (.stu h f) → teamOf s g.team = some team → MayStore s g f (szBytes f.sz) → accessors g h true = [t] →
    let addr := memAddr s g f (szBytes f.sz) true t
    InPad team (szBytes f.sz) addr →
    bankTurn { s with nextId := s.nextId + 1 } g g.team (addr.toNat % 2 ^ 48) (szBytes f.sz) false 0 = some s2 →
    Does (.stu h f) s (dropGot (onTeam s2 g.team (fun x =>
      { x with scratch := memPut x.scratch (addr.toNat % 2 ^ 48) (natLE (szBytes f.sz) (readScalar g f.data.toNat).toNat) })) g.id)
      g (postInc g f (szBytes f.sz)) [])

/-- LD, LDNT, LDA, SGATH and LDU of one thread, from an address of this device's memory that translates, complete: the bytes of the
sector as the lane finds it, at the home slice for LDNT, SGATH, LD.nl1 and a wide LDA, with the group's own later stores laid over
them, are an outstanding result; LDA at cluster scope or wider empties L1 (09 R206, R209 to R212, R218; 08 R186). -/
def Sys2Proof.Claims.LoadsOfMemory : Prop :=
  ∀ s g h f t ph s2 bs i home, MayLoad s g f →
    let size := szBytes f.sz
    let addr := memAddr s g f size true t
    let s1 := (Claims.xlated s g .rd addr).1
    Claims.Lands s g .rd size addr ph → ph.dev = none →
    (ownReqs g).any (fun r => isRmw r && (reqSectors r).contains (ph.pa / 128)) = false →
    ((home = false ∧ (l1Find s1 (servingL1 s1 g.core ph.pa) (ph.pa / 128)).isSome) ∨ mustWait s1 g ph.pa = false) →
    sectorRead s1 g ph.pa home = some (s2, bs) → Runs s g i →
    let got := overlay (storeCells (ownReqs g)) ph.pa ((bs.drop (ph.pa % 128)).take size)
    let wide := decide (3 ≤ f.hint.toNat)
    (accessors g h h.u = [t] → (i = .ld h f ∧ home = decide (f.hint = 1)) ∨ (i = .ldnt h f ∧ home = true) →
      Does i s (dropGot s2 g.id) g (postInc { g with ll := g.ll ++ [Claims.loadResult s g i h f 0 0 [(t, got)]] } f size) (newKey g s.nextId)) ∧
    (accessors g h h.u = [t] → i = .lda h f → home = wide →
      Does i s (dropGot (if wide then l1Clear s2 g.core else s2) g.id) g
        (postInc { g with ll := g.ll ++ [Claims.loadResult s g i h f 0 (f.hint.toNat + 1) [(t, got)]] } f size) (newKey g s.nextId)) ∧
    (accessors g h h.u = [t] → i = .sgath h f → home = true →
      Does i s (dropGot s2 g.id) g (postInc { g with
        ll := g.ll ++ [{ Claims.loadResult s g i h f 0 0 [(t, got)] with vregs := [lineNo g f.data.toNat] }] } f size) (newKey g s.nextId)) ∧
    (accessors g h true = [t] → i = .ldu h f → home = decide (f.hint = 1) →
      Does i s (dropGot s2 g.id) g (postInc { g with ll := g.ll ++ [Claims.scalarResult s g h f got] } f size) (newKey g s.nextId))

/-- The bytes of a sector as a load finds them: at the home slice memory's; else the valid copy in L1 where there is one; a
poisoned sector gives none but from L1 (08 R186, R193; 14 R338, R339). -/
def Sys2Proof.Claims.SectorsAsLoadsFindThem : Prop :=
  ∀ s g pa, let sec := pa / 128
    let k := servingL1 s g.core pa
    (s.poison.contains sec = false → ∀ home, (home = true ∨ l1Find s k sec = none) →
      ∃ s2, sectorRead s g pa home = some (s2, memBytes s.mem (sec * 128) 128) ∧ ∀ n, n ≠ k → coreAt s2 n = coreAt s n) ∧
    (∀ bs, l1Find s k sec = some bs → ∃ s2, sectorRead s g pa false = some (s2, bs) ∧ s2.mem = s.mem) ∧
    (s.poison.contains sec = true → sectorRead s g pa true = none)

/-- ST, STNT, STL and STU of one thread to an address that translates complete: a request with the bytes of the value enters a
window of the lane; memory changes where it arrives (09 R209 to R212; 08 R185). STL waits until the release of its scope is met. -/
def Sys2Proof.Claims.StoresOfMemory : Prop :=
  ∀ s g h f t ph i, MayStore s g f (szBytes f.sz) →
    let size := szBytes f.sz
    let addr := memAddr s g f size true t
    let s1 := (Claims.xlated s g .wr addr).1
    let sent := fun (v : Nat) => Claims.withRequest g (Claims.entered s1 g ph (va57 addr) (.store (cellsAt ph.pa size v)))
    Claims.Lands s g .wr size addr ph → Runs s g i →
    (accessors g h false = [t] → i = .st h f ∨ i = .stnt h f ∨ (i = .stl h f ∧ releaseMet s g f.hint.toNat = true) →
      Does i s (dropGot { s1 with nextId := s1.nextId + 1 } g.id) g (postInc (sent (readVs s1 g f.data.toNat (szRegs f.sz) t)) f size) []) ∧
    (accessors g h false = [t] → i = .stl h f → releaseMet s g f.hint.toNat = false → exec i s = .next s) ∧
    (accessors g h true = [t] → i = .stu h f →
      Does i s (dropGot { s1 with nextId := s1.nextId + 1 } g.id) g (postInc (sent (readScalar g f.data.toNat).toNat) f size) [])

namespace Sys2Proof.Claims
open Sys2Proof.Machine

/-- What an atomic asks of its home: the operation and its operand, and whether the old value returns (09 R214 to R216). -/
def AtomicAsks (s1 : State) (g : Group) (h : Hd) (f : MF) (t : Nat) (i : Instr) (op : Rmw) (v : Nat) (returns : Bool) : Prop :=
  let n := szRegs f.sz
  let x := readVs s1 g f.data.toNat n t
  let y := readVs s1 g (f.data.toNat + n) n t
  (i = .atom h f ∧ op = .int (aop f) ∧ v = x ∧ returns = true) ∨ (i = .red h f ∧ op = .int (aop f) ∧ v = x ∧ returns = false) ∨
  (i = .cas h f ∧ op = .cas (BitVec.ofNat 64 x) ∧ v = y ∧ returns = true) ∨
  (i = .atomf h f ∧ isReplay s1 g.ctx = false ∧ op = .flt (aop f) (Rnd.ofCode (g.rmode.toNat % 4)) ∧ v = x ∧
    returns = !f.off8.getLsbD 3)

end Sys2Proof.Claims

/-- ATOM, RED, CAS, ATOMF and ORED of one thread on an address that translates complete: the request enters a window of the lane;
one that returns has its result outstanding, to come with the old value, and its sector is not poisoned (09 R213 to R217). One that
returns from another device does not complete yet: its group stays at it until the value has come (09 R204; the model's way to keep the
fault of a poisoned sector exact: log 72). -/
def Obligations.AtomicRequests : Prop :=
  (∀ s g h f t ph i op v returns,
    let size := szBytes f.sz
    let addr := memAddr s g f size false t
    let s1 := (Claims.xlated s g .rw addr).1
    g.ll.length < 16 → accessors g h false = [t] → MayStore s g f size → Claims.Lands s g .rw size addr ph →
    (returns = true → ph.dev = none ∧ s1.poison.contains (ph.pa / 128) = false) → Runs s g i → Claims.AtomicAsks s1 g h f t i op v returns →
    let back := if returns then some (s.nextId, lineNo g f.data.toNat, t) else none
    let sent := Claims.withRequest g (Claims.entered s1 g ph (va57 addr) (.rmw op ph.pa size (BitVec.ofNat 64 v) back))
    Does i s (dropGot { s1 with nextId := s1.nextId + 1 } g.id) g
      (postInc { sent with ll := if returns then g.ll ++ [Claims.loadResult s g i h f 1 0 []] else g.ll } f size)
      (if returns then newKey g s.nextId else [])) ∧
  (∀ s g h f t ph i op v,
    let size := szBytes f.sz
    let addr := memAddr s g f size false t
    let s1 := (Claims.xlated s g .rw addr).1
    g.ll.length < 16 → accessors g h false = [t] → MayStore s g f size → Claims.Lands s g .rw size addr ph → ph.dev ≠ none →
    Runs s g i → Claims.AtomicAsks s1 g h f t i op v true →
    let sent := Claims.withRequest g (Claims.entered s1 g ph (va57 addr) (.rmw op ph.pa size (BitVec.ofNat 64 v) (some (s.nextId, lineNo g f.data.toNat, t))))
    let rest := maskOf ((threads (liveMask g)).filter (fun y => decide (t ≤ y)))
    Answers s g i (fun t' g' => OnlyGroup (dropGot { s1 with nextId := s1.nextId + 1 } g.id) t' g ∧ (∀ n, readLine t' g' n = readLine s1 g n) ∧
      g'.outside = { sent with ll := g.ll ++ [{ Claims.loadResult s g i h f 1 0 [] with exact := some t }], remain := some rest }.outside)) ∧
  (∀ s g h f t ph,
    let addr := memAddr s g f 16 false t
    let s1 := (Claims.xlated s g .rw addr).1
    let n := szRegs f.sz
    accessors g h false = [t] → MayStore s g f 16 → Claims.Lands s g .rw 16 addr ph → Runs s g (.ored h f) →
    Does (.ored h f) s (dropGot { s1 with nextId := s1.nextId + 1 } g.id) g
      (postInc (Claims.withRequest g (Claims.entered s1 g ph (va57 addr) (.ored (aop f) (Rnd.ofCode (g.rmode.toNat % 4)) ph.pa
        (readV s1 g (f.data.toNat + n) t).toNat (BitVec.ofNat 64 (readVs s1 g f.data.toNat n t))))) f 16) [])

/-- What requests do where they arrive: the oldest window of a group enters its store FIFO; a store writes its bytes at their
home and no other byte, and is dirty there or, on a host-coherent page, clean; a peer's store writes the peer's scratchpad, at its banks
(08 R180, R185, R188, R189; 09 R209; 14 R341). -/
def Sys2Proof.Claims.StoresReachTheirHomes : Prop :=
  (∀ s gid g w ws, groupOf s gid = some g → g.coal = w :: ws → g.fifo.length + w.length ≤ 32 →
    (ws = [] → (replayOf s g.lane).bind (fun r => r.win) = none) →
    exec (.coalesceWindowClose gid) s = .next (setGroup s { g with coal := ws, fifo := g.fifo ++ w })) ∧
  (∀ s key r cs, Memory.wf s.mem = true → reqAt s key = some r → mayArrive s r = true → r.kind = .store cs →
    (∀ c ∈ cs, inQueueDesc s c.1 = false ∧ inBarRec s c.1 = false ∧ ∀ h ∈ s.oredHeld, c.1 < h.pa + 8 ∨ h.pa + 12 ≤ c.1) →
    ∃ t, exec (.storeArriveHome key) s = .next t ∧ t.flight = s.flight.filter (fun x => decide (x.key ≠ key)) ∧
      (∀ a, memGet t.mem a = ((cs.reverse.find? (fun c => decide (c.1 = a))).map (fun c => c.2)).getD (memGet s.mem a)) ∧
      (∀ x, x ∈ t.dirty ↔ (x ∈ s.dirty ∧ ∀ c ∈ cs, c.1 / 128 ≠ x) ∨ (r.hc = false ∧ ∃ c ∈ cs, c.1 / 128 = x)) ∧
      t.groups = s.groups ∧ t.teams = s.teams ∧ t.cores = s.cores) ∧
  (∀ s key r team cs x, reqAt s key = some r → mayArrive s r = true → r.kind = .peer team cs → teamOf s team = some x → x.st ≠ .saved →
    (coreAt s x.core).drained = false →
    let now := cyclesOf s (x.core / 4)
    let words := bankWords (reqPA r) cs.length
    switching s (x.core / 4) = false → rankedBehind s x.core 9216 now now words false = false → bankFree s x.core now words false = true →
    exec (.storeArriveHome key) s = .next (onTeam
      (bankServe { s with flight := s.flight.filter (fun x => decide (x.key ≠ key)) } x.core now now words false) team
      (fun x => { x with scratch := memCells x.scratch cs })))

/-- An atomic at its home: memory takes the new value and nothing else changes there, the old value goes to the outstanding
result; a poisoned sector stays as it is with a fault record (08 R193, R195; 09 R213 to R216). -/
def Sys2Proof.Claims.AtomicsArrive : Prop :=
  ∀ s key r op pa size v ret, Memory.wf s.mem = true → reqAt s key = some r → mayArrive s r = true → r.kind = .rmw op pa size v ret →
    let s0 := { s with flight := s.flight.filter (fun x => decide (x.key ≠ key)), wcbs := s.wcbs.filter (fun w => decide (w.line ≠ pa / 512)) }
    let old := memNat s.mem pa size
    (s.poison.contains (pa / 128) = false → (∀ i, i < size → inQueueDesc s (pa + i) = false ∧ inBarRec s (pa + i) = false) →
      (∀ h ∈ s.oredHeld, pa + size ≤ h.pa + 8 ∨ h.pa + 12 ≤ pa) →
      ∃ t, exec (.sliceAtomic key) s = .next t ∧
        memNat t.mem pa size = rmwNew op size old (v.toNat % 2 ^ (8 * size)) % 256 ^ size ∧
        (∀ a, (a < pa ∨ pa + size ≤ a) → memGet t.mem a = memGet s.mem a) ∧
        (∀ k line th, ret = some (k, line, th) → ∀ g l, groupOf s r.gid = some g → g.ll = [l] → l.key = k → size = 4 →
          (groupOf t r.gid).map (fun (g : Group) => g.ll) =
            some [{ l with need := l.need - 1, vec := l.vec ++ [(line, th, BitVec.ofNat 32 old)] }])) ∧
    (s.poison.contains (pa / 128) = true → ret = none →
      exec (.sliceAtomic key) s = .next (faultRecord s0 { reqOrigin s r with addr := 0 } true 0x0C 0))

/-- The operations of the integer atomics (09 R214) and of CAS (09 R216). -/
def Sys2Proof.Claims.AtomicOperations : Prop :=
  ∀ size old v : Nat, 0 < size → old < 2 ^ (8 * size) → v < 2 ^ (8 * size) →
    let n := 8 * size
    rmwNew (.int 0) size old v = (old + v) % 2 ^ n ∧ rmwNew (.int 1) size old v = min old v ∧ rmwNew (.int 2) size old v = max old v ∧
    sInt n (rmwNew (.int 3) size old v) = min (sInt n old) (sInt n v) ∧ sInt n (rmwNew (.int 4) size old v) = max (sInt n old) (sInt n v) ∧
    rmwNew (.int 5) size old v = old &&& v ∧ rmwNew (.int 6) size old v = old ||| v ∧ rmwNew (.int 7) size old v = old ^^^ v ∧
    rmwNew (.int 8) size old v = v ∧
    rmwNew (.int 9) size old v = (if v ≤ old then 0 else old + 1) ∧
    rmwNew (.int 10) size old v = (if old = 0 ∨ v < old then v else old - 1) ∧
    ∀ cmp : W64, rmwNew (.cas cmp) size old v = if old = cmp.toNat % 2 ^ n then v else old

/-- An ordered contribution is combined into its cell where its index is the next and none is held, is held where it lies in the
window of 4,096, and is else discarded with a fault record (09 R217). -/
def Sys2Proof.Claims.OrderedContributions : Prop :=
  ∀ s key r op rnd pa idx v, Memory.wf s.mem = true → reqAt s key = some r → mayArrive s r = true → r.kind = .ored op rnd pa idx v →
    s.poison.contains (pa / 128) = false → (∀ i, i < 16 → inQueueDesc s (pa + i) = false ∧ inBarRec s (pa + i) = false) →
    let n := if op = 1 ∨ op = 3 then 8 else 4
    let next := memNat s.mem (pa + 8) 4
    let s0 := { s with flight := s.flight.filter (fun x => decide (x.key ≠ key)), wcbs := s.wcbs.filter (fun w => decide (w.line ≠ pa / 512)) }
    (idx = next → s.oredHeld = [] → ∃ t, exec (.oredContribution key) s = .next t ∧
      memNat t.mem pa n = oredCombine op rnd (memNat s.mem pa n) (v.toNat % 2 ^ (8 * n)) % 256 ^ n ∧
      memNat t.mem (pa + 8) 4 = (next + 1) % 2 ^ 32 ∧
      ∀ a, (a < pa ∨ pa + 12 ≤ a) → memGet t.mem a = memGet s.mem a) ∧
    (next < idx → idx < next + 4096 → (∀ h ∈ s.oredHeld, ¬(h.pa = pa ∧ h.idx = idx)) →
      exec (.oredContribution key) s = .next { s0 with oredHeld := s.oredHeld ++
        [⟨r.slice, pa, idx, v, op, rnd, r.ctx, r.launch, r.core, (reqOrigin s r).team, r.hc⟩] }) ∧
    ((idx < next ∨ next + 4096 ≤ idx ∨ ∃ h ∈ s.oredHeld, h.pa = pa ∧ h.idx = idx) →
      exec (.oredContribution key) s = .next (faultRecord s0 (reqOrigin s r) true 0x46 0))

/-- FENCE goes on where its accesses have been performed, its acquire at cluster scope or wider emptying L1, and parks its group
else; IFENCE makes the other groups of the core fetch again, the header too that one of them stands at (09 R219, R220; log 58). -/
def Sys2Proof.Claims.Fences : Prop :=
  (∀ s g h f, Runs s g (.fence h f) → wideActs g h = true →
    let met := if f.off8.getLsbD 1 then releaseMet s g f.hint.toNat else loadsBack g
    (met = true → Does (.fence h f) s (if f.off8.getLsbD 0 ∧ 3 ≤ f.hint.toNat then l1Clear s g.core else s) g g []) ∧
    (met = false → Moves (.fence h f) s s g { g with st := .parked, park := some (.fence (f.off8.getLsbD 0) (f.off8.getLsbD 1) f.hint.toNat) })) ∧
  (∀ s g h f, Runs s g (.ifence h f) → wideActs g h = true →
    let s1 := onCore s g.core (fun c => { c with cbuf := [] })
    let again := fun (x : Group) => if x.core ≠ g.core ∨ x.id = g.id ∨ x.clause = [] then x
      else if x.atHdr then { x with clause := [], checked := false, refetch := false } else { x with refetch := true }
    Does (.ifence h f) s { s1 with groups := s.groups.map again } g g [])

/-- PREF, RESID, CLEAN and INVAL of one thread complete: PREF fills its sector into L1, a hint that cannot be followed is counted,
CLEAN writes its line back once the stores of the cluster to it have arrived, INVAL drops its sectors from L1 (09 R221, R222). -/
def Sys2Proof.Claims.HintsAndLines : Prop :=
  ∀ s g h f t ph i, MayAccess s g f (szBytes f.sz) → accessors g h false = [t] → Runs s g i →
    let size := szBytes f.sz
    let addr := memAddr s g f size true t
    let s0 := { s with nextId := s.nextId + 1 }
    let hint := Claims.xlated s g .hint addr
    let read := Claims.xlated s g .rd addr
    let ends := fun s' => Does i s (dropGot s' g.id) g (postInc g f size) []
    addr.toNat % 2 ^ 57 / 2 ^ 48 < 0x1F0 →
    (i = .pref h f ∨ i = .resid h f → hint.2 = .ok ph → ph.dev = none → ph.leaf.getLsbD 5 = true → grants ph.leaf .rd = true → mustWait hint.1 g ph.pa = false →
      ∀ s2 bs, sectorRead hint.1 g ph.pa false = some (s2, bs) → ends (if i = .pref h f ∧ f.hint = 0 then s2 else hint.1)) ∧
    (i = .pref h f ∨ i = .resid h f → ((∃ e, hint.2 = .error e) ∨ ∃ ph, hint.2 = .ok ph ∧
        (ph.leaf.getLsbD 5 = false ∨ grants ph.leaf .rd = false ∨ ∃ d, ph.dev = some d ∧ reachable hint.1 d = false)) → ends (onCtx s0 g.ctx (fun c => { c with dropHints := c.dropHints + 1 }))) ∧
    (i = .inval h f → hint.2 = .ok ph → ends (l1Drop hint.1 g.core (fun sec => decide (sec / 4 = ph.pa / 512)))) ∧
    (i = .inval h f → (∃ e, hint.2 = .error e) → ends s0) ∧
    (i = .clean h f → read.2 = .ok ph → ph.dev = none →
      let behind := (ownReqs g ++ clusterFlight read.1 g.cluster).any (fun r => (reqSectors r).any (fun x => decide (x / 4 = ph.pa / 512)))
      (behind = false → ends { read.1 with dirty := read.1.dirty.filter (fun x => decide (x / 4 ≠ ph.pa / 512)),
                                           wcbs := read.1.wcbs.filter (fun w => decide (w.line ≠ ph.pa / 512)) }) ∧
      (behind = true → exec i s = .next s))

/-- The events of the memory: a write-combining buffer drains, a sector leaves L1, a sector is poisoned, a lane that lost its bank is
served in order of its presentation, the waiting loads of a word served then being served with it, a walker's translation enters the TLBs
(08 R180, R189, R193; 14 R339; 15 R369). -/
def Obligations.MemoryEvents : Prop :=
  (∀ s line, (∃ w ∈ s.wcbs, w.line = line) →
    exec (.wcbDrain line) s = .next { s with wcbs := s.wcbs.filter (fun w => decide (w.line ≠ line)) }) ∧
  (∀ s core sec, (∃ x ∈ (coreAt s core).l1, x.1 = sec) → ∃ t, exec (.l1SectorExpire core sec) s = .next t ∧
    t = { s with cores := t.cores } ∧ ((coreAt t core).l1 = (coreAt s core).l1.filter (fun x => decide (x.1 ≠ sec))) ∧
    ∀ n, n ≠ core → coreAt t n = coreAt s n) ∧
  (∀ s pa, pa < 0xC000000000 → returningTo s (pa / 128) = false → ∃ t, exec (.uncorrectableError pa) s = .next t ∧ t = { s with poison := t.poison } ∧
    ∀ x, x ∈ t.poison ↔ x = pa / 128 ∨ x ∈ s.poison) ∧
  (∀ s lane k r, s.cores.findIdx? (fun c => c.replays.any (fun r => decide (r.lane = lane) && !r.granted)) = some k →
    (coreAt s k).replays.find? (fun r => decide (r.lane = lane)) = some r → r.at_ < cyclesOf s (k / 4) →
    let now := cyclesOf s (k / 4)
    (∀ x ∈ (coreAt s k).replays, x.granted = false → r.at_ < x.at_ ∨ (r.at_ = x.at_ ∧ lane ≤ x.lane) ∨
      ∀ a ∈ x.words, ∀ b ∈ r.words, a % 32 ≠ b % 32) →
    bankFree s k now r.words r.load = true →
    let s1 := bankServe s k now now r.words r.load
    exec (.bankReplay lane) s = .next (onCore s1 k (fun c => { c with replays := c.replays.map (fun x =>
      if x.lane = lane ∨ (x.load = true ∧ x.at_ < now ∧ ∀ w ∈ x.words, (coreAt s1 k).bankUse.contains (now, w, true) = true) then { x with granted := true }
      else x) }))) ∧
  (∀ s core ctx va w, core < s.cores.length → (ctxRec s ctx).isSome → exec (.pageWalk core ctx va w) s =
    .next (translate s (core / 4) (some core) ctx (va.toNat % 2 ^ 57) (if w then .wr else .rd)).1)

namespace Sys2Proof.Claims
open Sys2Proof.Machine

/-- The conversion flags kept with some tags of a team for a group (09 R227). -/
def keptFlags (s : State) (team gid : Nat) (mask : W64) : Flags :=
  match teamOf s team with
  | some t => (t.conv.filter (fun x => decide (x.2.1 = gid) && mask.getLsbD x.1)).foldl (fun a x => a ||| x.2.2) 0
  | none => 0

/-- The bases that a copy instruction adds to its descriptor's addresses. -/
def copyBase (g : Group) (f : CF) (bit : Nat) (a : BitVec 4) : Option W64 := if f.flags.getLsbD bit then some (g.a.getD a.toNat 0) else none

/-- The word of the scalar register that names a mask, a descriptor or a stage. -/
def sdesc (g : Group) (f : CF) : W64 := g.s.getD f.sdesc.toNat 0

end Sys2Proof.Claims

/-- CPY, CPYM and CPYG: a copy that passes its checks takes its tag, once the group's stores have been performed (until then its descriptor
is kept as it was read: log entry 90), or its group parks while the tag is busy, the queue full, or an earlier copy waits to go into the
same stream; one that fails them traps; one whose descriptor lies on another device waits for it (09 R229 to R231, R234, R235; 10 R250). -/
def Obligations.CopiesAreIssued : Prop :=
  ∀ s g h f i kind, (i, kind) ∈ [(Instr.cpy h f, 0), (Instr.cpym h f, 1), (Instr.cpyg h f, 2)] → Runs s g i → wideActs g h = true →
    let check := checkCopy s (issuerOf g) kind f.tag.toNat ((sdesc g f).toNat % 2 ^ 57) (copyBase g f 0 f.asrc) (copyBase g f 1 f.adst)
    (∀ s1 e, check = (s1, .error (some e)) → Traps i s s1 ((groupOf s1 g.id).getD g) e) ∧
    (∀ s1, check = (s1, .error none) → exec i s = .next s1) ∧
    (∀ s1 w src dst, check = (s1, .ok (w, src, dst)) →
      let s2 := { s1 with nextId := s1.nextId + 1 }
      let c := mkCopy s1.nextId (issuerOf g) kind f.tag.toNat f.depctr.toNat (if f.flags.getLsbD 2 then some (f.fl 3 4) else none) w src dst
      let busy := (∃ x ∈ s1.copies, x.queued = true ∧ x.team = g.team ∧ x.tag = f.tag.toNat) ∨
        64 ≤ (s1.copies.filter (fun x => x.queued && !x.started && decide (x.cluster = g.cluster))).length ∨ copyBehind s2 c = true
      (storesOut s1 g = false → ¬busy →
        Does i s (takeTag s2 c) g { g with flags := g.flags ||| keptFlags s1 g.team g.id (1 <<< f.tag.toNat) } []) ∧
      (storesOut s1 g = false → busy →
        Moves i s { s2 with copies := s1.copies ++ [c] } g { g with st := .parked, park := some (.copy s1.nextId) }) ∧
      (storesOut s1 g = true → exec i s = .next (keepDesc s1 g.id ((sdesc g f).toNat % 2 ^ 57) w)))

/-- A copy that takes its tag is queued behind the others, and its tag's bit, error and record are cleared (09 R231). -/
def Sys2Proof.Claims.CopiesTakeTheirTags : Prop :=
  ∀ s c t, teamOf s c.team = some t → c.kind ≠ 1 → c.failed = none →
    (∃ c', (takeTag s c).copies = s.copies.filter (fun x => decide (x.id ≠ c.id)) ++ [c'] ∧ c'.queued = true ∧ c'.id = c.id ∧ c'.started = c.started) ∧
    (∃ t', teamOf (takeTag s c) c.team = some t' ∧ t'.tagbits = t.tagbits &&& ~~~((1 : W64) <<< c.tag) ∧ t'.tagerr = t.tagerr &&& ~~~((1 : W64) <<< c.tag) ∧
      (∀ x ∈ t'.tagrec, x.1 ≠ c.tag) ∧ t'.scratch = t.scratch) ∧
    (takeTag s c).mem = s.mem

/-- The steps of a copy: it starts where fewer than 8 run, its pieces are written for its next receiver, and once all have
landed its tag's bit is set and its counter decremented; a failed one sets the error with its record (09 R230, R232, R233, R237,
R244, R245; 05 R104). -/
def Sys2Proof.Claims.CopySteps : Prop :=
  (∀ s cluster c, s.copies.find? (fun c => c.queued && !c.started && decide (c.cluster = cluster)) = some c →
    (s.copies.filter (fun x => x.started && decide (x.cluster = cluster))).length < 8 → c.cd.dstos = false → c.kind ≠ 1 →
    exec (.copyStart cluster) s = .next (onCopy s c.id (fun c => { c with started := true, leaveWait := false }))) ∧
  (∀ s copy c ps, copyOf s copy = some c → mayRun s c = true → c.left = [c.team] → recvWaits s c c.team = false →
    copyPlan s c c.team = (ps, none) → c.cd.dstos = false → c.bar = none →
    exec (.copyDelivery copy c.team) s = .next (onCopy (putPieces (touchPages s c c.cd.rows) c c.team ps) copy (fun x =>
      { x with flags := ps.foldl (fun a p => a ||| p.fl) 0, served := x.served ++ [c.team],
               owned := if { x with served := x.served ++ [c.team] }.left = [] then [] else x.owned }))) ∧
  (∀ s copy c t, copyOf s copy = some c → c.started = true → c.leaveWait = false → c.left = [] →
    (∀ r ∈ s.remotes, r.copy ≠ some c.id) → c.failed = none → c.flags = 0 → teamOf s c.team = some t → t.st = .resident → c.ctr = 0 →
    (clusterAt s c.cluster).leaves = [] → (clusterAt s c.cluster).leaveQ = [] →
    ∃ s' t', exec (.copyComplete copy) s = .next s' ∧ teamOf s' c.team = some t' ∧ t'.tagbits = t.tagbits ||| ((1 : W64) <<< c.tag) ∧
      t'.tagerr = t.tagerr ∧ t'.scratch = t.scratch ∧ s'.copies = s.copies.filter (fun x => decide (x.id ≠ c.id)) ∧ s'.mem = s.mem ∧ s'.groups = s.groups) ∧
  (∀ s copy row cause c sub addr ps t, copyOf s copy = some c → c.left = [c.team] → mayRun s c = true → recvWaits s c c.team = false →
    failsAs s c c.team row cause = some (sub, addr, ps) → c.cd.dstos = false →
    (∀ r ∈ (putChosen (touchPages s c row) c c.team row ps).remotes, r.copy ≠ some c.id) → c.failed = none → teamOf s c.team = some t → t.st = .resident →
    ∃ s' t', exec (.copyFail copy row cause) s = .next s' ∧ teamOf s' c.team = some t' ∧ t'.tagbits.getLsbD c.tag = decide (c.tag < 64) ∧
      t'.tagerr.getLsbD c.tag = decide (c.tag < 64) ∧ (c.tag, cause, sub, BitVec.ofNat 64 addr) ∈ t'.tagrec) ∧
  (∀ s team t l va stage tag s1 w src dst, teamOf s team = some t → t.launch.bind (launchOf s) = some l → t.st = .resident →
    l.plan[t.planNext]? = some (va, stage, tag) → stage ≤ t.stage → tagBusy s team tag = false → copyRoom s (t.core / 4) = true →
    let who : Issuer := ⟨0, t.ctx, t.launch, team, t.core / 4, t.core⟩
    checkCopy s who 0 tag va none none = (s1, .ok (w, src, dst)) →
    copyBehind { s1 with nextId := s1.nextId + 1 } (mkCopy s1.nextId who 0 tag 0 none w src dst) = false →
    exec (.copyPlanIssue team) s = .next (onTeam (takeTag { s1 with nextId := s1.nextId + 1 } (mkCopy s1.nextId who 0 tag 0 none w src dst)) team
      (fun t => { t with planNext := t.planNext + 1 })))

/-- The tag instructions and STAGE: TAGALL and TAGANY go on where their tags have completed, trap where one of them failed, and
park else; TAGFF, TAGRD and TAGCLR read and clear (09 R236, R238, R239). -/
def Obligations.TagsAndStages : Prop :=
  (∀ s g h f t, wideActs g h = true → teamOf s g.team = some t →
    let m := sdesc g f
    let wrong := m &&& ~~~(BitVec.ofNat 64 (2 ^ teamTags s g.team - 1)) ≠ 0
    let done := t.tagbits &&& m
    (Runs s g (.tagall h f) →
      (wrong → Traps (.tagall h f) s s g { cause := 0x10, sub := 0 }) ∧
      (¬wrong → done ≠ m → Moves (.tagall h f) s s g { g with st := .parked, park := some (.tags true true m) }) ∧
      (¬wrong → done = m → done &&& t.tagerr ≠ 0 → Traps (.tagall h f) s s g (copyFault t (done &&& t.tagerr))) ∧
      (¬wrong → done = m → done &&& t.tagerr = 0 →
        Does (.tagall h f) s (orConv s g.team g.id m) g { g with flags := g.flags ||| keptFlags s g.team g.id m } [])) ∧
    (Runs s g (.tagany h f) → isReplay s g.ctx = false →
      (wrong → Traps (.tagany h f) s s g { cause := 0x10, sub := 0 }) ∧
      (¬wrong → done = 0 → m ≠ 0 → Moves (.tagany h f) s s g { g with st := .parked, park := some (.tags false false m) }) ∧
      (¬wrong → done ≠ 0 ∨ m = 0 → done &&& t.tagerr ≠ 0 → Traps (.tagany h f) s s g (copyFault t (done &&& t.tagerr))) ∧
      (¬wrong → done ≠ 0 ∨ m = 0 → done &&& t.tagerr = 0 → Does (.tagany h f) s s g g []))) ∧
  (∀ s g h f t, wideActs g h = true → teamOf s g.team = some t → isReplay s g.ctx = false →
    let all := BitVec.ofNat 64 (2 ^ teamTags s g.team - 1)
    (Runs s g (.tagff h f) → Does (.tagff h f) s s g (writeScalar g (f.fl 0 6) (match lowest (sdesc g f &&& all &&& t.tagbits) with
      | some k => BitVec.ofNat 64 (k + (if t.tagerr.getLsbD k then 256 else 0))
      | none => 64)) []) ∧
    (Runs s g (.tagrd h f) → Does (.tagrd h f) s s g (writeScalar g (f.fl 0 6) ((if f.flags.getLsbD 6 then t.tagerr else t.tagbits) &&& all)) [])) ∧
  (∀ s g h f, wideActs g h = true →
    (Runs s g (.tagclr h f) → Does (.tagclr h f) s (onTeam s g.team (fun t =>
      { t with tagbits := t.tagbits &&& ~~~(sdesc g f), tagerr := t.tagerr &&& ~~~(sdesc g f) })) g g []) ∧
    (Runs s g (.stage h f) → Does (.stage h f) s (onTeam s g.team (fun t => { t with stage := max t.stage ((sdesc g f).toNat % 2 ^ 16) })) g g []) ∧
    (Runs s g (.stageInc h f) → Does (.stageInc h f) s (onTeam s g.team (fun t => { t with stage := min (t.stage + 1) 65535 })) g g []))

/-- The stream instructions: a slot is set from a well-formed record, runs, and ends; a pop gives its thread the oldest element
of the slot, a push takes the thread's; each waits where the slot has none, or has no room, and traps past the last element; what was
pushed before the element of a held fault is still written (08 R199, R201; 09 R240 to R243). That a record's address which is not a
multiple of 64 takes the fault of a malformed record, cause 0x17, is the model's reading (log 23). -/
def Obligations.Streams : Prop :=
  (∀ s g h f, wideActs g h = true → Runs s g (.strmset h f) →
    let va := (sdesc g f).toNat % 2 ^ 57
    let n := f.fl 12 2
    ((slotOf s g.core n).st ≠ .free → Traps (.strmset h f) s s g { cause := 0x16, sub := 0 }) ∧
    ((slotOf s g.core n).st = .free → va % 64 ≠ 0 → Traps (.strmset h f) s s g { cause := 0x17, sub := 0, addr := BitVec.ofNat 64 va }) ∧
    (∀ s1 bs, (slotOf s g.core n).st = .free → va % 64 = 0 → groupRead s g va 64 = (s1, .ok bs) →
      let w := (List.range 8).map (fun i => BitVec.ofNat 64 (leNat ((bs.drop (8 * i)).take 8)))
      (strmMalformed w = false → Does (.strmset h f) s (putSlot s1 g.core n { Stream.empty with st := .set, team := g.team, recd := w }) g g []) ∧
      (strmMalformed w = true → Traps (.strmset h f) s s1 g { cause := 0x17, sub := 0, addr := BitVec.ofNat 64 va }))) ∧
  (∀ s g h f, wideActs g h = true → Runs s g (.strmgo h f) →
    let n := f.fl 12 2
    let x := slotOf s g.core n
    (x.st = .set → x.team = g.team → g.coal = [] → g.fifo = [] → Does (.strmgo h f) s (putSlot s g.core n { x with st := .running }) g g []) ∧
    (x.st ≠ .set ∨ x.team ≠ g.team → Traps (.strmgo h f) s s g { cause := 0x16, sub := 0 })) ∧
  (∀ s g h f, wideActs g h = true → Runs s g (.strmend h f) →
    let n := f.fl 12 2
    let x := slotOf s g.core n
    (x.st ≠ .free → x.team = g.team → strmEnds s g.core n x = true → Does (.strmend h f) s (freeSlot s g.core n) g g []) ∧
    (x.st ≠ .free → x.team = g.team → strmEnds s g.core n x = false →
      Moves (.strmend h f) s (putSlot s g.core n { x with ending := true }) g { g with st := .parked, park := some (.strmend n) }) ∧
    (x.st = .free ∨ x.team ≠ g.team → Traps (.strmend h f) s s g { cause := 0x16, sub := 0 })) ∧
  (∀ s g h f t, wideActs g h = true → threads (liveMask g) = [t] →
    let n := f.fl 12 2
    let x := slotOf s g.core n
    let reg := f.fl 0 11
    let k := max 1 (strmSize x.recd / 4)
    x.st = .running → x.team = g.team → g.core < s.cores.length → n < (coreAt s g.core).streams.length → reg % k = 0 →
    (if g.handler then reg + k ≤ 64 else reg + k ≤ g.nregs) →
    (Runs s g (.strmpop h f) → strmScatters x.recd = false → x.done < strmTotal x.recd →
      (∀ e rest, x.fifo = e :: rest → let s1 := putSlot s g.core n { x with fifo := rest, done := x.done + 1 }
        Answers s g (.strmpop h f) (fun t' g' => Reads s1 t' g g' (.strmpop h f) (fun m =>
            ((wordsFrom reg k (leNat e)).filter (fun w => decide (lineNo g w.1 = m))).map (fun w => (t, w.2))) ∧
          Completed g g' [] ∧ OnlyGroup s1 t' g)) ∧
      (x.fifo = [] → x.bad = none → Moves (.strmpop h f) s s g { g with st := .parked, park := some (.strm n false reg (maskOf [t])) })) ∧
    (Runs s g (.strmpsh h f) → strmScatters x.recd = true → x.done < strmTotal x.recd → x.bad = none →
      ((x.fifo.length + 1) * strmSize x.recd ≤ 2048 → ∀ s1 p, pushCheck s g.core n x = (s1, .ok p) →
        Does (.strmpsh h f) s (putSlot s1 g.core n { x with
          fifo := x.fifo ++ [((List.range k).flatMap (fun i => natLE 4 (readV s1 g (reg + i) t).toNat)).take (strmSize x.recd)], done := x.done + 1 }) g g []) ∧
      ((x.fifo.length + 1) * strmSize x.recd ≤ 2048 → ∀ s1 c b a a2, pushCheck s g.core n x = (s1, .error (.fault c b a a2)) →
        Traps (.strmpsh h f) s (strmHold s1 g.core n x x.done c b a a2) g
          { cause := c, sub := b, addr := BitVec.ofNat 64 a, addr2 := a2, thread := some t }) ∧
      (2048 < (x.fifo.length + 1) * strmSize x.recd →
        Moves (.strmpsh h f) s s g { g with st := .parked, park := some (.strm n true reg (maskOf [t])) })) ∧
    (Runs s g (.strmpop h f) → strmScatters x.recd = false → strmTotal x.recd ≤ x.done →
      Traps (.strmpop h f) s s g { cause := 0x16, sub := 1, thread := some t })) ∧
  (∀ s core slot, let x := slotOf s core slot
    let w := strmWho s core slot x.team
    let va := (((x.recd.getD 0 0).toNat + strmOff x.recd x.moved) % 2 ^ 57).toNat
    x.st = .running → (coreAt s core).drained = false → switching s (core / 4) = false → strmStops x = false → x.moved < strmTotal x.recd → strmInd x.recd = 0 →
    genWaits s w va = false →
    (strmScatters x.recd = false → (x.fifo.length + 1) * strmSize x.recd ≤ 2048 → ∀ s1 bs, genRead s core w va (strmSize x.recd) = (s1, .ok bs) →
      exec (.streamElement core slot) s = .next (dropGot (putSlot s1 core slot { x with moved := x.moved + 1, fifo := x.fifo ++ [bs] }) w.id)) ∧
    (strmScatters x.recd = true → ∀ e rest s1, x.fifo = e :: rest → genWrite s core w va e = .ok s1 →
      exec (.streamElement core slot) s = .next (dropGot (putSlot s1 core slot { x with moved := x.moved + 1, fifo := rest }) w.id)))

namespace Sys2Proof.Claims
open Sys2Proof.Machine

/-- The queue instructions with their field of the descriptor's address and what they ask of the queue (12 R305): the words
that QPUSH sends, the registers and the predicate of a pop, the claim that GLEAN.done ends. -/
def QueueAsks (g : Group) : Instr → Hd → CF → QAsk → Prop := fun i h f a =>
  (i = .qpush h f ∧ a = .push (wordsLE ((List.range 7).map (fun j => g.s.getD (f.fl 0 6 + j) 0)) ++ List.replicate 8 0)) ∨
  (i = .qpushClose h f ∧ a = .close) ∨ (i = .qtry h f ∧ a = .try_ (f.fl 0 6) (f.fl 6 3)) ∨
  (i = .qstat h f ∧ a = .stat (f.fl 0 6)) ∨ (i = .glean h f ∧ a = .glean (f.fl 0 6) (f.fl 6 3)) ∨
  (i = .gleanDone h f ∧ a = .done ((g.s.getD (f.fl 0 6) 0).toNat % 2 ^ 32))

/-- The state in which a request of a group has been sent to its home. -/
def asked (s1 : State) (g : Group) (va : Option Nat) (pa : Nat) (dev : Option Nat) (a : QAsk) (big : Bool := false) : State :=
  { s1 with nextId := s1.nextId + 1, qreqs := s1.qreqs ++ [⟨g.id, s1.nextId, pa, dev, g.seq, a, g.active, va, big⟩] }

/-- A group that waits for its request to be answered. -/
def waiting (g : Group) : Group := { g with st := .parked, park := some .queue }

/-- The outstanding result of a QPOP: the eight scalar registers and the predicate, p7 being discarded (12 R305, R306). -/
def popResult (s1 : State) (g : Group) (h : Hd) (f : CF) : LL :=
  { key := s1.nextId, left := h.la.toNat, need := 1, vregs := [], sregs := (List.range 8).map (fun j => f.fl 0 6 + j),
    pred := if f.fl 6 3 < 7 then some (f.fl 6 3) else none, vec := [], scl := [], pval := false, flags := 0,
    uni := llUniform g (.qpop h f) h, queue := true, mask := g.active }

end Sys2Proof.Claims

/-- A queue instruction sends its request to the descriptor's home and parks its group; the misaligned descriptor and the
refused translation fault; QPOP begins its result; QSTAT faults in replay mode (12 R302, R305, R306; 04 R96). -/
def Obligations.QueueRequests : Prop :=
  ∀ s g i h f, Runs s g i → wideActs g h = true →
    let va := (g.s.getD f.sdesc.toNat 0).toNat % 2 ^ 57
    (∀ a, QueueAsks g i h f a → ((∃ h f, i = .qstat h f) → isReplay s g.ctx = false) →
      (va % 64 ≠ 0 → Traps i s s g { cause := 0x1E, sub := 1 }) ∧
      (va % 64 = 0 → ∀ s1 e, translate s g.cluster (some g.core) g.ctx va .rw = (s1, .error e) →
        Traps i s s1 g { e with addr := BitVec.ofNat 64 va }) ∧
      (va % 64 = 0 → ∀ s1 ph, translate s g.cluster (some g.core) g.ctx va .rw = (s1, .ok ph) →
        Moves i s (asked s1 g (some va) ph.pa ph.dev a ph.big) g (waiting g))) ∧
    (i = .qstat h f → isReplay s g.ctx = true → Traps i s s g { cause := 0x0D, sub := 0 }) ∧
    (i = .qpop h f → va % 64 = 0 → g.ll.length < 16 → ∀ s1 ph, translate s g.cluster (some g.core) g.ctx va .rw = (s1, .ok ph) →
      let l := popResult s1 g h f
      Answers s g i (fun t g' => Reads (asked s1 g (some va) ph.pa ph.dev (.pop (f.fl 0 6) (f.fl 6 3)) ph.big) t g g' i (fun _ => []) ∧
        Counted { waiting g with ll := g.ll ++ [l] } g' (newKey g l.key) ∧
        OnlyGroup (asked s1 g (some va) ph.pa ph.dev (.pop (f.fl 0 6) (f.fl 6 3)) ph.big) t g)) ∧
    (i = .qpop h f → va % 64 ≠ 0 → Traps i s s g { cause := 0x1E, sub := 1 })

namespace Sys2Proof.Claims
open Sys2Proof.Machine

/-- The count of TASKARM and TASKDEC: the low 32 bits, between 1 and 2^31 - 1 (12 R312, R313). -/
def Counts (v : W64) (n : Nat) : Prop := n = v.toNat % 2 ^ 32 ∧ 1 ≤ n ∧ n < 2 ^ 31

/-- The words of a task record. -/
def taskWords (bs : List Byte) : List W64 := (List.range 32).map (fun i => BitVec.ofNat 64 (leNat ((bs.drop (8 * i)).take 8)))

end Sys2Proof.Claims

/-- TASKARM and TASKDEC check their operands and send their request (12 R312, R313). -/
def Obligations.TaskRequests : Prop :=
  (∀ s g h f, Runs s g (.taskarm h f) → wideActs g h = true →
    let i := Instr.taskarm h f
    let ctr := (g.s.getD (f.fl 0 6) 0).toNat % 2 ^ 16
    let va := (g.s.getD f.sdesc.toNat 0).toNat % 2 ^ 57
    (ctr = 0 → Traps i s s g { cause := 0x20, sub := 4 }) ∧
    (ctr ≠ 0 → (∀ n, ¬ Counts (g.s.getD (f.fl 6 6) 0) n) → Traps i s s g { cause := 0x20, sub := 5 }) ∧
    (∀ n, ctr ≠ 0 → Counts (g.s.getD (f.fl 6 6) 0) n → va % 256 ≠ 0 → Traps i s s g { cause := 0x20, sub := 6 }) ∧
    (∀ n s1 bs, ctr ≠ 0 → Counts (g.s.getD (f.fl 6 6) 0) n → va % 256 = 0 → groupRead s g va 256 = (s1, .ok bs) →
      (taskMalformed (taskWords bs) = true → Traps i s s1 g { cause := 0x20, sub := 6 }) ∧
      (taskMalformed (taskWords bs) = false → Moves i s (asked s1 g none 0 none (.arm ctr n (taskWords bs))) g (waiting g))) ∧
    (∀ n s1, ctr ≠ 0 → Counts (g.s.getD (f.fl 6 6) 0) n → va % 256 = 0 → groupRead s g va 256 = (s1, .error none) → exec i s = .next s1)) ∧
  (∀ s g h f, Runs s g (.taskdec h f) → wideActs g h = true →
    let i := Instr.taskdec h f
    let ctr := (g.s.getD (f.fl 0 6) 0).toNat % 2 ^ 16
    (ctr = 0 → Traps i s s g { cause := 0x20, sub := 4 }) ∧
    (ctr ≠ 0 → f.fl 12 1 = 1 → (∀ n, ¬ Counts (g.s.getD (f.fl 6 6) 0) n) → Traps i s s g { cause := 0x20, sub := 5 }) ∧
    (ctr ≠ 0 → f.fl 12 1 = 0 → Moves i s (asked s g none 0 none (.dec ctr 1)) g (waiting g)) ∧
    (∀ n, ctr ≠ 0 → f.fl 12 1 = 1 → Counts (g.s.getD (f.fl 6 6) 0) n → Moves i s (asked s g none 0 none (.dec ctr n)) g (waiting g)))

namespace Sys2Proof.Claims
open Sys2Proof.Machine

/-- The group g has a request r at the home slice of this device, where it comes first, and waits for its answer; what the request
waits for in the group has been performed (12 R298, R303, R307). -/
def Asks (s : State) (g : Group) (r : QReq) : Prop :=
  groupOf s g.id = some g ∧ g.st = .parked ∧ g.halted = false ∧ qreqOf s g.id = some r ∧ r.gid = g.id ∧ r.dev = none ∧
  hasLeft s r = true ∧ behind s r = false

/-- No pop waits at a queue. -/
def NoPopWaits (s : State) (pa : Nat) : Prop := ∀ c ∈ s.claims, c.qpa = pa → c.ent = none → c.closed = true

/-- The group g goes on after its instruction, with the request answered; k is what the answer left of it. -/
def GoesOn (t : State) (g k : Group) : Prop :=
  groupOf t g.id = some (nextPos { k with st := .ready, park := none, refetch := true }) ∧ qreqOf t g.id = none

/-- The home refuses a request: its fault is raised at the instruction, and no result of it is outstanding (12 R302). -/
def Refuses (s : State) (g : Group) (r : QReq) (c : TrapInfo) : Prop :=
  exec (.queueAccept g.id) s = .next (wakeTrap (onGroup { s with qreqs := s.qreqs.filter (fun x => decide (x.gid ≠ g.id)) } g.id
    (fun g => { g with ll := g.ll.filter (fun l => decide (l.key ≠ r.key)) })) g.id c)

/-- The queue q is what the device holds at its place, and its live words stand in its descriptor (12 R296, R297). -/
def Holds (t : State) (q : Queue) : Prop :=
  queueAt t q.pa = some q ∧ memBytes t.mem (q.pa + 0x20) 16 =
    natLE 8 ((readyEnts q).length + 2 ^ 21 * claimedCount q + 2 ^ 42 * q.st + (if q.marked then 2 ^ 44 else 0)) ++ natLE 8 q.next

/-- The claim that a pop or glean makes of an entry, or its closed or empty result. -/
def claimOf (r : QReq) (q : Queue) (d p : Nat) (direct gleaned : Bool) (e : Option QEntry) : Claim :=
  { gid := r.gid, key := r.key, qpa := r.pa, ctx := q.ctx, d := d, p := p, direct := direct,
    done := if q.gleanOk || gleaned then 0 else q.doneCtr, ent := e, closed := e.isNone, gleaned := gleaned, raw := decide (q.sys ≠ 0),
    ofDev := decide (2 ≤ q.sys), mask := r.mask }

end Sys2Proof.Claims

/-- What the home slice of an open queue does with a request: a push appends its entry under the next sequence number, in a FIFO
queue at its slot of STORE; a close lets the queue close; a pop claims the head, and an empty queue makes QTRY return empty; a
glean claims the tail for a member of the neighbourhood; GLEAN.done frees the claimed slot; QSTAT reads the live word; a refusal
is a fault at the instruction (12 R296 to R301, R305 to R309). -/
def Sys2Proof.Claims.QueuesServeRequests : Prop :=
  ∀ s g r q, s.canon = true → Asks s g r → queueAt s r.pa = some q → q.pa = r.pa → q.st = 1 → NoPopWaits s q.pa →
    let refused := Refuses s g r
    (∀ bytes, r.ask = .push bytes → q.sys < 2 → q.ents.length < q.cap →
      ∃ t, exec (.queueAccept g.id) s = .next t ∧ GoesOn t g g ∧
        Holds t { q with next := q.next + 1, ents := q.ents ++ [⟨q.next, bytes, [(r.gid, r.stamp)], [], none⟩] } ∧
        ∀ ph, q.edf = false → peek s q.ctx ((q.store + 64 * (q.next % q.cap)) % 2 ^ 57) .wr = .ok ph → ph.dev = none → bytes.length = 64 →
          (ph.pa + 64 ≤ q.pa + 0x20 ∨ q.pa + 0x30 ≤ ph.pa) → memBytes t.mem ph.pa 64 = bytes) ∧
    (∀ bytes, r.ask = .push bytes → 2 ≤ q.sys → refused { cause := 0x1E, sub := 4 }) ∧
    (r.ask = .close → q.sys = 0 → q.ents ≠ [] →
      ∃ t, exec (.queueAccept g.id) s = .next t ∧ GoesOn t g g ∧ Holds t { q with st := 2 }) ∧
    (r.ask = .close → q.sys = 0 → q.ents = [] →
      ∃ t, exec (.queueAccept g.id) s = .next t ∧ GoesOn t g g ∧ queueAt t q.pa = none ∧
        memBytes t.mem (q.pa + 0x20) 16 = natLE 8 (2 ^ 42 * 3 + (if q.marked then 2 ^ 44 else 0)) ++ natLE 8 q.next) ∧
    (∀ d p e, (r.ask = .pop d p ∨ r.ask = .try_ d p) → q.sys ≠ 1 → mayPop (askerOf s g r) q = true → queueHead s q = some e →
      ∃ t, exec (.queueAccept g.id) s = .next t ∧ Holds t (claimEntry q e g.team false) ∧
        t.claims = s.claims ++ [claimOf r q d p (decide (r.ask = .try_ d p)) false (some e)] ∧
        (r.ask = .pop d p → GoesOn t g g) ∧ (r.ask = .try_ d p → groupOf t g.id = some g)) ∧
    (∀ d p, (r.ask = .pop d p ∨ r.ask = .try_ d p) → q.sys ≠ 1 → mayPop (askerOf s g r) q = false → refused { cause := 0x1F, sub := 0 }) ∧
    (∀ d p, (r.ask = .pop d p ∨ r.ask = .try_ d p ∨ r.ask = .glean d p) → q.sys = 1 → refused { cause := 0x1E, sub := 4 }) ∧
    (∀ d p, r.ask = .try_ d p → isReplay s g.ctx = false → q.sys ≠ 1 → mayPop (askerOf s g r) q = true → queueHead s q = none →
      ∃ t, exec (.queueAccept g.id) s = .next t ∧ t.claims = s.claims ++ [claimOf r q d p true false none] ∧
        queueAt t q.pa = some q ∧ groupOf t g.id = some g) ∧
    (∀ d p, r.ask = .pop d p → q.sys ≠ 1 → mayPop (askerOf s g r) q = true → queueHead s q = none →
      ∃ t, exec (.queueAccept g.id) s = .next t ∧ t.claims = s.claims ++ [{ claimOf r q d p false false none with closed := false }] ∧
        queueAt t q.pa = some q ∧ GoesOn t g g) ∧
    (∀ d p e, r.ask = .glean d p → q.sys ≠ 1 → q.gleanOk = true → q.marked = true → mayGlean s (askerOf s g r) q = true → queueTail s q = some e →
      ∃ t, exec (.queueAccept g.id) s = .next t ∧ Holds t (claimEntry q e g.team true) ∧
        t.claims = s.claims ++ [claimOf r q d p true true (some e)] ∧ groupOf t g.id = some g) ∧
    (∀ seq e, r.ask = .done seq → q.doneCtr = 0 →
      q.ents.find? (fun e => decide (e.seq % 2 ^ 32 = seq) && decide (e.claimer = some g.team)) = some e →
      ∃ t, exec (.queueAccept g.id) s = .next t ∧ GoesOn t g g ∧ Holds t { q with ents := q.ents.filter (fun x => decide (x.seq ≠ e.seq)) }) ∧
    (∀ seq, r.ask = .done seq →
      q.ents.find? (fun e => decide (e.seq % 2 ^ 32 = seq) && decide (e.claimer = some g.team)) = none → refused { cause := 0x1E, sub := 5 }) ∧
    (∀ d, r.ask = .stat d → ∃ t, exec (.queueAccept g.id) s = .next t ∧
      GoesOn t g (writeScalar g d (BitVec.ofNat 64 (memNat s.mem (q.pa + 0x20) 8))))

/-- A request to an IDLE queue opens it, which counts against the context's NQUEUE; a malformed descriptor and the limit refuse
it, and a push to a CLOSED queue is refused; a pop or QTRY of a CLOSED queue receives the closed result (12 R296, R297, R306,
R309). -/
def Sys2Proof.Claims.QueuesOpen : Prop :=
  ∀ s g r c rec, s.canon = true → Asks s g r → queueAt s r.pa = none → s.contexts[g.ctx]? = some c → c.recd = some rec →
    let closed := bits (memNat s.mem (r.pa + 0x20) 8) 42 2 = 3
    (∀ d q, r.ask = .stat d → ¬ closed → readQueue s r.pa g.ctx 0 = some q → c.openQ < rec.nqueue →
      ∃ t, exec (.queueAccept g.id) s = .next t ∧ Holds t q ∧ t.contexts[g.ctx]? = some { c with openQ := c.openQ + 1 }) ∧
    (∀ d, r.ask = .stat d → ¬ closed → readQueue s r.pa g.ctx 0 = none → Refuses s g r { cause := 0x1E, sub := 1 }) ∧
    (∀ d q, r.ask = .stat d → ¬ closed → readQueue s r.pa g.ctx 0 = some q → rec.nqueue ≤ c.openQ → Refuses s g r { cause := 0x1E, sub := 2 }) ∧
    (∀ bytes, r.ask = .push bytes → closed → Refuses s g r { cause := 0x1E, sub := 3 }) ∧
    (∀ d p, r.ask = .pop d p → closed → mayPop (askerOf s g r) (descQueue (descWords s r.pa) r.pa g.ctx 0) = false →
      Refuses s g r { cause := 0x1F, sub := 0 }) ∧
    (∀ d p, r.ask = .pop d p → closed → mayPop (askerOf s g r) (descQueue (descWords s r.pa) r.pa g.ctx 0) = true →
      ∃ t cl, exec (.queueAccept g.id) s = .next t ∧ t.claims = s.claims ++ [cl] ∧ cl.gid = r.gid ∧ cl.key = r.key ∧ cl.ent = none ∧
        cl.closed = true ∧ GoesOn t g g)

/-- The result of a claim is written once the entry's stamps are met and no frequency switch holds its group (18 R414): the eight words,
of which the last is the sequence number and GLEANED, with the L1 of the consumer's core emptied; the predicate says whether there is an
entry, which begins its budget interval (12 R299, R303, R305, R306, R308, R310). -/
def Obligations.ClaimsAreWritten : Prop :=
  ∀ s g c, groupOf s g.id = some g → g.st = .parked → g.halted = false → switchHolds s g = false → c.gid = g.id → c.raw = false → c.ofDev = false → c.done = 0 → g.s.length = 64 →
    s.claims.find? (fun c => decide (c.gid = g.id) && claimReady s c && (!c.direct || decide (g.st = .parked) || decide (g.st = .saved))) = some c →
    let words := fun (j : Nat) => match c.ent with
      | none => (0 : W64)
      | some e => if j = 7 then BitVec.ofNat 64 (e.seq % 2 ^ 32 + (if c.gleaned then 2 ^ 32 else 0)) else wAt e.bytes (8 * j)
    let interval := fun (g : Group) => match c.ent with
      | none => g
      | some e => { g with budget := leNat ((e.bytes.drop 8).take 4), left := leNat ((e.bytes.drop 8).take 4), deadline := wAt e.bytes 0 }
    ∃ t g', exec (.claimResult g.id) s = .next t ∧ groupOf t g.id = some g' ∧ t.claims = s.claims.filter (fun x => decide (x ≠ c)) ∧
      (c.ent.isSome → (coreAt t g.core).l1 = []) ∧
      (c.direct = true → c.d + 8 ≤ 64 →
        (∀ j, j < 8 → g'.s.getD (c.d + j) 0 = words j) ∧ (∀ j, j < c.d ∨ c.d + 8 ≤ j → g'.s.getD j 0 = g.s.getD j 0) ∧
        g'.st = .ready ∧ g'.budget = (interval g).budget ∧ g'.left = (interval g).left ∧ g'.deadline = (interval g).deadline ∧
        ∀ p, p < 7 → g.p.length = 7 → predMask g' p =
          if p = c.p then (predMask g p &&& ~~~c.mask) ||| (if c.ent.isSome then c.mask else 0) else predMask g p) ∧
      (c.direct = false → g' = { interval g with ll := g.ll.map (fun l =>
        if l.key = c.key then { l with need := 0, scl := (List.range 8).map (fun j => (c.d + j, words j)), pval := c.ent.isSome } else l) })

namespace Sys2Proof.Claims
open Sys2Proof.Machine

/-- A dependence counter holds a value, armed with a task, or not (12 R311). -/
def CtrIs (s : State) (ctx n : Nat) (v : Int) (armed : Option (List W64)) : Prop :=
  (ctrOf s ctx n).val = v ∧ (ctrOf s ctx n).armed = armed.isSome ∧ (∀ w, armed = some w → (ctrOf s ctx n).task = w)

/-- A task has fired: its counter is IDLE with value 0, and its 56 bytes wait to be pushed to its queue (12 R312, R314). -/
def Fires (t : State) (ctx n : Nat) (w : List W64) : Prop :=
  CtrIs t ctx n 0 none ∧ ∃ f ∈ t.fired, f.ctx = ctx ∧ f.queue = w.getD 0 0 ∧
    f.bytes = wordsLE ([1, 2, 4, 5, 6, 7, 8].map (fun i => w.getD i 0)) ++ List.replicate 8 0 ∧
    f.regions = (List.range (bits (w.getD 3 0).toNat 0 4)).map (fun i => ((w.getD (16 + 2 * i) 0).toNat, (w.getD (17 + 2 * i) 0).toNat))

end Sys2Proof.Claims

/-- A dependence counter counts down; TASKARM adds its count and holds the task until the value is 0; the decrement, or the
arming, that reaches 0 fires the task; the underflow, an armed counter and the end of the range are refused (12 R311 to R314). -/
def Sys2Proof.Claims.CountersFireTasks : Prop :=
  ∀ s g r, Asks s g r → g.ctx < s.contexts.length →
    let x := ctrOf s g.ctx
    let refused := fun (sub : Nat) => Refuses s g r { cause := 0x20, sub := sub }
    (∀ n k, r.ask = .dec n k →
      ((x n).armed = false → -2 ^ 31 ≤ (x n).val - k →
        ∃ t, exec (.queueAccept g.id) s = .next t ∧ GoesOn t g g ∧ CtrIs t g.ctx n ((x n).val - k) none) ∧
      ((x n).armed = false → (x n).val - k < -2 ^ 31 → refused 1) ∧
      ((x n).armed = true → k < (x n).val →
        ∃ t, exec (.queueAccept g.id) s = .next t ∧ GoesOn t g g ∧ CtrIs t g.ctx n ((x n).val - k) (some (x n).task)) ∧
      ((x n).armed = true → (k : Int) = (x n).val → ∃ t, exec (.queueAccept g.id) s = .next t ∧ GoesOn t g g ∧ Fires t g.ctx n (x n).task) ∧
      ((x n).armed = true → (x n).val < k → refused 2)) ∧
    (∀ n k w, r.ask = .arm n k w →
      ((x n).armed = true → refused 3) ∧ ((x n).armed = false → (x n).val + k < 0 → refused 2) ∧
      ((x n).armed = false → (x n).val + k = 0 → ∃ t, exec (.queueAccept g.id) s = .next t ∧ GoesOn t g g ∧ Fires t g.ctx n w) ∧
      ((x n).armed = false → 0 < (x n).val + k → ∃ t, exec (.queueAccept g.id) s = .next t ∧ GoesOn t g g ∧ CtrIs t g.ctx n ((x n).val + k) (some w)))

/-- A task that fired is pushed to its queue once the stores in its regions have been performed, tasks for one queue in firing
order, over a link where the queue lies on another device; a queue that refuses it makes its launch fail (12 R314; 17 R402). -/
def Sys2Proof.Claims.TasksArePushed : Prop :=
  ∀ s f s1 ph, s.canon = true → s.fired.find? (fun x => decide (x.key = f.key)) = some f → f.sent = false → firedReady s f = true →
    (∀ x ∈ s.fired.takeWhile (fun x => decide (x.key ≠ f.key)), x.ctx = f.ctx → x.queue = f.queue → x.sent = false ∧ firedReady s x = false) →
    walkNow s f.ctx (f.queue.toNat % 2 ^ 57) .rw = (s1, .ok ph) →
    (ph.dev = none → ∀ q, queueAt s ph.pa = some q → q.pa = ph.pa →
      (q.sys < 2 → q.st = 1 → q.ents.length < q.cap → NoPopWaits s q.pa →
        ∃ t, exec (.taskPush f.key) s = .next t ∧ t.fired = s.fired.filter (fun x => decide (x.key ≠ f.key)) ∧
          Holds t { q with next := q.next + 1, ents := q.ents ++ [⟨q.next, f.bytes, [], f.regions, none⟩] }) ∧
      ((2 ≤ q.sys ∨ q.st = 2) → exec (.taskPush f.key) s = .next (faultRecord
        { s1 with fired := s.fired.filter (fun x => decide (x.key ≠ f.key)) } { ctx := f.ctx, launch := f.launch } true 0x4C 0))) ∧
    (∀ d, ph.dev = some d → canSend s1 d ph.pa = true → ∃ t, exec (.taskPush f.key) s = .next t ∧
      t.fired = s.fired.map (fun x => if x.key = f.key then { x with sent := true } else x))

namespace Sys2Proof.Claims
open Sys2Proof.Machine

/-- A bin is launched from s to t: it is freed, and its owner team has one more group, in PENDING, with thread i holding the
i-th deposit in v0 and v1, the other threads not active, and ARGS in s0 (06 R139, R141). -/
def BinLaunched (s t : State) (c : Nat) (b : Bin) : Prop :=
  (clusterAt t c).bins = (clusterAt s c).bins.filter (fun x => decide (x.num ≠ b.num)) ∧ t.teams = s.teams ∧ t.mem = s.mem ∧
  ∀ team l, teamOf s b.owner = some team → launchOf s b.launch = some l →
    ∃ k, t.groups = s.groups ++ [k] ∧ k.st = .pending ∧ k.team = team.id ∧ k.launch = team.launch ∧ k.width = l.recd.width ∧
      k.nregs = l.recd.nregs ∧ k.pc.toNat = b.entry.toNat % 2 ^ 57 ∧ k.after = b.from_ ∧ k.atHdr = true ∧ k.stack = [] ∧
      k.s = l.recd.args :: List.replicate 63 0 ∧ k.idx < 65536 ∧
      (∀ i, k.active.getLsbD i = decide (i < min 64 b.deps.length)) ∧
      ∀ i d, i < l.recd.width → b.deps[i]? = some d → readV t k 0 i = d.1 ∧ readV t k 1 i = d.2

/-- The key of a thread's deposit (06 R137). -/
def keyOf (s : State) (g : Group) (entry : W64) (p t : Nat) : BinKey :=
  ⟨g.launch.getD 0, entry, (readV s g (p + 2) t).toNat % 2 ^ 16, if isReplay s g.ctx then some (g.team, g.idx) else none⟩

/-- The payload of a thread's deposit. -/
def payOf (s : State) (g : Group) (p t : Nat) : W32 × W32 := (readV s g p t, readV s g (p + 1) t)

/-- A bin with one deposit more, and the count of the depositor's requests (06 R138, R141). -/
def more (b : Bin) (g : Group) (pay : W32 × W32) : Bin :=
  { b with deps := b.deps ++ [pay], from_ := b.from_.filter (fun x => decide (x.1 ≠ g.id)) ++ [(g.id, g.seq)] }

end Sys2Proof.Claims

/-- SPAWN: refused to an activation; the entry address faults before any deposit; the threads of its predicate deposit in
ascending order, and in replay mode the group parks with the threads that found no bin; a bin that a deposit fills launches
(06 R137 to R140; 16 R374). -/
def Sys2Proof.Claims.SpawnDeposits : Prop :=
  (∀ s g h f, s.cur = some g.id → groupOf s g.id = some g → g.launch = none → Traps (.spawn h f) s s g { cause := 3, sub := 0 }) ∧
  (∀ s g h f, Runs s g (.spawn h f) →
    let entry := (g.s.getD f.sdesc.toNat 0).toNat % 2 ^ 57
    let bad : TrapInfo := { cause := 0x0F, sub := 0, addr := BitVec.ofNat 64 entry }
    (wideActs g h = false → Does (.spawn h f) s s g g []) ∧
    (wideActs g h = true → entry % 8 ≠ 0 → Traps (.spawn h f) s s g bad) ∧
    (wideActs g h = true → entry % 8 = 0 → ∀ s1, (∃ e, translate s g.cluster (some g.core) g.ctx entry .fetch = (s1, .error e)) →
      Traps (.spawn h f) s s1 g bad) ∧
    (wideActs g h = true → entry % 8 = 0 → ∀ s1 ph s2 rest, translate s g.cluster (some g.core) g.ctx entry .fetch = (s1, .ok ph) →
      deposits g (BitVec.ofNat 64 entry) (f.fl 0 11) (2 ^ (10 + f.asrc.toNat)) (threads (predMask g (f.fl 11 3) &&& g.active)) 0 s1 = (s2, rest) →
      (rest = [] → Does (.spawn h f) s s2 g g []) ∧
      (rest ≠ [] →
        let p := Park.spawn (BitVec.ofNat 64 entry) (f.fl 0 11) (2 ^ (10 + f.asrc.toNat)) (maskOf rest)
        Moves (.spawn h f) s s2 g { g with st := .parked, park := some p }))) ∧
  (∀ s g entry p timer n t, g.cluster < s.clusters.length →
    let k := keyOf s g entry p t
    let bins := (clusterAt s g.cluster).bins
    let with_ := fun (b : Bin) => bins.filter (fun x => decide (x.num ≠ b.num)) ++ [more b g (payOf s g p t)]
    (∀ b, bins.find? (fun b => b.hasKey k) = some b → b.deps.length + 1 < g.width →
      ∃ s', deposit s g entry p timer n t = some s' ∧ (clusterAt s' g.cluster).bins = with_ b ∧ s'.groups = s.groups) ∧
    (∀ b, bins.find? (fun b => b.hasKey k) = some b → g.width ≤ b.deps.length + 1 →
      ∃ s1 s', deposit s g entry p timer n t = some s' ∧ (clusterAt s1 g.cluster).bins = with_ b ∧ s1.groups = s.groups ∧
        BinLaunched s1 s' g.cluster (more b g (payOf s g p t))) ∧
    (∀ num, bins.find? (fun b => b.hasKey k) = none → num < 64 → (∀ b ∈ bins, b.num ≠ num) → (∀ m, m < num → ∃ b ∈ bins, b.num = m) → 1 < g.width →
      ∃ s', deposit s g entry p timer n t = some s' ∧ s'.groups = s.groups ∧
        (clusterAt s' g.cluster).bins = with_ ⟨num, k.launch, k.entry, k.key, k.replay, g.team, timer, cyclesOf s g.cluster + n, [], []⟩) ∧
    (bins.find? (fun b => b.hasKey k) = none → (∀ m, m < 64 → ∃ b ∈ bins, b.num = m) → isReplay s g.ctx = true →
      deposit s g entry p timer n t = none) ∧
    (∀ b, bins.find? (fun b => b.hasKey k) = none → (∀ m, m < 64 → ∃ b ∈ bins, b.num = m) → isReplay s g.ctx = false → 1 < g.width →
      oldestBin s g.cluster = some b →
      ∃ s1 s', BinLaunched s s1 g.cluster b ∧ deposit s g entry p timer n t = some s' ∧ s'.groups = s1.groups))

/-- BINFL launches the bins of the group's launch that hold its entry address, BINFL.all every one of them, in replay mode those
of the group alone, in ascending number; a timer that expires launches its bin, and in replay mode none does (06 R139, R142;
04 R96). -/
def Sys2Proof.Claims.BinsAreLaunched : Prop :=
  (∀ s g h f i, (i = .binfl h f ∨ i = .binflAll h f) → Runs s g i →
    (g.launch = none → Traps i s s g { cause := 3, sub := 0 }) ∧
    (g.launch ≠ none → wideActs g h = true →
      let mine := fun (b : Bin) => some b.launch = g.launch ∧ (isReplay s g.ctx = true → b.replay = some (g.team, g.idx)) ∧
        (i = .binfl h f → b.entry.toNat = (g.s.getD f.sdesc.toNat 0).toNat % 2 ^ 57)
      ((∀ b ∈ (clusterAt s g.cluster).bins, ¬ mine b) → Does i s s g g []) ∧
      (∀ b, g.cluster < s.clusters.length → b ∈ (clusterAt s g.cluster).bins → b.num < 64 → mine b →
        (∀ x ∈ (clusterAt s g.cluster).bins, x ≠ b → ¬ mine x ∧ x.num ≠ b.num) →
        ∃ s', BinLaunched s s' g.cluster b ∧ Does i s s' g g []))) ∧
  (∀ s c n b, c < s.clusters.length → (clusterAt s c).bins.find? (fun b => decide (b.num = n)) = some b → b.replay = none →
    b.start + b.timer ≤ cyclesOf s c → ∃ t, exec (.binTimerExpire c n) s = .next t ∧ BinLaunched s t c b)

/-- The faults of a word come before its operation, in this order: illegal-instruction, with the registers of handler mode, the
register of a stream's element that is not a multiple of the number it takes, and SPAWN in an activation; privileged-instruction;
register-bound (03 R70, R72 to R74; 06 R138; 09 R242; 16 R391). -/
def Sys2Proof.Claims.FaultsOfAWord : Prop :=
  ∀ s g i, i.parts ≠ none → s.cur = some g.id → groupOf s g.id = some g →
    let regs := spanRegs (vreads i ++ vwrites i ++ strmSpan s g i)
    let priv := ((ctxRec s g.ctx).map (fun (r : CRec) => r.priv)).getD false
    let fine := i.wf = true ∧ illegalHere s g i = false
    (i.wf = false → Traps i s s g { cause := 3, sub := 0 }) ∧
    (((∃ h f, i = .spawn h f) ∧ g.launch = none ∨ ∃ p ∈ strmSpan s g i, p.1 % p.2 ≠ 0) → Traps i s s g { cause := 3, sub := 0 }) ∧
    (fine → g.handler = true → (∃ r ∈ regs, 64 ≤ r) → Traps i s s g { cause := 3, sub := 0 }) ∧
    (fine → (g.handler = true → ∀ r ∈ regs, r < 64) → isPrivileged i = true → priv = false → Traps i s s g { cause := 4, sub := 0 }) ∧
    (fine → g.handler = false → (isPrivileged i = true → priv = true) → (∃ r ∈ regs, g.nregs ≤ r) → Traps i s s g { cause := 5, sub := 0 })

/-- A group-wide instruction whose lowest active thread does not qualify takes its turn and has no effect: every one but BRD,
whose predicate is no guard, and those that the memory family gives (03 R64). -/
def Sys2Proof.Claims.UnqualifiedGroupWide : Prop :=
  ∀ s g i op h f, i.parts = some (op, h, f) → 0xC0 ≤ op → (op < 0x100 ∨ 0x114 ≤ op) → op ≠ 0x0E2 → g.launch ≠ none →
    Runs s g i → wideActs g h = false → Does i s s g g []

/-- TRAP and BKPT, of format I with D and A zero, raise their traps with the immediate as information, which in handler mode are double
faults; TFENCE, whose low 46 bits are zero, raises the arithmetic trap where an enabled flag is set, once no result is outstanding, and
keeps FLAGS; resumption is after them (16 R392, R393). -/
def Obligations.SoftwareTraps : Prop :=
  (∀ h f, (Instr.trap h f).parts = some (0x0EA, h, .i f) ∧ ((Instr.trap h f).wf = true ↔ h.u = false ∧ f.d = 0 ∧ f.a = 0) ∧
    (Instr.bkpt h f).parts = some (0x0EC, h, .i f) ∧ ((Instr.bkpt h f).wf = true ↔ h.u = false ∧ f.d = 0 ∧ f.a = 0)) ∧
  (∀ h f, (Instr.tfence h f).parts = some (0x0EB, h, .b f) ∧ ((Instr.tfence h f).wf = true ↔ h.u = false ∧ f.joff = 0 ∧ f.off = 0)) ∧
  (∀ s g h f i c, ((i = .trap h f ∧ c = 0x25) ∨ (i = .bkpt h f ∧ c = 0x26)) → Runs s g i → wideActs g h = true → g.handler = true →
    g.ll = [] → ∃ r, exec i s = .next (faultRecord (setGroup s r) { groupOrigin s (flushWin s g) with addr := 0, at_ := none } true 0x27 c) ∧ r.id = g.id ∧
      r.st = .retiring ∧ r.active = 0 ∧ r.stack = []) ∧
  (∀ s g h f, Runs s g (.trap h f) → wideActs g h = true →
    Traps (.trap h f) s s g { cause := 0x25, sub := 0, after := true, info := f.imm.zeroExtend 64 }) ∧
  (∀ s g h f, Runs s g (.bkpt h f) → wideActs g h = true →
    Traps (.bkpt h f) s s g { cause := 0x26, sub := 0, after := true, info := f.imm.zeroExtend 64 }) ∧
  (∀ s g h f, Runs s g (.tfence h f) → wideActs g h = true →
    (g.ll ≠ [] → exec (.tfence h f) s = .next s) ∧
    (g.ll = [] → g.flags &&& g.flagen ≠ 0 →
      Traps (.tfence h f) s s g { cause := 0x24, sub := 0, after := true, info := (g.flags &&& g.flagen).zeroExtend 64 }) ∧
    (g.ll = [] → g.flags &&& g.flagen = 0 → Does (.tfence h f) s s g g []))

namespace Sys2Proof.Claims
open Sys2Proof.Machine

/-- The special registers that one word gives at once (16 R394). -/
def specials (s : State) (g : Group) (team : Team) : List (Nat × W64) :=
  let ofLaunch := fun (k : Launch → W64) => match groupLaunch s g with
    | some l => k l
    | none => 0
  [(1, BitVec.ofNat 64 (g.lane % 16)), (2, BitVec.ofNat 64 g.idx), (3, BitVec.ofNat 64 team.index),
   (4, ofLaunch (fun l => BitVec.ofNat 64 (if l.recd.span = 0 then 0 else team.index % (l.recd.span + 1)))),
   (5, ofLaunch (fun l => l.lid)), (6, BitVec.ofNat 64 (g.lane / 16)), (7, BitVec.ofNat 64 (g.lane / 64)),
   (8, BitVec.ofNat 64 (dieOf (g.lane / 64))), (10, BitVec.ofNat 64 g.width), (11, g.active),
   (12, g.flags.zeroExtend 64), (13, g.flagen.zeroExtend 64), (14, g.rmode.zeroExtend 64), (15, team.tagbits), (16, team.tagerr),
   (19, team.trapbase), (21, BitVec.ofNat 64 g.liveIdx), (22, BitVec.ofNat 64 (if g.budget = 0 then 0 else g.left)), (23, g.deadline),
   (24, BitVec.ofNat 64 g.ctx), (25, ofLaunch (fun l => BitVec.ofNat 64 l.cls))]

/-- The outstanding result of SREAD of a counter: the counter, or in replay mode the instructions that the group has issued. -/
def counterResult (s : State) (g : Group) (h : Hd) (f : RF) : LL :=
  { key := s.nextId, left := h.la.toNat, need := 0, vregs := [], sregs := [f.d.toNat], pred := none, vec := [],
    scl := [(f.d.toNat, if isReplay s g.ctx then BitVec.ofNat 64 g.issued
      else if f.mod = 17 then BitVec.ofNat 64 (cyclesOf s g.cluster) else BitVec.ofNat 64 s.fcycles)], pval := false, flags := 0,
    uni := llUniform g (.sread h f) h, mask := g.active }

end Sys2Proof.Claims

/-- SREAD reads each special register: TID per thread, the counters as a long-latency result, FLAGS once no result is
outstanding; SWRITE writes FLAGS, FLAGEN, RMODE and TRAPBASE, of which bits [56:3] are kept (16 R379, R394; 02 R53, R54). That SWRITE
of FLAGS too waits for the outstanding results is the model's choice (log entry 15). -/
def Obligations.SpecialRegisters : Prop :=
  (∀ s g h f team n v, Runs s g (.sread h f) → wideActs g h = true → teamOf s g.team = some team → (n, v) ∈ specials s g team →
    f.mod.toNat = n → (n = 12 → g.ll = []) → Does (.sread h f) s s g (writeScalar g f.d.toNat v) []) ∧
  (∀ s g h f r, Runs s g (.sread h f) → wideActs g h = true → ctxRec s g.ctx = some r →
    (f.mod = 20 → Does (.sread h f) s s g (writeScalar g f.d.toNat (BitVec.ofNat 64 (r.sbase + 2048 * g.slot))) []) ∧
    (f.mod = 26 → Does (.sread h f) s s g (writeScalar g f.d.toNat r.grant) []) ∧
    (f.mod = 9 → Does (.sread h f) s s g (writeScalar g f.d.toNat (BitVec.ofNat 64 (deviceId s))) [])) ∧
  (∀ s g h f, Runs s g (.sread h f) → wideActs g h = true →
    (f.mod = 0 → Answers s g (.sread h f) (fun t g' =>
      Reads s t g g' (.sread h f) (fun n => if n = lineNo g f.d.toNat then (threads g.active).map (fun x => (x, BitVec.ofNat 32 x)) else []) ∧
      Completed g g' [] ∧ OnlyGroup s t g)) ∧
    (f.mod = 12 → g.ll ≠ [] → exec (.sread h f) s = .next s) ∧
    ((f.mod = 17 ∨ f.mod = 18) → g.ll.length < 16 → Begins (.sread h f) s { s with nextId := s.nextId + 1 } g (counterResult s g h f)) ∧
    ((f.mod = 17 ∨ f.mod = 18) → 16 ≤ g.ll.length → exec (.sread h f) s = .next s)) ∧
  (∀ s g h f, Runs s g (.swrite h f) → wideActs g h = true →
    let v := readScalar g f.a.toNat
    (f.mod = 12 → g.ll ≠ [] → exec (.swrite h f) s = .next s) ∧
    (f.mod = 12 → g.ll = [] → Does (.swrite h f) s s g { g with flags := v.truncate 7 } []) ∧
    (f.mod = 13 → Does (.swrite h f) s s g { g with flagen := v.truncate 7 } []) ∧
    (f.mod = 14 → Does (.swrite h f) s s g { g with rmode := v.truncate 4 } []) ∧
    (f.mod = 19 → Does (.swrite h f) s (onTeam s g.team (fun x => { x with trapbase := BitVec.ofNat 64 (v.toNat % 2 ^ 57 / 8 * 8) })) g g []))

/-- Taking an exception: it waits for the outstanding results, and a breakpoint without a handler for the group's stores, and keeps
the cycle at which it was detected; the frame and the slot are written; the handler starts with every
thread, its stack and flags cleared, the address of the frame in k0 and k1, at TRAPBASE, with the other registers kept; in
handler mode it is a double fault; without a handler the group stops and its launch fails, but a breakpoint halts the group
alone (16 R380, R382, R389; 04 R86; 03 R66). -/
def Obligations.TakingAnException : Prop :=
  ∀ s g c team, groupOf s g.id = some g → teamOf s g.team = some team →
    let k := flushWin s (applyAll s g)
    let alone := g.handler = false ∧ team.trapbase = 0 ∧ c.cause = 0x26
    let waits := (∃ l ∈ g.ll, l.need ≠ 0) ∨ alone ∧ (g.coal ≠ [] ∨ g.fifo ≠ [] ∨ ∃ r ∈ s.flight, r.gid = g.id)
    (waits → takeTrap s g c = setGroup s { g with pendTrap := some { c with at_ := some (c.at_.getD s.fcycles) } }) ∧
    (¬ waits →
      (g.pendTrap = some c → g.st ≠ .saved → g.halted = false → tearing s g.ctx = false → switchHolds s g = false →
        exec (.trapEntry g.id) s = .next (takeTrap s g c)) ∧
      (g.handler = true → ∃ r, takeTrap s g c = faultRecord (setGroup s r) { groupOrigin s k with addr := c.addr, at_ := c.at_ } true 0x27 c.cause ∧
        r.id = g.id ∧ r.st = .retiring ∧ r.active = 0 ∧ r.stack = []) ∧
      (g.handler = false → team.trapbase = 0 → c.cause ≠ 0x26 →
        ∃ r, takeTrap s g c = faultRecord (setGroup s r) { groupOrigin s k with addr := c.addr, at_ := c.at_ } true c.cause c.sub ∧
        r.id = g.id ∧ r.st = .retiring ∧ r.active = 0 ∧ r.stack = []) ∧
      (g.handler = false → team.trapbase = 0 → c.cause = 0x26 →
        let r := Group.named { k with pos := k.pos + 1, pendTrap := none, remain := none } s
        let halt := { r with halted := true, refetch := true, lines := [], st := if r.st = .running then .ready else r.st }
        ∀ s1 s2, writeLines s r (fun _ => true) = some s1 → saveSlot s1 r (saveFrame s1 r 0x2A true) = some s2 →
          takeTrap s g c = faultRecord (setGroup s2 halt) { groupOrigin s k with at_ := c.at_ } false 0x26 c.sub) ∧
      (g.handler = false → team.trapbase ≠ 0 → ∀ s1 ph, translate s g.cluster none g.ctx (slotVA s g) .wr = (s1, .ok ph) → ph.dev = none →
        ∃ g', groupOf (takeTrap s g c) g.id = some g' ∧
          (takeTrap s g c).mem = memPut s1.mem ph.pa (slotBytes s k (trapFrame k c)) ∧
          (∀ j, j ≠ g.id → groupOf (takeTrap s g c) j = groupOf s j) ∧
          g'.handler = true ∧ g'.active = widthMask g.width ∧ g'.stack = [] ∧ g'.flags = 0 ∧ g'.flagen = 0 ∧ g'.rmode = 0 ∧
          g'.pc = team.trapbase ∧ g'.pos = 0 ∧ g'.atHdr = true ∧ g'.ll = [] ∧
          g'.st = (if g.st = .running then .running else .ready) ∧ g'.s = k.s ∧ g'.a = k.a ∧ g'.mB = k.mB ∧ g'.mL = k.mL ∧ g'.p = k.p ∧
          ∀ x, x < g.width →
            (readV (takeTrap s g c) g' 0 x).toNat = slotVA s g % 2 ^ 32 ∧ (readV (takeTrap s g c) g' 1 x).toNat = slotVA s g / 2 ^ 32 % 2 ^ 32))

/-- What a save slot holds: the frame, the registers, the convergence stack, the masks, the flags and the budget, each at its
place (04 R86; 16 R377; 07 R170). -/
def Sys2Proof.Claims.SaveSlotLayout : Prop :=
  ∀ s g f team, teamOf s g.team = some team → g.s.length = 64 → g.a.length = 16 → g.mB.length = 16 → g.mL.length = 16 → g.p.length = 7 →
    g.stack.length ≤ 16 → f.trap.cause < 256 → f.trap.sub < 256 → f.pos < 16 → f.trap.tcause < 256 → f.trap.tsub < 256 → f.trap.tag < 64 →
    g.liveIdx < 4096 →
    let b := slotBytes s g f
    let w := fun (off : Nat) => wAt b off
    let frame := [(0x08, f.instr), (0x10, BitVec.ofNat 64 (g.pc.toNat % 2 ^ 57)), (0x18, f.trap.addr), (0x20, f.trap.addr2), (0x28, f.remain),
      (0x30, BitVec.ofNat 64 f.resume), (0x38, g.flags.zeroExtend 64), (0x40, team.tagerr), (0x48, BitVec.ofNat 64 s.fcycles), (0x50, g.active),
      (0x58, f.trap.info), (0x60, team.save), (0x70, f.trap.taddr)]
    let rest := [(0x548, g.active), (0x550, g.flags.zeroExtend 64), (0x558, g.flagen.zeroExtend 64), (0x560, g.rmode.zeroExtend 64),
      (0x570, g.frame), (0x578, BitVec.ofNat 64 g.left)]
    b.length = 2048 ∧ (∀ x ∈ frame ++ rest, w x.1 = x.2) ∧
    bits (w 0).toNat 0 8 = f.trap.cause ∧ bits (w 0).toNat 8 8 = f.trap.sub ∧ bits (w 0).toNat 16 4 = (if f.hdr then 0 else f.pos) ∧
    (w 0).getLsbD 20 = f.hdr ∧ (w 0).getLsbD 21 = f.trap.after ∧ (w 0).getLsbD 22 = f.full ∧ (w 0).getLsbD 23 = f.parkw ∧
    bits (w 0x68).toNat 0 8 = f.trap.tcause ∧ bits (w 0x68).toNat 8 8 = f.trap.tsub ∧ bits (w 0x68).toNat 16 6 = f.trap.tag ∧
    (w 0x540).toNat = (if f.hdr then g.pc.toNat % 2 ^ 57 else g.pc.toNat % 2 ^ 57 + 8 * (f.pos + 1)) ∧
    bits (w 0x568).toNat 0 5 = g.stack.length ∧ bits (w 0x568).toNat 32 12 = g.liveIdx ∧
    (∀ i, i < 64 → w (0x100 + 8 * i) = g.s.getD i 0) ∧ (∀ i, i < 16 → w (0x300 + 8 * i) = g.a.getD i 0) ∧
    (∀ i, i < 16 → w (0x380 + 8 * i) = g.mB.getD i 0) ∧ (∀ i, i < 7 → w (0x400 + 8 * i) = g.p.getD i 0) ∧
    (∀ i, i < 16 → w (0x580 + 8 * i) = g.mL.getD i 0) ∧
    ∀ i e, g.stack[i]? = some e → e.kind < 4 →
      (w (0x440 + 16 * i)).toNat = e.addr.toNat % 2 ^ 57 / 8 * 8 + e.kind ∧ w (0x448 + 16 * i) = e.mask

/-- What the return from a trap reads from a slot that the save engine wrote is what was saved (16 R380, R395; 04 R86). -/
def Sys2Proof.Claims.SlotRoundTrip : Prop :=
  ∀ s g k f, g.s.length = 64 → g.a.length = 16 → g.mB.length = 16 → g.mL.length = 16 → g.p.length = 7 → g.stack.length ≤ 16 →
    g.liveIdx < 4096 → g.left < 2 ^ 64 → k.width = g.width → (∀ b ∈ g.mB, b.toNat < 2 ^ 57) →
    g.active &&& widthMask g.width = g.active → (∀ p ∈ g.p, p &&& widthMask g.width = p) →
    (∀ e ∈ g.stack, e.kind < 3 ∧ e.addr.toNat < 2 ^ 57 ∧ e.addr.toNat % 8 = 0) →
    loadRegs (slotBytes s g f) k = some
      { k with s := g.s, a := g.a, mB := g.mB, mL := g.mL, p := g.p, stack := g.stack, active := g.active, flags := g.flags,
               flagen := g.flagen, rmode := g.rmode, liveIdx := g.liveIdx, left := g.left }

/-- The return from a trap: outside handler mode it is illegal; it waits for the store FIFO and the results, and for what the handler
stored into the slot; it restores what the slot holds and resumes at the frame's point, after it where NEXT = 1 or the form skips, or at
the slot's PC where the handler changed it; rett.exit retires every thread (16 R378, R381, R395; 08 R188). That the liveness entry which
was in force is current again, and that the skipping form takes no note of the slot's PC, is the model's choice (log entry 15). -/
def Obligations.ReturnFromTrap : Prop :=
  ∀ s g i h f, (i = .rett h f ∨ i = .rettSkip h f ∨ i = .rettExit h f) → Runs s g i → wideActs g h = true →
    (g.handler = false → Traps i s s g { cause := 3, sub := 0 }) ∧
    (g.handler = true → (g.ll ≠ [] ∨ g.coal ≠ [] ∨ g.fifo ≠ []) → exec i s = .next s) ∧
    (g.handler = true → g.ll = [] → g.coal = [] → g.fifo = [] →
      (i ≠ .rettExit h f → slotHeld s g = true → exec i s = .next s) ∧
      (i = .rettExit h f → ∃ t g', exec i s = .next t ∧ groupOf t g.id = some g' ∧ g'.st = .retiring ∧ g'.active = 0 ∧ g'.stack = []) ∧
      (i ≠ .rettExit h f → slotHeld s g = false → ∀ s1 ph, translate s g.cluster none g.ctx (slotVA s g) .rd = (s1, .ok ph) → ph.dev = none →
        let b := memBytes s1.mem ph.pa 2048
        let w := (wAt b 0).toNat
        let hdr := w.testBit 20
        let fpc := (wAt b 0x10).toNat % 2 ^ 57
        let pos := bits w 16 4
        let moved := (wAt b 0x540).toNat % 2 ^ 57 ≠ (if hdr then fpc else fpc + 8 * (pos + 1))
        (i = .rettSkip h f → hdr = true → Traps i s s1 g { cause := 3, sub := 0 }) ∧
        (∀ k, loadRegs b g = some k → k.active ≠ 0 → (i = .rettSkip h f → hdr = false) →
          let s2 := reLiveTouch s1 g.liveIdx k
          ∃ t g', exec i s = .next t ∧ groupOf t g.id = some g' ∧ (∀ j, j ≠ g.id → groupOf t j = groupOf s j) ∧ t.mem = s2.mem ∧
            g'.handler = false ∧ g'.s = k.s ∧ g'.a = k.a ∧ g'.mB = k.mB ∧ g'.mL = k.mL ∧ g'.p = k.p ∧ g'.stack = k.stack ∧ g'.active = k.active ∧
            g'.flags = k.flags ∧ g'.flagen = k.flagen ∧ g'.rmode = k.rmode ∧ g'.left = k.left ∧ g'.clause = [] ∧ g'.st = .running ∧ g'.liveIdx = k.liveIdx ∧
            g'.live = (if k.liveIdx = g.liveIdx then g.live else if k.liveIdx = 0 then [] else (liveEntry s2 k k.liveIdx).getD []) ∧
            (i = .rett h f → moved → g'.pc.toNat = (wAt b 0x540).toNat % 2 ^ 57 ∧ g'.atHdr = true ∧ g'.pos = 0) ∧
            ((i = .rett h f ∧ ¬ moved ∨ i = .rettSkip h f) → g'.pc.toNat = fpc ∧ g'.atHdr = hdr) ∧
            (i = .rettSkip h f → g'.pos = pos + 1) ∧
            (i = .rett h f → ¬ moved → hdr = false →
              g'.pos = (if w.testBit 21 then pos + 1 else pos) ∧ g'.remain = (if w.testBit 21 then none else some (wAt b 0x28)))) ∧
        (∀ k, loadRegs b g = some k → k.active = 0 → (∀ e ∈ k.stack, e.mask = 0) → (i = .rettSkip h f → hdr = false) →
          ∃ t g', exec i s = .next t ∧ groupOf t g.id = some g' ∧ g'.st = .retiring)))

namespace Sys2Proof.Claims
open Sys2Proof.Machine

/-- The named barrier b of the team replaced. -/
def barPut (s : State) (team b : Nat) (x : NBar) : State := onTeam s team (fun t => { t with bars := t.bars.set b x })

/-- The groups that wait at a barrier for its phase go on (13 R316). -/
def barGo (s : State) (team b : Nat) : State := { s with groups := s.groups.map (fun k => if waitsAt k team b then wakeGroup k else k) }

/-- An arrival at a barrier: while arrivals or landings are missing it is counted; the phase ends when all have come, and its
waiters go on; a landing too many is an overrun, which its waiters take as a fault (13 R316). -/
def barArrive (s : State) (team b : Nat) (x : NBar) : State :=
  if x.arr + 1 < x.exp ∨ x.land < x.decl then barPut s team b { x with arr := x.arr + 1 }
  else if x.land = x.decl then barGo (barPut s team b { x with ph := !x.ph, arr := 0, decl := x.dbase, land := 0 }) team b
  else faultWaiters (barPut s team b { x with arr := x.arr + 1, st := 2 }) team b { cause := 0x22, sub := 0 }

end Sys2Proof.Claims

/-- The named barriers: BARI sets one up; BARA, BARW, BAREXP and BARPH fault where it is not initialised or overrun; BARA and BARW
arrive after their release, BARA giving the phase and BARW waiting for its end; BAREXP declares bytes; BARPH waits for a parity;
BARINV ends the barrier and its waits (13 R315 to R319, R334). -/
def Obligations.NamedBarriers : Prop :=
  ∀ s g h f i b x team, Runs s g i → wideActs g h = true → teamOf s g.team = some team → team.bars[b]? = some x → b = f.mod.toNat % 16 →
    (∀ k ∈ s.groups, waitsAt k g.team b = true → k.id ≠ g.id) →
    let put := barPut s g.team b
    let fault := fun (sub : Nat) => Traps i s s g { cause := 0x21, sub := sub }
    let waited := ∃ k ∈ s.groups, waitsAt k g.team b = true
    let v := (g.s.getD f.a.toNat 0).toNat
    let w := if f.mod.getLsbD 4 then (g.s.getD f.b.toNat 0).toNat else 0
    (i = .bari h f → (waited → fault 2) ∧ (¬ waited → (v = 0 ∨ 1023 < v ∨ 2 ^ 32 ≤ w) → fault 3) ∧
      (¬ waited → 1 ≤ v → v ≤ 1023 → w < 2 ^ 32 → Does i s (put ⟨1, false, v, 0, w, w, 0⟩) g g [])) ∧
    ((i = .bara h f ∨ i = .barw h f ∨ i = .barexp h f ∨ i = .barph h f) →
      (x.st = 0 → fault 1) ∧ (2 ≤ x.st → Traps i s s g { cause := 0x22, sub := 0 })) ∧
    (x.st = 1 → (i = .bara h f ∨ i = .barw h f) → releaseMet s g 2 = false → exec i s = .next s) ∧
    (i = .bara h f → x.st = 1 → releaseMet s g 2 = true → (x.arr + 1 < x.exp ∨ x.land ≤ x.decl) →
      Does i s (barArrive s g.team b x) g (writeScalar g f.d.toNat (if x.ph then 1 else 0)) []) ∧
    (i = .barw h f → x.st = 1 → releaseMet s g 2 = true →
      (x.arr + 1 < x.exp ∨ x.land < x.decl →
        Moves i s (put { x with arr := x.arr + 1 }) g { g with st := .parked, park := some (.barw b x.ph) }) ∧
      (x.exp ≤ x.arr + 1 → x.land = x.decl → Does i s (barArrive s g.team b x) g g []) ∧
      (x.exp ≤ x.arr + 1 → x.decl < x.land → Traps i s (barArrive s g.team b x) g { cause := 0x22, sub := 0 })) ∧
    (i = .barexp h f → x.st = 1 →
      (2 ^ 32 ≤ x.decl + v → fault 3) ∧ (x.decl + v < 2 ^ 32 → Does i s (put { x with decl := x.decl + v }) g g [])) ∧
    (i = .barph h f → x.st = 1 →
      (1 < v → fault 3) ∧ (v ≤ 1 → x.ph ≠ decide (v = 1) → Does i s s g g []) ∧
      (v ≤ 1 → x.ph = decide (v = 1) → Moves i s s g { g with st := .parked, park := some (.barph b x.ph) })) ∧
    (i = .barinv h f → Does i s (faultWaiters (put { x with st := 0 }) g.team b { cause := 0x21, sub := 4 }) g g [])

namespace Sys2Proof.Claims
open Sys2Proof.Machine

/-- The record whose address S[A] holds: aligned, and translated on this device. -/
def RecAt (s : State) (g : Group) (f : RF) (acc : Acc) (s1 : State) (ph : Phys) : Prop :=
  (g.s.getD f.a.toNat 0).toNat % 64 = 0 ∧
  translate s g.cluster (some g.core) g.ctx ((g.s.getD f.a.toNat 0).toNat % 2 ^ 57) acc = (s1, .ok ph) ∧ ph.dev = none

/-- The words of a barrier record. -/
def recW (s : State) (ph : Phys) (i : Nat) : Nat := memNat s.mem (ph.pa + 8 * i) 8

/-- The subcause for a record that is not ACTIVE: 10 where it is ABANDONED, else 1 (13 R334). -/
def notActive (s : State) (ph : Phys) : Nat := if bits (recW s ph 4) 62 2 = 2 then 10 else 1

/-- A team with a slot for arrivals at a record. -/
def slotPut (s : State) (team : Nat) (x : GSlot) : State :=
  onTeam s team (fun t => { t with gslots := t.gslots.filter (fun y => decide (y.recd ≠ x.recd)) ++ [x] })

/-- The codes of 09 R208 for the scope of a record (13 R321). -/
def scopeCode (scope : Nat) : Nat := if scope = 0 then 4 else if scope = 3 then 6 else 5

/-- A member's GBAR once its record is known (13 R324): a fifth record is a fault, and so is another member or count than its
team's slot has; it waits for its release; then it takes or joins the slot and parks, and the last of the groups sends the
member's arrival to its node. -/
def TakesSlot (i : Instr) (s s1 : State) (g : Group) (team : Team) (ph : Phys) (scope gen mem cnt : Nat) : Prop :=
  let key := recKey ph.pa ph.dev
  let old := team.gslots.find? (fun x => decide (x.recd = key))
  (old = none → 4 ≤ team.gslots.length → Traps i s s1 g { cause := 0x21, sub := 7 }) ∧
  (∀ x, old = some x → (x.mem ≠ mem ∨ x.g ≠ cnt) → Traps i s s1 g { cause := 0x21, sub := 8 }) ∧
  ∀ n, (old = none ∧ team.gslots.length < 4 ∧ n = 1 ∨ ∃ x, old = some x ∧ x.mem = mem ∧ x.g = cnt ∧ n = x.count + 1) →
    (releaseMet s1 g (scopeCode scope) = false → exec i s = .next s) ∧
    (releaseMet s1 g (scopeCode scope) = true →
      let s2 := { slotPut s1 g.team ⟨key, gen, mem, cnt, n⟩ with
        joins := if ph.dev.isSome then (s1.joins ++ [(g.ctx, ph.dev.getD 0, ph.pa)]).eraseDups else s1.joins }
      let parked := { g with st := .parked, park := some (.gbar key (scopeCode scope) 0) }
      (n ≠ cnt → Moves i s s2 g parked) ∧
      (n = cnt → ∃ m, m.key = s2.nextId ∧ m.node = false ∧ m.pa = ph.pa ∧ m.dev = ph.dev ∧ m.arr.mem = mem ∧ m.arr.team = team.id ∧
        m.arr.mt = team.index ∧ m.arr.ctx = g.ctx ∧ m.arr.dev = none ∧
        m.node_ = (if ph.dev.isSome then recSlice ph else 16 * dieOf g.cluster + recSlice ph % 16) ∧
        Moves i s { s2 with nextId := s2.nextId + 1, gmsgs := s2.gmsgs ++ [m] } g parked))

end Sys2Proof.Claims

/-- GBAR.init makes a record ACTIVE with generation 0; GBAR.fini makes an ACTIVE one without arrivals IDLE; GBAR takes or joins its
team's slot and parks once its release is performed, and the last of the groups sends the member's arrival, for a record of another
device too, whose words it reads first; STRAG reads a word of a member's entry in the translation of the context that initialised the
record (13 R320 to R325, R331, R334; 04 R96). The subcause of operand bits [63:32] and those of GBAR.fini are the model's choices (log
entry 24), and so is how the record of another device is read (log entry 46). -/
def Sys2Proof.Claims.RecordInstructions : Prop :=
  (∀ s g h f i, (i = .gbar h f ∨ i = .gbarInit h f ∨ i = .gbarFini h f) → Runs s g i → wideActs g h = true →
    (g.s.getD f.a.toNat 0).toNat % 64 ≠ 0 → Traps i s s g { cause := 0x21, sub := 5 }) ∧
  (∀ s g h f s1 ph, s.canon = true → Runs s g (.gbarInit h f) → wideActs g h = true → RecAt s g f .rw s1 ph →
    let i := Instr.gbarInit h f
    let scope := bits (recW s1 ph 1) 0 3
    ((recAt s1 ph.pa).isSome → Traps i s s1 g { cause := 0x21, sub := 2 }) ∧
    (recAt s1 ph.pa = none → recMalformed s1 g.ctx (recWords s1 ph.pa) = true → Traps i s s1 g { cause := 0x21, sub := 5 }) ∧
    (∀ lid span idx, recAt s1 ph.pa = none → recMalformed s1 g.ctx (recWords s1 ph.pa) = false → teamSpan s1 g = some (lid, span, idx) →
      (scope = 0 → span = 0 → Traps i s s1 g { cause := 0x21, sub := 6 }) ∧
      (¬ (scope = 0 ∧ span = 0) → ∃ s', Does i s s' g g [] ∧ recW s' ph 4 = 2 ^ 62 ∧
        recAt s' ph.pa = some ⟨ph.pa, g.ctx, recW s1 ph 0, bits (recW s1 ph 1) 60 2, bits (recW s1 ph 1) 56 4, bits (recW s1 ph 1) 32 24, scope,
          bits (recW s1 ph 2) 32 32, bits (recW s1 ph 2) 0 32, lid, if scope = 0 then idx - idx % (span + 1) else 0, 0, [], [], [], [], [], none, []⟩))) ∧
  (∀ s g h f s1 ph, s.canon = true → Runs s g (.gbarFini h f) → wideActs g h = true → RecAt s g f .rw s1 ph →
    let i := Instr.gbarFini h f
    (recAt s1 ph.pa = none → Traps i s s1 g { cause := 0x21, sub := notActive s1 ph }) ∧
    (∀ r, recAt s1 ph.pa = some r → r.arr ≠ [] → Traps i s s1 g { cause := 0x21, sub := 2 }) ∧
    (∀ r, recAt s1 ph.pa = some r → r.arr = [] → ∃ s', Does i s s' g g [] ∧ recAt s' ph.pa = none ∧ recW s' ph 4 = r.gen % 2 ^ 32)) ∧
  (∀ s g h f s1 ph team, Runs s g (.gbar h f) → wideActs g h = true → RecAt s g f .rw s1 ph → teamOf s g.team = some team →
    let i := Instr.gbar h f
    let opd := (g.s.getD f.b.toNat 0).toNat
    let cnt := bits opd 24 8
    let fault := fun (sub : Nat) => Traps i s s1 g { cause := 0x21, sub := sub }
    (recAt s1 ph.pa = none → fault (notActive s1 ph)) ∧
    (∀ r, recAt s1 ph.pa = some r →
      ((cnt = 0 ∨ 64 < cnt ∨ 2 ^ 32 ≤ opd) → fault 3) ∧
      (1 ≤ cnt → cnt ≤ 64 → opd < 2 ^ 32 →
        (memberOf s1 g r (bits opd 0 24) = none → fault 6) ∧
        (∀ mem, memberOf s1 g r (bits opd 0 24) = some mem → TakesSlot i s s1 g team ph r.scope r.gen mem cnt)))) ∧
  (∀ s g h f s1 ph team, Runs s g (.gbar h f) → wideActs g h = true → (g.s.getD f.a.toNat 0).toNat % 64 = 0 → ph.dev ≠ none →
    translate s g.cluster (some g.core) g.ctx ((g.s.getD f.a.toNat 0).toNat % 2 ^ 57) .rw = (s1, .ok ph) → teamOf s g.team = some team →
    let opd := (g.s.getD f.b.toNat 0).toNat
    let cnt := bits opd 24 8
    let va := (g.s.getD f.a.toNat 0).toNat % 2 ^ 57
    (∀ s2, groupRead s1 g va 64 = (s2, .error none) → exec (.gbar h f) s = .next s2) ∧
    (∀ s2 bs, groupRead s1 g va 64 = (s2, .ok bs) →
      let w := fun (i : Nat) => (wAt bs (8 * i)).toNat
      let st := bits (w 4) 62 2
      let fault := fun (sub : Nat) => Traps (.gbar h f) s s2 g { cause := 0x21, sub := sub }
      (st = 2 → fault 10) ∧ (st ≠ 1 → st ≠ 2 → fault 1) ∧
      (st = 1 → (cnt = 0 ∨ 64 < cnt ∨ 2 ^ 32 ≤ opd) → fault 3) ∧
      (st = 1 → 1 ≤ cnt → cnt ≤ 64 → opd < 2 ^ 32 →
        ((bits (w 1) 0 3 ≠ 3 ∨ bits (w 1) 32 24 ≤ bits opd 0 24) → fault 6) ∧
        (bits (w 1) 0 3 = 3 → bits opd 0 24 < bits (w 1) 32 24 →
          TakesSlot (.gbar h f) s s2 g team ph 3 (bits (w 4) 0 32) (bits opd 0 24) cnt)))) ∧
  (∀ s g h f s1 ph, Runs s g (.strag h f) → wideActs g h = true →
    let i := Instr.strag h f
    let m := bits (g.s.getD f.b.toNat 0).toNat 0 24
    let va := (recW s1 ph 0 + 64 * m + 8 * (f.mod.toNat % 8)) % 2 ^ 57
    let fault := fun (sub : Nat) => Traps i s s1 g { cause := 0x21, sub := sub }
    (isReplay s g.ctx = true → Traps i s s g { cause := 0x0D, sub := 0 }) ∧
    (isReplay s g.ctx = false → (g.s.getD f.a.toNat 0).toNat % 64 ≠ 0 → Traps i s s g { cause := 0x21, sub := 5 }) ∧
    (isReplay s g.ctx = false → RecAt s g f .rw s1 ph →
      (recAt s1 ph.pa = none → notActive s1 ph = 1 → fault 1) ∧
      (∀ ctx, (∃ r, recAt s1 ph.pa = some r ∧ r.ctx = ctx) ∨ recAt s1 ph.pa = none ∧ notActive s1 ph = 10 ∧ ctx = g.ctx →
        (recMalformed s1 ctx (recWords s1 ph.pa) = true → fault 5) ∧
        (recMalformed s1 ctx (recWords s1 ph.pa) = false →
          (bits (recW s1 ph 1) 32 24 ≤ m → fault 6) ∧
          (∀ s2 bs, m < bits (recW s1 ph 1) 32 24 → recRead s1 { g.who with ctx := ctx } g.launch g.core (ownReqs g) va 8 = (s2, .ok bs) →
            Does i s s2 g (writeScalar g f.d.toNat (wAt bs 0)) []) ∧
          (∀ s2, m < bits (recW s1 ph 1) 32 24 →
            recRead s1 { g.who with ctx := ctx } g.launch g.core (ownReqs g) va 8 = (s2, .error none) → exec i s = .next s2)))))

/-- A member's arrival is timestamped at its die node, whose message takes all that have entered it, and then counted at the home
slice: a second one of the generation is refused, one at a record that is not ACTIVE too, and the last one completes the generation, whose
waiters are released and whose state words say so; the message for a record of another device crosses its link, with its members, and
counts there as unacknowledged (13 R322, R324, R325, R328; 17 R402). -/
def Sys2Proof.Claims.BarrierArrivals : Prop :=
  (∀ s m, s.gmsgs.find? (fun x => decide (x.key = m.key)) = some m → m.node = false →
    ∃ t, exec (.gbarCombine m.key) s = .next t ∧
      t.gmsgs.find? (fun x => decide (x.key = m.key)) = some { m with node := true, arr := { m.arr with ts := s.fcycles } } ∧
      t.recs = s.recs ∧ t.groups = s.groups) ∧
  (∀ s m r, s.canon = true → s.gmsgs.find? (fun x => decide (x.key = m.key)) = some m → m.node = true → m.dev = none → nodeMsgs s m = [m] →
    recAt s m.pa = some r → r.pa = m.pa →
    ((∀ a ∈ r.arr, a.mem ≠ m.arr.mem) → r.arr.length + 1 < r.members →
      ∃ t, exec (.gbarArrival m.key) s = .next t ∧
        recAt t m.pa = some { r with arr := r.arr ++ [m.arr], devs := (r.devs ++ m.arr.dev.toList).eraseDups } ∧ t.groups = s.groups ∧
        bits (memNat t.mem (m.pa + 0x20) 8) 32 30 = (r.arr.length + 1) % 2 ^ 30) ∧
    ((∀ a ∈ r.arr, a.mem ≠ m.arr.mem) → r.members ≤ r.arr.length + 1 → r.ups = [] →
      ∃ t r', exec (.gbarArrival m.key) s = .next t ∧ recAt t m.pa = some r' ∧
        r'.gen = (r.gen + 1) % 2 ^ 32 ∧ r'.prev = r.arr ++ [m.arr] ∧ r'.arr = [] ∧ r'.members = r.members ∧ r'.ctx = r.ctx ∧
        (∀ k ∈ s.groups, waitsAtRec m.pa k = true → k.cluster < s.clusters.length → (clusterAt t k.cluster).slewGen = r.gen) ∧
        (∀ k c, groupOf s k.id = some k → k.park = some (.gbar m.pa c 0) →
          groupOf t k.id = some { k with park := some (.gbar m.pa c 1) } ∧
          ∀ tm, teamOf t k.team = some tm → ∀ x ∈ tm.gslots, x.recd ≠ m.pa) ∧
        ∀ k, groupOf s k.id = some k → (∀ c, k.park ≠ some (.gbar m.pa c 0)) → groupOf t k.id = some k) ∧
    ((∃ a ∈ r.arr, a.mem = m.arr.mem) → (r.ups = [] ∨ r.arr.length + 1 < r.members) →
      ∃ t, exec (.gbarArrival m.key) s = .next t ∧ t.recs = s.recs ∧
        (∀ k c, groupOf s k.id = some k → k.team = m.arr.team → k.park = some (.gbar m.pa c 0) →
          groupOf t k.id = some { k with park := some (.gbar m.pa c 9) }) ∧
        ∀ k, groupOf s k.id = some k → (k.team ≠ m.arr.team ∨ ∀ c, k.park ≠ some (.gbar m.pa c 0)) → groupOf t k.id = some k)) ∧
  (∀ s m, s.gmsgs.find? (fun x => decide (x.key = m.key)) = some m → m.node = true → m.dev = none → nodeMsgs s m = [m] → recAt s m.pa = none →
    ∃ t, exec (.gbarArrival m.key) s = .next t ∧
      ∀ k c, groupOf s k.id = some k → k.team = m.arr.team → k.park = some (.gbar m.pa c 0) →
        groupOf t k.id = some { k with park := some (.gbar m.pa c (if bits (memNat s.mem (m.pa + 0x20) 8) 62 2 = 2 then 10 else 1)) }) ∧
  (∀ s m, s.gmsgs.find? (fun x => decide (x.key = m.key)) = some m → m.node = true → m.dev = none → recReady s m.pa (nodeMsgs s m).length = true →
    ∃ t, exec (.gbarArrival m.key) s = .next t ∧
      t.gmsgs = s.gmsgs.filter (fun x => !(x.node && decide (x.pa = m.pa) && decide (x.dev = m.dev) && decide (x.node_ = m.node_)))) ∧
  (∀ s m d k, s.gmsgs.find? (fun x => decide (x.key = m.key)) = some m → m.node = true → m.dev = some d → canSend s d m.pa = true →
    linkFor s d m.pa = some k → ∃ t r, exec (.gbarArrival m.key) s = .next t ∧ t.remotes = s.remotes ++ [r] ∧ r.id = m.key ∧ r.dev = d ∧
      r.link = k ∧ r.line = m.pa / 512 ∧ r.ask = .gbar m.pa ((nodeMsgs s m).map (fun x => x.arr)) ∧ t.groups = s.groups ∧
      t.gmsgs = s.gmsgs.filter (fun x => !(x.node && decide (x.pa = m.pa) && decide (x.dev = m.dev) && decide (x.node_ = m.node_))))

namespace Sys2Proof.Claims
open Sys2Proof.Machine

/-- An engine instruction of a team that is not reset-pending, whose lowest active thread qualifies. -/
def EngRuns (s : State) (g : Group) (i : Instr) (h : Hd) : Prop :=
  Runs s g i ∧ wideActs g h = true ∧ ∀ team, teamOf s g.team = some team → team.resetPend = false

/-- The matrix-state fault with a subcause (10 R278). -/
def mxs (sub : Nat) : TrapInfo := { cause := 0x18, sub := sub }

/-- A field of XFLAGS. -/
def xf (f : XF) (lo n : Nat) : Nat := f.xf.toNat / 2 ^ lo % 2 ^ n

/-- The entries of a cluster's engine. -/
def entsOf (s : State) (c : Nat) : List REnt := (engOf s c).ents

/-- A team has left REIN for HOLDING: its streams and held B are to be discarded at this place among the commands, and its leave
is released (10 R255, R268; 18 R419). -/
def LeftRein (s t : State) (c team : Nat) : Prop :=
  entsOf t c = (entsOf s c).map (fun x => if x.team = team then { x with st := .holding } else x) ∧
  (∃ k, (engOf t c).cmds = (engOf s c).cmds ++ [k] ∧ k.kind = .unbind ∧ k.team = team) ∧
  (clusterAt t c).leaves = (clusterAt s c).leaves.filter (fun l => decide (l ≠ .tenure team ∧ l ≠ .leave team)) ∧
  (clusterAt t c).leaveQ = (clusterAt s c).leaveQ.filter (fun l => decide (l.1 ≠ .tenure team)) ∧ t.groups = s.groups ∧ t.mem = s.mem

/-- The rein is granted to an entry: it is no longer pending, the others that wait count it, its team's groups in REINGET go on
(10 R255, R257). -/
def Granted (s t : State) (c : Nat) (x : REnt) : Prop :=
  entsOf t c = (entsOf s c).map (fun y =>
    if y.idx = x.idx then { y with st := .rein, pending := false, waits := 0, restore := if y.restore = 2 then 0 else y.restore }
    else if y.pending then { y with waits := min 16 (y.waits + 1) } else y) ∧
  (∀ k, s.groups.filter (fun j => decide (j.id = k.id)) = [k] → k.team = x.team → k.park = some .reinget → k.st = .parked → k.halted = false →
    groupOf t k.id = some (nextPos { k with st := .ready, park := none, refetch := true })) ∧
  ∀ k, groupOf s k.id = some k → (∀ j ∈ s.groups, j.team = x.team → j.park = some .reinget → j.id ≠ k.id) → groupOf t k.id = some k

/-- An entry as it acquires its tiles; one that is restored with the rein waits for it first of all (10 R255, R264). -/
def Acquired (y : REnt) : REnt :=
  let y1 := { y with st := .holding, pending := y.pending || decide (y.restore = 2), waits := if y.restore = 2 then 16 else y.waits }
  { y1 with restore := if y.restore = 1 then 0 else y.restore }

/-- No group that waits in REINGET has the identity of g. -/
def NotWaiting (s : State) (g : Group) : Prop := ∀ k ∈ s.groups, k.park = some .reinget → k.id ≠ g.id

end Sys2Proof.Claims

/-- While its team is reset-pending, every engine instruction but MREQ takes the engine-reset fault (10 R265). -/
def Sys2Proof.Claims.ResetPendingFaults : Prop :=
  ∀ s g i op h f team, i.parts = some (op, h, f) → 0x160 < op → op < 0x190 → Runs s g i → wideActs g h = true →
    teamOf s g.team = some team → team.resetPend = true → Traps i s s g { cause := 0x1A, sub := 0 }

/-- The reservation table: MREQ posts the lowest free entry, or waits for one; REINGET waits for the rein; REINPASS hands it on in
rotation; REINREL gives it up and frees the entry once the team's commands on its tiles have retired; REINREL.keep keeps the
tiles (10 R255 to R258, R267, R268, R278). -/
def Sys2Proof.Claims.ReservationRequests : Prop :=
  (∀ s g h f, Runs s g (.mreq h f) → wideActs g h = true →
    let i := Instr.mreq h f
    let v := g.s.getD (xf f 0 6) 0
    let s1 := onTeam s g.team (fun t => { t with resetPend := false })
    let e := engOf s g.cluster
    (2 ^ 32 ≤ v.toNat → Traps i s s g (mxs 3)) ∧
    (v.toNat < 2 ^ 32 → (∃ x ∈ e.ents, x.team = g.team) → Traps i s s g (mxs 2)) ∧
    (v.toNat < 2 ^ 32 → (∀ x ∈ e.ents, x.team ≠ g.team) →
      (∀ n, n < 32 → (∀ x ∈ e.ents, x.idx ≠ n) → (∀ m, m < n → ∃ x ∈ e.ents, x.idx = m) →
        Does i s (onEng s1 g.cluster (fun e => { e with
          ents := e.ents ++ [⟨n, .posted, g.team, v.truncate 32, f.xf.getLsbD 6, e.age, 0, false, none, 0⟩], age := e.age + 1 })) g g []) ∧
      ((∀ n, n < 32 → ∃ x ∈ e.ents, x.idx = n) →
        Moves i s s1 g { g with st := .parked, park := some (.mreq (v.truncate 32) (f.xf.getLsbD 6)) }))) ∧
  (∀ s g h f, EngRuns s g (.reinget h f) h →
    let i := Instr.reinget h f
    let e := engOf s g.cluster
    ((∀ x ∈ e.ents, x.team ≠ g.team) → Traps i s s g (mxs 1)) ∧
    (∀ x, e.ents.find? (fun x => decide (x.team = g.team)) = some x → x.st = .rein → Does i s s g g []) ∧
    (∀ x, e.ents.find? (fun x => decide (x.team = g.team)) = some x → x.st ≠ .rein →
      Moves i s (onEng s g.cluster (fun e => { e with ents := e.ents.map (fun y => if y.team = g.team then { y with pending := true } else y) })) g
        { g with st := .parked, park := some .reinget })) ∧
  (∀ s g h f, EngRuns s g (.reinpass h f) h → g.cluster < s.clusters.length → NotWaiting s g →
    let i := Instr.reinpass h f
    (holdsRein (engOf s g.cluster) g.team = false → Traps i s s g (mxs 4)) ∧
    (holdsRein (engOf s g.cluster) g.team = true → ∃ s1, LeftRein s s1 g.cluster g.team ∧ ∀ x, entOf (engOf s g.cluster) g.team = some x →
      (reinRotate s1 g.cluster x = none → Does i s s1 g g []) ∧
      (∀ y, reinRotate s1 g.cluster x = some y → ∃ s2, Granted s1 s2 g.cluster y ∧ Does i s s2 g g []))) ∧
  (∀ s g h f, EngRuns s g (.reinrel h f) h → g.cluster < s.clusters.length →
    let i := Instr.reinrel h f
    let e := engOf s g.cluster
    ((∀ x ∈ e.ents, x.team ≠ g.team) → Traps i s s g (mxs 1)) ∧
    ((∃ x ∈ e.ents, x.team = g.team) → ∃ s1, (holdsRein e g.team = true → LeftRein s s1 g.cluster g.team) ∧ (holdsRein e g.team = false → s1 = s) ∧
      (tilesQuiet s g.cluster g.team = true → ∃ s2, entsOf s2 g.cluster = e.ents.filter (fun x => decide (x.team ≠ g.team)) ∧
        s2.groups = s.groups ∧ Does i s s2 g g []) ∧
      (tilesQuiet s g.cluster g.team = false → Moves i s s1 g { g with st := .parked, park := some .reinrel }))) ∧
  (∀ s g h f, EngRuns s g (.reinrelKeep h f) h → g.cluster < s.clusters.length →
    let i := Instr.reinrelKeep h f
    let e := engOf s g.cluster
    ((∀ x ∈ e.ents, x.team ≠ g.team) → Traps i s s g (mxs 1)) ∧
    ((∃ x ∈ e.ents, x.team = g.team) → holdsRein e g.team = false → Traps i s s g (mxs 4)) ∧
    (holdsRein e g.team = true → ∃ s1, LeftRein s s1 g.cluster g.team ∧ Does i s s1 g g []))

/-- An entry acquires its tiles when no other entry holds one of them and no older one waits for one: they and its path-trace
registers read as zero; the rein, when it is free, goes to the entry that has waited 16 times, then by priority, then by age
(10 R255 to R257; 11 R281). -/
def Obligations.TilesAndReinAreGranted : Prop :=
  (∀ s c x, c < s.clusters.length → (entsOf s c).find? (fun y => decide (y.idx = x.idx)) = some x → x.st = .posted → x.restore = 0 →
    (∀ y ∈ entsOf s c, y.idx ≠ x.idx → y.tmask &&& x.tmask = 0 ∨ (y.st = .posted ∧ x.age < y.age)) →
    ∃ t, exec (.tileAcquire c x.idx) s = .next t ∧
      entsOf t c = (entsOf s c).map (fun y => if y.idx = x.idx then Acquired y else y) ∧
      (∀ z, z < 32 → tileOf (engOf t c) z = if x.tmask.getLsbD z then List.replicate 1024 0 else tileOf (engOf s c) z) ∧
      (∀ q, q < 8 → qOf (engOf t c) q = if x.tmask.getLsbD q then List.replicate 1088 0 else qOf (engOf s c) q)) ∧
  (∀ s c, c < s.clusters.length → (∀ x ∈ entsOf s c, x.st ≠ .rein) → (∃ x ∈ entsOf s c, x.st = .holding ∧ x.pending = true) →
    ∃ t x, exec (.reinGrant c) s = .next t ∧ x ∈ entsOf s c ∧ x.st = .holding ∧ x.pending = true ∧ Granted s t c x ∧
      ∀ y ∈ entsOf s c, y.st = .holding → y.pending = true →
        (16 ≤ y.waits → 16 ≤ x.waits) ∧ (16 ≤ x.waits → 16 ≤ y.waits → x.age ≤ y.age) ∧
        (x.waits < 16 → y.waits < 16 → teamPrio s y.team ≤ teamPrio s x.team ∧ (teamPrio s y.team = teamPrio s x.team → x.age ≤ y.age)))

namespace Sys2Proof.Claims
open Sys2Proof.Machine

/-- The command of a group in the engine's queue. -/
def queued (s : State) (g : Group) (key : Nat) (k : CmdK) : ECmd :=
  { key := key, gid := g.id, ctx := g.ctx, launch := g.launch, team := g.team, core := g.core, kind := k, phase := 0,
    lv := hasLeave s g.cluster g.team, a := [], b := [], todo := [], flags := 0, fail := none }

/-- Whether the command queue has room: 16 commands, of which accesses of path-trace registers are none, and none waits. -/
def Room (s : State) (g : Group) : Prop := (((engOf s g.cluster).cmds.filter (fun c => c.kind.counts)).length < 16) ∧ (engOf s g.cluster).pend = []

/-- A command enters the queue in a state s1, its group g left as gk; where there is no room its group waits for it (10 R254). -/
def Enters (i : Instr) (s s1 : State) (g gk : Group) (k : CmdK) (new : List Nat) : Prop :=
  let key := s1.nextId
  let s2 := { s1 with nextId := s1.nextId + 1 }
  (Room s g → Does i s (onEng s2 g.cluster (fun e => { e with cmds := e.cmds ++ [queued s g key k] })) g gk new) ∧
  (¬ Room s g → Answers s g i (fun t g' =>
    Reads (onEng s2 g.cluster (fun e => { e with pend := e.pend ++ [queued s g key k] })) t g g' i (fun _ => []) ∧
    Counted { gk with st := .parked, park := some (.command key) } g' new ∧
    OnlyGroup (onEng s2 g.cluster (fun e => { e with pend := e.pend ++ [queued s g key k] })) t g))

/-- The subcause of the first check that fails. -/
def failing (cs : List (Bool × Nat)) : Option Nat := (cs.find? (fun c => c.1)).map (fun c => c.2)

/-- The outstanding result of a command, with the tile that it writes beside registers. -/
def commandResult (s1 : State) (g : Group) (i : Instr) (h : Hd) (vregs : List Nat) (tile : Option Nat) : LL :=
  { key := s1.nextId, left := h.la.toNat, need := 1, vregs := vregs, sregs := [], pred := none, vec := [], scl := [], pval := false, flags := 0,
    uni := llUniform g i h, mask := g.active, tile := tile }

/-- The commands without a result, with their checks in order and what they queue (10 R254, R266, R271, R272, R276, R278). -/
def plainCommands (s : State) (g : Group) (h : Hd) (f : XF) : List (Instr × List (Bool × Nat) × CmdK) :=
  let e := engOf s g.cluster
  let rein := (!holdsRein e g.team, 4)
  let tile := fun (z : Nat) => (!holdsTile e g.team z, 5)
  let z := f.z.toNat
  let depth := 16 * (f.shape.toNat + 1)
  [(.zzero h f, [rein, tile z], .zzero z),
   (.zscale h f, [rein, tile z], .zscale z f.t ((g.s.getD (xf f 0 6) 0).truncate 32)),
   (.zadd h f, [rein, tile z, tile (xf f 0 5)], .zadd z (xf f 0 5) f.t),
   (.zcvt h f, [rein, tile z], .zcvt z f.t),
   (.osbind h f, [rein], .osbind f.sa.toNat (xf f 0 2) (spanIds s g.team)),
   (.osflush h f, [rein], .osflush f.sa.toNat),
   (.mma h f, [rein, tile z, (decide (boundAs e f.sa.toNat = 0), 6), (!f.xf.getLsbD 7 && decide (boundAs e f.sb.toNat ≠ 1), 6),
      (f.xf.getLsbD 7 && decide (keptB e ≠ some (f.t, depth)), 7)],
    .mma z f.sa.toNat f.sb.toNat f.t depth (xf f 0 6 + 1) (f.xf.getLsbD 6) (f.xf.getLsbD 7) (f.xf.getLsbD 8) (f.xf.getLsbD 9))]

end Sys2Proof.Claims

/-- The engine commands enter the queue after their checks: the tile operations, the passes, the bindings; HDRAIN and ZLD begin a
result; ZLD and ZST check and translate their rows at issue, and ZST owns the lines that it will write (10 R254, R266, R270 to
R273, R276, R278). -/
def Sys2Proof.Claims.CommandsEnter : Prop :=
  (∀ s g h f i cs k, EngRuns s g i h → (i, cs, k) ∈ plainCommands s g h f →
    (∀ sub, failing cs = some sub → Traps i s s g (mxs sub)) ∧ (failing cs = none → Enters i s s g g k [])) ∧
  (∀ s g h f, EngRuns s g (.hdrain h f) h →
    let i := Instr.hdrain h f
    let l := commandResult s g i h [lineNo g (xf f 0 11)] none
    (spanHolds s (engOf s g.cluster) g.team f.z.toNat = false → Traps i s s g (mxs 5)) ∧
    (spanHolds s (engOf s g.cluster) g.team f.z.toNat = true → g.ll.length < 16 →
      Enters i s s g { g with ll := g.ll ++ [l] }
        (.hdrain f.z.toNat ((g.s.getD (xf f 11 6) 0).toNat % 64) (lineNo g (xf f 0 11)) (threads g.active)) (newKey g l.key))) ∧
  (∀ s g h f, EngRuns s g (.zld h f) h →
    let i := Instr.zld h f
    let e := engOf s g.cluster
    (∀ sub, failing [(!holdsRein e g.team, 4), (!holdsTile e g.team f.z.toNat, 5)] = some sub → Traps i s s g (mxs sub)) ∧
    (failing [(!holdsRein e g.team, 4), (!holdsTile e g.team f.z.toNat, 5)] = none →
      (∀ s1 c, zRows s g f .rd = (s1, .error c) → Traps i s s1 g c) ∧
      (∀ s1 rows, zRows s g f .rd = (s1, .ok rows) →
        ((g.coal ≠ [] ∨ g.fifo ≠ []) → exec i s = .next s) ∧
        (g.coal = [] → g.fifo = [] → g.ll.length < 16 →
          let l := commandResult s1 g i h [] (some f.z.toNat)
          Enters i s s1 g { g with ll := g.ll ++ [l] } (.zld f.z.toNat f.t rows) (newKey g l.key))))) ∧
  (∀ s g h f, EngRuns s g (.zst h f) h →
    let i := Instr.zst h f
    (spanHolds s (engOf s g.cluster) g.team f.z.toNat = false → Traps i s s g (mxs 5)) ∧
    (spanHolds s (engOf s g.cluster) g.team f.z.toNat = true →
      (∀ s1 c, zRows s g f .wr = (s1, .error c) → Traps i s s1 g c) ∧
      (∀ s1 rows, zRows s g f .wr = (s1, .ok rows) →
        Enters i s { s1 with owned := s1.owned ++ (pieceLines rows).map (fun l => (s1.nextId, l)) } g g (.zst f.z.toNat f.t rows) [])))

namespace Sys2Proof.Claims
open Sys2Proof.Machine

/-- Another group of the lane, of a team that the binding serves, waits to append to a stream, and issued its HFEED before the one with
this key (10 R252, R269). -/
def FedBefore (s : State) (g : Group) (n key : Nat) : Prop :=
  ∃ x ∈ s.groups, x.id ≠ g.id ∧ x.lane = g.lane ∧ x.st = .parked ∧ x.halted = false ∧ x.team ∈ (streamOf (engOf s g.cluster) n).span ∧ ∃ k ws, x.park = some (.hfeed n k ws) ∧ k < key

end Sys2Proof.Claims

/-- The harness: HFEED appends the words of the active threads to the queue of its lane as one unit, or waits for room and for the
HFEEDs of its lane issued before it; a parked one goes on when they fit (10 R252, R269). -/
def Sys2Proof.Claims.HarnessFeeds : Prop :=
  (∀ s g h f, EngRuns s g (.hfeed h f) h →
    let i := Instr.hfeed h f
    let ws := (threads g.active).map (fun t => readV s g (xf f 0 11) t)
    let x := streamOf (engOf s g.cluster) f.sa.toNat
    let row := x.rows.getD (g.lane % 64) []
    let fits := x.bind = 2 ∧ g.team ∈ x.span ∧ row.length + 4 * ws.length ≤ 256 ∧ ¬ FedBefore s g f.sa.toNat s.nextId
    let y := { x with rows := x.rows.set (g.lane % 64) (row ++ ws.flatMap (fun w => natLE 4 w.toNat)) }
    (fits → Does i s (onEng s g.cluster (fun e => { e with streams := e.streams.set f.sa.toNat y })) g g []) ∧
    (¬ fits → Moves i s { s with nextId := s.nextId + 1 } g { g with st := .parked, park := some (.hfeed f.sa.toNat s.nextId ws) })) ∧
  (∀ s g n key ws, groupOf s g.id = some g → g.park = some (.hfeed n key ws) → g.st = .parked → g.halted = false → g.cluster < s.clusters.length →
    switchHolds s g = false → n < (engOf s g.cluster).streams.length →
    let x := streamOf (engOf s g.cluster) n
    let row := x.rows.getD (g.lane % 64) []
    x.bind = 2 → g.team ∈ x.span → row.length + 4 * ws.length ≤ 256 → ¬ FedBefore s g n key →
      ∃ t, exec (.hfeedAppend g.id) s = .next t ∧ groupOf t g.id = some (nextPos { g with st := .ready, park := none, refetch := true }) ∧
        streamOf (engOf t g.cluster) n = { x with rows := x.rows.set (g.lane % 64) (row ++ ws.flatMap (fun w => natLE 4 w.toNat)) })

namespace Sys2Proof.Claims
open Sys2Proof.Machine

/-- A command whose turn has come: the first of the queue but for accesses of path-trace registers, of which none is due. -/
def Heads (s : State) (c : Nat) (k : ECmd) : Prop :=
  c < s.clusters.length ∧ qReady (engOf s c) = none ∧ headCmd (engOf s c) = some k ∧ (∀ x ∈ (engOf s c).cmds, x.key = k.key → x = k)

/-- The effect of the first command is done: its tile is w, its flags are fl, and the other tiles are as they were. -/
def TileDone (s : State) (c : Nat) (k : ECmd) (z : Nat) (w : List W32) (fl : Flags) : Prop :=
  ∃ t, exec (.engineCommand c) s = .next t ∧ tileOf (engOf t c) z = w ∧ (∀ y, y ≠ z → tileOf (engOf t c) y = tileOf (engOf s c) y) ∧
    headCmd (engOf t c) = some { k with phase := 2, flags := fl, fail := k.fail.map (fun b => { b with at_ := some s.fcycles }) } ∧ t.mem = s.mem

/-- The flags of some results. -/
def allFlags (os : List (W32 × Flags)) : Flags := os.foldl (fun a o => a ||| o.2) 0

end Sys2Proof.Claims

/-- The engine at work on the first command: ZZERO, ZSCALE, ZADD and ZCVT element by element; HDRAIN gives the words of its row pair
by thread; a pass that has its operands accumulates into its tile; one that is checked does so too where one of its runs shows no
mismatch, and where both do it leaves its tile as it was, with an engine error; which it is stands open (log entry 3), and that the
failed pass gives no flags is the model's choice (log entry 82); a command whose effect is done leaves the queue and reports its flags
to its group (02 R49 to R52; 10 R248, R254, R259, R262, R270 to R272, R274, R275). -/
def Obligations.EngineWorks : Prop :=
  (∀ s c k z, Heads s c k → k.phase = 0 →
    let w := tileOf (engOf s c) z
    let each := fun (f : Nat → W32 → W32 × Flags) =>
      TileDone s c k z ((w.zipIdx.map (fun x => f x.2 x.1)).map (fun o => o.1)) (allFlags (w.zipIdx.map (fun x => f x.2 x.1)))
    (k.kind = .zzero z → TileDone s c k z (List.replicate 1024 0) k.flags) ∧
    (∀ ty v, k.kind = .zscale z ty v → each (fun _ x => scaleEl ty v x)) ∧
    (∀ y ty, k.kind = .zadd z y ty → each (fun i x => addEl ty ((tileOf (engOf s c) y).getD i 0) x)) ∧
    (∀ ty, k.kind = .zcvt z ty → each (fun _ x => cvtEl ty x)) ∧
    (∀ row0 line ts g l, k.kind = .hdrain z row0 line ts → groupOf s k.gid = some g → g.ll.find? (fun l => decide (l.key = k.key)) = some l →
      ∃ t g', exec (.engineCommand c) s = .next t ∧ groupOf t k.gid = some g' ∧ g'.ll.find? (fun l => decide (l.key = k.key)) =
        some { l with need := 0, vec := ts.map (fun x => (line, x, w.getD (16 * ((row0 + x / 16) % 64) + x % 16) 0)) })) ∧
  (∀ s c k z sa sb ty d m acc keep chk mix, Heads s c k → k.kind = .mma z sa sb ty d m acc keep chk mix →
    (k.phase = 0 → switching s c = false → (k.kind.heavy = true → k.lv = true ∨ hasLeave s c k.team = true) → bFull k = true → aReady (engOf s c) k = true →
      ∃ t, exec (.passStart c) s = .next t ∧ headCmd (engOf t c) = some { k with phase := 1 }) ∧
    (k.phase = 1 → aFull k = true → bFull k = true →
      let b := if keep then ((engOf s c).heldB.map (fun b => b.1)).getD [] else canonRows ty d 16 k.b
      let good := TileDone s c k z (mmaTile ty d acc mix (aRows k) b (tileOf (engOf s c) z)).1 (mmaTile ty d acc mix (aRows k) b (tileOf (engOf s c) z)).2
      let inc := fun (i : Nat) => ((engOf s c).mstat.getD i 0 + 1) % 2 ^ 64
      (chk = false → good) ∧
      (chk = true → Config.engineError s.freeCtr = false ∨ Config.engineError (s.freeCtr + 1) = false → good) ∧
      (chk = true → Config.engineError s.freeCtr = true → Config.engineError (s.freeCtr + 1) = true →
        ∃ t, exec (.engineCommand c) s = .next t ∧ (∀ y, tileOf (engOf t c) y = tileOf (engOf s c) y) ∧ t.mem = s.mem ∧
          (engOf t c).mstat = ((engOf s c).mstat.set 0 (inc 0)).set 1 (inc 1) ∧
          headCmd (engOf t c) = some { k with phase := 2, fail := some { cause := 0x19, sub := 0, info := BitVec.ofNat 64 z, at_ := some s.fcycles } }))) ∧
  (∀ s c k g, c < s.clusters.length → headCmd (engOf s c) = some k → k.phase = 2 → k.todo = [] → (∀ r ∈ s.remotes, r.copy ≠ some k.key) →
    k.kind ≠ .unbind → (∀ z q sa mask m sp tree, k.kind ≠ .desc z q sa mask m (some sp) tree) → groupOf s k.gid = some g → g.st ≠ .retiring → g.st ≠ .saved →
    ∃ t, exec (.commandRetire c) s = .next t ∧ (engOf t c).cmds = (engOf s c).cmds.filter (fun x => decide (x.key ≠ k.key)) ∧
      groupOf t k.gid = some { g with mwFlags := g.mwFlags ||| k.flags, mwFault := g.mwFault.or k.fail })

namespace Sys2Proof.Claims
open Sys2Proof.Machine

/-- A parked group that no other shares its identity with, and that is not halted. -/
def Alone (s : State) (g : Group) : Prop := s.groups.filter (fun j => decide (j.id = g.id)) = [g] ∧ g.st = .parked ∧ g.halted = false

/-- A parked group that has gone on (06 R114, R116). -/
def goneOn (g : Group) : Group := nextPos { g with st := .ready, park := none, refetch := true }

end Sys2Proof.Claims

/-- MWAIT waits until the group's commands have retired, then ORs their flags into FLAGS, or takes their fault; MSTAT reads a
counter, refused in replay mode, and clears it where asked; MRESET waits for an engine reset, which discards the commands and entries of
its cluster, fails the copies into its streams, makes the teams that held entries reset-pending and wakes the groups that waited there;
TREEBIND parks, and then binds the tree of a sound descriptor and empties the node cache (02 R52; 04 R96; 10 R265, R274, R275, R277,
R278; 11 R284). -/
def Obligations.EngineWaitsAndCounters : Prop :=
  (∀ s g h f, EngRuns s g (.mwait h f) h →
    let i := Instr.mwait h f
    let busy := ∃ k ∈ (engOf s g.cluster).cmds ++ (engOf s g.cluster).pend, k.gid = g.id ∧ k.kind.counts = true
    (busy → Moves i s s g { g with st := .parked, park := some .mwait }) ∧
    (¬ busy → g.mwFault = none → Does i s s g { g with flags := g.flags ||| g.mwFlags, mwFlags := 0 } []) ∧
    (¬ busy → ∀ c, g.mwFault = some c → c.after = false → exec i s =
      .next (takeTrap (setGroup s { g with flags := g.flags ||| g.mwFlags, mwFlags := 0, mwFault := none })
        { g with flags := g.flags ||| g.mwFlags, mwFlags := 0, mwFault := none } c))) ∧
  (∀ s g h f, EngRuns s g (.mstat h f) h →
    let i := Instr.mstat h f
    let e := engOf s g.cluster
    let item := f.shape.toNat
    let clr := f.xf.getLsbD 6
    let cs := [(!e.ents.any (fun x => decide (x.team = g.team)), 1), (clr && !holdsRein e g.team, 4)]
    let v : W64 := BitVec.ofNat 64 (if item < 64 then e.mstat.getD item 0 else e.idle.getD (item - 64) 0)
    (∀ sub, failing cs = some sub → Traps i s s g (mxs sub)) ∧
    (failing cs = none → isReplay s g.ctx = true → Traps i s s g { cause := 0x0D, sub := 0 }) ∧
    (failing cs = none → isReplay s g.ctx = false →
      (clr = false → Does i s s g (writeScalar g (xf f 0 6) v) []) ∧
      (clr = true → Does i s (onEng s g.cluster (fun e => if item < 64 then { e with mstat := e.mstat.set item 0 }
        else { e with idle := e.idle.set (item - 64) 0 })) g (writeScalar g (xf f 0 6) v) []))) ∧
  (∀ s g h f, EngRuns s g (.mreset h f) h →
    let i := Instr.mreset h f
    let c := (g.s.getD (xf f 0 6) 0).toNat
    ((143 < c ∨ inPart s g.ctx c = false) → Traps i s s g (mxs 8)) ∧
    (c ≤ 143 → inPart s g.ctx c = true → Moves i s s g { g with st := .parked, park := some (.mreset c) })) ∧
  (∀ s g c, c < s.clusters.length → s.groups.filter (fun k => decide (k.park = some (.mreset c))) = [g] → Alone s g →
    let cmds := (engOf s c).cmds ++ (engOf s c).pend
    ∃ t, exec (.engineResetComplete c) s = .next t ∧ entsOf t c = [] ∧ (engOf t c).cmds = [] ∧ (engOf t c).pend = [] ∧
      (engOf t c).tiles = [] ∧ (engOf t c).qregs = [] ∧ (engOf t c).heldB = none ∧
      (∀ x ∈ t.copies, x.cluster = c → x.cd.dstos = true → if x.queued then x.left = [] else x.failed ≠ none) ∧
      (∀ team, teamOf s team.id = some team → ∃ team', teamOf t team.id = some team' ∧
        team'.resetPend = (team.resetPend || (entsOf s c).any (fun x => decide (x.team = team.id)))) ∧
      ((∀ x ∈ cmds, x.gid ≠ g.id) → groupOf t g.id = some (goneOn g)) ∧
      ∀ k, Alone s k → k.cluster = c → (∀ x ∈ cmds, x.gid ≠ k.id) →
        (((∃ n, k.park = some (.command n) ∨ k.park = some (.qwr n)) ∨ k.park = some .reinrel) → groupOf t k.id = some (goneOn k)) ∧
        ((∃ x ∈ entsOf s c, x.team = k.team) → (k.park = some .reinget ∨ k.park = some .mwait) →
          ∃ s', groupOf s' k.id = some { k with mwFault := if k.park = some .mwait then none else k.mwFault } ∧
            teamOf s' k.team = teamOf t k.team ∧ groupOf t k.id = groupOf (wakeTrap s' k.id { cause := 0x1A, sub := 0 }) k.id)) ∧
  (∀ s g h f, EngRuns s g (.treebind h f) h →
    let i := Instr.treebind h f
    let va := (g.s.getD (xf f 0 6) 0).toNat % 2 ^ 57
    ((∀ x ∈ entsOf s g.cluster, x.team ≠ g.team) → Traps i s s g (mxs 1)) ∧
    ((∃ x ∈ entsOf s g.cluster, x.team = g.team) →
      Moves i s s g { g with st := .parked, park := some (.treebind va) })) ∧
  (∀ s g va, g.park = some (.treebind va) → g.st = .parked → g.halted = false → groupOf s g.id = some g → g.cluster < s.clusters.length →
    (∃ x ∈ entsOf s g.cluster, x.team = g.team) → tearing s g.ctx = false → (coreAt s g.core).halted = false → switchHolds s g = false →
    let read := readTree s g.who g.launch g.core (ownReqs g) va
    (va % 64 ≠ 0 → settleGroup s g = some (wakeTrap s g.id { cause := 0x1B, sub := 0, addr := BitVec.ofNat 64 va })) ∧
    (∀ s1 c, read = (s1, .error (some c)) → settleGroup s g = some (wakeTrap s1 g.id c)) ∧
    (∀ s1 t, read = (s1, .ok t) → ∃ s2, settleGroup s g = some s2 ∧ groupOf s2 g.id = some (goneOn g) ∧ (engOf s2 g.cluster).ncache = [] ∧
      entsOf s2 g.cluster = (entsOf s1 g.cluster).map (fun x => if x.team = g.team then { x with tree := some t } else x)))

namespace Sys2Proof.Claims
open Sys2Proof.Machine

/-- The tree that a team has bound. -/
def treeBound (s : State) (g : Group) : Option Tree := (entOf (engOf s g.cluster) g.team).bind (fun x => x.tree)

/-- The checks that DESC, DSTEP and ASCEND share, in order, for a bound tree: the rein, the path-trace register, the tile of a DESC,
the type, the binding, the rows (11 R283). -/
def descentChecks (s : State) (g : Group) (f : XF) (t : Tree) (span : Bool) (tile : List Nat) : List (Bool × Nat) :=
  let e := engOf s g.cluster
  [(!holdsRein e g.team, 4), (!(if span then spanHolds s e g.team (xf f 10 3) else holdsTile e g.team (xf f 10 3)), 11),
   (tile.any (fun z => !holdsTile e g.team z), 5), (decide (f.t ≠ t.ty), 10), (decide (boundAs e f.sa.toNat = 0), 6),
   (decide (2 ^ (f.shape.toNat % 64 + 1) ≤ (g.s.getD (xf f 0 6) 0).toNat), 12)]

/-- What NADDR computes (11 R285). -/
def nodeAddress (op depth x : Nat) : Nat :=
  let level := (x + 1).log2
  (if op = 0 then 2 * x + 1 else if op = 1 then 2 * x + 2 else if op = 2 then (if x = 0 then 2 ^ 32 - 1 else (x - 1) / 2)
   else if op = 3 then level else if op = 4 then 2 ^ depth - 1 + x % 2 ^ depth else x - (2 ^ level - 1)) % 2 ^ 32

end Sys2Proof.Claims

/-- DESC, DSTEP and ASCEND enter the queue after their checks; QRD and QWR are ordered with them, QRD as a result and QWR as a wait
(11 R282, R283, R287, R289, R290, R292). -/
def Obligations.DescentCommandsEnter : Prop :=
  (∀ s g h f i, EngRuns s g i h → (i = .desc h f ∨ i = .dstep h f ∨ i = .ascend h f) →
    (holdsRein (engOf s g.cluster) g.team = false → Traps i s s g (mxs 4)) ∧
    (holdsRein (engOf s g.cluster) g.team = true → treeBound s g = none → Traps i s s g (mxs 9))) ∧
  (∀ s g h f t, EngRuns s g (.desc h f) h → treeBound s g = some t →
    let i := Instr.desc h f
    let sp := f.xf.getLsbD 13
    let m := f.shape.toNat % 64 + 1
    let mask := g.s.getD (xf f 0 6) 0
    let cs := descentChecks s g f t false (if sp then [] else [f.z.toNat]) ++ [(decide (65536 < m * rowBytes t.ty t.k), 13)]
    (∀ sub, failing cs = some sub → Traps i s s g (mxs sub)) ∧
    (failing cs = none → sp = false → Enters i s s g g (.desc (some (f.z.toNat, xf f 6 4)) (xf f 10 3) f.sa.toNat mask m none t) []) ∧
    (failing cs = none → sp = true →
      (∀ c, ownRange s g (g.a.getD (xf f 14 4) 0) (4 * m) = .error c → Traps i s s g c) ∧
      (∀ o, ownRange s g (g.a.getD (xf f 14 4) 0) (4 * m) = .ok o →
        Enters i s s g g (.desc none (xf f 10 3) f.sa.toNat mask m (some o) t) []))) ∧
  (∀ s g h f t, EngRuns s g (.dstep h f) h → treeBound s g = some t →
    let i := Instr.dstep h f
    let cs := descentChecks s g f t false []
    (∀ sub, failing cs = some sub → Traps i s s g (mxs sub)) ∧
    (failing cs = none →
      Enters i s s g g (.dstep (xf f 10 3) f.sa.toNat (g.s.getD (xf f 0 6) 0) (f.shape.toNat % 64 + 1) (f.xf.getLsbD 13) t) [])) ∧
  (∀ s g h f t, EngRuns s g (.ascend h f) h → treeBound s g = some t →
    let i := Instr.ascend h f
    let cs := descentChecks s g f t true []
    let n := 2 ^ t.depth - 1
    let gb := g.s.getD (xf f 14 6) 0
    let bb := g.s.getD (xf f 14 6 + 1) 0
    let nob := f.xf.getLsbD 13
    let bad := (gradBad s g gb (4 * t.k * n)).or (if nob then none else gradBad s g bb (4 * n))
    (∀ sub, failing cs = some sub → Traps i s s g (mxs sub)) ∧
    (failing cs = none → ∀ c, bad = some c → Traps i s s g c) ∧
    (failing cs = none → bad = none →
      Enters i s s g g (.ascend (xf f 10 3) f.sa.toNat (g.s.getD (xf f 0 6) 0) (f.shape.toNat % 64 + 1) (gb.toNat % 2 ^ 57)
        (if nob then none else some (bb.toNat % 2 ^ 57)) t) [])) ∧
  (∀ s g h f, EngRuns s g (.qrd h f) h →
    let i := Instr.qrd h f
    let q := xf f 17 3
    let l := commandResult s g i h [lineNo g (xf f 0 11)] none
    let k := CmdK.qrd q ((g.s.getD (xf f 11 6) 0).toNat % 64) f.shape.toNat (lineNo g (xf f 0 11)) (threads g.active)
    (spanHolds s (engOf s g.cluster) g.team q = false → Traps i s s g (mxs 11)) ∧
    (spanHolds s (engOf s g.cluster) g.team q = true → g.ll.length < 16 →
      Does i s (onEng { s with nextId := s.nextId + 1 } g.cluster (fun e => { e with cmds := e.cmds ++ [queued s g s.nextId k] })) g
        { g with ll := g.ll ++ [l] } (newKey g l.key))) ∧
  (∀ s g h f, EngRuns s g (.qwr h f) h →
    let i := Instr.qwr h f
    let q := xf f 17 3
    let cs := [(!holdsRein (engOf s g.cluster) g.team, 4), (!holdsTile (engOf s g.cluster) g.team q, 11)]
    let ws := (threads g.active).map (fun t => (t, readV s g (xf f 0 11) t))
    let k := CmdK.qwr q ((g.s.getD (xf f 11 6) 0).toNat % 64) f.shape.toNat ws
    (∀ sub, failing cs = some sub → Traps i s s g (mxs sub)) ∧
    (failing cs = none →
      Moves i s (onEng { s with nextId := s.nextId + 1 } g.cluster (fun e => { e with cmds := e.cmds ++ [queued s g s.nextId k] })) g
        { g with st := .parked, park := some (.qwr s.nextId) }))

/-- NADDR computes node addresses for the active threads; REGRP checks its ranges and counts and waits; its end writes the counts,
the offsets and the stable permutation, or faults on an index (11 R285, R291). -/
def Sys2Proof.Claims.NodesAndRegrouping : Prop :=
  (∀ s g h f, EngRuns s g (.naddr h f) h →
    Answers s g (.naddr h f) (fun t g' =>
      Reads s t g g' (.naddr h f) (fun n => if n = lineNo g (xf f 0 11) then (threads g.active).map (fun x =>
        (x, BitVec.ofNat 32 (nodeAddress (f.shape.toNat % 8) (f.shape.toNat / 16) (readV s g (xf f 11 11) x).toNat))) else []) ∧
      Completed g g' [] ∧ OnlyGroup s t g)) ∧
  (∀ s g h f, EngRuns s g (.regrp h f) h →
    let i := Instr.regrp h f
    let n := (g.s.getD (xf f 8 6) 0).toNat % 2 ^ 32
    let l := (g.s.getD (xf f 8 6) 0).toNat / 2 ^ 32
    let inR := ownRange s g (g.a.getD (xf f 0 4) 0) (4 * n)
    let outR := ownRange s g (g.a.getD (xf f 4 4) 0) (4 * (2 * l + n))
    (∀ c, inR = .error c → Traps i s s g c) ∧
    (∀ a c, inR = .ok a → outR = .error c → Traps i s s g c) ∧
    (∀ a o, inR = .ok a → outR = .ok o →
      ((n = 0 ∨ 65536 < n ∨ l = 0 ∨ 65536 < l) → Traps i s s g { cause := 0x1D, sub := 1 }) ∧
      (1 ≤ n → n ≤ 65536 → 1 ≤ l → l ≤ 65536 →
        (a < o + 4 * (2 * l + n) → o < a + 4 * n → Traps i s s g { cause := 0x1D, sub := 2 }) ∧
        ((o + 4 * (2 * l + n) ≤ a ∨ a + 4 * n ≤ o) → Moves i s s g { g with st := .parked, park := some (.regrp a o n l) })))) ∧
  (∀ s g team a o n l, s.canon = true → groupOf s g.id = some g → g.park = some (.regrp a o n l) → g.st = .parked → g.halted = false →
    switchHolds s g = false → teamOf s g.team = some team → 1 ≤ n → 1 ≤ l → l < 2 ^ 32 →
    let v := fun (i : Nat) => memNat team.scratch (a + 4 * i) 4
    let idx := (List.range n).map v
    ((∃ i, i < n ∧ l ≤ v i ∧ v i ≠ 2 ^ 32 - 1) → exec (.regrpComplete g.id) s = .next (wakeTrap s g.id { cause := 0x1D, sub := 3 })) ∧
    ((∀ i, i < n → v i < l ∨ v i = 2 ^ 32 - 1) → ∃ t team' perm, exec (.regrpComplete g.id) s = .next t ∧ teamOf t g.team = some team' ∧
      groupOf t g.id = some (nextPos { g with st := .ready, park := none, refetch := true }) ∧
      (∀ x, x < l → memNat team'.scratch (o + 4 * x) 4 = idx.count x % 2 ^ 32) ∧
      (∀ x, x < l → memNat team'.scratch (o + 4 * (l + x)) 4 = (((List.range x).map idx.count).foldl (· + ·) 0) % 2 ^ 32) ∧
      (∀ j, j < n → memNat team'.scratch (o + 4 * (2 * l + j)) 4 = perm.getD j (2 ^ 32 - 1) % 2 ^ 32) ∧
      perm = (List.range l).flatMap (fun x => (List.range n).filter (fun i => decide (v i = x)))))

/-- A descent at work: QRD gives the words of its register, and QWR changes them, with bits [30:21] of a header as zero; DSTEP takes
its row one level further, by the sign of its product at the node; an ASCEND's update adds g times x to its element at its home,
with one rounding (11 R281, R286, R288 to R290, R292). -/
def Sys2Proof.Claims.DescentWorks : Prop :=
  (∀ s c k q row0 item line ts g l, c < s.clusters.length → qReady (engOf s c) = some k → k.kind = .qrd q row0 item line ts →
    groupOf s k.gid = some g → g.ll.find? (fun l => decide (l.key = k.key)) = some l →
    ∃ t g', exec (.engineCommand c) s = .next t ∧ groupOf t k.gid = some g' ∧ (engOf t c).cmds = (engOf s c).cmds.filter (fun x => decide (x.key ≠ k.key)) ∧
      g'.ll.find? (fun l => decide (l.key = k.key)) =
        some { l with need := 0, vec := ts.map (fun x => (line, x, (qOf (engOf s c) q).getD (17 * ((row0 + x) % 64) + item) 0)) }) ∧
  (∀ s c k q row0 item x v g, c < s.clusters.length → qReady (engOf s c) = some k → k.kind = .qwr q row0 item [(x, v)] →
    groupOf s k.gid = some g → g.park = some (.qwr k.key) → g.st = .parked → g.halted = false →
    ∃ t, exec (.engineCommand c) s = .next t ∧ groupOf t k.gid = some (nextPos { g with st := .ready, park := none, refetch := true }) ∧
      qOf (engOf t c) q = (qOf (engOf s c) q).set (17 * ((row0 + x) % 64) + item) (if item = 0 then v &&& 0x801FFFFF else v)) ∧
  (∀ s c k q sa mask m tree r, Heads s c k → k.kind = .dstep q sa mask m false tree → k.phase = 1 → aFull k = true →
    treeNeed s c k = false → threads mask = [r] → (qOf (engOf s c) q).length = 1088 →
    let old := qOf (engOf s c) q
    let rec_ := (old.drop (17 * r)).take 17
    let hdr := (rec_.getD 0 0).toNat
    let lvl := bits hdr 16 5
    let path := hdr % 2 ^ 16
    let node := 2 ^ lvl - 1 + path
    let x := rowVals tree.ty tree.k ((aRows k).getD r [])
    hdr.testBit 31 = true → lvl < tree.depth → tree.depth ≤ 16 → path < 2 ^ lvl →
    ∀ s1 w s2 b, nodeBytes s c k (tree.nodes + node * tree.stride) (rowBytes tree.ty tree.k) = (s1, .ok w) →
      nodeBytes s1 c k (tree.bias + 4 * node) 4 = (s2, .ok b) →
      let d := (dotF (BitVec.ofNat 32 (leNat b)) (rowVals tree.ty tree.k w) x).1
      let hdr' : W32 := BitVec.ofNat 32 (2 ^ 31 + 2 ^ 16 * (lvl + 1) + (2 * path + if goesRight d then 1 else 0))
      ∃ t, exec (.engineCommand c) s = .next t ∧ qOf (engOf t c) q = old.take (17 * r) ++ (rec_.set (1 + lvl) d).set 0 hdr' ++ old.drop (17 * r + 17)) ∧
  (∀ s c k q sa mask m gb bb tree r lvl j rest s1 ph, s.canon = true → c < s.clusters.length → headCmd (engOf s c) = some k →
    (∀ x ∈ (engOf s c).cmds, x.key = k.key → x = k) → k.kind = .ascend q sa mask m gb bb tree → k.todo = (r, lvl, j) :: rest → j < tree.k →
    let rec_ := ((qOf (engOf s c) q).drop (17 * r)).take 17
    let hdr := (rec_.getD 0 0).toNat
    let node := 2 ^ lvl - 1 + hdr % 2 ^ 16 / 2 ^ (bits hdr 16 5 - lvl)
    let g := rec_.getD (1 + lvl) 0
    let x := f32Bits ((rowVals tree.ty tree.k ((aRows k).getD r [])).getD j (.fin false 0 0))
    translate s c none k.ctx (gb + 4 * tree.k * node + 4 * j) .wr = (s1, .ok ph) → ph.dev = none → lineOwned s1 (ph.pa / 512) = false →
    clusterFlight s1 c = [] → s1.poison.contains (ph.pa / 128) = false → (∀ i, i < 4 → inQueueDesc s1 (ph.pa + i) = false ∧ inBarRec s1 (ph.pa + i) = false) →
    (∀ x ∈ s1.oredHeld, ph.pa + 4 ≤ x.pa + 8 ∨ x.pa + 12 ≤ ph.pa) →
    let v := (fFma fmtF32 rne (fDecode fmtF32 g.toNat) (fDecode fmtF32 (BitVec.ofNat 32 x).toNat) (fDecode fmtF32 (memNat s1.mem ph.pa 4))).1
    ∃ t k', exec (.ascendUpdate c) s = .next t ∧ memNat t.mem ph.pa 4 = v % 2 ^ 32 ∧ headCmd (engOf t c) = some { k with todo := k' } ∧
      k' = if j + 1 = tree.k + (if bb.isSome then 1 else 0) then rest else (r, lvl, j + 1) :: rest)

/-- Leave: a LEAVE's request is granted at once where a unit is free, none waits and the cluster is not throttled, and else waits its
turn; LEAVE waits with it; LEAVE.rel gives the unit back; the oldest request that waits is granted first (18 R419, R420). That the
request of a tenure does not stand for a LEAVE, and that the grant withdraws what else its team asks for, is the model's choice (log
entry 89). -/
def Obligations.LeaveUnits : Prop :=
  (∀ s g h f, Runs s g (.leave h f) → wideActs g h = true → g.cluster < s.clusters.length →
    let i := Instr.leave h f
    let x := clusterAt s g.cluster
    let parked := { g with st := .parked, park := some Park.leave }
    let waits := ∃ r ∈ x.leaveQ, r.1 = .leave g.team
    (hasLeave s g.cluster g.team = true → Does i s s g g []) ∧
    (hasLeave s g.cluster g.team = false → waits → Moves i s s g parked) ∧
    (hasLeave s g.cluster g.team = false → ¬ waits →
      (x.leaveQ = [] → x.leaves.length < 2 → x.throttled = false →
        Does i s (onCluster s g.cluster (fun x => { x with leaves := x.leaves ++ [.leave g.team] })) g g []) ∧
      ((x.leaveQ ≠ [] ∨ 2 ≤ x.leaves.length ∨ x.throttled = true) →
        Moves i s (onCluster s g.cluster (fun x => { x with leaveQ := x.leaveQ ++ [(.leave g.team, false)] })) g parked))) ∧
  (∀ s g h f, Runs s g (.leaveRel h f) → wideActs g h = true →
    Does (.leaveRel h f) s (onCluster s g.cluster (fun x =>
      { x with leaves := x.leaves.filter (fun l => decide (l ≠ .tenure g.team ∧ l ≠ .leave g.team)) })) g g []) ∧
  (∀ s c x r ok rest, s.clusters[c]? = some x → x.leaveQ = (r, ok) :: rest → x.leaves.length < 2 → (x.throttled = true → ok = true) →
    let others := rest.filter (fun l => l.1.team?.isNone || decide (l.1.team? ≠ r.team?))
    exec (.leaveGrant c) s = .next (onCluster s c (fun x => { x with leaves := x.leaves ++ [r], leaveQ := others })))

namespace Sys2Proof.Claims
open Sys2Proof.Machine

/-- The items of PWRQ (18 R421). -/
def powerItems (s : State) (g : Group) : List (Nat × Nat) :=
  let x := clusterAt s g.cluster
  let waits := x.leaveQ.any (fun l => decide (l.1 = .tenure g.team) || decide (l.1 = .leave g.team))
  [(0, x.mhz), (2, x.pool), (3, match groupLaunch s g with
    | some l => l.cls
    | none => 0), (4, x.ratios.getD 0 0), (5, x.ratios.getD 1 0), (6, x.ratios.getD 2 0), (7, x.injected),
   (8, if x.droop then x.stretched + (cyclesOf s g.cluster - x.cyc0) else x.stretched), (9, x.grantR),
   (10, (if hasLeave s g.cluster g.team then 1 else 0) + (if waits then 2 else 0) + (if x.throttled then 4 else 0))]

end Sys2Proof.Claims

/-- PWRQ reads the items of its cluster, in replay mode the granted class only; a frequency switch sets the pool and its frequency
and a ramp the voltage, and neither step sets the lane clock back; the order of the two is that of the change; a droop injects a
charge, or after 64 injections in 65,536 lane cycles stretches the clock; the undervolt lies between -100 and 0 mV (01 R23; 04 R96;
18 R409, R413, R414, R416, R421). -/
def Sys2Proof.Claims.PowerSteps : Prop :=
  (∀ s g h f, Runs s g (.pwrq h f) → wideActs g h = true →
    let i := Instr.pwrq h f
    (isReplay s g.ctx = true → f.mod ≠ 3 → Traps i s s g { cause := 0x0D, sub := 0 }) ∧
    (∀ n v, (n, v) ∈ powerItems s g → f.mod.toNat = n → (isReplay s g.ctx = true → n = 3) →
      Does i s s g (writeScalar g f.d.toNat (BitVec.ofNat 64 v)) []) ∧
    (∀ y, isReplay s g.ctx = false → f.mod = 1 → (clusterAt s g.cluster).change = some y → y.ramp = true → y.from_ ≤ y.mv →
      let now := y.from_ + (min (y.mv - y.from_).natAbs ((s.fcycles - y.at_) / 20) / 25 * 25 : Nat)
      Does i s s g (writeScalar g f.d.toNat (BitVec.ofNat 64 now.toNat)) []) ∧
    (isReplay s g.ctx = false → f.mod = 1 → (clusterAt s g.cluster).change = none →
      Does i s s g (writeScalar g f.d.toNat (BitVec.ofNat 64 (clusterAt s g.cluster).mv.toNat)) [])) ∧
  (∀ s c x y, s.clusters[c]? = some x → x.change = some y →
    (y.ramp = true → y.at_ + 20 * (y.mv - y.from_).natAbs ≤ s.fcycles →
      let next := if y.up then some { y with ramp := false, at_ := s.fcycles } else none
      exec (.voltageRampEnd c) s = .next (onCluster s c (fun x => { x with mv := y.mv, change := next }))) ∧
    (y.ramp = false → y.at_ + 64 ≤ s.fcycles → ∃ t x', exec (.frequencySwitchEnd c) s = .next t ∧ t.clusters[c]? = some x' ∧
      x'.pool = y.pool ∧ x'.mhz = 1200 + 200 * y.pool ∧ x'.mv = x.mv ∧ cyclesOf t c = cyclesOf s c ∧
      x'.change = if y.up then none else some { y with ramp := true, at_ := s.fcycles })) ∧
  (∀ s c x, s.clusters[c]? = some x → c < 144 →
    let now := cyclesOf s c
    let recent := x.injects.filter (fun k => decide (now < k + 65536))
    (x.droop = false → recent.length < 64 → ∃ t, exec (.droopDetect c) s = .next t ∧
      t.clusters[c]? = some { x with injects := now :: recent, injected := x.injected + 1 }) ∧
    (x.droop = false → 64 ≤ recent.length → ∃ t x', exec (.droopDetect c) s = .next t ∧ t.clusters[c]? = some x' ∧ x'.droop = true ∧
      x'.injected = x.injected ∧ cyclesOf t c = now) ∧
    (x.droop = true → ∃ t x', exec (.droopEnd c) s = .next t ∧ t.clusters[c]? = some x' ∧ x'.droop = false ∧ cyclesOf t c = now ∧
      x'.stretched = x.stretched + (now - x.cyc0))) ∧
  (∀ s pool mv, s.firm.mode = 1 → (pool ≤ 16 → mv ≤ 100 → exec (.undervolt pool mv) s = .next { s with undervolt := s.undervolt.set pool (-(mv : Int)) }) ∧
    ((16 < pool ∨ 100 < mv) → exec (.undervolt pool mv) s = .next s))

/-- The policy step, in normal mode once in 20,000 fabric cycles, closes the interval of every cluster: its ratios are in 1,024ths of the
lane cycles that have passed, its counters begin anew, its grant limit is one of the six (18 R412, R413, R418). -/
def Sys2Proof.Claims.PolicySteps : Prop :=
  ∀ s, s.firm.mode = 1 → s.policyAt ≤ s.fcycles → s.clusters.length = 144 →
    ∃ t, exec .policyStep s = .next t ∧ t.policyAt = (s.fcycles / 20000 + 1) * 20000 ∧ t.fcycles = s.fcycles ∧
      ∀ c, c < 144 →
        let x := clusterAt s c
        let y := clusterAt t c
        let now := cyclesOf s c
        let r := fun (n : Nat) => if now ≤ x.mark then 0 else min 1024 (n * 1024 / (now - x.mark))
        y.ratios = [r x.memstall, r x.issue, r x.mxbusy] ∧ y.memstall = 0 ∧ y.issue = 0 ∧ y.mxbusy = 0 ∧ y.mark = now ∧
        y.pool = x.pool ∧ y.mhz = x.mhz ∧ y.grantR ∈ [32, 24, 16, 12, 8, 4]

/-- The slew limiter admits at most 16 clusters in 64 fabric cycles; it applies to clusters that have issued nothing for 256 lane
cycles, whose lanes neither issue nor choose a group until they are admitted, in the order that the barrier releases which reached them
give (13 R326; 18 R417). -/
def Obligations.SlewLimiter : Prop :=
  (∀ s c, c < 144 → (s.slew.filter (fun t => decide (s.fcycles < t + 64))).length < 16 →
    let due := fun (c : Nat) => (clusterAt s c).lastIssue + 256 ≤ cyclesOf s c ∧ ∃ g ∈ s.groups, g.cluster = c ∧ wantsIssue s g = true
    let rank := fun (c : Nat) => (c + 144 - (clusterAt s c).slewGen % 144) % 144
    due c → (∀ d, d < 144 → due d → d ≠ c → rank c < rank d ∨ rank c = rank d ∧ c < d) →
      exec .slewAdmit s = .next (onCluster { s with slew := s.fcycles :: s.slew.filter (fun t => decide (s.fcycles < t + 64)) } c
        (fun x => { x with lastIssue := cyclesOf s c }))) ∧
  (∀ s, 16 ≤ (s.slew.filter (fun t => decide (s.fcycles < t + 64))).length → exec .slewAdmit s = .fault .notEnabled) ∧
  (∀ s lane, (clusterAt s (lane / 64)).lastIssue + 256 ≤ cyclesOf s (lane / 64) → exec (.laneChoose lane) s = .fault .notEnabled) ∧
  (∀ s lane g, s.groups.find? (fun g => decide (g.lane = lane) && decide (g.st = .running)) = some g →
    (clusterAt s g.cluster).lastIssue + 256 ≤ cyclesOf s g.cluster → ∀ s' gid i, laneTurn s lane ≠ .run s' gid i)

namespace Sys2Proof.Claims
open Sys2Proof.Machine

/-- No TLB of the device holds a translation of these contexts for an address of the range, and no page-walk cache an entry of one of
these contexts (15 R371, R372). -/
def NoneCached (s : State) (ctx : Option Nat) (lo hi : Nat) : Prop :=
  let free := fun (e : TlbEnt) => ¬ ((∀ c, ctx = some c → e.ctx = c) ∧ e.va < hi ∧ lo < e.va + (if e.big then 2 ^ 29 else 2 ^ 16))
  (∀ c ∈ s.cores, ∀ e ∈ c.tlb, free e) ∧ (∀ c ∈ s.clusters, ∀ e ∈ c.l2tlb, free e) ∧ ∀ e ∈ s.pwc, ∃ c, ctx = some c ∧ e.ctx ≠ c

/-- The operands of a TLBINV: the contexts and the addresses, or none where they are refused (15 R371). -/
def invArgs (g : Group) (f : RF) (i : Instr) : Option (Option Nat × Nat × Nat) :=
  let c := (g.s.getD f.d.toNat 0).toNat
  let a := (g.s.getD f.a.toNat 0).toNat % 2 ^ 57
  let n := (g.s.getD f.b.toNat 0).toNat
  match i with
  | .tlbinvVa _ _ => if c < 64 then some (some c, a, a + 1) else none
  | .tlbinvRange _ _ => if c < 64 ∧ 1 ≤ n ∧ a + n ≤ 2 ^ 57 then some (some c, a, a + n) else none
  | .tlbinvCtx _ _ => if c < 64 then some (some c, 0, 2 ^ 57) else none
  | _ => some (none, 0, 2 ^ 57)

end Sys2Proof.Claims

/-- HALT, HALT.resume and DBGDRAIN refuse a core outside the partition, have no effect where there is nothing to do, and else wait, HALT
with its core halted; the wait ends once every group of the core has stopped, with the core halted, resumed, or drained; TLBINV removes
the cached translations it names and the page-walk-cache entries of their contexts, waits for the accesses already translated, and leaves
none cached when it completes (15 R371 to R373; 16 R389, R390, R396, R397). -/
def Obligations.CoresHaltAndTranslationsEnd : Prop :=
  (∀ s g h f i, (i = .halt h f ∨ i = .haltResume h f ∨ i = .dbgdrain h f) → Runs s g i → wideActs g h = true →
    let v := (g.s.getD f.d.toNat 0).toNat
    let mine := ((ctxRec s g.ctx).map (fun (r : CRec) => r.part.getD (v / 4) false)).getD false
    ((575 < v ∨ mine = false) → Traps i s s g { cause := 3, sub := 0 }) ∧
    (v ≤ 575 → mine = true →
      (i = .halt h f → (coreAt s v).halted = true → Does i s s g g []) ∧
      (i = .halt h f → (coreAt s v).halted = false →
        Moves i s (onCore s v (fun c => { c with halted := true })) g { g with st := .parked, park := some (.halt v 0) }) ∧
      (i ≠ .halt h f → (coreAt s v).halted = false → Does i s s g g []) ∧
      (i = .haltResume h f → (coreAt s v).halted = true → Moves i s s g { g with st := .parked, park := some (.halt v 1) }) ∧
      (i = .dbgdrain h f → (coreAt s v).halted = true → Moves i s s g { g with st := .parked, park := some (.halt v 2) }))) ∧
  (∀ s g h f i, (i = .halt h f ∨ i = .haltResume h f ∨ i = .dbgdrain h f) → Runs s g i → wideActs g h = true → g.halted = false →
    let v := (g.s.getD f.d.toNat 0).toNat
    let mine := ((ctxRec s g.ctx).map (fun (r : CRec) => r.part.getD (v / 4) false)).getD false
    let goesOn := fun (u : State) (g1 : Group) => groupOf u g.id = some (nextPos { g1 with st := .ready, park := none, refetch := true })
    v ≤ 575 → mine = true → v < s.cores.length → (∀ k ∈ s.groups, stillGoing k v = false) →
      (i = .halt h f → (coreAt s v).halted = false → ∃ t g1 u, exec i s = .next t ∧ (coreAt t v).halted = true ∧ groupOf t g.id = some g1 ∧
        haltEnd t g1 v 0 = some u ∧ (coreAt u v).halted = true ∧ goesOn u g1) ∧
      (i = .haltResume h f → (coreAt s v).halted = true → (∀ k ∈ s.groups, k.id = g.id → k = g) → (∀ x ∈ coreTeams s v, x.id ≠ g.team) → ∃ t g1 u, exec i s = .next t ∧ groupOf t g.id = some g1 ∧
        haltEnd t g1 v 1 = some u ∧ (coreAt u v).halted = false ∧ (coreAt u v).drained = false ∧ goesOn u g1) ∧
      (i = .dbgdrain h f → (coreAt s v).halted = true → ∃ t g1, exec i s = .next t ∧ groupOf t g.id = some g1 ∧
        (mayDrain t v = true → ∃ u, haltEnd t g1 v 2 = some u ∧ (coreAt u v).drained = true ∧ goesOn u g1))) ∧
  (∀ s g h f i, (i = .tlbinvVa h f ∨ i = .tlbinvRange h f ∨ i = .tlbinvCtx h f ∨ i = .tlbinvAll h f) → Runs s g i → wideActs g h = true →
    (invArgs g f i = none → Traps i s s g { cause := 6, sub := 6 }) ∧
    (∀ ctx lo hi, invArgs g f i = some (ctx, lo, hi) →
      (∀ c x, ctx = some c → s.contexts[c]? = some x → x.st = .free → Does i s s g g []) ∧
      ((∀ c x, ctx = some c → s.contexts[c]? = some x → x.st ≠ .free) →
        ∃ s', NoneCached s' ctx lo hi ∧ s'.mem = s.mem ∧ s'.groups = s.groups ∧
          Moves i s s' g { g with st := .parked, park := some (.tlbinv ctx lo hi (translated s ctx lo hi)) }))) ∧
  (∀ s g h f i ctx lo hi, (i = .tlbinvVa h f ∨ i = .tlbinvRange h f ∨ i = .tlbinvCtx h f ∨ i = .tlbinvAll h f) → Runs s g i →
    wideActs g h = true → g.halted = false → invArgs g f i = some (ctx, lo, hi) →
    (∀ c x, ctx = some c → s.contexts[c]? = some x → x.st ≠ .free) → translated s ctx lo hi = [] → switchHolds s g = false →
    ∃ t g1 u, exec i s = .next t ∧ NoneCached t ctx lo hi ∧ t.mem = s.mem ∧ groupOf t g.id = some g1 ∧
      exec (.tlbinvComplete g.id) t = .next u ∧ NoneCached u ctx lo hi ∧ u.mem = s.mem ∧
      groupOf u g.id = some (nextPos { g1 with st := .ready, park := none, refetch := true })) ∧
  (∀ s g ctx lo hi ids, groupOf s g.id = some g → g.park = some (.tlbinv ctx lo hi ids) → g.st = .parked → g.halted = false →
    switchHolds s g = false → (∀ k ∈ underWay s, k ∉ ids) →
    ∃ t, exec (.tlbinvComplete g.id) s = .next t ∧ NoneCached t ctx lo hi ∧ t.mem = s.mem ∧
      groupOf t g.id = some (nextPos { g with st := .ready, park := none, refetch := true }))

namespace Sys2Proof.Claims
open Sys2Proof.Machine

/-- The words of a context record have no field out of its range and no reserved bit set (04 R79, R80). -/
def GoodRecord (w : Nat → Nat) : Prop :=
  (w 0 < 2 ^ 52 ∧ w 0 % 2 ^ 16 = 0) ∧ (w 1 < 2 ^ 11 ∧ bits (w 1) 2 6 = 0) ∧ (w 4 < 2 ^ 16 ∧ ¬ (w 2 = 0 ∧ w 3 = 0 ∧ w 4 = 0)) ∧
  (w 5 < 2 ^ 41 ∧ 1200 ≤ bits (w 5) 24 16 ∧ bits (w 5) 24 16 ≤ 4400 ∧ 1 ≤ bits (w 5) 8 16 ∧ bits (w 5) 8 16 ≤ 2400 ∧ bits (w 5) 0 8 ≠ 0) ∧
  (w 6 < 2 ^ 16 ∧ 1 ≤ w 6 ∧ w 6 ≤ 4096) ∧ (w 7 < 2 ^ 57 ∧ w 7 % 2 ^ 16 = 0) ∧ (w 8 < 2 ^ 40 ∧ w 8 % 2 ^ 16 = 0 ∧ w 8 ≠ 0) ∧
  (w 9 < 2 ^ 57 ∧ w 9 % 2 ^ 16 = 0) ∧ (2 ≤ w 10 ∧ w 10 ≤ 73728) ∧ w 11 % 64 = 0 ∧ w 12 % 64 = 0 ∧ w 13 % 64 = 0 ∧ w 14 % 8 = 0 ∧
  (w 15 < 2 ^ 32 ∧ bits (w 15) 11 5 = 0 ∧ bits (w 15) 0 11 ≠ 0)

/-- The record that CREC names holds these words: it lies aligned to 128 bytes in memory that is not poisoned. -/
def RecordAt (s : State) (c : Context) (w : Nat → Nat) : Prop :=
  c.crec.toNat % 128 = 0 ∧ c.crec.toNat < paLimit ∧ c.crec.toNat / 128 ∉ s.poison ∧ w = fun i => memNat s.mem (c.crec.toNat + 8 * i) 8

/-- The commands of CCMD, by their codes (04 R94). -/
def commandOf (ctx : Nat) : List Instr :=
  [.create ctx, .start ctx, .suspend ctx, .resume ctx, .teardown ctx, .grant ctx]

/-- A step of the context leads to a state of the context that is as P says, with the command reported (04 R94). -/
def Commands (i : Instr) (s : State) (ctx cmd : Nat) (P : State → Context → Prop) : Prop :=
  ∃ t c, exec i s = .next t ∧ t.contexts[ctx]? = some c ∧ c.cmd = cmd ∧ c.result = 0 ∧ P t c

/-- No entry of the launch queue of a context has still to be read from another device. -/
def EntriesRead (s : State) (ctx : Nat) : Prop := ∀ q, sysQueue s ctx 1 = some q → ∀ e ∈ q.ents, e.bytes ≠ []

/-- The address of the entry k places behind the tail of a queue (12 R300). -/
def ringVA (q : Queue) (k : Nat) : Nat := (q.store + 64 * ((q.next + k) % q.cap)) % 2 ^ 57

/-- The state after the home slice has translated the first n entries behind the tail of a queue (15 R367). -/
def ringWalked (s : State) (q : Queue) (n : Nat) : State := (List.range n).foldl (fun s k => (walkNow s q.ctx (ringVA q k) .rd).1) s

/-- A context that holds nothing (04 R93). -/
def Released (t : State) (ctx : Nat) (c : Context) : Prop :=
  c.st = .free ∧ c.busy = false ∧ c.recd = none ∧ c.alloc = [] ∧ c.slots = [] ∧ c.ctrs = [] ∧ c.evpend.getLsbD 5 = true ∧
  (∀ q ∈ t.queues, q.ctx ≠ ctx) ∧ (∀ x ∈ t.teams, x.ctx ≠ ctx) ∧ (∀ g ∈ t.groups, g.ctx ≠ ctx) ∧ NoneCached t (some ctx) 0 (2 ^ 57)

end Sys2Proof.Claims

/-- The commands of a control page: one that comes while another is in progress reports 1, one not listed for the state reports 2
and changes no state; CREATE checks the record, opens the three system queues and leaves the context CREATED; START and RESUME leave
it ACTIVE; SUSPEND requests its resident teams; GRANT takes PRIO and the power grant again (04 R79 to R81, R87, R93, R94). What a
command reports that comes while another is in progress (log entry 42), the codes of CREATE and LDOOR (log entry 43), and result 3 of
GRANT on a record that is not well-formed (log entry 66) are the model's choices. -/
def Sys2Proof.Claims.PageCommands : Prop :=
  ∀ s ctx c, s.contexts[ctx]? = some c →
    (∀ n i, c.busy = true → (commandOf ctx)[n]? = some i → exec i s = .next (report s ctx (n + 1) 1)) ∧
    (c.busy = false →
      (s.firm.mode ≠ 1 → exec (.create ctx) s = .next (report s ctx 1 4)) ∧
      (s.firm.mode = 1 →
        (c.st ≠ .free → exec (.create ctx) s = .next (report s ctx 1 2)) ∧
        (c.st = .free → (∀ w, RecordAt s c w → ¬ GoodRecord w) → exec (.create ctx) s = .next (report s ctx 1 3)) ∧
        (∀ w, c.st = .free → RecordAt s c w → GoodRecord w →
          (((readCRec w).nqueue < 3 ∨ 65536 * (readCRec w).rsize < frameSize 16 (readCRec w).nregs) →
            exec (.create ctx) s = .next (report s ctx 1 4)) ∧
          (3 ≤ (readCRec w).nqueue → frameSize 16 (readCRec w).nregs ≤ 65536 * (readCRec w).rsize →
            (createWith s ctx (readCRec w) = none → exec (.create ctx) s = .next (report s ctx 1 3)) ∧
            (createWith s ctx (readCRec w) ≠ none → Commands (.create ctx) s ctx 1 (fun t c =>
              c.st = .created ∧ c.recd = some (readCRec w) ∧ c.openQ = 3 ∧ c.ctrs = [] ∧ c.alloc = [] ∧ c.slots = [] ∧
              t.groups = s.groups ∧ t.teams = s.teams ∧ t.launches = s.launches))))) ∧
      (c.st = .created → exec (.start ctx) s = .next (report (onCtx s ctx (fun c => { c with st := .active })) ctx 2 0)) ∧
      (c.st ≠ .created → exec (.start ctx) s = .next (report s ctx 2 2)) ∧
      (c.st = .active → Commands (.suspend ctx) s ctx 3 (fun t c =>
        (∀ x ∈ t.teams, x.ctx = ctx → x.st = .resident → x.launch.isSome = true → x.preq.isSome = true) ∧
        t.groups = s.groups ∧ t.mem = s.mem ∧ t.launches = s.launches ∧
        ((∀ x ∈ s.teams, x.ctx ≠ ctx) → c.st = .suspended ∧ c.evpend.getLsbD 4 = true) ∧
        ((∃ x ∈ s.teams, x.ctx = ctx ∧ x.st = .resident) → c.st = .suspending))) ∧
      (c.st ≠ .active → exec (.suspend ctx) s = .next (report s ctx 3 2)) ∧
      (c.st = .suspended → Commands (.resume ctx) s ctx 4 (fun t c =>
        c.st = .active ∧ c.evpend.getLsbD 4 = true ∧ t.groups = s.groups ∧ t.teams = s.teams ∧ t.mem = s.mem)) ∧
      (c.st = .suspending → exec (.resume ctx) s = .next (report s ctx 4 1)) ∧
      (c.st ≠ .suspended → c.st ≠ .suspending → exec (.resume ctx) s = .next (report s ctx 4 2)) ∧
      (c.st = .active → ∀ w, RecordAt s c w → GoodRecord w →
        exec (.grant ctx) s = .next (report (onCtx s ctx (fun c => { c with
          recd := c.recd.map (fun x => { x with prio := bits (w 1) 8 3, grant := BitVec.ofNat 64 (w 5) }),
          grantNew := some (BitVec.ofNat 64 (w 5)) })) ctx 6 0)) ∧
      (c.st = .active → (∀ w, RecordAt s c w → ¬ GoodRecord w) → exec (.grant ctx) s = .next (report s ctx 6 3)) ∧
      (c.st ≠ .active → exec (.grant ctx) s = .next (report s ctx 6 2)))

/-- TEARDOWN of a CREATED context releases it at once, with STATUS of the launches that stand in its queue (the model's choice, log
entry 67); of one that runs it stops every group of the context and stays in progress, and the context is released once the accesses,
copies and commands it issued have drained: nothing of it is left but what it sends to other devices to tell its launches' ends, its
event is raised (04 R93 to R95; 05 R101). -/
def Obligations.ContextsEnd : Prop :=
  ∀ s ctx c, s.contexts[ctx]? = some c →
    (c.busy = false →
      ((c.st = .free ∨ c.st = .tearing) → exec (.teardown ctx) s = .next (report s ctx 5 2)) ∧
      (c.st = .created → EntriesRead s ctx → Commands (.teardown ctx) s ctx 5 (fun t c => Released t ctx c ∧
        ((∀ l ∈ s.launches, l.ctx ≠ ctx) → (∀ q, sysQueue s ctx 1 = some q → q.ents = []) → t.mem = s.mem) ∧
        (∀ q e ph, s.canon = true → (∀ l ∈ s.launches, l.ctx ≠ ctx) → sysQueue s ctx 1 = some q → q.ents = [e] →
          peek s ctx ((wAt e.bytes 0).toNat % 2 ^ 57) .rd = .ok ph → ph.dev = none →
          memNat t.mem (ph.pa + 0x40) 8 = 3 + 2 ^ 8 * 0x45 + 2 ^ 16 * (s.fcycles % 2 ^ 48)))) ∧
      ((c.st = .active ∨ c.st = .suspending ∨ c.st = .suspended ∨ c.st = .created ∧ ¬ EntriesRead s ctx) → Commands (.teardown ctx) s ctx 5 (fun t c =>
        c.st = .tearing ∧ c.busy = true ∧ t.mem = s.mem ∧ t.teams = s.teams ∧ t.launches = s.launches ∧
        (∀ g ∈ t.groups, g.ctx = ctx → g.st ≠ .running) ∧
        (∀ x ∈ t.clusters, ∀ b ∈ x.bins, ∀ l, launchOf s b.launch = some l → l.ctx ≠ ctx)))) ∧
    (c.st = .tearing → ctxWork s ctx = false → EntriesRead s ctx → ∃ t c', exec (.teardownComplete ctx) s = .next t ∧ t.contexts[ctx]? = some c' ∧
      Released t ctx c' ∧ (∀ l ∈ t.launches, l.ctx ≠ ctx) ∧ (∀ f ∈ t.fired, f.ctx ≠ ctx) ∧ (∀ r ∈ t.remotes, r.ctx = ctx → r.writes = true) ∧
      ((∀ l ∈ s.launches, l.ctx ≠ ctx) → (∀ q, sysQueue s ctx 1 = some q → q.ents = []) → ∀ r ∈ t.remotes, r.ctx ≠ ctx) ∧
      (∀ x ∈ t.claims, x.ctx ≠ ctx) ∧ (∀ x ∈ t.copies, x.ctx ≠ ctx) ∧ (∀ x ∈ t.joins, x.1 ≠ ctx))

/-- LDOOR makes as many entries visible at the tail of the launch queue as it names, all of them or none; a one written to EVPEND
clears its bit (04 R87, R94). -/
def Sys2Proof.Claims.DoorbellAndEvents : Prop :=
  (∀ s ctx n c, s.contexts[ctx]? = some c →
    (∀ q, sysQueue s ctx 1 = some q →
      ((n = 0 ∨ 4096 < n ∨ q.cap < q.ents.length + n) → exec (.ldoor ctx n) s = .next (report s ctx 0 3)) ∧
      (1 ≤ n → n ≤ 4096 → q.ents.length + n ≤ q.cap → ∃ t q', exec (.ldoor ctx n) s = .next t ∧ sysQueue t ctx 1 = some q' ∧
        q'.next = q.next + n ∧ q'.ents.length = q.ents.length + n ∧ q'.ents.take q.ents.length = q.ents ∧
        (∀ k, k < n → ∃ e, q'.ents[q.ents.length + k]? = some e ∧ e.seq = q.next + k ∧ e.claimer = none ∧
          ∀ s' ph, walkNow (ringWalked s q k) q.ctx (ringVA q k) .rd = (s', .ok ph) →
            e.bytes = if ph.dev = none then memBytes s'.mem ph.pa 64 else []) ∧
        t.contexts = s.contexts ∧ t.groups = s.groups ∧
        (s.canon = true → ∀ a, (a < q.pa + 0x20 ∨ q.pa + 0x30 ≤ a) → memGet t.mem a = memGet (ringWalked s q n).mem a))) ∧
    (sysQueue s ctx 1 = none → exec (.ldoor ctx n) s = .next (report s ctx 0 3))) ∧
  (∀ s ctx ones c, s.contexts[ctx]? = some c →
    exec (.evpendClear ctx ones) s = .next (onCtx s ctx (fun c => { c with evpend := c.evpend &&& ~~~(ones.truncate 6) })))

namespace Sys2Proof.Claims
open Sys2Proof.Machine

/-- A group that its lane may choose (06 R115, R116): it is READY there, and neither halted nor about to be saved. -/
def MayRun (s : State) (lane : Nat) (g : Group) : Prop :=
  g ∈ s.groups ∧ g.lane = lane ∧ g.st = .ready ∧ g.halted = false ∧ (g.fullSave = true → g.handler = true) ∧
  (coreAt s g.core).halted = false ∧ ∀ c, s.contexts[g.ctx]? = some c → c.st ≠ .tearing

/-- The order in which a lane chooses (06 R116): handler groups, then groups passed over 16 times, each by age, then by PRIO, of
which there are eight, a group that has yielded behind the others of its PRIO, then by age. -/
def ChosenBefore (s : State) (a b : Group) : Prop :=
  let kind := fun (g : Group) => if g.handler = true ∨ g.hslot = true then 0 else if 16 ≤ g.pass then 1 else 2
  let prio := fun (g : Group) => min 7 (((ctxRec s g.ctx).map (fun (r : CRec) => r.prio)).getD 0)
  let late := fun (g : Group) => if g.yielded then 1 else 0
  kind a < kind b ∨ (kind a = kind b ∧ (
    if kind a < 2 then a.birth < b.birth
    else prio b < prio a ∨ (prio a = prio b ∧ (late a < late b ∨ (late a = late b ∧ a.birth < b.birth)))))

/-- The waits of the group's header are met (03 R55, R60): WSTORE, WMX and WLA. -/
def WaitsMet (s : State) (g : Group) : Prop :=
  let h := headerOf (g.clause.getD 0 0)
  let e := engOf s g.cluster
  (h.wstore = true → g.coal = [] ∧ g.fifo = []) ∧ (h.wmx = true → ∀ c ∈ e.cmds ++ e.pend, c.gid = g.id → c.kind.isPass = false) ∧
  (h.wla = true → g.ll = [])

/-- A running group stands before an instruction of its clause and nothing keeps it from issuing. -/
def AboutToIssue (s : State) (g : Group) : Prop :=
  groupOf s g.id = some g ∧ g.st = .running ∧ g.pos + 1 < g.clause.length ∧ g.refetch = false ∧ g.checked = true ∧ g.pendTrap = none ∧
  g.halted = false ∧ g.fullSave = false ∧ g.handler = false ∧ (coreAt s g.core).halted = false ∧
  (∀ c, s.contexts[g.ctx]? = some c → c.st ≠ .tearing) ∧ ∀ l ∈ g.ll, l.exact = none

end Sys2Proof.Claims

/-- A free lane whose cluster is admitted and not in a frequency switch chooses the group that comes first, which runs with its pass
count cleared, while each READY group of the lane that is passed over counts one more (06 R115, R116; 18 R414, R417). -/
def Sys2Proof.Claims.LanesChoose : Prop :=
  ∀ s lane g, lane / 64 < s.clusters.length → (∀ x ∈ s.groups, x.lane = lane → x.st ≠ .running) →
    cyclesOf s (lane / 64) < (clusterAt s (lane / 64)).lastIssue + 256 →
    (∀ y, (clusterAt s (lane / 64)).change = some y → y.ramp = true) →
    MayRun s lane g → (∀ x, MayRun s lane x → x = g ∨ ChosenBefore s g x) →
    ∃ t, exec (.laneChoose lane) s = .next t ∧
      t.groups = s.groups.map (fun x => if x.id = g.id then { x with st := .running, pass := 0, yielded := false }
        else if x.lane = lane ∧ x.st = .ready then { x with pass := min 16 (x.pass + 1), yielded := false } else x) ∧
      t.clusters = s.clusters ∧ t.mem = s.mem ∧ t.teams = s.teams

/-- What ends a wait of a lane: the waits of a header; a line of the register cache filled from its frame, or, where the frame does
not translate, a backing-fault; a budget used up, which traps and begins anew, as does an activation that has held its lane for more than
262,144 lane cycles; the end of SLEEP; none of these in a frequency switch (03 R60; 04 R86, R92; 06 R114, R115, R123, R130; 12 R310; 18
R414). That a frame which cannot be read ends the group (log entry 33), and that the limit of an activation is counted anew in lane cycles
with 262144 as its information (log entry 34), are the model's choices. -/
def Sys2Proof.Claims.LaneWaitsEnd : Prop :=
  (∀ s gid g, groupOf s gid = some g → g.st = .waiting → g.saving = false → switchHolds s g = false → WaitsMet s g →
    exec (.headerWaitMet gid) s = .next (setGroup s { g with st := .ready })) ∧
  (∀ s gid reg g, groupOf s gid = some g → g.st = .running → reg < g.nregs + 64 → (∀ h ∈ g.win, h.reg ≠ reg) → (∀ l ∈ g.lines, l.reg ≠ reg) →
    let va := g.frame.toNat % 2 ^ 57 + 4 * g.width * reg
    (∀ s1 bs, getVA s g.cluster g.ctx va (4 * g.width) = some (s1, bs) →
      exec (.regcacheFill gid reg) s = .next (setGroup s1 { g with lines :=
        ⟨reg, (List.range g.width).map (fun t => (BitVec.ofNat 32 (leNat ((bs.drop (4 * t)).take 4)) : W32)), false, s1.fcycles, .general⟩ :: g.lines })) ∧
    (getVA s g.cluster g.ctx va (4 * g.width) = none →
      exec (.regcacheFill gid reg) s = .next (stopGroup s g true 0x44 0 (BitVec.ofNat 64 va)))) ∧
  (∀ s g, AboutToIssue s g →
    (g.budget ≠ 0 → g.left = 0 → exec (.budgetExhausted g.id) s =
      .next (takeTrap s { g with atHdr := false, left := g.budget, held := 0 } { cause := 0x23, sub := 0, info := BitVec.ofNat 64 g.budget })) ∧
    ((g.budget = 0 ∨ g.left ≠ 0) → g.hslot = true → 262144 < g.held → exec (.budgetExhausted g.id) s =
      .next (takeTrap s { g with atHdr := false, left := g.budget, held := 0 } { cause := 0x23, sub := 0, info := 262144 }))) ∧
  (∀ s gid g till, groupOf s gid = some g → g.park = some (.sleep till) → g.st = .parked → g.halted = false → switchHolds s g = false → till ≤ cyclesOf s g.cluster →
    ∃ t, exec (.sleepWake gid) s = .next t ∧ groupOf t gid = some (nextPos { g with st := .ready, park := none, refetch := true }) ∧
      t = { s with groups := t.groups })

namespace Sys2Proof.Claims
open Sys2Proof.Machine

/-- A launch of an ACTIVE context that has teams still to place (05 R105, R107). -/
def Places (s : State) (launch : Nat) (l : Launch) : Prop :=
  launchOf s launch = some l ∧ l.st = .placing ∧ l.next < l.recd.teams ∧ ∃ c, s.contexts[l.ctx]? = some c ∧ c.st = .active

/-- The core on which a team is placed (05 R111): among those with room, the one with the fewest resident groups, of these the
lowest. -/
def BestCore (s : State) (n : Need) (core : Nat) : Prop :=
  let all := fun (_ : Team) => false
  core < 576 ∧ coreFits s all n core = true ∧ ∀ k, k < 576 → coreFits s all n k = true →
    coreLoad s all n.paired core < coreLoad s all n.paired k ∨
      (coreLoad s all n.paired core = coreLoad s all n.paired k ∧ core ≤ k)

end Sys2Proof.Claims

/-- A frame and a slot are given together: the frame is aligned, lies in the part of the backing area that groups may use and meets
no other; the slot is free, and not the one of the notification handler (04 R84, R85, R91). -/
def Sys2Proof.Claims.FramesAndSlots : Prop :=
  ∀ s ctx width nregs frame slot s1 c r, s.contexts[ctx]? = some c → c.recd = some r → 0 < width →
    (∀ x ∈ c.alloc, r.rbase + frameSize 16 r.nregs ≤ x.1) → reserve s ctx width nregs = some ((frame, slot), s1) →
    frame % (4 * width) = 0 ∧ r.rbase + frameSize 16 r.nregs ≤ frame ∧ frame + (nregs + 64) * 4 * width ≤ r.rbase + 65536 * r.rsize ∧
    (∀ x ∈ c.alloc, x.1 + x.2 ≤ frame ∨ frame + (nregs + 64) * 4 * width ≤ x.1) ∧ slot + 1 < r.nslot ∧ slot ∉ c.slots ∧
    s1 = onCtx s ctx (fun c => { c with alloc := (frame, (nregs + 64) * 4 * width) :: c.alloc, slots := slot :: c.slots })

/-- A PENDING group of a RESIDENT team is created when its lane has a free slot, its frame and save slot are reserved, and the
depositors of a spawned group have performed their requests; its frame is zeroed and it is READY. A RETIRING group retires when its
stores have left and its results are written: its frame and its slot are free again, with a record of
a failure that no MWAIT has taken, and with the last group of a team its bins are launched, on whatever cluster they stand, or the
team drains (04 R85; 06 R115, R132, R139, R141; 10 R262, R274). -/
def Sys2Proof.Claims.GroupsStartAndEnd : Prop :=
  (∀ s gid g tm c frame slot s1 s2, groupOf s gid = some g → g.st = .pending → teamOf s g.team = some tm → tm.st = .resident →
    s.contexts[tm.ctx]? = some c → c.st = .active → switchHolds s g = false → laneUsed s (fun _ => false) g.lane < 8 → depositsDone s g = true →
    reserve s g.ctx g.width g.nregs = some ((frame, slot), s1) →
    let g1 := { g with frame := BitVec.ofNat 64 frame, slot := slot, birth := s1.birth, st := .ready, after := [] }
    zeroFrame (setGroup { s1 with birth := s1.birth + 1 } g1) g.cluster g.ctx frame (frameSize g.width g.nregs) = some s2 →
      exec (.groupCreate gid) s = .next (if g.after = [] then s2 else l1Clear s2 g.core)) ∧
  (∀ s gid g x, groupOf s gid = some g → g.st = .retiring → g.coal = [] → g.fifo = [] → g.ll = [] → g.hslot = false →
    x ∈ s.groups → x.id ≠ gid → x.team = g.team →
    let s0 := (match g.mwFault with
      | some t => faultRecord s { groupOrigin s g with addr := t.addr, at_ := t.at_ } true t.cause t.sub
      | none => s)
    let s1 := { s0 with groups := s0.groups.filter (fun x => decide (x.id ≠ gid)), cur := if s.cur = some gid then none else s.cur }
    exec (.groupRetire gid) s = .next (onCtx s1 g.ctx (fun c => { c with
      alloc := c.alloc.filter (fun x => decide (x.1 ≠ g.frame.toNat)), slots := c.slots.filter (fun n => decide (n ≠ g.slot)) }))) ∧
  (∀ s gid g tm, groupOf s gid = some g → g.st = .retiring → g.coal = [] → g.fifo = [] → g.ll = [] → g.hslot = false →
    (∀ x ∈ s.groups, x.team = g.team → x.id = gid) → teamOf s g.team = some tm → tm.st = .resident →
    ((∀ c ∈ s.clusters, ∀ b ∈ c.bins, b.owner ≠ g.team) →
      ∃ t tm', exec (.groupRetire gid) s = .next t ∧ groupOf t gid = none ∧ teamOf t g.team = some tm' ∧ tm'.st = .draining) ∧
    (∀ (c : Nat) (x : Cluster) (b : Bin) l, s.clusters[c]? = some x → b ∈ x.bins → b.owner = g.team → b.num < 64 → (∀ y : Bin, y ∈ x.bins → y.num = b.num → y = b) →
      launchOf s b.launch = some l →
      ∃ t tm', exec (.groupRetire gid) s = .next t ∧ teamOf t g.team = some tm' ∧ tm'.st = .resident ∧
        ∃ k ∈ t.groups, k.team = g.team ∧ k.st = .pending ∧ k.pc.toNat = b.entry.toNat % 2 ^ 57))

/-- A team is placed on the core that suits it best, with its save area: it starts with nothing in its scratchpad, its barriers and
its tags, and its groups are PENDING on their lanes at the entry of the launch; the teams of a span start together on one die; a
draining team retires when the work addressed to it has ended, and its save area is free again,
the store of its core divided anew (05 R105, R107, R111, R112; 06 R115,
R132, R134; 08 R178; 16 R386). -/
def Sys2Proof.Claims.TeamsStartAndEnd : Prop :=
  (∀ s launch l core save s1, Places s launch l → l.recd.span = 0 → BestCore s (launchNeed l) core →
    takeArea s l.ctx 65536 (areaSize l.recd.scratch) = some (save, s1) →
    ∃ t tm gs l', exec (.teamPlace launch) s = .next t ∧ t.teams = s.teams ++ [tm] ∧ t.groups = s.groups ++ gs ∧
      tm.launch = some l.id ∧ tm.index = l.next ∧ tm.core = core ∧ tm.paired = l.recd.paired ∧ tm.st = .resident ∧
      tm.size = 16384 * l.recd.scratch ∧ tm.scratch = [] ∧ tm.tagbits = 0 ∧ tm.bars = List.replicate 16 NBar.uninit ∧
      tm.save = BitVec.ofNat 64 save ∧
      gs.length = l.recd.groups ∧ (∀ i g, gs[i]? = some g → g.st = .pending ∧ g.team = tm.id ∧ g.idx = i ∧ g.width = l.recd.width ∧
        g.nregs = l.recd.nregs ∧ g.lane = 16 * core + i % (if l.recd.paired then 32 else 16) ∧
        g.pc = BitVec.ofNat 64 (l.recd.entry.toNat % 2 ^ 57) ∧ g.s = l.recd.args :: List.replicate 63 0 ∧ g.active = widthMask l.recd.width) ∧
      launchOf t launch = some l' ∧ l'.next = l.next + 1 ∧ l'.st = if l.recd.teams ≤ l.next + 1 then .running else .placing) ∧
  (∀ s launch l, Places s launch l → l.recd.span ≠ 0 → placeSpan s l ≠ none →
    ∃ t d l', exec (.spanPlace launch) s = .next t ∧ launchOf t launch = some l' ∧ l'.next = l.next + l.recd.span + 1 ∧
      ∀ i, i ≤ l.recd.span → ∃ tm ∈ t.teams, tm.launch = some l.id ∧ tm.index = l.next + i ∧ tm.st = .resident ∧ dieOf (tm.core / 4) = d) ∧
  (∀ s team tm, teamOf s team = some tm → tm.st = .draining → teamBusy s tm = false →
    exec (.teamRetire team) s = .next (shrinkL1 (onCtx { s with teams := s.teams.filter (fun x => decide (x.id ≠ team)) } tm.ctx
      (fun c => { c with alloc := c.alloc.filter (fun x => decide (x.1 ≠ tm.save.toNat)) })) tm.core (l1Units s tm.core)))

/-- The head of the launch queue is taken and checked, once what it needs of other devices has come: a launch that fails its check
raises its event and is gone, any other places its teams from now on, with its requests reduced to the grant and its copy plan as it
was read; a launch completes when nothing that it issued is under way, STATUS first, then the counter, then the event, where STATUS on a
page of another device is sent before the rest; an activation of the notification handler is one group of sixteen threads in a handler slot
(04 R82, R87, R91; 05 R101, R102, R105 to R107). -/
def Sys2Proof.Claims.LaunchesStartAndEnd : Prop :=
  (∀ s ctx c q e, s.contexts[ctx]? = some c → c.st = .active → sysQueue s ctx 1 = some q → queueHead s q = some e →
    (∀ l ∈ s.launches, l.ctx = ctx → l.st ≠ .placing) → stampsMet s e.stamps = true →
    (∀ s1 d line s2, readHead s ctx q e = (s1, .error (d, line)) → askLine s1 (dispatchers ctx) none 0x3FF d line = some s2 →
      exec (.launchPop ctx) s = .next s2) ∧
    (∀ s0 e' x, readHead s ctx q e = (s0, .ok (e', x)) →
      let s1 := dropGot (compDec (serveQueue (putQueue s0 (claimEntry q e 0 false)) q.pa) ctx q.doneCtr none) (dispatchers ctx).id
      let w := recWord (x.bytes.getD [])
      let r := readRec w
      let bad := launchBad s1 ctx (x.bytes.isNone || decide ((wAt e'.bytes 0).toNat % 2 ^ 57 % 256 ≠ 0) ||
        (e'.bytes.drop 16).any (fun b => decide (b ≠ 0))) w x.plan
      let grant := ((ctxRec s1 ctx).map (fun (c : CRec) => c.grant.toNat)).getD 0
      (bad = none → ∃ t l, exec (.launchPop ctx) s = .next t ∧ l ∈ t.launches ∧ l.id = s1.nextId ∧ l.ctx = ctx ∧
        l.recPA = x.place.map (fun p => p.pa) ∧ l.recDev = x.place.bind (fun p => p.dev) ∧ l.recd = r ∧
        l.lid = wAt e'.bytes 8 ∧ l.st = .placing ∧ l.next = 0 ∧ l.cause = none ∧ l.fmin = min r.fmin (bits grant 24 16) ∧
        l.plan = (x.plan.getD []).map (fun w => (w.1, w.2 % 65536, bits w.2 16 6)) ∧
        l.maxw = (if r.maxw = 0 then bits grant 8 16 else min r.maxw (bits grant 8 16)) ∧ l.boost = (r.boost && grant.testBit 40) ∧
        ((bits grant 0 8).testBit r.opclass = true → l.cls = r.opclass)) ∧
      (bad ≠ none → x.place.bind (fun p => p.dev) = none → ∃ t c', exec (.launchPop ctx) s = .next t ∧ (∀ l ∈ t.launches, l.id ≠ s1.nextId) ∧
        t.contexts[ctx]? = some c' ∧ c'.evpend.getLsbD 1 = true) ∧
      (bad ≠ none → x.place.bind (fun p => p.dev) ≠ none → ∃ t l, exec (.launchPop ctx) s = .next t ∧ launchOf t s1.nextId = some l ∧
        l.st = .failing ∧ l.cause = bad))) ∧
  (∀ s launch l c, launchOf s launch = some l → l.st ≠ .placing → l.st ≠ .checking → launchBusy s l = false → s.contexts[l.ctx]? = some c →
    (l.recDev ≠ none → l.told = false → ∃ t l', exec (.launchComplete launch) s = .next t ∧ launchOf t launch = some l' ∧ l'.told = true) ∧
    ((l.recDev = none ∨ l.told = true) → ∃ t c', exec (.launchComplete launch) s = .next t ∧ (∀ x ∈ t.launches, x.id ≠ launch) ∧ t.contexts[l.ctx]? = some c' ∧
      c'.evpend.getLsbD (if l.cause.isSome then 1 else 0) = true ∧
      (∀ pa, s.canon = true → l.recDev = none → l.told = false → l.recPA = some pa → l.recd.donectr = 0 →
        memNat t.mem (pa + 0x40) 8 = ((if l.cause.isSome then 3 else 2) + 2 ^ 8 * l.cause.getD 0 + 2 ^ 16 * (s.fcycles % 2 ^ 48)) % 2 ^ 64))) ∧
  (∀ s ctx c r q lane, s.contexts[ctx]? = some c → c.recd = some r → sysQueue s ctx 3 = some q → readyEnts q ≠ [] →
    (c.st = .created ∨ c.st = .active ∨ c.st = .suspending) → (∀ t ∈ s.teams, t.ctx = ctx → t.launch ≠ none) →
    handlerLane s ctx = some lane →
    ∃ t g, exec (.notifyActivation ctx) s = .next t ∧ g ∈ t.groups ∧ g.id = s.nextId + 1 ∧ g.team = s.nextId ∧ g.hslot = true ∧ g.ctx = ctx ∧
      g.lane = lane ∧ g.width = 16 ∧ g.nregs = r.nregs ∧ g.frame = BitVec.ofNat 64 r.rbase ∧ g.slot = r.nslot - 1 ∧
      g.pc = BitVec.ofNat 64 (r.nentry.toNat % 2 ^ 57) ∧ g.s.getD 0 0 = r.nqd ∧ (g.st = .ready ∨ g.st = .retiring))

namespace Sys2Proof.Claims
open Sys2Proof.Machine

/-- A group that a full save can still come upon (16 R385). -/
def NotSaved (g : Group) : Prop :=
  g.st ≠ .pending ∧ g.st ≠ .retiring ∧ g.st ≠ .saved ∧ g.saving = false ∧ g.fullSave = false

/-- A group whose stores are performed and whose results are written, but for those of queue operations (16 R384; 12 R306). -/
def Quiet (s : State) (g : Group) : Prop :=
  g.coal = [] ∧ g.fifo = [] ∧ (∀ r ∈ s.flight, r.gid ≠ g.id) ∧ ∀ l ∈ g.ll, l.need = 0 ∨ l.queue = true

end Sys2Proof.Claims

/-- Pre-emption: a team that has waited 10 µs requests teams of lower priority only; PTO after a request every group that is not
saved is to be fully saved; a group at its pre-emption point, or to be fully saved outside handler mode, writes its lines and its
slot, whose frame has cause preempted, when it is quiet, and is SAVED, with no line of a register that the current entry names left in
its cache; a full save leaves its registers, a liveness save those that the current entry names, as they were (04 R79; 05 R98, R100; 12
R306; 16 R383 to R385). That a group which waits for the result of a QPOP is saved before the instruction that waits (log entry 37), and
that one whose frame cannot be written ends (log entry 33), are the model's choices. -/
def Obligations.GroupsAreSaved : Prop :=
  (∀ s launch l k x, Places s launch l → l.waited + 20000 ≤ s.fcycles → k ∈ preemptTeams s l → teamOf s k = some x → x.preq = none →
    x.st = .resident →
    ∃ t, exec (.preemptWaitExpire launch) s = .next t ∧ t.groups = s.groups ∧ t.mem = s.mem ∧
      (∀ y ∈ t.teams, y.id = k → y.st = .resident → y.launch ≠ none → y.preq ≠ none)) ∧
  (∀ s l k, k ∈ preemptTeams s l → ∃ x ∈ s.teams, x.id = k ∧ x.launch ≠ none ∧ ctxPrio s x.ctx < ctxPrio s l.ctx) ∧
  (∀ s team tm t0 r g, teamOf s team = some tm → tm.preq = some t0 → ctxRec s tm.ctx = some r →
    t0 + 2000 * (if r.pto = 0 then 200 else r.pto) ≤ s.fcycles → g ∈ s.groups → g.team = team → NotSaved g →
    ∃ t, exec (.ptoExpire team) s = .next t ∧ t = { s with groups := t.groups } ∧ t.groups.length = s.groups.length ∧
      ∀ (i : Nat) (x y : Group), s.groups[i]? = some x → t.groups[i]? = some y →
        (x.team = team → NotSaved x → y = { x with fullSave := true }) ∧ ((x.team ≠ team ∨ ¬ NotSaved x) → y = x)) ∧
  (∀ s gid g, groupOf s gid = some g → (g.saving = true ∨ (g.fullSave = true ∧ g.handler = false)) → g.st ≠ .pending → g.st ≠ .retiring →
    g.st ≠ .saved → (coreAt s g.core).halted = false → g.pendTrap = none → Quiet s g →
    let g0 := (drainRegs s g).standing s
    let g1 := if g.saving then (thinRegs s g0).2 else g0
    let s1 := if g.saving then (thinRegs s g0).1 else s
    (∀ s2 s3, writeLines s1 g1 (fun _ => true) = some s2 → saveSlot s2 g1 (saveFrame s2 g1 0x29 (!g.saving)) = some s3 →
      ∃ t g', exec (.groupSave gid) s = .next t ∧ t = { s3 with groups := t.groups } ∧ groupOf t gid = some g' ∧
        g' = { g1 with st := .saved, saving := false, fullSave := !g.saving, lines := g'.lines } ∧
        (g.saving = false → g'.lines = []) ∧ ∀ l ∈ g'.lines, l.dirty = false ∧ lineDead g1 l.reg = true) ∧
    (writeLines s1 g1 (fun _ => true) = none →
      exec (.groupSave gid) s = .next (stopGroup s1 g1 true 0x44 0 g1.frame))) ∧
  (∀ s g, let g1 := (thinRegs s g).2
    (∀ i, i < 64 → (liveW g.live 8).testBit i = true → g1.s.getD i 0 = g.s.getD i 0) ∧
    (∀ i, i < 16 → (liveW g.live 9).testBit i = true → g1.a.getD i 0 = g.a.getD i 0) ∧
    (∀ i, i < 7 → (liveW g.live 9).testBit (32 + i) = true → g1.p.getD i 0 = g.p.getD i 0) ∧
    (∀ i, g1.s.getD i 0 = g.s.getD i 0 ∨ g1.s.getD i 0 = 0) ∧
    ∀ n, n < g.nregs → (∃ r ∈ liveRegs g.live, r.1 ≤ n ∧ n < r.1 + r.2) → readLine s g1 n = readLine s g n)

/-- A requested team whose groups are saved and whose commands have retired is saved: its area is written, and it gives up its entry, its
streams and its core; a saved team of an ACTIVE context is given a core that suits it, on whose lanes its groups stand from then on, and
is RESIDENT there, one that held the rein once its entry has it again (10 R264; 16 R386, R387; 05 R112; 06 R136, R496). That PENDING
groups do not hold back the save (log entry 38), and that a save area which cannot be written ends the groups of its team (log entry 33),
are the model's choices. -/
def Obligations.TeamsAreSaved : Prop :=
  (∀ s team tm, teamOf s team = some tm → tm.st = .resident → tm.preq ≠ none → (coreAt s tm.core).halted = false →
    (∀ g ∈ s.groups, g.team = team → g.st = .saved ∨ g.st = .pending) → teamCmds s (tm.core / 4) team = false →
    (∀ x ∈ teamStreams s tm, strmEnds s (tm.core + x.1 / 4) (x.1 % 4) x.2 = true) →
    let s1 := (s.groups.filter (fun g => decide (g.team = team) && decide (g.st = .saved))).foldl slotFlags s
    (∀ s2, writeArea s1 tm false = some s2 → ∃ t tm', exec (.teamSave team) s = .next t ∧ teamOf t team = some tm' ∧ tm'.st = .saved ∧
      tm'.preq = none ∧ tm'.scratch = [] ∧ tm'.trapbase = tm.trapbase ∧ tm'.bars = tm.bars ∧ entOf (engOf t (tm.core / 4)) team = none ∧
      t.mem = s2.mem ∧ t.groups = s2.groups) ∧
    (writeArea s1 tm false = none → exec (.teamSave team) s = .next (stopTeam s1 tm 0x44 0 tm.save))) ∧
  (∀ s team tm c core, teamOf s team = some tm → tm.st = .saved → s.contexts[tm.ctx]? = some c → c.st = .active →
    (tm.back = true → holdsRein (engOf s (tm.core / 4)) team = true → ∃ t tm', exec (.teamRestore team) s = .next t ∧
      teamOf t team = some tm' ∧ tm'.st = .resident ∧ tm'.back = false ∧ tm'.core = tm.core) ∧
    (tm.back = false → backCores s tm = [(team, core)] → needsEnt s tm = false → (engOf s (core / 4)).ents.length ≤ 32 →
      let moved := fun (t : Team) => { t with core := core, back := true }
      ∀ s2 bs, getVA (moveGroups (fuseL1 (shrinkL1 (onTeam s team moved) core (l1Units s core)) (core / 4)) (moved tm)) (core / 4) tm.ctx
          tm.save.toNat 0x18 = some (s2, bs) →
        (wAt bs 0).getLsbD 0 = false → ∃ t tm', exec (.teamRestore team) s = .next t ∧
          teamOf t team = some tm' ∧ tm'.st = .resident ∧ tm'.back = false ∧ tm'.core = core ∧
          ∀ k ∈ t.groups, k.team = team → k.lane = 16 * core + k.idx % (if tm.paired then 32 else 16)) ∧
    (∀ other, tm.back = false → backCores s tm = [(team, core)] → (engOf s (core / 4)).ents.length < 32 →
      treeHere s tm core = (other, false) → exec (.teamRestore team) s = .next other))

/-- Writes of the host port: CREC, EVMASK, MSIVEC, MARG, MARG2 and SWBASE take the bits that they have, and read back so; a code of
CCMD that is no command reports 2, or 1 while a command is in progress; a code of MCMD that is none reports 3, 5 in minimal mode,
and 1 while the mailbox is busy; the MSI-X table and its pending bits read as they stand; a masked vector that waits is sent when its
entry is unmasked; every other offset ignores the write (04 R94; 17 R405, R406, R408; 19 R423, R424). The layout of the table, of its
pending bits and of their mask (log entry 10), the codes and offsets that have rows of their own (log entry 42) and what a code that is no
command reports (log entry 44) are the model's choices. -/
def Sys2Proof.Claims.RegisterWrites : Prop :=
  (∀ s ctx c val, ctx < 64 → s.contexts[ctx]? = some c →
    let page := 0x20000 * ctx
    let at_ := fun (r : Nat) (f : Context → Context) (v : Nat) => exec (.registerWrite (page + r) val) s = .next (onCtx s ctx f) ∧
      barRead (onCtx s ctx f) (page + r) = v
    at_ 0x010 (fun c => { c with crec := val }) val.toNat ∧
    at_ 0x028 (fun c => { c with evmask := val.truncate 6 }) (val.toNat % 2 ^ 6) ∧
    at_ 0x030 (fun c => { c with msivec := BitVec.ofNat 64 (val.toNat % 2 ^ 48) }) (val.toNat % 2 ^ 48) ∧
    ((val.toNat % 256 = 0 ∨ 6 < val.toNat % 256) → exec (.registerWrite page val) s = .next (report s ctx (val.toNat % 256) (if c.busy then 1 else 2))) ∧
    (∀ r, r < 0x20000 → r ∉ [0, 0x010, 0x028, 0x030] → exec (.registerWrite (page + r) val) s = .next s)) ∧
  (∀ s val, exec (.registerWrite 0x800008 val) s = .next { s with firm := { s.firm with marg := val } } ∧
    exec (.registerWrite 0x800010 val) s = .next { s with firm := { s.firm with marg2 := val } } ∧
    exec (.registerWrite 0xF00108 val) s = .next { s with swbase := val.toNat / 2 ^ 34 % 2 ^ 18 * 2 ^ 34 } ∧
    ((val.toNat % 256 = 0 ∨ 7 < val.toNat % 256) → exec (.registerWrite 0x800000 val) s =
      .next (mreport s (val.toNat % 256) (if s.firm.busy then 1 else if s.firm.mode = 2 then 5 else 3))) ∧
    (∀ off, 0x800000 < off → off ∉ [0x800008, 0x800010, 0xF00108] → (off < 0x1000000 ∨ 0x1001000 ≤ off ∨ off % 8 ≠ 0) →
      exec (.registerWrite off val) s = .next s)) ∧
  (∀ s v a d val, v < 256 → s.msix[v]? = some (a, d) →
    barRead s (0x1000000 + 16 * v) = a.toNat ∧ barRead s (0x1000000 + 16 * v + 8) = d.toNat ∧
    (barRead s (0x1001000 + 8 * (v / 64))).testBit (v % 64) = s.msixPend.contains v ∧
    (∃ t, exec (.registerWrite (0x1000000 + 16 * v) val) s = .next t ∧ t.msix = s.msix.set v (val, d)) ∧
    ∃ t, exec (.registerWrite (0x1000000 + 16 * v + 8) val) s = .next t ∧ t.msix = s.msix.set v (a, val) ∧
      (s.msixPend.contains v = true → val.getLsbD 32 = false → t.out = s.out ++ [.msi v] ∧ v ∉ t.msixPend) ∧
      ((s.msixPend.contains v = false ∨ val.getLsbD 32 = true) → t.out = s.out ∧ t.msixPend = s.msixPend))

/-- The slow window: a write of at most 256 bytes changes the enabled bytes from SWBASE and the offset up, and no other byte; a read of at
most 512 returns the bytes, with EP where one of them lies in a poisoned sector; beyond memory a read is an Unsupported Request (17 R405,
R407). -/
def Sys2Proof.Claims.SlowWindow : Prop :=
  (∀ s off bytes, s.canon = true → bytes.length ≤ 256 → off + bytes.length ≤ 2 ^ 34 → s.swbase + off + bytes.length ≤ paLimit →
    (∀ j, j < bytes.length → inQueueDesc s (s.swbase + off + j) = false ∧ inBarRec s (s.swbase + off + j) = false) →
    (∀ h ∈ s.oredHeld, s.swbase + off + bytes.length ≤ h.pa + 8 ∨ h.pa + 12 ≤ s.swbase + off) →
    ∃ t, exec (.hostSlowWrite off bytes) s = .next t ∧ t.groups = s.groups ∧ t.contexts = s.contexts ∧
      ∀ a, memGet t.mem a = if a < s.swbase + off then memGet s.mem a else ((bytes[a - (s.swbase + off)]?).join).getD (memGet s.mem a)) ∧
  (∀ s off len, len ≤ 512 → off + len ≤ 2 ^ 34 →
    let pa := s.swbase + off
    ((len = 0 ∨ pa + len ≤ paLimit) → exec (.hostSlowRead off len) s = .next { s with out := s.out ++ [.data (memBytes s.mem pa len)
      (s.poison.any (fun p => decide (pa < p * 128 + 128) && decide (p * 128 < pa + len)))] }) ∧
    (len ≠ 0 → paLimit < pa + len → exec (.hostSlowRead off len) s = .next { s with out := s.out ++ [.unsupported none] })) ∧
  (∀ s tag, exec (.unsupportedRequest tag) s = .next { s with out := s.out ++ [.unsupported (some tag)] })

namespace Sys2Proof.Claims
open Sys2Proof.Machine

/-- The commands of the mailbox that have a row of their own, with their codes (19 R424). -/
def mailCommands : List (Nat × Instr) :=
  [(1, .linktrain), (2, .linkretrain), (3, .linkrel), (4, .setfid), (5, .attest), (6, .update)]

/-- A mailbox command ends with a result in a state of which P holds. -/
def Mails (i : Instr) (s : State) (cmd result : Nat) (P : State → Prop) : Prop :=
  ∃ t, exec i s = .next t ∧ t.firm.mlast = cmd ∧ t.firm.mresult = result ∧ P t

/-- The device as every reset leaves it (19 R427): no context exists, nothing is resident, every link is DOWN. -/
def Bare (t : State) : Prop :=
  t.groups = [] ∧ t.teams = [] ∧ t.launches = [] ∧ t.queues = [] ∧ t.contexts = List.replicate 64 Context.empty ∧
  t.links = List.replicate 16 Link.down ∧ t.cores = List.replicate 576 Core.empty ∧ t.fid = 0 ∧
  ∃ n, t.clusters = (List.range 144).map (fun c => { Cluster.fresh c with cycF := n })

end Sys2Proof.Claims

/-- The mailbox: while it is busy every command reports 1, and in minimal mode those on links and SETFID report 5;
LINKTRAIN trains a link that is DOWN, LINKRETRAIN one that is UP or DEGRADED, LINKREL leaves a QUARANTINED one DOWN; SETFID takes an
id that is not 0 while every link is DOWN or QUARANTINED; UPDATE writes a verified image of the stable to the slot that does not run
and marks it; ATTEST writes its report, which begins with the nonce and holds the digests of the root's image and of the fuses (17 R398,
R400; 19 R423 to R426, R429). That every command but RESET completes at once, result 3 for SETFID of 0 and for ATTEST of an address that
is no place for a report, and result 4 for an UPDATE whose length is not that of its image are the model's choices (log entry 44). -/
def Sys2Proof.Claims.MailboxCommands : Prop :=
  (∀ s x, x ∈ mailCommands → s.firm.busy = true → exec x.2 s = .next (mreport s x.1 1)) ∧
  (∀ s x, x ∈ mailCommands → s.firm.busy = false → s.firm.mode = 2 → x.1 < 5 → exec x.2 s = .next (mreport s x.1 5)) ∧
  (∀ s l, s.firm.busy = false → s.firm.mode ≠ 2 → s.links[s.firm.marg.toNat % 16]? = some l →
    let n := s.firm.marg.toNat % 16
    (l.st = 0 → Mails .linktrain s 1 0 (fun t => t.links = s.links.set n { l with st := 1, retrain := false, trainAt := s.fcycles })) ∧
    (l.st ≠ 0 → exec .linktrain s = .next (mreport s 1 2)) ∧
    ((l.st = 2 ∨ l.st = 3) → Mails .linkretrain s 2 0 (fun t => t.links = s.links.set n { l with st := 1, retrain := true, trainAt := s.fcycles })) ∧
    (l.st ≠ 2 → l.st ≠ 3 → exec .linkretrain s = .next (mreport s 2 2)) ∧
    (l.st = 4 → Mails .linkrel s 3 0 (fun t => t.links = s.links.set n { l with st := 0, lanes := 0, peer := 0, peerLink := 0 })) ∧
    (l.st ≠ 4 → exec .linkrel s = .next (mreport s 3 2))) ∧
  (∀ s, s.firm.busy = false → s.firm.mode ≠ 2 →
    (s.firm.marg.toNat % 256 = 0 → exec .setfid s = .next (mreport s 4 3)) ∧
    (s.firm.marg.toNat % 256 ≠ 0 → (∀ l ∈ s.links, l.st = 0 ∨ l.st = 4) →
      exec .setfid s = .next (mreport { s with fid := s.firm.marg.toNat % 256 } 4 0)) ∧
    (s.firm.marg.toNat % 256 ≠ 0 → (∃ l ∈ s.links, l.st ≠ 0 ∧ l.st ≠ 4) → exec .setfid s = .next (mreport s 4 2))) ∧
  (∀ s, s.firm.busy = false →
    let a := s.firm.marg.toNat
    let n := s.firm.marg2.toNat
    let img := memBytes s.mem a n
    let k := match s.firm.running with
      | some r => 1 - r
      | none => s.firm.tried
    exec .update s = .next (if 0x400 + 2 ^ 26 < n ∨ paLimit < a + n ∨ imageBad s.firm 2 img ≠ none then mreport s 6 4
      else mreport { s with firm := { s.firm with slots := s.firm.slots.set k (some img), marked := k } } 6 0)) ∧
  (∀ s, s.firm.busy = false →
    let a := s.firm.marg.toNat
    ((a % 256 ≠ 0 ∨ paLimit < a + 768) → exec .attest s = .next (mreport s 5 3)) ∧
    (a % 256 = 0 → a + 768 ≤ paLimit → s.canon = true → (∀ j, j < 768 → inQueueDesc s (a + j) = false ∧ inBarRec s (a + j) = false) →
      (∀ h ∈ s.oredHeld, a + 768 ≤ h.pa + 8 ∨ h.pa + 12 ≤ a) →
      Mails .attest s 5 0 (fun t => memBytes t.mem a 32 = memBytes s.mem a 32 ∧ memNat t.mem (a + 32) 8 = s.firm.rootVer % 2 ^ 64 ∧
        memNat t.mem (a + 40) 8 = s.firm.stableVer % 2 ^ 64 ∧ memNat t.mem (a + 48) 8 = (s.fid + 2 ^ 8 * s.firm.mode) % 2 ^ 64 ∧
        memBytes t.mem (a + 64) 64 = sha512 Config.rootImage ∧ memBytes t.mem (a + 192) 64 = sha512 Config.fuses ∧
        (∀ x, (x < a ∨ a + 768 ≤ x) → memGet t.mem x = memGet s.mem x))))

/-- A start: the device is bare; it is in normal mode only after step 7, with all memory zero and the count of failed starts cleared;
it is in minimal mode once three starts have failed, and at once where the flash counts three, with the reason and the step of the last
start. RESET keeps the mailbox busy until its start has ended; in minimal mode with MARG[0] = 0 it stays in minimal mode; a start that has
not ended after 30 s fails with reason 8 (19 R423, R424, R427, R428). That POWER_ON at a count of three is in minimal mode at once, and how
far a start stands that the world outside says nothing of, are the model's choices (log entry 44). -/
def Sys2Proof.Claims.Starts : Prop :=
  (∀ s os, ∃ t, exec (.powerOn os) s = .next t ∧ Bare t ∧ t.firm.slots = s.firm.slots ∧ t.firm.marked = s.firm.marked ∧
    (t.firm.mode = 0 ∨ t.firm.mode = 1 ∨ t.firm.mode = 2) ∧
    (t.firm.mode = 1 → t.mem = [] ∧ t.poison = [] ∧ t.firm.failCnt = 0 ∧ t.firm.reason = 0 ∧ t.firm.lastStep = 7 ∧
      t.firm.ready = t.fcycles ∧ ∃ k, t.firm.running = some k) ∧
    (t.firm.mode = 2 → 3 ≤ t.firm.failCnt) ∧
    (3 ≤ s.firm.failCnt → t.firm.mode = 2 ∧ t.firm.reason = s.firm.reason ∧ t.firm.lastStep = s.firm.lastStep) ∧
    (s.firm.failCnt < 3 → os = [] → t.firm.mode = 0 ∧ t.firm.lastStep = 1 ∧ t.firm.failCnt = s.firm.failCnt + 1) ∧
    (s.firm.failCnt = 0 → 3 ≤ os.length → (∀ o ∈ os, o.stop ≠ 1 ∧ o.selfTest = false) → t.firm.mode = 2 ∧ t.firm.reason = 1 ∧ t.firm.lastStep = 1 ∧
      t.firm.failCnt = 3)) ∧
  (∀ s os, (s.firm.busy = true → exec (.reset os) s = .next (mreport s 7 1)) ∧
    (s.firm.busy = false → s.firm.mode = 2 → s.firm.marg.getLsbD 0 = false → Mails (.reset os) s 7 0 (fun t => Bare t ∧ t.firm.mode = 2 ∧ t.mem = s.mem ∧
      t.firm.failCnt = s.firm.failCnt ∧ t.firm.slots = s.firm.slots ∧ t.firm.reason = s.firm.reason)) ∧
    (s.firm.busy = false → (s.firm.mode ≠ 2 ∨ s.firm.marg.getLsbD 0 = true) → ∃ t, exec (.reset os) s = .next t ∧ Bare t ∧
      t.firm.slots = s.firm.slots ∧ (t.firm.mode = 1 → t.firm.lastStep = 7 ∧ t.mem = []) ∧ t.firm.mlast = 7 ∧
      (t.firm.mode = 0 → t.firm.busy = true) ∧ (t.firm.mode ≠ 0 → t.firm.busy = false ∧ t.firm.mresult = 0)) ∧
    (s.firm.mode = 0 → s.firm.lastStep ≠ 0 →
      (s.fcycles < 60000000000 → exec (.startTimeout os) s = .fault .notEnabled) ∧
      (60000000000 ≤ s.fcycles → ∃ t, exec (.startTimeout os) s = .next t ∧ Bare t ∧
        (3 ≤ s.firm.failCnt → t.firm.mode = 2 ∧ t.firm.reason = 8 ∧ t.firm.lastStep = s.firm.lastStep) ∧
        (s.firm.failCnt < 3 → os = [] → t.firm.mode = 0 ∧ t.firm.reason = 8 ∧ t.firm.failCnt = s.firm.failCnt + 1))))

/-- The states of a link: a lock of 8 lanes leaves a training link UP, of 4 or 2 DEGRADED; an own id, or a peer that another link
leads to, quarantines it; a retrain that finds another peer, a training that lasts too long, the loss of lanes to fewer than 2 and a
reset of the peer leave it DOWN; more than 1,024 replays in 1 ms quarantine it (17 R400). That a twin is another link by the same peer and
link number, and that a training may end by the timeout at any time, are the model's choices (assumption 45). -/
def Sys2Proof.Claims.LinkStates : Prop :=
  ∀ s n l, s.links[n]? = some l →
    let goes := fun (i : Instr) (st lanes : Nat) => ∃ t l', exec i s = .next t ∧ t.links[n]? = some l' ∧ l'.st = st ∧ l'.lanes = lanes
    (∀ lanes peer pl, l.st = 1 → lanes ∈ [8, 4, 2] → 1 ≤ peer → peer ≤ 255 → s.fcycles ≤ l.trainAt + 200000000 →
      let twin := ∃ x ∈ s.links, (x.st = 2 ∨ x.st = 3) ∧ x.peer = peer ∧ x.peerLink = pl
      (l.retrain = true → peer = l.peer → pl = l.peerLink → goes (.linkLock n lanes peer pl) (if lanes = 8 then 2 else 3) lanes) ∧
      (l.retrain = true → (peer ≠ l.peer ∨ pl ≠ l.peerLink) → goes (.linkLock n lanes peer pl) 0 0) ∧
      (l.retrain = false → (peer = s.fid ∨ twin) → goes (.linkLock n lanes peer pl) 4 0) ∧
      (l.retrain = false → peer ≠ s.fid → ¬ twin → ∃ t l', exec (.linkLock n lanes peer pl) s = .next t ∧ t.links[n]? = some l' ∧
        l'.st = (if lanes = 8 then 2 else 3) ∧ l'.lanes = lanes ∧ l'.peer = peer ∧ l'.peerLink = pl ∧ l'.unacked = [] ∧ l'.txSeq = 0 ∧
        l'.rxSeq = 0 ∧ l'.naks = [])) ∧
    (l.st = 1 → goes (.linkTrainingTimeout n) 0 0) ∧
    (∀ left, (l.st = 2 ∨ l.st = 3) → left < l.lanes →
      (left < 2 → goes (.linkLaneLoss n left) 0 0) ∧ (2 ≤ left → left < 4 → goes (.linkLaneLoss n left) 3 2) ∧
      (4 ≤ left → goes (.linkLaneLoss n left) 3 4)) ∧
    ((l.st = 2 ∨ l.st = 3 ∨ (l.st = 1 ∧ l.retrain = true)) → goes (.linkPeerReset n) 0 0) ∧
    ((l.st = 2 ∨ l.st = 3) → 1024 < (l.replayAt.filter (fun t => decide (s.fcycles < t + 2000000))).length → goes (.linkReplayLimit n) 4 0)

/-- Flits: one that fails its CRC is counted, and it or one out of sequence is refused with a NAK that asks for the flits from the next in
sequence on, and changes nothing else; the next in sequence is accepted, and a read is answered with the bytes that memory holds, and
which of their sectors are poisoned, a write changes them, a reply gives an outstanding result its value; a request to a line that a copy
owns waits without holding up the flits behind it, and an answer for which the window has no room waits too; a flit is kept until it is
acknowledged, and a NAK counts a replay (17 R401, R402). The bytes of the flits' payloads and answers are the model's (assumption 46). -/
def Sys2Proof.Claims.Flits : Prop :=
  ∀ s n l, s.links[n]? = some l → (l.st = 2 ∨ l.st = 3) →
    let refused := fun (k : Nat) => onLink s n (fun l => { l with crcErrs := l.crcErrs + k, naks := l.naks ++ [l.rxSeq] })
    let accepted := onLink s n (fun l => { l with rxSeq := (l.rxSeq + 1) % 4096 })
    (∀ seq p, exec (.flitReceive n seq false p) s = .next (refused 1)) ∧
    (∀ seq p, seq ≠ l.rxSeq → exec (.flitReceive n seq true p) s = .next (refused 0)) ∧
    exec (.flitReceive n l.rxSeq true .idle) s = .next accepted ∧
    (∀ req, (∀ r ∈ s.remotes, r.id = req → r.copy = none ∧ ∀ pa arrs, r.ask ≠ .gbar pa arrs) →
      exec (.flitReceive n l.rxSeq true (.ack req)) s = .next { accepted with remotes := s.remotes.filter (fun r => decide (r.id ≠ req)) }) ∧
    (∀ pa len k, linkFor s l.peer pa = some k →
      let bad := fun (i : Nat) => if s.poison.contains (pa / 128 + i) then 2 ^ i else 0
      let secs := ((List.range ((pa % 128 + len + 127) / 128)).map bad).foldl (· + ·) 0
      let bytes := memBytes s.mem pa len ++ (if secs = 0 then [] else natLE 1 secs)
      let waits := lineOwned s (pa / 512) = true ∨ inboxBehind s.inbox l.peer (.read pa len) = true
      let room := windowRoom s k 1 bytes.length = true ∧ ∀ x ∈ s.outbox, x.1 ≠ l.peer
      (¬ waits → room → exec (.flitReceive n l.rxSeq true (.read pa len)) s = .next (sendFlit accepted k 1 bytes)) ∧
      (¬ waits → ¬ room → exec (.flitReceive n l.rxSeq true (.read pa len)) s =
        .next { accepted with outbox := s.outbox ++ [(l.peer, pa, bytes)] }) ∧
      (waits → exec (.flitReceive n l.rxSeq true (.read pa len)) s = .next { accepted with inbox := s.inbox ++ [(l.peer, .read pa len)] })) ∧
    (∀ pa data page, s.canon = true → data ≠ [] → inboxBehind s.inbox l.peer (.write pa data page) = false →
      (∀ j, j < data.length → lineOwned s ((pa + j) / 512) = false ∧ inQueueDesc s (pa + j) = false ∧ inBarRec s (pa + j) = false) →
      (∀ h ∈ s.oredHeld, pa + data.length ≤ h.pa + 8 ∨ h.pa + 12 ≤ pa) →
      ∃ t, exec (.flitReceive n l.rxSeq true (.write pa data page)) s = .next t ∧ t.groups = s.groups ∧
        ∀ a, memGet t.mem a = if a < pa then memGet s.mem a else (data[a - pa]?).getD (memGet s.mem a)) ∧
    (∀ req data r t g x, (∀ q ∈ s.qreqs, q.key ≠ req) → (∀ f ∈ s.fired, f.key ≠ req) → (∀ x ∈ s.recs, x.askKey ≠ some req) →
      (∀ x ∈ s.relays, x.key = req → x.done = true) → s.remotes.find? (fun r => decide (r.id = req)) = some r → r.copy = none →
      r.ret = some t → groupOf s r.gid = some g → g.ll = [x] → x.key = t.key →
      ∃ u g', exec (.flitReceive n l.rxSeq true (.reply req data)) s = .next u ∧ groupOf u r.gid = some g' ∧
        g'.ll = [{ x with need := x.need - 1, vec := x.vec ++ (retParts t data).1, scl := x.scl ++ (retParts t data).2 }] ∧
        u.remotes = s.remotes.filter (fun x => decide (x.id ≠ r.id))) ∧
    (∀ seq, (∃ f ∈ l.unacked, f.seq = seq) →
      (∃ t l', exec (.flitNak n seq) s = .next t ∧ t.links[n]? = some l' ∧ l'.replays = l.replays + 1 ∧ l'.unacked = l.unacked ∧
        t = { s with links := t.links }) ∧
      (∃ t l', exec (.flitAck n seq) s = .next t ∧ t.links[n]? = some l' ∧ t = { s with links := t.links } ∧
        ∀ a f b, l.unacked = a ++ f :: b → f.seq = seq → (∀ x ∈ a, x.seq ≠ seq) → l'.unacked = b))

namespace Sys2Proof.Claims
open Sys2Proof.Machine

/-- A lane holds this group, whose clause has been fetched and checked, before a position of the clause that holds the word w, and nothing
makes it wait there: its cluster need not be admitted, no budget is used up, no outstanding result is in its way, and either the word
faults before its own operation or every line that it needs is at hand. -/
def StandsAt (s : State) (lane : Nat) (g : Group) (w : W64) (i : Instr) : Prop :=
  s.groups.find? (fun x => decide (x.lane = lane) && decide (x.st = .running)) = some g ∧ g.halted = false ∧ g.pendTrap = none ∧
  (g.fullSave = true → g.handler = true) ∧ (coreAt s g.core).halted = false ∧ tearing s g.ctx = false ∧ switching s g.cluster = false ∧
  slewed s g.cluster = false ∧ (∀ l ∈ g.ll, l.exact = none) ∧ g.refetch = false ∧ g.checked = true ∧ g.pos + 1 < g.clause.length ∧ g.clause[g.pos + 1]? = some w ∧ decodeWord w = .ok i ∧
  let g0 : Group := { g with atHdr := false }
  budgetDue g0 = false ∧ popAwaited s g0 i = none ∧ llBlocks s g0 i = false ∧ (preFault s g0 i ≠ none ∨ lineMissing s g0 i = none)

end Sys2Proof.Claims

/-- A step of a lane runs the instruction that its group's word decodes to: it is exec of that instruction, with the turn of the group,
after which the lane cycles that it took are counted and pass; a clause is fetched whole in a step of its own, once no store of its
cluster to it is on its way, each of its words as memory holds it where the clause buffer holds none; at the end of a clause the group
goes to its next header (03 R56, R58, R60; 06 R114). An instruction that waits for an atomic at another device goes on with the threads
that are left once the value has come, and is complete, its increment made, where none is (09 R204). The agenda, in whose order turns are
taken, is the model's choice (assumption 2). -/
def Obligations.StepRunsTheDecodedInstruction : Prop :=
  (∀ s lane rest g w i, s.agenda = .lane lane :: rest → StandsAt { s with agenda := rest } lane g w i →
    let g0 : Group := { g with atHdr := false }
    let s0 := dropDeads (setGroup { s with agenda := rest } (touchLines { s with agenda := rest } g0 i)) g0 i
    ∀ t, exec i { s0 with cur := some g.id } = .next t → step s = .next (afterIssue s0 g.id lane i t)) ∧
  (∀ s lane rest g ws s1, s.agenda = .lane lane :: rest →
    s.groups.find? (fun x => decide (x.lane = lane) && decide (x.st = .running)) = some g → g.halted = false → g.pendTrap = none →
    (g.fullSave = true → g.handler = true) → (coreAt s g.core).halted = false → tearing s g.ctx = false → switching s g.cluster = false → (∀ l ∈ g.ll, l.exact = none) →
    (g.clause = [] ∨ g.refetch = true) → g.transfer = none → fetchHeld { s with agenda := rest } g = false →
    fetchClause { s with agenda := rest } g = (s1, .ok ws) →
    step s = .next (heldTurn { s with agenda := rest } lane (setGroup (dropReplays (forgetReads s1 g.id) lane) { g with clause := ws, refetch := false }))) ∧
  (∀ s lane rest g, s.agenda = .lane lane :: rest →
    s.groups.find? (fun x => decide (x.lane = lane) && decide (x.st = .running)) = some g → g.halted = false → g.pendTrap = none →
    (g.fullSave = true → g.handler = true) → (coreAt s g.core).halted = false → tearing s g.ctx = false → switching s g.cluster = false → (∀ l ∈ g.ll, l.exact = none) →
    g.refetch = false → g.checked = true → g.atHdr = false → g.clause ≠ [] → g.clause.length ≤ g.pos + 1 →
    step s = .next (heldTurn { s with agenda := rest } lane (setGroup { s with agenda := rest } (toHeader g (nextClause g))))) ∧
  (∀ s lane rest g l t i p h f, s.agenda = .lane lane :: rest →
    s.groups.find? (fun x => decide (x.lane = lane) && decide (x.st = .running)) = some g → g.pendTrap = none → switching s g.cluster = false →
    g.ll.find? (fun x => x.exact.isSome) = some l → l.exact = some t → decodeWord (g.wordAt g.pos) = .ok i → i.parts = some (p, h, .m f) →
    let s0 := { s with agenda := rest }
    let g1 := { g with ll := g.ll.map (fun x => if x.key = l.key then { x with exact := none } else x),
                       remain := some (liveMask g &&& ~~~maskOf [t]) }
    (l.need ≠ 0 → step s = .next s0) ∧
    (l.need = 0 → qualMask g1 h ≠ 0 → step s = .next (heldTurn s0 lane (setGroup s0 g1))) ∧
    (l.need = 0 → qualMask g1 h = 0 →
      let s1 := onCluster s0 g.cluster (fun x => { x with lastIssue := cyclesOf s0 g.cluster, issue := x.issue + costOf g i })
      step s = .next (heldTurn s0 lane (setGroup s1 (finishInstr s1 i g.handler (costOf g i) [l.key] true (postInc g1 f (szBytes f.sz))))))) ∧
  (∀ s g va s1 ph, translate s g.cluster (some g.core) g.ctx va .fetch = (s1, .ok ph) →
    (∀ x ∈ (coreAt s1 g.core).cbuf, x.1 ≠ g.ctx ∨ x.2.1 ≠ ph.pa) → ∃ t, fetchWord s g va = (t, .ok (BitVec.ofNat 64 (memNat s1.mem ph.pa 8))))

/-- No instruction of the table is refused, in any state; a step of the machine itself, or of the world outside, is taken by the meaning
of its row, and changes nothing where it cannot be taken now. The agenda, and that a turn which cannot be taken is dropped without
effect, are the model's choices (assumptions 2 and 49). -/
def Obligations.NothingIsRefused : Prop :=
  (∀ i s r, exec i s ≠ .refused r) ∧
  (∀ s o rest, s.agenda = .own o :: rest → let s0 := { s with agenda := rest, cur := none }
    (∀ t, ownDo o s0 = .next t → step s = .next (endTurn { s with agenda := rest } none (ownCycles o) t)) ∧
    (∀ f, ownDo o s0 = .fault f → step s = .next { s with agenda := rest })) ∧
  (∀ s i rest, s.agenda = .act i :: rest → let s0 := { s with agenda := rest, cur := none }
    (∀ t, exec i s0 = .next t → step s = .next (endTurn { s with agenda := rest } none 1 t)) ∧
    (∀ f, exec i s0 = .fault f → step s = .next { s with agenda := rest }))

/-- The words of instructions decode to the instructions that encode to them, with every field that the encodings admit, and to no
others; an opcode that no instruction has is reserved (03 R63, R68, R71, R72). -/
def Obligations.DecodeAndEncodeAgree : Prop :=
  (∀ i w, i.wf = true → encode i = some w → decodeWord w = .ok i) ∧
  (∀ w i, decodeWord w = .ok i → i.wf = true ∧ encode i = some w) ∧
  (∀ w, (∀ (i : Instr) p, i.parts = some p → p.1 ≠ opOf w) → decodeWord w = .error (.reservedOpcode (opOf w)))

/-- Words written out from the encodings of the spec decode to the instructions they stand for: of format V the integer, float,
packed, conversion and long-latency families, then the formats I, W, S-r, S-i, B, M, C and X (03 R63, R68, R69, R71; 02 R27, R33). -/
def Obligations.DecodedWords : Prop :=
  decodeWord 0x0005C0280600F280 = .ok (.iadd ⟨0, true, 3, true⟩ ⟨5, 6, 7, true, false, .s32, .rne, false, 0⟩) ∧
  decodeWord 0x2003800802006D50 = .ok (.fadd ⟨0, false, 7, false⟩ ⟨1, 2, 3, false, true, .f32, .rup, true, 0⟩) ∧
  decodeWord 0x300380200500C400 = .ok (.hadd2 ⟨0, false, 7, false⟩ ⟨4, 5, 6, false, false, .f16, .rne, false, 0⟩) ∧
  decodeWord 0x410380480A000505 = .ok (.cvtif ⟨0, false, 7, false⟩ ⟨9, 10, 0, false, false, .f32, .rne, false, 5⟩) ∧
  decodeWord 0x271B801003008500 = .ok (.fdiv ⟨3, false, 7, false⟩ ⟨2, 3, 4, false, false, .f32, .rne, false, 0⟩) ∧
  decodeWord 0x1403BFF001FFFFFF = .ok (.iaddi ⟨0, false, 7, false⟩ ⟨2046, 1, 16777215⟩) ∧
  decodeWord 0x18038040DEADBEEF = .ok (.movi ⟨0, false, 7, false⟩ ⟨8, 3735928559⟩) ∧
  decodeWord 0x6003800802006300 = .ok (.sadd ⟨0, false, 7, false⟩ ⟨1, 2, 3, .u64, 0⟩) ∧
  decodeWord 0x6583802000123456 = .ok (.smovi ⟨0, false, 7, false⟩ ⟨4, 0, 1193046⟩) ∧
  decodeWord 0x700380000FFFFFFE = .ok (.bra ⟨0, false, 7, false⟩ ⟨0, 268435454⟩) ∧
  decodeWord 0x7101400050000009 = .ok (.brd ⟨0, false, 2, true⟩ ⟨5, 9⟩) ∧
  decodeWord 0x80138081814F60FE = .ok (.ld ⟨2, false, 7, false⟩ ⟨16, 3, 20, 15, 1, 4, 0, 254⟩) ∧
  decodeWord 0xA003BF087C000003 = .ok (.cpy ⟨0, false, 7, false⟩ ⟨63, 2, 1, 15, 0, 3⟩) ∧
  decodeWord 0xA703801400000008 = .ok (.qpush ⟨0, false, 7, false⟩ ⟨0, 5, 0, 0, 0, 8⟩) ∧
  decodeWord 0xB303BED000000000 = .ok (.mma ⟨0, false, 7, false⟩ ⟨31, 1, 2, .f16, 0, 0⟩) ∧
  decodeWord 0xB383860000000000 = .ok (.zzero ⟨0, false, 7, false⟩ ⟨3, 0, 0, .u8, 0, 0⟩) ∧
  decodeWord 0xC903800000000005 = .ok (.barw ⟨0, false, 7, false⟩ ⟨0, 0, 0, .u8, 5⟩) ∧
  decodeWord 0xD803801000000000 = .ok (.sread ⟨0, false, 7, false⟩ ⟨2, 0, 0, .u8, 0⟩)

/-- Right after reset every context is FREE, no launch, team or group exists, every core and cluster is empty, every cluster is in
pool 0 at the voltage requested for that pool, every link DOWN, no queue is open, and memory lists nothing; the state is in
canonical form and of the device's shape (01 R14; 04 R93; 17 R400; 18 R409; 19 R427). That the voltage is the requested one, and
that no undervolt is in force, is the model's choice (assumption 6). -/
def Obligations.ResetState : Prop :=
  let s := State.reset
  s.canon = true ∧ s.shaped = true ∧ (∀ c ∈ s.contexts, c = Context.empty) ∧ s.launches = [] ∧ s.teams = [] ∧ s.groups = [] ∧
  (∀ c ∈ s.cores, c = Core.empty) ∧ s.clusters.length = 144 ∧
  (∀ n c, s.clusters[n]? = some c → c = Cluster.fresh n ∧ c.pool = 0 ∧ c.mv = poolMv s n 0) ∧ (∀ l ∈ s.links, l.st = 0) ∧ s.queues = [] ∧
  s.mem = [] ∧ s.agenda = [] ∧ s.firm.mode = 0

/-- Every step keeps every memory, that of the device and the scratchpad of every team, in its canonical form, so that equal
memories are equal data: the invariant on which the statements about stored bytes rest (an invariant of the model). -/
def Obligations.EveryStepKeepsMemoryCanonical : Prop :=
  ∀ s t, s.canon = true → step s = .next t → t.canon = true

/-- The statements IntegerArithmetic and CarryAndDivision above together: the integer instructions give the exact integer, wrapped or
saturated. -/
def Obligations.IntegerResults : Prop :=
  Claims.IntegerArithmetic ∧ Claims.CarryAndDivision

/-- The statements BitInstructions and ComparesAndImmediates above together: the instructions on bits, the compares and the
immediates. -/
def Obligations.BitsAndCompares : Prop :=
  Claims.BitInstructions ∧ Claims.ComparesAndImmediates

/-- The statements FloatArithmetic and PackedAndDotProducts above together: the float, packed and dot-product instructions. -/
def Obligations.FloatResults : Prop :=
  Claims.FloatArithmetic ∧ Claims.PackedAndDotProducts

/-- The statements CrossThread and ReductionAndScan above together: the instructions across the threads of a group, reductions and
scans. -/
def Obligations.CrossThreadResults : Prop :=
  Claims.CrossThread ∧ Claims.ReductionAndScan

/-- The statements LongLatencyFunctions and LongLatencyResultIsWritten above together: long-latency functions begin a result, which is
then written. -/
def Obligations.LongLatencyResults : Prop :=
  Claims.LongLatencyFunctions ∧ Claims.LongLatencyResultIsWritten

/-- The statements ScalarInstructions, ScalarSpaceReadsAsWritten and AddressInstructions above together: the scalar and
address-register instructions and the uniform space. -/
def Obligations.ScalarSpace : Prop :=
  Claims.ScalarInstructions ∧ Claims.ScalarSpaceReadsAsWritten ∧ Claims.AddressInstructions

/-- The statements UniformTransfers, DivergentBranch, JoinResumes, ExitRetires and NopSleepYield above together: branches, calls,
returns, the convergence stack, EXIT, NOP, SLEEP and YIELD. -/
def Obligations.ControlTransfers : Prop :=
  Claims.UniformTransfers ∧ Claims.DivergentBranch ∧ Claims.JoinResumes ∧ Claims.ExitRetires ∧ Claims.NopSleepYield

/-- The statements LoadsOfMemory and SectorsAsLoadsFindThem above together: loads of device memory, and what they find. -/
def Obligations.DeviceLoads : Prop :=
  Claims.LoadsOfMemory ∧ Claims.SectorsAsLoadsFindThem

/-- The statements StoresOfMemory and StoresReachTheirHomes above together: stores to device memory, at the group and at their homes. -/
def Obligations.DeviceStores : Prop :=
  Claims.StoresOfMemory ∧ Claims.StoresReachTheirHomes

/-- The statements AtomicsArrive, AtomicOperations and OrderedContributions above together: what atomics and ordered reductions do at
their homes. -/
def Obligations.AtomicsAtTheirHomes : Prop :=
  Claims.AtomicsArrive ∧ Claims.AtomicOperations ∧ Claims.OrderedContributions

/-- The statements Fences and HintsAndLines above together: fences, the hint instructions and the line operations. -/
def Obligations.FencesAndHints : Prop :=
  Claims.Fences ∧ Claims.HintsAndLines

/-- The statements CopiesTakeTheirTags and CopySteps above together: a copy takes its tag, starts, is delivered, and ends or fails. -/
def Obligations.CopiesRun : Prop :=
  Claims.CopiesTakeTheirTags ∧ Claims.CopySteps

/-- The statements QueuesServeRequests and QueuesOpen above together: what a queue does with its requests, and how it opens. -/
def Obligations.QueuesServe : Prop :=
  Claims.QueuesServeRequests ∧ Claims.QueuesOpen

/-- The statements CountersFireTasks and TasksArePushed above together: dependence counters fire their tasks, which are pushed. -/
def Obligations.TasksFire : Prop :=
  Claims.CountersFireTasks ∧ Claims.TasksArePushed

/-- The statements SpawnDeposits and BinsAreLaunched above together: sPAWN deposits threads in bins, which are launched as groups. -/
def Obligations.SpawnedThreads : Prop :=
  Claims.SpawnDeposits ∧ Claims.BinsAreLaunched

/-- The statements FaultsOfAWord and UnqualifiedGroupWide above together: the faults before the operation, and group-wide instructions
that do not act. -/
def Obligations.FaultsBeforeTheOperation : Prop :=
  Claims.FaultsOfAWord ∧ Claims.UnqualifiedGroupWide

/-- The statements SaveSlotLayout and SlotRoundTrip above together: what a save slot holds, and that it reads back as it was saved. -/
def Obligations.SaveSlots : Prop :=
  Claims.SaveSlotLayout ∧ Claims.SlotRoundTrip

/-- The statements RecordInstructions and BarrierArrivals above together: barrier records: GBAR, STRAG, the arrivals and the release. -/
def Obligations.BarrierRecords : Prop :=
  Claims.RecordInstructions ∧ Claims.BarrierArrivals

/-- The statements ResetPendingFaults and ReservationRequests above together: reservations, the rein and reset-pending teams. -/
def Obligations.ReservationsAndRein : Prop :=
  Claims.ResetPendingFaults ∧ Claims.ReservationRequests

/-- The statements CommandsEnter and HarnessFeeds above together: engine commands and harness feeds enter the engine. -/
def Obligations.EngineCommandsEnter : Prop :=
  Claims.CommandsEnter ∧ Claims.HarnessFeeds

/-- The statements NodesAndRegrouping and DescentWorks above together: node addresses, regrouping, and the descent itself. -/
def Obligations.DescentRuns : Prop :=
  Claims.NodesAndRegrouping ∧ Claims.DescentWorks

/-- The statements PowerSteps and PolicySteps above together: pWRQ, changes of operating point, droops and the policy step. -/
def Obligations.OperatingPoints : Prop :=
  Claims.PowerSteps ∧ Claims.PolicySteps

/-- The statements PageCommands and DoorbellAndEvents above together: the commands of a control page, the doorbell and the event bits. -/
def Obligations.ContextCommands : Prop :=
  Claims.PageCommands ∧ Claims.DoorbellAndEvents

/-- The statements LanesChoose and LaneWaitsEnd above together: a lane chooses the group that comes first; the waits of a lane end. -/
def Obligations.LanesChooseAndWait : Prop :=
  Claims.LanesChoose ∧ Claims.LaneWaitsEnd

/-- The statements FramesAndSlots and GroupsStartAndEnd above together: groups are created with frame and slot, and retire. -/
def Obligations.GroupsComeAndGo : Prop :=
  Claims.FramesAndSlots ∧ Claims.GroupsStartAndEnd

/-- The statements TeamsStartAndEnd and LaunchesStartAndEnd above together: launches are checked and completed; teams and spans are
placed and retire. -/
def Obligations.TeamsAndLaunches : Prop :=
  Claims.TeamsStartAndEnd ∧ Claims.LaunchesStartAndEnd

/-- The statements RegisterWrites and SlowWindow above together: register writes, the slow window and the MSI-X table. -/
def Obligations.HostPort : Prop :=
  Claims.RegisterWrites ∧ Claims.SlowWindow

/-- The statements MailboxCommands and Starts above together: the mailbox, and the start sequence. -/
def Obligations.FirmwareCommands : Prop :=
  Claims.MailboxCommands ∧ Claims.Starts

/-- The statements LinkStates and Flits above together: the states of a link, and its flits. -/
def Obligations.FabricLinks : Prop :=
  Claims.LinkStates ∧ Claims.Flits
end

