-- ==== Sys2Proof/Laws/Lines.lean ====
section
/-! SUPPORT. What the operations on a group's vector registers do to what a read receives (06 R122 to R127): settling a held
result, ageing the window and flushing it change no line that is read; a kill changes only the lines that it names; a held
result changes one line. -/

namespace Sys2Proof.Laws
open Sys2Proof.Machine

/-- What a line reads as depends on the window, the cache, the frame and the width alone. -/
theorem readLine_congr {s s' : State} {g g' : Group} (hs : ∀ va acc, peek s' g'.ctx va acc = peek s g.ctx va acc)
    (hm : s'.mem = s.mem) (hw : g'.win = g.win) (hl : g'.lines = g.lines) (hf : g'.frame = g.frame) (hd : g'.width = g.width)
    (n : Nat) : readLine s' g' n = readLine s g n := by
  simp only [readLine, cachedLine, frameLine, hs, hm, hw, hl, hf, hd]

theorem find_filter_ne {α : Type} (xs : List α) (k : α → Nat) (m n : Nat) (h : m ≠ n) :
    (xs.filter (fun x => decide (k x ≠ n))).find? (fun x => decide (k x = m)) = xs.find? (fun x => decide (k x = m)) := by
  induction xs with
  | nil => rfl
  | cons x xs ih =>
    by_cases h1 : k x = n
    · have h2 : k x ≠ m := fun h3 => h (h3.symm.trans h1)
      rw [List.filter_cons_of_neg (by simp [h1]), List.find?_cons_of_neg (by simp [h2]), ih]
    · rw [List.filter_cons_of_pos (by simp [h1])]
      by_cases h2 : k x = m
      · rw [List.find?_cons_of_pos (by simp [h2]), List.find?_cons_of_pos (by simp [h2])]
      · rw [List.find?_cons_of_neg (by simp [h2]), List.find?_cons_of_neg (by simp [h2]), ih]

theorem find_filter_self {α : Type} (xs : List α) (k : α → Nat) (n : Nat) :
    (xs.filter (fun x => decide (k x ≠ n))).find? (fun x => decide (k x = n)) = none := by
  rw [List.find?_eq_none]
  intro x hx
  have := (List.mem_filter.mp hx).2
  simpa using this

/-- The line put into the register cache is read there; the others are as before. -/
theorem cachedLine_cachePut (s s' : State) (g : Group) (n m : Nat) (d : List W32) (tag : SclTag) :
    cachedLine s (cachePut s' g n d tag) m = if m = n then d else cachedLine s g m := by
  by_cases h : m = n
  · subst h; simp [cachedLine, cachePut]
  · have h2 : n ≠ m := fun e => h e.symm
    simp only [cachedLine, cachePut, h, if_false]
    rw [List.find?_cons_of_neg (by simp [h2]), find_filter_ne _ _ _ _ h]
    rfl

/-- Settling a held result changes no line that is read. -/
@[simp] theorem readLine_settleHeld (s s' : State) (g : Group) (h : Held) (n : Nat) :
    readLine s (settleHeld s' g h) n = readLine s g n := by
  unfold settleHeld
  split
  · rename_i x hx
    have hr : x.reg = h.reg := by simpa using List.find?_some hx
    simp only [readLine]
    by_cases hn : n = h.reg
    · subst hn
      rw [show (cachePut s' { g with win := g.win.filter (fun x => decide (x.reg ≠ h.reg)) } h.reg x.data x.tag).win
          = g.win.filter (fun x => decide (x.reg ≠ h.reg)) from rfl, find_filter_self, hx]
      simp [cachedLine_cachePut]
    · rw [show (cachePut s' { g with win := g.win.filter (fun x => decide (x.reg ≠ h.reg)) } h.reg x.data x.tag).win
          = g.win.filter (fun x => decide (x.reg ≠ h.reg)) from rfl, find_filter_ne _ _ _ _ hn]
      simp only [cachedLine_cachePut, hn, if_false]
      rfl
  · rfl

/-- Settling several held results changes no line that is read. -/
@[simp] theorem readLine_settleAll (s s' : State) (hs : List Held) (g : Group) (n : Nat) :
    readLine s (hs.foldl (settleHeld s') g) n = readLine s g n := by
  induction hs generalizing g with
  | nil => rfl
  | cons h hs ih => simp [List.foldl_cons, ih]

/-- Flushing the window changes no line that is read (06 R129). -/
@[simp] theorem readLine_flushWin (s s' : State) (g : Group) (n : Nat) : readLine s (flushWin s' g) n = readLine s g n := by
  simp [flushWin]

theorem find_map_age (xs : List Held) (n : Nat) :
    ((xs.map (fun (h : Held) => { h with age := h.age + 1 })).find? (fun h => decide (h.reg = n))).map (fun h => h.data)
      = (xs.find? (fun h => decide (h.reg = n))).map (fun h => h.data) := by
  rw [List.find?_map, Option.map_map]
  rfl

/-- What is read, by cases of the window. -/
theorem readLine_eq (s : State) (g : Group) (n : Nat) :
    readLine s g n = (((g.win.find? (fun h => decide (h.reg = n))).map (fun h => h.data)).getD (cachedLine s g n)) := by
  unfold readLine; cases g.win.find? (fun h => decide (h.reg = n)) <;> rfl

/-- Ageing the window changes no line that is read (06 R127). -/
@[simp] theorem readLine_ageWin (s s' : State) (g : Group) (n : Nat) : readLine s (ageWin s' g) n = readLine s g n := by
  simp only [ageWin, readLine_settleAll]
  rw [readLine_eq, readLine_eq]
  simp only [find_map_age]
  rfl

/-- A kill changes only the lines that it names (06 R127). -/
theorem readLine_killLines (s : State) (g : Group) (ns : List Nat) (n : Nat) (h : n ∉ ns) :
    readLine s (killLines g ns) n = readLine s g n := by
  rw [readLine_eq, readLine_eq]
  have : ((killLines g ns).win.find? (fun h => decide (h.reg = n))) = g.win.find? (fun h => decide (h.reg = n)) := by
    simp only [killLines]
    induction g.win with
    | nil => rfl
    | cons x xs ih =>
      by_cases h1 : x.reg = n
      · have : x.reg ∉ ns := h1 ▸ h
        simp [h1, h]
      · by_cases h2 : x.reg ∈ ns
        · simpa [h1, h2] using ih
        · simpa [h1, h2] using ih
  rw [this]; rfl

/-- A result held in the window: its line is merged, the others are as before (06 R126, R127). -/
theorem readLine_holdLine (s s' : State) (g : Group) (n m : Nat) (ws : List (Nat × W32)) (tag : SclTag) :
    readLine s (holdLine s' g n ws tag) m = if m = n then mergeLine (readLine s' g n) ws else readLine s g m := by
  rw [readLine_eq]
  by_cases h : m = n
  · subst h
    simp only [holdLine, List.find?_append, find_filter_self, if_true]
    simp
  · have h2 : n ≠ m := fun e => h e.symm
    rw [readLine_eq s g m]
    simp only [holdLine, List.find?_append, find_filter_ne _ _ _ _ h, h, if_false]
    cases hc : g.win.find? (fun h => decide (h.reg = m)) <;> simp [h2, cachedLine]
    rfl

end Sys2Proof.Laws
end

