-- ==== Sys2Proof/Laws/State.lean ====
section
/-! SUPPORT. The fields of the state after each update of one kind of object: one lemma per field per update, so that no proof
unfolds a record update. -/

namespace Sys2Proof.Laws
open Sys2Proof.Machine

/-! ### setGroup -/
@[simp] theorem setGroup_fcycles (s : State) (g : Group) : (setGroup s g).fcycles = s.fcycles := rfl
@[simp] theorem setGroup_cur (s : State) (g : Group) : (setGroup s g).cur = s.cur := rfl
@[simp] theorem setGroup_agenda (s : State) (g : Group) : (setGroup s g).agenda = s.agenda := rfl
@[simp] theorem setGroup_freeCtr (s : State) (g : Group) : (setGroup s g).freeCtr = s.freeCtr := rfl
@[simp] theorem setGroup_nextId (s : State) (g : Group) : (setGroup s g).nextId = s.nextId := rfl
@[simp] theorem setGroup_birth (s : State) (g : Group) : (setGroup s g).birth = s.birth := rfl
@[simp] theorem setGroup_mem (s : State) (g : Group) : (setGroup s g).mem = s.mem := rfl
@[simp] theorem setGroup_poison (s : State) (g : Group) : (setGroup s g).poison = s.poison := rfl
@[simp] theorem setGroup_dirty (s : State) (g : Group) : (setGroup s g).dirty = s.dirty := rfl
@[simp] theorem setGroup_wcbs (s : State) (g : Group) : (setGroup s g).wcbs = s.wcbs := rfl
@[simp] theorem setGroup_flight (s : State) (g : Group) : (setGroup s g).flight = s.flight := rfl
@[simp] theorem setGroup_remotes (s : State) (g : Group) : (setGroup s g).remotes = s.remotes := rfl
@[simp] theorem setGroup_oredHeld (s : State) (g : Group) : (setGroup s g).oredHeld = s.oredHeld := rfl
@[simp] theorem setGroup_pwc (s : State) (g : Group) : (setGroup s g).pwc = s.pwc := rfl
@[simp] theorem setGroup_copies (s : State) (g : Group) : (setGroup s g).copies = s.copies := rfl
@[simp] theorem setGroup_queues (s : State) (g : Group) : (setGroup s g).queues = s.queues := rfl
@[simp] theorem setGroup_qreqs (s : State) (g : Group) : (setGroup s g).qreqs = s.qreqs := rfl
@[simp] theorem setGroup_asks (s : State) (g : Group) : (setGroup s g).asks = s.asks := rfl
@[simp] theorem setGroup_unmet (s : State) (g : Group) : (setGroup s g).unmet = s.unmet := rfl
@[simp] theorem setGroup_owed (s : State) (g : Group) : (setGroup s g).owed = s.owed := rfl
@[simp] theorem setGroup_joins (s : State) (g : Group) : (setGroup s g).joins = s.joins := rfl
@[simp] theorem setGroup_farArr (s : State) (g : Group) : (setGroup s g).farArr = s.farArr := rfl
@[simp] theorem setGroup_relays (s : State) (g : Group) : (setGroup s g).relays = s.relays := rfl
@[simp] theorem setGroup_outbox (s : State) (g : Group) : (setGroup s g).outbox = s.outbox := rfl
@[simp] theorem setGroup_inbox (s : State) (g : Group) : (setGroup s g).inbox = s.inbox := rfl
@[simp] theorem setGroup_claims (s : State) (g : Group) : (setGroup s g).claims = s.claims := rfl
@[simp] theorem setGroup_fired (s : State) (g : Group) : (setGroup s g).fired = s.fired := rfl
@[simp] theorem setGroup_rgot (s : State) (g : Group) : (setGroup s g).rgot = s.rgot := rfl
@[simp] theorem setGroup_owned (s : State) (g : Group) : (setGroup s g).owned = s.owned := rfl
@[simp] theorem setGroup_recs (s : State) (g : Group) : (setGroup s g).recs = s.recs := rfl
@[simp] theorem setGroup_gmsgs (s : State) (g : Group) : (setGroup s g).gmsgs = s.gmsgs := rfl
@[simp] theorem setGroup_out (s : State) (g : Group) : (setGroup s g).out = s.out := rfl
@[simp] theorem setGroup_msix (s : State) (g : Group) : (setGroup s g).msix = s.msix := rfl
@[simp] theorem setGroup_msixPend (s : State) (g : Group) : (setGroup s g).msixPend = s.msixPend := rfl
@[simp] theorem setGroup_swbase (s : State) (g : Group) : (setGroup s g).swbase = s.swbase := rfl
@[simp] theorem setGroup_firm (s : State) (g : Group) : (setGroup s g).firm = s.firm := rfl
@[simp] theorem setGroup_contexts (s : State) (g : Group) : (setGroup s g).contexts = s.contexts := rfl
@[simp] theorem setGroup_launches (s : State) (g : Group) : (setGroup s g).launches = s.launches := rfl
@[simp] theorem setGroup_teams (s : State) (g : Group) : (setGroup s g).teams = s.teams := rfl
@[simp] theorem setGroup_groups (s : State) (g : Group) : (setGroup s g).groups = s.groups.map (fun x => if x.id = g.id then g else x) := rfl
@[simp] theorem setGroup_cores (s : State) (g : Group) : (setGroup s g).cores = s.cores := rfl
@[simp] theorem setGroup_clusters (s : State) (g : Group) : (setGroup s g).clusters = s.clusters := rfl
@[simp] theorem setGroup_links (s : State) (g : Group) : (setGroup s g).links = s.links := rfl
@[simp] theorem setGroup_fid (s : State) (g : Group) : (setGroup s g).fid = s.fid := rfl
@[simp] theorem setGroup_slew (s : State) (g : Group) : (setGroup s g).slew = s.slew := rfl
@[simp] theorem setGroup_undervolt (s : State) (g : Group) : (setGroup s g).undervolt = s.undervolt := rfl
@[simp] theorem setGroup_policyAt (s : State) (g : Group) : (setGroup s g).policyAt = s.policyAt := rfl

/-! ### onGroup -/
@[simp] theorem onGroup_fcycles (s : State) (k : Nat) (f : Group → Group) : (onGroup s k f).fcycles = s.fcycles := rfl
@[simp] theorem onGroup_cur (s : State) (k : Nat) (f : Group → Group) : (onGroup s k f).cur = s.cur := rfl
@[simp] theorem onGroup_agenda (s : State) (k : Nat) (f : Group → Group) : (onGroup s k f).agenda = s.agenda := rfl
@[simp] theorem onGroup_freeCtr (s : State) (k : Nat) (f : Group → Group) : (onGroup s k f).freeCtr = s.freeCtr := rfl
@[simp] theorem onGroup_nextId (s : State) (k : Nat) (f : Group → Group) : (onGroup s k f).nextId = s.nextId := rfl
@[simp] theorem onGroup_birth (s : State) (k : Nat) (f : Group → Group) : (onGroup s k f).birth = s.birth := rfl
@[simp] theorem onGroup_mem (s : State) (k : Nat) (f : Group → Group) : (onGroup s k f).mem = s.mem := rfl
@[simp] theorem onGroup_poison (s : State) (k : Nat) (f : Group → Group) : (onGroup s k f).poison = s.poison := rfl
@[simp] theorem onGroup_dirty (s : State) (k : Nat) (f : Group → Group) : (onGroup s k f).dirty = s.dirty := rfl
@[simp] theorem onGroup_wcbs (s : State) (k : Nat) (f : Group → Group) : (onGroup s k f).wcbs = s.wcbs := rfl
@[simp] theorem onGroup_flight (s : State) (k : Nat) (f : Group → Group) : (onGroup s k f).flight = s.flight := rfl
@[simp] theorem onGroup_remotes (s : State) (k : Nat) (f : Group → Group) : (onGroup s k f).remotes = s.remotes := rfl
@[simp] theorem onGroup_oredHeld (s : State) (k : Nat) (f : Group → Group) : (onGroup s k f).oredHeld = s.oredHeld := rfl
@[simp] theorem onGroup_pwc (s : State) (k : Nat) (f : Group → Group) : (onGroup s k f).pwc = s.pwc := rfl
@[simp] theorem onGroup_copies (s : State) (k : Nat) (f : Group → Group) : (onGroup s k f).copies = s.copies := rfl
@[simp] theorem onGroup_queues (s : State) (k : Nat) (f : Group → Group) : (onGroup s k f).queues = s.queues := rfl
@[simp] theorem onGroup_qreqs (s : State) (k : Nat) (f : Group → Group) : (onGroup s k f).qreqs = s.qreqs := rfl
@[simp] theorem onGroup_asks (s : State) (k : Nat) (f : Group → Group) : (onGroup s k f).asks = s.asks := rfl
@[simp] theorem onGroup_unmet (s : State) (k : Nat) (f : Group → Group) : (onGroup s k f).unmet = s.unmet := rfl
@[simp] theorem onGroup_owed (s : State) (k : Nat) (f : Group → Group) : (onGroup s k f).owed = s.owed := rfl
@[simp] theorem onGroup_joins (s : State) (k : Nat) (f : Group → Group) : (onGroup s k f).joins = s.joins := rfl
@[simp] theorem onGroup_farArr (s : State) (k : Nat) (f : Group → Group) : (onGroup s k f).farArr = s.farArr := rfl
@[simp] theorem onGroup_relays (s : State) (k : Nat) (f : Group → Group) : (onGroup s k f).relays = s.relays := rfl
@[simp] theorem onGroup_outbox (s : State) (k : Nat) (f : Group → Group) : (onGroup s k f).outbox = s.outbox := rfl
@[simp] theorem onGroup_inbox (s : State) (k : Nat) (f : Group → Group) : (onGroup s k f).inbox = s.inbox := rfl
@[simp] theorem onGroup_claims (s : State) (k : Nat) (f : Group → Group) : (onGroup s k f).claims = s.claims := rfl
@[simp] theorem onGroup_fired (s : State) (k : Nat) (f : Group → Group) : (onGroup s k f).fired = s.fired := rfl
@[simp] theorem onGroup_rgot (s : State) (k : Nat) (f : Group → Group) : (onGroup s k f).rgot = s.rgot := rfl
@[simp] theorem onGroup_owned (s : State) (k : Nat) (f : Group → Group) : (onGroup s k f).owned = s.owned := rfl
@[simp] theorem onGroup_recs (s : State) (k : Nat) (f : Group → Group) : (onGroup s k f).recs = s.recs := rfl
@[simp] theorem onGroup_gmsgs (s : State) (k : Nat) (f : Group → Group) : (onGroup s k f).gmsgs = s.gmsgs := rfl
@[simp] theorem onGroup_out (s : State) (k : Nat) (f : Group → Group) : (onGroup s k f).out = s.out := rfl
@[simp] theorem onGroup_msix (s : State) (k : Nat) (f : Group → Group) : (onGroup s k f).msix = s.msix := rfl
@[simp] theorem onGroup_msixPend (s : State) (k : Nat) (f : Group → Group) : (onGroup s k f).msixPend = s.msixPend := rfl
@[simp] theorem onGroup_swbase (s : State) (k : Nat) (f : Group → Group) : (onGroup s k f).swbase = s.swbase := rfl
@[simp] theorem onGroup_firm (s : State) (k : Nat) (f : Group → Group) : (onGroup s k f).firm = s.firm := rfl
@[simp] theorem onGroup_contexts (s : State) (k : Nat) (f : Group → Group) : (onGroup s k f).contexts = s.contexts := rfl
@[simp] theorem onGroup_launches (s : State) (k : Nat) (f : Group → Group) : (onGroup s k f).launches = s.launches := rfl
@[simp] theorem onGroup_teams (s : State) (k : Nat) (f : Group → Group) : (onGroup s k f).teams = s.teams := rfl
@[simp] theorem onGroup_groups (s : State) (k : Nat) (f : Group → Group) : (onGroup s k f).groups = s.groups.map (fun x => if x.id = k then f x else x) := rfl
@[simp] theorem onGroup_cores (s : State) (k : Nat) (f : Group → Group) : (onGroup s k f).cores = s.cores := rfl
@[simp] theorem onGroup_clusters (s : State) (k : Nat) (f : Group → Group) : (onGroup s k f).clusters = s.clusters := rfl
@[simp] theorem onGroup_links (s : State) (k : Nat) (f : Group → Group) : (onGroup s k f).links = s.links := rfl
@[simp] theorem onGroup_fid (s : State) (k : Nat) (f : Group → Group) : (onGroup s k f).fid = s.fid := rfl
@[simp] theorem onGroup_slew (s : State) (k : Nat) (f : Group → Group) : (onGroup s k f).slew = s.slew := rfl
@[simp] theorem onGroup_undervolt (s : State) (k : Nat) (f : Group → Group) : (onGroup s k f).undervolt = s.undervolt := rfl
@[simp] theorem onGroup_policyAt (s : State) (k : Nat) (f : Group → Group) : (onGroup s k f).policyAt = s.policyAt := rfl

/-! ### onTeam -/
@[simp] theorem onTeam_fcycles (s : State) (k : Nat) (f : Team → Team) : (onTeam s k f).fcycles = s.fcycles := rfl
@[simp] theorem onTeam_cur (s : State) (k : Nat) (f : Team → Team) : (onTeam s k f).cur = s.cur := rfl
@[simp] theorem onTeam_agenda (s : State) (k : Nat) (f : Team → Team) : (onTeam s k f).agenda = s.agenda := rfl
@[simp] theorem onTeam_freeCtr (s : State) (k : Nat) (f : Team → Team) : (onTeam s k f).freeCtr = s.freeCtr := rfl
@[simp] theorem onTeam_nextId (s : State) (k : Nat) (f : Team → Team) : (onTeam s k f).nextId = s.nextId := rfl
@[simp] theorem onTeam_birth (s : State) (k : Nat) (f : Team → Team) : (onTeam s k f).birth = s.birth := rfl
@[simp] theorem onTeam_mem (s : State) (k : Nat) (f : Team → Team) : (onTeam s k f).mem = s.mem := rfl
@[simp] theorem onTeam_poison (s : State) (k : Nat) (f : Team → Team) : (onTeam s k f).poison = s.poison := rfl
@[simp] theorem onTeam_dirty (s : State) (k : Nat) (f : Team → Team) : (onTeam s k f).dirty = s.dirty := rfl
@[simp] theorem onTeam_wcbs (s : State) (k : Nat) (f : Team → Team) : (onTeam s k f).wcbs = s.wcbs := rfl
@[simp] theorem onTeam_flight (s : State) (k : Nat) (f : Team → Team) : (onTeam s k f).flight = s.flight := rfl
@[simp] theorem onTeam_remotes (s : State) (k : Nat) (f : Team → Team) : (onTeam s k f).remotes = s.remotes := rfl
@[simp] theorem onTeam_oredHeld (s : State) (k : Nat) (f : Team → Team) : (onTeam s k f).oredHeld = s.oredHeld := rfl
@[simp] theorem onTeam_pwc (s : State) (k : Nat) (f : Team → Team) : (onTeam s k f).pwc = s.pwc := rfl
@[simp] theorem onTeam_copies (s : State) (k : Nat) (f : Team → Team) : (onTeam s k f).copies = s.copies := rfl
@[simp] theorem onTeam_queues (s : State) (k : Nat) (f : Team → Team) : (onTeam s k f).queues = s.queues := rfl
@[simp] theorem onTeam_qreqs (s : State) (k : Nat) (f : Team → Team) : (onTeam s k f).qreqs = s.qreqs := rfl
@[simp] theorem onTeam_asks (s : State) (k : Nat) (f : Team → Team) : (onTeam s k f).asks = s.asks := rfl
@[simp] theorem onTeam_unmet (s : State) (k : Nat) (f : Team → Team) : (onTeam s k f).unmet = s.unmet := rfl
@[simp] theorem onTeam_owed (s : State) (k : Nat) (f : Team → Team) : (onTeam s k f).owed = s.owed := rfl
@[simp] theorem onTeam_joins (s : State) (k : Nat) (f : Team → Team) : (onTeam s k f).joins = s.joins := rfl
@[simp] theorem onTeam_farArr (s : State) (k : Nat) (f : Team → Team) : (onTeam s k f).farArr = s.farArr := rfl
@[simp] theorem onTeam_relays (s : State) (k : Nat) (f : Team → Team) : (onTeam s k f).relays = s.relays := rfl
@[simp] theorem onTeam_outbox (s : State) (k : Nat) (f : Team → Team) : (onTeam s k f).outbox = s.outbox := rfl
@[simp] theorem onTeam_inbox (s : State) (k : Nat) (f : Team → Team) : (onTeam s k f).inbox = s.inbox := rfl
@[simp] theorem onTeam_claims (s : State) (k : Nat) (f : Team → Team) : (onTeam s k f).claims = s.claims := rfl
@[simp] theorem onTeam_fired (s : State) (k : Nat) (f : Team → Team) : (onTeam s k f).fired = s.fired := rfl
@[simp] theorem onTeam_rgot (s : State) (k : Nat) (f : Team → Team) : (onTeam s k f).rgot = s.rgot := rfl
@[simp] theorem onTeam_owned (s : State) (k : Nat) (f : Team → Team) : (onTeam s k f).owned = s.owned := rfl
@[simp] theorem onTeam_recs (s : State) (k : Nat) (f : Team → Team) : (onTeam s k f).recs = s.recs := rfl
@[simp] theorem onTeam_gmsgs (s : State) (k : Nat) (f : Team → Team) : (onTeam s k f).gmsgs = s.gmsgs := rfl
@[simp] theorem onTeam_out (s : State) (k : Nat) (f : Team → Team) : (onTeam s k f).out = s.out := rfl
@[simp] theorem onTeam_msix (s : State) (k : Nat) (f : Team → Team) : (onTeam s k f).msix = s.msix := rfl
@[simp] theorem onTeam_msixPend (s : State) (k : Nat) (f : Team → Team) : (onTeam s k f).msixPend = s.msixPend := rfl
@[simp] theorem onTeam_swbase (s : State) (k : Nat) (f : Team → Team) : (onTeam s k f).swbase = s.swbase := rfl
@[simp] theorem onTeam_firm (s : State) (k : Nat) (f : Team → Team) : (onTeam s k f).firm = s.firm := rfl
@[simp] theorem onTeam_contexts (s : State) (k : Nat) (f : Team → Team) : (onTeam s k f).contexts = s.contexts := rfl
@[simp] theorem onTeam_launches (s : State) (k : Nat) (f : Team → Team) : (onTeam s k f).launches = s.launches := rfl
@[simp] theorem onTeam_teams (s : State) (k : Nat) (f : Team → Team) : (onTeam s k f).teams = s.teams.map (fun x => if x.id = k then f x else x) := rfl
@[simp] theorem onTeam_groups (s : State) (k : Nat) (f : Team → Team) : (onTeam s k f).groups = s.groups := rfl
@[simp] theorem onTeam_cores (s : State) (k : Nat) (f : Team → Team) : (onTeam s k f).cores = s.cores := rfl
@[simp] theorem onTeam_clusters (s : State) (k : Nat) (f : Team → Team) : (onTeam s k f).clusters = s.clusters := rfl
@[simp] theorem onTeam_links (s : State) (k : Nat) (f : Team → Team) : (onTeam s k f).links = s.links := rfl
@[simp] theorem onTeam_fid (s : State) (k : Nat) (f : Team → Team) : (onTeam s k f).fid = s.fid := rfl
@[simp] theorem onTeam_slew (s : State) (k : Nat) (f : Team → Team) : (onTeam s k f).slew = s.slew := rfl
@[simp] theorem onTeam_undervolt (s : State) (k : Nat) (f : Team → Team) : (onTeam s k f).undervolt = s.undervolt := rfl
@[simp] theorem onTeam_policyAt (s : State) (k : Nat) (f : Team → Team) : (onTeam s k f).policyAt = s.policyAt := rfl

/-! ### onLaunch -/
@[simp] theorem onLaunch_fcycles (s : State) (k : Nat) (f : Launch → Launch) : (onLaunch s k f).fcycles = s.fcycles := rfl
@[simp] theorem onLaunch_cur (s : State) (k : Nat) (f : Launch → Launch) : (onLaunch s k f).cur = s.cur := rfl
@[simp] theorem onLaunch_agenda (s : State) (k : Nat) (f : Launch → Launch) : (onLaunch s k f).agenda = s.agenda := rfl
@[simp] theorem onLaunch_freeCtr (s : State) (k : Nat) (f : Launch → Launch) : (onLaunch s k f).freeCtr = s.freeCtr := rfl
@[simp] theorem onLaunch_nextId (s : State) (k : Nat) (f : Launch → Launch) : (onLaunch s k f).nextId = s.nextId := rfl
@[simp] theorem onLaunch_birth (s : State) (k : Nat) (f : Launch → Launch) : (onLaunch s k f).birth = s.birth := rfl
@[simp] theorem onLaunch_mem (s : State) (k : Nat) (f : Launch → Launch) : (onLaunch s k f).mem = s.mem := rfl
@[simp] theorem onLaunch_poison (s : State) (k : Nat) (f : Launch → Launch) : (onLaunch s k f).poison = s.poison := rfl
@[simp] theorem onLaunch_dirty (s : State) (k : Nat) (f : Launch → Launch) : (onLaunch s k f).dirty = s.dirty := rfl
@[simp] theorem onLaunch_wcbs (s : State) (k : Nat) (f : Launch → Launch) : (onLaunch s k f).wcbs = s.wcbs := rfl
@[simp] theorem onLaunch_flight (s : State) (k : Nat) (f : Launch → Launch) : (onLaunch s k f).flight = s.flight := rfl
@[simp] theorem onLaunch_remotes (s : State) (k : Nat) (f : Launch → Launch) : (onLaunch s k f).remotes = s.remotes := rfl
@[simp] theorem onLaunch_oredHeld (s : State) (k : Nat) (f : Launch → Launch) : (onLaunch s k f).oredHeld = s.oredHeld := rfl
@[simp] theorem onLaunch_pwc (s : State) (k : Nat) (f : Launch → Launch) : (onLaunch s k f).pwc = s.pwc := rfl
@[simp] theorem onLaunch_copies (s : State) (k : Nat) (f : Launch → Launch) : (onLaunch s k f).copies = s.copies := rfl
@[simp] theorem onLaunch_queues (s : State) (k : Nat) (f : Launch → Launch) : (onLaunch s k f).queues = s.queues := rfl
@[simp] theorem onLaunch_qreqs (s : State) (k : Nat) (f : Launch → Launch) : (onLaunch s k f).qreqs = s.qreqs := rfl
@[simp] theorem onLaunch_asks (s : State) (k : Nat) (f : Launch → Launch) : (onLaunch s k f).asks = s.asks := rfl
@[simp] theorem onLaunch_unmet (s : State) (k : Nat) (f : Launch → Launch) : (onLaunch s k f).unmet = s.unmet := rfl
@[simp] theorem onLaunch_owed (s : State) (k : Nat) (f : Launch → Launch) : (onLaunch s k f).owed = s.owed := rfl
@[simp] theorem onLaunch_joins (s : State) (k : Nat) (f : Launch → Launch) : (onLaunch s k f).joins = s.joins := rfl
@[simp] theorem onLaunch_farArr (s : State) (k : Nat) (f : Launch → Launch) : (onLaunch s k f).farArr = s.farArr := rfl
@[simp] theorem onLaunch_relays (s : State) (k : Nat) (f : Launch → Launch) : (onLaunch s k f).relays = s.relays := rfl
@[simp] theorem onLaunch_outbox (s : State) (k : Nat) (f : Launch → Launch) : (onLaunch s k f).outbox = s.outbox := rfl
@[simp] theorem onLaunch_inbox (s : State) (k : Nat) (f : Launch → Launch) : (onLaunch s k f).inbox = s.inbox := rfl
@[simp] theorem onLaunch_claims (s : State) (k : Nat) (f : Launch → Launch) : (onLaunch s k f).claims = s.claims := rfl
@[simp] theorem onLaunch_fired (s : State) (k : Nat) (f : Launch → Launch) : (onLaunch s k f).fired = s.fired := rfl
@[simp] theorem onLaunch_rgot (s : State) (k : Nat) (f : Launch → Launch) : (onLaunch s k f).rgot = s.rgot := rfl
@[simp] theorem onLaunch_owned (s : State) (k : Nat) (f : Launch → Launch) : (onLaunch s k f).owned = s.owned := rfl
@[simp] theorem onLaunch_recs (s : State) (k : Nat) (f : Launch → Launch) : (onLaunch s k f).recs = s.recs := rfl
@[simp] theorem onLaunch_gmsgs (s : State) (k : Nat) (f : Launch → Launch) : (onLaunch s k f).gmsgs = s.gmsgs := rfl
@[simp] theorem onLaunch_out (s : State) (k : Nat) (f : Launch → Launch) : (onLaunch s k f).out = s.out := rfl
@[simp] theorem onLaunch_msix (s : State) (k : Nat) (f : Launch → Launch) : (onLaunch s k f).msix = s.msix := rfl
@[simp] theorem onLaunch_msixPend (s : State) (k : Nat) (f : Launch → Launch) : (onLaunch s k f).msixPend = s.msixPend := rfl
@[simp] theorem onLaunch_swbase (s : State) (k : Nat) (f : Launch → Launch) : (onLaunch s k f).swbase = s.swbase := rfl
@[simp] theorem onLaunch_firm (s : State) (k : Nat) (f : Launch → Launch) : (onLaunch s k f).firm = s.firm := rfl
@[simp] theorem onLaunch_contexts (s : State) (k : Nat) (f : Launch → Launch) : (onLaunch s k f).contexts = s.contexts := rfl
@[simp] theorem onLaunch_launches (s : State) (k : Nat) (f : Launch → Launch) : (onLaunch s k f).launches = s.launches.map (fun x => if x.id = k then f x else x) := rfl
@[simp] theorem onLaunch_teams (s : State) (k : Nat) (f : Launch → Launch) : (onLaunch s k f).teams = s.teams := rfl
@[simp] theorem onLaunch_groups (s : State) (k : Nat) (f : Launch → Launch) : (onLaunch s k f).groups = s.groups := rfl
@[simp] theorem onLaunch_cores (s : State) (k : Nat) (f : Launch → Launch) : (onLaunch s k f).cores = s.cores := rfl
@[simp] theorem onLaunch_clusters (s : State) (k : Nat) (f : Launch → Launch) : (onLaunch s k f).clusters = s.clusters := rfl
@[simp] theorem onLaunch_links (s : State) (k : Nat) (f : Launch → Launch) : (onLaunch s k f).links = s.links := rfl
@[simp] theorem onLaunch_fid (s : State) (k : Nat) (f : Launch → Launch) : (onLaunch s k f).fid = s.fid := rfl
@[simp] theorem onLaunch_slew (s : State) (k : Nat) (f : Launch → Launch) : (onLaunch s k f).slew = s.slew := rfl
@[simp] theorem onLaunch_undervolt (s : State) (k : Nat) (f : Launch → Launch) : (onLaunch s k f).undervolt = s.undervolt := rfl
@[simp] theorem onLaunch_policyAt (s : State) (k : Nat) (f : Launch → Launch) : (onLaunch s k f).policyAt = s.policyAt := rfl

/-! ### onCtx -/
@[simp] theorem onCtx_fcycles (s : State) (k : Nat) (f : Context → Context) : (onCtx s k f).fcycles = s.fcycles := rfl
@[simp] theorem onCtx_cur (s : State) (k : Nat) (f : Context → Context) : (onCtx s k f).cur = s.cur := rfl
@[simp] theorem onCtx_agenda (s : State) (k : Nat) (f : Context → Context) : (onCtx s k f).agenda = s.agenda := rfl
@[simp] theorem onCtx_freeCtr (s : State) (k : Nat) (f : Context → Context) : (onCtx s k f).freeCtr = s.freeCtr := rfl
@[simp] theorem onCtx_nextId (s : State) (k : Nat) (f : Context → Context) : (onCtx s k f).nextId = s.nextId := rfl
@[simp] theorem onCtx_birth (s : State) (k : Nat) (f : Context → Context) : (onCtx s k f).birth = s.birth := rfl
@[simp] theorem onCtx_mem (s : State) (k : Nat) (f : Context → Context) : (onCtx s k f).mem = s.mem := rfl
@[simp] theorem onCtx_poison (s : State) (k : Nat) (f : Context → Context) : (onCtx s k f).poison = s.poison := rfl
@[simp] theorem onCtx_dirty (s : State) (k : Nat) (f : Context → Context) : (onCtx s k f).dirty = s.dirty := rfl
@[simp] theorem onCtx_wcbs (s : State) (k : Nat) (f : Context → Context) : (onCtx s k f).wcbs = s.wcbs := rfl
@[simp] theorem onCtx_flight (s : State) (k : Nat) (f : Context → Context) : (onCtx s k f).flight = s.flight := rfl
@[simp] theorem onCtx_remotes (s : State) (k : Nat) (f : Context → Context) : (onCtx s k f).remotes = s.remotes := rfl
@[simp] theorem onCtx_oredHeld (s : State) (k : Nat) (f : Context → Context) : (onCtx s k f).oredHeld = s.oredHeld := rfl
@[simp] theorem onCtx_pwc (s : State) (k : Nat) (f : Context → Context) : (onCtx s k f).pwc = s.pwc := rfl
@[simp] theorem onCtx_copies (s : State) (k : Nat) (f : Context → Context) : (onCtx s k f).copies = s.copies := rfl
@[simp] theorem onCtx_queues (s : State) (k : Nat) (f : Context → Context) : (onCtx s k f).queues = s.queues := rfl
@[simp] theorem onCtx_qreqs (s : State) (k : Nat) (f : Context → Context) : (onCtx s k f).qreqs = s.qreqs := rfl
@[simp] theorem onCtx_asks (s : State) (k : Nat) (f : Context → Context) : (onCtx s k f).asks = s.asks := rfl
@[simp] theorem onCtx_unmet (s : State) (k : Nat) (f : Context → Context) : (onCtx s k f).unmet = s.unmet := rfl
@[simp] theorem onCtx_owed (s : State) (k : Nat) (f : Context → Context) : (onCtx s k f).owed = s.owed := rfl
@[simp] theorem onCtx_joins (s : State) (k : Nat) (f : Context → Context) : (onCtx s k f).joins = s.joins := rfl
@[simp] theorem onCtx_farArr (s : State) (k : Nat) (f : Context → Context) : (onCtx s k f).farArr = s.farArr := rfl
@[simp] theorem onCtx_relays (s : State) (k : Nat) (f : Context → Context) : (onCtx s k f).relays = s.relays := rfl
@[simp] theorem onCtx_outbox (s : State) (k : Nat) (f : Context → Context) : (onCtx s k f).outbox = s.outbox := rfl
@[simp] theorem onCtx_inbox (s : State) (k : Nat) (f : Context → Context) : (onCtx s k f).inbox = s.inbox := rfl
@[simp] theorem onCtx_claims (s : State) (k : Nat) (f : Context → Context) : (onCtx s k f).claims = s.claims := rfl
@[simp] theorem onCtx_fired (s : State) (k : Nat) (f : Context → Context) : (onCtx s k f).fired = s.fired := rfl
@[simp] theorem onCtx_rgot (s : State) (k : Nat) (f : Context → Context) : (onCtx s k f).rgot = s.rgot := rfl
@[simp] theorem onCtx_owned (s : State) (k : Nat) (f : Context → Context) : (onCtx s k f).owned = s.owned := rfl
@[simp] theorem onCtx_recs (s : State) (k : Nat) (f : Context → Context) : (onCtx s k f).recs = s.recs := rfl
@[simp] theorem onCtx_gmsgs (s : State) (k : Nat) (f : Context → Context) : (onCtx s k f).gmsgs = s.gmsgs := rfl
@[simp] theorem onCtx_out (s : State) (k : Nat) (f : Context → Context) : (onCtx s k f).out = s.out := rfl
@[simp] theorem onCtx_msix (s : State) (k : Nat) (f : Context → Context) : (onCtx s k f).msix = s.msix := rfl
@[simp] theorem onCtx_msixPend (s : State) (k : Nat) (f : Context → Context) : (onCtx s k f).msixPend = s.msixPend := rfl
@[simp] theorem onCtx_swbase (s : State) (k : Nat) (f : Context → Context) : (onCtx s k f).swbase = s.swbase := rfl
@[simp] theorem onCtx_firm (s : State) (k : Nat) (f : Context → Context) : (onCtx s k f).firm = s.firm := rfl
@[simp] theorem onCtx_contexts (s : State) (k : Nat) (f : Context → Context) : (onCtx s k f).contexts = s.contexts.modify k f := rfl
@[simp] theorem onCtx_launches (s : State) (k : Nat) (f : Context → Context) : (onCtx s k f).launches = s.launches := rfl
@[simp] theorem onCtx_teams (s : State) (k : Nat) (f : Context → Context) : (onCtx s k f).teams = s.teams := rfl
@[simp] theorem onCtx_groups (s : State) (k : Nat) (f : Context → Context) : (onCtx s k f).groups = s.groups := rfl
@[simp] theorem onCtx_cores (s : State) (k : Nat) (f : Context → Context) : (onCtx s k f).cores = s.cores := rfl
@[simp] theorem onCtx_clusters (s : State) (k : Nat) (f : Context → Context) : (onCtx s k f).clusters = s.clusters := rfl
@[simp] theorem onCtx_links (s : State) (k : Nat) (f : Context → Context) : (onCtx s k f).links = s.links := rfl
@[simp] theorem onCtx_fid (s : State) (k : Nat) (f : Context → Context) : (onCtx s k f).fid = s.fid := rfl
@[simp] theorem onCtx_slew (s : State) (k : Nat) (f : Context → Context) : (onCtx s k f).slew = s.slew := rfl
@[simp] theorem onCtx_undervolt (s : State) (k : Nat) (f : Context → Context) : (onCtx s k f).undervolt = s.undervolt := rfl
@[simp] theorem onCtx_policyAt (s : State) (k : Nat) (f : Context → Context) : (onCtx s k f).policyAt = s.policyAt := rfl

/-! ### onCore -/
@[simp] theorem onCore_fcycles (s : State) (k : Nat) (f : Core → Core) : (onCore s k f).fcycles = s.fcycles := rfl
@[simp] theorem onCore_cur (s : State) (k : Nat) (f : Core → Core) : (onCore s k f).cur = s.cur := rfl
@[simp] theorem onCore_agenda (s : State) (k : Nat) (f : Core → Core) : (onCore s k f).agenda = s.agenda := rfl
@[simp] theorem onCore_freeCtr (s : State) (k : Nat) (f : Core → Core) : (onCore s k f).freeCtr = s.freeCtr := rfl
@[simp] theorem onCore_nextId (s : State) (k : Nat) (f : Core → Core) : (onCore s k f).nextId = s.nextId := rfl
@[simp] theorem onCore_birth (s : State) (k : Nat) (f : Core → Core) : (onCore s k f).birth = s.birth := rfl
@[simp] theorem onCore_mem (s : State) (k : Nat) (f : Core → Core) : (onCore s k f).mem = s.mem := rfl
@[simp] theorem onCore_poison (s : State) (k : Nat) (f : Core → Core) : (onCore s k f).poison = s.poison := rfl
@[simp] theorem onCore_dirty (s : State) (k : Nat) (f : Core → Core) : (onCore s k f).dirty = s.dirty := rfl
@[simp] theorem onCore_wcbs (s : State) (k : Nat) (f : Core → Core) : (onCore s k f).wcbs = s.wcbs := rfl
@[simp] theorem onCore_flight (s : State) (k : Nat) (f : Core → Core) : (onCore s k f).flight = s.flight := rfl
@[simp] theorem onCore_remotes (s : State) (k : Nat) (f : Core → Core) : (onCore s k f).remotes = s.remotes := rfl
@[simp] theorem onCore_oredHeld (s : State) (k : Nat) (f : Core → Core) : (onCore s k f).oredHeld = s.oredHeld := rfl
@[simp] theorem onCore_pwc (s : State) (k : Nat) (f : Core → Core) : (onCore s k f).pwc = s.pwc := rfl
@[simp] theorem onCore_copies (s : State) (k : Nat) (f : Core → Core) : (onCore s k f).copies = s.copies := rfl
@[simp] theorem onCore_queues (s : State) (k : Nat) (f : Core → Core) : (onCore s k f).queues = s.queues := rfl
@[simp] theorem onCore_qreqs (s : State) (k : Nat) (f : Core → Core) : (onCore s k f).qreqs = s.qreqs := rfl
@[simp] theorem onCore_asks (s : State) (k : Nat) (f : Core → Core) : (onCore s k f).asks = s.asks := rfl
@[simp] theorem onCore_unmet (s : State) (k : Nat) (f : Core → Core) : (onCore s k f).unmet = s.unmet := rfl
@[simp] theorem onCore_owed (s : State) (k : Nat) (f : Core → Core) : (onCore s k f).owed = s.owed := rfl
@[simp] theorem onCore_joins (s : State) (k : Nat) (f : Core → Core) : (onCore s k f).joins = s.joins := rfl
@[simp] theorem onCore_farArr (s : State) (k : Nat) (f : Core → Core) : (onCore s k f).farArr = s.farArr := rfl
@[simp] theorem onCore_relays (s : State) (k : Nat) (f : Core → Core) : (onCore s k f).relays = s.relays := rfl
@[simp] theorem onCore_outbox (s : State) (k : Nat) (f : Core → Core) : (onCore s k f).outbox = s.outbox := rfl
@[simp] theorem onCore_inbox (s : State) (k : Nat) (f : Core → Core) : (onCore s k f).inbox = s.inbox := rfl
@[simp] theorem onCore_claims (s : State) (k : Nat) (f : Core → Core) : (onCore s k f).claims = s.claims := rfl
@[simp] theorem onCore_fired (s : State) (k : Nat) (f : Core → Core) : (onCore s k f).fired = s.fired := rfl
@[simp] theorem onCore_rgot (s : State) (k : Nat) (f : Core → Core) : (onCore s k f).rgot = s.rgot := rfl
@[simp] theorem onCore_owned (s : State) (k : Nat) (f : Core → Core) : (onCore s k f).owned = s.owned := rfl
@[simp] theorem onCore_recs (s : State) (k : Nat) (f : Core → Core) : (onCore s k f).recs = s.recs := rfl
@[simp] theorem onCore_gmsgs (s : State) (k : Nat) (f : Core → Core) : (onCore s k f).gmsgs = s.gmsgs := rfl
@[simp] theorem onCore_out (s : State) (k : Nat) (f : Core → Core) : (onCore s k f).out = s.out := rfl
@[simp] theorem onCore_msix (s : State) (k : Nat) (f : Core → Core) : (onCore s k f).msix = s.msix := rfl
@[simp] theorem onCore_msixPend (s : State) (k : Nat) (f : Core → Core) : (onCore s k f).msixPend = s.msixPend := rfl
@[simp] theorem onCore_swbase (s : State) (k : Nat) (f : Core → Core) : (onCore s k f).swbase = s.swbase := rfl
@[simp] theorem onCore_firm (s : State) (k : Nat) (f : Core → Core) : (onCore s k f).firm = s.firm := rfl
@[simp] theorem onCore_contexts (s : State) (k : Nat) (f : Core → Core) : (onCore s k f).contexts = s.contexts := rfl
@[simp] theorem onCore_launches (s : State) (k : Nat) (f : Core → Core) : (onCore s k f).launches = s.launches := rfl
@[simp] theorem onCore_teams (s : State) (k : Nat) (f : Core → Core) : (onCore s k f).teams = s.teams := rfl
@[simp] theorem onCore_groups (s : State) (k : Nat) (f : Core → Core) : (onCore s k f).groups = s.groups := rfl
@[simp] theorem onCore_cores (s : State) (k : Nat) (f : Core → Core) : (onCore s k f).cores = s.cores.modify k f := rfl
@[simp] theorem onCore_clusters (s : State) (k : Nat) (f : Core → Core) : (onCore s k f).clusters = s.clusters := rfl
@[simp] theorem onCore_links (s : State) (k : Nat) (f : Core → Core) : (onCore s k f).links = s.links := rfl
@[simp] theorem onCore_fid (s : State) (k : Nat) (f : Core → Core) : (onCore s k f).fid = s.fid := rfl
@[simp] theorem onCore_slew (s : State) (k : Nat) (f : Core → Core) : (onCore s k f).slew = s.slew := rfl
@[simp] theorem onCore_undervolt (s : State) (k : Nat) (f : Core → Core) : (onCore s k f).undervolt = s.undervolt := rfl
@[simp] theorem onCore_policyAt (s : State) (k : Nat) (f : Core → Core) : (onCore s k f).policyAt = s.policyAt := rfl

/-! ### onCluster -/
@[simp] theorem onCluster_fcycles (s : State) (k : Nat) (f : Cluster → Cluster) : (onCluster s k f).fcycles = s.fcycles := rfl
@[simp] theorem onCluster_cur (s : State) (k : Nat) (f : Cluster → Cluster) : (onCluster s k f).cur = s.cur := rfl
@[simp] theorem onCluster_agenda (s : State) (k : Nat) (f : Cluster → Cluster) : (onCluster s k f).agenda = s.agenda := rfl
@[simp] theorem onCluster_freeCtr (s : State) (k : Nat) (f : Cluster → Cluster) : (onCluster s k f).freeCtr = s.freeCtr := rfl
@[simp] theorem onCluster_nextId (s : State) (k : Nat) (f : Cluster → Cluster) : (onCluster s k f).nextId = s.nextId := rfl
@[simp] theorem onCluster_birth (s : State) (k : Nat) (f : Cluster → Cluster) : (onCluster s k f).birth = s.birth := rfl
@[simp] theorem onCluster_mem (s : State) (k : Nat) (f : Cluster → Cluster) : (onCluster s k f).mem = s.mem := rfl
@[simp] theorem onCluster_poison (s : State) (k : Nat) (f : Cluster → Cluster) : (onCluster s k f).poison = s.poison := rfl
@[simp] theorem onCluster_dirty (s : State) (k : Nat) (f : Cluster → Cluster) : (onCluster s k f).dirty = s.dirty := rfl
@[simp] theorem onCluster_wcbs (s : State) (k : Nat) (f : Cluster → Cluster) : (onCluster s k f).wcbs = s.wcbs := rfl
@[simp] theorem onCluster_flight (s : State) (k : Nat) (f : Cluster → Cluster) : (onCluster s k f).flight = s.flight := rfl
@[simp] theorem onCluster_remotes (s : State) (k : Nat) (f : Cluster → Cluster) : (onCluster s k f).remotes = s.remotes := rfl
@[simp] theorem onCluster_oredHeld (s : State) (k : Nat) (f : Cluster → Cluster) : (onCluster s k f).oredHeld = s.oredHeld := rfl
@[simp] theorem onCluster_pwc (s : State) (k : Nat) (f : Cluster → Cluster) : (onCluster s k f).pwc = s.pwc := rfl
@[simp] theorem onCluster_copies (s : State) (k : Nat) (f : Cluster → Cluster) : (onCluster s k f).copies = s.copies := rfl
@[simp] theorem onCluster_queues (s : State) (k : Nat) (f : Cluster → Cluster) : (onCluster s k f).queues = s.queues := rfl
@[simp] theorem onCluster_qreqs (s : State) (k : Nat) (f : Cluster → Cluster) : (onCluster s k f).qreqs = s.qreqs := rfl
@[simp] theorem onCluster_asks (s : State) (k : Nat) (f : Cluster → Cluster) : (onCluster s k f).asks = s.asks := rfl
@[simp] theorem onCluster_unmet (s : State) (k : Nat) (f : Cluster → Cluster) : (onCluster s k f).unmet = s.unmet := rfl
@[simp] theorem onCluster_owed (s : State) (k : Nat) (f : Cluster → Cluster) : (onCluster s k f).owed = s.owed := rfl
@[simp] theorem onCluster_joins (s : State) (k : Nat) (f : Cluster → Cluster) : (onCluster s k f).joins = s.joins := rfl
@[simp] theorem onCluster_farArr (s : State) (k : Nat) (f : Cluster → Cluster) : (onCluster s k f).farArr = s.farArr := rfl
@[simp] theorem onCluster_relays (s : State) (k : Nat) (f : Cluster → Cluster) : (onCluster s k f).relays = s.relays := rfl
@[simp] theorem onCluster_outbox (s : State) (k : Nat) (f : Cluster → Cluster) : (onCluster s k f).outbox = s.outbox := rfl
@[simp] theorem onCluster_inbox (s : State) (k : Nat) (f : Cluster → Cluster) : (onCluster s k f).inbox = s.inbox := rfl
@[simp] theorem onCluster_claims (s : State) (k : Nat) (f : Cluster → Cluster) : (onCluster s k f).claims = s.claims := rfl
@[simp] theorem onCluster_fired (s : State) (k : Nat) (f : Cluster → Cluster) : (onCluster s k f).fired = s.fired := rfl
@[simp] theorem onCluster_rgot (s : State) (k : Nat) (f : Cluster → Cluster) : (onCluster s k f).rgot = s.rgot := rfl
@[simp] theorem onCluster_owned (s : State) (k : Nat) (f : Cluster → Cluster) : (onCluster s k f).owned = s.owned := rfl
@[simp] theorem onCluster_recs (s : State) (k : Nat) (f : Cluster → Cluster) : (onCluster s k f).recs = s.recs := rfl
@[simp] theorem onCluster_gmsgs (s : State) (k : Nat) (f : Cluster → Cluster) : (onCluster s k f).gmsgs = s.gmsgs := rfl
@[simp] theorem onCluster_out (s : State) (k : Nat) (f : Cluster → Cluster) : (onCluster s k f).out = s.out := rfl
@[simp] theorem onCluster_msix (s : State) (k : Nat) (f : Cluster → Cluster) : (onCluster s k f).msix = s.msix := rfl
@[simp] theorem onCluster_msixPend (s : State) (k : Nat) (f : Cluster → Cluster) : (onCluster s k f).msixPend = s.msixPend := rfl
@[simp] theorem onCluster_swbase (s : State) (k : Nat) (f : Cluster → Cluster) : (onCluster s k f).swbase = s.swbase := rfl
@[simp] theorem onCluster_firm (s : State) (k : Nat) (f : Cluster → Cluster) : (onCluster s k f).firm = s.firm := rfl
@[simp] theorem onCluster_contexts (s : State) (k : Nat) (f : Cluster → Cluster) : (onCluster s k f).contexts = s.contexts := rfl
@[simp] theorem onCluster_launches (s : State) (k : Nat) (f : Cluster → Cluster) : (onCluster s k f).launches = s.launches := rfl
@[simp] theorem onCluster_teams (s : State) (k : Nat) (f : Cluster → Cluster) : (onCluster s k f).teams = s.teams := rfl
@[simp] theorem onCluster_groups (s : State) (k : Nat) (f : Cluster → Cluster) : (onCluster s k f).groups = s.groups := rfl
@[simp] theorem onCluster_cores (s : State) (k : Nat) (f : Cluster → Cluster) : (onCluster s k f).cores = s.cores := rfl
@[simp] theorem onCluster_clusters (s : State) (k : Nat) (f : Cluster → Cluster) : (onCluster s k f).clusters = s.clusters.modify k f := rfl
@[simp] theorem onCluster_links (s : State) (k : Nat) (f : Cluster → Cluster) : (onCluster s k f).links = s.links := rfl
@[simp] theorem onCluster_fid (s : State) (k : Nat) (f : Cluster → Cluster) : (onCluster s k f).fid = s.fid := rfl
@[simp] theorem onCluster_slew (s : State) (k : Nat) (f : Cluster → Cluster) : (onCluster s k f).slew = s.slew := rfl
@[simp] theorem onCluster_undervolt (s : State) (k : Nat) (f : Cluster → Cluster) : (onCluster s k f).undervolt = s.undervolt := rfl
@[simp] theorem onCluster_policyAt (s : State) (k : Nat) (f : Cluster → Cluster) : (onCluster s k f).policyAt = s.policyAt := rfl

end Sys2Proof.Laws
end

