-- ==== Sys2Proof/Laws/Groups.lean ====
section
/-! SUPPORT. Groups found after an update, and the operations on a group's window that leave all else of the group alone. -/

namespace Sys2Proof.Laws
open Sys2Proof.Machine

/-- A changed group is found under its identity. -/
theorem groupOf_onGroup {s : State} {k : Nat} {g : Group} {f : Group → Group} (h : groupOf s k = some g)
    (hf : ∀ x : Group, (f x).id = x.id) : groupOf (onGroup s k f) k = some (f g) := by
  unfold groupOf at *
  rw [onGroup_groups, List.find?_map]
  have hp : ((fun g : Group => decide (g.id = k)) ∘ fun x : Group => if x.id = k then f x else x) = fun g => decide (g.id = k) := by
    funext x
    by_cases hx : x.id = k <;> simp [hx, hf]
  rw [hp, h]
  have hg : g.id = k := by simpa using List.find?_some h
  simp [hg]

/-- The other groups are found as before. -/
theorem groupOf_onGroup_ne {s : State} {k j : Nat} {f : Group → Group} (hf : ∀ x : Group, (f x).id = x.id) (h : j ≠ k) :
    groupOf (onGroup s k f) j = groupOf s j := by
  unfold groupOf
  rw [onGroup_groups, List.find?_map]
  have hp : ((fun g : Group => decide (g.id = j)) ∘ fun x : Group => if x.id = k then f x else x) = fun g => decide (g.id = j) := by
    funext x
    by_cases hx : x.id = k <;> simp [hx, hf]
  rw [hp]
  cases hg : s.groups.find? (fun g => decide (g.id = j)) with
  | none => rfl
  | some g =>
    have : g.id = j := by simpa using List.find?_some hg
    have hk : g.id ≠ k := fun e => h (this.symm.trans e)
    simp [hk]

/-- A replaced group is found under its identity. -/
theorem groupOf_setGroup {s : State} {g g' : Group} (h : groupOf s g'.id = some g) : groupOf (setGroup s g') g'.id = some g' := by
  unfold groupOf at *
  rw [setGroup_groups, List.find?_map]
  have hp : ((fun x : Group => decide (x.id = g'.id)) ∘ fun x : Group => if x.id = g'.id then g' else x)
      = fun g => decide (g.id = g'.id) := by
    funext x
    by_cases hx : x.id = g'.id <;> simp [hx]
  have hg : g.id = g'.id := by simpa using List.find?_some h
  rw [hp, h]
  simp [hg]

/-- The other groups are found as before. -/
theorem groupOf_setGroup_ne {s : State} {g' : Group} {j : Nat} (h : j ≠ g'.id) : groupOf (setGroup s g') j = groupOf s j := by
  unfold groupOf
  rw [setGroup_groups, List.find?_map]
  have hp : ((fun x : Group => decide (x.id = j)) ∘ fun x : Group => if x.id = g'.id then g' else x)
      = fun g => decide (g.id = j) := by
    funext x
    by_cases hx : x.id = g'.id
    · have : g'.id ≠ j := fun e => h e.symm
      simp [hx, this]
    · simp [hx]
  rw [hp]
  cases hg : s.groups.find? (fun g => decide (g.id = j)) with
  | none => rfl
  | some g =>
    have : g.id = j := by simpa using List.find?_some hg
    have hk : g.id ≠ g'.id := fun e => h (this.symm.trans e)
    simp [hk]

/-- The group found under an identity has it. -/
theorem groupOf_id {s : State} {k : Nat} {g : Group} (h : groupOf s k = some g) : g.id = k := by
  simpa using List.find?_some h

/-! ### The window and the cache aside -/

@[simp] theorem outside_cachePut (s : State) (g : Group) (n : Nat) (d : List W32) (t : SclTag) :
    (cachePut s g n d t).outside = g.outside := rfl

@[simp] theorem outside_settleHeld (s : State) (g : Group) (h : Held) : (settleHeld s g h).outside = g.outside := by
  unfold settleHeld; split <;> rfl

@[simp] theorem outside_settleAll (s : State) (hs : List Held) (g : Group) :
    (hs.foldl (settleHeld s) g).outside = g.outside := by
  induction hs generalizing g with
  | nil => rfl
  | cons h hs ih => simp [List.foldl_cons, ih]

@[simp] theorem outside_flushWin (s : State) (g : Group) : (flushWin s g).outside = g.outside := by simp [flushWin]
@[simp] theorem outside_ageWin (s : State) (g : Group) : (ageWin s g).outside = g.outside := by simp [ageWin]; rfl
@[simp] theorem outside_killLines (g : Group) (ns : List Nat) : (killLines g ns).outside = g.outside := rfl
@[simp] theorem outside_holdLine (s : State) (g : Group) (n : Nat) (ws : List (Nat × W32)) (t : SclTag) :
    (holdLine s g n ws t).outside = g.outside := rfl
@[simp] theorem outside_windowStep (s : State) (g : Group) (i : Instr) : (windowStep s g i).outside = g.outside := by
  simp [windowStep]

/-- Completing the window's part of an instruction changes no line that is read but the killed ones. -/
theorem readLine_windowStep (s s' : State) (g : Group) (i : Instr) (n : Nat) (h : n ∉ killed g i) :
    readLine s (windowStep s' g i) n = readLine s g n := by
  simp only [windowStep, readLine_ageWin]
  exact readLine_killLines s g _ n h

end Sys2Proof.Laws
end

