-- ==== Sys2Proof/Laws/Run.lean ====
section
/-! SUPPORT. What every instruction of a group does around its own operation (03 R66, R74; 06 R126, R127): one lemma for each
way in which the operation ends. -/

namespace Sys2Proof.Laws
open Sys2Proof.Machine

/-- A field of a group that is neither its window nor its cache is a field of what stands outside them. -/
theorem outside_field {α : Type} {g g' : Group} (f : Group → α) (hf : ∀ x : Group, f x.outside = f x) (h : g'.outside = g.outside) :
    f g' = f g := by rw [← hf g', h, hf]

theorem outside_nextPos (g : Group) : (nextPos g).outside = nextPos g.outside := by
  unfold nextPos
  by_cases h1 : g.atHdr
  · have h1' : g.outside.atHdr = true := h1
    simp [h1, h1']
  · have h1' : g.outside.atHdr = false := (by simpa using h1 : g.atHdr = false)
    simp only [h1, h1', Bool.false_eq_true, if_false]
    by_cases h2 : g.clause ≠ [] ∧ g.clause.length ≤ g.pos + 2
    · rw [if_pos h2, if_pos (show g.outside.clause ≠ [] ∧ g.outside.clause.length ≤ g.outside.pos + 2 from h2)]
      rfl
    · rw [if_neg h2, if_neg (show ¬ (g.outside.clause ≠ [] ∧ g.outside.clause.length ≤ g.outside.pos + 2) from h2)]
      rfl

/-- The group after an instruction that is done, but for its window and cache. -/
theorem outside_finishInstr (s : State) (i : Instr) (free : Bool) (cost : Nat) (keys : List Nat) (moves : Bool) (g : Group) :
    (finishInstr s i free cost keys moves g).outside =
      (if moves && decide (g.st ≠ .parked) then nextPos (countInstr s free g cost keys) else countInstr s free g cost keys).outside := by
  have hw : (windowStep s (countInstr s free g cost keys) i).outside = (countInstr s free g cost keys).outside := outside_windowStep _ _ _
  have hst : (windowStep s (countInstr s free g cost keys) i).st = g.st :=
    outside_field (g := countInstr s free g cost keys) (fun x => x.st) (fun _ => rfl) hw
  simp only [finishInstr, hst]
  split
  · rw [outside_nextPos, hw, ← outside_nextPos]
  · exact hw

theorem finishInstr_id (s : State) (i : Instr) (free : Bool) (cost : Nat) (keys : List Nat) (moves : Bool) (g : Group) :
    (finishInstr s i free cost keys moves g).id = g.id := by
  have h := congrArg (fun (x : Group) => x.id) (outside_finishInstr s i free cost keys moves g)
  refine Eq.trans (show _ = (finishInstr s i free cost keys moves g).outside.id from rfl) (h.trans ?_)
  unfold nextPos
  split
  · split
    · rfl
    · split <;> rfl
  · rfl

/-- The registers of the vector space that a group reads do not depend on its position. -/
theorem readLine_nextPos (s : State) (g : Group) (n : Nat) : readLine s (nextPos g) n = readLine s g n := by
  unfold nextPos
  split
  · rfl
  · split <;> rfl

/-- Completing an instruction changes no line that is read but the killed ones. -/
theorem readLine_finishInstr (s s' : State) (i : Instr) (free : Bool) (cost : Nat) (keys : List Nat) (moves : Bool) (g : Group) (n : Nat)
    (h : n ∉ killed g i) : readLine s (finishInstr s' i free cost keys moves g) n = readLine s g n := by
  have hk : killed (countInstr s' free g cost keys) i = killed g i := rfl
  have hw : readLine s (windowStep s' (countInstr s' free g cost keys) i) n = readLine s g n :=
    (readLine_windowStep s s' (countInstr s' free g cost keys) i n (hk ▸ h)).trans rfl
  simp only [finishInstr]
  split
  · rw [readLine_nextPos, hw]
  · exact hw

theorem counted_congr {gk gl : Group} (g' : Group) (new : List Nat) (h : gk.outside = gl.outside) :
    (gk.counted g' new).outside = (gl.counted g' new).outside := by
  have e1 : gk.issued = gl.issued := outside_field (fun x => x.issued) (fun _ => rfl) h
  have e2 : gk.ll = gl.ll := outside_field (fun x => x.ll) (fun _ => rfl) h
  have h2 := congrArg (fun (x : Group) => { x with
    issued := gl.issued + 1, held := g'.held, left := g'.left,
    ll := gl.ll.map (fun (l : LL) => if new.contains l.key then l else { l with left := l.left - 1 }) }) h
  unfold Group.counted
  rw [e1, e2]
  exact h2

theorem nextPos_congr {gk gl : Group} (h : gk.outside = gl.outside) : (nextPos gk).outside = (nextPos gl).outside := by
  rw [outside_nextPos, h, ← outside_nextPos]

theorem completed_congr {gk gl g' : Group} {new : List Nat} (h : gk.outside = gl.outside) (c : Completed gk g' new) :
    Completed gl g' new := by
  unfold Completed Counted at *
  rw [c, counted_congr g' new (nextPos_congr h)]

theorem counted_same {gk gl g' : Group} {new : List Nat} (h : gk.outside = gl.outside) (c : Counted gk g' new) :
    Counted gl g' new := by
  unfold Counted at *
  rw [c, counted_congr g' new h]

theorem countInstr_counted (s : State) (free : Bool) (g : Group) (cost : Nat) (keys : List Nat) :
    countInstr s free g cost keys = g.counted (countInstr s free g cost keys) keys := rfl

theorem nextPos_countInstr (s : State) (free : Bool) (g : Group) (cost : Nat) (keys : List Nat) :
    nextPos (countInstr s free g cost keys) = (nextPos g).counted (countInstr s free g cost keys) keys := by
  have hp : nextPos g = if g.atHdr then g else if g.clause ≠ [] ∧ g.clause.length ≤ g.pos + 2 then toHeader g (nextClause g)
    else { g with pos := g.pos + 1, remain := none } := rfl
  have hq : nextPos (countInstr s free g cost keys) = if g.atHdr then countInstr s free g cost keys
    else if g.clause ≠ [] ∧ g.clause.length ≤ g.pos + 2 then toHeader (countInstr s free g cost keys) (nextClause g)
    else { countInstr s free g cost keys with pos := g.pos + 1, remain := none } := rfl
  rw [hq, hp]
  by_cases h1 : g.atHdr = true
  · rw [if_pos h1, if_pos h1]; rfl
  · rw [if_neg h1, if_neg h1]
    by_cases h2 : g.clause ≠ [] ∧ g.clause.length ≤ g.pos + 2
    · rw [if_pos h2, if_pos h2]; rfl
    · rw [if_neg h2, if_neg h2]; rfl

theorem counted_of (s : State) (free : Bool) (cost : Nat) (keys : List Nat) (gk gn g' : Group)
    (h : g'.outside = (gn.counted (countInstr s free gk cost keys) keys).outside) : Counted gn g' keys := by
  have e1 : g'.held = (countInstr s free gk cost keys).held :=
    outside_field (g := gn.counted (countInstr s free gk cost keys) keys) (fun x => x.held) (fun _ => rfl) h
  have e2 : g'.left = (countInstr s free gk cost keys).left :=
    outside_field (g := gn.counted (countInstr s free gk cost keys) keys) (fun x => x.left) (fun _ => rfl) h
  unfold Counted Group.counted
  rw [e1, e2]
  exact h

/-- The group after an instruction that is done and did not park it, but for its window and cache. -/
theorem finishInstr_completed (s : State) (i : Instr) (free : Bool) (cost : Nat) (keys : List Nat) (gk : Group)
    (hst : gk.st ≠ .parked) : Completed gk (finishInstr s i free cost keys true gk) keys := by
  have h1 := outside_finishInstr s i free cost keys true gk
  simp only [Bool.true_and, hst, ne_eq, not_false_eq_true, decide_true, if_true, nextPos_countInstr] at h1
  exact counted_of s free cost keys gk _ _ h1

/-- The group after an instruction that set its position, or parked it, but for its window and cache. -/
theorem finishInstr_counted (s : State) (i : Instr) (free : Bool) (cost : Nat) (keys : List Nat) (moves : Bool) (gk : Group)
    (hst : moves = false ∨ gk.st = .parked) : Counted gk (finishInstr s i free cost keys moves gk) keys := by
  have h1 := outside_finishInstr s i free cost keys moves gk
  have hc : (moves && decide (gk.st ≠ .parked)) = false := by
    rcases hst with h | h <;> simp [h]
  rw [hc] at h1
  exact counted_of s free cost keys gk _ _ h1

/-- An instruction whose operation is done: the group that its operation leaves is completed, in a state that its operation
leaves. -/
theorem runInstr_done {i : Instr} {s s' : State} {g gk : Group} {k : Group → State → GOut} (hr : Runs s g i)
    (hk : k g s = .done s') (hg : groupOf s' g.id = some gk) :
    runInstr i s k = .next (onGroup s' g.id (fun g' => finishInstr s i g.handler (costOf g i) (runInstr.newKeys g g') true g')) ∧
    groupOf (onGroup s' g.id (fun g' => finishInstr s i g.handler (costOf g i) (runInstr.newKeys g g') true g')) g.id =
      some (finishInstr s i g.handler (costOf g i) (runInstr.newKeys g gk) true gk) := by
  obtain ⟨hc, hf, _, hp⟩ := hr
  refine ⟨?_, groupOf_onGroup hg (fun x => finishInstr_id _ _ _ _ _ _ _)⟩
  simp only [runInstr, hc, Option.bind_some, hf, hp, hk]

/-- An instruction whose operation transfers control. -/
theorem runInstr_jump {i : Instr} {s s' : State} {g gk : Group} {k : Group → State → GOut} (hr : Runs s g i)
    (hk : k g s = .jump s') (hg : groupOf s' g.id = some gk) :
    runInstr i s k = .next (onGroup s' g.id (fun g' => finishInstr s i g.handler (costOf g i) (runInstr.newKeys g g') false g')) ∧
    groupOf (onGroup s' g.id (fun g' => finishInstr s i g.handler (costOf g i) (runInstr.newKeys g g') false g')) g.id =
      some (finishInstr s i g.handler (costOf g i) (runInstr.newKeys g gk) false gk) := by
  obtain ⟨hc, hf, _, hp⟩ := hr
  refine ⟨?_, groupOf_onGroup hg (fun x => finishInstr_id _ _ _ _ _ _ _)⟩
  simp only [runInstr, hc, Option.bind_some, hf, hp, hk]

/-- An instruction whose operation raises a trap takes it (03 R74): one after which the group goes on with the next instruction has been
issued and is counted (04 R96). -/
theorem runInstr_trap {i : Instr} {s s' : State} {g : Group} {k : Group → State → GOut} {tr : TrapInfo} (hr : Runs s g i)
    (hk : k g s = .trap s' tr) : runInstr i s k =
      .next (takeTrap s' (if tr.after then countInstr s g.handler ((groupOf s' g.id).getD g) (costOf g i) []
        else (groupOf s' g.id).getD g) tr) := by
  obtain ⟨hc, hf, _, hp⟩ := hr
  simp only [runInstr, hc, Option.bind_some, hf, hp, hk]

/-- An instruction that waits changes nothing. -/
theorem runInstr_wait {i : Instr} {s : State} {g : Group} {k : Group → State → GOut} (hr : Runs s g i)
    (hk : k g s = .wait) : runInstr i s k = .next s := by
  obtain ⟨hc, hf, _, hp⟩ := hr
  simp only [runInstr, hc, Option.bind_some, hf, hp, hk]

/-- Completing an instruction of a group that alone was changed changes nothing else. -/
theorem onlyGroup_finish {s : State} {g gk : Group} (f : Group → Group) (hf : ∀ x : Group, (f x).id = x.id) (hid : gk.id = g.id) :
    OnlyGroup s (onGroup (setGroup s gk) g.id f) g := by
  refine ⟨rfl, fun k hk => ?_⟩
  rw [groupOf_onGroup_ne hf hk, groupOf_setGroup_ne (by rw [hid]; exact hk)]

end Sys2Proof.Laws
end

