-- ==== Sys2Proof/Laws/Vector.lean ====
section
/-! SUPPORT. What writing the results of the qualifying threads does (03 R64, R65; 06 R126; 07 R144), and the one lemma of
every vector instruction whose result is written at once. -/

namespace Sys2Proof.Laws
open Sys2Proof.Machine

/-- Lines of different registers are different. -/
theorem lineNo_inj {g : Group} {r q : Nat} : lineNo g r = lineNo g q ↔ r = q := by
  unfold lineNo; split <;> omega

theorem lineWords_wordsOf (g : Group) (os : List (Nat × ThreadOut)) (r : Nat) : lineWords g os (lineNo g r) = wordsOf os r := by
  simp only [lineWords, wordsOf, lineNo_inj]

@[simp] theorem mergeLine_nil (l : List W32) : mergeLine l [] = l := rfl

/-- The registers a list of spans names are each written once into the window. -/
theorem readLine_holdAll (s : State) (g g0 : Group) (os : List (Nat × ThreadOut)) (tag : List (Nat × W32) → SclTag) (n : Nat) :
    ∀ (rs : List Nat) (x : Group), rs.Nodup → (∀ r ∈ rs, readLine s x (lineNo g r) = readLine s g0 (lineNo g r)) →
      readLine s (rs.foldl (fun g' r => let ws := wordsOf os r; if ws = [] then g' else holdLine s g' (lineNo g r) ws (tag ws)) x) n =
        if ∃ r ∈ rs, lineNo g r = n then mergeLine (readLine s g0 n) (lineWords g os n) else readLine s x n := by
  intro rs
  induction rs with
  | nil => intro x _ _; simp
  | cons r rs ih =>
    intro x hd hx
    have hnd := List.nodup_cons.mp hd
    rw [List.foldl_cons]
    by_cases hw : wordsOf os r = []
    · simp only [hw, if_true]
      rw [ih x hnd.2 (fun q hq => hx q (List.mem_cons_of_mem _ hq))]
      by_cases he : ∃ q ∈ rs, lineNo g q = n
      · have he' : ∃ q ∈ r :: rs, lineNo g q = n := by obtain ⟨q, hq, e⟩ := he; exact ⟨q, List.mem_cons_of_mem _ hq, e⟩
        rw [if_pos he, if_pos he']
      · rw [if_neg he]
        by_cases hn : lineNo g r = n
        · rw [if_pos ⟨r, List.mem_cons_self, hn⟩, ← hn, lineWords_wordsOf, hw, mergeLine_nil, hx r List.mem_cons_self]
        · rw [if_neg]
          rintro ⟨q, hq, e⟩
          rcases List.mem_cons.mp hq with rfl | hq
          · exact hn e
          · exact he ⟨q, hq, e⟩
    · simp only [hw, if_false]
      have hx' : ∀ q ∈ rs, readLine s (holdLine s x (lineNo g r) (wordsOf os r) (tag (wordsOf os r))) (lineNo g q) = readLine s g0 (lineNo g q) := by
        intro q hq
        have hqr : q ≠ r := fun e => hnd.1 (e ▸ hq)
        rw [readLine_holdLine, if_neg (fun e => hqr (lineNo_inj.mp e)), hx q (List.mem_cons_of_mem _ hq)]
      rw [ih _ hnd.2 hx', readLine_holdLine]
      by_cases he : ∃ q ∈ rs, lineNo g q = n
      · have he' : ∃ q ∈ r :: rs, lineNo g q = n := by obtain ⟨q, hq, e⟩ := he; exact ⟨q, List.mem_cons_of_mem _ hq, e⟩
        rw [if_pos he, if_pos he']
      · rw [if_neg he]
        by_cases hn : n = lineNo g r
        · rw [if_pos hn, if_pos ⟨r, List.mem_cons_self, hn.symm⟩, hn, lineWords_wordsOf, hx r List.mem_cons_self]
        · rw [if_neg hn, if_neg]
          rintro ⟨q, hq, e⟩
          rcases List.mem_cons.mp hq with rfl | hq
          · exact hn e.symm
          · exact he ⟨q, hq, e⟩

theorem spanRegs_one_nodup (xs : List (Nat × Nat)) (h : xs.length ≤ 1) : (spanRegs xs).Nodup := by
  match xs, h with
  | [], _ => simp [spanRegs]
  | [p], _ =>
    simp only [spanRegs, List.flatMap_cons, List.flatMap_nil, List.append_nil]
    exact List.Nodup.map (fun a b h => by simpa using h) List.nodup_range

/-- A write of a predicate's bits changes neither window nor cache, and only p. -/
theorem putPred_eq (g : Group) (p : Nat) (sel m : TMask) : putPred g p sel m = { g with p := (putPred g p sel m).p } := by
  unfold putPred setPred; split <;> rfl

theorem writePreds_eq (g : Group) (os : List (Nat × ThreadOut)) : writePreds g os = { g with p := (writePreds g os).p } := by
  unfold writePreds
  induction os generalizing g with
  | nil => rfl
  | cons o os ih =>
    rw [List.foldl_cons]
    have h1 : ∀ (ps : List (Nat × Bool)) (x : Group),
        ps.foldl (fun g p => putPred g p.1 (1 <<< o.1) (if p.2 then BitVec.allOnes 64 else 0)) x =
          { x with p := (ps.foldl (fun g p => putPred g p.1 (1 <<< o.1) (if p.2 then BitVec.allOnes 64 else 0)) x).p } := by
      intro ps
      induction ps with
      | nil => intro x; rfl
      | cons p ps ihp => intro x; rw [List.foldl_cons, ihp, putPred_eq]
    rw [ih, h1]

/-- The number of predicates stays. -/
theorem putPred_length (g : Group) (p : Nat) (sel m : TMask) : (putPred g p sel m).p.length = g.p.length := by
  unfold putPred setPred; split <;> simp

/-- One bit of a predicate after a write of some of its bits. -/
theorem predMask_putPred (g : Group) (q p t : Nat) (sel m : TMask) (hl : p < g.p.length) (ht : t < 64) :
    (predMask (putPred g q sel m) p).getLsbD t =
      if q = p ∧ q < 7 ∧ sel.getLsbD t then m.getLsbD t else (predMask g p).getLsbD t := by
  by_cases h7 : q < 7
  · by_cases hq : q = p
    · subst hq
      have : q ≠ 7 := by omega
      simp only [putPred, setPred, h7, if_true, predMask, this, if_false, List.getD_eq_getElem?_getD, List.getElem?_set, hl, true_and,
        Option.getD_some]
      rw [BitVec.getLsbD_or, BitVec.getLsbD_and, BitVec.getLsbD_and, BitVec.getLsbD_not]
      cases hs : sel.getLsbD t <;> simp [ht]
    · have : p ≠ q := fun e => hq e.symm
      simp only [putPred, setPred, h7, if_true, predMask, hq, false_and, if_false, List.getD_eq_getElem?_getD]
      rw [List.getElem?_set_ne hq]
  · simp [putPred, setPred, h7]

theorem one_shift_getLsbD (n t : Nat) (ht : t < 64) : (((1 <<< n : Nat) : TMask)).getLsbD t = decide (n = t) := by
  show (BitVec.ofNat 64 (1 <<< n)).getLsbD t = _
  rw [BitVec.getLsbD_ofNat, Nat.one_shiftLeft, Nat.testBit_two_pow]
  simp [ht]

theorem bitFill_getLsbD (b : Bool) (t : Nat) (ht : t < 64) : ((if b then BitVec.allOnes 64 else 0) : TMask).getLsbD t = b := by
  cases b
  · simp
  · simp only [if_true, BitVec.getLsbD_allOnes, ht, decide_true]

/-- The predicates that one thread's evaluation writes. -/
theorem predMask_writeOne (n p t : Nat) (ht : t < 64) : ∀ (ps : List (Nat × Bool)) (x : Group), p < x.p.length →
    (predMask (ps.foldl (fun g p => putPred g p.1 (1 <<< n) (if p.2 then BitVec.allOnes 64 else 0)) x) p).getLsbD t =
      ((if p < 7 ∧ n = t then (ps.filter (fun x => decide (x.1 = p))).map (fun x => x.2) else []).getLast?).getD
        ((predMask x p).getLsbD t) := by
  intro ps
  induction ps with
  | nil => intro x _; simp
  | cons a ps ih =>
    intro x hl
    rw [List.foldl_cons, ih _ (by rw [putPred_length]; exact hl), predMask_putPred x a.1 p t _ _ hl ht, one_shift_getLsbD n t ht,
      bitFill_getLsbD _ _ ht]
    by_cases h7 : p < 7 ∧ n = t
    · obtain ⟨h7, rfl⟩ := h7
      by_cases ha : a.1 = p
      · simp [h7, ha, List.getLast?_cons]
      · simp [h7, ha]
    · rw [if_neg h7, if_neg h7]
      have hn : ¬ (a.1 = p ∧ a.1 < 7 ∧ decide (n = t) = true) := by
        rintro ⟨rfl, h1, h2⟩; exact h7 ⟨h1, by simpa using h2⟩
      rw [if_neg hn]

theorem writeOne_length (n : Nat) : ∀ (ps : List (Nat × Bool)) (x : Group),
    (ps.foldl (fun g p => putPred g p.1 (1 <<< n) (if p.2 then BitVec.allOnes 64 else 0)) x).p.length = x.p.length := by
  intro ps
  induction ps with
  | nil => intro x; rfl
  | cons a ps ih => intro x; rw [List.foldl_cons, ih, putPred_length]

/-- The predicates after evaluations (07 R144). -/
theorem predMask_writePreds (p t : Nat) (ht : t < 64) : ∀ (os : List (Nat × ThreadOut)) (x : Group), p < x.p.length →
    (predMask (writePreds x os) p).getLsbD t = ((if p < 7 then predBits os p t else []).getLast?).getD ((predMask x p).getLsbD t) := by
  intro os
  induction os with
  | nil => intro x _; simp [writePreds, predBits]
  | cons o os ih =>
    intro x hl
    have hstep : writePreds x (o :: os) = writePreds (o.2.preds.foldl (fun g p => putPred g p.1 (1 <<< o.1) (if p.2 then BitVec.allOnes 64 else 0)) x) os := rfl
    rw [hstep, ih _ (by rw [writeOne_length]; exact hl), predMask_writeOne o.1 p t ht _ _ hl]
    by_cases h7 : p < 7
    · by_cases ho : o.1 = t
      · simp only [h7, if_true, predBits, List.flatMap_cons, ho, and_self]
        rw [List.getLast?_append]
        cases (List.flatMap (fun o => if o.1 = t then List.map (fun x => x.2) (List.filter (fun x => decide (x.1 = p)) o.2.preds) else []) os).getLast? <;> simp
      · simp [h7, ho, predBits]
    · simp [h7]

/-- The lines of the destination registers merged, before predicates and flags. -/
def heldAll (s : State) (g : Group) (i : Instr) (h : Hd) (os : List (Nat × ThreadOut)) (rs : List Nat) (x : Group) : Group :=
  rs.foldl (fun g' r => let ws := wordsOf os r; if ws = [] then g' else holdLine s g' (lineNo g r) ws (resultTag g i h ws)) x

theorem outside_heldAll (s : State) (g : Group) (i : Instr) (h : Hd) (os : List (Nat × ThreadOut)) (rs : List Nat) (x : Group) :
    (heldAll s g i h os rs x).outside = x.outside := by
  unfold heldAll
  induction rs generalizing x with
  | nil => rfl
  | cons r rs ih => rw [List.foldl_cons, ih]; dsimp only; split <;> rfl

theorem writeOuts_eq (s : State) (g : Group) (i : Instr) (h : Hd) (os : List (Nat × ThreadOut)) :
    writeOuts s g i h os =
      { heldAll s g i h os (spanRegs (vwrites i)) g with
        p := (writePreds (heldAll s g i h os (spanRegs (vwrites i)) g) os).p,
        flags := (heldAll s g i h os (spanRegs (vwrites i)) g).flags ||| outFlags os } := by
  have e := congrArg (fun (x : Group) => { x with flags := x.flags ||| outFlags os })
    (writePreds_eq (heldAll s g i h os (spanRegs (vwrites i)) g) os)
  exact e

/-- What writing the results does outside the window and the cache: predicates and flags. -/
theorem outside_writeOuts (s : State) (g : Group) (i : Instr) (h : Hd) (os : List (Nat × ThreadOut)) :
    (writeOuts s g i h os).outside = { g with p := (writeOuts s g i h os).p, flags := g.flags ||| outFlags os }.outside := by
  have h1 := outside_heldAll s g i h os (spanRegs (vwrites i)) g
  have hf : (heldAll s g i h os (spanRegs (vwrites i)) g).flags = g.flags := outside_field (fun x => x.flags) (fun _ => rfl) h1
  have h2 := congrArg (fun (x : Group) => { x with p := (writeOuts s g i h os).p, flags := g.flags ||| outFlags os }) h1
  refine Eq.trans ?_ h2
  rw [writeOuts_eq, hf]
  rfl

theorem predMask_congr {g g' : Group} (h : g'.p = g.p) (p : Nat) : predMask g' p = predMask g p := by simp only [predMask, h]

/-- The predicates after the results are written (07 R144). -/
theorem predMask_writeOuts (s : State) (g : Group) (i : Instr) (h : Hd) (os : List (Nat × ThreadOut)) (p t : Nat)
    (hl : p < g.p.length) (ht : t < 64) : (predMask (writeOuts s g i h os) p).getLsbD t =
      ((if p < 7 then predBits os p t else []).getLast?).getD ((predMask g p).getLsbD t) := by
  have hp : (heldAll s g i h os (spanRegs (vwrites i)) g).p = g.p :=
    outside_field (fun x => x.p) (fun _ => rfl) (outside_heldAll s g i h os (spanRegs (vwrites i)) g)
  have h1 : predMask (writeOuts s g i h os) p = predMask (writePreds (heldAll s g i h os (spanRegs (vwrites i)) g) os) p := by
    rw [writeOuts_eq]; exact predMask_congr rfl p
  rw [h1, predMask_writePreds p t ht os _ (by rw [hp]; exact hl), predMask_congr hp]

/-- The lines after the results are written, where the evaluations give words for destination registers only. -/
theorem readLine_writeOuts (s : State) (g : Group) (i : Instr) (h : Hd) (os : List (Nat × ThreadOut)) (n : Nat)
    (hv : (vwrites i).length ≤ 1) (hr : ∀ o ∈ os, ∀ w ∈ o.2.regs, w.1 ∈ spanRegs (vwrites i)) :
    readLine s (writeOuts s g i h os) n = mergeLine (readLine s g n) (lineWords g os n) := by
  have h1 : readLine s (writeOuts s g i h os) n = readLine s (heldAll s g i h os (spanRegs (vwrites i)) g) n := by
    rw [writeOuts_eq]; rfl
  rw [h1]
  unfold heldAll
  rw [readLine_holdAll s g g os (resultTag g i h) n _ g (spanRegs_one_nodup _ hv) (fun _ _ => rfl)]
  split
  · rfl
  · rename_i hne
    have : lineWords g os n = [] := by
      rw [List.eq_nil_iff_forall_not_mem]
      intro w hw
      simp only [lineWords, List.mem_flatMap, List.mem_map, List.mem_filter, decide_eq_true_eq] at hw
      obtain ⟨o, ho, x, ⟨hxm, hxl⟩, _⟩ := hw
      exact hne ⟨x.1, hr o ho x hxm, hxl⟩
    rw [this, mergeLine_nil]

/-- The evaluations of the qualifying threads are evaluations. -/
theorem evalThreads_mem {g : Group} {h : Hd} {f : Nat → ThreadOut} {o : Nat × ThreadOut} (ho : o ∈ evalThreads g h f) :
    ∃ t, o.2 = f t := by
  unfold evalThreads at ho
  dsimp only at ho
  split at ho
  · simp at ho
  · split at ho
    · obtain ⟨t, _, e⟩ := List.mem_map.mp ho; exact ⟨_, by rw [← e]⟩
    · obtain ⟨t, _, e⟩ := List.mem_map.mp ho; exact ⟨t, by rw [← e]⟩

/-- The lines killed by an instruction depend on the mode and the count of registers alone. -/
theorem killed_congr {g g' : Group} (h : g'.outside = g.outside) (i : Instr) : killed g' i = killed g i := by
  have e1 : g'.handler = g.handler := outside_field (fun x => x.handler) (fun _ => rfl) h
  have e2 : g'.nregs = g.nregs := outside_field (fun x => x.nregs) (fun _ => rfl) h
  have : lineNo g' = lineNo g := by funext r; simp only [lineNo, e1, e2]
  simp only [killed, this]

/-- A change of a group inside a state in which it alone was changed. -/
theorem onlyGroup_set {s t : State} {g gk : Group} (hid : gk.id = g.id) (h : OnlyGroup (setGroup s gk) t g) : OnlyGroup s t g :=
  ⟨h.1, fun k hk => (h.2 k hk).trans (groupOf_setGroup_ne (by rw [hid]; exact hk))⟩

/-- The groups and the reads after an instruction that left its group as gk in a state s'. -/
theorem finish_group {i : Instr} {s' s0 : State} {g gk : Group} {moves : Bool} (hg : groupOf s' g.id = some gk)
    (hw : lineNo gk = lineNo g) :
    let f := fun g' => finishInstr s0 i g.handler (costOf g i) (runInstr.newKeys g g') moves g'
    groupOf (onGroup s' g.id f) g.id = some (f gk) ∧ OnlyGroup s' (onGroup s' g.id f) g ∧
      ∀ n, n ∉ killed g i → readLine (onGroup s' g.id f) (f gk) n = readLine s' gk n := by
  refine ⟨groupOf_onGroup hg (fun x => finishInstr_id _ _ _ _ _ _ _), ⟨rfl, fun k hk => ?_⟩, fun n hkill => ?_⟩
  · exact groupOf_onGroup_ne (fun x => finishInstr_id _ _ _ _ _ _ _) hk
  · have hs : ∀ m, readLine (onGroup s' g.id (fun g' => finishInstr s0 i g.handler (costOf g i) (runInstr.newKeys g g') moves g'))
        (finishInstr s0 i g.handler (costOf g i) (runInstr.newKeys g gk) moves gk) m =
        readLine s' (finishInstr s0 i g.handler (costOf g i) (runInstr.newKeys g gk) moves gk) m := fun m => rfl
    show readLine (onGroup s' g.id (fun g' => finishInstr s0 i g.handler (costOf g i) (runInstr.newKeys g g') moves g'))
        (finishInstr s0 i g.handler (costOf g i) (runInstr.newKeys g gk) moves gk) n = _
    rw [hs, readLine_finishInstr]
    have : killed gk i = killed g i := by simp only [killed, hw]
    rwa [this]

/-- An instruction that is done in a state s', where its group is gk, which goes on. -/
theorem runInstr_goesOn {i : Instr} {s s' : State} {g gk : Group} {k : Group → State → GOut} (hr : Runs s g i)
    (hk : k g s = .done s') (hg : groupOf s' g.id = some gk) (hst : gk.st ≠ .parked) (hw : lineNo gk = lineNo g) :
    ∃ t g', runInstr i s k = .next t ∧ groupOf t g.id = some g' ∧ OnlyGroup s' t g ∧
      Completed gk g' (runInstr.newKeys g gk) ∧ g'.p = gk.p ∧ ∀ n, n ∉ killed g i → readLine t g' n = readLine s' gk n := by
  obtain ⟨hn, _⟩ := runInstr_done (k := k) hr hk hg
  obtain ⟨h1, h2, h3⟩ := finish_group (s0 := s) (i := i) (moves := true) hg hw
  have hc := finishInstr_completed s i g.handler (costOf g i) (runInstr.newKeys g gk) gk hst
  refine ⟨_, _, hn, h1, h2, hc, ?_, h3⟩
  have h4 := outside_field (g := (nextPos gk).counted (finishInstr s i g.handler (costOf g i) (runInstr.newKeys g gk) true gk) (runInstr.newKeys g gk))
    (fun x => x.p) (fun _ => rfl) hc
  refine h4.trans ?_
  unfold Group.counted nextPos
  split
  · rfl
  · split <;> rfl

/-- An instruction that is done and changed its group alone, to gk, which goes on. -/
theorem runInstr_group {i : Instr} {s s' : State} {g gk : Group} {k : Group → State → GOut} (hr : Runs s g i)
    (hk : k g s = .done (setGroup s' gk)) (hs : groupOf s' g.id = some g) (hid : gk.id = g.id) (hst : gk.st ≠ .parked)
    (hw : lineNo gk = lineNo g) :
    ∃ t g', runInstr i s k = .next t ∧ groupOf t g.id = some g' ∧ OnlyGroup s' t g ∧
      Completed gk g' (runInstr.newKeys g gk) ∧ g'.p = gk.p ∧ ∀ n, n ∉ killed g i → readLine t g' n = readLine s' gk n := by
  have hgs : groupOf (setGroup s' gk) g.id = some gk := by
    have := groupOf_setGroup (s := s') (g' := gk) (g := g) (by rw [hid]; exact hs)
    rwa [hid] at this
  obtain ⟨t, g', h1, h2, h3, h4, h5, h6⟩ := runInstr_goesOn hr hk hgs hst hw
  exact ⟨t, g', h1, h2, onlyGroup_set hid h3, h4, h5, h6⟩

/-- An instruction that sets its group's position, or parks it, in a state s', where its group is gk. -/
theorem runInstr_stands {i : Instr} {s s' : State} {g gk : Group} {k : Group → State → GOut} (hr : Runs s g i)
    (hk : k g s = .jump s' ∨ (k g s = .done s' ∧ gk.st = .parked)) (hg : groupOf s' g.id = some gk) (hw : lineNo gk = lineNo g) :
    ∃ t g', runInstr i s k = .next t ∧ groupOf t g.id = some g' ∧ OnlyGroup s' t g ∧
      Counted gk g' (runInstr.newKeys g gk) ∧ ∀ n, n ∉ killed g i → readLine t g' n = readLine s' gk n := by
  rcases hk with hk | ⟨hk, hp⟩
  · obtain ⟨hn, _⟩ := runInstr_jump (k := k) hr hk hg
    obtain ⟨h1, h2, h3⟩ := finish_group (s0 := s) (i := i) (moves := false) hg hw
    exact ⟨_, _, hn, h1, h2, finishInstr_counted s i g.handler (costOf g i) (runInstr.newKeys g gk) false gk (.inl rfl), h3⟩
  · obtain ⟨hn, _⟩ := runInstr_done (k := k) hr hk hg
    obtain ⟨h1, h2, h3⟩ := finish_group (s0 := s) (i := i) (moves := true) hg hw
    exact ⟨_, _, hn, h1, h2, finishInstr_counted s i g.handler (costOf g i) (runInstr.newKeys g gk) true gk (.inr hp), h3⟩

/-- An instruction that sets its group's position, or parks it, and changed its group alone, to gk. -/
theorem runInstr_moved {i : Instr} {s s' : State} {g gk : Group} {k : Group → State → GOut} (hr : Runs s g i)
    (hk : k g s = .jump (setGroup s' gk) ∨ (k g s = .done (setGroup s' gk) ∧ gk.st = .parked)) (hs : groupOf s' g.id = some g)
    (hid : gk.id = g.id) (hw : lineNo gk = lineNo g) :
    ∃ t g', runInstr i s k = .next t ∧ groupOf t g.id = some g' ∧ OnlyGroup s' t g ∧
      Counted gk g' (runInstr.newKeys g gk) ∧ ∀ n, n ∉ killed g i → readLine t g' n = readLine s' gk n := by
  have hgs : groupOf (setGroup s' gk) g.id = some gk := by
    have := groupOf_setGroup (s := s') (g' := gk) (g := g) (by rw [hid]; exact hs)
    rwa [hid] at this
  obtain ⟨t, g', h1, h2, h3, h4, h5⟩ := runInstr_stands hr hk hgs hw
  exact ⟨t, g', h1, h2, onlyGroup_set hid h3, h4, h5⟩

/-- An operation that leaves its outstanding results alone began none. -/
theorem newKeys_same {g gk : Group} (h : gk.ll = g.ll) : runInstr.newKeys g gk = [] := by
  simp only [runInstr.newKeys, h]
  rw [List.filter_eq_nil_iff]
  intro x hx
  simp [hx]

/-- A vector instruction whose result is written at once, whose evaluations give words for its destination registers only. -/
theorem vecOp_rule {i : Instr} {h : Hd} {E : State → Group → Nat → ThreadOut} (hx : ∀ s, exec i s = vecOp i h E s)
    (hv : (vwrites i).length ≤ 1) (hr : ∀ s g t w, w ∈ (E s g t).regs → w.1 ∈ spanRegs (vwrites i)) : VectorRule i h E := by
  intro s g hrun
  have hout := outside_writeOuts s g i h (evalThreads g h (E s g))
  have hst : (writeOuts s g i h (evalThreads g h (E s g))).st = g.st :=
    outside_field (g := { g with p := (writeOuts s g i h (evalThreads g h (E s g))).p, flags := g.flags ||| outFlags (evalThreads g h (E s g)) })
      (fun x => x.st) (fun _ => rfl) hout
  have hll : (writeOuts s g i h (evalThreads g h (E s g))).ll = g.ll :=
    outside_field (g := { g with p := (writeOuts s g i h (evalThreads g h (E s g))).p, flags := g.flags ||| outFlags (evalThreads g h (E s g)) })
      (fun x => x.ll) (fun _ => rfl) hout
  have hid : (writeOuts s g i h (evalThreads g h (E s g))).id = g.id :=
    outside_field (g := { g with p := (writeOuts s g i h (evalThreads g h (E s g))).p, flags := g.flags ||| outFlags (evalThreads g h (E s g)) })
      (fun x => x.id) (fun _ => rfl) hout
  have hln : lineNo (writeOuts s g i h (evalThreads g h (E s g))) = lineNo g := by
    have e1 : (writeOuts s g i h (evalThreads g h (E s g))).handler = g.handler :=
      outside_field (g := { g with p := (writeOuts s g i h (evalThreads g h (E s g))).p, flags := g.flags ||| outFlags (evalThreads g h (E s g)) })
        (fun x => x.handler) (fun _ => rfl) hout
    have e2 : (writeOuts s g i h (evalThreads g h (E s g))).nregs = g.nregs :=
      outside_field (g := { g with p := (writeOuts s g i h (evalThreads g h (E s g))).p, flags := g.flags ||| outFlags (evalThreads g h (E s g)) })
        (fun x => x.nregs) (fun _ => rfl) hout
    funext r; simp only [lineNo, e1, e2]
  obtain ⟨t, g', hn, hg, ho, hc, hp, hl⟩ := runInstr_group (k := fun g s => .done (setGroup s (writeOuts s g i h (evalThreads g h (E s g)))))
    hrun rfl hrun.2.1 hid (by rw [hst, hrun.2.2.1]; decide) hln
  refine ⟨t, g', (hx s).trans hn, hg, fun n hn => ?_, fun p u hlp hu => ?_, ?_, ho⟩
  · rw [hl n hn, readLine_writeOuts s g i h _ n hv]
    intro o ho w hw
    obtain ⟨t, e⟩ := evalThreads_mem ho
    exact hr s g t w (e ▸ hw)
  · rw [predMask_congr hp, predMask_writeOuts s g i h _ p u hlp hu]
  · rw [newKeys_same hll] at hc
    rw [hp]
    exact completed_congr hout hc

/-! ### The registers that a result names -/

/-- The registers of a held number. -/
theorem wordsFrom_mem {r n v : Nat} {w : Nat × W32} (h : w ∈ wordsFrom r n v) : w.1 ∈ spanRegs [(r, n)] := by
  have : ∀ (n r v : Nat), w ∈ wordsFrom r n v → r ≤ w.1 ∧ w.1 < r + n := by
    intro n
    induction n with
    | zero => intro r v h; simp [wordsFrom] at h
    | succ n ih =>
      intro r v h
      simp only [wordsFrom, List.mem_cons] at h
      rcases h with rfl | h
      · simp
      · have := ih _ _ h; omega
  have h2 := this n r v h
  simp only [spanRegs, List.flatMap_cons, List.flatMap_nil, List.append_nil, List.mem_map, List.mem_range]
  exact ⟨w.1 - r, by omega, by omega⟩

/-- The registers of an integer result. -/
theorem outI_mem {ty : Ty} {sat : Bool} {d : Nat} {v : Int} {w : Nat × W32} (h : w ∈ (outI ty sat d v).regs) : w.1 ∈ spanRegs [(d, ty.regs)] :=
  wordsFrom_mem h

/-- A longer span has the registers of a shorter one. -/
theorem span_mono {d n m : Nat} (h : n ≤ m) {x : Nat} (hx : x ∈ spanRegs [(d, n)]) : x ∈ spanRegs [(d, m)] := by
  simp only [spanRegs, List.flatMap_cons, List.flatMap_nil, List.append_nil, List.mem_map, List.mem_range] at *
  obtain ⟨k, hk, e⟩ := hx
  exact ⟨k, by omega, e⟩
/-- An operand takes a register. -/
theorem regs_pos (t : Ty) : 1 ≤ t.regs := by unfold Ty.regs; split <;> omega
/-- The register of a result in one register. -/
theorem hold1_mem {d n v : Nat} (hn : 1 ≤ n) {w : Nat × W32} (h : w ∈ hold1 d v) : w.1 ∈ spanRegs [(d, n)] := by
  simp only [hold1, List.mem_singleton] at h
  subst h
  simp only [spanRegs, List.flatMap_cons, List.flatMap_nil, List.append_nil, List.mem_map, List.mem_range]
  exact ⟨0, by omega, by simp⟩
/-- A vector instruction depends on what its evaluation gives. -/
theorem vecOp_congr {i : Instr} {h : Hd} {E E' : State → Group → Nat → ThreadOut} (e : ∀ s g t, E s g t = E' s g t) : ∀ s, vecOp i h E s = vecOp i h E' s := by
  have : E = E' := by funext s g t; exact e s g t
  subst this; intro s; rfl


/-! ### The group-wide instructions -/

/-- What a write of the scalar space leaves as it was. -/
structure Scal (g gk : Group) : Prop where
  id : gk.id = g.id
  st : gk.st = g.st
  ll : gk.ll = g.ll
  ln : lineNo gk = lineNo g
  rd : ∀ s n, readLine s gk n = readLine s g n

theorem putPred_scal (g : Group) (p : Nat) (sel m : TMask) : Scal g (putPred g p sel m) := by
  rw [putPred_eq]; exact ⟨rfl, rfl, rfl, rfl, fun _ _ => rfl⟩

theorem writeScalar_scal (g : Group) (d : Nat) (v : W64) : Scal g (writeScalar g d v) := by
  unfold writeScalar
  split
  · exact ⟨rfl, rfl, rfl, rfl, fun _ _ => rfl⟩
  · split
    · exact ⟨rfl, rfl, rfl, rfl, fun _ _ => rfl⟩
    · split
      · exact ⟨rfl, rfl, rfl, rfl, fun _ _ => rfl⟩
      · exact putPred_scal _ _ _ _

/-- A group-wide instruction that leaves its group as R says, which is a change of the scalar space. -/
theorem wideGroup_rule {i : Instr} {h : Hd} {R : State → Group → Group} (hx : ∀ s, exec i s = wideGroup i h R s)
    (hR : ∀ s g, Scal g (R s g)) : WideRule i h R := by
  intro s g hr
  by_cases hw : wideActs g h = true
  · have hs := hR s g
    obtain ⟨t, g', hn, hg, ho, hc, _, hl⟩ := runInstr_group (gk := R s g) (s' := s)
      (k := fun g s => if wideActs g h then (fun g s => GOut.done (setGroup s (R s g))) g s else .done s)
      hr (by simp only [hw, if_true]) hr.2.1 hs.id (by rw [hs.st, hr.2.2.1]; decide) hs.ln
    refine ⟨t, g', (hx s).trans hn, hg, fun n hn => ?_, ?_, ho⟩
    · rw [hl n hn, hs.rd]; rfl
    · rw [newKeys_same hs.ll] at hc
      rw [if_pos hw]; exact hc
  · obtain ⟨t, g', hn, hg, ho, hc, _, hl⟩ := runInstr_goesOn (gk := g) (s' := s)
      (k := fun g s => if wideActs g h then (fun g s => GOut.done (setGroup s (R s g))) g s else .done s)
      hr (by simp only [hw]; rfl) hr.2.1 (by rw [hr.2.2.1]; decide) rfl
    refine ⟨t, g', (hx s).trans hn, hg, fun n hn => ?_, ?_, ho⟩
    · rw [hl n hn]; rfl
    · rw [newKeys_same rfl] at hc
      rw [if_neg hw]; exact hc

/-! ### Masks and evaluations -/

/-- The threads of a mask. -/
theorem mem_threads {m : TMask} {t : Nat} : t ∈ threads m ↔ t < 64 ∧ m.getLsbD t = true := by
  simp [threads]

/-- The bits of a mask of threads. -/
theorem maskOf_bit (ts : List Nat) (t : Nat) (ht : t < 64) : (maskOf ts).getLsbD t = decide (t ∈ ts) := by
  have : ∀ (ts : List Nat) (m : TMask), (ts.foldl (fun (m : TMask) (t : Nat) => m ||| (1 <<< t)) m).getLsbD t =
      (m.getLsbD t || decide (t ∈ ts)) := by
    intro ts
    induction ts with
    | nil => intro m; simp
    | cons a ts ih =>
      intro m
      rw [List.foldl_cons, ih, BitVec.getLsbD_or, one_shift_getLsbD a t ht]
      by_cases h : a = t
      · subst h; simp
      · have : t ≠ a := fun e => h e.symm
        simp [h, this]
  simpa [maskOf] using this ts 0

/-- The threads of a mask stand in ascending order. -/
theorem threads_sorted (m : TMask) : (threads m).Pairwise (· < ·) := List.Pairwise.filter _ List.pairwise_lt_range

/-- Evaluations that agree on the qualifying threads. -/
theorem evalThreads_congr {g : Group} {h : Hd} {F G : Nat → ThreadOut} (e : ∀ t ∈ threads (qualMask g h), F t = G t) :
    evalThreads g h F = evalThreads g h G := by
  unfold evalThreads
  dsimp only
  cases hl : lowest (qualMask g h) with
  | none => rfl
  | some t0 =>
    have h0 : t0 ∈ threads (qualMask g h) := List.mem_of_mem_head? hl
    dsimp only
    split
    · exact List.map_congr_left (fun t _ => by rw [e t0 h0])
    · exact List.map_congr_left (fun t ht => by rw [e t ht])

/-- A vector instruction depends on what its evaluation gives the qualifying threads. -/
theorem vecOp_congr_qual {i : Instr} {h : Hd} {E E' : State → Group → Nat → ThreadOut}
    (e : ∀ s g, ∀ t ∈ threads (qualMask g h), E s g t = E' s g t) : ∀ s, vecOp i h E s = vecOp i h E' s := by
  intro s
  unfold vecOp
  have : ∀ s g, evalThreads g h (E s g) = evalThreads g h (E' s g) := fun s g => evalThreads_congr (e s g)
  simp only [this]

end Sys2Proof.Laws
end

