-- ==== Sys2Proof/Laws/Acts.lean ====
section
/-! SUPPORT. The ways in which an instruction of a group ends, each as one lemma about its effect: done with its group changed,
done with other state changed, a transfer, an exception, a wait. -/

namespace Sys2Proof.Laws
open Sys2Proof.Machine

/-- An operation that is done in a state s', with its group changed to gk. -/
theorem does_group {i : Instr} {s s' : State} {g gk : Group} {k : Group → State → GOut} (hx : exec i s = runInstr i s k)
    (hr : Runs s g i) (hk : k g s = .done (setGroup s' gk)) (hs : groupOf s' g.id = some g) (hid : gk.id = g.id)
    (hst : gk.st ≠ .parked) (hll : gk.ll = g.ll) (hw : lineNo gk = lineNo g) (hrd : ∀ n, readLine s' gk n = readLine s' g n) :
    Does i s s' g gk [] := by
  obtain ⟨t, g', hn, hg, ho, hc, _, hl⟩ := runInstr_group hr hk hs hid hst hw
  rw [newKeys_same hll] at hc
  exact ⟨t, g', hx.trans hn, hg, fun n hn => by rw [hl n hn, hrd]; rfl, hc, ho⟩

/-- An operation that is done in a state s', with its group as it was. -/
theorem does_state {i : Instr} {s s' : State} {g : Group} {k : Group → State → GOut} (hx : exec i s = runInstr i s k)
    (hr : Runs s g i) (hk : k g s = .done s') (hs : groupOf s' g.id = some g) : Does i s s' g g [] := by
  obtain ⟨t, g', hn, hg, ho, hc, _, hl⟩ := runInstr_goesOn hr hk hs (by rw [hr.2.2.1]; decide) rfl
  rw [newKeys_same rfl] at hc
  exact ⟨t, g', hx.trans hn, hg, fun n hn => by rw [hl n hn]; rfl, hc, ho⟩

/-- An operation that sets its group's position, or parks it, in a state s'. -/
theorem moves_group {i : Instr} {s s' : State} {g gk : Group} {k : Group → State → GOut} (hx : exec i s = runInstr i s k)
    (hr : Runs s g i) (hk : k g s = .jump (setGroup s' gk) ∨ (k g s = .done (setGroup s' gk) ∧ gk.st = .parked))
    (hs : groupOf s' g.id = some g) (hid : gk.id = g.id) (hll : gk.ll = g.ll) (hw : lineNo gk = lineNo g)
    (hrd : ∀ n, readLine s' gk n = readLine s' g n) : Moves i s s' g gk := by
  obtain ⟨t, g', hn, hg, ho, hc, hl⟩ := runInstr_moved hr hk hs hid hw
  rw [newKeys_same hll] at hc
  exact ⟨t, g', hx.trans hn, hg, fun n hn => by rw [hl n hn, hrd]; rfl, hc, ho⟩

/-- Effects on groups that agree but for the window and the cache. -/
theorem does_congr {i : Instr} {s s' : State} {g gk gl : Group} {new : List Nat} (h : gk.outside = gl.outside) (d : Does i s s' g gk new) :
    Does i s s' g gl new := by
  obtain ⟨t, g', hn, hg, hl, hc, ho⟩ := d
  exact ⟨t, g', hn, hg, hl, completed_congr h hc, ho⟩

theorem moves_congr {i : Instr} {s s' : State} {g gk gl : Group} (h : gk.outside = gl.outside) (d : Moves i s s' g gk) :
    Moves i s s' g gl := by
  obtain ⟨t, g', hn, hg, hl, hc, ho⟩ := d
  exact ⟨t, g', hn, hg, hl, counted_same h hc, ho⟩

/-- Settling held results leaves the reads and the lines' numbers alone. -/
theorem settled (s : State) (hs : List Held) (g : Group) : (hs.foldl (settleHeld s) g).outside = g.outside ∧
    ∀ s' n, readLine s' (hs.foldl (settleHeld s) g) n = readLine s' g n := by
  induction hs generalizing g with
  | nil => exact ⟨rfl, fun _ _ => rfl⟩
  | cons h hs ih =>
    obtain ⟨h1, h2⟩ := ih (settleHeld s g h)
    exact ⟨h1.trans (outside_settleHeld s g h), fun s' n => (h2 s' n).trans (readLine_settleHeld s' s g h n)⟩

/-- The outstanding results that a group has begun, where one is added. -/
theorem newKeys_append {g gl : Group} {l : LL} (h : gl.ll = g.ll ++ [l]) : runInstr.newKeys g gl = newKey g l.key := by
  unfold runInstr.newKeys newKey
  rw [h, List.map_append, List.filter_append]
  have : (g.ll.map (fun (l : LL) => l.key)).filter (fun x => !(g.ll.map (fun (l : LL) => l.key)).contains x) = [] := by
    rw [List.filter_eq_nil_iff]; intro x hx; simpa using hx
  rw [this, List.nil_append]
  by_cases ha : g.ll.any (fun x => decide (x.key = l.key)) = true
  · rw [if_pos ha]
    have : (g.ll.map (fun (l : LL) => l.key)).contains l.key = true := by simpa [List.contains_iff_mem] using ha
    simp only [List.map_cons, List.map_nil, List.filter_cons, this, Bool.not_true, Bool.false_eq_true, if_false, List.filter_nil]
  · rw [if_neg ha]
    have : (g.ll.map (fun (l : LL) => l.key)).contains l.key = false := by simpa [List.contains_iff_mem] using ha
    simp only [List.map_cons, List.map_nil, List.filter_cons, this, Bool.not_false, if_true, List.filter_nil]

/-- An operation that begins an outstanding result in a state s'. -/
theorem begins_group {i : Instr} {s s' s2 : State} {g : Group} {l : LL} {k : Group → State → GOut} (hx : exec i s = runInstr i s k)
    (hr : Runs s g i) (hk : k g s = .done (setGroup s' (beginLL s2 g l))) (hs : groupOf s' g.id = some g) : Begins i s s' g l := by
  obtain ⟨ho, hl⟩ := settled s2 (g.win.filter (fun h => l.vregs.contains h.reg)) g
  have fld : ∀ {α : Type} (f : Group → α), (∀ x : Group, f x.outside = f x) →
      f ((g.win.filter (fun h => l.vregs.contains h.reg)).foldl (settleHeld s2) g) = f g := fun f hf => outside_field f hf ho
  have hid : (beginLL s2 g l).id = g.id := fld (fun x => x.id) (fun _ => rfl)
  have hst : (beginLL s2 g l).st = g.st := fld (fun x => x.st) (fun _ => rfl)
  have hll : (beginLL s2 g l).ll = g.ll ++ [l] := congrArg (fun x => x ++ [l]) (fld (fun x => x.ll) (fun _ => rfl))
  have e1 : (beginLL s2 g l).handler = g.handler := fld (fun x => x.handler) (fun _ => rfl)
  have e2 : (beginLL s2 g l).nregs = g.nregs := fld (fun x => x.nregs) (fun _ => rfl)
  have hw : lineNo (beginLL s2 g l) = lineNo g := by funext r; simp only [lineNo, e1, e2]
  obtain ⟨t, g', hn, hg, hot, hc, _, hr'⟩ := runInstr_group hr hk hs hid (by rw [hst, hr.2.2.1]; decide) hw
  have hkey : runInstr.newKeys g (beginLL s2 g l) = newKey g l.key := newKeys_append hll
  rw [hkey] at hc
  refine ⟨t, g', hx.trans hn, hg, fun n hn => ?_, completed_congr ?_ hc, hot⟩
  · rw [hr' n hn]; exact hl s' n
  · show ({ (g.win.filter (fun h => l.vregs.contains h.reg)).foldl (settleHeld s2) g with
      ll := ((g.win.filter (fun h => l.vregs.contains h.reg)).foldl (settleHeld s2) g).ll ++ [l] } : Group).outside = _
    have hf : ∀ x : Group, ({ x with ll := x.ll ++ [l] } : Group).outside = ({ x.outside with ll := x.outside.ll ++ [l] } : Group).outside := fun _ => rfl
    rw [hf, ho, ← hf]

/-- An operation that is done in a state s', with its group changed to one that is gl but for its window and cache. -/
theorem done_group {i : Instr} {s s' : State} {g gk gl : Group} {k : Group → State → GOut} {new : List Nat} (hx : exec i s = runInstr i s k)
    (hr : Runs s g i) (hk : k g s = .done (setGroup s' gk)) (hs : groupOf s' g.id = some g) (ho : gk.outside = gl.outside)
    (hid : gl.id = g.id) (hst : gl.st ≠ .parked) (hh : gl.handler = g.handler) (hn : gl.nregs = g.nregs)
    (hrd : ∀ n, readLine s' gk n = readLine s' g n) (hkeys : runInstr.newKeys g gl = new) : Does i s s' g gl new := by
  have fld : ∀ {α : Type} (f : Group → α), (∀ x : Group, f x.outside = f x) → f gk = f gl := fun f hf => outside_field f hf ho
  have e1 : gk.handler = g.handler := (fld (fun x => x.handler) (fun _ => rfl)).trans hh
  have e2 : gk.nregs = g.nregs := (fld (fun x => x.nregs) (fun _ => rfl)).trans hn
  have e3 : gk.ll = gl.ll := fld (fun x => x.ll) (fun _ => rfl)
  have e4 : gk.st = gl.st := fld (fun x => x.st) (fun _ => rfl)
  have e5 : gk.id = g.id := (fld (fun x => x.id) (fun _ => rfl)).trans hid
  have hw : lineNo gk = lineNo g := by funext r; simp only [lineNo, e1, e2]
  obtain ⟨t, g', h1, h2, h3, h4, _, h6⟩ := runInstr_group hr hk hs e5 (by rw [e4]; exact hst) hw
  have : runInstr.newKeys g gk = new := by rw [← hkeys]; simp only [runInstr.newKeys, e3]
  rw [this] at h4
  exact ⟨t, g', hx.trans h1, h2, fun n hn => by rw [h6 n hn, hrd]; rfl, completed_congr ho h4, h3⟩

/-- An operation that takes an exception in a state s'. -/
theorem traps_at {i : Instr} {s s' : State} {g : Group} {k : Group → State → GOut} {c : TrapInfo} (hx : exec i s = runInstr i s k)
    (hr : Runs s g i) (hk : k g s = .trap s' c) (hs : groupOf s' g.id = some g) : Traps i s s' g c := by
  have := runInstr_trap hr hk
  rw [hs] at this
  exact hx.trans this

/-- The same for a group-wide instruction whose lowest active thread qualifies. -/
theorem wide_does {i : Instr} {s s' : State} {g gk : Group} {h : Hd} {k : Group → State → GOut} (hx : exec i s = wideOp i h k s)
    (hr : Runs s g i) (hw : wideActs g h = true) (hk : k g s = .done (setGroup s' gk)) (hs : groupOf s' g.id = some g) (hid : gk.id = g.id)
    (hst : gk.st ≠ .parked) (hll : gk.ll = g.ll) (hl : lineNo gk = lineNo g) (hrd : ∀ n, readLine s' gk n = readLine s' g n) :
    Does i s s' g gk [] :=
  does_group (k := fun g s => if wideActs g h then k g s else .done s) hx hr (by rw [if_pos hw, hk]) hs hid hst hll hl hrd

@[inherit_doc wide_does] theorem wide_state {i : Instr} {s s' : State} {g : Group} {h : Hd} {k : Group → State → GOut}
    (hx : exec i s = wideOp i h k s) (hr : Runs s g i) (hw : wideActs g h = true) (hk : k g s = .done s') (hs : groupOf s' g.id = some g) :
    Does i s s' g g [] :=
  does_state (k := fun g s => if wideActs g h then k g s else .done s) hx hr (by rw [if_pos hw, hk]) hs

@[inherit_doc wide_does] theorem wide_moves {i : Instr} {s s' : State} {g gk : Group} {h : Hd} {k : Group → State → GOut}
    (hx : exec i s = wideOp i h k s) (hr : Runs s g i) (hw : wideActs g h = true)
    (hk : k g s = .jump (setGroup s' gk) ∨ (k g s = .done (setGroup s' gk) ∧ gk.st = .parked)) (hs : groupOf s' g.id = some g)
    (hid : gk.id = g.id) (hll : gk.ll = g.ll) (hl : lineNo gk = lineNo g) (hrd : ∀ n, readLine s' gk n = readLine s' g n) :
    Moves i s s' g gk :=
  moves_group (k := fun g s => if wideActs g h then k g s else .done s) hx hr (by rw [if_pos hw]; exact hk) hs hid hll hl hrd

@[inherit_doc wide_does] theorem wide_traps {i : Instr} {s s' : State} {g : Group} {h : Hd} {k : Group → State → GOut} {c : TrapInfo}
    (hx : exec i s = wideOp i h k s) (hr : Runs s g i) (hw : wideActs g h = true) (hk : k g s = .trap s' c) (hs : groupOf s' g.id = some g) :
    Traps i s s' g c :=
  traps_at (k := fun g s => if wideActs g h then k g s else .done s) hx hr (by rw [if_pos hw, hk]) hs

@[inherit_doc wide_does] theorem wide_waits {i : Instr} {s : State} {g : Group} {h : Hd} {k : Group → State → GOut}
    (hx : exec i s = wideOp i h k s) (hr : Runs s g i) (hw : wideActs g h = true) (hk : k g s = .wait) : exec i s = .next s :=
  hx.trans (runInstr_wait (k := fun g s => if wideActs g h then k g s else .done s) hr (by rw [if_pos hw, hk]))

/-- A group-wide instruction whose lowest active thread does not qualify has no effect (03 R64). -/
theorem wide_idle {i : Instr} {s : State} {g : Group} {h : Hd} {k : Group → State → GOut} (hx : exec i s = wideOp i h k s)
    (hr : Runs s g i) (hw : wideActs g h = false) : Does i s s g g [] :=
  does_state (k := fun g s => if wideActs g h then k g s else .done s) hx hr (by rw [hw]; rfl) hr.2.1

/-- An operation that waits. -/
theorem waits_at {i : Instr} {s : State} {g : Group} {k : Group → State → GOut} (hx : exec i s = runInstr i s k)
    (hr : Runs s g i) (hk : k g s = .wait) : exec i s = .next s := hx.trans (runInstr_wait hr hk)

end Sys2Proof.Laws
end

