-- ==== Sys2Proof/Laws/Mem.lean ====
section
/-! SUPPORT. What the operations on a memory do: each keeps the canonical form, a read after a write gives what was written, and
no other byte changes; equal reads make equal memories. -/

namespace Sys2Proof.Laws
open Sys2Proof.Machine

/-- The canonical form said of the pairs: addresses strictly rising, no byte the default. -/
theorem wf_iff (m : Memory) : Memory.wf m = true ↔ m.Pairwise (fun c d => c.1 < d.1) ∧ ∀ c ∈ m, c.2 ≠ memDefault := by
  induction m with
  | nil => simp [Memory.wf]
  | cons c m ih =>
    cases m with
    | nil => simp [Memory.wf]
    | cons d m =>
      simp only [Memory.wf, Bool.and_eq_true, decide_eq_true_eq, ih, List.pairwise_cons, List.mem_cons]
      constructor
      · rintro ⟨⟨h1, h2⟩, ⟨h3, h4⟩, h5⟩
        refine ⟨⟨?_, h3, h4⟩, ?_⟩
        · rintro x (rfl | hx)
          · exact h2
          · exact h2.trans (h3 x hx)
        · rintro x (rfl | hx)
          · exact h1
          · exact h5 x hx
      · rintro ⟨⟨h1, h2⟩, h3⟩
        exact ⟨⟨h3 c (.inl rfl), h1 d (.inl rfl)⟩, h2, fun x hx => h3 x (.inr hx)⟩

theorem wf_cons {c : Host.Cell} {m : Memory} : Memory.wf (c :: m) = true ↔
    c.2 ≠ memDefault ∧ (∀ d ∈ m, c.1 < d.1) ∧ Memory.wf m = true := by
  rw [wf_iff, wf_iff, List.pairwise_cons]
  simp only [List.mem_cons, forall_eq_or_imp]
  tauto

/-- The addresses of a memory after a write are its own and the written one. -/
theorem mem_memSet {m : Memory} {a : Nat} {b : Byte} {c : Host.Cell} (h : c ∈ memSet m a b) : c = (a, b) ∨ c ∈ m := by
  induction m with
  | nil =>
    unfold memSet at h
    split at h
    · exact .inr h
    · exact .inl (by simpa using h)
  | cons d m ih =>
    unfold memSet at h
    split at h
    · split at h
      · exact .inr h
      · rcases List.mem_cons.mp h with h | h
        · exact .inl h
        · exact .inr h
    · split at h
      · split at h
        · exact .inr (List.mem_cons_of_mem _ h)
        · rcases List.mem_cons.mp h with h | h
          · exact .inl h
          · exact .inr (List.mem_cons_of_mem _ h)
      · rcases List.mem_cons.mp h with h | h
        · exact .inr (h ▸ List.mem_cons_self ..)
        · rcases ih h with h | h
          · exact .inl h
          · exact .inr (List.mem_cons_of_mem _ h)

/-- A write keeps the canonical form. -/
theorem memSet_wf {m : Memory} (a : Nat) (b : Byte) (h : Memory.wf m = true) : Memory.wf (memSet m a b) = true := by
  induction m with
  | nil =>
    unfold memSet
    split
    · rfl
    · rename_i hb; exact wf_cons.mpr ⟨hb, by simp, rfl⟩
  | cons d m ih =>
    have hd := wf_cons.mp h
    unfold memSet
    split
    · rename_i ha
      split
      · exact h
      · rename_i hb
        refine wf_cons.mpr ⟨hb, ?_, h⟩
        intro x hx
        rcases List.mem_cons.mp hx with hx | hx
        · rw [hx]; exact ha
        · exact ha.trans (hd.2.1 x hx)
    · split
      · rename_i hn ha
        split
        · exact hd.2.2
        · rename_i hb
          exact wf_cons.mpr ⟨hb, fun x hx => by have := hd.2.1 x hx; simp only [ha]; exact this, hd.2.2⟩
      · rename_i h1 h2
        refine wf_cons.mpr ⟨hd.1, fun x hx => ?_, ih hd.2.2⟩
        rcases mem_memSet hx with hx | hx
        · rw [hx]; show d.1 < a; omega
        · exact hd.2.1 x hx

/-- Writes of bytes keep the canonical form. -/
theorem memPut_wf {m : Memory} (a : Nat) (bs : List Byte) (h : Memory.wf m = true) : Memory.wf (memPut m a bs) = true := by
  induction bs generalizing m a with
  | nil => exact h
  | cons b bs ih => exact ih (a + 1) (memSet_wf a b h)

/-- Writes of cells keep the canonical form. -/
theorem memCells_wf {m : Memory} (cs : List Host.Cell) (h : Memory.wf m = true) : Memory.wf (memCells m cs) = true := by
  unfold memCells
  induction cs generalizing m with
  | nil => exact h
  | cons c cs ih => exact ih (memSet_wf c.1 c.2 h)

/-- A part of a memory is in the canonical form. -/
theorem filter_wf {m : Memory} (p : Host.Cell → Bool) (h : Memory.wf m = true) : Memory.wf (m.filter p) = true := by
  rw [wf_iff] at *
  exact ⟨h.1.filter _, fun c hc => h.2 c (List.mem_filter.mp hc).1⟩

/-- Clearing bytes keeps the canonical form. -/
theorem memClear_wf {m : Memory} (a n : Nat) (h : Memory.wf m = true) : Memory.wf (memClear m a n) = true := filter_wf _ h

theorem memGet_below {m : Memory} {a : Nat} (h : ∀ c ∈ m, a < c.1) : memGet m a = memDefault := by
  cases m with
  | nil => rfl
  | cons c m =>
    have := h c (List.mem_cons_self ..)
    unfold memGet
    rw [if_neg (by omega), if_pos this]

/-- A byte written reads as it was written, and no other byte changes. -/
theorem memGet_memSet {m : Memory} (h : Memory.wf m = true) (a : Nat) (b : Byte) (x : Nat) :
    memGet (memSet m a b) x = if x = a then b else memGet m x := by
  induction m with
  | nil =>
    unfold memSet
    by_cases hb : b = memDefault
    · rw [if_pos hb]; split
      · rw [hb]; rfl
      · rfl
    · rw [if_neg hb]
      unfold memGet
      by_cases hx : x = a
      · subst hx; simp
      · rw [if_neg (by omega), if_neg hx]
        split <;> rfl
  | cons d m ih =>
    have hd := wf_cons.mp h
    unfold memSet
    by_cases h1 : a < d.1
    · rw [if_pos h1]
      by_cases hb : b = memDefault
      · rw [if_pos hb]
        by_cases hx : x = a
        · subst hx
          rw [if_pos rfl, hb]
          unfold memGet
          rw [if_neg (by omega), if_pos h1]
        · rw [if_neg hx]
      · rw [if_neg hb]
        show memGet ((a, b) :: d :: m) x = _
        rw [memGet]
        by_cases hx : x = a
        · subst hx; simp
        · rw [if_neg (by intro e; exact hx e.symm), if_neg hx]
          by_cases hlt : x < a
          · rw [if_pos hlt, memGet, if_neg (by omega), if_pos (by omega)]
          · rw [if_neg hlt]
    · rw [if_neg h1]
      by_cases h2 : a = d.1
      · rw [if_pos h2]
        by_cases hb : b = memDefault
        · rw [if_pos hb]
          by_cases hx : x = a
          · subst hx
            rw [if_pos rfl, hb]
            exact memGet_below (fun c hc => by have := hd.2.1 c hc; omega)
          · rw [if_neg hx]
            show _ = memGet (d :: m) x
            rw [memGet, if_neg (by omega)]
            by_cases hlt : x < d.1
            · rw [if_pos hlt]; exact memGet_below (fun c hc => by have := hd.2.1 c hc; omega)
            · rw [if_neg hlt]
        · rw [if_neg hb]
          by_cases hx : x = a
          · subst hx; rw [if_pos rfl, memGet, if_pos rfl]
          · rw [if_neg hx, memGet, memGet]
            show (if a = x then b else if x < a then memDefault else memGet m x) = _
            rw [if_neg (fun e => hx e.symm), if_neg (fun e : d.1 = x => hx (e.symm.trans h2.symm)), h2]
      · rw [if_neg h2, memGet, memGet, ih hd.2.2]
        by_cases hx : x = a
        · subst hx
          rw [if_neg (by omega), if_neg (by omega), if_pos rfl, if_pos rfl]
        · simp only [if_neg hx]

/-- Bytes written read as they were written, and no other byte changes. -/
theorem memGet_memPut {m : Memory} (h : Memory.wf m = true) (a : Nat) (bs : List Byte) (x : Nat) :
    memGet (memPut m a bs) x = if a ≤ x ∧ x < a + bs.length then bs.getD (x - a) 0 else memGet m x := by
  induction bs generalizing m a with
  | nil => rw [if_neg (by simp)]; rfl
  | cons b bs ih =>
    rw [memPut, ih (memSet_wf a b h), memGet_memSet h]
    by_cases hx : x = a
    · subst hx
      rw [if_neg (by omega), if_pos rfl, if_pos (by simp), Nat.sub_self]
      rfl
    · rw [if_neg hx]
      by_cases h1 : a + 1 ≤ x ∧ x < a + 1 + bs.length
      · rw [if_pos h1, if_pos (by simp only [List.length_cons]; omega)]
        have : x - a = (x - (a + 1)) + 1 := by omega
        rw [this, List.getD_cons_succ]
      · rw [if_neg h1, if_neg (by simp only [List.length_cons]; omega)]

theorem memBytes_memPut {m : Memory} (h : Memory.wf m = true) (a : Nat) (bs : List Byte) :
    memBytes (memPut m a bs) a bs.length = bs := by
  apply List.ext_getElem
  · simp [memBytes]
  · intro i h1 h2
    simp only [memBytes, List.getElem_map, List.getElem_range]
    rw [memGet_memPut h, if_pos (by omega)]
    simp [List.getD_eq_getElem?_getD, h2]

/-- The low bytes of a number give the number back, but for what lies above them. -/
theorem leNat_natLE (n v : Nat) : leNat (natLE n v) = v % 256 ^ n := by
  have h8 : ∀ k : Nat, 256 ^ (k + 1) = 256 * 256 ^ k := fun k => Nat.pow_succ'
  induction n generalizing v with
  | zero => simp [natLE, leNat, Nat.mod_one]
  | succ n ih =>
    rw [natLE, leNat, ih, BitVec.toNat_ofNat, h8, Nat.mod_mul]

/-- Two memories in canonical form that read the same are the same. -/
theorem memory_ext {m n : Memory} (hm : Memory.wf m = true) (hn : Memory.wf n = true) (h : ∀ a, memGet m a = memGet n a) : m = n := by
  induction m generalizing n with
  | nil =>
    cases n with
    | nil => rfl
    | cons d n =>
      have := h d.1
      have hd := (wf_cons.mp hn).1
      rw [memGet, memGet, if_pos rfl] at this
      exact absurd this.symm hd
  | cons c m ih =>
    have hc := wf_cons.mp hm
    cases n with
    | nil =>
      have := h c.1
      rw [memGet, memGet, if_pos rfl] at this
      exact absurd this hc.1
    | cons d n =>
      have hd := wf_cons.mp hn
      have e1 : c.1 = d.1 := by
        rcases Nat.lt_trichotomy c.1 d.1 with hlt | he | hlt
        · have := h c.1
          rw [memGet, memGet, if_pos rfl, if_neg (by omega), if_pos hlt] at this
          exact absurd this hc.1
        · exact he
        · have := h d.1
          rw [memGet, memGet, if_neg (by omega), if_pos hlt, if_pos rfl] at this
          exact absurd this.symm hd.1
      have e2 : c.2 = d.2 := by
        have := h c.1
        rwa [memGet, memGet, if_pos rfl, if_pos e1.symm] at this
      have e3 : c = d := Prod.ext e1 e2
      subst e3
      rw [ih hc.2.2 hd.2.2 (fun a => ?_)]
      by_cases ha : a ≤ c.1
      · rw [memGet_below (fun x hx => Nat.lt_of_le_of_lt ha (hc.2.1 x hx)), memGet_below (fun x hx => Nat.lt_of_le_of_lt ha (hd.2.1 x hx))]
      · have := h a
        rwa [memGet, memGet, if_neg (by omega), if_neg (by omega), if_neg (by omega), if_neg (by omega)] at this

end Sys2Proof.Laws
end

