-- ==== Sys2Proof/Laws/Memory.lean ====
section
/-! SUPPORT. What a memory instruction does around the accesses of its threads (09 R202, R204): one lemma without a result, one
with one; and what one access does. -/

namespace Sys2Proof.Laws
open Sys2Proof.Machine

/-- What the increment of an address register leaves as it was. -/
theorem postInc_eq (g : Group) (f : MF) (size : Nat) : postInc g f size = { g with a := (postInc g f size).a } := by
  unfold postInc; dsimp only; split <;> rfl

/-- The increment depends on no window and no cache. -/
theorem outside_postInc (g : Group) (f : MF) (size : Nat) : (postInc g f size).outside = (postInc g.outside f size).outside := by
  unfold postInc; dsimp only
  by_cases h : f.inc = 0
  · rw [if_pos h, if_pos h]; rfl
  · rw [if_neg h, if_neg h]; rfl

theorem postInc_congr {g g' : Group} (f : MF) (size : Nat) (h : g.outside = g'.outside) : (postInc g f size).outside = (postInc g' f size).outside := by
  rw [outside_postInc, h, ← outside_postInc]

/-- The state of the loop over the threads at its start. -/
def loopStart (s : State) : MAcc :=
  { s := { s with nextId := s.nextId + 1 }, parts := [], scl := [], need := 0, reqs := [], stop := none, lost := none, late := 0, ask := none }

/-- The group with the requests of an instruction entered. -/
theorem enterReqs_group (s : State) (g : Group) (reqs : List (Nat × Req)) :
    (enterReqs s g reqs).2 = { g with seq := g.seq + reqs.length, coal := (enterReqs s g reqs).2.coal } := rfl

/-- A memory instruction without a result, all of whose threads have completed. -/
theorem memOp_plain {i : Instr} {h : Hd} {f : MF} {size : Nat} {one sends noMod : Bool} {f1 : Nat → MAcc → Nat → Nat → MAcc} {s : State}
    {g : Group} {t0 : Nat} {ts : List Nat} {a : MAcc} (hx : exec i s = memOp i h f size one false sends noMod f1 s) (hr : Runs s g i)
    (hts : (if one then (threads (qualMask g h)).take 1 else threads (qualMask g h)) = t0 :: ts)
    (hm : (!modOk g f size && !noMod) = false) (hc : (sends && decide (g.coal ≠ [])) = false) (hq : acqPending g = false)
    (hre : replayOf s g.lane = none) (ha : memLoop (f1 s.nextId) (t0 :: ts) 0 (loopStart s) = a) (hstop : a.stop = none)
    (hask : a.ask = none) (hlost : a.lost = none) (haw : a.away = none) (hg : groupOf a.s g.id = some g) :
    Does i s (dropGot (enterReqs a.s g a.reqs).1 g.id) g (postInc (enterReqs a.s g a.reqs).2 f size) [] := by
  have hp := postInc_eq (enterReqs a.s g a.reqs).2 f size
  refine done_group (gk := postInc (enterReqs a.s g a.reqs).2 f size) hx hr ?_ hg rfl ?_ ?_ ?_ ?_ ?_ ?_
  · dsimp only
    rw [hts]
    simp only [hre, Option.isNone_none, Bool.and_true, memSeed, hm, hc, hq, takeId, Bool.false_and, Bool.or_false, Bool.false_eq_true, if_false]
    have e : memLoop (f1 s.nextId) (t0 :: ts) 0 { s := { s with nextId := s.nextId + 1 }, parts := [], scl := [], need := 0, reqs := [], stop := none, lost := none, late := 0, ask := none } = a := ha
    rw [e, hask, hlost, haw]
    simp only [memEnd, memKeep, hstop, hg]
    rfl
  · rw [hp]; rfl
  · rw [hp]; show g.st ≠ _; rw [hr.2.2.1]; decide
  · rw [hp]; rfl
  · rw [hp]; rfl
  · intro n; rw [hp]; rfl
  · rw [hp]; exact newKeys_same rfl

/-- A memory instruction with a result that begins it, all of whose threads have completed. -/
theorem memOp_result {i : Instr} {h : Hd} {f : MF} {size : Nat} {one sends noMod : Bool} {f1 : Nat → MAcc → Nat → Nat → MAcc} {s : State}
    {g : Group} {t0 : Nat} {ts : List Nat} {a : MAcc} {l : LL}
    (hl : { newLL i g s.nextId h with
          vec := a.parts, scl := a.scl, need := a.need,
          acq := match i with
            | .lda _ m => m.hint.toNat + 1
            | _ => 0,
          sregs := match i with
            | .ldu _ m => [m.data.toNat]
            | _ => [] } = l)
    (hx : exec i s = memOp i h f size one true sends noMod f1 s) (hr : Runs s g i)
    (hts : (if one then (threads (qualMask g h)).take 1 else threads (qualMask g h)) = t0 :: ts)
    (hm : (!modOk g f size && !noMod) = false) (hlen : g.ll.length < 16) (hc : (sends && decide (g.coal ≠ [])) = false) (hq : acqPending g = false)
    (hre : replayOf s g.lane = none) (ha : memLoop (f1 s.nextId) (t0 :: ts) 0 (loopStart s) = a) (hstop : a.stop = none)
    (hask : a.ask = none) (hlost : a.lost = none) (haw : a.away = none) (hg : groupOf a.s g.id = some g) (hsome : ¬(a.parts = [] ∧ a.scl = [] ∧ a.need = 0)) :
    Does i s (dropGot (enterReqs a.s g a.reqs).1 g.id) g (postInc { (enterReqs a.s g a.reqs).2 with ll := g.ll ++ [l] } f size) (newKey g s.nextId) := by
  have hp := postInc_eq ({ (enterReqs a.s g a.reqs).2 with ll := g.ll ++ [l] } : Group) f size
  have hkey : l.key = s.nextId := by rw [← hl]; rfl
  obtain ⟨ho, hl'⟩ := settled (enterReqs a.s g a.reqs).1 ((enterReqs a.s g a.reqs).2.win.filter (fun h => l.vregs.contains h.reg)) (enterReqs a.s g a.reqs).2
  have hb : (beginLL (enterReqs a.s g a.reqs).1 (enterReqs a.s g a.reqs).2 l).outside =
      ({ (enterReqs a.s g a.reqs).2 with ll := g.ll ++ [l] } : Group).outside := by
    have hf : ∀ x : Group, ({ x with ll := x.ll ++ [l] } : Group).outside = ({ x.outside with ll := x.outside.ll ++ [l] } : Group).outside := fun _ => rfl
    show ({ ((enterReqs a.s g a.reqs).2.win.filter (fun h => l.vregs.contains h.reg)).foldl (settleHeld (enterReqs a.s g a.reqs).1) (enterReqs a.s g a.reqs).2 with
      ll := (((enterReqs a.s g a.reqs).2.win.filter (fun h => l.vregs.contains h.reg)).foldl (settleHeld (enterReqs a.s g a.reqs).1) (enterReqs a.s g a.reqs).2).ll ++ [l] } : Group).outside = _
    rw [hf, ho, ← hf]; rfl
  refine done_group (gk := postInc (beginLL (enterReqs a.s g a.reqs).1 (enterReqs a.s g a.reqs).2 l) f size) hx hr ?_ hg
    (postInc_congr f size hb) ?_ ?_ ?_ ?_ ?_ ?_
  · dsimp only
    rw [hts]
    have hlt : decide (llLimit ≤ g.ll.length) = false := decide_eq_false (by show ¬(16 ≤ g.ll.length); omega)
    simp only [hre, Option.isNone_none, Bool.and_true, memSeed, hm, hc, hq, hlt, takeId, Bool.and_false, Bool.or_false, Bool.false_eq_true, if_false, if_true]
    have e : memLoop (f1 s.nextId) (t0 :: ts) 0 { s := { s with nextId := s.nextId + 1 }, parts := [], scl := [], need := 0, reqs := [], stop := none, lost := none, late := 0, ask := none } = a := ha
    rw [e, hask, hlost, haw]
    simp only [memEnd, memKeep, hstop, hg, haw, ite_self, if_neg hsome]
    rw [← hl]; rfl
  · rw [hp]; rfl
  · rw [hp]; show g.st ≠ _; rw [hr.2.2.1]; decide
  · rw [hp]; rfl
  · rw [hp]; rfl
  · intro n
    rw [postInc_eq]
    exact hl' _ n
  · rw [hp, ← hkey]; exact newKeys_append rfl

/-- The bits of a number from a place up are what lies above it. -/
theorem bits_div (v a b : Nat) (h : v < 2 ^ (a + b)) : bits v a b = v / 2 ^ a := by
  unfold bits
  exact Nat.mod_eq_of_lt (Nat.div_lt_of_lt_mul (by rwa [← Nat.pow_add]))

/-- An address has 57 bits. -/
theorem va_lt (x : W64) : va57 x < 2 ^ 57 := Nat.mod_lt _ (by decide)

/-- A window of the own scratchpad. -/
theorem target_own {addr : W64} (h : addr.toNat % 2 ^ 57 / 2 ^ 48 = 0x1F0) : targetOf (va57 addr) = .own (addr.toNat % 2 ^ 48) := by
  unfold targetOf
  rw [show bits (va57 addr) 48 9 = 0x1F0 from by rw [bits_div _ _ _ (va_lt addr)]; exact h]
  simp only [bits, va57]
  congr 1
  omega

/-- An aligned place in the own scratchpad is found (08 R181, R182). -/
theorem resolve_own {s : State} {g : Group} {t : Nat} {addr : W64} {size : Nat} {acc : Acc} {ad : Admits} {ex : Bool} {team : Team}
    (ht : teamOf s g.team = some team) (hs : ad.scratch = true) (hp : InPad team size addr) :
    resolve s g t addr size acc ad ex = (s, .ok (.pad g.team (addr.toNat % 2 ^ 48))) := by
  have hid : team.id = g.team := by simpa using List.find?_some ht
  unfold resolve
  simp only [target_own hp.1, ht, hs, if_true]
  rw [if_neg (by have := hp.2.1; omega), if_neg (by simpa using hp.2.2), hid]

/-- One turn of the loop over the threads. -/
theorem memLoop_stop_none {f : MAcc → Nat → Nat → MAcc} (t : Nat) (ts : List Nat) (i : Nat) (a : MAcc) (h : a.stop = none) :
    memLoop f (t :: ts) i a = memLoop f ts (i + 1) (f a i t) := by
  rw [memLoop, h]; rfl

/-- A bank that is won changes its core alone. -/
theorem bankTurn_same {s s2 : State} {g : Group} {tm off size i : Nat} {b : Bool} (h : bankTurn s g tm off size b i = some s2) :
    s2 = { s with cores := s2.cores } := by
  unfold bankTurn at h
  split at h
  · simp only [Option.some.injEq] at h; subst h; rfl
  · dsimp only at h
    split at h
    · split at h
      · simp at h
      · split at h
        · simp only [Option.some.injEq] at h; subst h; rfl
        · simp at h
    · split at h
      · simp at h
      · simp only [Option.some.injEq] at h; subst h; rfl

/-- A team changed in what its banks do not depend on is found changed. -/
theorem teamOf_onTeam (s : State) (k j : Nat) (f : Team → Team) (hid : ∀ x, (f x).id = x.id) :
    teamOf (onTeam s k f) j = (teamOf s j).map (fun x => if x.id = k then f x else x) := by
  unfold teamOf onTeam
  simp only [List.find?_map]
  congr 2
  funext x
  by_cases hx : x.id = k <;> simp [hx, hid]

/-- The banks do not depend on what a scratchpad holds. -/
theorem bankTurn_team (s : State) (g : Group) (tm off size : Nat) (b : Bool) (i k : Nat) (f : Team → Team) (hid : ∀ x, (f x).id = x.id)
    (hcore : ∀ x, (f x).core = x.core) :
    bankTurn (onTeam s k f) g tm off size b i = (bankTurn s g tm off size b i).map (fun x => onTeam x k f) := by
  unfold bankTurn
  rw [teamOf_onTeam _ _ _ _ hid]
  cases teamOf s tm with
  | none => rfl
  | some x =>
    have hc : (if x.id = k then f x else x).core = x.core := by split <;> simp [hcore]
    simp only [Option.map_some, hc]
    have e1 : coreAt (onTeam s k f) x.core = coreAt s x.core := rfl
    have e2 : cyclesOf (onTeam s k f) g.cluster = cyclesOf s g.cluster := rfl
    have e3 : ∀ c y ws, rankedBehind (onTeam s k f) x.core c y ws = rankedBehind s x.core c y ws := fun _ _ _ => rfl
    have e4 : ∀ y ws, bankFree (onTeam s k f) x.core y ws b = bankFree s x.core y ws b := fun _ _ => rfl
    simp only [e1, e2, e3, e4]
    split
    · split
      · rfl
      · split <;> rfl
    · split <;> rfl

/-- The same of the banks of some threads' accesses. -/
theorem bankTurns_team (g : Group) (tm size : Nat) (b : Bool) (off : Nat → Nat) (k : Nat) (f : Team → Team) (hid : ∀ x, (f x).id = x.id)
    (hcore : ∀ x, (f x).core = x.core) : ∀ (ts : List Nat) (i : Nat) (s : State),
    bankTurns (onTeam s k f) g tm size b off ts i = (bankTurns s g tm size b off ts i).map (fun x => onTeam x k f) := by
  intro ts
  induction ts with
  | nil => intro i s; rfl
  | cons t ts ih =>
    intro i s
    unfold bankTurns
    rw [bankTurn_team _ _ _ _ _ _ _ _ _ hid hcore]
    cases bankTurn s g tm (off t) size b i with
    | none => rfl
    | some s1 => exact ih (i + 1) s1

/-- An address depends on the registers alone. -/
theorem memAddr_congr {s s' : State} {g : Group} {f : MF} {size : Nat} {d : Bool} {t : Nat} (h : ∀ n, readLine s' g n = readLine s g n) :
    memAddr s' g f size d t = memAddr s g f size d t := by
  unfold memAddr rawAddr readV
  simp only [h]

/-- What a walk gives depends on memory, the contexts and the links. -/
theorem peek_mem {s s' : State} (h1 : s'.mem = s.mem) (h2 : s'.poison = s.poison) (h3 : s'.contexts = s.contexts) (h4 : s'.links = s.links) (h5 : s'.fid = s.fid) (c va : Nat) (acc : Acc) :
    peek s' c va acc = peek s c va acc := by
  simp only [peek, h1, h2, ctxRoot, h3, leafCheck, leafDev, deviceId, reachable, h4, h5]
  rfl

/-- What a line reads as depends on memory, the contexts and the links. -/
theorem readLine_same {s s' : State} (g : Group) (h1 : s'.mem = s.mem) (h2 : s'.poison = s.poison) (h3 : s'.contexts = s.contexts) (h4 : s'.links = s.links) (h5 : s'.fid = s.fid) (n : Nat) :
    readLine s' g n = readLine s g n := by
  exact readLine_congr (fun va acc => peek_mem h1 h2 h3 h4 h5 g.ctx va acc) h1 rfl rfl rfl rfl n

/-- A value in some registers has a word. -/
theorem wordsFrom_ne (r n v : Nat) (h : 1 ≤ n) : wordsFrom r n v ≠ [] := by
  cases n with
  | zero => omega
  | succ n => simp [wordsFrom]

/-- A vector load as a memory instruction. -/
theorem loadOp_eq (i : Instr) (h : Hd) (f : MF) (home : Bool) (ad : Admits) (done : Group → State → State) (s : State) :
    loadOp i h f home ad done s = memOp i h f (szBytes f.sz) h.u true false false (fun key a j t =>
    match s.cur.bind (groupOf s) with
    | none => a.halt
    | some g => loadThread f g home ad .rd (vecRet g h f key) (done g) a j t) s := rfl

/-- Two changes of a team are one. -/
theorem onTeam_twice (s : State) (k : Nat) (f1 f2 : Team → Team) (h : ∀ x, (f1 x).id = x.id) : onTeam (onTeam s k f1) k f2 = onTeam s k (fun x => f2 (f1 x)) := by
  unfold onTeam
  simp only [List.map_map]
  congr 2
  funext x
  simp only [Function.comp]
  by_cases hx : x.id = k
  · simp [hx, h]
  · simp [hx]

/-- One thread's store in the own scratchpad. -/
theorem storeThread_pad {s : State} {g : Group} {f : MF} {team : Team} {mg : Bool} {v : State → Group → Nat → Nat} {a : MAcc} {i t : Nat} {addr : W64}
    (hg : groupOf a.s g.id = some g) (ht : teamOf a.s g.team = some team) (ha : memAddr a.s g f (szBytes f.sz) true t = addr)
    (hp : InPad team (szBytes f.sz) addr) (hb : bankTurn a.s g g.team (addr.toNat % 2 ^ 48) (szBytes f.sz) false i = some s) :
    storeThread f g ⟨true, true⟩ mg v a i t = { a with s := onTeam s g.team (fun x =>
      { x with scratch := memPut x.scratch (addr.toNat % 2 ^ 48) (natLE (szBytes f.sz) (v a.s g t)) }) } := by
  have hacc : accGroup g a = g := by simp [accGroup, hg]
  unfold storeThread
  simp only [hacc, ha, resolve_own (ad := ⟨true, true⟩) (acc := .wr) (ex := false) (t := t) ht rfl hp]
  simp only [storeAt, if_true, padAccess, ne_eq, not_true_eq_false, decide_false, Bool.false_and, Bool.false_eq_true, if_false, hb]

/-- A team whose scratchpad changed. -/
theorem team_scratch {s : State} {k : Nat} {t : Team} (f : Memory → Memory) (h : teamOf s k = some t) :
    teamOf (onTeam s k (fun x => { x with scratch := f x.scratch })) k = some { t with scratch := f t.scratch } := by
  rw [teamOf_onTeam (f := fun x => { x with scratch := f x.scratch }) _ _ _ (fun _ => rfl), h]
  have hk : t.id = k := by simpa using List.find?_some h
  simp [hk]

/-- What is found and read after a turn at the banks. -/
theorem bankTurn_keeps {s s2 : State} {g : Group} {tm off size i : Nat} {b : Bool} (h : bankTurn s g tm off size b i = some s2) :
    (∀ k, teamOf s2 k = teamOf s k) ∧ (∀ k, groupOf s2 k = groupOf s k) ∧ ∀ x n, readLine s2 x n = readLine s x n := by
  rw [bankTurn_same h]
  exact ⟨fun _ => rfl, fun _ => rfl, fun x n => readLine_same x rfl rfl rfl rfl rfl n⟩

/-- A store in the own scratchpad whose threads win their banks. -/
theorem store_threads {s : State} {g : Group} {f : MF} (v : State → Group → Nat → Nat) (val : Nat → Nat)
    (hval : ∀ st : State, (∀ n, readLine st g n = readLine s g n) → ∀ t, v st g t = val t)
    (addr : Nat → W64) (haddr : ∀ st : State, (∀ n, readLine st g n = readLine s g n) → ∀ t, memAddr st g f (szBytes f.sz) true t = addr t) :
    ∀ (ts : List Nat) (i : Nat) (a : MAcc) (s2 : State) (team : Team), a.stop = none → teamOf a.s g.team = some team → groupOf a.s g.id = some g →
    (∀ n, readLine a.s g n = readLine s g n) →
    (∀ t ∈ ts, InPad team (szBytes f.sz) (addr t)) →
    bankTurns a.s g g.team (szBytes f.sz) false (fun t => (addr t).toNat % 2 ^ 48) ts i = some s2 →
    memLoop (fun a j t => storeThread f g ⟨true, true⟩ true v a j t) ts i a =
      { a with s := onTeam s2 g.team (fun x => { x with scratch := ts.foldl (fun m t => memPut m ((addr t).toNat % 2 ^ 48) (natLE (szBytes f.sz) (val t))) x.scratch }) } := by
  intro ts
  induction ts with
  | nil =>
    intro i a s2 team _ _ _ _ _ hb
    obtain rfl : a.s = s2 := by simpa [bankTurns] using hb
    have : onTeam a.s g.team (fun x => { x with scratch := ([] : List Nat).foldl (fun m t => memPut m ((addr t).toNat % 2 ^ 48) (natLE (szBytes f.sz) (val t))) x.scratch }) = a.s := by
      unfold onTeam
      simp
    rw [this]; rfl
  | cons t ts ih =>
    intro i a s2 team hstop hteam hgrp hread hp hb
    unfold bankTurns at hb
    split at hb
    · simp at hb
    · rename_i s1 h1
      obtain ⟨k1, k2, k3⟩ := bankTurn_keeps h1
      rw [memLoop_stop_none _ _ _ _ hstop, storeThread_pad (team := team) hgrp hteam (haddr a.s hread t) (hp t (List.mem_cons_self ..)) h1, hval a.s hread t]
      refine (ih (i + 1) { a with s := onTeam s1 g.team (fun x => { x with scratch := memPut x.scratch ((addr t).toNat % 2 ^ 48) (natLE (szBytes f.sz) (val t)) }) }
        (onTeam s2 g.team (fun x => { x with scratch := memPut x.scratch ((addr t).toNat % 2 ^ 48) (natLE (szBytes f.sz) (val t)) })) _ hstop
        (team_scratch (fun m => memPut m ((addr t).toNat % 2 ^ 48) (natLE (szBytes f.sz) (val t))) ((k1 _).trans hteam)) ((k2 _).trans hgrp)
        (fun n => (readLine_same g rfl rfl rfl rfl rfl n).trans ((k3 g n).trans (hread n)))
        (fun x hx => hp x (List.mem_cons_of_mem _ hx)) ?_).trans ?_
      · dsimp only
        rw [bankTurns_team (f := fun x => { x with scratch := memPut x.scratch ((addr t).toNat % 2 ^ 48) (natLE (szBytes f.sz) (val t)) })
          (hid := fun _ => rfl) (hcore := fun _ => rfl), hb]; rfl
      · dsimp only
        rw [onTeam_twice]
        · rfl
        · intro x; rfl

/-- A load in the own scratchpad whose threads win their banks. -/
theorem load_threads {s : State} {g : Group} {f : MF} {team : Team} (home : Bool) (ret : Nat → Ret) (hscl : ∀ t, (ret t).scl = none)
    (addr : Nat → W64) (haddr : ∀ st : State, (∀ n, readLine st g n = readLine s g n) → ∀ t, memAddr st g f (szBytes f.sz) true t = addr t) :
    ∀ (ts : List Nat) (i : Nat) (a : MAcc) (s2 : State), a.stop = none → teamOf a.s g.team = some team → groupOf a.s g.id = some g →
    (∀ n, readLine a.s g n = readLine s g n) →
    (∀ t ∈ ts, InPad team (szBytes f.sz) (addr t)) →
    bankTurns a.s g g.team (szBytes f.sz) true (fun t => (addr t).toNat % 2 ^ 48) ts i = some s2 →
    memLoop (fun a j t => loadThread f g home ⟨true, true⟩ .rd ret (fun s => s) a j t) ts i a =
      { a with s := s2, parts := a.parts ++ ts.flatMap (fun t => (retParts (ret t) (memBytes team.scratch ((addr t).toNat % 2 ^ 48) (szBytes f.sz))).1) } := by
  intro ts
  induction ts with
  | nil =>
    intro i a s2 _ _ _ _ _ hb
    obtain rfl : a.s = s2 := by simpa [bankTurns] using hb
    simp [memLoop]
  | cons t ts ih =>
    intro i a s2 hstop hteam hgrp hread hp hb
    unfold bankTurns at hb
    split at hb
    · simp at hb
    · rename_i s1 h1
      obtain ⟨k1, k2, k3⟩ := bankTurn_keeps h1
      rw [memLoop_stop_none _ _ _ _ hstop]
      have hst : loadThread f g home ⟨true, true⟩ .rd ret (fun s => s) a i t =
          { a with s := s1, parts := a.parts ++ (retParts (ret t) (memBytes team.scratch ((addr t).toNat % 2 ^ 48) (szBytes f.sz))).1 } := by
        have hacc : accGroup g a = g := by simp [accGroup, hgrp]
        unfold loadThread
        simp only [hacc, haddr a.s hread, resolve_own (ad := ⟨true, true⟩) (acc := .rd) (ex := false) (t := t) hteam rfl (hp t (List.mem_cons_self ..))]
        have hs2 : (retParts (ret t) (memBytes team.scratch ((addr t).toNat % 2 ^ 48) (szBytes f.sz))).2 = [] := by
          simp [retParts, hscl]
        have hteam1 : teamOf s1 g.team = some team := (k1 _).trans hteam
        simp only [loadAt, padAccess, ne_eq, not_true_eq_false, decide_false, Bool.false_and, Bool.false_eq_true, if_false, MAcc.give, padBytes, h1, hteam1, hs2, List.append_nil]
        simp [hstop]
      rw [hst]
      refine (ih (i + 1) { a with s := s1, parts := a.parts ++ (retParts (ret t) (memBytes team.scratch ((addr t).toNat % 2 ^ 48) (szBytes f.sz))).1 } s2
        hstop ((k1 _).trans hteam) ((k2 _).trans hgrp) (fun n => (k3 g n).trans (hread n)) (fun x hx => hp x (List.mem_cons_of_mem _ hx)) hb).trans ?_
      simp [List.append_assoc]

/-- A source depends on what its lines read as. -/
theorem readVs_congr {s s' : State} {g : Group} (h : ∀ n, readLine s' g n = readLine s g n) (r n t : Nat) : readVs s' g r n t = readVs s g r n t := by
  simp only [readVs, readV, h]

/-- An address below the windows is translated. -/
theorem target_xlat {addr : W64} (h : addr.toNat % 2 ^ 57 / 2 ^ 48 < 0x1F0) : targetOf (va57 addr) = .xlat := by
  unfold targetOf
  rw [show bits (va57 addr) 48 9 = addr.toNat % 2 ^ 57 / 2 ^ 48 from bits_div _ _ _ (va_lt addr)]
  generalize addr.toNat % 2 ^ 57 / 2 ^ 48 = p at h
  split
  · omega
  · omega
  · omega
  · rw [if_neg (by omega)]

/-- An aligned address that translates is a place of memory. -/
theorem resolve_dev {s s1 : State} {g : Group} {t : Nat} {addr : W64} {size : Nat} {acc : Acc} {ad : Admits} {ex : Bool} {ph : Phys}
    (hx : addr.toNat % 2 ^ 57 / 2 ^ 48 < 0x1F0) (ha : ex = true ∨ addr.toNat % 2 ^ 57 % size = 0) (ht : translate s g.cluster (some g.core) g.ctx (addr.toNat % 2 ^ 57) acc = (s1, .ok ph)) :
    resolve s g t addr size acc ad ex = (s1, .ok (.dev ph)) := by
  unfold resolve
  simp only [target_xlat hx]
  rw [if_neg]
  · rw [show va57 addr = addr.toNat % 2 ^ 57 from rfl, ht]
  · rcases ha with h | h
    · simp [h]
    · have : va57 addr % size = 0 := h
      simp [this]

/-- What a translation leaves as it was. -/
structure Xl (s t : State) : Prop where
  groups : t.groups = s.groups
  teams : t.teams = s.teams
  nextId : t.nextId = s.nextId
  poison : t.poison = s.poison
  copies : t.copies = s.copies
  owned : t.owned = s.owned
  flight : t.flight = s.flight
  remotes : t.remotes = s.remotes
  cur : t.cur = s.cur
  contexts : t.contexts = s.contexts
  claims : t.claims = s.claims
  wcbs : t.wcbs = s.wcbs
  dirty : t.dirty = s.dirty

/-- Two translations in turn. -/
theorem Xl.trans {a b c : State} (h : Xl a b) (k : Xl b c) : Xl a c :=
  ⟨k.1.trans h.1, k.2.trans h.2, k.3.trans h.3, k.4.trans h.4, k.5.trans h.5, k.6.trans h.6, k.7.trans h.7, k.8.trans h.8, k.9.trans h.9, k.10.trans h.10, k.11.trans h.11, k.12.trans h.12, k.13.trans h.13⟩

/-- No change. -/
theorem Xl.same (s : State) : Xl s s := ⟨rfl, rfl, rfl, rfl, rfl, rfl, rfl, rfl, rfl, rfl, rfl, rfl, rfl⟩

/-- A translation put into the TLBs. -/
theorem xl_tlbPut (s : State) (c : Nat) (k : Option Nat) (e : TlbEnt) : Xl s (tlbPut s c k e) := by
  unfold tlbPut; dsimp only; split <;> exact ⟨rfl, rfl, rfl, rfl, rfl, rfl, rfl, rfl, rfl, rfl, rfl, rfl, rfl⟩

/-- A translation dropped from the TLBs. -/
theorem xl_tlbDrop (s : State) (c : Nat) (k : Option Nat) (e : TlbEnt) : Xl s (tlbDrop s c k e) := by
  unfold tlbDrop; dsimp only; split <;> exact ⟨rfl, rfl, rfl, rfl, rfl, rfl, rfl, rfl, rfl, rfl, rfl, rfl, rfl⟩

/-- A bit of an entry set. -/
theorem xl_setEntBit (s : State) (a b : Nat) : Xl s (setEntBit s a b) := ⟨rfl, rfl, rfl, rfl, rfl, rfl, rfl, rfl, rfl, rfl, rfl, rfl, rfl⟩

/-- What a walk leaves as it was. -/
theorem xl_fillWalk (s : State) (c : Nat) (k : Option Nat) (x va : Nat) (acc : Acc) : Xl s (fillWalk s c k x va acc).1 := by
  unfold fillWalk; dsimp only
  split
  · exact .same _
  · split
    · exact .same _
    · split
      · exact .same _
      · rename_i w _ _ _ _
        refine Xl.trans ?_ (xl_tlbPut _ _ _ _)
        refine Xl.trans (b := if acc.writes then setEntBit (setEntBit s w.at_ 5) w.at_ 6 else setEntBit s w.at_ 5) ?_ ?_
        · split
          · exact (xl_setEntBit _ _ _).trans (xl_setEntBit _ _ _)
          · exact xl_setEntBit _ _ _
        · exact ⟨rfl, rfl, rfl, rfl, rfl, rfl, rfl, rfl, rfl, rfl, rfl, rfl, rfl⟩

/-- What a translation leaves as it was: all but memory, its caches and the TLBs. -/
theorem xl_translate (s : State) (c : Nat) (k : Option Nat) (x va : Nat) (acc : Acc) : Xl s (Machine.translate s c k x va acc).1 := by
  unfold Machine.translate
  split
  · exact .same _
  · split
    · exact xl_fillWalk _ _ _ _ _ _
    · split
      · exact .same _
      · split
        · dsimp only
          split
          · exact (xl_setEntBit _ _ _).trans (xl_tlbPut _ _ _ _)
          · exact (xl_tlbDrop _ _ _ _).trans (xl_fillWalk _ _ _ _ _ _)
        · exact xl_tlbPut _ _ _ _

/-- The own read-modify-writes, before the instruction has any. -/
theorem ownRmw_start (a : MAcc) (g : Group) (pa : Nat) (h : a.reqs = []) : ownRmw g a pa = (ownReqs g).any (fun r => isRmw r && (reqSectors r).contains (pa / 128)) := by
  simp [ownRmw, h]

/-- The read of a sector changes cores alone. -/
theorem sectorRead_frame {s s2 : State} {g : Group} {pa : Nat} {home : Bool} {bs : List Byte} (h : sectorRead s g pa home = some (s2, bs)) :
    s2 = { s with cores := s2.cores } := by
  unfold sectorRead at h
  dsimp only at h
  split at h
  · simp only [Option.some.injEq, Prod.mk.injEq] at h; rw [← h.1]; rfl
  · simp at h
  · split at h
    · simp only [Option.some.injEq, Prod.mk.injEq] at h; rw [← h.1]; split <;> rfl
    · simp only [Option.some.injEq, Prod.mk.injEq] at h; rw [← h.1]; rfl

/-- One thread's load at a device place. -/
theorem loadThread_dev {s s1 s2 : State} {g : Group} {f : MF} {home : Bool} {ad : Admits} {ret : Nat → Ret} {done : State → State} {i t : Nat} {ph : Phys} {bs : List Byte}
    (hr : groupOf s g.id = some g)
    (hp : AtPlace s g .rd (szBytes f.sz) (memAddr s g f (szBytes f.sz) true t) s1 ph) (hd : ph.dev = none)
    (ho : (ownReqs g).any (fun r => isRmw r && (reqSectors r).contains (ph.pa / 128)) = false)
    (hs : sectorRead s1 g ph.pa home = some (s2, bs))
    (hw : (home = false ∧ (l1Find s1 (servingL1 s1 g.core ph.pa) (ph.pa / 128)).isSome) ∨ mustWait s1 g ph.pa = false) :
    loadThread f g home ad .rd ret done (loopStart s) i t =
      { loopStart s with s := done s2, parts := (retParts (ret t) (overlay (storeCells (ownReqs g)) ph.pa ((bs.drop (ph.pa % 128)).take (szBytes f.sz)))).1,
                         scl := (retParts (ret t) (overlay (storeCells (ownReqs g)) ph.pa ((bs.drop (ph.pa % 128)).take (szBytes f.sz)))).2 } := by
  obtain ⟨h1, h2, h3⟩ := hp
  have hacc : accGroup g (loopStart s) = g := by
    have : groupOf (loopStart s).s g.id = some g := hr
    simp [accGroup, this]
  have hma : memAddr (loopStart s).s g f (szBytes f.sz) true t = memAddr s g f (szBytes f.sz) true t := memAddr_congr (fun n => readLine_same g rfl rfl rfl rfl rfl n)
  have h3' : Machine.translate (loopStart s).s g.cluster (some g.core) g.ctx ((memAddr s g f (szBytes f.sz) true t).toNat % 2 ^ 57) .rd = (s1, .ok ph) := h3
  unfold loadThread
  simp only [hacc, hma, resolve_dev (ad := ad) (ex := false) (t := t) h1 (.inr h2) h3']
  have hwait : (!(!home && (l1Find s1 (servingL1 s1 g.core ph.pa) (ph.pa / 128)).isSome) && mustWait s1 g ph.pa) = false := by
    rcases hw with ⟨h, h'⟩ | h
    · simp [h, h']
    · simp [h]
  have hown : ownRmw g { loopStart s with s := s1 } ph.pa = false := by rw [ownRmw_start _ _ _ rfl]; exact ho
  simp only [loadAt, hd, hown, Bool.false_or, hwait, Bool.false_eq_true, if_false, hs, MAcc.give]
  simp [loopStart]

/-- A value gives its result a part. -/
theorem retParts_ne {r : Ret} {bs : List Byte} (h : r.scl.isSome ∨ (1 ≤ r.n ∧ r.ts ≠ [])) : ¬((retParts r bs).1 = [] ∧ (retParts r bs).2 = [] ∧ (0 : Nat) = 0) := by
  rintro ⟨h1, h2, -⟩
  unfold retParts at h1 h2
  cases hs : r.scl with
  | some d => rw [hs] at h2; simp at h2
  | none =>
    rw [hs] at h1 h2
    rcases h with h | ⟨h3, h4⟩
    · rw [hs] at h; simp at h
    · simp only [List.flatMap_eq_nil_iff, List.map_eq_nil_iff] at h1
      exact h4 (h1 _ (List.head_mem (wordsFrom_ne r.line r.n (loadVal r.sz bs) h3)))

/-- A size takes a register. -/
theorem szRegs_pos (sz : BitVec 3) : 1 ≤ szRegs sz := by
  unfold szRegs szBytes
  have : sz.toNat < 8 := sz.isLt
  interval_cases sz.toNat <;> decide

/-- A vector load gives its result a part. -/
theorem vecRet_ne {g : Group} {h : Hd} {f : MF} {one : Bool} {t k : Nat} (hts : accessors g h one = [t]) (bs : List Byte) :
    ¬((retParts (vecRet g h f k t) bs).1 = [] ∧ (retParts (vecRet g h f k t) bs).2 = [] ∧ (0 : Nat) = 0) := by
  refine retParts_ne (.inr ⟨szRegs_pos _, ?_⟩)
  unfold vecRet accessors at *
  dsimp only
  split
  · intro e; rw [e] at hts; split at hts <;> simp at hts
  · simp

/-- Vector loads of one thread. -/
theorem vecLoad {s s1 s2 : State} {g : Group} {h : Hd} {f : MF} {home : Bool} {ad : Admits} {done : Group → State → State} {t : Nat} {ph : Phys} {bs : List Byte} {i : Instr} {l : LL}
    (hdn : ∀ x, (done g x).groups = x.groups)
    (hll : let got := overlay (storeCells (ownReqs g)) ph.pa ((bs.drop (ph.pa % 128)).take (szBytes f.sz))
      l = { newLL i g s.nextId h with vec := (retParts (vecRet g h f s.nextId t) got).1, scl := [], need := 0, acq := (match i with | .lda _ m => m.hint.toNat + 1 | _ => 0), sregs := (match i with | .ldu _ m => [m.data.toNat] | _ => []) })
    (hx : ∀ s, exec i s = loadOp i h f home ad done s) (hr : Runs s g i) (hl : MayLoad s g f) (hts : accessors g h h.u = [t])
    (hp : AtPlace s g .rd (szBytes f.sz) (memAddr s g f (szBytes f.sz) true t) s1 ph) (hd : ph.dev = none)
    (ho : (ownReqs g).any (fun r => isRmw r && (reqSectors r).contains (ph.pa / 128)) = false)
    (hs : sectorRead s1 g ph.pa home = some (s2, bs))
    (hw : (home = false ∧ (l1Find s1 (servingL1 s1 g.core ph.pa) (ph.pa / 128)).isSome) ∨ mustWait s1 g ph.pa = false) :
    Does i s (dropGot (done g s2) g.id) g (postInc { g with ll := g.ll ++ [l] } f (szBytes f.sz)) (newKey g s.nextId) := by
  have hg1 : s1.groups = s.groups := by
    have := (xl_translate { s with nextId := s.nextId + 1 } g.cluster (some g.core) g.ctx ((memAddr s g f (szBytes f.sz) true t).toNat % 2 ^ 57) .rd).groups
    rw [hp.2.2] at this; exact this
  have hg2 : groupOf (done g s2) g.id = some g := by
    have h2 := sectorRead_frame hs
    have : (done g s2).groups = s.groups := by rw [hdn, h2]; exact hg1
    unfold groupOf; rw [this]; exact hr.2.1
  have hloop := loadThread_dev (ad := ad) (ret := vecRet g h f s.nextId) (done := done g) (i := 0) hr.2.1 hp hd ho hs hw
  have hscl : (retParts (vecRet g h f s.nextId t) (overlay (storeCells (ownReqs g)) ph.pa ((bs.drop (ph.pa % 128)).take (szBytes f.sz)))).2 = [] := rfl
  rw [hscl] at hloop
  have := memOp_result (i := i) (s := s) (l := l) (a := { loopStart s with s := done g s2, parts := (retParts (vecRet g h f s.nextId t) (overlay (storeCells (ownReqs g)) ph.pa ((bs.drop (ph.pa % 128)).take (szBytes f.sz)))).1 })
    ?_ ((hx s).trans (loadOp_eq i h f home ad done s)) hr (by unfold accessors at hts; exact hts) (by rw [hl.2.2.2]; rfl) hl.1 rfl hl.2.1 hl.2.2.1 ?_ rfl rfl rfl rfl hg2 ?_
  · have e3 : (enterReqs (done g s2) g []).1 = done g s2 := rfl
    have e4 : (enterReqs (done g s2) g []).2 = g := by simp [enterReqs]
    dsimp only [loopStart] at this
    rw [e3, e4] at this
    exact this
  · rw [hll]; rfl
  · rw [memLoop_stop_none _ _ _ _ rfl, memLoop]
    simp only [hr.1, Option.bind_some, hr.2.1]
    exact hloop
  · exact fun h => vecRet_ne hts _ ⟨h.1, hscl, rfl⟩

/-- The registers of one span. -/
theorem span1 (d n : Nat) : spanRegs [(d, n)] = (List.range n).map (fun k => d + k) := by simp [spanRegs]

/-- Emptying L1 changes no group. -/
theorem l1Clear_groups (s : State) (c : Nat) : (l1Clear s c).groups = s.groups := by
  unfold l1Clear
  generalize l1Portions s c = ks
  induction ks generalizing s with
  | nil => rfl
  | cons k ks ih => rw [List.foldl_cons, ih]; rfl

/-- One request entered behind the windows of a group that has none. -/
theorem enter_one (s : State) (g : Group) (w : Nat) (r : Req) (hc : g.coal = []) : enterReqs s g [(w, r)] =
    ({ s with nextId := s.nextId + 1 }, { g with seq := g.seq + 1, coal := [[{ r with key := s.nextId, seq := g.seq + 1 }]] }) := by
  simp [enterReqs, hc, List.range_succ, List.eraseDups, List.eraseDupsBy, List.eraseDupsBy.loop]

/-- A memory instruction of one thread that enters one request, without a result. -/
theorem sends_one {i : Instr} {h : Hd} {f : MF} {size : Nat} {one : Bool} {f1 : Nat → MAcc → Nat → Nat → MAcc} {s s1 : State} {g : Group} {t w : Nat} {r : Req}
    (hx : exec i s = memOp i h f size one false true false f1 s) (hr : Runs s g i) (hl : MayStore s g f size) (hts : accessors g h one = [t])
    (hg : s1.groups = s.groups) (hloop : f1 s.nextId (loopStart s) 0 t = { loopStart s with s := s1, reqs := [(w, r)] }) :
    Does i s (dropGot { s1 with nextId := s1.nextId + 1 } g.id) g (postInc { g with seq := g.seq + 1, coal := [[{ r with key := s1.nextId, seq := g.seq + 1 }]] } f size) [] := by
  have hg2 : groupOf s1 g.id = some g := by unfold groupOf; rw [hg]; exact hr.2.1
  have := memOp_plain (a := { loopStart s with s := s1, reqs := [(w, r)] }) hx hr (by unfold accessors at hts; exact hts) (by rw [hl.2.2.2]; rfl) (by rw [hl.1]; rfl) hl.2.1 hl.2.2.1 ?_ rfl rfl rfl rfl hg2
  · dsimp only [loopStart] at this
    rw [enter_one _ _ _ _ hl.1] at this
    exact this
  · rw [memLoop_stop_none _ _ _ _ rfl, memLoop, hloop]

/-- The same with a result to come. -/
theorem sends_result {i : Instr} {h : Hd} {f : MF} {size : Nat} {one : Bool} {f1 : Nat → MAcc → Nat → Nat → MAcc} {s s1 : State} {g : Group} {t w : Nat} {r : Req} {l : LL}
    (hll : { newLL i g s.nextId h with vec := [], scl := [], need := 1, acq := (match i with | .lda _ m => m.hint.toNat + 1 | _ => 0), sregs := (match i with | .ldu _ m => [m.data.toNat] | _ => []) } = l)
    (hx : exec i s = memOp i h f size one true true false f1 s) (hr : Runs s g i) (hl : MayStore s g f size) (hlen : g.ll.length < 16) (hts : accessors g h one = [t])
    (hg : s1.groups = s.groups) (hloop : f1 s.nextId (loopStart s) 0 t = { loopStart s with s := s1, reqs := [(w, r)], need := 1 }) :
    Does i s (dropGot { s1 with nextId := s1.nextId + 1 } g.id) g (postInc { g with seq := g.seq + 1, coal := [[{ r with key := s1.nextId, seq := g.seq + 1 }]], ll := g.ll ++ [l] } f size) (newKey g s.nextId) := by
  have hg2 : groupOf s1 g.id = some g := by unfold groupOf; rw [hg]; exact hr.2.1
  have := memOp_result (l := l) (a := { loopStart s with s := s1, reqs := [(w, r)], need := 1 }) hll hx hr (by unfold accessors at hts; exact hts) (by rw [hl.2.2.2]; rfl) hlen (by rw [hl.1]; rfl) hl.2.1 hl.2.2.1 ?_ rfl rfl rfl rfl hg2 (by simp)
  · dsimp only [loopStart] at this
    rw [enter_one _ _ _ _ hl.1] at this
    exact this
  · rw [memLoop_stop_none _ _ _ _ rfl, memLoop, hloop]

/-- A translation changes no group. -/
theorem place_groups {s s1 : State} {g : Group} {acc : Acc} {size : Nat} {addr : W64} {ph : Phys} (hp : AtPlace s g acc size addr s1 ph) : s1.groups = s.groups := by
  have := (xl_translate { s with nextId := s.nextId + 1 } g.cluster (some g.core) g.ctx (addr.toNat % 2 ^ 57) acc).groups
  rw [hp.2.2] at this; exact this

/-- One thread's store to a place of memory. -/
theorem storeThread_dev {s s1 : State} {g : Group} {f : MF} {ad : Admits} {mg : Bool} {v : State → Group → Nat → Nat} {t : Nat} {ph : Phys}
    (hr : groupOf s g.id = some g) (hp : AtPlace s g .wr (szBytes f.sz) (memAddr s g f (szBytes f.sz) true t) s1 ph) :
    storeThread f g ad mg v (loopStart s) 0 t = { loopStart s with s := s1, reqs := [((if mg then 0 else 1000), mkReq s1 g (homeSlice ph.leaf ph.pa) ph.dev (leafPage ph.leaf) (.store (cellsAt ph.pa (szBytes f.sz) (v s1 g t))) (some (va57 (memAddr s g f (szBytes f.sz) true t))) ph.big)] } := by
  have hacc : accGroup g (loopStart s) = g := by
    have : groupOf (loopStart s).s g.id = some g := hr
    simp [accGroup, this]
  have hma : memAddr (loopStart s).s g f (szBytes f.sz) true t = memAddr s g f (szBytes f.sz) true t := memAddr_congr (fun n => readLine_same g rfl rfl rfl rfl rfl n)
  have h3' : Machine.translate (loopStart s).s g.cluster (some g.core) g.ctx ((memAddr s g f (szBytes f.sz) true t).toNat % 2 ^ 57) .wr = (s1, .ok ph) := hp.2.2
  unfold storeThread
  simp only [hacc, hma, resolve_dev (ad := ad) (ex := false) (t := t) hp.1 (.inr hp.2.1) h3']
  simp only [storeAt, loopStart, addReq, cellsAt]
  cases mg <;> simp

end Sys2Proof.Laws
end

