-- ==== Sys2Proof/Laws/Words.lean ====
section
/-! SUPPORT. Fields of a word written as one field after another: what each reading of a field gives (03 R63, R68). -/

namespace Sys2Proof.Laws

theorem ex_lo {n m : Nat} (x : BitVec n) (y : BitVec m) (s l : Nat) (h : s + l ≤ m) : (x ++ y).extractLsb' s l = y.extractLsb' s l := by
  ext i hi
  simp only [BitVec.getElem_extractLsb', BitVec.getLsbD_append]
  rw [if_pos (by omega)]
theorem ex_hi {n m : Nat} (x : BitVec n) (y : BitVec m) (s l : Nat) (h : m ≤ s) : (x ++ y).extractLsb' s l = x.extractLsb' (s - m) l := by
  ext i hi
  simp only [BitVec.getElem_extractLsb', BitVec.getLsbD_append]
  rw [if_neg (by omega)]; congr 1; omega
theorem ex_all {l : Nat} (x : BitVec l) : x.extractLsb' 0 l = x := by
  ext i hi; simp
theorem b_lo {n m : Nat} (x : BitVec n) (y : BitVec m) (s : Nat) (h : s < m) : (x ++ y).getLsbD s = y.getLsbD s := by
  rw [BitVec.getLsbD_append, if_pos h]
theorem b_hi {n m : Nat} (x : BitVec n) (y : BitVec m) (s : Nat) (h : m ≤ s) : (x ++ y).getLsbD s = x.getLsbD (s - m) := by
  rw [BitVec.getLsbD_append, if_neg (by omega)]
theorem b_bool (b : Bool) : (BitVec.ofBool b).getLsbD 0 = b := by cases b <;> rfl
theorem ty_code (t : Ty) : Ty.ofCode (BitVec.ofNat 4 t.code).toNat = t := by cases t <;> rfl
theorem rnd_code (r : Rnd) : Rnd.ofCode (BitVec.ofNat 2 r.code).toNat = r := by cases r <;> rfl

theorem op_of (op : Nat) (h : Hd) (f : Fields) (hop : op < 512) : opOf (encodeHd op h ++ encodeFields f) = op := by
  unfold opOf encodeHd
  simp only [ex_hi _ _ 55 9 (by omega : 46 ≤ 55), ex_hi, ex_all, Nat.reduceSub, Nat.reduceLeDiff, Nat.le_refl]
  simp; omega
theorem hd_of (op : Nat) (h : Hd) (f : Fields) : hdOf (encodeHd op h ++ encodeFields f) = h := by
  unfold hdOf encodeHd
  simp (disch := omega) only [ex_hi, ex_lo, ex_all, b_lo, b_hi, b_bool, Nat.reduceSub]
theorem vf_of (op : Nat) (h : Hd) (f : VF) : vfOf (encodeHd op h ++ encodeFields (.v f)) = f := by
  unfold vfOf encodeFields
  simp (disch := omega) only [ex_hi, ex_lo, ex_all, b_lo, b_hi, b_bool, Nat.reduceSub, ty_code, rnd_code]
theorem if_of (op : Nat) (h : Hd) (f : IF) : ifOf (encodeHd op h ++ encodeFields (.i f)) = f := by
  unfold ifOf encodeFields
  simp (disch := omega) only [ex_hi, ex_lo, ex_all, Nat.reduceSub]
theorem wf_of (op : Nat) (h : Hd) (f : WF) : wfOf (encodeHd op h ++ encodeFields (.w f)) = f := by
  unfold wfOf encodeFields
  simp (disch := omega) only [ex_hi, ex_lo, ex_all, Nat.reduceSub]
theorem mf_of (op : Nat) (h : Hd) (f : MF) : mfOf (encodeHd op h ++ encodeFields (.m f)) = f := by
  unfold mfOf encodeFields
  simp (disch := omega) only [ex_hi, ex_lo, ex_all, Nat.reduceSub]
theorem cf_of (op : Nat) (h : Hd) (f : CF) : cfOf (encodeHd op h ++ encodeFields (.c f)) = f := by
  unfold cfOf encodeFields
  simp (disch := omega) only [ex_hi, ex_lo, ex_all, Nat.reduceSub]
theorem rf_of (op : Nat) (h : Hd) (f : RF) : rfOf (encodeHd op h ++ encodeFields (.r f)) = f := by
  unfold rfOf encodeFields
  simp (disch := omega) only [ex_hi, ex_lo, ex_all, Nat.reduceSub, ty_code]
theorem sf_of (op : Nat) (h : Hd) (f : SF) : sfOf (encodeHd op h ++ encodeFields (.s f)) = f := by
  unfold sfOf encodeFields
  simp (disch := omega) only [ex_hi, ex_lo, ex_all, Nat.reduceSub]
theorem xf_of (op : Nat) (h : Hd) (f : XF) : xfOf (encodeHd op h ++ encodeFields (.x f)) = f := by
  unfold xfOf encodeFields
  simp (disch := omega) only [ex_hi, ex_lo, ex_all, Nat.reduceSub, ty_code]
theorem bf_of (op : Nat) (h : Hd) (f : BF) : bfOf (encodeHd op h ++ encodeFields (.b f)) = f := by
  unfold bfOf encodeFields
  simp (disch := omega) only [ex_hi, ex_lo, ex_all, Nat.reduceSub]
theorem free_w (op : Nat) (h : Hd) (f : WF) : (encodeHd op h ++ encodeFields (.w f)).extractLsb' 32 3 = 0 := by
  unfold encodeFields
  simp (disch := omega) only [ex_hi, ex_lo, ex_all, Nat.reduceSub]
theorem free_r (op : Nat) (h : Hd) (f : RF) : (encodeHd op h ++ encodeFields (.r f)).extractLsb' 11 2 = 0 := by
  unfold encodeFields
  simp (disch := omega) only [ex_hi, ex_lo, ex_all, Nat.reduceSub]

end Sys2Proof.Laws
end

