-- ==== Sys2Proof/Laws/PerInstr.lean ====
section
/-! SUPPORT. The family Encoding, made per instruction: the word of a well-formed instruction decodes to it (03 R63, R68, R71). A step
of another agent has no word. -/

namespace Sys2Proof.Laws.Encoding

/-- The word of an instruction that is well-formed decodes to it. -/
def Statement (i : Instr) : Prop := i.wf = true → ∀ w, encode i = some w → decodeWord w = .ok i

/-- A step that has no word. -/
theorem of_noWord {i : Instr} (h : i.parts = none) : Statement i := fun _ w hw => by simp [encode, h] at hw

/-- An opcode of the map of format V. -/
theorem of_v {op : Nat} {c : Hd → VF → Instr} {i : Instr} {h : Hd} {f : VF} (ho : op < 512)  (hl : vMap.lookup op = some c)
    (hp : i.parts = some (op, h, .v f)) (hc : i.wf = true → c h f = i) : Statement i := by
  intro hw w he
  simp only [encode, hp, Option.map_some, Option.some.injEq] at he
  subst he
  simp [decodeWord, rawDecode, op_of op h _ ho, hd_of, vf_of, pick, hl, Option.map_some, HOrElse.hOrElse, OrElse.orElse, Option.orElse, hc hw, hw]

/-- An opcode of the map of format I. -/
theorem of_i {op : Nat} {c : Hd → IF → Instr} {i : Instr} {h : Hd} {f : IF} (ho : op < 512) (nv : vMap.lookup op = none) (hl : iMap.lookup op = some c)
    (hp : i.parts = some (op, h, .i f)) (hc : i.wf = true → c h f = i) : Statement i := by
  intro hw w he
  simp only [encode, hp, Option.map_some, Option.some.injEq] at he
  subst he
  simp [decodeWord, rawDecode, op_of op h _ ho, hd_of, if_of, pick, nv, hl, Option.map_some, Option.map_none, HOrElse.hOrElse, OrElse.orElse, Option.orElse, hc hw, hw]

/-- An opcode of the map of format W. -/
theorem of_w {op : Nat} {c : Hd → WF → Instr} {i : Instr} {h : Hd} {f : WF} (ho : op < 512) (nv : vMap.lookup op = none) (ni : iMap.lookup op = none) (hl : wMap.lookup op = some c)
    (hp : i.parts = some (op, h, .w f)) (hc : i.wf = true → c h f = i) : Statement i := by
  intro hw w he
  simp only [encode, hp, Option.map_some, Option.some.injEq] at he
  subst he
  simp [decodeWord, rawDecode, op_of op h _ ho, hd_of, wf_of, free_w, pick, nv, ni, hl, Option.map_some, Option.map_none, HOrElse.hOrElse, OrElse.orElse, Option.orElse, hc hw, hw]

/-- An opcode of the map of format M. -/
theorem of_m {op : Nat} {c : Hd → MF → Instr} {i : Instr} {h : Hd} {f : MF} (ho : op < 512) (nv : vMap.lookup op = none) (ni : iMap.lookup op = none) (nw : wMap.lookup op = none) (hl : mMap.lookup op = some c)
    (hp : i.parts = some (op, h, .m f)) (hc : i.wf = true → c h f = i) : Statement i := by
  intro hw w he
  simp only [encode, hp, Option.map_some, Option.some.injEq] at he
  subst he
  simp [decodeWord, rawDecode, op_of op h _ ho, hd_of, mf_of, pick, nv, ni, nw, hl, Option.map_some, Option.map_none, HOrElse.hOrElse, OrElse.orElse, Option.orElse, hc hw, hw]

/-- An opcode of the map of format C. -/
theorem of_c {op : Nat} {c : Hd → CF → Instr} {i : Instr} {h : Hd} {f : CF} (ho : op < 512) (nv : vMap.lookup op = none) (ni : iMap.lookup op = none) (nw : wMap.lookup op = none) (nm : mMap.lookup op = none) (hl : cMap.lookup op = some c)
    (hp : i.parts = some (op, h, .c f)) (hc : i.wf = true → c h f = i) : Statement i := by
  intro hw w he
  simp only [encode, hp, Option.map_some, Option.some.injEq] at he
  subst he
  simp [decodeWord, rawDecode, op_of op h _ ho, hd_of, cf_of, pick, nv, ni, nw, nm, hl, Option.map_some, Option.map_none, HOrElse.hOrElse, OrElse.orElse, Option.orElse, hc hw, hw]

/-- An opcode of the map of format R. -/
theorem of_r {op : Nat} {c : Hd → RF → Instr} {i : Instr} {h : Hd} {f : RF} (ho : op < 512) (nv : vMap.lookup op = none) (ni : iMap.lookup op = none) (nw : wMap.lookup op = none) (nm : mMap.lookup op = none) (nc : cMap.lookup op = none) (hl : rMap.lookup op = some c)
    (hp : i.parts = some (op, h, .r f)) (hc : i.wf = true → c h f = i) : Statement i := by
  intro hw w he
  simp only [encode, hp, Option.map_some, Option.some.injEq] at he
  subst he
  simp [decodeWord, rawDecode, op_of op h _ ho, hd_of, rf_of, free_r, pick, nv, ni, nw, nm, nc, hl, Option.map_some, Option.map_none, HOrElse.hOrElse, OrElse.orElse, Option.orElse, hc hw, hw]

/-- An opcode of the map of format S. -/
theorem of_s {op : Nat} {c : Hd → SF → Instr} {i : Instr} {h : Hd} {f : SF} (ho : op < 512) (nv : vMap.lookup op = none) (ni : iMap.lookup op = none) (nw : wMap.lookup op = none) (nm : mMap.lookup op = none) (nc : cMap.lookup op = none) (nr : rMap.lookup op = none) (hl : sMap.lookup op = some c)
    (hp : i.parts = some (op, h, .s f)) (hc : i.wf = true → c h f = i) : Statement i := by
  intro hw w he
  simp only [encode, hp, Option.map_some, Option.some.injEq] at he
  subst he
  simp [decodeWord, rawDecode, op_of op h _ ho, hd_of, sf_of, pick, nv, ni, nw, nm, nc, nr, hl, Option.map_some, Option.map_none, HOrElse.hOrElse, OrElse.orElse, Option.orElse, hc hw, hw]

/-- An opcode of the map of format X. -/
theorem of_x {op : Nat} {c : Hd → XF → Instr} {i : Instr} {h : Hd} {f : XF} (ho : op < 512) (nv : vMap.lookup op = none) (ni : iMap.lookup op = none) (nw : wMap.lookup op = none) (nm : mMap.lookup op = none) (nc : cMap.lookup op = none) (nr : rMap.lookup op = none) (ns : sMap.lookup op = none) (hl : xMap.lookup op = some c)
    (hp : i.parts = some (op, h, .x f)) (hc : i.wf = true → c h f = i) : Statement i := by
  intro hw w he
  simp only [encode, hp, Option.map_some, Option.some.injEq] at he
  subst he
  simp [decodeWord, rawDecode, op_of op h _ ho, hd_of, xf_of, pick, nv, ni, nw, nm, nc, nr, ns, hl, Option.map_some, Option.map_none, HOrElse.hOrElse, OrElse.orElse, Option.orElse, hc hw, hw]

/-- An opcode of the map of format B. -/
theorem of_b {op : Nat} {c : Hd → BF → Instr} {i : Instr} {h : Hd} {f : BF} (ho : op < 512) (nv : vMap.lookup op = none) (ni : iMap.lookup op = none) (nw : wMap.lookup op = none) (nm : mMap.lookup op = none) (nc : cMap.lookup op = none) (nr : rMap.lookup op = none) (ns : sMap.lookup op = none) (nx : xMap.lookup op = none) (hl : bMap.lookup op = some c)
    (hp : i.parts = some (op, h, .b f)) (hc : i.wf = true → c h f = i) : Statement i := by
  intro hw w he
  simp only [encode, hp, Option.map_some, Option.some.injEq] at he
  subst he
  simp [decodeWord, rawDecode, op_of op h _ ho, hd_of, bf_of, pick, nv, ni, nw, nm, nc, nr, ns, nx, hl, Option.map_some, Option.map_none, HOrElse.hOrElse, OrElse.orElse, Option.orElse, hc hw, hw]

theorem iadd (h : Hd) (f : VF) : Statement (.iadd h f) := of_v (op := 0x000) (by decide) rfl rfl (fun _ => rfl)
theorem isub (h : Hd) (f : VF) : Statement (.isub h f) := of_v (op := 0x001) (by decide) rfl rfl (fun _ => rfl)
theorem iaddc (h : Hd) (f : VF) : Statement (.iaddc h f) := of_v (op := 0x002) (by decide) rfl rfl (fun _ => rfl)
theorem isubb (h : Hd) (f : VF) : Statement (.isubb h f) := of_v (op := 0x003) (by decide) rfl rfl (fun _ => rfl)
theorem imul (h : Hd) (f : VF) : Statement (.imul h f) := of_v (op := 0x004) (by decide) rfl rfl (fun _ => rfl)
theorem imulh (h : Hd) (f : VF) : Statement (.imulh h f) := of_v (op := 0x005) (by decide) rfl rfl (fun _ => rfl)
theorem imad (h : Hd) (f : VF) : Statement (.imad h f) := of_v (op := 0x006) (by decide) rfl rfl (fun _ => rfl)
theorem imadw (h : Hd) (f : VF) : Statement (.imadw h f) := of_v (op := 0x007) (by decide) rfl rfl (fun _ => rfl)
theorem idiv (h : Hd) (f : VF) : Statement (.idiv h f) := of_v (op := 0x008) (by decide) rfl rfl (fun _ => rfl)
theorem irem (h : Hd) (f : VF) : Statement (.irem h f) := of_v (op := 0x009) (by decide) rfl rfl (fun _ => rfl)
theorem ineg (h : Hd) (f : VF) : Statement (.ineg h f) := of_v (op := 0x00A) (by decide) rfl rfl (fun _ => rfl)
theorem iabs (h : Hd) (f : VF) : Statement (.iabs h f) := of_v (op := 0x00B) (by decide) rfl rfl (fun _ => rfl)
theorem imin (h : Hd) (f : VF) : Statement (.imin h f) := of_v (op := 0x00C) (by decide) rfl rfl (fun _ => rfl)
theorem imax (h : Hd) (f : VF) : Statement (.imax h f) := of_v (op := 0x00D) (by decide) rfl rfl (fun _ => rfl)
theorem iclamp (h : Hd) (f : VF) : Statement (.iclamp h f) := of_v (op := 0x00E) (by decide) rfl rfl (fun _ => rfl)
theorem isad (h : Hd) (f : VF) : Statement (.isad h f) := of_v (op := 0x00F) (by decide) rfl rfl (fun _ => rfl)
theorem iand (h : Hd) (f : VF) : Statement (.iand h f) := of_v (op := 0x010) (by decide) rfl rfl (fun _ => rfl)
theorem ior (h : Hd) (f : VF) : Statement (.ior h f) := of_v (op := 0x011) (by decide) rfl rfl (fun _ => rfl)
theorem ixor (h : Hd) (f : VF) : Statement (.ixor h f) := of_v (op := 0x012) (by decide) rfl rfl (fun _ => rfl)
theorem andn (h : Hd) (f : VF) : Statement (.andn h f) := of_v (op := 0x013) (by decide) rfl rfl (fun _ => rfl)
theorem inot (h : Hd) (f : VF) : Statement (.inot h f) := of_v (op := 0x014) (by decide) rfl rfl (fun _ => rfl)
theorem shl (h : Hd) (f : VF) : Statement (.shl h f) := of_v (op := 0x015) (by decide) rfl rfl (fun _ => rfl)
theorem shr (h : Hd) (f : VF) : Statement (.shr h f) := of_v (op := 0x016) (by decide) rfl rfl (fun _ => rfl)
theorem sar (h : Hd) (f : VF) : Statement (.sar h f) := of_v (op := 0x017) (by decide) rfl rfl (fun _ => rfl)
theorem rot (h : Hd) (f : VF) : Statement (.rot h f) := of_v (op := 0x018) (by decide) rfl rfl (fun _ => rfl)
theorem shld (h : Hd) (f : VF) : Statement (.shld h f) := of_v (op := 0x019) (by decide) rfl rfl (fun _ => rfl)
theorem bfx (h : Hd) (f : VF) : Statement (.bfx h f) := of_v (op := 0x01A) (by decide) rfl rfl (fun _ => rfl)
theorem bfi (h : Hd) (f : VF) : Statement (.bfi h f) := of_v (op := 0x01B) (by decide) rfl rfl (fun _ => rfl)
theorem popc (h : Hd) (f : VF) : Statement (.popc h f) := of_v (op := 0x01C) (by decide) rfl rfl (fun _ => rfl)
theorem clz (h : Hd) (f : VF) : Statement (.clz h f) := of_v (op := 0x01D) (by decide) rfl rfl (fun _ => rfl)
theorem ctz (h : Hd) (f : VF) : Statement (.ctz h f) := of_v (op := 0x01E) (by decide) rfl rfl (fun _ => rfl)
theorem brev (h : Hd) (f : VF) : Statement (.brev h f) := of_v (op := 0x01F) (by decide) rfl rfl (fun _ => rfl)
theorem permb (h : Hd) (f : VF) : Statement (.permb h f) := of_v (op := 0x020) (by decide) rfl rfl (fun _ => rfl)
theorem sel (h : Hd) (f : VF) : Statement (.sel h f) := of_v (op := 0x021) (by decide) rfl rfl (fun _ => rfl)
theorem mov (h : Hd) (f : VF) : Statement (.mov h f) := of_v (op := 0x022) (by decide) rfl rfl (fun _ => rfl)
theorem icmp (h : Hd) (f : VF) : Statement (.icmp h f) := of_v (op := 0x023) (by decide) rfl rfl (fun _ => rfl)
theorem iadds (h : Hd) (f : VF) : Statement (.iadds h f) := of_v (op := 0x024) (by decide) rfl rfl (fun _ => rfl)
theorem iaddi (h : Hd) (f : IF) : Statement (.iaddi h f) := of_i (op := 0x028) (by decide) rfl rfl rfl (fun _ => rfl)
theorem andi (h : Hd) (f : IF) : Statement (.andi h f) := of_i (op := 0x029) (by decide) rfl rfl rfl (fun _ => rfl)
theorem ori (h : Hd) (f : IF) : Statement (.ori h f) := of_i (op := 0x02A) (by decide) rfl rfl rfl (fun _ => rfl)
theorem xori (h : Hd) (f : IF) : Statement (.xori h f) := of_i (op := 0x02B) (by decide) rfl rfl rfl (fun _ => rfl)
theorem shli (h : Hd) (f : IF) : Statement (.shli h f) := of_i (op := 0x02C) (by decide) rfl rfl rfl (fun _ => rfl)
theorem shri (h : Hd) (f : IF) : Statement (.shri h f) := of_i (op := 0x02D) (by decide) rfl rfl rfl (fun _ => rfl)
theorem sari (h : Hd) (f : IF) : Statement (.sari h f) := of_i (op := 0x02E) (by decide) rfl rfl rfl (fun _ => rfl)
theorem icmpi (h : Hd) (f : IF) : Statement (.icmpi h f) := of_i (op := 0x02F) (by decide) rfl rfl rfl (fun _ => rfl)
theorem movi (h : Hd) (f : WF) : Statement (.movi h f) := of_w (op := 0x030) (by decide) rfl rfl rfl rfl (fun _ => rfl)
theorem movhi (h : Hd) (f : WF) : Statement (.movhi h f) := of_w (op := 0x031) (by decide) rfl rfl rfl rfl (fun _ => rfl)
theorem fadd (h : Hd) (f : VF) : Statement (.fadd h f) := of_v (op := 0x040) (by decide) rfl rfl (fun _ => rfl)
theorem fsub (h : Hd) (f : VF) : Statement (.fsub h f) := of_v (op := 0x041) (by decide) rfl rfl (fun _ => rfl)
theorem fmul (h : Hd) (f : VF) : Statement (.fmul h f) := of_v (op := 0x042) (by decide) rfl rfl (fun _ => rfl)
theorem ffma (h : Hd) (f : VF) : Statement (.ffma h f) := of_v (op := 0x043) (by decide) rfl rfl (fun _ => rfl)
theorem ffms (h : Hd) (f : VF) : Statement (.ffms h f) := of_v (op := 0x044) (by decide) rfl rfl (fun _ => rfl)
theorem fmin (h : Hd) (f : VF) : Statement (.fmin h f) := of_v (op := 0x045) (by decide) rfl rfl (fun _ => rfl)
theorem fmax (h : Hd) (f : VF) : Statement (.fmax h f) := of_v (op := 0x046) (by decide) rfl rfl (fun _ => rfl)
theorem fminn (h : Hd) (f : VF) : Statement (.fminn h f) := of_v (op := 0x047) (by decide) rfl rfl (fun _ => rfl)
theorem fmaxn (h : Hd) (f : VF) : Statement (.fmaxn h f) := of_v (op := 0x048) (by decide) rfl rfl (fun _ => rfl)
theorem fabs (h : Hd) (f : VF) : Statement (.fabs h f) := of_v (op := 0x049) (by decide) rfl rfl (fun _ => rfl)
theorem fneg (h : Hd) (f : VF) : Statement (.fneg h f) := of_v (op := 0x04A) (by decide) rfl rfl (fun _ => rfl)
theorem fcpys (h : Hd) (f : VF) : Statement (.fcpys h f) := of_v (op := 0x04B) (by decide) rfl rfl (fun _ => rfl)
theorem fcmp (h : Hd) (f : VF) : Statement (.fcmp h f) := of_v (op := 0x04C) (by decide) rfl rfl (fun _ => rfl)
theorem fclass (h : Hd) (f : VF) : Statement (.fclass h f) := of_v (op := 0x04D) (by decide) rfl rfl (fun _ => rfl)
theorem fdiv (h : Hd) (f : VF) : Statement (.fdiv h f) := of_v (op := 0x04E) (by decide) rfl rfl (fun _ => rfl)
theorem fsqrt (h : Hd) (f : VF) : Statement (.fsqrt h f) := of_v (op := 0x04F) (by decide) rfl rfl (fun _ => rfl)
theorem frcp (h : Hd) (f : VF) : Statement (.frcp h f) := of_v (op := 0x050) (by decide) rfl rfl (fun _ => rfl)
theorem frsq (h : Hd) (f : VF) : Statement (.frsq h f) := of_v (op := 0x051) (by decide) rfl rfl (fun _ => rfl)
theorem fexp2 (h : Hd) (f : VF) : Statement (.fexp2 h f) := of_v (op := 0x052) (by decide) rfl rfl (fun _ => rfl)
theorem flog2 (h : Hd) (f : VF) : Statement (.flog2 h f) := of_v (op := 0x053) (by decide) rfl rfl (fun _ => rfl)
theorem fsin (h : Hd) (f : VF) : Statement (.fsin h f) := of_v (op := 0x054) (by decide) rfl rfl (fun _ => rfl)
theorem fcos (h : Hd) (f : VF) : Statement (.fcos h f) := of_v (op := 0x055) (by decide) rfl rfl (fun _ => rfl)
theorem ftanh (h : Hd) (f : VF) : Statement (.ftanh h f) := of_v (op := 0x056) (by decide) rfl rfl (fun _ => rfl)
theorem frnd (h : Hd) (f : VF) : Statement (.frnd h f) := of_v (op := 0x057) (by decide) rfl rfl (fun _ => rfl)
theorem ffrc (h : Hd) (f : VF) : Statement (.ffrc h f) := of_v (op := 0x058) (by decide) rfl rfl (fun _ => rfl)
theorem fscl (h : Hd) (f : VF) : Statement (.fscl h f) := of_v (op := 0x059) (by decide) rfl rfl (fun _ => rfl)
theorem fexpn (h : Hd) (f : VF) : Statement (.fexpn h f) := of_v (op := 0x05A) (by decide) rfl rfl (fun _ => rfl)
theorem hadd2 (h : Hd) (f : VF) : Statement (.hadd2 h f) := of_v (op := 0x060) (by decide) rfl rfl (fun _ => rfl)
theorem hmul2 (h : Hd) (f : VF) : Statement (.hmul2 h f) := of_v (op := 0x061) (by decide) rfl rfl (fun _ => rfl)
theorem hfma2 (h : Hd) (f : VF) : Statement (.hfma2 h f) := of_v (op := 0x062) (by decide) rfl rfl (fun _ => rfl)
theorem hmin2 (h : Hd) (f : VF) : Statement (.hmin2 h f) := of_v (op := 0x063) (by decide) rfl rfl (fun _ => rfl)
theorem hmax2 (h : Hd) (f : VF) : Statement (.hmax2 h f) := of_v (op := 0x064) (by decide) rfl rfl (fun _ => rfl)
theorem dot2h (h : Hd) (f : VF) : Statement (.dot2h h f) := of_v (op := 0x065) (by decide) rfl rfl (fun _ => rfl)
theorem dot4 (h : Hd) (f : VF) : Statement (.dot4 h f) := of_v (op := 0x066) (by decide) rfl rfl (fun _ => rfl)
theorem dot8 (h : Hd) (f : VF) : Statement (.dot8 h f) := of_v (op := 0x067) (by decide) rfl rfl (fun _ => rfl)
theorem cvtff (h : Hd) (f : VF) : Statement (.cvtff h f) := of_v (op := 0x080) (by decide) rfl rfl (fun _ => rfl)
theorem cvtfi (h : Hd) (f : VF) : Statement (.cvtfi h f) := of_v (op := 0x081) (by decide) rfl rfl (fun _ => rfl)
theorem cvtif (h : Hd) (f : VF) : Statement (.cvtif h f) := of_v (op := 0x082) (by decide) rfl rfl (fun _ => rfl)
theorem cvtii (h : Hd) (f : VF) : Statement (.cvtii h f) := of_v (op := 0x083) (by decide) rfl rfl (fun _ => rfl)
theorem pk2 (h : Hd) (f : VF) : Statement (.pk2 h f) := of_v (op := 0x084) (by decide) rfl rfl (fun _ => rfl)
theorem unpk2 (h : Hd) (f : VF) : Statement (.unpk2 h f) := of_v (op := 0x085) (by decide) rfl rfl (fun _ => rfl)
theorem pk4i (h : Hd) (f : VF) : Statement (.pk4i h f) := of_v (op := 0x086) (by decide) rfl rfl (fun _ => rfl)
theorem unpk4i (h : Hd) (f : VF) : Statement (.unpk4i h f) := of_v (op := 0x087) (by decide) rfl rfl (fun _ => rfl)
theorem shpack (h : Hd) (f : VF) : Statement (.shpack h f) := of_v (op := 0x088) (by decide) rfl rfl (fun _ => rfl)
theorem shunpk (h : Hd) (f : VF) : Statement (.shunpk h f) := of_v (op := 0x089) (by decide) rfl rfl (fun _ => rfl)
theorem shfl (h : Hd) (f : VF) : Statement (.shfl h f) := of_v (op := 0x0A0) (by decide) rfl rfl (fun _ => rfl)
theorem shflup (h : Hd) (f : VF) : Statement (.shflup h f) := of_v (op := 0x0A1) (by decide) rfl rfl (fun _ => rfl)
theorem shfldn (h : Hd) (f : VF) : Statement (.shfldn h f) := of_v (op := 0x0A2) (by decide) rfl rfl (fun _ => rfl)
theorem shflx (h : Hd) (f : VF) : Statement (.shflx h f) := of_v (op := 0x0A3) (by decide) rfl rfl (fun _ => rfl)
theorem bcast (h : Hd) (f : VF) : Statement (.bcast h f) := of_v (op := 0x0A4) (by decide) rfl rfl (fun _ => rfl)
theorem voteany (h : Hd) (f : VF) : Statement (.voteany h f) := of_v (op := 0x0A5) (by decide) rfl rfl (fun _ => rfl)
theorem voteall (h : Hd) (f : VF) : Statement (.voteall h f) := of_v (op := 0x0A6) (by decide) rfl rfl (fun _ => rfl)
theorem ballot (h : Hd) (f : VF) : Statement (.ballot h f) := of_v (op := 0x0A7) (by decide) rfl rfl (fun _ => rfl)
theorem matchx (h : Hd) (f : VF) : Statement (.matchx h f) := of_v (op := 0x0A8) (by decide) rfl rfl (fun _ => rfl)
theorem mrank (h : Hd) (f : VF) : Statement (.mrank h f) := of_v (op := 0x0A9) (by decide) rfl rfl (fun _ => rfl)
theorem elect (h : Hd) (f : VF) : Statement (.elect h f) := of_v (op := 0x0AA) (by decide) rfl rfl (fun _ => rfl)
theorem redx (h : Hd) (f : VF) : Statement (.redx h f) := of_v (op := 0x0AB) (by decide) rfl rfl (fun _ => rfl)
theorem scanx (h : Hd) (f : VF) : Statement (.scanx h f) := of_v (op := 0x0AC) (by decide) rfl rfl (fun _ => rfl)
theorem sadd (h : Hd) (f : RF) : Statement (.sadd h f) := of_r (op := 0x0C0) (by decide) rfl rfl rfl rfl rfl rfl rfl (fun _ => rfl)
theorem ssub (h : Hd) (f : RF) : Statement (.ssub h f) := of_r (op := 0x0C1) (by decide) rfl rfl rfl rfl rfl rfl rfl (fun _ => rfl)
theorem smul (h : Hd) (f : RF) : Statement (.smul h f) := of_r (op := 0x0C2) (by decide) rfl rfl rfl rfl rfl rfl rfl (fun _ => rfl)
theorem sand (h : Hd) (f : RF) : Statement (.sand h f) := of_r (op := 0x0C3) (by decide) rfl rfl rfl rfl rfl rfl rfl (fun _ => rfl)
theorem sor (h : Hd) (f : RF) : Statement (.sor h f) := of_r (op := 0x0C4) (by decide) rfl rfl rfl rfl rfl rfl rfl (fun _ => rfl)
theorem sxor (h : Hd) (f : RF) : Statement (.sxor h f) := of_r (op := 0x0C5) (by decide) rfl rfl rfl rfl rfl rfl rfl (fun _ => rfl)
theorem sshl (h : Hd) (f : RF) : Statement (.sshl h f) := of_r (op := 0x0C6) (by decide) rfl rfl rfl rfl rfl rfl rfl (fun _ => rfl)
theorem sshr (h : Hd) (f : RF) : Statement (.sshr h f) := of_r (op := 0x0C7) (by decide) rfl rfl rfl rfl rfl rfl rfl (fun _ => rfl)
theorem scmp (h : Hd) (f : RF) : Statement (.scmp h f) := of_r (op := 0x0C8) (by decide) rfl rfl rfl rfl rfl rfl rfl (fun _ => rfl)
theorem ssel (h : Hd) (f : RF) : Statement (.ssel h f) := of_r (op := 0x0C9) (by decide) rfl rfl rfl rfl rfl rfl rfl (fun _ => rfl)
theorem smov (h : Hd) (f : RF) : Statement (.smov h f) := of_r (op := 0x0CA) (by decide) rfl rfl rfl rfl rfl rfl rfl (fun _ => rfl)
theorem smovi (h : Hd) (f : SF) : Statement (.smovi h f) := of_s (op := 0x0CB) (by decide) rfl rfl rfl rfl rfl rfl rfl rfl (fun _ => rfl)
theorem saddi (h : Hd) (f : SF) : Statement (.saddi h f) := of_s (op := 0x0CC) (by decide) rfl rfl rfl rfl rfl rfl rfl rfl (fun _ => rfl)
theorem rdfirst (h : Hd) (f : RF) : Statement (.rdfirst h f) := of_r (op := 0x0CD) (by decide) rfl rfl rfl rfl rfl rfl rfl (fun _ => rfl)
theorem spopc (h : Hd) (f : RF) : Statement (.spopc h f) := of_r (op := 0x0CE) (by decide) rfl rfl rfl rfl rfl rfl rfl (fun _ => rfl)
theorem sctz (h : Hd) (f : RF) : Statement (.sctz h f) := of_r (op := 0x0CF) (by decide) rfl rfl rfl rfl rfl rfl rfl (fun _ => rfl)
theorem aadd (h : Hd) (f : SF) : Statement (.aadd h f) := of_s (op := 0x0D0) (by decide) rfl rfl rfl rfl rfl rfl rfl rfl (fun _ => rfl)
theorem mset (h : Hd) (f : RF) : Statement (.mset h f) := of_r (op := 0x0D1) (by decide) rfl rfl rfl rfl rfl rfl rfl (fun _ => rfl)
theorem bra (h : Hd) (f : BF) : Statement (.bra h f) := of_b (op := 0x0E0) (by decide) rfl rfl rfl rfl rfl rfl rfl rfl rfl rfl (fun _ => rfl)
theorem brx (h : Hd) (f : RF) : Statement (.brx h f) := of_r (op := 0x0E1) (by decide) rfl rfl rfl rfl rfl rfl rfl (fun _ => rfl)
theorem brd (h : Hd) (f : BF) : Statement (.brd h f) := of_b (op := 0x0E2) (by decide) rfl rfl rfl rfl rfl rfl rfl rfl rfl rfl (fun _ => rfl)
theorem join (h : Hd) (f : BF) : Statement (.join h f) := of_b (op := 0x0E3) (by decide) rfl rfl rfl rfl rfl rfl rfl rfl rfl rfl (fun _ => rfl)
theorem call (h : Hd) (f : BF) : Statement (.call h f) := of_b (op := 0x0E4) (by decide) rfl rfl rfl rfl rfl rfl rfl rfl rfl rfl (fun _ => rfl)
theorem ret (h : Hd) (f : BF) : Statement (.ret h f) := of_b (op := 0x0E5) (by decide) rfl rfl rfl rfl rfl rfl rfl rfl rfl rfl (fun _ => rfl)
theorem exit (h : Hd) (f : BF) : Statement (.exit h f) := of_b (op := 0x0E6) (by decide) rfl rfl rfl rfl rfl rfl rfl rfl rfl rfl (fun _ => rfl)
theorem nop (h : Hd) (f : BF) : Statement (.nop h f) := of_b (op := 0x0E7) (by decide) rfl rfl rfl rfl rfl rfl rfl rfl rfl rfl (fun _ => rfl)
theorem sleep (h : Hd) (f : IF) : Statement (.sleep h f) := of_i (op := 0x0E8) (by decide) rfl rfl rfl (fun _ => rfl)
theorem yield (h : Hd) (f : BF) : Statement (.yield h f) := of_b (op := 0x0E9) (by decide) rfl rfl rfl rfl rfl rfl rfl rfl rfl rfl (fun _ => rfl)
theorem trap (h : Hd) (f : IF) : Statement (.trap h f) := of_i (op := 0x0EA) (by decide) rfl rfl rfl (fun _ => rfl)
theorem tfence (h : Hd) (f : BF) : Statement (.tfence h f) := of_b (op := 0x0EB) (by decide) rfl rfl rfl rfl rfl rfl rfl rfl rfl rfl (fun _ => rfl)
theorem bkpt (h : Hd) (f : IF) : Statement (.bkpt h f) := of_i (op := 0x0EC) (by decide) rfl rfl rfl (fun _ => rfl)
theorem ld (h : Hd) (f : MF) : Statement (.ld h f) := of_m (op := 0x100) (by decide) rfl rfl rfl rfl rfl (fun _ => rfl)
theorem st (h : Hd) (f : MF) : Statement (.st h f) := of_m (op := 0x101) (by decide) rfl rfl rfl rfl rfl (fun _ => rfl)
theorem lda (h : Hd) (f : MF) : Statement (.lda h f) := of_m (op := 0x102) (by decide) rfl rfl rfl rfl rfl (fun _ => rfl)
theorem stl (h : Hd) (f : MF) : Statement (.stl h f) := of_m (op := 0x103) (by decide) rfl rfl rfl rfl rfl (fun _ => rfl)
theorem ldu (h : Hd) (f : MF) : Statement (.ldu h f) := of_m (op := 0x104) (by decide) rfl rfl rfl rfl rfl (fun _ => rfl)
theorem stu (h : Hd) (f : MF) : Statement (.stu h f) := of_m (op := 0x105) (by decide) rfl rfl rfl rfl rfl (fun _ => rfl)
theorem ldnt (h : Hd) (f : MF) : Statement (.ldnt h f) := of_m (op := 0x106) (by decide) rfl rfl rfl rfl rfl (fun _ => rfl)
theorem stnt (h : Hd) (f : MF) : Statement (.stnt h f) := of_m (op := 0x107) (by decide) rfl rfl rfl rfl rfl (fun _ => rfl)
theorem atom (h : Hd) (f : MF) : Statement (.atom h f) := of_m (op := 0x108) (by decide) rfl rfl rfl rfl rfl (fun _ => rfl)
theorem red (h : Hd) (f : MF) : Statement (.red h f) := of_m (op := 0x109) (by decide) rfl rfl rfl rfl rfl (fun _ => rfl)
theorem atomf (h : Hd) (f : MF) : Statement (.atomf h f) := of_m (op := 0x10A) (by decide) rfl rfl rfl rfl rfl (fun _ => rfl)
theorem cas (h : Hd) (f : MF) : Statement (.cas h f) := of_m (op := 0x10B) (by decide) rfl rfl rfl rfl rfl (fun _ => rfl)
theorem ored (h : Hd) (f : MF) : Statement (.ored h f) := of_m (op := 0x10C) (by decide) rfl rfl rfl rfl rfl (fun _ => rfl)
theorem sgath (h : Hd) (f : MF) : Statement (.sgath h f) := of_m (op := 0x10D) (by decide) rfl rfl rfl rfl rfl (fun _ => rfl)
theorem fence (h : Hd) (f : MF) : Statement (.fence h f) := of_m (op := 0x10E) (by decide) rfl rfl rfl rfl rfl (fun _ => rfl)
theorem ifence (h : Hd) (f : MF) : Statement (.ifence h f) := of_m (op := 0x10F) (by decide) rfl rfl rfl rfl rfl (fun _ => rfl)
theorem pref (h : Hd) (f : MF) : Statement (.pref h f) := of_m (op := 0x110) (by decide) rfl rfl rfl rfl rfl (fun _ => rfl)
theorem resid (h : Hd) (f : MF) : Statement (.resid h f) := of_m (op := 0x111) (by decide) rfl rfl rfl rfl rfl (fun _ => rfl)
theorem clean (h : Hd) (f : MF) : Statement (.clean h f) := of_m (op := 0x112) (by decide) rfl rfl rfl rfl rfl (fun _ => rfl)
theorem inval (h : Hd) (f : MF) : Statement (.inval h f) := of_m (op := 0x113) (by decide) rfl rfl rfl rfl rfl (fun _ => rfl)
theorem cpy (h : Hd) (f : CF) : Statement (.cpy h f) := of_c (op := 0x140) (by decide) rfl rfl rfl rfl rfl rfl (fun _ => rfl)
theorem cpym (h : Hd) (f : CF) : Statement (.cpym h f) := of_c (op := 0x141) (by decide) rfl rfl rfl rfl rfl rfl (fun _ => rfl)
theorem cpyg (h : Hd) (f : CF) : Statement (.cpyg h f) := of_c (op := 0x142) (by decide) rfl rfl rfl rfl rfl rfl (fun _ => rfl)
theorem pick_stage {h : Hd} {f : CF} (hw : (Instr.stage h f).wf = true) : (fun h f => if f.fl 0 1 = 0 then Instr.stage h f else Instr.stageInc h f) h f = .stage h f := by
  simp only [Instr.wf, Bool.and_eq_true, decide_eq_true_eq] at hw
  simp [hw.2, CF.fl]
theorem stage (h : Hd) (f : CF) : Statement (.stage h f) := of_c (op := 0x143) (by decide) rfl rfl rfl rfl rfl rfl pick_stage
theorem pick_stageInc {h : Hd} {f : CF} (hw : (Instr.stageInc h f).wf = true) : (fun h f => if f.fl 0 1 = 0 then Instr.stage h f else Instr.stageInc h f) h f = .stageInc h f := by
  simp only [Instr.wf, Bool.and_eq_true, decide_eq_true_eq] at hw
  simp [hw.2, CF.fl]
theorem stageInc (h : Hd) (f : CF) : Statement (.stageInc h f) := of_c (op := 0x143) (by decide) rfl rfl rfl rfl rfl rfl pick_stageInc
theorem tagall (h : Hd) (f : CF) : Statement (.tagall h f) := of_c (op := 0x144) (by decide) rfl rfl rfl rfl rfl rfl (fun _ => rfl)
theorem tagany (h : Hd) (f : CF) : Statement (.tagany h f) := of_c (op := 0x145) (by decide) rfl rfl rfl rfl rfl rfl (fun _ => rfl)
theorem tagff (h : Hd) (f : CF) : Statement (.tagff h f) := of_c (op := 0x146) (by decide) rfl rfl rfl rfl rfl rfl (fun _ => rfl)
theorem tagclr (h : Hd) (f : CF) : Statement (.tagclr h f) := of_c (op := 0x147) (by decide) rfl rfl rfl rfl rfl rfl (fun _ => rfl)
theorem tagrd (h : Hd) (f : CF) : Statement (.tagrd h f) := of_c (op := 0x148) (by decide) rfl rfl rfl rfl rfl rfl (fun _ => rfl)
theorem strmset (h : Hd) (f : CF) : Statement (.strmset h f) := of_c (op := 0x149) (by decide) rfl rfl rfl rfl rfl rfl (fun _ => rfl)
theorem strmgo (h : Hd) (f : CF) : Statement (.strmgo h f) := of_c (op := 0x14A) (by decide) rfl rfl rfl rfl rfl rfl (fun _ => rfl)
theorem strmpop (h : Hd) (f : CF) : Statement (.strmpop h f) := of_c (op := 0x14B) (by decide) rfl rfl rfl rfl rfl rfl (fun _ => rfl)
theorem strmpsh (h : Hd) (f : CF) : Statement (.strmpsh h f) := of_c (op := 0x14C) (by decide) rfl rfl rfl rfl rfl rfl (fun _ => rfl)
theorem strmend (h : Hd) (f : CF) : Statement (.strmend h f) := of_c (op := 0x14D) (by decide) rfl rfl rfl rfl rfl rfl (fun _ => rfl)
theorem pick_qpush {h : Hd} {f : CF} (hw : (Instr.qpush h f).wf = true) : (fun h f => if f.fl 6 1 = 0 then Instr.qpush h f else Instr.qpushClose h f) h f = .qpush h f := by
  simp only [Instr.wf, Bool.and_eq_true, decide_eq_true_eq] at hw
  have hf := hw.1.2
  have : f.fl 6 1 = 0 := by simp only [CF.fl] at hf ⊢; omega
  simp [this]
theorem qpush (h : Hd) (f : CF) : Statement (.qpush h f) := of_c (op := 0x14E) (by decide) rfl rfl rfl rfl rfl rfl pick_qpush
theorem pick_qpushClose {h : Hd} {f : CF} (hw : (Instr.qpushClose h f).wf = true) : (fun h f => if f.fl 6 1 = 0 then Instr.qpush h f else Instr.qpushClose h f) h f = .qpushClose h f := by
  simp only [Instr.wf, Bool.and_eq_true, decide_eq_true_eq] at hw
  simp [hw.2, CF.fl]
theorem qpushClose (h : Hd) (f : CF) : Statement (.qpushClose h f) := of_c (op := 0x14E) (by decide) rfl rfl rfl rfl rfl rfl pick_qpushClose
theorem qpop (h : Hd) (f : CF) : Statement (.qpop h f) := of_c (op := 0x14F) (by decide) rfl rfl rfl rfl rfl rfl (fun _ => rfl)
theorem qtry (h : Hd) (f : CF) : Statement (.qtry h f) := of_c (op := 0x150) (by decide) rfl rfl rfl rfl rfl rfl (fun _ => rfl)
theorem qstat (h : Hd) (f : CF) : Statement (.qstat h f) := of_c (op := 0x151) (by decide) rfl rfl rfl rfl rfl rfl (fun _ => rfl)
theorem pick_glean {h : Hd} {f : CF} (hw : (Instr.glean h f).wf = true) : (fun h f => if f.fl 9 1 = 0 then Instr.glean h f else Instr.gleanDone h f) h f = .glean h f := by
  simp only [Instr.wf, Bool.and_eq_true, decide_eq_true_eq] at hw
  have hf := hw.1.2
  have : f.fl 9 1 = 0 := by simp only [CF.fl] at hf ⊢; omega
  simp [this]
theorem glean (h : Hd) (f : CF) : Statement (.glean h f) := of_c (op := 0x152) (by decide) rfl rfl rfl rfl rfl rfl pick_glean
theorem pick_gleanDone {h : Hd} {f : CF} (hw : (Instr.gleanDone h f).wf = true) : (fun h f => if f.fl 9 1 = 0 then Instr.glean h f else Instr.gleanDone h f) h f = .gleanDone h f := by
  simp only [Instr.wf, Bool.and_eq_true, decide_eq_true_eq] at hw
  have hf := hw.2
  have : f.fl 9 1 = 1 := by simp only [CF.fl] at hf ⊢; omega
  simp [this]
theorem gleanDone (h : Hd) (f : CF) : Statement (.gleanDone h f) := of_c (op := 0x152) (by decide) rfl rfl rfl rfl rfl rfl pick_gleanDone
theorem taskarm (h : Hd) (f : CF) : Statement (.taskarm h f) := of_c (op := 0x153) (by decide) rfl rfl rfl rfl rfl rfl (fun _ => rfl)
theorem taskdec (h : Hd) (f : CF) : Statement (.taskdec h f) := of_c (op := 0x154) (by decide) rfl rfl rfl rfl rfl rfl (fun _ => rfl)
theorem spawn (h : Hd) (f : CF) : Statement (.spawn h f) := of_c (op := 0x155) (by decide) rfl rfl rfl rfl rfl rfl (fun _ => rfl)
theorem pick_binfl {h : Hd} {f : CF} (hw : (Instr.binfl h f).wf = true) : (fun h f => if f.fl 0 1 = 0 then Instr.binfl h f else Instr.binflAll h f) h f = .binfl h f := by
  simp only [Instr.wf, Bool.and_eq_true, decide_eq_true_eq] at hw
  simp [hw.2, CF.fl]
theorem binfl (h : Hd) (f : CF) : Statement (.binfl h f) := of_c (op := 0x156) (by decide) rfl rfl rfl rfl rfl rfl pick_binfl
theorem pick_binflAll {h : Hd} {f : CF} (hw : (Instr.binflAll h f).wf = true) : (fun h f => if f.fl 0 1 = 0 then Instr.binfl h f else Instr.binflAll h f) h f = .binflAll h f := by
  simp only [Instr.wf, Bool.and_eq_true, decide_eq_true_eq] at hw
  simp [hw.2, CF.fl]
theorem binflAll (h : Hd) (f : CF) : Statement (.binflAll h f) := of_c (op := 0x156) (by decide) rfl rfl rfl rfl rfl rfl pick_binflAll
theorem mreq (h : Hd) (f : XF) : Statement (.mreq h f) := of_x (op := 0x160) (by decide) rfl rfl rfl rfl rfl rfl rfl rfl rfl (fun _ => rfl)
theorem reinget (h : Hd) (f : XF) : Statement (.reinget h f) := of_x (op := 0x161) (by decide) rfl rfl rfl rfl rfl rfl rfl rfl rfl (fun _ => rfl)
theorem reinpass (h : Hd) (f : XF) : Statement (.reinpass h f) := of_x (op := 0x162) (by decide) rfl rfl rfl rfl rfl rfl rfl rfl rfl (fun _ => rfl)
theorem pick_reinrel {h : Hd} {f : XF} (hw : (Instr.reinrel h f).wf = true) : (fun h f => if f.xf.getLsbD 0 = false then Instr.reinrel h f else Instr.reinrelKeep h f) h f = .reinrel h f := by
  simp only [Instr.wf, xOnly, xOnlyT, Bool.and_eq_true, decide_eq_true_eq] at hw
  have hf := hw.1.2
  have : f.xf = 0 := by bv_omega
  simp [this]
theorem reinrel (h : Hd) (f : XF) : Statement (.reinrel h f) := of_x (op := 0x163) (by decide) rfl rfl rfl rfl rfl rfl rfl rfl rfl pick_reinrel
theorem pick_reinrelKeep {h : Hd} {f : XF} (hw : (Instr.reinrelKeep h f).wf = true) : (fun h f => if f.xf.getLsbD 0 = false then Instr.reinrel h f else Instr.reinrelKeep h f) h f = .reinrelKeep h f := by
  simp only [Instr.wf, Bool.and_eq_true, decide_eq_true_eq] at hw
  simp [hw.2]
theorem reinrelKeep (h : Hd) (f : XF) : Statement (.reinrelKeep h f) := of_x (op := 0x163) (by decide) rfl rfl rfl rfl rfl rfl rfl rfl rfl pick_reinrelKeep
theorem hfeed (h : Hd) (f : XF) : Statement (.hfeed h f) := of_x (op := 0x164) (by decide) rfl rfl rfl rfl rfl rfl rfl rfl rfl (fun _ => rfl)
theorem hdrain (h : Hd) (f : XF) : Statement (.hdrain h f) := of_x (op := 0x165) (by decide) rfl rfl rfl rfl rfl rfl rfl rfl rfl (fun _ => rfl)
theorem mma (h : Hd) (f : XF) : Statement (.mma h f) := of_x (op := 0x166) (by decide) rfl rfl rfl rfl rfl rfl rfl rfl rfl (fun _ => rfl)
theorem zzero (h : Hd) (f : XF) : Statement (.zzero h f) := of_x (op := 0x167) (by decide) rfl rfl rfl rfl rfl rfl rfl rfl rfl (fun _ => rfl)
theorem zscale (h : Hd) (f : XF) : Statement (.zscale h f) := of_x (op := 0x168) (by decide) rfl rfl rfl rfl rfl rfl rfl rfl rfl (fun _ => rfl)
theorem zadd (h : Hd) (f : XF) : Statement (.zadd h f) := of_x (op := 0x169) (by decide) rfl rfl rfl rfl rfl rfl rfl rfl rfl (fun _ => rfl)
theorem zcvt (h : Hd) (f : XF) : Statement (.zcvt h f) := of_x (op := 0x16A) (by decide) rfl rfl rfl rfl rfl rfl rfl rfl rfl (fun _ => rfl)
theorem zld (h : Hd) (f : XF) : Statement (.zld h f) := of_x (op := 0x16B) (by decide) rfl rfl rfl rfl rfl rfl rfl rfl rfl (fun _ => rfl)
theorem zst (h : Hd) (f : XF) : Statement (.zst h f) := of_x (op := 0x16C) (by decide) rfl rfl rfl rfl rfl rfl rfl rfl rfl (fun _ => rfl)
theorem mwait (h : Hd) (f : XF) : Statement (.mwait h f) := of_x (op := 0x16D) (by decide) rfl rfl rfl rfl rfl rfl rfl rfl rfl (fun _ => rfl)
theorem mstat (h : Hd) (f : XF) : Statement (.mstat h f) := of_x (op := 0x16E) (by decide) rfl rfl rfl rfl rfl rfl rfl rfl rfl (fun _ => rfl)
theorem osbind (h : Hd) (f : XF) : Statement (.osbind h f) := of_x (op := 0x16F) (by decide) rfl rfl rfl rfl rfl rfl rfl rfl rfl (fun _ => rfl)
theorem osflush (h : Hd) (f : XF) : Statement (.osflush h f) := of_x (op := 0x170) (by decide) rfl rfl rfl rfl rfl rfl rfl rfl rfl (fun _ => rfl)
theorem mreset (h : Hd) (f : XF) : Statement (.mreset h f) := of_x (op := 0x171) (by decide) rfl rfl rfl rfl rfl rfl rfl rfl rfl (fun _ => rfl)
theorem treebind (h : Hd) (f : XF) : Statement (.treebind h f) := of_x (op := 0x180) (by decide) rfl rfl rfl rfl rfl rfl rfl rfl rfl (fun _ => rfl)
theorem desc (h : Hd) (f : XF) : Statement (.desc h f) := of_x (op := 0x181) (by decide) rfl rfl rfl rfl rfl rfl rfl rfl rfl (fun _ => rfl)
theorem dstep (h : Hd) (f : XF) : Statement (.dstep h f) := of_x (op := 0x182) (by decide) rfl rfl rfl rfl rfl rfl rfl rfl rfl (fun _ => rfl)
theorem regrp (h : Hd) (f : XF) : Statement (.regrp h f) := of_x (op := 0x183) (by decide) rfl rfl rfl rfl rfl rfl rfl rfl rfl (fun _ => rfl)
theorem qrd (h : Hd) (f : XF) : Statement (.qrd h f) := of_x (op := 0x184) (by decide) rfl rfl rfl rfl rfl rfl rfl rfl rfl (fun _ => rfl)
theorem qwr (h : Hd) (f : XF) : Statement (.qwr h f) := of_x (op := 0x185) (by decide) rfl rfl rfl rfl rfl rfl rfl rfl rfl (fun _ => rfl)
theorem ascend (h : Hd) (f : XF) : Statement (.ascend h f) := of_x (op := 0x186) (by decide) rfl rfl rfl rfl rfl rfl rfl rfl rfl (fun _ => rfl)
theorem naddr (h : Hd) (f : XF) : Statement (.naddr h f) := of_x (op := 0x187) (by decide) rfl rfl rfl rfl rfl rfl rfl rfl rfl (fun _ => rfl)
theorem bari (h : Hd) (f : RF) : Statement (.bari h f) := of_r (op := 0x190) (by decide) rfl rfl rfl rfl rfl rfl rfl (fun _ => rfl)
theorem bara (h : Hd) (f : RF) : Statement (.bara h f) := of_r (op := 0x191) (by decide) rfl rfl rfl rfl rfl rfl rfl (fun _ => rfl)
theorem barw (h : Hd) (f : RF) : Statement (.barw h f) := of_r (op := 0x192) (by decide) rfl rfl rfl rfl rfl rfl rfl (fun _ => rfl)
theorem barexp (h : Hd) (f : RF) : Statement (.barexp h f) := of_r (op := 0x193) (by decide) rfl rfl rfl rfl rfl rfl rfl (fun _ => rfl)
theorem barph (h : Hd) (f : RF) : Statement (.barph h f) := of_r (op := 0x194) (by decide) rfl rfl rfl rfl rfl rfl rfl (fun _ => rfl)
theorem barinv (h : Hd) (f : RF) : Statement (.barinv h f) := of_r (op := 0x195) (by decide) rfl rfl rfl rfl rfl rfl rfl (fun _ => rfl)
theorem pick_gbar {h : Hd} {f : RF} (hw : (Instr.gbar h f).wf = true) : (fun h f => if f.mod.toNat % 4 = 0 then Instr.gbar h f else if f.mod.toNat % 4 = 1 then Instr.gbarInit h f else Instr.gbarFini h f) h f = .gbar h f := by
  simp only [Instr.wf, Bool.and_eq_true, decide_eq_true_eq] at hw
  simp [hw.2]
theorem gbar (h : Hd) (f : RF) : Statement (.gbar h f) := of_r (op := 0x196) (by decide) rfl rfl rfl rfl rfl rfl rfl pick_gbar
theorem pick_gbarInit {h : Hd} {f : RF} (hw : (Instr.gbarInit h f).wf = true) : (fun h f => if f.mod.toNat % 4 = 0 then Instr.gbar h f else if f.mod.toNat % 4 = 1 then Instr.gbarInit h f else Instr.gbarFini h f) h f = .gbarInit h f := by
  simp only [Instr.wf, Bool.and_eq_true, decide_eq_true_eq] at hw
  simp [hw.2]
theorem gbarInit (h : Hd) (f : RF) : Statement (.gbarInit h f) := of_r (op := 0x196) (by decide) rfl rfl rfl rfl rfl rfl rfl pick_gbarInit
theorem pick_gbarFini {h : Hd} {f : RF} (hw : (Instr.gbarFini h f).wf = true) : (fun h f => if f.mod.toNat % 4 = 0 then Instr.gbar h f else if f.mod.toNat % 4 = 1 then Instr.gbarInit h f else Instr.gbarFini h f) h f = .gbarFini h f := by
  simp only [Instr.wf, Bool.and_eq_true, decide_eq_true_eq] at hw
  simp [hw.2]
theorem gbarFini (h : Hd) (f : RF) : Statement (.gbarFini h f) := of_r (op := 0x196) (by decide) rfl rfl rfl rfl rfl rfl rfl pick_gbarFini
theorem strag (h : Hd) (f : RF) : Statement (.strag h f) := of_r (op := 0x197) (by decide) rfl rfl rfl rfl rfl rfl rfl (fun _ => rfl)
theorem sread (h : Hd) (f : RF) : Statement (.sread h f) := of_r (op := 0x1B0) (by decide) rfl rfl rfl rfl rfl rfl rfl (fun _ => rfl)
theorem swrite (h : Hd) (f : RF) : Statement (.swrite h f) := of_r (op := 0x1B1) (by decide) rfl rfl rfl rfl rfl rfl rfl (fun _ => rfl)
theorem pick_rett {h : Hd} {f : RF} (hw : (Instr.rett h f).wf = true) : (fun h f => if f.mod.toNat % 4 = 0 then Instr.rett h f else if f.mod.toNat % 4 = 1 then Instr.rettSkip h f else Instr.rettExit h f) h f = .rett h f := by
  simp only [Instr.wf, Bool.and_eq_true, decide_eq_true_eq] at hw
  simp [hw.2]
theorem rett (h : Hd) (f : RF) : Statement (.rett h f) := of_r (op := 0x1B2) (by decide) rfl rfl rfl rfl rfl rfl rfl pick_rett
theorem pick_rettSkip {h : Hd} {f : RF} (hw : (Instr.rettSkip h f).wf = true) : (fun h f => if f.mod.toNat % 4 = 0 then Instr.rett h f else if f.mod.toNat % 4 = 1 then Instr.rettSkip h f else Instr.rettExit h f) h f = .rettSkip h f := by
  simp only [Instr.wf, Bool.and_eq_true, decide_eq_true_eq] at hw
  simp [hw.2]
theorem rettSkip (h : Hd) (f : RF) : Statement (.rettSkip h f) := of_r (op := 0x1B2) (by decide) rfl rfl rfl rfl rfl rfl rfl pick_rettSkip
theorem pick_rettExit {h : Hd} {f : RF} (hw : (Instr.rettExit h f).wf = true) : (fun h f => if f.mod.toNat % 4 = 0 then Instr.rett h f else if f.mod.toNat % 4 = 1 then Instr.rettSkip h f else Instr.rettExit h f) h f = .rettExit h f := by
  simp only [Instr.wf, Bool.and_eq_true, decide_eq_true_eq] at hw
  simp [hw.2]
theorem rettExit (h : Hd) (f : RF) : Statement (.rettExit h f) := of_r (op := 0x1B2) (by decide) rfl rfl rfl rfl rfl rfl rfl pick_rettExit
theorem pick_leave {h : Hd} {f : RF} (hw : (Instr.leave h f).wf = true) : (fun h f => if f.mod.toNat % 2 = 0 then Instr.leave h f else Instr.leaveRel h f) h f = .leave h f := by
  simp only [Instr.wf, Bool.and_eq_true, decide_eq_true_eq] at hw
  simp [hw.2]
theorem leave (h : Hd) (f : RF) : Statement (.leave h f) := of_r (op := 0x1B3) (by decide) rfl rfl rfl rfl rfl rfl rfl pick_leave
theorem pick_leaveRel {h : Hd} {f : RF} (hw : (Instr.leaveRel h f).wf = true) : (fun h f => if f.mod.toNat % 2 = 0 then Instr.leave h f else Instr.leaveRel h f) h f = .leaveRel h f := by
  simp only [Instr.wf, Bool.and_eq_true, decide_eq_true_eq] at hw
  simp [hw.2]
theorem leaveRel (h : Hd) (f : RF) : Statement (.leaveRel h f) := of_r (op := 0x1B3) (by decide) rfl rfl rfl rfl rfl rfl rfl pick_leaveRel
theorem pwrq (h : Hd) (f : RF) : Statement (.pwrq h f) := of_r (op := 0x1B4) (by decide) rfl rfl rfl rfl rfl rfl rfl (fun _ => rfl)
theorem pick_halt {h : Hd} {f : RF} (hw : (Instr.halt h f).wf = true) : (fun h f => if f.mod.toNat % 2 = 0 then Instr.halt h f else Instr.haltResume h f) h f = .halt h f := by
  simp only [Instr.wf, Bool.and_eq_true, decide_eq_true_eq] at hw
  simp [hw.2]
theorem halt (h : Hd) (f : RF) : Statement (.halt h f) := of_r (op := 0x1B5) (by decide) rfl rfl rfl rfl rfl rfl rfl pick_halt
theorem pick_haltResume {h : Hd} {f : RF} (hw : (Instr.haltResume h f).wf = true) : (fun h f => if f.mod.toNat % 2 = 0 then Instr.halt h f else Instr.haltResume h f) h f = .haltResume h f := by
  simp only [Instr.wf, Bool.and_eq_true, decide_eq_true_eq] at hw
  simp [hw.2]
theorem haltResume (h : Hd) (f : RF) : Statement (.haltResume h f) := of_r (op := 0x1B5) (by decide) rfl rfl rfl rfl rfl rfl rfl pick_haltResume
theorem dbgdrain (h : Hd) (f : RF) : Statement (.dbgdrain h f) := of_r (op := 0x1B6) (by decide) rfl rfl rfl rfl rfl rfl rfl (fun _ => rfl)
theorem pick_tlbinvVa {h : Hd} {f : RF} (hw : (Instr.tlbinvVa h f).wf = true) : (fun h f => if f.mod.toNat % 4 = 0 then Instr.tlbinvVa h f else if f.mod.toNat % 4 = 1 then Instr.tlbinvRange h f else if f.mod.toNat % 4 = 2 then Instr.tlbinvCtx h f else Instr.tlbinvAll h f) h f = .tlbinvVa h f := by
  simp only [Instr.wf, Bool.and_eq_true, decide_eq_true_eq] at hw
  simp [hw.2]
theorem tlbinvVa (h : Hd) (f : RF) : Statement (.tlbinvVa h f) := of_r (op := 0x1B7) (by decide) rfl rfl rfl rfl rfl rfl rfl pick_tlbinvVa
theorem pick_tlbinvRange {h : Hd} {f : RF} (hw : (Instr.tlbinvRange h f).wf = true) : (fun h f => if f.mod.toNat % 4 = 0 then Instr.tlbinvVa h f else if f.mod.toNat % 4 = 1 then Instr.tlbinvRange h f else if f.mod.toNat % 4 = 2 then Instr.tlbinvCtx h f else Instr.tlbinvAll h f) h f = .tlbinvRange h f := by
  simp only [Instr.wf, Bool.and_eq_true, decide_eq_true_eq] at hw
  simp [hw.2]
theorem tlbinvRange (h : Hd) (f : RF) : Statement (.tlbinvRange h f) := of_r (op := 0x1B7) (by decide) rfl rfl rfl rfl rfl rfl rfl pick_tlbinvRange
theorem pick_tlbinvCtx {h : Hd} {f : RF} (hw : (Instr.tlbinvCtx h f).wf = true) : (fun h f => if f.mod.toNat % 4 = 0 then Instr.tlbinvVa h f else if f.mod.toNat % 4 = 1 then Instr.tlbinvRange h f else if f.mod.toNat % 4 = 2 then Instr.tlbinvCtx h f else Instr.tlbinvAll h f) h f = .tlbinvCtx h f := by
  simp only [Instr.wf, Bool.and_eq_true, decide_eq_true_eq] at hw
  simp [hw.2]
theorem tlbinvCtx (h : Hd) (f : RF) : Statement (.tlbinvCtx h f) := of_r (op := 0x1B7) (by decide) rfl rfl rfl rfl rfl rfl rfl pick_tlbinvCtx
theorem pick_tlbinvAll {h : Hd} {f : RF} (hw : (Instr.tlbinvAll h f).wf = true) : (fun h f => if f.mod.toNat % 4 = 0 then Instr.tlbinvVa h f else if f.mod.toNat % 4 = 1 then Instr.tlbinvRange h f else if f.mod.toNat % 4 = 2 then Instr.tlbinvCtx h f else Instr.tlbinvAll h f) h f = .tlbinvAll h f := by
  simp only [Instr.wf, Bool.and_eq_true, decide_eq_true_eq] at hw
  simp [hw.2]
theorem tlbinvAll (h : Hd) (f : RF) : Statement (.tlbinvAll h f) := of_r (op := 0x1B7) (by decide) rfl rfl rfl rfl rfl rfl rfl pick_tlbinvAll
theorem create (ctx : Nat) : Statement (.create ctx) := of_noWord rfl
theorem start (ctx : Nat) : Statement (.start ctx) := of_noWord rfl
theorem suspend (ctx : Nat) : Statement (.suspend ctx) := of_noWord rfl
theorem resume (ctx : Nat) : Statement (.resume ctx) := of_noWord rfl
theorem teardown (ctx : Nat) : Statement (.teardown ctx) := of_noWord rfl
theorem grant (ctx : Nat) : Statement (.grant ctx) := of_noWord rfl
theorem teardownComplete (ctx : Nat) : Statement (.teardownComplete ctx) := of_noWord rfl
theorem ldoor (ctx : Nat) (n : Nat) : Statement (.ldoor ctx n) := of_noWord rfl
theorem evpendClear (ctx : Nat) (ones : W64) : Statement (.evpendClear ctx ones) := of_noWord rfl
theorem registerWrite (off : Nat) (val : W64) : Statement (.registerWrite off val) := of_noWord rfl
theorem hostSlowWrite (off : Nat) (bytes : List (Option Byte)) : Statement (.hostSlowWrite off bytes) := of_noWord rfl
theorem hostSlowRead (off : Nat) (len : Nat) : Statement (.hostSlowRead off len) := of_noWord rfl
theorem unsupportedRequest (tag : Nat) : Statement (.unsupportedRequest tag) := of_noWord rfl
theorem linktrain  : Statement (.linktrain) := of_noWord rfl
theorem linkretrain  : Statement (.linkretrain) := of_noWord rfl
theorem linkrel  : Statement (.linkrel) := of_noWord rfl
theorem setfid  : Statement (.setfid) := of_noWord rfl
theorem attest  : Statement (.attest) := of_noWord rfl
theorem update  : Statement (.update) := of_noWord rfl
theorem reset (o : List StartOutcome) : Statement (.reset o) := of_noWord rfl
theorem powerOn (o : List StartOutcome) : Statement (.powerOn o) := of_noWord rfl
theorem startTimeout (o : List StartOutcome) : Statement (.startTimeout o) := of_noWord rfl
theorem launchPop (ctx : Nat) : Statement (.launchPop ctx) := of_noWord rfl
theorem teamPlace (launch : Nat) : Statement (.teamPlace launch) := of_noWord rfl
theorem spanPlace (launch : Nat) : Statement (.spanPlace launch) := of_noWord rfl
theorem groupCreate (gid : Nat) : Statement (.groupCreate gid) := of_noWord rfl
theorem copyPlanIssue (team : Nat) : Statement (.copyPlanIssue team) := of_noWord rfl
theorem laneChoose (lane : Nat) : Statement (.laneChoose lane) := of_noWord rfl
theorem headerWaitMet (gid : Nat) : Statement (.headerWaitMet gid) := of_noWord rfl
theorem regcacheFill (gid : Nat) (reg : Nat) : Statement (.regcacheFill gid reg) := of_noWord rfl
theorem bankReplay (lane : Nat) : Statement (.bankReplay lane) := of_noWord rfl
theorem longLatencyResult (gid : Nat) (key : Nat) : Statement (.longLatencyResult gid key) := of_noWord rfl
theorem groupRetire (gid : Nat) : Statement (.groupRetire gid) := of_noWord rfl
theorem teamRetire (team : Nat) : Statement (.teamRetire team) := of_noWord rfl
theorem launchComplete (launch : Nat) : Statement (.launchComplete launch) := of_noWord rfl
theorem coalesceWindowClose (gid : Nat) : Statement (.coalesceWindowClose gid) := of_noWord rfl
theorem storeArriveHome (key : Nat) : Statement (.storeArriveHome key) := of_noWord rfl
theorem wcbDrain (line : Nat) : Statement (.wcbDrain line) := of_noWord rfl
theorem l1SectorExpire (core : Nat) (sector : Nat) : Statement (.l1SectorExpire core sector) := of_noWord rfl
theorem sliceAtomic (key : Nat) : Statement (.sliceAtomic key) := of_noWord rfl
theorem oredContribution (key : Nat) : Statement (.oredContribution key) := of_noWord rfl
theorem uncorrectableError (pa : Nat) : Statement (.uncorrectableError pa) := of_noWord rfl
theorem pageWalk (core : Nat) (ctx : Nat) (va : W64) (write : Bool) : Statement (.pageWalk core ctx va write) := of_noWord rfl
theorem tlbinvComplete (gid : Nat) : Statement (.tlbinvComplete gid) := of_noWord rfl
theorem queueAccept (gid : Nat) : Statement (.queueAccept gid) := of_noWord rfl
theorem claimResult (gid : Nat) : Statement (.claimResult gid) := of_noWord rfl
theorem taskPush (key : Nat) : Statement (.taskPush key) := of_noWord rfl
theorem copyStart (cluster : Nat) : Statement (.copyStart cluster) := of_noWord rfl
theorem copyDelivery (copy : Nat) (team : Nat) : Statement (.copyDelivery copy team) := of_noWord rfl
theorem copyComplete (copy : Nat) : Statement (.copyComplete copy) := of_noWord rfl
theorem copyFail (copy : Nat) (row : Nat) (cause : Nat) : Statement (.copyFail copy row cause) := of_noWord rfl
theorem streamElement (core : Nat) (slot : Nat) : Statement (.streamElement core slot) := of_noWord rfl
theorem tileAcquire (cluster : Nat) (entry : Nat) : Statement (.tileAcquire cluster entry) := of_noWord rfl
theorem reinGrant (cluster : Nat) : Statement (.reinGrant cluster) := of_noWord rfl
theorem engineCommand (cluster : Nat) : Statement (.engineCommand cluster) := of_noWord rfl
theorem passStart (cluster : Nat) : Statement (.passStart cluster) := of_noWord rfl
theorem commandRetire (cluster : Nat) : Statement (.commandRetire cluster) := of_noWord rfl
theorem hfeedAppend (gid : Nat) : Statement (.hfeedAppend gid) := of_noWord rfl
theorem ascendUpdate (cluster : Nat) : Statement (.ascendUpdate cluster) := of_noWord rfl
theorem engineResetComplete (cluster : Nat) : Statement (.engineResetComplete cluster) := of_noWord rfl
theorem binTimerExpire (cluster : Nat) (bin : Nat) : Statement (.binTimerExpire cluster bin) := of_noWord rfl
theorem sleepWake (gid : Nat) : Statement (.sleepWake gid) := of_noWord rfl
theorem budgetExhausted (gid : Nat) : Statement (.budgetExhausted gid) := of_noWord rfl
theorem trapEntry (gid : Nat) : Statement (.trapEntry gid) := of_noWord rfl
theorem notifyActivation (ctx : Nat) : Statement (.notifyActivation ctx) := of_noWord rfl
theorem gbarCombine (key : Nat) : Statement (.gbarCombine key) := of_noWord rfl
theorem gbarArrival (key : Nat) : Statement (.gbarArrival key) := of_noWord rfl
theorem slewAdmit  : Statement (.slewAdmit) := of_noWord rfl
theorem preemptWaitExpire (launch : Nat) : Statement (.preemptWaitExpire launch) := of_noWord rfl
theorem groupSave (gid : Nat) : Statement (.groupSave gid) := of_noWord rfl
theorem ptoExpire (team : Nat) : Statement (.ptoExpire team) := of_noWord rfl
theorem teamSave (team : Nat) : Statement (.teamSave team) := of_noWord rfl
theorem teamRestore (team : Nat) : Statement (.teamRestore team) := of_noWord rfl
theorem policyStep  : Statement (.policyStep) := of_noWord rfl
theorem voltageRampEnd (cluster : Nat) : Statement (.voltageRampEnd cluster) := of_noWord rfl
theorem frequencySwitchEnd (cluster : Nat) : Statement (.frequencySwitchEnd cluster) := of_noWord rfl
theorem leaveGrant (cluster : Nat) : Statement (.leaveGrant cluster) := of_noWord rfl
theorem droopDetect (cluster : Nat) : Statement (.droopDetect cluster) := of_noWord rfl
theorem droopEnd (cluster : Nat) : Statement (.droopEnd cluster) := of_noWord rfl
theorem linkLock (link : Nat) (lanes : Nat) (peer : Nat) (peerLink : Nat) : Statement (.linkLock link lanes peer peerLink) := of_noWord rfl
theorem linkTrainingTimeout (link : Nat) : Statement (.linkTrainingTimeout link) := of_noWord rfl
theorem linkLaneLoss (link : Nat) (left : Nat) : Statement (.linkLaneLoss link left) := of_noWord rfl
theorem linkPeerReset (link : Nat) : Statement (.linkPeerReset link) := of_noWord rfl
theorem linkReplayLimit (link : Nat) : Statement (.linkReplayLimit link) := of_noWord rfl
theorem flitReceive (link : Nat) (seq : Nat) (crcOk : Bool) (payload : Payload) : Statement (.flitReceive link seq crcOk payload) := of_noWord rfl
theorem flitNak (link : Nat) (seq : Nat) : Statement (.flitNak link seq) := of_noWord rfl
theorem flitAck (link : Nat) (seq : Nat) : Statement (.flitAck link seq) := of_noWord rfl
theorem undervolt (pool : Nat) (mv : Nat) : Statement (.undervolt pool mv) := of_noWord rfl
theorem regrpComplete (gid : Nat) : Statement (.regrpComplete gid) := of_noWord rfl

end Sys2Proof.Laws.Encoding
end

