-- ==== Sys2Proof/Tests/Slice0.lean ====
section
/-! SUPPORT. Tests of the model: terms that WellFormed refuses, words that decode to their instructions, single steps, and for every
statement with hypotheses a state and operands that meet them. -/

namespace Sys2Proof.Tests
open Sys2Proof.Machine Sys2Proof.Claims

/-! ### A small machine -/

/-- A group of 64 threads that runs on lane 0. -/
def tg : Group := soloGroup State.reset 3 1 2 0
/-- The machine in which a group has the turn: one context, one launch, one team, memory mapped to itself. -/
def tst (g : Group) : State := { placeWord State.reset 0 with groups := [g], cur := some g.id, agenda := [] }
/-- The common fields with every active thread qualifying, and the fields of the formats. -/
def hd : Hd := ⟨0, false, 7, false⟩
@[inherit_doc hd] def vf (t : Ty) : VF := ⟨2, 4, 6, false, false, t, .rne, false, 0⟩
@[inherit_doc hd] def rf (d a b : BitVec 11) (m : BitVec 7) : RF := ⟨d, a, b, .u8, m⟩
@[inherit_doc hd] def b0 : BF := ⟨0, 0⟩
@[inherit_doc hd] def mf (sz : BitVec 3) (off : BitVec 8) : MF := ⟨2, 1, 0x7FF, 15, 0, sz, 0, off⟩
@[inherit_doc hd] def cf (sdesc : BitVec 6) (flags : BitVec 14) : CF := ⟨0, sdesc, 0, 0, 0, flags⟩
@[inherit_doc hd] def xf (x : BitVec 24) : XF := ⟨0, 0, 0, .u8, 0, x⟩

theorem runs_tst {g : Group} {i : Instr} (h : g.st = .running) (hp : preFault (tst g) g i = none) : Runs (tst g) g i :=
  ⟨rfl, by simp [tst, groupOf], h, hp⟩

/-- A machine made from the small one by a change that keeps its groups runs the same. -/
theorem runs_of {s : State} {g : Group} {i : Instr} (hc : s.cur = some g.id) (hs : s.groups = [g]) (h : g.st = .running)
    (hp : preFault s g i = none) : Runs s g i := ⟨hc, by simp [groupOf, hs], h, hp⟩

/-- The machine with a link to device 5, whose memory the second 512 MiB of the context's addresses are. -/
def tstFar (g : Group) : State :=
  let s := tst g
  { s with mem := memPut s.mem 0x30008 (natLE 8 0x058000000000007F), fid := 1,
           links := s.links.set 0 { Link.down with st := 2, lanes := 8, peer := 5 } }

/-! ### Witnesses: compute -/

theorem wit_IntegerResults : Runs (tst tg) tg (.iadd hd (vf .s32)) ∧ Runs (tst tg) tg (.idiv hd (vf .u32)) :=
  ⟨runs_tst rfl (by decide), runs_tst rfl (by decide)⟩
theorem wit_BitsAndCompares : Runs (tst tg) tg (.shl hd (vf .u32)) ∧ Runs (tst tg) tg (.icmpi hd ⟨0, 4, 0x500000⟩) :=
  ⟨runs_tst rfl (by decide), runs_tst rfl (by decide)⟩
theorem wit_FloatResults : Runs (tst tg) tg (.ffma hd (vf .f32)) ∧ Runs (tst tg) tg (.hadd2 hd (vf .f16)) :=
  ⟨runs_tst rfl (by decide), runs_tst rfl (by decide)⟩
theorem wit_Conversions : Runs (tst tg) tg (.cvtif hd ⟨2, 4, 0, false, false, .f32, .rne, false, 5⟩) := runs_tst rfl (by decide)
theorem wit_CrossThreadResults : Runs (tst tg) tg (.shfl hd (vf .u32)) ∧ Runs (tst tg) tg (.redx hd ⟨2, 4, 0, false, false, .u32, .rne, false, 0⟩) :=
  ⟨runs_tst rfl (by decide), runs_tst rfl (by decide)⟩

/-- A result of a long-latency instruction whose parts have all come. -/
def ll0 (k : Nat) : LL := ⟨k, 0, 0, [], [5], none, [], [(5, 7)], false, 0, 0, false, none, false, 0, none⟩
/-- The group with sixteen results outstanding. -/
def tg16 : Group := { tg with ll := (List.range 16).map ll0 }

theorem wit_LongLatencyResults : Runs (tst tg) tg (.fdiv hd (vf .f32)) ∧ tg.ll.length < 16 ∧ Runs (tst tg16) tg16 (.fdiv hd (vf .f32)) ∧
    16 ≤ tg16.ll.length ∧ groupOf (tst tg16) 3 = some tg16 ∧ tg16.ll.find? (fun x => decide (x.key = 0)) = some (ll0 0) ∧ (ll0 0).need = 0 ∧
    (ll0 0).exact = none ∧ switchHolds (tst tg16) tg16 = false := by
  constructorm* _ ∧ _ <;> first | decide | rfl | exact runs_tst rfl (by decide)
theorem wit_ScalarSpace : Runs (tst tg) tg (.sadd hd ⟨1, 2, 3, .u64, 0⟩) ∧ Runs (tst tg) tg (.aadd hd ⟨65, 66, 0xF00001⟩) ∧
    wideActs tg hd = true ∧ Runs (tst tg) tg (.aadd hd ⟨65, 66, 0x100001⟩) ∧ tg.mL.getD 1 0 = 0 ∧ tg.s.length = 64 ∧ tg.p.length = 7 := by
  constructorm* _ ∧ _ <;> first | decide | exact runs_tst rfl (by decide)

/-- The group with a call, or an entry to reconverge at, on its stack, and with a full one. -/
def tgCall : Group := { tg with stack := [⟨3, 0x40000, 2⟩] }
@[inherit_doc tgCall] def tgRec : Group := { tg with stack := [⟨3, 0x40000, 0⟩, ⟨0, 0, 1⟩] }
@[inherit_doc tgCall] def tgFull : Group := { tg with stack := List.replicate 16 ⟨0, 0, 0⟩ }

theorem wit_ControlTransfers_call : Runs (tst tg) tg (.call hd b0) ∧ tg.stack.length < 16 ∧ Runs (tst tgFull) tgFull (.call hd b0) ∧
    16 ≤ tgFull.stack.length ∧ Runs (tst tgCall) tgCall (.ret hd b0) ∧ fromTop tgCall = ⟨3, 0x40000, 2⟩ :: [] ∧
    Runs (tst tgRec) tgRec (.ret hd b0) ∧ fromTop tgRec = ⟨0, 0, 1⟩ :: [⟨3, 0x40000, 0⟩] ∧ Runs (tst tg) tg (.ret hd b0) ∧ tg.stack = [] := by
  constructorm* _ ∧ _ <;> first | decide | rfl | exact runs_tst rfl (by decide)
/-- The group with two threads chosen by p0. -/
def tgP : Group := { tg with p := [5, 0, 0, 0, 0, 0, 0] }
theorem wit_ControlTransfers_brd : Runs (tst tg) tg (.brd hd ⟨4, 8⟩) ∧ condMask tg hd = tg.active ∧ Runs (tst tg) tg (.brd ⟨0, false, 7, true⟩ ⟨4, 8⟩) ∧
    condMask tg ⟨0, false, 7, true⟩ = 0 ∧ Runs (tst tgP) tgP (.brd ⟨0, false, 0, false⟩ ⟨4, 8⟩) ∧
    condMask tgP ⟨0, false, 0, false⟩ = 5 ∧ Runs (tst tgFull) tgFull (.brd hd ⟨4, 8⟩) := by
  constructorm* _ ∧ _ <;> first | decide | exact runs_tst rfl (by decide)
theorem wit_ControlTransfers_join : Runs (tst tgRec) tgRec (.join hd b0) ∧ fromTop tgRec = [⟨0, 0, 1⟩] ++ ⟨3, 0x40000, 0⟩ :: [] ∧
    Runs (tst tgCall) tgCall (.join hd b0) ∧ fromTop tgCall = [] ++ ⟨3, 0x40000, 2⟩ :: [] ∧ Runs (tst tgFull) tgFull (.join hd b0) ∧
    (∀ x ∈ tgFull.stack, x.mask = 0 ∧ x.kind ≠ 2) ∧ Runs (tst tg) tg (.exit hd b0) ∧
    Runs (tst { tgRec with active := 1 }) { tgRec with active := 1 } (.exit hd b0) ∧
    (fromTop { tgRec with active := 1 }).map (CEnt.less { tgRec with active := 1 }) = [⟨0, 0, 1⟩] ++ ⟨2, 0x40000, 0⟩ :: [] := by
  constructorm* _ ∧ _ <;> first | decide | rfl | exact runs_tst rfl (by decide)
theorem wit_ControlTransfers_sleep : Runs (tst tg) tg (.nop hd b0) ∧ Runs (tst tg) tg (.sleep hd ⟨0, 0, 1⟩) ∧ Runs (tst tg) tg (.sleep hd ⟨0, 0, 0⟩) ∧
    Runs (tst tg) tg (.yield hd b0) ∧ wideActs tg hd = true := by
  constructorm* _ ∧ _ <;> first | decide | exact runs_tst rfl (by decide)

/-! ### Witnesses: memory -/

/-- The fields of a fence, and of a hint or a line instruction. -/
def ff (parts : BitVec 8) : MF := ⟨0, 0, 0, 0, 0, 0, 0, parts⟩
@[inherit_doc ff] def lf : MF := ⟨0, 1, 0x7FF, 15, 0, 4, 0, 0⟩

/-- The place that an access finds, where it finds one, and the state after its translation. -/
def placeOf (s : State) (g : Group) (acc : Acc) (addr : W64) : Option Phys :=
  match (xlated s g acc addr).2 with
  | .ok ph => some ph
  | .error _ => none
@[inherit_doc placeOf] def afterOf (s : State) (g : Group) (acc : Acc) (addr : W64) : State := (xlated s g acc addr).1

theorem lands_of {s : State} {g : Group} {acc : Acc} {size : Nat} {addr : W64} {ph : Phys}
    (h : addr.toNat % 2 ^ 57 / 2 ^ 48 < 0x1F0 ∧ addr.toNat % 2 ^ 57 % size = 0) (hp : placeOf s g acc addr = some ph) :
    Lands s g acc size addr ph := by
  refine ⟨h.1, h.2, Prod.ext rfl ?_⟩
  unfold placeOf at hp
  split at hp <;> simp_all [xlated]

/-- Nothing holds the accesses of a group back, where it has nothing outstanding and no window, and its lane no access at a bank. -/
theorem may_access {s : State} {g : Group} {f : MF} {n : Nat} (h : acqPending g = false ∧ replayOf s g.lane = none) (hm : modOk g f n = true) :
    MayAccess s g f n := ⟨h.1, h.2, hm⟩

/-- The group with an address in a1: in its scratchpad, in memory; and the latter with one thread. -/
def tgPad : Group := { tg with a := tg.a.set 1 0x01F0000000000010 }
@[inherit_doc tgPad] def tgMem : Group := { tg with active := 1, a := tg.a.set 1 0x380000 }
/-- A team with a scratchpad of 16 KiB. -/
def tm16 : Team := { freshTeam 2 (soloLaunch 1 0) 0 0 0x400000 with size := 16384 }
/-- The machine whose team has a scratchpad. -/
def tstPad : State := { tst tgPad with teams := [tm16] }

theorem runs_pad {i : Instr} (hp : preFault tstPad tgPad i = none) : Runs tstPad tgPad i := runs_of rfl rfl rfl hp

/-- The places of the threads' accesses, and whether each wins its banks. -/
def padOff (t : Nat) : Nat := (memAddr tstPad tgPad (mf 4 0) 4 true t).toNat % 2 ^ 48
@[inherit_doc padOff] def padWins (isLoad : Bool) : Bool :=
  (bankTurns { tstPad with nextId := tstPad.nextId + 1 } tgPad tgPad.team 4 isLoad padOff (threads (BitVec.allOnes 64)) 0).isSome &&
    (bankTurn { tstPad with nextId := tstPad.nextId + 1 } tgPad tgPad.team 16 4 isLoad 0).isSome
set_option maxRecDepth 8000 in
theorem may_pad : MayLoad tstPad tgPad (mf 4 0) ∧ MayStore tstPad tgPad (mf 4 0) 4 :=
  ⟨⟨by decide, may_access (by decide) (by decide)⟩, rfl, may_access (by decide) (by decide)⟩
set_option maxRecDepth 4000 in
theorem wit_ScratchpadAccesses : Runs tstPad tgPad (.ld hd (mf 4 0)) ∧ teamOf tstPad tgPad.team = some tm16 ∧
    accessors tgPad hd false = threads (BitVec.allOnes 64) ∧ (∀ t < 64, InPad tm16 4 (memAddr tstPad tgPad (mf 4 0) 4 true t)) ∧
    padWins true = true ∧ Runs tstPad tgPad (.ldu hd (mf 4 0)) ∧ accessors tgPad hd true = [0] ∧ Runs tstPad tgPad (.st hd (mf 4 0)) ∧
    padWins false = true ∧ Runs tstPad tgPad (.stu hd (mf 4 0)) := by
  constructorm* _ ∧ _ <;> first | decide | exact runs_pad (by decide) | (unfold InPad; decide)

/-- The machine of that group, the address of its access, the place of it, and the machine after its translation. -/
def tstMem : State := tst tgMem
@[inherit_doc tstMem] def va38 : W64 := memAddr tstMem tgMem (mf 4 0) 4 true 0
@[inherit_doc tstMem] def ph38 : Phys := ⟨none, 0x380000, 0x7F, true⟩
@[inherit_doc tstMem] def s38 (acc : Acc) : State := afterOf tstMem tgMem acc va38

theorem lands_mem (acc : Acc) (h : acc = .rd ∨ acc = .wr ∨ acc = .rw) : Lands tstMem tgMem acc 4 va38 ph38 := by
  rcases h with rfl | rfl | rfl <;> exact lands_of (by decide) (by decide)
theorem runs_mem {i : Instr} (hp : preFault tstMem tgMem i = none) : Runs tstMem tgMem i := runs_tst rfl hp
set_option maxRecDepth 8000 in
theorem may_mem (n : Nat) (h : n = 4 ∨ n = 16) : MayStore tstMem tgMem (mf 4 0) n :=
  ⟨rfl, may_access (by decide) (by rcases h with rfl | rfl <;> decide)⟩

theorem wit_DeviceLoads_place : MayLoad tstMem tgMem (mf 4 0) ∧ Lands tstMem tgMem .rd 4 va38 ph38 :=
  ⟨⟨by decide, (may_mem 4 (.inl rfl)).2⟩, lands_mem _ (.inl rfl)⟩
theorem wit_DeviceLoads : ph38.dev = none ∧
    (ownReqs tgMem).any (fun r => isRmw r && (reqSectors r).contains (ph38.pa / 128)) = false ∧ accessors tgMem hd false = [0] ∧
    accessors tgMem hd true = [0] ∧ Runs tstMem tgMem (.ld hd (mf 4 0)) ∧ Runs tstMem tgMem (.ldnt hd (mf 4 0)) ∧
    Runs tstMem tgMem (.lda hd (mf 4 0)) ∧ Runs tstMem tgMem (.sgath hd (mf 4 0)) ∧ Runs tstMem tgMem (.ldu hd (mf 4 0)) ∧
    (sectorRead (s38 .rd) tgMem 0x380000 false).isSome = true ∧ (sectorRead (s38 .rd) tgMem 0x380000 true).isSome = true ∧
    mustWait (s38 .rd) tgMem 0x380000 = false := by
  constructorm* _ ∧ _ <;> first | decide | exact runs_mem (by decide)

/-- The machine with a valid sector in the L1 of core 0, and with a poisoned sector. -/
def tstL1 : State := onCore tstMem 0 (fun c => { c with l1 := [(28672, 0, List.replicate 128 7)] })
@[inherit_doc tstL1] def tstPoison : State := { tstMem with poison := [28672] }
theorem wit_SectorsAsLoadsFindThem : tstMem.poison.contains (0x380000 / 128) = false ∧ l1Find tstMem (servingL1 tstMem 0 0x380000) 28672 = none ∧
    l1Find tstL1 (servingL1 tstL1 0 0x380000) 28672 = some (List.replicate 128 7) ∧ tstPoison.poison.contains (0x380000 / 128) = true := by decide

/-- The group with a store that is still in its store FIFO, so that a release must wait. -/
def tgHeld : Group := { tgMem with fifo := [⟨9, 3, 0, none, 2, 0, 0, 1, 0, none, false, .store [(0x380000, 1)], none, false, ⟨false, 0, 0⟩⟩] }
theorem wit_DeviceStores_place : MayStore tstMem tgMem (mf 4 0) 4 ∧ Lands tstMem tgMem .wr 4 va38 ph38 :=
  ⟨may_mem 4 (.inl rfl), lands_mem _ (.inr (.inl rfl))⟩
theorem wit_DeviceStores : accessors tgMem hd false = [0] ∧ accessors tgMem hd true = [0] ∧ Runs tstMem tgMem (.st hd (mf 4 0)) ∧
    Runs tstMem tgMem (.stnt hd (mf 4 0)) ∧ Runs tstMem tgMem (.stl hd (mf 4 0)) ∧ releaseMet tstMem tgMem 0 = true ∧
    Runs tstMem tgMem (.stu hd (mf 4 0)) ∧ Runs (tst tgHeld) tgHeld (.stl hd (mf 4 0)) ∧ releaseMet (tst tgHeld) tgHeld 0 = false := by
  constructorm* _ ∧ _ <;> first | decide | exact runs_tst rfl (by decide)

theorem wit_AtomicRequests_place : MayStore tstMem tgMem (mf 4 0) 4 ∧ Lands tstMem tgMem .rw 4 (memAddr tstMem tgMem (mf 4 0) 4 false 0) ph38 ∧
    MayStore tstMem tgMem (mf 4 0) 16 ∧ Lands tstMem tgMem .rw 16 (memAddr tstMem tgMem (mf 4 0) 16 false 0) ph38 :=
  ⟨may_mem 4 (.inl rfl), lands_of (by decide) (by decide), may_mem 16 (.inr rfl), lands_of (by decide) (by decide)⟩
/-- The instructions whose atomics these are, with what they ask of their home. -/
theorem wit_AtomicRequests_asks : let x := readVs (s38 .rw) tgMem 2 1 0
    AtomicAsks (s38 .rw) tgMem hd (mf 4 0) 0 (.atom hd (mf 4 0)) (.int 0) x true ∧
    AtomicAsks (s38 .rw) tgMem hd (mf 4 0) 0 (.red hd (mf 4 0)) (.int 0) x false ∧
    AtomicAsks (s38 .rw) tgMem hd (mf 4 0) 0 (.cas hd (mf 4 0)) (.cas (BitVec.ofNat 64 x)) (readVs (s38 .rw) tgMem 3 1 0) true ∧
    AtomicAsks (s38 .rw) tgMem hd (mf 4 0) 0 (.atomf hd (mf 4 0)) (.flt 0 .rne) x true ∧
    AtomicAsks (s38 .rw) tgMem hd (mf 4 8) 0 (.atomf hd (mf 4 8)) (.flt 0 .rne) x false :=
  ⟨.inl ⟨rfl, by decide, rfl, rfl⟩, .inr (.inl ⟨rfl, by decide, rfl, rfl⟩), .inr (.inr (.inl ⟨rfl, rfl, rfl, rfl⟩)),
    .inr (.inr (.inr ⟨rfl, by decide, by decide, rfl, by decide⟩)), .inr (.inr (.inr ⟨rfl, by decide, by decide, rfl, by decide⟩))⟩
theorem wit_AtomicRequests : tgMem.ll.length < 16 ∧ accessors tgMem hd false = [0] ∧ (s38 .rw).poison.contains (ph38.pa / 128) = false ∧
    Runs tstMem tgMem (.atom hd (mf 4 0)) ∧ Runs tstMem tgMem (.red hd (mf 4 0)) ∧ Runs tstMem tgMem (.cas hd (mf 4 0)) ∧
    Runs tstMem tgMem (.atomf hd (mf 4 0)) ∧ Runs tstMem tgMem (.atomf hd (mf 4 8)) ∧ Runs tstMem tgMem (.ored hd (mf 4 0)) := by
  constructorm* _ ∧ _ <;> first | decide | exact runs_mem (by decide)

/-- The group whose address is that of a page of device 5, and the place of its access. -/
def tgAway : Group := { tgMem with a := tg.a.set 1 0x20380000 }
@[inherit_doc tgAway] def phAway : Phys := ⟨some 5, 0x380000, 0x058000000000007F, true⟩
set_option maxRecDepth 8000 in
theorem wit_AtomicRequests_away : MayStore (tstFar tgAway) tgAway (mf 4 0) 4 ∧
    Lands (tstFar tgAway) tgAway .rw 4 (memAddr (tstFar tgAway) tgAway (mf 4 0) 4 false 0) phAway ∧ phAway.dev ≠ none ∧ tgAway.ll.length < 16 ∧
    accessors tgAway hd false = [0] ∧ Runs (tstFar tgAway) tgAway (.atom hd (mf 4 0)) :=
  ⟨⟨rfl, may_access (by decide) (by decide)⟩, lands_of (by decide) (by decide), by decide, by decide, by decide, runs_of rfl rfl rfl (by decide)⟩

/-- A request of the group that has left its store FIFO. -/
def rq (k : ReqKind) : Req := ⟨9, 3, 0, none, 2, 0, 0, 1, 0, none, false, k, none, false, ⟨false, 0, 0⟩⟩
/-- The machine in which such a request is on its way. -/
def tstFlight (k : ReqKind) : State := { tstPad with flight := [rq k] }
/-- The group with one window of its lane. -/
def tgWin : Group := { tgMem with coal := [[rq (.store [(0x380000, 1)])]] }
set_option maxRecDepth 4000 in
theorem wit_StoresReachTheirHomes : groupOf (tst tgWin) 3 = some tgWin ∧ tgWin.fifo.length + 1 ≤ 32 ∧ (replayOf (tst tgWin) tgWin.lane).bind (fun r => r.win) = none ∧
    Memory.wf (tstFlight (.store [(0x380000, 1)])).mem = true ∧
    reqAt (tstFlight (.store [(0x380000, 1)])) 9 = some (rq (.store [(0x380000, 1)])) ∧
    mayArrive (tstFlight (.store [(0x380000, 1)])) (rq (.store [(0x380000, 1)])) = true ∧
    (∀ c ∈ [((0x380000 : Nat), (1 : Byte))], inQueueDesc (tstFlight (.store [(0x380000, 1)])) c.1 = false ∧ inBarRec (tstFlight (.store [(0x380000, 1)])) c.1 = false) ∧
    (tstFlight (.store [(0x380000, 1)])).oredHeld = [] ∧
    reqAt (tstFlight (.peer 2 [(4, 1)])) 9 = some (rq (.peer 2 [(4, 1)])) ∧ mayArrive (tstFlight (.peer 2 [(4, 1)])) (rq (.peer 2 [(4, 1)])) = true ∧
    teamOf (tstFlight (.peer 2 [(4, 1)])) 2 = some tm16 ∧ tm16.st ≠ .saved ∧ (coreAt (tstFlight (.peer 2 [(4, 1)])) tm16.core).drained = false ∧
    switching (tstFlight (.peer 2 [(4, 1)])) 0 = false ∧ rankedBehind (tstFlight (.peer 2 [(4, 1)])) 0 9216 0 0 (bankWords 4 1) false = false ∧
    bankFree (tstFlight (.peer 2 [(4, 1)])) 0 0 (bankWords 4 1) false = true := by
  constructorm* _ ∧ _ <;> decide

/-- An atomic and a reduction on their way. -/
def atomRq : ReqKind := .rmw (.int 0) 0x380000 4 5 (some (7, 130, 0))
@[inherit_doc atomRq] def redRq : ReqKind := .rmw (.int 0) 0x380000 4 5 none
/-- The group whose atomic is on its way. -/
def tgAtom : Group := { tgMem with ll := [⟨7, 3, 1, [130], [], none, [], [], false, 0, 0, false, none, false, 0, none⟩] }
@[inherit_doc tgAtom] def tstAtom : State := { tst tgAtom with flight := [rq atomRq] }
theorem wit_AtomicsAtTheirHomes : Memory.wf tstAtom.mem = true ∧ reqAt tstAtom 9 = some (rq atomRq) ∧ mayArrive tstAtom (rq atomRq) = true ∧
    tstAtom.poison.contains (0x380000 / 128) = false ∧ (∀ i, i < 4 → inQueueDesc tstAtom (0x380000 + i) = false ∧ inBarRec tstAtom (0x380000 + i) = false) ∧
    tstAtom.oredHeld = [] ∧ (groupOf tstAtom 3).map (fun (g : Group) => g.ll.map (fun (l : LL) => l.key)) = some [7] ∧
    reqAt { tstPoison with flight := [rq redRq] } 9 = some (rq redRq) ∧ mayArrive { tstPoison with flight := [rq redRq] } (rq redRq) = true ∧
    tstPoison.poison.contains (0x380000 / 128) = true := by decide

theorem wit_AtomicOperations : (0 : Nat) < 4 ∧ 0xFFFFFFFF < 2 ^ (8 * 4) ∧ 0 < 2 ^ (8 * 4) := by decide

/-- A contribution on its way, with the next index, a later one, and one that is too late, and the machine it arrives in. -/
def oredRq (idx : Nat) : ReqKind := .ored 0 .rne 0x380000 idx 5
@[inherit_doc oredRq] def tstOred (idx : Nat) : State := { tst tgMem with flight := [rq (oredRq idx)] }
@[inherit_doc oredRq] def tstOredHeld : State := { tstOred 2 with oredHeld := [{ slice := 0, pa := 0x380000, idx := 2, v := 1, op := 0, rnd := .rne }] }
theorem wit_OrderedContributions : (∀ n, n = 0 ∨ n = 1 ∨ n = 4096 → reqAt (tstOred n) 9 = some (rq (oredRq n)) ∧ mayArrive (tstOred n) (rq (oredRq n)) = true ∧
      Memory.wf (tstOred n).mem = true ∧ (tstOred n).poison.contains (0x380000 / 128) = false ∧ memNat (tstOred n).mem (0x380000 + 8) 4 = 0 ∧
      (tstOred n).oredHeld = [] ∧ ∀ i, i < 16 → inQueueDesc (tstOred n) (0x380000 + i) = false ∧ inBarRec (tstOred n) (0x380000 + i) = false) ∧
    reqAt tstOredHeld 9 = some (rq (oredRq 2)) ∧ mayArrive tstOredHeld (rq (oredRq 2)) = true ∧
    ∃ h ∈ tstOredHeld.oredHeld, h.pa = 0x380000 ∧ h.idx = 2 := by
  refine ⟨?_, by decide⟩
  rintro n (rfl | rfl | rfl) <;> decide

theorem wit_Fences : Runs tstMem tgMem (.fence hd (ff 3)) ∧ wideActs tgMem hd = true ∧ releaseMet tstMem tgMem 0 = true ∧
    Runs (tst tgHeld) tgHeld (.fence hd (ff 3)) ∧ wideActs tgHeld hd = true ∧ releaseMet (tst tgHeld) tgHeld 0 = false ∧
    loadsBack tgMem = true ∧ loadsBack tgAtom = false ∧ Runs tstMem tgMem (.ifence hd (ff 0)) := by
  constructorm* _ ∧ _ <;> first | decide | exact runs_tst rfl (by decide)

/-- The group with an address that no page maps. -/
def tgHole : Group := { tgMem with a := tg.a.set 1 0xA000000000 }
/-- The machine in which a store of the group to its line is on its way. -/
def tstStill : State := { tst tgMem with flight := [rq (.store [(0x380000, 1)])] }
set_option maxRecDepth 8000 in
theorem wit_HintsAndLines_may : MayAccess tstMem tgMem lf 4 ∧ MayAccess (tst tgHole) tgHole lf 4 ∧ MayAccess tstStill tgMem lf 4 := by
  constructorm* _ ∧ _ <;> exact may_access (by decide) (by decide)
theorem wit_HintsAndLines : accessors tgMem hd false = [0] ∧
    va38.toNat % 2 ^ 57 / 2 ^ 48 < 0x1F0 ∧ placeOf tstMem tgMem .hint va38 = some ph38 ∧ ph38.dev = none ∧ ph38.leaf.getLsbD 5 = true ∧ grants ph38.leaf .rd = true ∧
    mustWait (s38 .hint) tgMem 0x380000 = false ∧ (sectorRead (s38 .hint) tgMem 0x380000 false).isSome = true ∧ lf.hint = 0 ∧
    Runs tstMem tgMem (.pref hd lf) ∧ Runs tstMem tgMem (.pref hd { lf with hint := 1 }) ∧ Runs tstMem tgMem (.resid hd lf) ∧
    Runs tstMem tgMem (.inval hd lf) ∧ placeOf (tst tgHole) tgHole .hint (memAddr (tst tgHole) tgHole lf 4 true 0) = none ∧
    Runs (tst tgHole) tgHole (.pref hd lf) ∧ Runs tstMem tgMem (.clean hd lf) ∧
    (ownReqs tgMem ++ clusterFlight (s38 .rd) 0).any (fun r => (reqSectors r).any (fun x => decide (x / 4 = 0x380000 / 512))) = false ∧
    Runs tstStill tgMem (.clean hd lf) ∧ placeOf tstStill tgMem .rd va38 = some ph38 ∧
    (ownReqs tgMem ++ clusterFlight (afterOf tstStill tgMem .rd va38) 0).any (fun r => (reqSectors r).any (fun x => decide (x / 4 = 0x380000 / 512))) = true := by
  constructorm* _ ∧ _ <;> first | decide | exact runs_of rfl rfl rfl (by decide)

/-- An access that waits for bank 1. -/
def replay0 : Replay := ⟨0, 5, false, [33], true, none, none⟩
/-- The machine with a write-combining buffer, a valid sector in L1, and two lanes of core 0 that lost their banks. -/
def tstEvents : State := { onCore tstL1 0 (fun c => { c with replays := [⟨1, 5, false, [1], true, none, none⟩, replay0] }) with fcycles := 100000, wcbs := [⟨0, 7, [1], 0⟩] }
theorem wit_MemoryEvents : (∃ w ∈ tstEvents.wcbs, w.line = 7) ∧ (∃ x ∈ (coreAt tstEvents 0).l1, x.1 = 28672) ∧ (0 : Nat) < 0xC000000000 ∧
    tstEvents.cores.findIdx? (fun c => c.replays.any (fun r => decide (r.lane = 0) && !r.granted)) = some 0 ∧
    (coreAt tstEvents 0).replays.find? (fun r => decide (r.lane = 0)) = some replay0 ∧ 5 < cyclesOf tstEvents 0 ∧
    (∀ x ∈ (coreAt tstEvents 0).replays, x.granted = false → 5 < x.at_ ∨ (5 = x.at_ ∧ 0 ≤ x.lane)) ∧
    bankFree tstEvents 0 (cyclesOf tstEvents 0) replay0.words true = true ∧ returningTo tstEvents 5 = false ∧
    (0 < 576) ∧ (ctxRec tstEvents 0).isSome = true := by
  decide

/-! ### Witnesses: copies and streams -/

/-- A copy descriptor: one row of four bytes from 0x390000 to 0x3A0000. -/
def cpw : List W64 := [0x390000, 0x3A0000, 0x400000001, 0, 0, 0, 0, 0]
/-- The group with the address of the descriptor in s1, and the machine that holds it. -/
def tgCpy : Group := { tgMem with s := tg.s.set 1 0x380000 }
@[inherit_doc tgCpy] def tstCpy : State :=
  let s := tst tgCpy
  { s with mem := memPut s.mem 0x380000 (wordsLE cpw) }
/-- Its copy, waiting in the queue and running. -/
def cpQ : Copy := { mkCopy 5 (issuerOf tgCpy) 0 0 0 none cpw 0x390000 0x3A0000 with queued := true, recvs := [2] }
@[inherit_doc cpQ] def cpS : Copy := { cpQ with started := true }
@[inherit_doc cpQ] def cpE : Copy := { cpS with served := [2] }
/-- The machine with a copy. -/
def tstCopy (c : Copy) : State := { tstCpy with copies := [c] }
/-- The machine whose launch has a copy plan of one entry. -/
def tstPlan : State :=
  { tstCpy with launches := [{ soloLaunch 1 0 with recd := { soloRec with ncopy := 1, copybase := 0x3B0000 }, plan := [(0x380000, 0, 3)] }] }
/-- How the checks of a copy end. -/
def passes (s : State) (w : Issuer) (va : Nat) : Bool :=
  match (checkCopy s w 0 3 va none none).2 with
  | .ok _ => true
  | .error _ => false

/-- The state after the checks of a copy of the group. -/
def checkedCopy (s : State) (g : Group) : State := (checkCopy s (issuerOf g) 0 0 0x380000 none none).1
/-- The group of the copy with a store that is still in its store FIFO. -/
def tgCpyHeld : Group := { tgCpy with fifo := [⟨9, 3, 0, none, 2, 0, 0, 1, 0, none, false, .store [(0x3F0000, 1)], none, false, ⟨false, 0, 0⟩⟩] }
/-- The machine that holds the descriptor of its copy. -/
def tstCpyHeld : State := { tstCpy with groups := [tgCpyHeld] }
/-- A copy into stream 0, and another that waits to go there before it. -/
def cpA : Copy := mkCopy 6 (issuerOf tgCpy) 0 1 0 none (cpw.set 4 0x1000000) 0x390000 0x3A0000
@[inherit_doc cpA] def cpB : Copy := { cpA with id := 5, gid := 4, tag := 0 }
@[inherit_doc cpA] def tstBehind : State :=
  { tstCopy cpB with groups := [tgCpy, { tgCpy with id := 4, lane := 1, st := .parked, park := some (.copy 5) }] }

/-- The group with a descriptor of another device. -/
def tgCpyFar : Group := { tgCpy with s := tg.s.set 1 0x20380000 }
/-- Whether the checks of a copy wait for its descriptor. -/
def waits (s : State) (w : Issuer) (va : Nat) : Bool :=
  match (checkCopy s w 0 3 va none none).2 with
  | .error none => true
  | _ => false

theorem wit_CopiesAreIssued : Runs tstCpy tgCpy (.cpy hd (cf 1 0)) ∧ Runs tstCpy tgCpy (.cpym hd (cf 1 0)) ∧ Runs tstCpy tgCpy (.cpyg hd (cf 1 0)) ∧
    wideActs tgCpy hd = true ∧ passes tstCpy (issuerOf tgCpy) 0x380000 = true ∧ passes tstCpy (issuerOf tgCpy) 0x380001 = false ∧
    storesOut (checkedCopy tstCpy tgCpy) tgCpy = false ∧ copyBehind (checkedCopy tstCpy tgCpy) cpQ = false ∧ storesOut (checkedCopy tstCpyHeld tgCpyHeld) tgCpyHeld = true ∧
    passes tstCpyHeld (issuerOf tgCpyHeld) 0x380000 = true ∧ Runs tstCpyHeld tgCpyHeld (.cpy hd (cf 1 0)) ∧ copyBehind tstBehind cpA = true ∧
    (∀ x ∈ tstCpy.copies, x.queued = false) ∧ passes (tstCopy cpQ) (issuerOf tgCpy) 0x380000 = true ∧
    Runs (tstCopy cpQ) tgCpy (.cpy hd (cf 1 0)) ∧ (∃ x ∈ (tstCopy cpQ).copies, x.queued = true ∧ x.team = tgCpy.team ∧ x.tag = 0) ∧
    Runs (tstFar tgCpyFar) tgCpyFar (.cpy hd (cf 1 0)) ∧ waits (tstFar tgCpyFar) (issuerOf tgCpyFar) 0x20380000 = true := by
  constructorm* _ ∧ _ <;> first | decide | exact runs_of rfl rfl rfl (by decide)
theorem wit_CopiesTakeTheirTags : (teamOf tstCpy cpQ.team).isSome = true ∧ cpQ.kind ≠ 1 ∧ cpQ.failed = none := by decide
theorem wit_CopySteps_run : (tstCopy cpQ).copies.find? (fun c => c.queued && !c.started && decide (c.cluster = 0)) = some cpQ ∧
    ((tstCopy cpQ).copies.filter (fun x => x.started && decide (x.cluster = 0))).length < 8 ∧ cpQ.cd.dstos = false ∧ cpQ.kind ≠ 1 ∧ cpQ.failed = none ∧
    copyOf (tstCopy cpS) 5 = some cpS ∧ mayRun (tstCopy cpS) cpS = true ∧ cpS.left = [cpS.team] ∧ recvWaits (tstCopy cpS) cpS cpS.team = false ∧
    (copyPlan (tstCopy cpS) cpS cpS.team).2 = none ∧ cpS.bar = none := by decide
theorem wit_CopySteps_end : copyOf (tstCopy cpE) 5 = some cpE ∧ cpE.started = true ∧ cpE.leaveWait = false ∧ cpE.left = [] ∧
    (tstCopy cpE).remotes = [] ∧ cpE.failed = none ∧ cpE.flags = 0 ∧ (teamOf (tstCopy cpE) cpE.team).map (fun (t : Team) => t.st) = some .resident ∧
    cpE.ctr = 0 ∧ (clusterAt (tstCopy cpE) 0).leaves = [] ∧ (clusterAt (tstCopy cpE) 0).leaveQ = [] ∧
    (failsAs (tstCopy cpS) cpS cpS.team 0 0x4D).isSome = true ∧
    (putChosen (touchPages (tstCopy cpS) cpS 0) cpS cpS.team 0 []).remotes = [] := by decide
theorem wit_CopySteps_plan : ((teamOf tstPlan 2).bind (fun (t : Team) => (t.launch.bind (launchOf tstPlan)).bind (fun l => l.plan[t.planNext]?))) =
      some (0x380000, 0, 3) ∧ (teamOf tstPlan 2).map (fun (t : Team) => (t.st, t.stage)) = some (.resident, 0) ∧
    tagBusy tstPlan 2 3 = false ∧ copyRoom tstPlan 0 = true ∧ passes tstPlan ⟨0, 0, some 1, 2, 0, 0⟩ 0x380000 = true ∧
    copyBehind (checkCopy tstPlan ⟨0, 0, some 1, 2, 0, 0⟩ 0 3 0x380000 none none).1 cpQ = false := by
  decide

/-- The machine whose team has these tag bits and error bits, and whose group names tag 0 in s1, tag 63 in s2 and no tag in s0. -/
def tgTag : Group := { tg with s := (tg.s.set 1 1).set 2 0x8000000000000000 }
@[inherit_doc tgTag] def tstTag (b e : W64) : State := { tst tgTag with teams := [{ tm16 with tagbits := b, tagerr := e }] }
/-- The machine whose launch has fewer tags. -/
def tstFew : State := { tstTag 0 0 with launches := [{ soloLaunch 1 0 with recd := { soloRec with tags := 4 } }] }
theorem runs_tag (b e : W64) {i : Instr} (hp : preFault (tstTag b e) tgTag i = none) : Runs (tstTag b e) tgTag i := runs_of rfl rfl rfl hp
set_option maxRecDepth 10000 in
theorem wit_TagsAndStages : wideActs tgTag hd = true ∧ (teamOf (tstTag 1 1) tgTag.team).isSome = true ∧ isReplay (tstTag 0 0) tgTag.ctx = false ∧
    teamTags (tstTag 0 0) tgTag.team = 64 ∧ (1 : W64) &&& ~~~(BitVec.ofNat 64 (2 ^ 64 - 1)) = 0 ∧ teamTags tstFew 2 = 4 ∧
    (0x8000000000000000 : W64) &&& ~~~(BitVec.ofNat 64 (2 ^ 4 - 1)) ≠ 0 ∧ Runs tstFew tgTag (.tagall hd (cf 2 0)) ∧
    Runs (tstTag 0 0) tgTag (.tagall hd (cf 1 0)) ∧ Runs (tstTag 1 0) tgTag (.tagall hd (cf 1 0)) ∧ Runs (tstTag 1 1) tgTag (.tagall hd (cf 1 0)) ∧
    Runs (tstTag 0 0) tgTag (.tagany hd (cf 1 0)) ∧ Runs (tstTag 1 0) tgTag (.tagany hd (cf 1 0)) ∧ Runs (tstTag 1 1) tgTag (.tagany hd (cf 1 0)) ∧
    Runs (tstTag 0 0) tgTag (.tagany hd (cf 0 0)) ∧ Runs tstFew tgTag (.tagany hd (cf 2 0)) ∧
    Runs (tstTag 1 1) tgTag (.tagff hd (cf 1 5)) ∧ Runs (tstTag 0 0) tgTag (.tagrd hd (cf 0 5)) ∧ Runs (tstTag 0 0) tgTag (.tagclr hd (cf 1 0)) ∧
    Runs (tstTag 0 0) tgTag (.stage hd (cf 1 0)) ∧ Runs (tstTag 0 0) tgTag (.stageInc hd (cf 0 1)) := by
  constructorm* _ ∧ _ <;> first | decide | exact runs_of rfl rfl rfl (by decide)

/-- A stream record of eight u32 elements from 0x390000 up, and one that scatters to them. -/
def srd (scat : Bool) : List W64 := [0x390000, 0, 0x400000008, 1, 1, 1, if scat then 0x22 else 2, 0]
/-- The group whose s1 names its record and whose s2 names no aligned place. -/
def tgStr : Group := { tgMem with s := (tg.s.set 1 0x380000).set 2 0x380008, lines := (List.range 6).map (fun n => ⟨n, List.replicate 64 9, false, 0, .general⟩) }
/-- The machine with the record in memory and a stream slot 0 as given. -/
def tstStr (x : Stream) : State :=
  let s := tst tgStr
  onCore { s with mem := memPut s.mem 0x380000 (wordsLE (srd false)) } 0 (fun c => { c with streams := c.streams.set 0 x })
/-- A slot that is set, one that runs, with an element, and one that scatters, empty, full and past its end. -/
def slSet : Stream := { Stream.empty with st := .set, team := 2, recd := srd false }
@[inherit_doc slSet] def slRun (fifo : List (List Byte)) : Stream := { slSet with st := .running, fifo := fifo }
@[inherit_doc slSet] def slPsh (n : Nat) : Stream := { slSet with st := .running, recd := srd true, fifo := List.replicate n [1, 2, 3, 4] }
@[inherit_doc slSet] def slEnd : Stream := { slRun [] with done := 8 }

/-- The record that an instruction reads, where it reads one. -/
def recordOf (s : State) (g : Group) (va : Nat) : Option (List Byte) :=
  match (groupRead s g va 64).2 with
  | .ok bs => some bs
  | .error _ => none
theorem wit_Streams_states : wideActs tgStr hd = true ∧ Runs (tstStr Stream.empty) tgStr (.strmset hd (cf 1 0)) ∧
    (slotOf (tstStr Stream.empty) 0 0).st = .free ∧ recordOf (tstStr Stream.empty) tgStr 0x380000 = some (wordsLE (srd false)) ∧ strmMalformed (srd false) = false ∧
    strmMalformed cpw = true ∧ Runs (tstStr Stream.empty) tgStr (.strmset hd (cf 2 0)) ∧ Runs (tstStr slSet) tgStr (.strmset hd (cf 1 0)) ∧
    (slotOf (tstStr slSet) 0 0) = slSet ∧ Runs (tstStr slSet) tgStr (.strmgo hd (cf 0 0)) ∧ Runs (tstStr Stream.empty) tgStr (.strmgo hd (cf 0 0)) ∧
    Runs (tstStr (slRun [])) tgStr (.strmend hd (cf 0 0)) ∧ strmEnds (tstStr (slRun [])) 0 0 (slRun []) = true ∧
    Runs (tstStr (slPsh 1)) tgStr (.strmend hd (cf 0 0)) ∧ strmEnds (tstStr (slPsh 1)) 0 0 (slPsh 1) = false ∧
    Runs (tstStr Stream.empty) tgStr (.strmend hd (cf 0 0)) := by
  constructorm* _ ∧ _ <;> first | decide | exact runs_of rfl rfl rfl (by decide)
/-- Whether a push into a slot finds the place of its element. -/
def pushes (x : Stream) : Bool :=
  match (pushCheck (tstStr x) 0 0 x).2 with
  | .ok _ => true
  | .error _ => false
set_option maxRecDepth 10000 in
theorem wit_Streams_threads : threads (liveMask tgStr) = [0] ∧ slotOf (tstStr (slRun [[1, 2, 3, 4]])) 0 0 = slRun [[1, 2, 3, 4]] ∧
    0 < (coreAt (tstStr (slRun [])) 0).streams.length ∧ max 1 (strmSize (srd false) / 4) = 1 ∧ 3 + 1 ≤ tgStr.nregs ∧
    Runs (tstStr (slRun [[1, 2, 3, 4]])) tgStr (.strmpop hd (cf 0 3)) ∧ strmScatters (srd false) = false ∧ 0 < strmTotal (srd false) ∧
    Runs (tstStr (slRun [])) tgStr (.strmpop hd (cf 0 3)) ∧ Runs (tstStr (slPsh 0)) tgStr (.strmpsh hd (cf 0 3)) ∧ strmScatters (srd true) = true ∧
    Runs (tstStr (slPsh 512)) tgStr (.strmpsh hd (cf 0 3)) ∧ ((slPsh 0).fifo.length + 1) * strmSize (srd true) ≤ 2048 ∧ pushes (slPsh 0) = true ∧ 2048 < ((slPsh 512).fifo.length + 1) * strmSize (srd true) ∧
    Runs (tstStr slEnd) tgStr (.strmpop hd (cf 0 3)) ∧ strmTotal slEnd.recd ≤ slEnd.done := by
  constructorm* _ ∧ _ <;> first | decide | exact runs_of rfl rfl rfl (by decide)
/-- Whether a generator's access is made. -/
def reads_ok (s : State) : Bool :=
  match (genRead s 0 (strmWho s 0 0 2) 0x390000 4).2 with
  | .ok _ => true
  | .error _ => false
@[inherit_doc reads_ok] def writes_ok (s : State) : Bool :=
  match genWrite s 0 (strmWho s 0 0 2) 0x390000 [1, 2, 3, 4] with
  | .ok _ => true
  | .error _ => false
theorem wit_Streams_elements : (slotOf (tstStr (slRun [])) 0 0) = slRun [] ∧ (coreAt (tstStr (slRun [])) 0).drained = false ∧ switching (tstStr (slRun [])) 0 = false ∧ strmStops (slRun []) = false ∧
    (slRun []).moved < strmTotal (srd false) ∧ strmInd (srd false) = 0 ∧ ((0x390000 + strmOff (srd false) 0) % 2 ^ 57).toNat = 0x390000 ∧
    genWaits (tstStr (slRun [])) (strmWho (tstStr (slRun [])) 0 0 2) 0x390000 = false ∧ reads_ok (tstStr (slRun [])) = true ∧
    (slotOf (tstStr (slPsh 1)) 0 0) = slPsh 1 ∧ genWaits (tstStr (slPsh 1)) (strmWho (tstStr (slPsh 1)) 0 0 2) 0x390000 = false ∧
    writes_ok (tstStr (slPsh 1)) = true := by decide

/-! ### Witnesses: queues and tasks -/

/-- The group whose scalar registers name a descriptor (s1), a misaligned one (s2), an unmapped one (s3), and a task record (s4). -/
def tgQ : Group := { tg with s := ((((tg.s.set 1 0x380000).set 2 0x380008).set 3 0xA000000000).set 4 0x3A0000).set 5 0x80000000 }
/-- A task record that names a queue and no region. -/
def tkw : List W64 := 0x380000 :: List.replicate 31 0
/-- A context of the small machine in replay mode. -/
def cxReplay : Context := { Context.empty with st := .active, recd := some { soloCtx with replay := true }, openQ := 3 }
/-- The machine with the task record, and one whose context is in replay mode. -/
def tstTask : State :=
  let s := tst tgQ
  { s with mem := memPut s.mem 0x3A0000 (wordsLE tkw) }
@[inherit_doc tstTask] def tstReplay : State :=
  let s := tst tgQ
  { s with contexts := s.contexts.set 0 cxReplay }
set_option maxRecDepth 10000 in
theorem wit_QueueRequests : wideActs tgQ hd = true ∧ placeOf tstTask tgQ .rw 0x380000 = some ph38 ∧ placeOf tstTask tgQ .rw 0xA000000000 = none ∧
    isReplay tstTask 0 = false ∧ isReplay tstReplay 0 = true ∧ Runs tstTask tgQ (.qpush hd (cf 1 8)) ∧ Runs tstTask tgQ (.qpushClose hd (cf 1 64)) ∧
    Runs tstTask tgQ (.qtry hd (cf 1 8)) ∧ Runs tstTask tgQ (.qstat hd (cf 1 8)) ∧ Runs tstTask tgQ (.glean hd (cf 1 8)) ∧
    Runs tstTask tgQ (.gleanDone hd (cf 1 0x208)) ∧ Runs tstTask tgQ (.qpush hd (cf 2 8)) ∧ Runs tstTask tgQ (.qpush hd (cf 3 8)) ∧
    Runs tstReplay tgQ (.qstat hd (cf 1 8)) ∧ tgQ.ll.length < 16 ∧ Runs tstTask tgQ (.qpop hd (cf 1 8)) ∧ Runs tstTask tgQ (.qpop hd (cf 2 8)) := by
  constructorm* _ ∧ _ <;> first | decide | exact runs_of rfl rfl rfl (by decide)
/-- Whether a task record is read, or has to come from another device. -/
def recordTask (s : State) (va : Nat) : Option Bool :=
  match (groupRead s tgQ va 256).2 with
  | .ok _ => some true
  | .error none => some false
  | .error _ => none
theorem wit_TaskRequests_count : Counts 0x380000 0x380000 ∧ ∀ n, ¬ Counts 0x80000000 n := by
  refine ⟨by unfold Counts; decide, fun n h => ?_⟩
  obtain ⟨rfl, -, h⟩ := h
  exact absurd h (by decide)
set_option maxRecDepth 10000 in
theorem wit_TaskRequests : wideActs tgQ hd = true ∧ Runs tstTask tgQ (.taskarm hd (cf 4 0x40)) ∧
    Runs tstTask tgQ (.taskarm hd (cf 4 0x41)) ∧ tgQ.s.getD 0 0 = 0 ∧ (tgQ.s.getD 1 0).toNat % 2 ^ 16 = 0 ∧ (tgQ.s.getD 2 0).toNat % 2 ^ 16 ≠ 0 ∧
    Runs tstTask tgQ (.taskarm hd (cf 4 0x142)) ∧ Runs tstTask tgQ (.taskarm hd (cf 4 0x82)) ∧ Runs tstTask tgQ (.taskarm hd (cf 2 0x82)) ∧
    recordTask tstTask 0x3A0000 = some true ∧ recordTask (tstFar tgQ) 0x203A0000 = some false ∧ taskMalformed tkw = false ∧ taskMalformed (List.replicate 32 0xFF) = true ∧
    Runs tstTask tgQ (.taskdec hd (cf 0 0)) ∧ Runs tstTask tgQ (.taskdec hd (cf 0 2)) ∧ Runs tstTask tgQ (.taskdec hd (cf 0 0x1082)) ∧
    Runs tstTask tgQ (.taskdec hd (cf 0 0x1142)) := by
  constructorm* _ ∧ _ <;> first | decide | exact runs_of rfl rfl rfl (by decide)

/-- A queue whose descriptor stands at 0x380000, with an entry. -/
def q0 : Queue := ⟨0x380000, 0, 0, 0x390000, 8, false, false, 0, 0, 0xFFFFFF, 1, false, [], 3, [⟨2, List.replicate 64 5, [], [], none⟩]⟩
/-- One of a system queue, one empty, one with an owner, and one that can be gleaned. -/
def qSys (n : Nat) : Queue := { q0 with sys := n }
@[inherit_doc qSys] def qNone : Queue := { q0 with ents := [] }
@[inherit_doc qSys] def qOwn : Queue := { q0 with ownTeam := 5 }
@[inherit_doc qSys] def qGlean : Queue := { q0 with gleanOk := true, marked := true, hood := [0x3C0000, 2], ownTeam := 5 }
@[inherit_doc qSys] def qMine : Queue := { q0 with ents := [⟨2, List.replicate 64 5, [], [], some 2⟩] }
/-- The group that waits for the answer to a request, and its request. -/
def tgAsk : Group := { tgQ with st := .parked, park := some .queue }
@[inherit_doc tgAsk] def rqs (a : QAsk) : QReq := ⟨3, 9, 0x380000, none, 0, a, tgQ.active, none, false⟩
/-- The record that marked the queue, at which the group's team has arrived. -/
def recM : GRec := ⟨0x3C0000, 0, 0, 2, 1, 1, 5, 0, 0, 0, 0, 0, [⟨0, 0, 0, 0, 2, 0, none⟩], [], [], [], [], none, []⟩
/-- The machine with a queue and a request to it. -/
def tstQ (q : Queue) (a : QAsk) : State := { tst tgAsk with queues := [q], qreqs := [rqs a], recs := [recM] }

/-- The place where an entry of a queue's context would stand. -/
def slotAt (s : State) (va : Nat) : Option Nat :=
  match peek s 0 va .wr with
  | .ok ph => some ph.pa
  | .error _ => none
/-- Who asks. -/
def asker (q : Queue) (a : QAsk) : Asker := askerOf (tstQ q a) tgAsk (rqs a)
theorem asks_of {s : State} {a : QAsk} (h : groupOf s 3 = some tgAsk ∧ qreqOf s 3 = some (rqs a)) (hl : hasLeft s (rqs a) = true ∧ behind s (rqs a) = false) :
    Asks s tgAsk (rqs a) := ⟨h.1, rfl, rfl, h.2, rfl, rfl, hl⟩
theorem wit_QueuesServeRequests : (tstQ q0 .close).canon = true ∧ Asks (tstQ q0 .close) tgAsk (rqs .close) ∧
    (∀ q ∈ [q0, qSys 1, qSys 2, qNone, qOwn, qGlean, qMine], queueAt (tstQ q .close) 0x380000 = some q ∧ q.pa = 0x380000 ∧ q.st = 1) ∧
    NoPopWaits (tstQ q0 .close) 0x380000 ∧ Asks (tstQ q0 (.push (List.replicate 64 1))) tgAsk (rqs (.push (List.replicate 64 1))) ∧
    q0.sys < 2 ∧ q0.ents.length < q0.cap ∧ slotAt (tstQ q0 .close) (0x390000 + 64 * 3) = some 0x3900C0 ∧
    2 ≤ (qSys 2).sys ∧ q0.ents ≠ [] ∧ qNone.ents = [] ∧
    mayPop (asker q0 (.pop 8 1)) q0 = true ∧ (queueHead (tstQ q0 (.pop 8 1)) q0).isSome = true ∧ mayPop (asker qOwn (.pop 8 1)) qOwn = false ∧
    isReplay (tstQ qNone (.try_ 8 1)) 0 = false ∧ queueHead (tstQ qNone (.try_ 8 1)) qNone = none ∧ qGlean.gleanOk = true ∧ qGlean.marked = true ∧
    mayGlean (tstQ qGlean (.glean 8 1)) (asker qGlean (.glean 8 1)) qGlean = true ∧ (queueTail (tstQ qGlean (.glean 8 1)) qGlean).isSome = true ∧
    Asks (tstQ qMine (.done 2)) tgAsk (rqs (.done 2)) ∧
    (qMine.ents.find? (fun e => decide (e.seq % 2 ^ 32 = 2) && decide (e.claimer = some tgAsk.team))).isSome = true ∧
    q0.ents.find? (fun e => decide (e.seq % 2 ^ 32 = 2) && decide (e.claimer = some tgAsk.team)) = none := by
  constructorm* _ ∧ _ <;> first | decide | exact asks_of (by decide) (by decide) | exact (fun _ hc => nomatch hc)

/-- A descriptor in memory that is well formed, one that is not, and a CLOSED one. -/
def dsc (cap live : W64) : List W64 := [0x390000, cap, 0, 0xFFFFFF, live, 0, 0, 0]
/-- The machine with an IDLE or CLOSED queue, and a request to it. -/
def tstIdle (cap live : W64) (a : QAsk) : State :=
  let s := tst tgAsk
  { s with mem := memPut s.mem 0x380000 (wordsLE (dsc cap live)), qreqs := [rqs a] }
/-- The context of the small machine, and one that has opened all its queues. -/
def cx0 : Context := { Context.empty with st := .active, recd := some soloCtx, openQ := 3 }
@[inherit_doc cx0] def cxFull : Context := { cx0 with openQ := 16 }
@[inherit_doc cx0] def tstFullQ : State :=
  let s := tstIdle 8 0 (.stat 8)
  { s with contexts := s.contexts.set 0 cxFull }
theorem wit_QueuesOpen : (tstIdle 8 0 (.stat 8)).canon = true ∧ Asks (tstIdle 8 0 (.stat 8)) tgAsk (rqs (.stat 8)) ∧
    queueAt (tstIdle 8 0 (.stat 8)) 0x380000 = none ∧ (tstIdle 8 0 (.stat 8)).contexts[0]? = some cx0 ∧ cx0.recd = some soloCtx ∧
    bits (memNat (tstIdle 8 0 (.stat 8)).mem (0x380000 + 0x20) 8) 42 2 ≠ 3 ∧ (readQueue (tstIdle 8 0 (.stat 8)) 0x380000 0 0).isSome = true ∧
    cx0.openQ < soloCtx.nqueue ∧ readQueue (tstIdle 0 0 (.stat 8)) 0x380000 0 0 = none ∧ tstFullQ.contexts[0]? = some cxFull ∧
    soloCtx.nqueue ≤ cxFull.openQ ∧ Asks tstFullQ tgAsk (rqs (.stat 8)) ∧
    bits (memNat (tstIdle 8 0xC0000000000 (.push [])).mem (0x380000 + 0x20) 8) 42 2 = 3 ∧
    Asks (tstIdle 8 0xC0000000000 (.push [])) tgAsk (rqs (.push [])) ∧
    mayPop (askerOf (tstIdle 8 0xC0000000000 (.pop 8 1)) tgAsk (rqs (.pop 8 1)))
      (descQueue (descWords (tstIdle 8 0xC0000000000 (.pop 8 1)) 0x380000) 0x380000 0 0) = true := by
  constructorm* _ ∧ _ <;> first | decide | exact asks_of (by decide) (by decide)

/-- A claim with its entry, one with none, and one whose group is not parked for it. -/
def cl (e : Option QEntry) (direct : Bool) : Claim := ⟨3, 9, 0x380000, 0, 8, 1, direct, 0, e, e.isNone, false, false, false, tgQ.active⟩
@[inherit_doc cl] def tstCl (c : Claim) : State := { tst tgAsk with claims := [c] }
@[inherit_doc cl] def ent0 : QEntry := ⟨2, List.replicate 64 5, [], [], none⟩
theorem wit_ClaimsAreWritten : groupOf (tstCl (cl (some ent0) true)) 3 = some tgAsk ∧ tgAsk.st = .parked ∧ tgAsk.halted = false ∧ tgAsk.s.length = 64 ∧
    tgAsk.p.length = 7 ∧ switchHolds (tstCl (cl none true)) tgAsk = false ∧ ∀ e ∈ [some ent0, none], ∀ d ∈ [true, false], (tstCl (cl e d)).claims.find? (fun c => decide (c.gid = 3) &&
      claimReady (tstCl (cl e d)) c && (!c.direct || decide (tgAsk.st = .parked) || decide (tgAsk.st = .saved))) = some (cl e d) := by decide

/-- The machine whose counter 1 has a value, armed or not, with a request. -/
def tstCtr (v : Int) (armed : Bool) (a : QAsk) : State :=
  let s := tst tgAsk
  { s with contexts := s.contexts.set 0 { cx0 with ctrs := [⟨1, v, armed, if armed then tkw else [], none, []⟩] }, qreqs := [rqs a] }
/-- The value and the state of counter 1. -/
def ctr1 (s : State) : Int × Bool := ((ctrOf s 0 1).val, (ctrOf s 0 1).armed)
theorem wit_CountersFireTasks : Asks (tstCtr 0 false (.dec 1 1)) tgAsk (rqs (.dec 1 1)) ∧ 0 < 64 ∧ ctr1 (tstCtr 0 false (.dec 1 1)) = (0, false) ∧
    ctr1 (tstCtr (-2147483648) false (.dec 1 1)) = (-2147483648, false) ∧
    ctr1 (tstCtr 2 true (.dec 1 1)) = (2, true) ∧ ctr1 (tstCtr 1 true (.dec 1 1)) = (1, true) ∧ ctr1 (tstCtr 1 true (.dec 1 2)) = (1, true) ∧
    ctr1 (tstCtr 1 true (.arm 1 1 tkw)) = (1, true) ∧ ctr1 (tstCtr (-5) false (.arm 1 1 tkw)) = (-5, false) ∧
    ctr1 (tstCtr (-1) false (.arm 1 1 tkw)) = (-1, false) ∧ ctr1 (tstCtr 0 false (.arm 1 1 tkw)) = (0, false) := by
  constructorm* _ ∧ _ <;> first | decide | exact asks_of (by decide) (by decide)

/-- A task that has fired, and the machine with a queue for it. -/
def fr0 : Fired := ⟨9, 0, none, 0x380000, List.replicate 64 1, [], [], false⟩
@[inherit_doc fr0] def tstFired (q : Queue) : State := { tst tgQ with fired := [fr0], queues := [q] }
/-- The device and the address of a task's queue. -/
def queuePlace (s : State) (va : Nat) : Option (Option Nat × Nat) :=
  match (walkNow s 0 va .rw).2 with
  | .ok ph => some (ph.dev, ph.pa)
  | .error _ => none
theorem wit_TasksArePushed : (tstFired q0).canon = true ∧ (tstFired q0).fired.find? (fun x => decide (x.key = 9)) = some fr0 ∧
    firedReady (tstFired q0) fr0 = true ∧ (tstFired q0).fired.takeWhile (fun x => decide (x.key ≠ fr0.key)) = [] ∧
    queueAt (tstFired q0) 0x380000 = some q0 ∧ q0.sys < 2 ∧ q0.st = 1 ∧ q0.ents.length < q0.cap ∧ NoPopWaits (tstFired q0) q0.pa ∧
    queueAt (tstFired (qSys 2)) 0x380000 = some (qSys 2) ∧ 2 ≤ (qSys 2).sys ∧ queuePlace (tstFired q0) 0x380000 = some (none, 0x380000) ∧
    queuePlace { tstFar tgQ with fired := [fr0] } 0x20380000 = some (some 5, 0x380000) ∧ canSend (tstFar tgQ) 5 0x380000 = true := by
  constructorm* _ ∧ _ <;> first | decide | exact (fun _ hc => nomatch hc)

/-! ### Witnesses: spawning, exceptions, special registers -/

/-- The group with an entry address in s1, a misaligned one in s2, an unmapped one in s3; and as an activation. -/
def tgS : Group := { tg with active := 1, s := ((tg.s.set 1 0x40000).set 2 0x40004).set 3 0xA000000000 }
@[inherit_doc tgS] def tgAct : Group := { tgS with launch := none }
/-- SPAWN of every active thread, with the payload in v8 to v10. -/
def spf (sdesc : BitVec 6) : CF := cf sdesc 0x3808
/-- A spawn bin with n deposits. -/
def bn (num n : Nat) : Bin := ⟨num, 1, 0x40000, 0, none, 2, 1024, 0, List.replicate n (1, 2), []⟩
/-- A machine whose cluster holds these bins, and the same in replay mode. -/
def tstBins (g : Group) (bs : List Bin) : State :=
  let s := tst g
  { s with clusters := s.clusters.set 0 { Cluster.empty with bins := bs } }
@[inherit_doc tstBins] def tstBinsR (bs : List Bin) : State :=
  let s := tstBins tgS bs
  { s with contexts := s.contexts.set 0 cxReplay }
/-- Sixty-four bins of another launch. -/
def full : List Bin := (List.range 64).map (fun n => { bn n 1 with launch := 99 })

theorem wit_SpawnDeposits : (tst tgAct).cur = some 3 ∧ groupOf (tst tgAct) 3 = some tgAct ∧ tgAct.launch = none ∧ Runs (tst tgS) tgS (.spawn hd (spf 1)) ∧
    tgS.launch ≠ none ∧ wideActs tgS hd = true ∧ wideActs tgS ⟨0, false, 0, false⟩ = false ∧ Runs (tst tgS) tgS (.spawn ⟨0, false, 0, false⟩ (spf 1)) ∧
    Runs (tst tgS) tgS (.spawn hd (spf 2)) ∧ Runs (tst tgS) tgS (.spawn hd (spf 3)) ∧ placeOf (tst tgS) tgS .fetch 0xA000000000 = none ∧
    (placeOf (tst tgS) tgS .fetch 0x40000).isSome = true ∧ (deposits tgS 0x40000 8 1024 [0] 0 (tst tgS)).2 = [] := by
  constructorm* _ ∧ _ <;> first | decide | exact runs_tst rfl (by decide)
set_option maxRecDepth 10000 in
theorem wit_SpawnDeposits_bins : Runs (tstBinsR full) tgS (.spawn hd (spf 1)) ∧ (deposits tgS 0x40000 8 1024 [0] 0 (tstBinsR full)).2 = [0] ∧
    (tstBins tgS [bn 0 1]).clusters.length = 144 ∧ (clusterAt (tstBins tgS [bn 0 1]) 0).bins.find? (fun b => b.hasKey (keyOf (tstBins tgS [bn 0 1]) tgS 0x40000 8 0)) = some (bn 0 1) ∧
    (bn 0 1).deps.length + 1 < tgS.width ∧ (clusterAt (tstBins tgS [bn 0 63]) 0).bins.find? (fun b => b.hasKey (keyOf (tstBins tgS [bn 0 63]) tgS 0x40000 8 0)) = some (bn 0 63) ∧
    tgS.width ≤ (bn 0 63).deps.length + 1 ∧ (clusterAt (tstBins tgS []) 0).bins.find? (fun b => b.hasKey (keyOf (tstBins tgS []) tgS 0x40000 8 0)) = none ∧
    (∀ m, m < 0 → ∃ b ∈ (clusterAt (tstBins tgS []) 0).bins, b.num = m) ∧
    (clusterAt (tstBins tgS full) 0).bins.find? (fun b => b.hasKey (keyOf (tstBins tgS full) tgS 0x40000 8 0)) = none ∧
    (∀ m, m < 64 → ∃ b ∈ (clusterAt (tstBins tgS full) 0).bins, b.num = m) ∧ isReplay (tstBins tgS full) 0 = false ∧ isReplay (tstBinsR full) 0 = true ∧
    (oldestBin (tstBins tgS full) 0).isSome = true := by
  constructorm* _ ∧ _ <;> first | decide | exact runs_of rfl rfl rfl (by decide)
theorem wit_BinsAreLaunched : Runs (tst tgAct) tgAct (.binfl hd (cf 1 0)) ∧ tgAct.launch = none ∧ Runs (tstBins tgS [bn 0 1]) tgS (.binfl hd (cf 1 0)) ∧
    Runs (tstBins tgS [bn 0 1]) tgS (.binflAll hd (cf 0 1)) ∧ wideActs tgS hd = true ∧ bn 0 1 ∈ (clusterAt (tstBins tgS [bn 0 1]) 0).bins ∧
    some (bn 0 1).launch = tgS.launch ∧ isReplay (tstBins tgS [bn 0 1]) 0 = false ∧ (bn 0 1).entry.toNat = (tgS.s.getD 1 0).toNat % 2 ^ 57 ∧
    (∀ b ∈ (clusterAt (tst tgS) 0).bins, some b.launch ≠ tgS.launch) ∧
    (clusterAt (tstBins tgS [bn 0 1]) 0).bins.find? (fun b => decide (b.num = 0)) = some (bn 0 1) ∧ (bn 0 1).replay = none ∧
    ({ bn 0 1 with timer := 0 } : Bin).start + 0 ≤ cyclesOf (tstBins tgS [{ bn 0 1 with timer := 0 }]) 0 := by
  constructorm* _ ∧ _ <;> first | decide | exact runs_of rfl rfl rfl (by decide)

/-- The group in handler mode, and one with few registers, in a context that may not run privileged instructions. -/
def tgH : Group := { tg with handler := true }
@[inherit_doc tgH] def tg8 : Group := { tg with nregs := 8 }
@[inherit_doc tgH] def cxUser : Context := { Context.empty with st := .active, recd := some { soloCtx with priv := false }, openQ := 3 }
@[inherit_doc tgH] def tstUser : State :=
  let s := tst tg
  { s with contexts := s.contexts.set 0 cxUser }
/-- A pop of eight-byte elements into a register that is not even. -/
def popOdd : Instr := .strmpop hd (cf 0 3)
theorem wit_FaultsBeforeTheOperation_stream : (let x : Stream := { Stream.empty with st := .running, team := 2, recd := [0, 0, 0, 0, 0, 0, 3, 0] }
    ∃ p ∈ strmSpan (onCore (tst tg) 0 (fun c => { c with streams := c.streams.set 0 x })) tg popOdd, p.1 % p.2 ≠ 0) := by decide
theorem wit_FaultsBeforeTheOperation : (Instr.trap hd ⟨1, 0, 0⟩).parts ≠ none ∧ (tst tg).cur = some tg.id ∧ groupOf (tst tg) tg.id = some tg ∧
    (Instr.trap hd ⟨1, 0, 0⟩).wf = false ∧ (Instr.iadd hd { vf .s32 with d := 64 }).wf = true ∧ tgH.handler = true ∧
    (∃ r ∈ spanRegs (vreads (.iadd hd { vf .s32 with d := 64 }) ++ vwrites (.iadd hd { vf .s32 with d := 64 })), 64 ≤ r) ∧
    (Instr.halt hd (rf 0 0 0 0)).wf = true ∧ isPrivileged (.halt hd (rf 0 0 0 0)) = true ∧
    ((ctxRec tstUser 0).map (fun (r : CRec) => r.priv)).getD false = false ∧ groupOf tstUser tg.id = some tg ∧
    (∃ r ∈ spanRegs (vreads (.iadd hd { vf .s32 with d := 64 }) ++ vwrites (.iadd hd { vf .s32 with d := 64 })), tg8.nregs ≤ r) := by
  constructorm* _ ∧ _ <;> decide
theorem wit_UnqualifiedGroupWide : (Instr.nop ⟨0, false, 0, false⟩ b0).parts = some (0x0E7, ⟨0, false, 0, false⟩, .b b0) ∧ 0xC0 ≤ 0x0E7 ∧ 0x0E7 < 0x100 ∧ tg.launch ≠ none ∧
    Runs (tst tg) tg (.nop ⟨0, false, 0, false⟩ b0) ∧ wideActs tg ⟨0, false, 0, false⟩ = false := by
  constructorm* _ ∧ _ <;> first | decide | exact runs_tst rfl (by decide)

/-- The group with a flag that is set and enabled. -/
def tgFl : Group := { tg with flags := 1, flagen := 1 }
theorem wit_SoftwareTraps : Runs (tst tgH) tgH (.trap hd ⟨0, 0, 5⟩) ∧ Runs (tst tgH) tgH (.bkpt hd ⟨0, 0, 5⟩) ∧ wideActs tgH hd = true ∧ tgH.handler = true ∧
    tgH.ll = [] ∧ Runs (tst tg) tg (.trap hd ⟨0, 0, 5⟩) ∧ Runs (tst tg) tg (.bkpt hd ⟨0, 0, 5⟩) ∧ Runs (tst tg) tg (.tfence hd b0) ∧ wideActs tg hd = true ∧
    Runs (tst tg16) tg16 (.tfence hd b0) ∧ tg16.ll ≠ [] ∧ Runs (tst tgFl) tgFl (.tfence hd b0) ∧ tgFl.flags &&& tgFl.flagen ≠ 0 ∧
    tg.flags &&& tg.flagen = 0 := by
  constructorm* _ ∧ _ <;> first | decide | exact runs_tst rfl (by decide)
theorem wit_SpecialRegisters : Runs (tst tg) tg (.sread hd (rf 8 0 0 1)) ∧ wideActs tg hd = true ∧ (teamOf (tst tg) tg.team).isSome = true ∧
    (ctxRec (tst tg) tg.ctx).isSome = true ∧ Runs (tst tg) tg (.sread hd (rf 8 0 0 25)) ∧ Runs (tst tg) tg (.sread hd (rf 8 0 0 20)) ∧
    Runs (tst tg) tg (.sread hd (rf 8 0 0 26)) ∧ Runs (tst tg) tg (.sread hd (rf 8 0 0 9)) ∧ Runs (tst tg) tg (.sread hd (rf 8 0 0 0)) ∧
    Runs (tst tg) tg (.sread hd (rf 8 0 0 12)) ∧ tg.ll = [] ∧ Runs (tst tg16) tg16 (.sread hd (rf 8 0 0 12)) ∧ tg16.ll ≠ [] ∧
    Runs (tst tg) tg (.sread hd (rf 8 0 0 17)) ∧ Runs (tst tg16) tg16 (.sread hd (rf 8 0 0 18)) ∧ 16 ≤ tg16.ll.length ∧
    Runs (tst tg) tg (.swrite hd (rf 0 8 0 12)) ∧ Runs (tst tg) tg (.swrite hd (rf 0 8 0 13)) ∧ Runs (tst tg) tg (.swrite hd (rf 0 8 0 14)) ∧
    Runs (tst tg) tg (.swrite hd (rf 0 8 0 19)) ∧ Runs (tst tg16) tg16 (.swrite hd (rf 0 8 0 12)) := by
  constructorm* _ ∧ _ <;> first | decide | exact runs_tst rfl (by decide)

/-- A group that waits for a result with a fault pending; a team with a handler. -/
def tgPend : Group := { tgAtom with pendTrap := some (trapC 0x25 0) }
@[inherit_doc tgPend] def tgDue : Group := { tg with pendTrap := some (trapC 0x25 0) }
@[inherit_doc tgPend] def tstTb : State := { tst tg with teams := [{ tm16 with trapbase := 0x48000 }] }
theorem wit_TakingAnException : groupOf (tst tgPend) 3 = some tgPend ∧ (teamOf (tst tgPend) 2).isSome = true ∧ (∃ l ∈ tgPend.ll, l.need ≠ 0) ∧
    (∀ l ∈ tgDue.ll, l.need = 0) ∧ tgDue.pendTrap = some (trapC 0x25 0) ∧ tgDue.st ≠ .saved ∧ tgDue.halted = false ∧ tearing (tst tgDue) 0 = false ∧
    switchHolds (tst tgDue) tgDue = false ∧ tg.coal = [] ∧ tg.fifo = [] ∧ (tst tg).flight = [] ∧ tgHeld.handler = false ∧ tgHeld.fifo ≠ [] ∧
    (teamOf (tst tgHeld) 2).map (fun (t : Team) => t.trapbase) = some 0 ∧
    tgH.handler = true ∧ tg.handler = false ∧ (teamOf (tst tg) 2).map (fun (t : Team) => t.trapbase) = some 0 ∧
    (teamOf tstTb 2).map (fun (t : Team) => t.trapbase) = some 0x48000 ∧ (match translate tstTb 0 none 0 (slotVA tstTb tg) .wr with
      | (_, .ok ph) => decide (ph.dev = none)
      | _ => false) = true := by decide
set_option maxRecDepth 10000 in
theorem wit_TakingAnException_breakpoint : (writeLines (tst tg) { tg with pos := tg.pos + 1 } (fun _ => true)).isSome = true ∧
    ((writeLines (tst tg) { tg with pos := tg.pos + 1 } (fun _ => true)).bind (fun s1 =>
      saveSlot s1 { tg with pos := tg.pos + 1 } (saveFrame s1 { tg with pos := tg.pos + 1 } 0x2A true))).isSome = true := by
  decide +kernel
theorem wit_SaveSlotLayout : (teamOf (tst tgCall) tgCall.team).isSome = true ∧ tgCall.s.length = 64 ∧ tgCall.a.length = 16 ∧ tgCall.mB.length = 16 ∧
    tgCall.mL.length = 16 ∧ tgCall.p.length = 7 ∧ tgCall.stack.length ≤ 16 ∧ (trapFrame tgCall (trapC 0x25 0)).trap.cause < 256 ∧
    (trapFrame tgCall (trapC 0x25 0)).pos < 16 ∧ tgCall.liveIdx < 4096 ∧ tgCall.stack[0]? = some ⟨3, 0x40000, 2⟩ := by decide
theorem wit_SlotRoundTrip : tgCall.s.length = 64 ∧ tgCall.p.length = 7 ∧ tgCall.liveIdx < 4096 ∧ tgCall.left = 0 ∧ tgCall.mB = List.replicate 16 0 ∧
    tgP.active = BitVec.allOnes 64 ∧ widthMask 64 = BitVec.allOnes 64 ∧ tgCall.width = 64 ∧ tgCall.p = List.replicate 7 0 ∧
    (∀ e ∈ tgCall.stack, e = ⟨3, 0x40000, 2⟩) := by
  decide

/-- The machine whose slot holds a frame of a fault at an instruction, or at a header, and these active threads. -/
def tstSlot (hdr : Bool) (act : Byte) : State :=
  let s := tst tgH
  { s with mem := memPut (memPut s.mem 0x800002 [if hdr then 0x10 else 0]) 0x800548 [act] }
/-- The bytes of the slot, as the return from the trap reads them. -/
def slotOfTst (s : State) : Option (List Byte) :=
  match translate s 0 none 0 (slotVA s tgH) .rd with
  | (s1, .ok ph) => if ph.dev = none then some (memBytes s1.mem ph.pa 2048) else none
  | _ => none
/-- The active threads that the slot gives. -/
def activeOf (s : State) : Option TMask := (slotOfTst s).bind (fun b => (loadRegs b tgH).map (fun (k : Group) => k.active))
theorem wit_ReturnFromTrap : Runs (tst tg) tg (.rett hd (rf 0 0 0 0)) ∧ Runs (tst tgH) tgH (.rett hd (rf 0 0 0 0)) ∧
    Runs (tst tgH) tgH (.rettSkip hd (rf 0 0 0 1)) ∧ Runs (tst tgH) tgH (.rettExit hd (rf 0 0 0 2)) ∧ wideActs tgH hd = true ∧ tgH.handler = true ∧
    tgH.ll = [] ∧ tgH.coal = [] ∧ tgH.fifo = [] ∧ slotHeld (tst tgH) tgH = false ∧
    slotHeld { tst tgH with flight := [rq (.store [(0x800008, 1)])] } tgH = true ∧
    Runs { tst tgH with flight := [rq (.store [(0x800008, 1)])] } tgH (.rett hd (rf 0 0 0 0)) := by
  constructorm* _ ∧ _ <;> first | decide | exact runs_of rfl rfl rfl (by decide)
theorem wit_ReturnFromTrap_slot : activeOf (tstSlot false 5) = some 5 ∧ activeOf (tstSlot true 5) = some 5 ∧ activeOf (tstSlot false 0) = some 0 ∧
    (slotOfTst (tstSlot true 5)).map (fun b => (wAt b 0).getLsbD 20) = some true ∧ (slotOfTst (tstSlot false 5)).map (fun b => (wAt b 0).getLsbD 20) = some false := by
  decide +kernel

/-! ### Witnesses: barriers -/

/-- The group whose scalar registers hold small counts, large ones, and the address of a record. -/
def tgB : Group := { tg with s := (((((tg.s.set 1 1).set 2 2000).set 3 0x100000000).set 4 0x380000).set 5 0x380008).set 6 0x1000000 }
/-- A group that waits at barrier 0 of the team. -/
def tgW (ph : Bool) : Group := { tg with id := 4, st := .parked, park := some (.barw 0 ph) }
/-- The machine with a barrier 0, and with a group that waits at it. -/
def tstBar (x : NBar) : State := { tst tgB with teams := [{ tm16 with bars := tm16.bars.set 0 x }] }
@[inherit_doc tstBar] def tstBarW (x : NBar) : State := { tstBar x with groups := [tgB, tgW x.ph] }
/-- An active barrier that expects two arrivals, one that expects one, one with too many landings, one with bytes to come, an overrun one. -/
def br2 : NBar := ⟨1, false, 2, 0, 0, 0, 0⟩
@[inherit_doc br2] def br1 : NBar := ⟨1, false, 1, 0, 0, 0, 0⟩
@[inherit_doc br2] def brLand : NBar := ⟨1, false, 1, 0, 0, 0, 5⟩
@[inherit_doc br2] def brMax : NBar := ⟨1, true, 1, 0, 0, 0xFFFFFFFF, 5⟩
@[inherit_doc br2] def brOver : NBar := ⟨2, false, 1, 0, 0, 0, 5⟩
/-- The group with a store on its way out. -/
def tgBHeld : Group := { tgB with fifo := tgHeld.fifo }
@[inherit_doc tgBHeld] def tstBHeld : State := { tstBar br2 with groups := [tgBHeld] }

theorem runs_bar (x : NBar) {i : Instr} (hp : preFault (tstBar x) tgB i = none) : Runs (tstBar x) tgB i := runs_of rfl rfl rfl hp
theorem wit_NamedBarriers_setup : wideActs tgB hd = true ∧ (∀ x ∈ [NBar.uninit, br2, br1, brLand, brMax, brOver],
      ((teamOf (tstBar x) tgB.team).bind (fun (t : Team) => t.bars[0]?)) = some x ∧ ∀ k ∈ (tstBar x).groups, waitsAt k tgB.team 0 = false) ∧
    Runs (tstBar NBar.uninit) tgB (.bari hd (rf 0 1 0 0)) ∧ Runs (tstBar NBar.uninit) tgB (.bari hd (rf 0 0 0 0)) ∧
    Runs (tstBar NBar.uninit) tgB (.bari hd (rf 0 2 0 0)) ∧ Runs (tstBar NBar.uninit) tgB (.bari hd (rf 0 1 3 16)) ∧
    Runs (tstBarW br2) tgB (.bari hd (rf 0 1 0 0)) ∧ (∃ k ∈ (tstBarW br2).groups, waitsAt k tgB.team 0 = true) ∧
    (∀ k ∈ (tstBarW br2).groups, waitsAt k tgB.team 0 = true → k.id ≠ tgB.id) := by
  and_intros <;> decide
theorem wit_NamedBarriers_arrive : Runs (tstBar NBar.uninit) tgB (.bara hd (rf 8 0 0 0)) ∧ Runs (tstBar brOver) tgB (.barw hd (rf 0 0 0 0)) ∧
    Runs tstBHeld tgBHeld (.bara hd (rf 8 0 0 0)) ∧ releaseMet tstBHeld tgBHeld 2 = false ∧ releaseMet (tstBar br2) tgB 2 = true ∧
    Runs (tstBar br2) tgB (.bara hd (rf 8 0 0 0)) ∧ br2.arr + 1 < br2.exp ∧ Runs (tstBar br1) tgB (.bara hd (rf 8 0 0 0)) ∧ br1.land ≤ br1.decl ∧
    Runs (tstBar br2) tgB (.barw hd (rf 0 0 0 0)) ∧ Runs (tstBar br1) tgB (.barw hd (rf 0 0 0 0)) ∧ br1.exp ≤ br1.arr + 1 ∧ br1.land = br1.decl ∧
    Runs (tstBar brLand) tgB (.barw hd (rf 0 0 0 0)) ∧ brLand.exp ≤ brLand.arr + 1 ∧ brLand.decl < brLand.land ∧
    Runs (tstBar br2) tgB (.barexp hd (rf 0 1 0 0)) ∧ Runs (tstBar brMax) tgB (.barexp hd (rf 0 1 0 0)) ∧
    Runs (tstBar br2) tgB (.barph hd (rf 0 2 0 0)) ∧ Runs (tstBar br2) tgB (.barph hd (rf 0 1 0 0)) ∧ br2.ph ≠ decide ((1 : Nat) = 1) ∧
    Runs (tstBar br2) tgB (.barph hd (rf 0 0 0 0)) ∧ br2.ph = decide ((0 : Nat) = 1) ∧ Runs (tstBar br2) tgB (.barinv hd (rf 0 0 0 0)) := by
  and_intros <;> decide

/-- A record as GBAR.init finds it, of one member and this scope, and one as it is ACTIVE. -/
def rcw (scope : W64) : List W64 := [0x3C0000, 0x100000100000000 + scope, 0, 0, 0, 0, 0, 0]
@[inherit_doc rcw] def rcA (arr : List Arrived) : GRec := ⟨0x380000, 0, 0x3C0000, 0, 1, 1, 2, 0, 0, 0, 0, 0, arr, [], [], [], [], none, []⟩
/-- The machine with a record in memory, and the same with the record ACTIVE. -/
def tstRec (w : List W64) : State :=
  let s := tst tgB
  { s with mem := memPut s.mem 0x380000 (wordsLE w) }
@[inherit_doc tstRec] def tstAct (g : Group) (arr : List Arrived) : State := { tstRec (rcw 2) with groups := [g], recs := [rcA arr] }
/-- An arrival. -/
def arv : Arrived := ⟨0, 0, 0, 0, 2, 0, none⟩
/-- Where an access to the record finds it. -/
def recPh (s : State) (acc : Acc) : Option Phys := placeOf s tgB acc 0x380000

theorem wit_BarrierRecords_init : wideActs tgB hd = true ∧ Runs (tstRec (rcw 2)) tgB (.gbar hd (rf 0 5 6 0)) ∧ (tgB.s.getD 5 0).toNat % 64 ≠ 0 ∧
    (tstRec (rcw 2)).canon = true ∧ Runs (tstRec (rcw 2)) tgB (.gbarInit hd (rf 0 4 0 1)) ∧ (tgB.s.getD 4 0).toNat % 64 = 0 ∧
    recPh (tstRec (rcw 2)) .rw = some ph38 ∧ recAt (tstRec (rcw 2)) 0x380000 = none ∧ recMalformed (tstRec (rcw 2)) 0 (recWords (tstRec (rcw 2)) 0x380000) = false ∧
    recMalformed (tstRec []) 0 (recWords (tstRec []) 0x380000) = true ∧ (teamSpan (tstRec (rcw 2)) tgB).isSome = true ∧
    (teamSpan (tstRec (rcw 0)) tgB).map (fun x => x.2.1) = some 0 ∧ recMalformed (tstRec (rcw 0)) 0 (recWords (tstRec (rcw 0)) 0x380000) = false ∧
    bits (memNat (tstRec (rcw 0)).mem (0x380000 + 8) 8) 0 3 = 0 ∧ Runs (tstAct tgB []) tgB (.gbarInit hd (rf 0 4 0 1)) ∧
    (recAt (tstAct tgB []) 0x380000).isSome = true := by
  and_intros <;> decide
theorem wit_BarrierRecords_fini : Runs (tstRec (rcw 2)) tgB (.gbarFini hd (rf 0 4 0 2)) ∧ Runs (tstAct tgB []) tgB (.gbarFini hd (rf 0 4 0 2)) ∧
    recAt (tstAct tgB []) 0x380000 = some (rcA []) ∧ Runs (tstAct tgB [arv]) tgB (.gbarFini hd (rf 0 4 0 2)) ∧
    recAt (tstAct tgB [arv]) 0x380000 = some (rcA [arv]) ∧ (rcA [arv]).arr ≠ [] := by
  and_intros <;> decide

/-- The group whose operand of GBAR names two groups, and a member that the record has not. -/
def tgB2 : Group := { tgB with s := (tgB.s.set 6 0x2000000).set 7 0x1000005 }
/-- The machine whose team holds these slots. -/
def tstSlots (g : Group) (xs : List GSlot) : State := { tstAct g [] with teams := [{ tm16 with gslots := xs }] }
/-- Four slots at other records. -/
def four : List GSlot := [1, 2, 3, 4].map (fun n => ⟨n, 0, 0, 1, 1⟩)
theorem wit_BarrierRecords_gbar : Runs (tstRec (rcw 2)) tgB (.gbar hd (rf 0 4 6 0)) ∧ Runs (tstAct tgB []) tgB (.gbar hd (rf 0 4 0 0)) ∧
    Runs (tstAct tgB []) tgB (.gbar hd (rf 0 4 6 0)) ∧ bits (tgB.s.getD 0 0).toNat 24 8 = 0 ∧ bits (tgB.s.getD 6 0).toNat 24 8 = 1 ∧
    (tgB.s.getD 6 0).toNat < 2 ^ 32 ∧ memberOf (tstAct tgB []) tgB (rcA []) 0 = some 0 ∧ Runs (tstAct tgB2 []) tgB2 (.gbar hd (rf 0 4 7 0)) ∧
    memberOf (tstAct tgB2 []) tgB2 (rcA []) 5 = none ∧ Runs (tstSlots tgB four) tgB (.gbar hd (rf 0 4 6 0)) ∧ 4 ≤ four.length ∧
    Runs (tstSlots tgB [⟨0x380000, 0, 0, 3, 1⟩]) tgB (.gbar hd (rf 0 4 6 0)) ∧ releaseMet (tstAct tgB []) tgB (scopeCode 2) = true ∧
    Runs (tstAct tgBHeld []) tgBHeld (.gbar hd (rf 0 4 6 0)) ∧ releaseMet (tstAct tgBHeld []) tgBHeld (scopeCode 2) = false ∧
    Runs (tstSlots tgB2 []) tgB2 (.gbar hd (rf 0 4 6 0)) ∧ bits (tgB2.s.getD 6 0).toNat 24 8 = 2 ∧
    Runs (tstSlots tgB2 [⟨0x380000, 0, 0, 2, 1⟩]) tgB2 (.gbar hd (rf 0 4 6 0)) := by
  and_intros <;> decide
/-- The group that names a record of another device, and the machine in which it does. -/
def tgBFar : Group := { tgB with s := tgB.s.set 4 0x20380000 }
@[inherit_doc tgBFar] def tstBFar : State := { tstFar tgBFar with teams := [tm16] }
/-- The words of a record of scope 3, as its device has sent them: ACTIVE, IDLE and ABANDONED. -/
def farGot (state : W64) : List Got := [⟨3, 5, 7168, wordsLE (((rcw 3).set 4 state)) ++ List.replicate 448 0, 0⟩]
@[inherit_doc farGot] def tstBGot (state : W64) : State := { tstBFar with rgot := farGot state }
/-- The states of the words that GBAR reads of the record, where it reads them. -/
def farState (s : State) : Option Nat :=
  match (groupRead (afterOf s tgBFar .rw 0x20380000) tgBFar 0x20380000 64).2 with
  | .ok bs => some (bits (wAt bs 32).toNat 62 2)
  | .error _ => none
theorem wit_BarrierRecords_words : farState tstBFar = none ∧ farState (tstBGot 0x4000000000000000) = some 1 ∧ farState (tstBGot 0) = some 0 ∧
    farState (tstBGot 0x8000000000000000) = some 2 ∧ Runs (tstBGot 0x4000000000000000) tgBFar (.gbar hd (rf 0 4 6 0)) ∧
    bits ((rcw 3).getD 1 0).toNat 0 3 = 3 ∧ bits ((rcw 3).getD 1 0).toNat 32 24 = 1 ∧ bits (tgBFar.s.getD 6 0).toNat 0 24 = 0 := by
  and_intros <;> decide
theorem wit_BarrierRecords_remote : Runs tstBFar tgBFar (.gbar hd (rf 0 4 6 0)) ∧ Runs tstBFar tgBFar (.gbar hd (rf 0 4 0 0)) ∧ wideActs tgBFar hd = true ∧
    (placeOf tstBFar tgBFar .rw 0x20380000).map (fun p => p.dev) = some (some 5) ∧ teamOf tstBFar tgBFar.team = some tm16 ∧
    releaseMet (afterOf tstBFar tgBFar .rw 0x20380000) tgBFar (scopeCode 3) = true := by
  and_intros <;> decide
/-- The machine with the record ACTIVE, in replay mode; with a record of neither state, that is ABANDONED; and with its entries on
another device. -/
def tstActR : State := { tstAct tgB [] with contexts := tstReplay.contexts }
@[inherit_doc tstActR] def tstGone : State := tstRec ((rcw 2).set 4 0x8000000000000000)
@[inherit_doc tstActR] def tstEntFar : State :=
  let s := tstFar tgB
  { s with mem := memPut s.mem 0x380000 (wordsLE ((rcw 2).set 0 0x203C0000)), recs := [{ rcA [] with srec := 0x203C0000 }] }
/-- Whether the word of an entry is read, or has to come from another device. -/
def entryRead (s : State) (va : Nat) : Option Bool :=
  match (recRead s { tgB.who with ctx := 0 } tgB.launch tgB.core (ownReqs tgB) va 8).2 with
  | .ok _ => some true
  | .error none => some false
  | .error _ => none
theorem wit_BarrierRecords_strag : Runs tstActR tgB (.strag hd (rf 8 4 0 0)) ∧ isReplay tstActR 0 = true ∧ Runs (tstAct tgB []) tgB (.strag hd (rf 8 4 0 0)) ∧
    isReplay (tstAct tgB []) 0 = false ∧ recPh (tstAct tgB []) .rw = some ph38 ∧ recMalformed (tstAct tgB []) 0 (recWords (tstAct tgB []) 0x380000) = false ∧
    bits (memNat (tstAct tgB []).mem (0x380000 + 8) 8) 32 24 = 1 ∧ bits (tgB.s.getD 0 0).toNat 0 24 = 0 ∧ bits (tgB.s.getD 2 0).toNat 0 24 = 2000 ∧
    Runs (tstAct tgB []) tgB (.strag hd (rf 8 4 2 0)) ∧ entryRead (tstAct tgB []) 0x3C0000 = some true ∧ Runs tstGone tgB (.strag hd (rf 8 4 0 0)) ∧
    notActive tstGone ph38 = 10 ∧ recAt tstGone 0x380000 = none ∧ notActive (tstRec (rcw 2)) ph38 = 1 ∧ Runs tstEntFar tgB (.strag hd (rf 8 4 0 0)) ∧
    recMalformed tstEntFar 0 (recWords tstEntFar 0x380000) = false ∧ entryRead tstEntFar 0x203C0000 = some false := by
  and_intros <;> decide

/-- An arrival on its way, before and after its timestamp, and a record that a second member has still to reach. -/
def msg (node : Bool) : GMsg := ⟨9, node, 0x380000, none, 0, arv, none, false⟩
@[inherit_doc msg] def rc2 : GRec := { rcA [] with members := 2 }
/-- The machine with an arrival and a record, and a group that waits at the record. -/
def tstMsg (node : Bool) (rs : List GRec) : State :=
  { tstRec (rcw 2) with gmsgs := [msg node], recs := rs, groups := [{ tgB with st := .parked, park := some (.gbar 0x380000 5 0) }] }
theorem wit_BarrierArrivals : (tstMsg false []).gmsgs.find? (fun x => decide (x.key = 9)) = some (msg false) ∧ (msg false).node = false ∧
    (tstMsg true [rc2]).canon = true ∧ (msg true).node = true ∧ (msg true).dev = none ∧ nodeMsgs (tstMsg true [rc2]) (msg true) = [msg true] ∧ rc2.ups = [] ∧
    recReady (tstMsg true [rc2]) 0x380000 1 = true ∧ recAt (tstMsg true [rc2]) 0x380000 = some rc2 ∧
    (∀ a ∈ rc2.arr, a.mem ≠ (msg true).arr.mem) ∧ rc2.arr.length + 1 < rc2.members ∧ (rcA []).members ≤ (rcA []).arr.length + 1 ∧
    recAt (tstMsg true [rcA [arv]]) 0x380000 = some (rcA [arv]) ∧ (∃ a ∈ (rcA [arv]).arr, a.mem = (msg true).arr.mem) ∧
    recAt (tstMsg true []) 0x380000 = none ∧ canSend (tstFar tgB) 5 0x380000 = true ∧ linkFor (tstFar tgB) 5 0x380000 = some 0 ∧
    waitsAtRec 0x380000 { tgB with st := .parked, park := some (.gbar 0x380000 5 0) } = true ∧ (groupOf (tstMsg true []) 3).map (fun (g : Group) => g.park) = some (some (.gbar 0x380000 5 0)) := by
  and_intros <;> decide

/-! ### Witnesses: the matrix engine -/

/-- The group whose scalar registers hold a tile mask, a mask that is too wide, clusters, and the address of a tree descriptor. -/
def tgE : Group := { tg with active := 1, a := tg.a.set 1 0x390000, s := ((((tg.s.set 1 3).set 2 0x100000000).set 3 200).set 4 0x380000).set 5 0x380001 }
/-- The machine with an engine. -/
def tstE (e : Engine) : State := onEng (tst tgE) 0 (fun _ => e)
/-- An entry of the team in some state. -/
def ent (st : RSt) : REnt := ⟨0, st, 2, 3, false, 0, 0, false, none, 0⟩
/-- An engine with entries, bindings of streams 0 and 1, and commands. -/
def eng (es : List REnt) (b0 b1 : Nat) (cs : List ECmd) : Engine :=
  { Engine.empty with ents := es, cmds := cs, streams := [{ EStream.empty with bind := b0, span := [2] }, { EStream.empty with bind := b1, span := [2] }, EStream.empty, EStream.empty] }
/-- The machine whose team is the rein holder, with both streams bound to copies. -/
def tstR : State := tstE (eng [ent .rein] 1 1 [])
/-- The machine whose team holds its tiles and not the rein, and the one whose team has no entry. -/
def tstH : State := tstE (eng [ent .holding] 0 0 [])
@[inherit_doc tstH] def tstN : State := tstE Engine.empty
/-- The machine whose team is reset-pending. -/
def tstP : State := { tstN with teams := [{ tm16 with resetPend := true }] }
/-- A command of the group. -/
def cmd (k : CmdK) (ph : Nat) : ECmd := { queued tstN tgE 9 k with phase := ph }
/-- The fields of an engine instruction on tile z, with its XFLAGS. -/
def zf (z : BitVec 5) (t : Ty) (x : BitVec 24) : XF := ⟨z, 0, 0, t, 0, x⟩

theorem wit_ResetPendingFaults : (Instr.zzero hd (zf 0 .u8 0)).parts = some (0x167, hd, .x (zf 0 .u8 0)) ∧ 0x160 < 0x167 ∧ 0x167 < 0x190 ∧
    Runs tstP tgE (.zzero hd (zf 0 .u8 0)) ∧ wideActs tgE hd = true ∧ (teamOf tstP tgE.team).map (fun (t : Team) => t.resetPend) = some true := by
  and_intros <;> decide

/-- No team is reset-pending. -/
def calm (s : State) : Bool := s.teams.all (fun t => !t.resetPend)
theorem engRuns_of {s : State} {g : Group} {i : Instr} {h : Hd} (hr : Runs s g i) (hw : wideActs g h = true) (hc : calm s = true) : EngRuns s g i h := by
  refine ⟨hr, hw, fun t ht => ?_⟩
  have hm : t ∈ s.teams := List.mem_of_find?_eq_some ht
  have := List.all_eq_true.mp hc t hm
  simpa using this
theorem er {s : State} {i : Instr} (hc : s.cur = some tgE.id) (hs : s.groups = [tgE]) (hp : preFault s tgE i = none) (hm : calm s = true) : EngRuns s tgE i hd :=
  engRuns_of (runs_of hc hs rfl hp) (by decide) hm

/-- Thirty-two entries of other teams. -/
def es32 : List REnt := (List.range 32).map (fun n => ⟨n, .posted, 100 + n, 0, false, n, 0, false, none, 0⟩)
theorem wit_ReservationsAndRein_mreq : Runs tstN tgE (.mreq hd (zf 0 .u8 1)) ∧ wideActs tgE hd = true ∧ 2 ^ 32 ≤ (tgE.s.getD 2 0).toNat ∧
    Runs tstN tgE (.mreq hd (zf 0 .u8 2)) ∧ Runs tstH tgE (.mreq hd (zf 0 .u8 1)) ∧ (∃ x ∈ (engOf tstH 0).ents, x.team = tgE.team) ∧
    (engOf tstN 0).ents = [] ∧ Runs (tstE (eng es32 0 0 [])) tgE (.mreq hd (zf 0 .u8 1)) ∧ (∀ x ∈ es32, x.team ≠ tgE.team) ∧
    (∀ n, n < 32 → ∃ x ∈ es32, x.idx = n) := by
  and_intros <;> decide
theorem wit_ReservationsAndRein_rein : EngRuns tstN tgE (.reinget hd (zf 0 .u8 0)) hd ∧ EngRuns tstR tgE (.reinget hd (zf 0 .u8 0)) hd ∧
    EngRuns tstH tgE (.reinget hd (zf 0 .u8 0)) hd ∧ EngRuns tstH tgE (.reinpass hd (zf 0 .u8 0)) hd ∧ EngRuns tstR tgE (.reinpass hd (zf 0 .u8 0)) hd ∧
    EngRuns tstN tgE (.reinrel hd (zf 0 .u8 0)) hd ∧ EngRuns tstR tgE (.reinrel hd (zf 0 .u8 0)) hd ∧ EngRuns tstH tgE (.reinrel hd (zf 0 .u8 0)) hd ∧
    EngRuns (tstE (eng [ent .holding] 0 0 [cmd (.zzero 0) 0])) tgE (.reinrel hd (zf 0 .u8 0)) hd ∧ EngRuns tstN tgE (.reinrelKeep hd (zf 0 .u8 1)) hd ∧
    EngRuns tstH tgE (.reinrelKeep hd (zf 0 .u8 1)) hd ∧ EngRuns tstR tgE (.reinrelKeep hd (zf 0 .u8 1)) hd := by
  constructorm* _ ∧ _ <;> first | decide | exact er rfl rfl (by decide) (by decide)
set_option maxRecDepth 4000 in
theorem wit_ReservationsAndRein_state : (∀ x ∈ (engOf tstN 0).ents, x.team ≠ tgE.team) ∧ (engOf tstR 0).ents.find? (fun x => decide (x.team = tgE.team)) = some (ent .rein) ∧
    (engOf tstH 0).ents.find? (fun x => decide (x.team = tgE.team)) = some (ent .holding) ∧ holdsRein (engOf tstH 0) 2 = false ∧ holdsRein (engOf tstR 0) 2 = true ∧
    NotWaiting tstR tgE ∧ tstR.clusters.length = 144 ∧ tilesQuiet tstR 0 2 = true ∧ tilesQuiet (tstE (eng [ent .holding] 0 0 [cmd (.zzero 0) 0])) 0 2 = false := by
  constructorm* _ ∧ _ <;> first | decide | (unfold NotWaiting; decide)
theorem wit_TilesAndReinAreGranted : (entsOf (tstE (eng [ent .posted] 0 0 [])) 0).find? (fun y => decide (y.idx = 0)) = some (ent .posted) ∧ (ent .posted).restore = 0 ∧
    (∀ y ∈ entsOf (tstE (eng [ent .posted] 0 0 [])) 0, y.idx ≠ (ent .posted).idx → y.tmask &&& (ent .posted).tmask = 0 ∨ (y.st = .posted ∧ (ent .posted).age < y.age)) ∧
    (∀ x ∈ entsOf (tstE (eng [{ ent .holding with pending := true }] 0 0 [])) 0, x.st ≠ .rein) ∧
    (∃ x ∈ entsOf (tstE (eng [{ ent .holding with pending := true }] 0 0 [])) 0, x.st = .holding ∧ x.pending = true) := by
  and_intros <;> decide

/-- A full command queue. -/
def cs16 : List ECmd := List.replicate 16 (cmd (.zzero 0) 0)
/-- The group with a store on its way out, and the machine of it. -/
def tgEHeld : Group := { tgE with fifo := tgHeld.fifo }
@[inherit_doc tgEHeld] def tstEHeld : State := { tstR with groups := [tgEHeld] }
/-- How the rows of a tile are found. -/
def rowsOk (f : XF) (acc : Acc) : Bool :=
  match (zRows tstR tgE f acc).2 with
  | .ok _ => true
  | .error _ => false
theorem wit_EngineCommandsEnter : (∀ x ∈ plainCommands tstR tgE hd (zf 0 .f32 0), x.2.1.all (fun c => !c.1) = true ∨ x.2.2 = .mma 0 0 0 .f32 16 1 false false false false) ∧
    EngRuns tstR tgE (.zzero hd (zf 0 .u8 0)) hd ∧ EngRuns tstR tgE (.zscale hd (zf 0 .f32 1)) hd ∧ EngRuns tstR tgE (.zadd hd (zf 0 .f32 1)) hd ∧
    EngRuns tstR tgE (.zcvt hd (zf 0 .f32 0)) hd ∧ EngRuns tstR tgE (.osbind hd (zf 0 .u8 1)) hd ∧ EngRuns tstR tgE (.osflush hd (zf 0 .u8 0)) hd ∧
    EngRuns tstR tgE (.mma hd ⟨0, 0, 1, .f16, 0, 0⟩) hd ∧ EngRuns tstH tgE (.zzero hd (zf 0 .u8 0)) hd ∧ EngRuns tstR tgE (.hdrain hd (zf 0 .u8 8)) hd ∧
    EngRuns tstN tgE (.hdrain hd (zf 0 .u8 8)) hd ∧ EngRuns tstR tgE (.zld hd (zf 0 .f32 1)) hd ∧ EngRuns tstH tgE (.zld hd (zf 0 .f32 1)) hd ∧
    EngRuns tstR tgE (.zst hd (zf 0 .f32 1)) hd ∧ EngRuns tstN tgE (.zst hd (zf 0 .f32 1)) hd ∧ EngRuns tstR tgE (.zld hd (zf 0 .f32 0)) hd := by
  constructorm* _ ∧ _ <;> first | decide | exact er rfl rfl (by decide) (by decide)
theorem wit_EngineCommandsEnter_state : failing [(!holdsRein (engOf tstR 0) 2, 4), (!holdsTile (engOf tstR 0) 2 0, 5)] = none ∧
    failing [(!holdsRein (engOf tstH 0) 2, 4), (!holdsTile (engOf tstH 0) 2 0, 5)] = some 4 ∧ spanHolds tstR (engOf tstR 0) 2 0 = true ∧
    spanHolds tstN (engOf tstN 0) 2 0 = false ∧ ((engOf tstR 0).cmds.filter (fun c => c.kind.counts)).length < 16 ∧ (engOf tstR 0).pend = [] ∧
    16 ≤ ((engOf (tstE (eng [ent .rein] 0 0 cs16)) 0).cmds.filter (fun c => c.kind.counts)).length ∧
    failing (((plainCommands tstR tgE hd ⟨0, 0, 1, .f16, 0, 0⟩).getLast?.map (fun x => x.2.1)).getD []) = none := by
  and_intros <;> decide
set_option maxRecDepth 10000 in
theorem wit_EngineCommandsEnter_rows : rowsOk (zf 0 .f32 1) .rd = true ∧ rowsOk (zf 0 .f32 1) .wr = true ∧ rowsOk (zf 0 .f32 0x11) .rd = false := by
  and_intros <;> decide +kernel

/-- The machine whose stream 0 is bound to the harness, and the group that waits to feed it. -/
def tstF : State := tstE (eng [ent .rein] 2 0 [])
@[inherit_doc tstF] def tgFeed : Group := { tgE with st := .parked, park := some (.hfeed 0 9 [7]) }
@[inherit_doc tstF] def tstFeed : State := { tstF with groups := [tgFeed] }
/-- Two groups of the lane that wait to feed the stream. -/
def tstFeed2 : State := { tstF with groups := [{ tgFeed with id := 4, park := some (.hfeed 0 8 [7]) }, tgFeed] }
theorem wit_HarnessFeeds_order : FedBefore tstFeed2 tgFeed 0 9 ∧ ¬ FedBefore tstFeed tgFeed 0 9 := by
  refine ⟨⟨_, .head _, by decide, rfl, rfl, rfl, by decide, 8, [7], rfl, by decide⟩, ?_⟩
  rintro ⟨x, hx, h, -⟩
  simp only [tstFeed, List.mem_singleton] at hx
  exact h (hx ▸ rfl)
theorem wit_HarnessFeeds : EngRuns tstF tgE (.hfeed hd (zf 0 .u8 8)) hd ∧ EngRuns tstR tgE (.hfeed hd (zf 0 .u8 8)) hd ∧
    (streamOf (engOf tstF 0) 0).bind = 2 ∧ tgE.team ∈ (streamOf (engOf tstF 0) 0).span ∧
    ((streamOf (engOf tstF 0) 0).rows.getD (tgE.lane % 64) []).length + 4 * (threads tgE.active).length ≤ 256 ∧ (streamOf (engOf tstR 0) 0).bind = 1 ∧
    groupOf tstFeed 3 = some tgFeed ∧ switchHolds tstFeed tgFeed = false ∧ (streamOf (engOf tstFeed 0) 0).bind = 2 ∧ 0 < (engOf tstFeed 0).streams.length := by
  constructorm* _ ∧ _ <;> first | decide | rfl | exact er rfl rfl (by decide) (by decide)

/-- A pass of MMA with its operands: 16 rows of 16 elements of s8 from each stream. -/
def mmaCmd (ph : Nat) (chk : Bool := false) : ECmd := { cmd (.mma 0 0 1 .s8 16 1 false false chk false) ph with a := [List.replicate 16 1], b := List.replicate 256 1 }
/-- The machine with commands, stream 0 holding the first step of A. -/
def tstC (c : ECmd) : State :=
  let e := eng [ent .rein] 1 1 [c]
  tstE { e with streams := e.streams.set 0 { EStream.empty with bind := 1, data := List.replicate 16 1 } }
/-- The machine whose group has the result of the command outstanding. -/
def tstDrain : State :=
  let s := tstC (cmd (.hdrain 0 0 8 [0]) 0)
  { s with groups := [{ tgE with ll := [⟨9, 3, 1, [8], [], none, [], [], false, 0, 0, false, none, false, 0, none⟩] }] }
theorem wit_EngineWorks : (∀ k ∈ [cmd (.zzero 0) 0, cmd (.zscale 0 .f32 2) 0, cmd (.zadd 0 1 .f32) 0, cmd (.zcvt 0 .f32) 0, cmd (.hdrain 0 0 8 [0]) 0, cmd (.zzero 0) 2],
      qReady (engOf (tstC k) 0) = none ∧ headCmd (engOf (tstC k) 0) = some k ∧ ∀ x ∈ (engOf (tstC k) 0).cmds, x.key = k.key → x = k) ∧
    ((groupOf tstDrain 3).bind (fun (g : Group) => g.ll.find? (fun l => decide (l.key = 9)))).isSome = true ∧
    (cmd (.zzero 0) 2).todo = [] ∧ (tstC (cmd (.zzero 0) 2)).remotes = [] ∧ (groupOf (tstC (cmd (.zzero 0) 2)) 3).map (fun (g : Group) => g.st) = some .running := by
  and_intros <;> decide
set_option maxRecDepth 10000 in
theorem wit_EngineWorks_pass : headCmd (engOf (tstC (mmaCmd 0)) 0) = some (mmaCmd 0) ∧ (mmaCmd 0).kind.heavy = false ∧ bFull (mmaCmd 0) = true ∧
    aReady (engOf (tstC (mmaCmd 0)) 0) (mmaCmd 0) = true ∧ headCmd (engOf (tstC (mmaCmd 1)) 0) = some (mmaCmd 1) ∧ aFull (mmaCmd 1) = true ∧
    bFull (mmaCmd 1) = true ∧ switching (tstC (mmaCmd 0)) 0 = false ∧ headCmd (engOf (tstC (mmaCmd 1 true)) 0) = some (mmaCmd 1 true) ∧
    aFull (mmaCmd 1 true) = true ∧ bFull (mmaCmd 1 true) = true := by
  and_intros <;> decide

/-- The group with a failed command to report, and a group that waits for the reset of an empty cluster. -/
def tgBad : Group := { tgE with mwFault := some (mxs 1) }
@[inherit_doc tgBad] def tstBad : State := { tstN with groups := [tgBad] }
@[inherit_doc tgBad] def tgRst : Group := { tgE with st := .parked, park := some (.mreset 5) }
@[inherit_doc tgBad] def tstRst : State := { tstN with groups := [tgRst] }
/-- A cluster with entries, a command, a copy into its stream, the group that waits for its reset, and groups that wait there. -/
def parkedAt (n : Nat) (p : Park) : Group := { tgE with id := n, lane := n, st := .parked, park := some p }
@[inherit_doc parkedAt] def tstRst0 : State :=
  { tstE (eng [ent .holding] 1 0 [cmd (.zzero 0) 0]) with
    copies := [{ cpA with queued := true, recvs := [2] }, { cpA with id := 7 }],
    groups := [parkedAt 10 (.mreset 0), parkedAt 4 .reinget, parkedAt 5 .mwait, parkedAt 6 (.qwr 8), parkedAt 7 .reinrel, parkedAt 8 (.command 9)] }
set_option maxRecDepth 10000 in
theorem wit_EngineWaitsAndCounters_reset :
    tstRst0.groups.filter (fun k => decide (k.park = some (.mreset 0))) = [parkedAt 10 (.mreset 0)] ∧ tstRst0.clusters.length = 144 ∧
    (∀ k ∈ tstRst0.groups, tstRst0.groups.filter (fun j => decide (j.id = k.id)) = [k] ∧ k.st = .parked ∧ k.halted = false ∧ k.cluster = 0 ∧
      ∀ x ∈ (engOf tstRst0 0).cmds ++ (engOf tstRst0 0).pend, x.gid ≠ k.id) ∧ (∃ x ∈ entsOf tstRst0 0, x.team = tgE.team) ∧
    (teamOf tstRst0 2).isSome = true := by
  and_intros <;> decide
/-- The machine in replay mode. -/
def tstRR : State := { tstR with contexts := tstReplay.contexts }
/-- A tree descriptor of depth 1 with nodes at 0x390000 and biases at 0x3A0000, and the machine that holds it. -/
def trw : List W64 := [0x390000, 0x3A0000, 0, 0x1000000010, 0x100801, 0, 0, 0]
@[inherit_doc trw] def tstTree (e : Engine) : State :=
  let s := tstE e
  { s with mem := memPut s.mem 0x380000 (wordsLE trw) }
/-- Whether a tree descriptor is sound, or has to come from another device. -/
def treeRead (s : State) (va : Nat) : Option Bool :=
  match (readTree s tgE.who tgE.launch tgE.core (ownReqs tgE) va).2 with
  | .ok _ => some true
  | .error none => some false
  | .error _ => none
/-- A group parked in TREEBIND on a sound descriptor, and on a misaligned one. -/
def tgTree (va : Nat) : Group := { tgE with st := .parked, park := some (.treebind va) }
@[inherit_doc tgTree] def tstTreeP (va : Nat) : State := { tstTree (eng [ent .holding] 0 0 []) with groups := [tgTree va] }
theorem wit_EngineWaitsAndCounters_tree : (∀ va ∈ [0x380000, 0x380001, 0x3A0000], groupOf (tstTreeP va) 3 = some (tgTree va) ∧
      tearing (tstTreeP va) 0 = false ∧ (coreAt (tstTreeP va) 0).halted = false ∧ switchHolds (tstTreeP va) (tgTree va) = false ∧
      ∃ x ∈ entsOf (tstTreeP va) 0, x.team = (tgTree va).team) ∧
    treeRead (tstTreeP 0x380000) 0x380000 = some true ∧ treeRead (tstTreeP 0x3A0000) 0x3A0000 = none := by
  and_intros <;> decide
theorem wit_EngineWaitsAndCounters : EngRuns tstN tgE (.mwait hd (zf 0 .u8 0)) hd ∧ EngRuns (tstC (cmd (.zzero 0) 0)) tgE (.mwait hd (zf 0 .u8 0)) hd ∧
    EngRuns tstN tgE (.mstat hd (zf 0 .u8 8)) hd ∧ EngRuns tstR tgE (.mstat hd (zf 0 .u8 8)) hd ∧ EngRuns tstR tgE (.mstat hd ⟨0, 0, 0, .u8, 64, 0x48⟩) hd ∧
    EngRuns tstH tgE (.mstat hd (zf 0 .u8 0x48)) hd ∧ EngRuns tstRR tgE (.mstat hd (zf 0 .u8 8)) hd ∧ EngRuns tstN tgE (.mreset hd (zf 0 .u8 1)) hd ∧
    EngRuns tstN tgE (.mreset hd (zf 0 .u8 3)) hd ∧ EngRuns tstN tgE (.treebind hd (zf 0 .u8 4)) hd ∧ EngRuns tstH tgE (.treebind hd (zf 0 .u8 5)) hd ∧
    EngRuns (tstTree (eng [ent .holding] 0 0 [])) tgE (.treebind hd (zf 0 .u8 4)) hd := by
  constructorm* _ ∧ _ <;> first | decide | exact er rfl rfl (by decide) (by decide)
theorem wit_EngineWaitsAndCounters_state : EngRuns tstBad tgBad (.mwait hd (zf 0 .u8 0)) hd ∧ tgBad.mwFault = some (mxs 1) ∧
    (∃ k ∈ (engOf (tstC (cmd (.zzero 0) 0)) 0).cmds, k.gid = tgE.id ∧ k.kind.counts = true) ∧ (engOf tstN 0).cmds ++ (engOf tstN 0).pend = [] ∧
    isReplay tstRR 0 = true ∧ isReplay tstR 0 = false ∧ 143 < (tgE.s.getD 3 0).toNat ∧ (tgE.s.getD 1 0).toNat ≤ 143 ∧ inPart tstN 0 3 = true ∧
    tstRst.groups.filter (fun k => decide (k.park = some (.mreset 5))) = [tgRst] ∧ groupOf tstRst 3 = some tgRst ∧ (∀ k ∈ tstRst.groups, k.cluster ≠ 5) ∧
    (engOf tstRst 5).cmds = [] ∧ (engOf tstRst 5).pend = [] ∧ tstRst.copies = [] ∧ entsOf tstRst 5 = [] ∧ (teamOf tstRst 2).isSome = true ∧
    treeRead (tstTree (eng [ent .holding] 0 0 [])) 0x380000 = some true ∧ treeRead (tstFar tgE) 0x20380000 = some false ∧
    treeRead tstH 0x380000 = none := by
  refine ⟨engRuns_of (runs_of rfl rfl rfl (by decide)) (by decide) (by decide), ?_⟩
  and_intros <;> decide

/-! ### Witnesses: descents -/

/-- A bound tree of depth 1. -/
def trB : Tree := ⟨0x380000, 0x390000, 0x3A0000, 16, .f16, 1, 32⟩
/-- The group with an address in its scratchpad in a2, counts of REGRP in s6 and s7, and gradient arrays in s8 and s9. -/
def tgD : Group := { tgE with a := tgE.a.set 2 0x01F0000000000000, s := (((tgE.s.set 6 0x100000004).set 7 4).set 8 0x380000).set 9 0x384000 }
/-- The machine of that group with an engine. -/
def tstD (e : Engine) : State := { tstE e with groups := [tgD], teams := [tm16] }
/-- The rein holder with a bound tree, and with none. -/
def entT (t : Option Tree) : REnt := { ent .rein with tree := t }
@[inherit_doc entT] def tstT (t : Option Tree) : State := tstD (eng [entT t] 1 1 [])
theorem erD {s : State} {i : Instr} (hc : s.cur = some tgD.id) (hs : s.groups = [tgD]) (hp : preFault s tgD i = none) (hm : calm s = true) : EngRuns s tgD i hd :=
  engRuns_of (runs_of hc hs rfl hp) (by decide) hm
/-- The fields of a descent instruction. -/
def df (x : BitVec 24) : XF := ⟨0, 0, 0, .f16, 0, x⟩

theorem wit_DescentCommandsEnter : EngRuns (tstD (eng [ent .holding] 1 1 [])) tgD (.desc hd (df 0)) hd ∧ EngRuns (tstT none) tgD (.dstep hd (df 0)) hd ∧
    EngRuns (tstT (some trB)) tgD (.desc hd (df 0)) hd ∧ EngRuns (tstT (some trB)) tgD (.desc hd (df 1)) hd ∧
    EngRuns (tstT (some trB)) tgD (.desc hd (df 0x2000)) hd ∧ EngRuns (tstT (some trB)) tgD (.desc hd (df 0xA000)) hd ∧
    EngRuns (tstT (some trB)) tgD (.dstep hd (df 0)) hd ∧ EngRuns (tstT (some trB)) tgD (.dstep hd (df 1)) hd ∧
    EngRuns (tstT (some trB)) tgD (.ascend hd (df 0x12000)) hd ∧ EngRuns (tstT (some trB)) tgD (.ascend hd (df 0x10000)) hd ∧
    EngRuns (tstT (some trB)) tgD (.ascend hd (df 0x20000)) hd ∧ EngRuns (tstT (some trB)) tgD (.ascend hd (df 1)) hd ∧
    EngRuns (tstT none) tgD (.qrd hd (zf 0 .u8 8)) hd ∧ EngRuns (tstT none) tgD (.qrd hd (zf 0 .u8 0x40008)) hd ∧
    EngRuns (tstT none) tgD (.qwr hd (zf 0 .u8 8)) hd ∧ EngRuns (tstT none) tgD (.qwr hd (zf 0 .u8 0x40008)) hd := by
  constructorm* _ ∧ _ <;> exact erD rfl rfl (by decide) (by decide)
/-- Whether a range is found. -/
def ranges (a : W64) (n : Nat) : Bool :=
  match ownRange (tstT (some trB)) tgD a n with
  | .ok _ => true
  | .error _ => false
theorem wit_DescentCommandsEnter_state : holdsRein (engOf (tstD (eng [ent .holding] 1 1 [])) 0) 2 = false ∧ holdsRein (engOf (tstT none) 0) 2 = true ∧
    treeBound (tstT none) tgD = none ∧ treeBound (tstT (some trB)) tgD = some trB ∧
    failing (descentChecks (tstT (some trB)) tgD (df 0) trB false [0] ++ [(decide (65536 < 1 * rowBytes trB.ty trB.k), 13)]) = none ∧
    failing (descentChecks (tstT (some trB)) tgD (df 1) trB false [0]) = some 12 ∧ (df 0x2000).xf.getLsbD 13 = true ∧ ranges (tgD.a.getD 0 0) 4 = false ∧
    ranges (tgD.a.getD 2 0) 4 = true ∧ failing (descentChecks (tstT (some trB)) tgD (df 0x12000) trB true []) = none ∧
    gradBad (tstT (some trB)) tgD 0x380000 (4 * 16 * 1) = none ∧ (gradBad (tstT (some trB)) tgD 0x380001 (4 * 1)).isSome = true ∧
    gradBad (tstT (some trB)) tgD 0x384000 (4 * 1) = none ∧ spanHolds (tstT none) (engOf (tstT none) 0) 2 0 = true ∧
    spanHolds (tstT none) (engOf (tstT none) 0) 2 2 = false ∧ tgD.ll.length < 16 ∧ holdsTile (engOf (tstT none) 0) 2 0 = true := by
  and_intros <;> decide

/-- The group that waits for the end of a REGRP of four words at 0 into 64, and the machine whose scratchpad holds their values. -/
def tgRg : Group := { tgD with st := .parked, park := some (.regrp 0 64 4 1) }
@[inherit_doc tgRg] def tstRg (pad : List Host.Cell) : State := { tstT none with groups := [tgRg], teams := [{ tm16 with scratch := pad }] }
theorem wit_NodesAndRegrouping : EngRuns (tstT none) tgD (.naddr hd ⟨0, 0, 0, .u8, 0, 8⟩) hd ∧ EngRuns (tstT none) tgD (.regrp hd (zf 0 .u8 0x620)) hd ∧
    EngRuns (tstT none) tgD (.regrp hd (zf 0 .u8 0x602)) hd ∧ EngRuns (tstT none) tgD (.regrp hd (zf 0 .u8 0x622)) hd ∧
    EngRuns (tstT none) tgD (.regrp hd (zf 0 .u8 0x722)) hd := by
  constructorm* _ ∧ _ <;> exact erD rfl rfl (by decide) (by decide)
theorem wit_NodesAndRegrouping_state : ranges (tgD.a.getD 0 0) 16 = false ∧ ranges (tgD.a.getD 2 0) 16 = true ∧ (tgD.s.getD 6 0).toNat % 2 ^ 32 = 4 ∧
    (tgD.s.getD 6 0).toNat / 2 ^ 32 = 1 ∧ (tgD.s.getD 7 0).toNat / 2 ^ 32 = 0 ∧ (0 : Nat) < 0 + 4 * (2 * 1 + 4) ∧ 64 + 4 * (2 * 1 + 4) ≤ 16384 ∧
    (tstRg []).canon = true ∧ groupOf (tstRg []) 3 = some tgRg ∧ switchHolds (tstRg []) tgRg = false ∧ (∀ i, i < 4 → memNat [] (0 + 4 * i) 4 < 1) ∧ (tstRg [(4, 9)]).canon = true ∧
    1 ≤ memNat [(4, (9 : Byte))] (0 + 4 * 1) 4 ∧ memNat [(4, (9 : Byte))] (0 + 4 * 1) 4 ≠ 2 ^ 32 - 1 := by
  and_intros <;> decide

/-- The machine with a command of the engine, whose register 0 holds a record at its root, and the group that waits for a QWR. -/
def tstQc (c : ECmd) (g : Group) : State :=
  let e := eng [entT (some trB)] 1 1 [c]
  { tstD { e with qregs := [(0, 0x80000000 :: List.replicate 1087 0)] } with groups := [g] }
/-- The group with the result of a QRD outstanding, and the group parked in a QWR. -/
def tgQrd : Group := { tgD with ll := [⟨9, 3, 1, [8], [], none, [], [], false, 0, 0, false, none, false, 0, none⟩] }
@[inherit_doc tgQrd] def tgQwr : Group := { tgD with st := .parked, park := some (.qwr 9) }
/-- A DSTEP of one row that has its operand, and an ASCEND with one update left. -/
def dstepC : ECmd := { cmd (.dstep 0 0 1 1 false trB) 1 with a := [List.replicate 32 0] }
@[inherit_doc dstepC] def ascendC : ECmd := { cmd (.ascend 0 0 1 1 0x380000 none trB) 2 with todo := [(0, 0, 0)], a := [List.replicate 32 0] }
/-- Whether bytes of the tree can be read. -/
def nodeOk (a n : Nat) : Bool :=
  match (nodeBytes (tstQc dstepC tgD) 0 dstepC a n).2 with
  | .ok _ => true
  | .error _ => false
set_option maxRecDepth 10000 in
theorem wit_DescentWorks : qReady (engOf (tstQc (cmd (.qrd 0 0 1 8 [0]) 0) tgQrd) 0) = some (cmd (.qrd 0 0 1 8 [0]) 0) ∧
    (tgQrd.ll.find? (fun l => decide (l.key = 9))).isSome = true ∧ qReady (engOf (tstQc (cmd (.qwr 0 0 0 [(0, 5)]) 0) tgQwr) 0) = some (cmd (.qwr 0 0 0 [(0, 5)]) 0) ∧
    groupOf (tstQc (cmd (.qwr 0 0 0 [(0, 5)]) 0) tgQwr) 3 = some tgQwr ∧ qReady (engOf (tstQc dstepC tgD) 0) = none ∧ headCmd (engOf (tstQc dstepC tgD) 0) = some dstepC ∧
    aFull dstepC = true ∧ treeNeed (tstQc dstepC tgD) 0 dstepC = false ∧ threads 1 = [0] ∧
    ((((qOf (engOf (tstQc dstepC tgD) 0) 0).drop (17 * 0)).take 17).getD 0 0).toNat = 0x80000000 ∧ nodeOk 0x390000 32 = true ∧ nodeOk 0x3A0000 4 = true := by
  and_intros <;> decide
set_option maxRecDepth 10000 in
theorem wit_DescentWorks_length : (qOf (engOf (tstQc dstepC tgD) 0) 0).length = 1088 := by decide +kernel
theorem wit_DescentWorks_ascend : (tstQc ascendC tgD).canon = true ∧ headCmd (engOf (tstQc ascendC tgD) 0) = some ascendC ∧
    (∀ x ∈ (engOf (tstQc ascendC tgD) 0).cmds, x.key = ascendC.key → x = ascendC) ∧ 0 < trB.k ∧
    (match translate (tstQc ascendC tgD) 0 none 0 (0x380000 + 4 * 16 * 0 + 4 * 0) .wr with
      | (s1, .ok ph) => decide (ph = ph38) && !lineOwned s1 (ph.pa / 512) && decide (clusterFlight s1 0 = []) && !s1.poison.contains (ph.pa / 128) && decide (s1.oredHeld = [])
      | _ => false) = true ∧ (∀ i, i < 4 → inQueueDesc (tstQc ascendC tgD) (0x380000 + i) = false ∧ inBarRec (tstQc ascendC tgD) (0x380000 + i) = false) := by
  and_intros <;> decide

/-! ### Witnesses: power, translations, cores -/

/-- The machine with a cluster 0 as given. -/
def tstX (x : Cluster) : State :=
  let s := tst tg
  { s with clusters := s.clusters.set 0 x }
/-- A cluster with leave units held and requests that wait, perhaps throttled. -/
def clX (ls : List LeaveBy) (q : List (LeaveBy × Bool)) (th : Bool) : Cluster := { Cluster.empty with leaves := ls, leaveQ := q, throttled := th }
theorem runs_x (x : Cluster) {i : Instr} (hp : preFault (tstX x) tg i = none) : Runs (tstX x) tg i := runs_of rfl rfl rfl hp
set_option maxRecDepth 4000 in
theorem wit_LeaveUnits : Runs (tstX (clX [] [] false)) tg (.leave hd (rf 0 0 0 0)) ∧ wideActs tg hd = true ∧ (tstX (clX [] [] false)).clusters.length = 144 ∧
    Runs (tstX (clX [.leave 2] [] false)) tg (.leave hd (rf 0 0 0 0)) ∧ hasLeave (tstX (clX [.leave 2] [] false)) 0 2 = true ∧
    Runs (tstX (clX [.leave 7, .leave 8] [(.leave 2, false)] false)) tg (.leave hd (rf 0 0 0 0)) ∧
    hasLeave (tstX (clX [.leave 7, .leave 8] [(.leave 2, false)] false)) 0 2 = false ∧
    Runs (tstX (clX [.leave 7, .leave 8] [] false)) tg (.leave hd (rf 0 0 0 0)) ∧ Runs (tstX (clX [] [] true)) tg (.leave hd (rf 0 0 0 0)) ∧
    Runs (tstX (clX [.leave 2] [] false)) tg (.leaveRel hd (rf 0 0 0 1)) ∧
    (tstX (clX [] [(.leave 7, true)] true)).clusters[0]? = some (clX [] [(.leave 7, true)] true) := by
  constructorm* _ ∧ _ <;> first | decide | exact runs_x _ (by decide)

/-- A ramp that is due, and a frequency switch that is due, up or down. -/
def chg (up ramp : Bool) : Change := ⟨3, up, 675, ramp, 0, 600⟩
/-- A cluster with a change under way, and one with a droop. -/
def clC (up ramp : Bool) : Cluster := { Cluster.empty with change := some (chg up ramp) }
@[inherit_doc clC] def clD (n : Nat) (d : Bool) : Cluster := { Cluster.empty with injects := List.replicate n 0, droop := d }
/-- The machine at a late cycle. -/
def late (x : Cluster) : State := { tstX x with fcycles := 40000 }
set_option maxRecDepth 10000 in
theorem wit_OperatingPoints : Runs tstReplay tgQ (.pwrq hd (rf 8 0 0 0)) ∧ isReplay tstReplay 0 = true ∧ Runs tstReplay tgQ (.pwrq hd (rf 8 0 0 3)) ∧
    Runs (tst tg) tg (.pwrq hd (rf 8 0 0 10)) ∧ isReplay (tst tg) 0 = false ∧ Runs (late (clC true true)) tg (.pwrq hd (rf 8 0 0 1)) ∧
    (clusterAt (late (clC true true)) 0).change = some (chg true true) ∧ (chg true true).from_ ≤ (chg true true).mv ∧
    Runs (tst tg) tg (.pwrq hd (rf 8 0 0 1)) ∧ (clusterAt (tst tg) 0).change = none ∧ (late (clC true true)).clusters[0]? = some (clC true true) ∧
    (chg true true).at_ + 20 * ((chg true true).mv - (chg true true).from_).natAbs ≤ 40000 ∧ (chg true false).at_ + 64 ≤ 40000 ∧
    (late (clC false false)).clusters[0]? = some (clC false false) ∧ (late (clD 63 false)).clusters[0]? = some (clD 63 false) ∧
    (late (clD 64 false)).clusters[0]? = some (clD 64 false) ∧ ((clD 64 false).injects.filter (fun k => decide (cyclesOf (late (clD 64 false)) 0 < k + 65536))).length = 64 ∧
    (late (clD 0 true)).clusters[0]? = some (clD 0 true) := by
  and_intros <;> decide
theorem wit_PolicySteps : ({ tst tg with fcycles := 20000 } : State).policyAt ≤ 20000 ∧ ({ tst tg with fcycles := 20000 } : State).clusters.length = 144 ∧
    (tst tg).firm.mode = 1 := ⟨by decide, rfl, rfl⟩
/-- The machine in which a lane of cluster 0 has something to run after a long rest, and one that has just admitted 16 clusters. -/
def tstIdleL : State := { late Cluster.empty with groups := [{ tg with st := .ready }] }
@[inherit_doc tstIdleL] def tstSlew : State := { tstIdleL with slew := List.replicate 16 40000 }
/-- Whether a cluster must be admitted before it issues. -/
def dueAt (c : Nat) : Prop := (clusterAt tstIdleL c).lastIssue + 256 ≤ cyclesOf tstIdleL c ∧ ∃ g ∈ tstIdleL.groups, g.cluster = c ∧ wantsIssue tstIdleL g = true
theorem due_zero {d : Nat} (h : dueAt d) : d = 0 := by
  obtain ⟨-, g, hg, hl, -⟩ := h
  simp [tstIdleL] at hg
  subst hg
  exact hl.symm
/-- The machine whose lane 0 holds a group that would issue. -/
def tstHeldL : State := { late Cluster.empty with groups := [tg] }
theorem wit_SlewLimiter : (tstIdleL.slew.filter (fun t => decide (tstIdleL.fcycles < t + 64))).length < 16 ∧ dueAt 0 ∧ (∀ d, dueAt d → d ≠ 0 → False) ∧
    16 ≤ (tstSlew.slew.filter (fun t => decide (tstSlew.fcycles < t + 64))).length ∧ (clusterAt tstIdleL (0 / 64)).lastIssue + 256 ≤ cyclesOf tstIdleL (0 / 64) ∧
    tstHeldL.groups.find? (fun g => decide (g.lane = 0) && decide (g.st = .running)) = some tg ∧
    (clusterAt tstHeldL tg.cluster).lastIssue + 256 ≤ cyclesOf tstHeldL tg.cluster := by
  constructorm* _ ∧ _ <;> first | decide | exact ⟨by decide, by decide⟩ | exact fun d h hd => hd (due_zero h)

/-- The group whose scalar registers name core 5, core 600, an address, and context 0 and 64. -/
def tgK : Group := { tg with s := ((((tg.s.set 1 5).set 2 600).set 3 0x380000).set 4 64).set 6 0x10000 }
/-- The machine with core 5 halted, or with context 5 FREE. -/
def tstK (h : Bool) : State := onCore (tst tgK) 5 (fun c => { c with halted := h })
/-- The group that waits in a TLBINV. -/
def tgInv : Group := { tgK with st := .parked, park := some (.tlbinv (some 0) 0 0x10000 []) }
theorem runs_k (h : Bool) {i : Instr} (hp : preFault (tstK h) tgK i = none) : Runs (tstK h) tgK i := runs_of rfl rfl rfl hp
theorem wit_CoresHalt : Runs (tstK false) tgK (.halt hd (rf 1 0 0 0)) ∧ wideActs tgK hd = true ∧ Runs (tstK false) tgK (.halt hd (rf 2 0 0 0)) ∧
    575 < (tgK.s.getD 2 0).toNat ∧ ((ctxRec (tstK false) 0).map (fun (r : CRec) => r.part.getD 1 false)).getD false = true ∧
    Runs (tstK true) tgK (.halt hd (rf 1 0 0 0)) ∧ (coreAt (tstK true) 5).halted = true ∧ (coreAt (tstK false) 5).halted = false ∧
    Runs (tstK true) tgK (.haltResume hd (rf 1 0 0 1)) ∧ Runs (tstK false) tgK (.haltResume hd (rf 1 0 0 1)) ∧
    Runs (tstK true) tgK (.dbgdrain hd (rf 1 0 0 0)) ∧ Runs (tstK false) tgK (.dbgdrain hd (rf 1 0 0 0)) := by
  constructorm* _ ∧ _ <;> first | decide | exact runs_k _ (by decide)
set_option maxRecDepth 8000 in
theorem wit_CoresHalt_ends : tgK.halted = false ∧ (tgK.s.getD 1 0).toNat ≤ 575 ∧ 5 < (tstK false).cores.length ∧
    (∀ k ∈ (tstK false).groups, stillGoing k 5 = false) ∧ (∀ k ∈ (tstK true).groups, stillGoing k 5 = false) ∧ mayDrain (tstK true) 5 = true ∧
    (∀ k ∈ (tstK true).groups, k.id = tgK.id → k = tgK) ∧ (∀ x ∈ coreTeams (tstK true) 5, x.id ≠ tgK.team) := by
  and_intros <;> decide
theorem wit_TranslationsEnd : Runs (tst tgK) tgK (.tlbinvVa hd (rf 0 3 0 0)) ∧ Runs (tst tgK) tgK (.tlbinvVa hd (rf 4 3 0 0)) ∧ Runs (tst tgK) tgK (.tlbinvVa hd (rf 1 3 0 0)) ∧
    Runs (tst tgK) tgK (.tlbinvRange hd (rf 0 3 6 1)) ∧ Runs (tst tgK) tgK (.tlbinvRange hd (rf 0 3 0 1)) ∧ Runs (tst tgK) tgK (.tlbinvCtx hd (rf 0 0 0 2)) ∧
    Runs (tst tgK) tgK (.tlbinvAll hd (rf 0 0 0 3)) ∧ invArgs tgK (rf 4 3 0 0) (.tlbinvVa hd (rf 4 3 0 0)) = none ∧
    (invArgs tgK (rf 0 3 0 0) (.tlbinvVa hd (rf 0 3 0 0))).isSome = true ∧ ((tst tgK).contexts[5]?).map (fun c => c.st) = some .free ∧
    ((tst tgK).contexts[0]?).map (fun c => c.st) = some .active ∧ groupOf (tst tgInv) 3 = some tgInv ∧ tgInv.park = some (.tlbinv (some 0) 0 0x10000 []) ∧
    underWay (tst tgInv) = [] ∧ translated (tst tgK) (some 0) 0x380000 0x380001 = [] ∧
    switchHolds (tst tgK) tgK = false ∧ switchHolds (tst tgInv) tgInv = false := by
  constructorm* _ ∧ _ <;> first | decide | exact runs_tst rfl (by decide)

/-! ### Witnesses: contexts -/

/-- The words of a context record, with NQUEUE as given. -/
def crw (nq : W64) : List W64 := [0x10000, 1, 1, 0, 0, 0x112C0960FF, nq, 0x100000, 0x400000, 0x800000, 64, 0x900000, 0x900040, 0x900080, 0x40000, 63]
/-- A context 5 in some state. -/
def cx5 (st : CSt) (busy : Bool) : Context := { Context.empty with st := st, busy := busy, crec := 0x380000, recd := if st = .free then none else some soloCtx }
/-- The machine with context 5 and a record, and descriptors of system queues where the last is so. -/
def tstCx (st : CSt) (busy : Bool) (ws : List W64) (qs : Bool) : State :=
  let s := tst tg
  let m := memPut s.mem 0x380000 (wordsLE ws)
  { s with contexts := s.contexts.set 5 (cx5 st busy), mem := if qs then memPut m 0x900000 (wordsLE (dsc 8 0 ++ dsc 8 0 ++ dsc 8 0)) else m }
/-- The words of the record of context 5. -/
def recOf (s : State) (i : Nat) : Nat := memNat s.mem (0x380000 + 8 * i) 8
theorem good_crw {s : State} (h : (List.range 16).map (recOf s) = [0x10000, 1, 1, 0, 0, 0x112C0960FF, 16, 0x100000, 0x400000, 0x800000, 64, 0x900000, 0x900040, 0x900080, 0x40000, 63]) :
    GoodRecord (recOf s) := by
  simp [List.range, List.range.loop] at h
  obtain ⟨h0, h1, h2, h3, h4, h5, h6, h7, h8, h9, h10, h11, h12, h13, h14, h15⟩ := h
  simp [GoodRecord, h0, h1, h2, h3, h4, h5, h6, h7, h8, h9, h10, h11, h12, h13, h14, h15, bits]
set_option maxRecDepth 10000 in
theorem wit_ContextCommands : (∀ st ∈ [CSt.free, .created, .active, .suspending, .suspended], ∀ b ∈ [true, false], (tstCx st b [] false).contexts[5]? = some (cx5 st b)) ∧
    (tstCx .free false (crw 16) true).firm.mode = 1 ∧ ({ tstCx .free false [] false with firm := { Firm.fresh with mode := 2 } } : State).firm.mode ≠ 1 ∧
    (cx5 .free false).crec.toNat % 128 = 0 ∧ (cx5 .free false).crec.toNat < paLimit ∧ (cx5 .free false).crec.toNat / 128 ∉ (tstCx .free false (crw 16) true).poison := by
  and_intros <;> decide
set_option maxRecDepth 10000 in
theorem wit_ContextCommands_words : (List.range 16).map (recOf (tstCx .free false (crw 16) true)) =
      [0x10000, 1, 1, 0, 0, 0x112C0960FF, 16, 0x100000, 0x400000, 0x800000, 64, 0x900000, 0x900040, 0x900080, 0x40000, 63] ∧
    (List.range 16).map (recOf (tstCx .active false (crw 16) false)) =
      [0x10000, 1, 1, 0, 0, 0x112C0960FF, 16, 0x100000, 0x400000, 0x800000, 64, 0x900000, 0x900040, 0x900080, 0x40000, 63] := by
  and_intros <;> decide
theorem wit_ContextCommands_good : GoodRecord (recOf (tstCx .free false (crw 16) true)) ∧ GoodRecord (recOf (tstCx .active false (crw 16) false)) :=
  ⟨good_crw wit_ContextCommands_words.1, good_crw wit_ContextCommands_words.2⟩
set_option maxRecDepth 10000 in
theorem wit_ContextCommands_create : 3 ≤ (readCRec (recOf (tstCx .free false (crw 16) true))).nqueue ∧
    frameSize 16 (readCRec (recOf (tstCx .free false (crw 16) true))).nregs ≤ 65536 * (readCRec (recOf (tstCx .free false (crw 16) true))).rsize ∧
    (createWith (tstCx .free false (crw 16) true) 5 (readCRec (recOf (tstCx .free false (crw 16) true)))).isSome = true ∧
    createWith (tstCx .free false (crw 16) false) 5 (readCRec (recOf (tstCx .free false (crw 16) false))) = none ∧
    (readCRec (recOf (tstCx .free false (crw 2) true))).nqueue < 3 := by
  and_intros <;> decide
/-- A record whose first word is out of its range. -/
theorem wit_ContextCommands_bad : RecordAt (tstCx .free false [1] false) (cx5 .free false) (recOf (tstCx .free false [1] false)) ∧
    ¬ GoodRecord (recOf (tstCx .free false [1] false)) := by
  refine ⟨⟨by decide, by decide, by decide, rfl⟩, fun h => ?_⟩
  have h0 : recOf (tstCx .free false [1] false) 0 = 1 := by decide
  have := h.1.2
  rw [h0] at this
  exact absurd this (by decide)
/-- The machine with a context that is torn down and has nothing under way. -/
def tstTear : State := tstCx .tearing true [] false
theorem wit_ContextsEnd : (∀ st ∈ [CSt.free, .created, .active, .suspending, .suspended], (tstCx st false [] false).contexts[5]? = some (cx5 st false)) ∧
    tstTear.contexts[5]? = some (cx5 .tearing true) ∧ ctxWork tstTear 5 = false ∧
    sysQueue tstTear 5 1 = none ∧ sysQueue (tstCx .created false [] false) 5 1 = none := by
  and_intros <;> decide
/-- The CREATED context with one launch in its queue, whose record stands at 0x390000. -/
def tstQueued : State := { tstCx .created false [] false with queues := [{ q0 with ctx := 5, sys := 1, ents := [⟨0, wordsLE [0x390000, 0, 0, 0, 0, 0, 0, 0], [], [], none⟩] }] }
theorem wit_ContextsEnd_queued : tstQueued.canon = true ∧ (∀ l ∈ tstQueued.launches, l.ctx ≠ 5) ∧
    (sysQueue tstQueued 5 1).map (fun q => q.ents.map (fun e => (wAt e.bytes 0).toNat % 2 ^ 57)) = some [0x390000] ∧
    (match peek tstQueued 5 0x390000 .rd with
      | .ok ph => ph.dev
      | .error _ => some 0) = none := by
  and_intros <;> decide
/-- The same with the entry still to be read from another device. -/
def tstUnread : State := { tstQueued with queues := tstQueued.queues.map (fun q => { q with ents := q.ents.map (fun e => { e with bytes := [] }) }) }
theorem entriesRead_of {s : State} {ctx : Nat} (h : ((sysQueue s ctx 1).map (fun q => q.ents.all (fun e => decide (e.bytes ≠ [])))) = some true) :
    EntriesRead s ctx := by
  intro q hq e he
  rw [hq] at h
  simp only [Option.map_some, Option.some.injEq, List.all_eq_true, decide_eq_true_eq] at h
  exact h e he
theorem wit_ContextsEnd_read : EntriesRead tstQueued 5 ∧ ¬ EntriesRead tstUnread 5 ∧ (tstUnread.contexts[5]?).map (fun c => c.st) = some .created := by
  refine ⟨entriesRead_of (by decide), fun h => ?_, by decide⟩
  exact h _ rfl _ (.head _) rfl
/-- The machine with a launch queue of context 0. -/
def tstDoor : State := { tst tg with queues := [{ qSys 1 with cap := 4, ents := [] }] }
theorem wit_DoorbellAndEvents : (tstDoor.contexts[0]?).isSome = true ∧ (sysQueue tstDoor 0 1).isSome = true ∧ 0 + 4 ≤ 4 ∧ 4 < 0 + 5 ∧ tstDoor.canon = true ∧
    sysQueue (tst tg) 0 1 = none ∧ (match (walkNow tstDoor 0 (ringVA { qSys 1 with cap := 4, ents := [] } 0) .rd).2 with
      | .ok _ => true
      | .error _ => false) = true := by
  and_intros <;> decide

/-! ### Witnesses: lanes, life, pre-emption -/

theorem not_tearing {s : State} {n : Nat} (h : tearing s n = false) : ∀ c, s.contexts[n]? = some c → c.st ≠ .tearing := by
  intro c hc; simpa [tearing, hc] using h
/-- Two groups that are READY on lane 0, the second the younger. -/
def tgR : Group := { tg with st := .ready }
@[inherit_doc tgR] def tgR2 : Group := { tgR with id := 4, birth := 7 }
/-- The machine with some groups, none of which has the turn. -/
def tstGs (gs : List Group) : State := { tst tg with groups := gs, cur := none }
set_option maxRecDepth 10000 in
theorem wit_LanesChoose : 0 / 64 < (tstGs [tgR2, tgR]).clusters.length ∧ (∀ x ∈ (tstGs [tgR2, tgR]).groups, x.lane = 0 → x.st ≠ .running) ∧
    cyclesOf (tstGs [tgR2, tgR]) 0 < (clusterAt (tstGs [tgR2, tgR]) 0).lastIssue + 256 ∧ (clusterAt (tstGs [tgR2, tgR]) 0).change = none ∧
    MayRun (tstGs [tgR2, tgR]) 0 tgR ∧ (∀ x, MayRun (tstGs [tgR2, tgR]) 0 x → x = tgR ∨ ChosenBefore (tstGs [tgR2, tgR]) tgR x) := by
  refine ⟨by decide, by decide, by decide, by decide, ⟨by decide, rfl, rfl, rfl, by decide, by decide, not_tearing (by decide)⟩, fun x hx => ?_⟩
  have h := hx.1
  simp only [tstGs, List.mem_cons, List.not_mem_nil, or_false] at h
  rcases h with rfl | rfl
  · exact .inr (.inr ⟨by decide, by decide⟩)
  · exact .inl rfl

/-- A group that waits in its header, for stores, passes and results. -/
def tgWait : Group := { tg with st := .waiting, clause := [soloHeader, 0] }
/-- One that stands before an instruction with its budget used up, or after a long activation. -/
def tgBud : Group := { tg with budget := 5, left := 0 }
@[inherit_doc tgBud] def tgLong : Group := { tg with hslot := true, held := 262145 }
/-- One whose frame does not translate, and one that sleeps. -/
def tgNoFrame : Group := { tg with frame := 0xA000000000 }
@[inherit_doc tgNoFrame] def tgSleep : Group := { tg with st := .parked, park := some (.sleep 0) }
theorem about_of {g : Group} (h1 : groupOf (tst g) g.id = some g) (h2 : g.st = .running) (h3 : g.pos + 1 < g.clause.length)
    (h4 : g.refetch = false ∧ g.checked = true ∧ g.pendTrap = none ∧ g.halted = false ∧ g.fullSave = false ∧ g.handler = false)
    (h5 : (coreAt (tst g) g.core).halted = false) (h6 : tearing (tst g) g.ctx = false) (h7 : g.ll = []) : AboutToIssue (tst g) g :=
  ⟨h1, h2, h3, h4.1, h4.2.1, h4.2.2.1, h4.2.2.2.1, h4.2.2.2.2.1, h4.2.2.2.2.2, h5, not_tearing h6, by simp [h7]⟩
theorem wit_LaneWaitsEnd : groupOf (tst tgWait) 3 = some tgWait ∧ tgWait.st = .waiting ∧ tgWait.saving = false ∧ WaitsMet (tst tgWait) tgWait ∧
    groupOf (tst tg) 3 = some tg ∧ tg.st = .running ∧ 5 < tg.nregs + 64 ∧ (∀ h ∈ tg.win, h.reg ≠ 5) ∧ (∀ l ∈ tg.lines, l.reg ≠ 5) ∧
    (getVA (tst tg) tg.cluster tg.ctx (tg.frame.toNat % 2 ^ 57 + 4 * tg.width * 5) (4 * tg.width)).isSome = true ∧
    getVA (tst tgNoFrame) tg.cluster tg.ctx (tgNoFrame.frame.toNat % 2 ^ 57 + 4 * tg.width * 5) (4 * tg.width) = none ∧
    AboutToIssue (tst tgBud) tgBud ∧ tgBud.budget ≠ 0 ∧ switchHolds (tst tgWait) tgWait = false ∧ switchHolds (tst tgSleep) tgSleep = false ∧ tgBud.left = 0 ∧ AboutToIssue (tst tgLong) tgLong ∧ tgLong.budget = 0 ∧
    tgLong.hslot = true ∧ 262144 < tgLong.held ∧ groupOf (tst tgSleep) 3 = some tgSleep ∧ tgSleep.park = some (.sleep 0) ∧
    tgSleep.st = .parked ∧ tgSleep.halted = false ∧ 0 ≤ cyclesOf (tst tgSleep) tgSleep.cluster :=
  ⟨rfl, rfl, rfl, ⟨fun _ => ⟨rfl, rfl⟩, (fun _ => by decide), fun _ => rfl⟩, rfl, rfl, by decide, by decide, by decide, by decide, by decide,
    about_of rfl rfl (by decide) ⟨rfl, rfl, rfl, rfl, rfl, rfl⟩ (by decide) (by decide) rfl, by decide, by decide, by decide, rfl,
    about_of rfl rfl (by decide) ⟨rfl, rfl, rfl, rfl, rfl, rfl⟩ (by decide) (by decide) rfl, rfl, rfl, by decide, rfl, rfl, rfl, rfl, by decide⟩

theorem wit_FramesAndSlots : ((tst tg).contexts[0]?).bind (fun c => c.recd) = some soloCtx ∧ 0 < 64 ∧ ((tst tg).contexts[0]?).map (fun c => c.alloc) = some [] ∧
    (reserve (tst tg) 0 64 16).isSome = true := by
  and_intros <;> decide

/-- A group that is PENDING, spawned or not; one that retires; a second group of the team. -/
def tgPe : Group := { tg with st := .pending, nregs := 16 }
@[inherit_doc tgPe] def tgPs : Group := { tgPe with after := [(9, 4)] }
@[inherit_doc tgPe] def tgRe : Group := { tg with st := .retiring }
theorem wit_GroupsComeAndGo_create : (∀ g ∈ [tgPe, tgPs], groupOf (tst g) 3 = some g ∧ g.st = .pending ∧
      (teamOf (tst g) g.team).map (fun t => (t.st, t.ctx)) = some (.resident, 0) ∧ ((tst g).contexts[0]?).map (fun c => c.st) = some .active ∧
      laneUsed (tst g) (fun _ => false) g.lane < 8 ∧ depositsDone (tst g) g = true ∧ switchHolds (tst g) g = false ∧ (reserve (tst g) g.ctx g.width g.nregs).isSome = true) := by
  decide
theorem wit_GroupsComeAndGo_zero : (zeroFrame (tst tgPe) tgPe.cluster tgPe.ctx 0x110000 (frameSize tgPe.width tgPe.nregs)).isSome = true := by decide
theorem wit_GroupsComeAndGo_retire : groupOf (tstGs [tgRe, { tgR2 with team := 2 }]) 3 = some tgRe ∧ tgRe.coal = [] ∧ tgRe.fifo = [] ∧ tgRe.ll = [] ∧
    tgRe.hslot = false ∧ { tgR2 with team := 2 } ∈ (tstGs [tgRe, { tgR2 with team := 2 }]).groups ∧ tgR2.id ≠ 3 ∧ tgRe.team = 2 ∧
    groupOf (tst tgRe) 3 = some tgRe ∧ (∀ x ∈ (tst tgRe).groups, x.team = tgRe.team → x.id = 3) ∧
    (teamOf (tst tgRe) tgRe.team).map (fun t => t.st) = some .resident ∧ (clusterAt (tst tgRe) 0).bins = [] := by
  and_intros <;> decide

/-- A launch of two teams, of one group each, that is placing; and one of a span of two. -/
def lcP (span : Nat) : Launch := { soloLaunch 1 0 with recd := { soloRec with groups := 1, teams := 2, span := span, nregs := 16 }, st := .placing, next := 0 }
/-- The machine with that launch. -/
def tstL (span : Nat) : State := { tst tg with launches := [lcP span] }
theorem places_lcP (span : Nat) : Places (tstL span) 1 (lcP span) := ⟨rfl, rfl, by show (0 : Nat) < 2; decide, _, rfl, rfl⟩
theorem wit_TeamsComeAndGo : Places (tstL 0) 1 (lcP 0) ∧ (lcP 0).recd.span = 0 ∧ (takeArea (tstL 0) (lcP 0).ctx 65536 (areaSize (lcP 0).recd.scratch)).isSome = true ∧
    Places (tstL 1) 1 (lcP 1) ∧ (lcP 1).recd.span ≠ 0 := by
  constructorm* _ ∧ _ <;> first | decide | exact places_lcP _
set_option maxRecDepth 20000 in
theorem wit_TeamsComeAndGo_core : BestCore (tstL 0) (launchNeed (lcP 0)) 1 := by
  unfold BestCore; dsimp only; decide +kernel
theorem wit_TeamsComeAndGo_span : placeSpan (tstL 1) (lcP 1) ≠ none := by
  decide +kernel
/-- The machine whose team drains. -/
def tmDr : Team := { tm16 with st := .draining }
theorem wit_TeamsComeAndGo_retire : teamOf { tstGs [] with teams := [tmDr] } 2 = some tmDr ∧ teamBusy { tstGs [] with teams := [tmDr] } tmDr = false := by
  decide

/-- The words of a launch record: as they should be, and one that no program has. -/
def lrw : List W64 := [0x40000, 0, 0xF00000002, 0x100000001, 0, 0, 0, 77]
/-- The bytes of an entry of the launch queue. -/
def lent : List Byte := natLE 8 0x390000 ++ natLE 8 5 ++ List.replicate 48 0
/-- The machine with a launch queue that holds an entry, and a record with these words. -/
def tstPop (ws : List W64) : State :=
  let s := tst tg
  { s with mem := memPut s.mem 0x390000 (wordsLE ws), queues := [{ qSys 1 with ents := [⟨2, lent, [], [], none⟩] }] }
/-- The same, with its record on another device, of which these lines have come. -/
def tstPopFar (got : List Got) : State :=
  { tstFar tg with queues := [{ qSys 1 with ents := [⟨2, natLE 8 0x20390000 ++ natLE 8 5 ++ List.replicate 48 0, [], [], none⟩] }], rgot := got }
/-- What LAUNCH_POP finds: the line that has still to come, or the device of the record and the cause of a failure. -/
def popped (s : State) : Option (Except (Nat × Nat) (Option Nat × Option Nat)) :=
  (sysQueue s 0 1).bind (fun q => (queueHead s q).map (fun e => match readHead s 0 q e with
    | (_, .error x) => .error x
    | (s0, .ok (e, x)) =>
      let s1 := dropGot (compDec (serveQueue (putQueue s0 (claimEntry q e 0 false)) q.pa) 0 q.doneCtr none) (dispatchers 0).id
      .ok (x.place.bind (fun p => p.dev), launchBad s1 0 (x.bytes.isNone || decide ((wAt e.bytes 0).toNat % 2 ^ 57 % 256 ≠ 0) ||
        (e.bytes.drop 16).any (fun b => decide (b ≠ 0))) (recWord (x.bytes.getD [])) x.plan)))
/-- Whether it has found this device or another, and this cause or none. -/
def foundAt (s : State) (dev cause : Option Nat) : Bool :=
  match popped s with
  | some (.ok x) => decide (x = (dev, cause))
  | _ => false
/-- Whether it waits for a line. -/
def waitsFor (s : State) (x : Nat × Nat) : Bool :=
  match popped s with
  | some (.error y) => decide (x = y)
  | _ => false
set_option maxRecDepth 10000 in
theorem wit_LaunchesComeAndGo_pop : ((tstPop lrw).contexts[0]?).map (fun c => c.st) = some .active ∧ (sysQueue (tstPop lrw) 0 1).isSome = true ∧
    ((sysQueue (tstPop lrw) 0 1).bind (queueHead (tstPop lrw))).map (fun e => stampsMet (tstPop lrw) e.stamps) = some true ∧
    (∀ l ∈ (tstPop lrw).launches, l.ctx = 0 → l.st ≠ .placing) ∧ foundAt (tstPop lrw) none none = true ∧ foundAt (tstPop []) none (some 0x41) = true ∧
    waitsFor (tstPopFar []) (5, 7296) = true ∧ (askLine (tstPopFar []) (dispatchers 0) none 0x3FF 5 7296).isSome = true ∧
    foundAt (tstPopFar [⟨(dispatchers 0).id, 5, 7296, List.replicate 512 0, 0⟩]) (some 5) (some 0x41) = true := by
  and_intros <;> decide +kernel
/-- The machine whose launch has nothing under way, one whose notification queue holds a record, and one whose partition is full of handlers. -/
def tstDone : State := { tstGs [] with teams := [], launches := [{ soloLaunch 1 0 with recPA := some 0x390000 }] }
/-- A launch whose record another device holds, and the machine that has it. -/
def lcTell : Launch := { soloLaunch 1 0 with recPA := some 0x390000, recDev := some 5 }
@[inherit_doc lcTell] def tstTell : State := { tstDone with launches := [lcTell] }
@[inherit_doc tstDone] def tstNote : State := { tstGs [] with queues := [qSys 3] }
set_option maxRecDepth 10000 in
theorem wit_LaunchesComeAndGo_end : launchOf tstDone 1 = some { soloLaunch 1 0 with recPA := some 0x390000 } ∧ (soloLaunch 1 0).st = .running ∧
    launchBusy tstDone { soloLaunch 1 0 with recPA := some 0x390000 } = false ∧ (tstDone.contexts[(soloLaunch 1 0).ctx]?).isSome = true ∧
    tstDone.canon = true ∧ (soloLaunch 1 0).recd.donectr = 0 ∧ (tstNote.contexts[0]?).map (fun c => (c.recd, c.st)) = some (some soloCtx, .active) ∧
    launchBusy tstTell lcTell = false ∧ lcTell.recDev ≠ none ∧ lcTell.told = false ∧ sysQueue tstNote 0 3 = some (qSys 3) ∧ readyEnts (qSys 3) ≠ [] ∧ (∀ t ∈ tstNote.teams, t.ctx = 0 → t.launch ≠ none) ∧
    handlerLane tstNote 0 = some 0 := by
  and_intros <;> decide

/-- A context 1 of higher priority that has cluster 0 only, and its launch, which wants a fused team. -/
def cxHigh : Context := { Context.empty with st := .active, recd := some { soloCtx with prio := 3, part := true :: List.replicate 143 false }, openQ := 3 }
@[inherit_doc cxHigh] def lcHigh : Launch := { lcP 0 with id := 9, ctx := 1, recd := { (lcP 0).recd with fuse := true } }
/-- The machine in which that launch waits for the place of the team. -/
def tstWant : State :=
  let s := tst tg
  { s with contexts := s.contexts.set 1 cxHigh, launches := s.launches ++ [lcHigh], fcycles := 500000 }
/-- The team as it is requested. -/
def tmAsk : Team := { tm16 with preq := some 0 }
/-- The machine with that team, and with some group. -/
def tstAsk (g : Group) : State := { tst g with teams := [tmAsk], fcycles := 500000, cur := none }
/-- A group that is to be saved at its header, or fully, with a line to be written; and one whose frame does not translate. -/
def tgSv : Group := { tg with st := .waiting, saving := true, live := List.replicate 16 0xFFFF, lines := [⟨5, List.replicate 64 1, true, 0, .general⟩] }
@[inherit_doc tgSv] def tgFs : Group := { tgSv with st := .ready, saving := false, fullSave := true }
@[inherit_doc tgSv] def tgNo : Group := { tgFs with frame := 0xA000000000 }
theorem quiet_of {g : Group} {s : State} (h1 : g.coal = []) (h2 : g.fifo = []) (h3 : s.flight = []) (h4 : g.ll = []) : Quiet s g :=
  ⟨h1, h2, by simp [h3], by simp [h4]⟩
set_option maxRecDepth 10000 in
theorem wit_GroupsAreSaved_asked : launchOf tstWant 9 = some lcHigh ∧ lcHigh.st = .placing ∧ lcHigh.next < lcHigh.recd.teams ∧
    (tstWant.contexts[lcHigh.ctx]?).map (fun c => c.st) = some .active ∧ lcHigh.waited + 20000 ≤ tstWant.fcycles ∧
    teamOf tstWant 2 = some (freshTeam 2 (soloLaunch 1 0) 0 0 0x400000) ∧ teamOf (tstAsk tg) 2 = some tmAsk ∧ tmAsk.preq = some 0 ∧
    ctxRec (tstAsk tg) tmAsk.ctx = some soloCtx ∧ 0 + 2000 * (if soloCtx.pto = 0 then 200 else soloCtx.pto) ≤ (tstAsk tg).fcycles ∧
    tg ∈ (tstAsk tg).groups ∧ tg.team = 2 := by
  and_intros <;> decide
theorem wit_GroupsAreSaved_not : NotSaved tg := by unfold NotSaved; decide
theorem wit_GroupsAreSaved_teams : 2 ∈ preemptTeams tstWant lcHigh := by decide +kernel
theorem wit_GroupsAreSaved_save : (∀ g ∈ [tgSv, tgFs, tgNo], groupOf (tstAsk g) 3 = some g ∧ (g.saving = true ∨ (g.fullSave = true ∧ g.handler = false)) ∧
      g.st ≠ .pending ∧ g.st ≠ .retiring ∧ g.st ≠ .saved ∧ g.halted = false ∧ (coreAt (tstAsk g) g.core).halted = false ∧ g.pendTrap = none) ∧
    Quiet (tstAsk tgSv) tgSv ∧ Quiet (tstAsk tgFs) tgFs ∧ Quiet (tstAsk tgNo) tgNo ∧ (liveW tgSv.live 8).testBit 3 = true ∧
    (liveW tgSv.live 9).testBit 3 = true ∧ (liveW tgSv.live 9).testBit (32 + 3) = false := by
  constructorm* _ ∧ _ <;> first | decide | exact quiet_of rfl rfl rfl rfl
/-- Whether the save of a group can write what it must. -/
def saveOk (s : State) (g : Group) : Bool :=
  match writeLines s g (fun _ => true) with
  | some s2 => (saveSlot s2 g (saveFrame s2 g 0x29 (!g.saving))).isSome
  | none => false
theorem wit_GroupsAreSaved_write : writeLines (tstAsk tgNo) ((drainRegs (tstAsk tgNo) tgNo).standing (tstAsk tgNo)) (fun _ => true) = none ∧
    saveOk (tstAsk tgFs) ((drainRegs (tstAsk tgFs) tgFs).standing (tstAsk tgFs)) = true := by
  and_intros <;> decide +kernel

/-- The machine with a requested team whose groups are saved, its save area at some place. -/
def tstSaved (save : W64) : State := { tstAsk { tgFs with st := .saved, lines := [] } with teams := [{ tmAsk with save := save, size := 0 }] }
/-- A saved team, and one that waits for the rein on its new core. -/
def tmSv (back : Bool) : Team := { tm16 with st := .saved, back := back, size := 0, save := 0x400000 }
/-- The machine with a saved team; with an entry that has the rein. -/
def tstBack (back : Bool) : State :=
  let s := tstGs []
  let s := { s with teams := [tmSv back], contexts := s.contexts.set 0 cxHigh }
  if back then onEng s 0 (fun _ => eng [ent .rein] 0 0 []) else s
/-- That machine once the team has moved to core 0. -/
def tstMoved : State := onTeam (tstBack false) 2 (fun (t : Team) => { t with core := 0, back := true })
set_option maxRecDepth 10000 in
theorem wit_TeamsAreSaved : teamOf (tstSaved 0x400000) 2 = some { tmAsk with save := 0x400000, size := 0 } ∧
    tmAsk.st = .resident ∧ tmAsk.preq ≠ none ∧ (coreAt (tstSaved 0x400000) tmAsk.core).halted = false ∧
    (∀ g ∈ (tstSaved 0x400000).groups, g.team = 2 → g.st = .saved ∨ g.st = .pending) ∧ teamCmds (tstSaved 0x400000) (tmAsk.core / 4) 2 = false ∧
    teamStreams (tstSaved 0x400000) { tmAsk with save := 0x400000, size := 0 } = [] := by
  and_intros <;> decide
set_option maxRecDepth 10000 in
theorem wit_TeamsAreSaved_bad : teamOf (tstSaved 0xA000000000) 2 = some { tmAsk with save := 0xA000000000, size := 0 } ∧
    tmAsk.st = .resident ∧ tmAsk.preq ≠ none ∧ (coreAt (tstSaved 0xA000000000) tmAsk.core).halted = false ∧
    (∀ g ∈ (tstSaved 0xA000000000).groups, g.team = 2 → g.st = .saved ∨ g.st = .pending) ∧ teamCmds (tstSaved 0xA000000000) (tmAsk.core / 4) 2 = false ∧
    teamStreams (tstSaved 0xA000000000) { tmAsk with save := 0xA000000000, size := 0 } = [] := by
  and_intros <;> decide
set_option maxRecDepth 10000 in
theorem wit_TeamsAreSaved_back : teamOf (tstBack true) 2 = some (tmSv true) ∧ ((tstBack true).contexts[0]?).map (fun c => c.st) = some .active ∧ (tmSv true).back = true ∧
    holdsRein (engOf (tstBack true) ((tmSv true).core / 4)) 2 = true ∧ teamOf (tstBack false) 2 = some (tmSv false) ∧ (tmSv false).st = .saved ∧
    needsEnt (tstBack false) (tmSv false) = false ∧ (engOf (tstBack false) (0 / 4)).ents.length ≤ 32 ∧
    (getVA (moveGroups (fuseL1 (shrinkL1 tstMoved 0 (l1Units (tstBack false) 0)) 0) { tmSv false with core := 0, back := true }) (0 / 4) 0 0x400000 0x18).map (fun x => (wAt x.2 0).getLsbD 0) = some false := by
  and_intros <;> decide
theorem wit_TeamsAreSaved_area : (writeArea (tstSaved 0x400000) { tmAsk with save := 0x400000, size := 0 } false).isSome = true ∧
    writeArea (tstSaved 0xA000000000) { tmAsk with save := 0xA000000000, size := 0 } false = none := by
  and_intros <;> decide +kernel
theorem wit_TeamsAreSaved_core : backCores (tstBack false) (tmSv false) = [(2, 0)] := by decide +kernel

/-- The machine with a saved team that had bound a tree whose descriptor lies on another device. -/
def tstTreeFar : State :=
  let s := tstFar tg
  { s with teams := [tmSv false], groups := [], contexts := s.contexts.set 0 cxHigh, mem := memPut s.mem 0x400000 (natLE 8 9 ++ natLE 8 0 ++ natLE 8 0x20380000) }
theorem wit_TeamsAreSaved_tree : backCores tstTreeFar (tmSv false) = [(2, 0)] ∧ (treeHere tstTreeFar (tmSv false) 0).2 = false ∧
    (engOf tstTreeFar (0 / 4)).ents.length < 32 ∧ teamOf tstTreeFar 2 = some (tmSv false) := by
  and_intros <;> decide +kernel

/-! ### Witnesses: the host, the firmware, the links, the step -/

/-- The machine with its start at some point, a mailbox argument, and some links. -/
def tstFm (mode cnt : Nat) (marg : W64) : State := { tst tg with firm := { Firm.fresh with mode := mode, failCnt := cnt, marg := marg, marg2 := 0x500, lastStep := 3 } }
@[inherit_doc tstFm] def lnk (st lanes peer pl : Nat) (re : Bool) : Link := { Link.down with st := st, lanes := lanes, peer := peer, peerLink := pl, retrain := re }
@[inherit_doc tstFm] def tstLk (l : Link) : State := { tstFm 1 0 0 with links := l :: (List.replicate 15 Link.down) }

theorem wit_RegisterWrites : 0 < 64 ∧ ((tst tg).contexts[0]?).isSome = true ∧ 7 < (0x0FF : W64).toNat % 256 ∧
    0x020 ∉ [0, 0x010, 0x028, 0x030] ∧ 0x800018 ∉ [0x800008, 0x800010, 0xF00108] ∧ 0x800018 < 0x1000000 ∧ 0x1001000 ≤ 0x1001000 ∧
    5 < 256 ∧ { tst tg with firm := { (tst tg).firm with busy := true } }.firm.busy = true ∧ (tst tg).firm.busy = false ∧ (tst tg).msix[5]? = some (0, 0x100000000) ∧ { tst tg with msixPend := [5] }.msixPend.contains 5 = true ∧
    (0 : W64).getLsbD 32 = false ∧ (0x100000000 : W64).getLsbD 32 = true := by
  and_intros <;> decide
theorem wit_SlowWindow : (tst tg).canon = true ∧ [some (5 : Byte), none].length ≤ 256 ∧ 0x380000 + [some (5 : Byte), none].length ≤ 2 ^ 34 ∧
    (tst tg).swbase + 0x380000 + [some (5 : Byte), none].length ≤ paLimit ∧
    (∀ j, j < [some (5 : Byte), none].length → inQueueDesc (tst tg) ((tst tg).swbase + 0x380000 + j) = false ∧ inBarRec (tst tg) ((tst tg).swbase + 0x380000 + j) = false) ∧
    (tst tg).oredHeld = [] ∧ 8 ≤ 512 ∧ (tst tg).swbase + 0x380000 + 8 ≤ paLimit ∧ paLimit < { tst tg with swbase := paLimit }.swbase + 0 + 8 := by
  and_intros <;> decide

theorem inQueueDesc_of {s : State} (h : s.queues = []) (a : Nat) : inQueueDesc s a = false := by simp [inQueueDesc, h]
theorem inBarRec_of {s : State} (h : s.recs = []) (a : Nat) : inBarRec s a = false := by simp [inBarRec, h]
theorem wit_MailboxCommands : (1, Instr.linktrain) ∈ mailCommands ∧ { (tstFm 0 0 0).firm with busy := true }.busy = true ∧ (tstFm 1 0 0).firm.busy = false ∧ (tstFm 2 0 0).firm.mode = 2 ∧ (tstFm 1 0 0).firm.mode = 1 ∧
    (∀ l ∈ [lnk 0 0 0 0 false, lnk 1 0 0 0 false, lnk 2 8 7 0 false, lnk 3 4 7 0 false, lnk 4 0 0 0 false], (tstLk l).firm.mode = 1 ∧
      (tstLk l).links[(tstLk l).firm.marg.toNat % 16]? = some l) ∧
    (tstFm 1 0 0).firm.marg.toNat % 256 = 0 ∧ (tstFm 1 0 7).firm.marg.toNat % 256 ≠ 0 ∧ (∀ l ∈ (tstFm 1 0 7).links, l.st = 0 ∨ l.st = 4) ∧
    { tstLk (lnk 2 8 7 0 false) with firm := (tstFm 1 0 7).firm }.firm.marg.toNat % 256 ≠ 0 ∧
    (∃ l ∈ { tstLk (lnk 2 8 7 0 false) with firm := (tstFm 1 0 7).firm }.links, l.st ≠ 0 ∧ l.st ≠ 4) ∧ (tstFm 1 0 7).firm.marg.toNat % 256 ≠ 0 ∧
    (tstFm 1 0 0x390000).firm.marg.toNat % 256 = 0 ∧ (tstFm 1 0 0x390000).firm.marg.toNat + 768 ≤ paLimit ∧ (tstFm 1 0 0x390000).canon = true ∧
    (tstFm 1 0 0x390000).oredHeld = [] := by
  and_intros <;> decide
theorem wit_MailboxCommands_report : ∀ j, j < 768 → inQueueDesc (tstFm 1 0 0x390000) (0x390000 + j) = false ∧ inBarRec (tstFm 1 0 0x390000) (0x390000 + j) = false :=
  fun _ _ => ⟨inQueueDesc_of rfl _, inBarRec_of rfl _⟩
theorem wit_Starts : 3 ≤ (tstFm 0 3 0).firm.failCnt ∧ (tstFm 0 1 0).firm.failCnt < 3 ∧ (tstFm 0 0 0).firm.failCnt = 0 ∧
    3 ≤ (List.replicate 3 (⟨false, true, true, true, 0⟩ : StartOutcome)).length ∧ (∀ o ∈ List.replicate 3 (⟨false, true, true, true, 0⟩ : StartOutcome), o.stop ≠ 1 ∧ o.selfTest = false) ∧
    (tstFm 2 3 0).firm.marg.getLsbD 0 = false ∧ (tstFm 2 3 1).firm.marg.getLsbD 0 = true ∧ (tstFm 0 1 0).firm.mode = 0 ∧ (tstFm 0 1 0).firm.lastStep ≠ 0 ∧
    (tstFm 2 3 0).firm.busy = false ∧ { (tstFm 0 1 0).firm with busy := true }.busy = true ∧ (tstFm 0 1 0).fcycles < 60000000000 ∧
    60000000000 ≤ { tstFm 0 1 0 with fcycles := 60000000000 }.fcycles ∧ (tstFm 0 3 0).firm.lastStep ≠ 0 := by
  and_intros <;> decide
theorem wit_LinkStates : (∀ l ∈ [lnk 1 0 7 3 true, lnk 1 0 0 0 false, lnk 2 8 7 0 false, lnk 3 4 7 0 false], (tstLk l).links[0]? = some l) ∧
    8 ∈ [8, 4, 2] ∧ 1 ≤ 7 ∧ 7 ≤ 255 ∧ (tstLk (lnk 1 0 7 3 true)).fcycles ≤ (lnk 1 0 7 3 true).trainAt + 200000000 ∧
    { tstLk (lnk 1 0 0 0 false) with fid := 7 }.fid = 7 ∧ (tstLk (lnk 1 0 0 0 false)).fid ≠ 7 ∧
    (∃ x ∈ { tstLk (lnk 1 0 0 0 false) with links := [lnk 1 0 0 0 false, lnk 2 8 7 3 false] }.links, (x.st = 2 ∨ x.st = 3) ∧ x.peer = 7 ∧ x.peerLink = 3) ∧
    (¬ ∃ x ∈ (tstLk (lnk 1 0 0 0 false)).links, (x.st = 2 ∨ x.st = 3) ∧ x.peer = 7 ∧ x.peerLink = 3) ∧ 1 < (lnk 2 8 7 0 false).lanes ∧
    2 < (lnk 2 8 7 0 false).lanes ∧ 5 < (lnk 2 8 7 0 false).lanes := by
  and_intros <;> decide
theorem wit_LinkStates_replays : 1024 < (({ lnk 2 8 7 0 false with replayAt := List.replicate 1025 0 } : Link).replayAt.filter (fun t => decide (0 < t + 2000000))).length := by
  show 1024 < ((List.replicate 1025 0).filter (fun t => decide (0 < t + 2000000))).length
  rw [List.filter_replicate_of_pos (by decide), List.length_replicate]; decide
/-- A link with a flit that is not acknowledged, and a machine that waits for a reply on it. -/
def lnkF : Link := { lnk 2 8 7 0 false with unacked := [⟨5, 0, 256, []⟩, ⟨6, 0, 256, []⟩] }
@[inherit_doc lnkF] def rem9 : Remote := ⟨9, 0, 7, 0, 0, 3, 0, none, 0, 2, 1, none, false, .read 0x380000 4, some ⟨7, 5, 1, 0, [0], none, 4⟩, none, false, ⟨false, 0, 0⟩⟩
@[inherit_doc lnkF] def tgRem : Group := { tg with ll := [{ ll0 7 with need := 1 }] }
@[inherit_doc lnkF] def tstRem : State := { tstLk lnkF with groups := [tgRem], remotes := [rem9] }
/-- The machine with an answer that waits for room, and with a request of the device that waits. -/
def tstBox : State := { tstRem with outbox := [(7, 0x390000, [1])], inbox := [(7, .read 0x380000 4)] }
theorem wit_Flits : tstRem.links[0]? = some lnkF ∧ lnkF.st = 2 ∧ 3 ≠ lnkF.rxSeq ∧ lineOwned tstRem (0x380000 / 512) = false ∧
    tstRem.canon = true ∧ (∀ q ∈ tstRem.qreqs, q.key ≠ 9) ∧ (∀ f ∈ tstRem.fired, f.key ≠ 9) ∧ (∀ x ∈ tstRem.recs, x.askKey ≠ some 9) ∧
    (∀ x ∈ tstRem.relays, x.key = 9 → x.done = true) ∧ tstRem.oredHeld = [] ∧ (∀ r ∈ tstRem.remotes, r.id = 9 → r.copy = none) ∧
    tstRem.remotes.find? (fun r => decide (r.id = 9)) = some rem9 ∧ rem9.copy = none ∧
    rem9.ret = some ⟨7, 5, 1, 0, [0], none, 4⟩ ∧ groupOf tstRem rem9.gid = some tgRem ∧ tgRem.ll = [{ ll0 7 with need := 1 }] ∧ (ll0 7).key = 7 ∧
    (∃ f ∈ lnkF.unacked, f.seq = 6) ∧ lnkF.unacked = [⟨5, 0, 256, []⟩] ++ ⟨6, 0, 256, []⟩ :: [] := by
  and_intros <;> decide
theorem wit_Flits_ack : ∀ r ∈ tstRem.remotes, r.id = 9 → r.copy = none ∧ ∀ pa arrs, r.ask ≠ .gbar pa arrs := by simp [tstRem, rem9]
theorem wit_Flits_read : linkFor tstRem lnkF.peer 0x380000 = some 0 ∧ windowRoom tstRem 0 1 5 = true ∧ tstRem.outbox = [] ∧
    inboxBehind tstRem.inbox lnkF.peer (.read 0x380000 4) = false ∧ linkFor tstBox lnkF.peer 0x380000 = some 0 ∧
    ¬ (∀ x ∈ tstBox.outbox, x.1 ≠ lnkF.peer) ∧ inboxBehind tstBox.inbox lnkF.peer (.read 0x390000 4) = false ∧
    inboxBehind tstBox.inbox lnkF.peer (.read 0x380000 4) = true ∧ inboxBehind tstRem.inbox lnkF.peer (.write 0x380000 [5] ⟨false, 0, 0⟩) = false := by
  and_intros <;> decide
theorem wit_Flits_write : ∀ j, j < [(5 : Byte)].length → inQueueDesc tstRem (0x380000 + j) = false ∧ inBarRec tstRem (0x380000 + j) = false :=
  fun _ _ => ⟨inQueueDesc_of rfl _, inBarRec_of rfl _⟩

/-- A word of IADD.S32. -/
def wIadd : W64 := 0x0003802002003000
/-- The group that is about to run it, before and after its clause is fetched. -/
def tgRun : Group := soloGroup State.reset 3 1 2 wIadd
@[inherit_doc tgRun] def tgUn : Group := { tgRun with clause := [] }
/-- The machine in which lane 0 has the turn. -/
def tstRun (g : Group) : State := { placeWord State.reset wIadd with groups := [g] }
theorem wit_StepRunsTheDecodedInstruction : (tstRun tgRun).agenda = .lane 0 :: [] ∧ (decodeWord wIadd).toOption.isSome = true ∧
    ({ tstRun tgRun with agenda := [] } : State).groups.find? (fun (x : Group) => decide (x.lane = 0) && decide (x.st = .running)) = some tgRun ∧ tgRun.halted = false ∧
    tgRun.pendTrap = none ∧ tgRun.fullSave = false ∧ (coreAt ({ tstRun tgRun with agenda := [] } : State) tgRun.core).halted = false ∧
    tearing ({ tstRun tgRun with agenda := [] } : State) tgRun.ctx = false ∧ switching ({ tstRun tgRun with agenda := [] } : State) tgRun.cluster = false ∧
    tgRun.refetch = false ∧ tgRun.checked = true ∧ tgRun.pos + 1 < tgRun.clause.length ∧ tgRun.clause[tgRun.pos + 1]? = some wIadd ∧
    budgetDue { tgRun with atHdr := false } = false := by
  and_intros <;> decide
theorem wit_StepRunsTheDecodedInstruction_fetch : (tstRun tgUn).agenda = .lane 0 :: [] ∧ (tstRun tgUn).groups.find? (fun (x : Group) => decide (x.lane = 0) && decide (x.st = .running)) = some tgUn ∧
    tgUn.halted = false ∧ tgUn.pendTrap = none ∧ tgUn.fullSave = false ∧ (coreAt (tstRun tgUn) tgUn.core).halted = false ∧
    tearing (tstRun tgUn) tgUn.ctx = false ∧ switching (tstRun tgUn) tgUn.cluster = false ∧ tgUn.clause = [] ∧ tgUn.transfer = none ∧
    fetchHeld { tstRun tgUn with agenda := [] } tgUn = false ∧
    (match fetchClause { tstRun tgUn with agenda := [] } tgUn with
      | (_, .ok ws) => decide (ws = [soloHeader, wIadd])
      | _ => false) = true := by
  and_intros <;> decide
/-- The group that has run its clause to the end. -/
def tgEnd : Group := { tgRun with atHdr := false, pos := 1 }
theorem wit_StepRunsTheDecodedInstruction_end : (tstRun tgEnd).agenda = .lane 0 :: [] ∧
    (tstRun tgEnd).groups.find? (fun (x : Group) => decide (x.lane = 0) && decide (x.st = .running)) = some tgEnd ∧
    tgEnd.halted = false ∧ tgEnd.pendTrap = none ∧ tgEnd.fullSave = false ∧ (coreAt (tstRun tgEnd) tgEnd.core).halted = false ∧
    tearing (tstRun tgEnd) tgEnd.ctx = false ∧ switching (tstRun tgEnd) tgEnd.cluster = false ∧ tgEnd.refetch = false ∧
    tgEnd.checked = true ∧ tgEnd.atHdr = false ∧ tgEnd.clause ≠ [] ∧ tgEnd.clause.length ≤ tgEnd.pos + 1 := by
  and_intros <;> decide

/-- A group that waits for an atomic of its thread 3 at another device, and its result before and after the value has come. -/
def tgEx (need : Nat) : Group := { tgRun with ll := [{ ll0 7 with need := need, exact := some 3 }] }
/-- A word of ATOM, by all threads and by those of a predicate. -/
def wAtom (h : Hd) : W64 := (encode (.atom h (mf 4 0))).getD 0
@[inherit_doc tgEx] def tgAt (h : Hd) (need : Nat) : Group := { tgEx need with atHdr := false, pos := 0, clause := [soloHeader, wAtom h] }
/-- The qualifying threads of an ATOM that are left once thread 3 has its value. -/
def leftOf (h : Hd) (g : Group) : TMask := qualMask { g with ll := [ll0 7], remain := some (liveMask g &&& ~~~maskOf [3]) } h
set_option maxRecDepth 4000 in
theorem wit_StepRunsTheDecodedInstruction_exact : (∀ g ∈ [tgAt hd 1, tgAt hd 0], (tstRun g).agenda = .lane 0 :: [] ∧
      (tstRun g).groups.find? (fun (x : Group) => decide (x.lane = 0) && decide (x.st = .running)) = some g ∧ g.pendTrap = none ∧
      switching (tstRun g) g.cluster = false ∧ g.ll.find? (fun x => x.exact.isSome) = g.ll[0]? ∧ (g.ll[0]?).map (fun x => x.exact) = some (some 3)) ∧
    (∀ h ∈ [hd, ⟨0, false, 0, false⟩], decodeWord ((tgAt h 0).wordAt (tgAt h 0).pos) = .ok (.atom h (mf 4 0))) ∧
    ((tgAt hd 1).ll[0]?).map (fun x => x.need) = some 1 ∧ ((tgAt hd 0).ll[0]?).map (fun x => x.need) = some 0 ∧
    leftOf hd (tgAt hd 0) ≠ 0 ∧ leftOf ⟨0, false, 0, false⟩ (tgAt hd 0) = 0 := by
  and_intros <;> decide +kernel
theorem wit_StepRunsTheDecodedInstruction_parts : (Instr.atom hd (mf 4 0)).parts = some (0x108, hd, .m (mf 4 0)) := rfl
theorem wit_StepRunsTheDecodedInstruction_stands : slewed (tstRun tgRun) tgRun.cluster = false ∧ (∀ l ∈ tgRun.ll, l.exact = none) ∧
    (match decodeWord wIadd with
    | .ok i => decide (popAwaited (tstRun tgRun) { tgRun with atHdr := false } i = none)
    | .error _ => false) = true := by
  and_intros <;> decide

/-- Whether an outcome is a next state, or a fault. -/
def goesOn : Host.Outcome State Fault Refusal → Bool
  | .next _ => true
  | _ => false
@[inherit_doc goesOn] def stops : Host.Outcome State Fault Refusal → Bool
  | .fault _ => true
  | _ => false
/-- The machine whose next turn is as given. -/
def tstTurn (u : Turn) : State := { tst tg with agenda := [u] }
theorem wit_NothingIsRefused : (tstTurn (.own (.groupRetire 3))).agenda = .own (.groupRetire 3) :: [] ∧
    goesOn (ownDo (.groupRetire 3) { tstTurn (.own (.groupRetire 3)) with groups := [tgRe], agenda := [], cur := none }) = true ∧
    stops (ownDo (.groupRetire 3) { tstTurn (.own (.groupRetire 3)) with agenda := [], cur := none }) = true ∧
    (tstTurn (.act (.evpendClear 0 1))).agenda = .act (.evpendClear 0 1) :: [] ∧
    goesOn (exec (.evpendClear 0 1) { tstTurn (.act (.evpendClear 0 1)) with agenda := [], cur := none }) = true ∧
    stops (exec (.launchPop 0) { tstTurn (.act (.launchPop 0)) with agenda := [], cur := none }) = true := by
  and_intros <;> decide
theorem wit_DecodeAndEncodeAgree : (Instr.iadd hd (vf .u32)).wf = true ∧ encode (.iadd hd (vf .u32)) = some 0x000380100400C200 ∧
    opOf 0xFF80000000000000 = 0x1FF := by
  and_intros <;> decide
theorem wit_DecodeAndEncodeAgree_reserved : ∀ (i : Instr) p, i.parts = some p → p.1 ≠ opOf 0xFF80000000000000 := by
  intro i p h
  have ho : opOf 0xFF80000000000000 = 0x1FF := by decide
  rw [ho]
  cases i <;> simp only [Instr.parts, reduceCtorEq, Option.some.injEq] at h <;> subst h <;> simp
theorem wit_EveryStepKeepsMemoryCanonical : (tstRun tgRun).canon = true ∧ goesOn (step (tstRun tgRun)) = true := by
  and_intros <;> decide +kernel
theorem wit_StepRunsTheDecodedInstruction_free : (match decodeWord wIadd with
    | .ok i => !llBlocks (tstRun tgRun) { tgRun with atHdr := false } i && (lineMissing (tstRun tgRun) { tgRun with atHdr := false } i).isNone
    | .error _ => false) = true := by decide

/-! ### Words, one for each instruction, written out from the formats and the opcodes of the spec (03 R63, R68, R71) -/

/-- Every word decodes to its instruction. -/
abbrev Reads (l : List (Nat × Instr)) : Prop := ∀ x ∈ l, decodeTableWord 64 x.1 = some x.2
theorem words_V_1 : Reads [
    (0x0003804010030200, .iadd ⟨0, false, 7, false⟩ ⟨8, 16, 24, false, false, .u32, .rne, false, 0⟩),
    (0x0083804010030200, .isub ⟨0, false, 7, false⟩ ⟨8, 16, 24, false, false, .u32, .rne, false, 0⟩),
    (0x0103804010030200, .iaddc ⟨0, false, 7, false⟩ ⟨8, 16, 24, false, false, .u32, .rne, false, 0⟩),
    (0x0183804010030200, .isubb ⟨0, false, 7, false⟩ ⟨8, 16, 24, false, false, .u32, .rne, false, 0⟩),
    (0x0203804010030200, .imul ⟨0, false, 7, false⟩ ⟨8, 16, 24, false, false, .u32, .rne, false, 0⟩),
    (0x0283804010030200, .imulh ⟨0, false, 7, false⟩ ⟨8, 16, 24, false, false, .u32, .rne, false, 0⟩),
    (0x0303804010030200, .imad ⟨0, false, 7, false⟩ ⟨8, 16, 24, false, false, .u32, .rne, false, 0⟩),
    (0x0383804010030200, .imadw ⟨0, false, 7, false⟩ ⟨8, 16, 24, false, false, .u32, .rne, false, 0⟩),
    (0x0403804010030200, .idiv ⟨0, false, 7, false⟩ ⟨8, 16, 24, false, false, .u32, .rne, false, 0⟩),
    (0x0483804010030200, .irem ⟨0, false, 7, false⟩ ⟨8, 16, 24, false, false, .u32, .rne, false, 0⟩),
    (0x0503804010000280, .ineg ⟨0, false, 7, false⟩ ⟨8, 16, 0, false, false, .s32, .rne, false, 0⟩),
    (0x0583804010000280, .iabs ⟨0, false, 7, false⟩ ⟨8, 16, 0, false, false, .s32, .rne, false, 0⟩),
    (0x0603804010030200, .imin ⟨0, false, 7, false⟩ ⟨8, 16, 24, false, false, .u32, .rne, false, 0⟩),
    (0x0683804010030200, .imax ⟨0, false, 7, false⟩ ⟨8, 16, 24, false, false, .u32, .rne, false, 0⟩),
    (0x0703804010030200, .iclamp ⟨0, false, 7, false⟩ ⟨8, 16, 24, false, false, .u32, .rne, false, 0⟩),
    (0x0783804010030200, .isad ⟨0, false, 7, false⟩ ⟨8, 16, 24, false, false, .u32, .rne, false, 0⟩),
    (0x0803804010030200, .iand ⟨0, false, 7, false⟩ ⟨8, 16, 24, false, false, .u32, .rne, false, 0⟩),
    (0x0883804010030200, .ior ⟨0, false, 7, false⟩ ⟨8, 16, 24, false, false, .u32, .rne, false, 0⟩),
    (0x0903804010030200, .ixor ⟨0, false, 7, false⟩ ⟨8, 16, 24, false, false, .u32, .rne, false, 0⟩),
    (0x0983804010030200, .andn ⟨0, false, 7, false⟩ ⟨8, 16, 24, false, false, .u32, .rne, false, 0⟩),
    (0x0A03804010000200, .inot ⟨0, false, 7, false⟩ ⟨8, 16, 0, false, false, .u32, .rne, false, 0⟩),
    (0x0A83804010030200, .shl ⟨0, false, 7, false⟩ ⟨8, 16, 24, false, false, .u32, .rne, false, 0⟩),
    (0x0B03804010030200, .shr ⟨0, false, 7, false⟩ ⟨8, 16, 24, false, false, .u32, .rne, false, 0⟩),
    (0x0B83804010030280, .sar ⟨0, false, 7, false⟩ ⟨8, 16, 24, false, false, .s32, .rne, false, 0⟩)] := by decide
theorem words_V_2 : Reads [
    (0x0C03804010030200, .rot ⟨0, false, 7, false⟩ ⟨8, 16, 24, false, false, .u32, .rne, false, 0⟩),
    (0x0C83804010030200, .shld ⟨0, false, 7, false⟩ ⟨8, 16, 24, false, false, .u32, .rne, false, 0⟩),
    (0x0D03804010030200, .bfx ⟨0, false, 7, false⟩ ⟨8, 16, 24, false, false, .u32, .rne, false, 0⟩),
    (0x0D83804010030200, .bfi ⟨0, false, 7, false⟩ ⟨8, 16, 24, false, false, .u32, .rne, false, 0⟩),
    (0x0E03804010000200, .popc ⟨0, false, 7, false⟩ ⟨8, 16, 0, false, false, .u32, .rne, false, 0⟩),
    (0x0E83804010000200, .clz ⟨0, false, 7, false⟩ ⟨8, 16, 0, false, false, .u32, .rne, false, 0⟩),
    (0x0F03804010000200, .ctz ⟨0, false, 7, false⟩ ⟨8, 16, 0, false, false, .u32, .rne, false, 0⟩),
    (0x0F83804010000200, .brev ⟨0, false, 7, false⟩ ⟨8, 16, 0, false, false, .u32, .rne, false, 0⟩),
    (0x1003804010030200, .permb ⟨0, false, 7, false⟩ ⟨8, 16, 24, false, false, .u32, .rne, false, 0⟩),
    (0x1083804010030203, .sel ⟨0, false, 7, false⟩ ⟨8, 16, 24, false, false, .u32, .rne, false, 3⟩),
    (0x1103804010000200, .mov ⟨0, false, 7, false⟩ ⟨8, 16, 0, false, false, .u32, .rne, false, 0⟩),
    (0x1183801810030203, .icmp ⟨0, false, 7, false⟩ ⟨3, 16, 24, false, false, .u32, .rne, false, 3⟩),
    (0x1203804010030200, .iadds ⟨0, false, 7, false⟩ ⟨8, 16, 24, false, false, .u32, .rne, false, 0⟩),
    (0x2003804010030500, .fadd ⟨0, false, 7, false⟩ ⟨8, 16, 24, false, false, .f32, .rne, false, 0⟩),
    (0x2083804010030500, .fsub ⟨0, false, 7, false⟩ ⟨8, 16, 24, false, false, .f32, .rne, false, 0⟩),
    (0x2103804010030500, .fmul ⟨0, false, 7, false⟩ ⟨8, 16, 24, false, false, .f32, .rne, false, 0⟩),
    (0x2183804010030500, .ffma ⟨0, false, 7, false⟩ ⟨8, 16, 24, false, false, .f32, .rne, false, 0⟩),
    (0x2203804010030500, .ffms ⟨0, false, 7, false⟩ ⟨8, 16, 24, false, false, .f32, .rne, false, 0⟩),
    (0x2283804010030500, .fmin ⟨0, false, 7, false⟩ ⟨8, 16, 24, false, false, .f32, .rne, false, 0⟩),
    (0x2303804010030500, .fmax ⟨0, false, 7, false⟩ ⟨8, 16, 24, false, false, .f32, .rne, false, 0⟩),
    (0x2383804010030500, .fminn ⟨0, false, 7, false⟩ ⟨8, 16, 24, false, false, .f32, .rne, false, 0⟩),
    (0x2403804010030500, .fmaxn ⟨0, false, 7, false⟩ ⟨8, 16, 24, false, false, .f32, .rne, false, 0⟩),
    (0x2483804010000500, .fabs ⟨0, false, 7, false⟩ ⟨8, 16, 0, false, false, .f32, .rne, false, 0⟩),
    (0x2503804010000500, .fneg ⟨0, false, 7, false⟩ ⟨8, 16, 0, false, false, .f32, .rne, false, 0⟩)] := by decide
theorem words_V_3 : Reads [
    (0x2583804010030500, .fcpys ⟨0, false, 7, false⟩ ⟨8, 16, 24, false, false, .f32, .rne, false, 0⟩),
    (0x2603801810030504, .fcmp ⟨0, false, 7, false⟩ ⟨3, 16, 24, false, false, .f32, .rne, false, 4⟩),
    (0x2683804010000500, .fclass ⟨0, false, 7, false⟩ ⟨8, 16, 0, false, false, .f32, .rne, false, 0⟩),
    (0x2703804010030500, .fdiv ⟨0, false, 7, false⟩ ⟨8, 16, 24, false, false, .f32, .rne, false, 0⟩),
    (0x2783804010000500, .fsqrt ⟨0, false, 7, false⟩ ⟨8, 16, 0, false, false, .f32, .rne, false, 0⟩),
    (0x2803804010000500, .frcp ⟨0, false, 7, false⟩ ⟨8, 16, 0, false, false, .f32, .rne, false, 0⟩),
    (0x2883804010000500, .frsq ⟨0, false, 7, false⟩ ⟨8, 16, 0, false, false, .f32, .rne, false, 0⟩),
    (0x2903804010000500, .fexp2 ⟨0, false, 7, false⟩ ⟨8, 16, 0, false, false, .f32, .rne, false, 0⟩),
    (0x2983804010000500, .flog2 ⟨0, false, 7, false⟩ ⟨8, 16, 0, false, false, .f32, .rne, false, 0⟩),
    (0x2A03804010000500, .fsin ⟨0, false, 7, false⟩ ⟨8, 16, 0, false, false, .f32, .rne, false, 0⟩),
    (0x2A83804010000500, .fcos ⟨0, false, 7, false⟩ ⟨8, 16, 0, false, false, .f32, .rne, false, 0⟩),
    (0x2B03804010000500, .ftanh ⟨0, false, 7, false⟩ ⟨8, 16, 0, false, false, .f32, .rne, false, 0⟩),
    (0x2B83804010000501, .frnd ⟨0, false, 7, false⟩ ⟨8, 16, 0, false, false, .f32, .rne, false, 1⟩),
    (0x2C03804010000500, .ffrc ⟨0, false, 7, false⟩ ⟨8, 16, 0, false, false, .f32, .rne, false, 0⟩),
    (0x2C83804010030500, .fscl ⟨0, false, 7, false⟩ ⟨8, 16, 24, false, false, .f32, .rne, false, 0⟩),
    (0x2D03804010000500, .fexpn ⟨0, false, 7, false⟩ ⟨8, 16, 0, false, false, .f32, .rne, false, 0⟩),
    (0x3003804010030400, .hadd2 ⟨0, false, 7, false⟩ ⟨8, 16, 24, false, false, .f16, .rne, false, 0⟩),
    (0x3083804010030400, .hmul2 ⟨0, false, 7, false⟩ ⟨8, 16, 24, false, false, .f16, .rne, false, 0⟩),
    (0x3103804010030400, .hfma2 ⟨0, false, 7, false⟩ ⟨8, 16, 24, false, false, .f16, .rne, false, 0⟩),
    (0x3183804010030400, .hmin2 ⟨0, false, 7, false⟩ ⟨8, 16, 24, false, false, .f16, .rne, false, 0⟩),
    (0x3203804010030400, .hmax2 ⟨0, false, 7, false⟩ ⟨8, 16, 24, false, false, .f16, .rne, false, 0⟩),
    (0x3283804010030400, .dot2h ⟨0, false, 7, false⟩ ⟨8, 16, 24, false, false, .f16, .rne, false, 0⟩),
    (0x3303804010030000, .dot4 ⟨0, false, 7, false⟩ ⟨8, 16, 24, false, false, .u8, .rne, false, 0⟩),
    (0x3383804010030780, .dot8 ⟨0, false, 7, false⟩ ⟨8, 16, 24, false, false, .s4, .rne, false, 0⟩)] := by decide
theorem words_V_4 : Reads [
    (0x4003804010000508, .cvtff ⟨0, false, 7, false⟩ ⟨8, 16, 0, false, false, .f32, .rne, false, 8⟩),
    (0x408380401000028A, .cvtfi ⟨0, false, 7, false⟩ ⟨8, 16, 0, false, false, .s32, .rne, false, 10⟩),
    (0x4103804010000505, .cvtif ⟨0, false, 7, false⟩ ⟨8, 16, 0, false, false, .f32, .rne, false, 5⟩),
    (0x4183804010000280, .cvtii ⟨0, false, 7, false⟩ ⟨8, 16, 0, false, false, .s32, .rne, false, 0⟩),
    (0x4203804010030400, .pk2 ⟨0, false, 7, false⟩ ⟨8, 16, 24, false, false, .f16, .rne, false, 0⟩),
    (0x4283804010000400, .unpk2 ⟨0, false, 7, false⟩ ⟨8, 16, 0, false, false, .f16, .rne, false, 0⟩),
    (0x4303804010000000, .pk4i ⟨0, false, 7, false⟩ ⟨8, 16, 0, false, false, .u8, .rne, false, 0⟩),
    (0x4383804010000000, .unpk4i ⟨0, false, 7, false⟩ ⟨8, 16, 0, false, false, .u8, .rne, false, 0⟩),
    (0x4403808020000600, .shpack ⟨0, false, 7, false⟩ ⟨16, 32, 0, false, false, .sh8, .rne, false, 0⟩),
    (0x4483810010000600, .shunpk ⟨0, false, 7, false⟩ ⟨32, 16, 0, false, false, .sh8, .rne, false, 0⟩),
    (0x5003804010030200, .shfl ⟨0, false, 7, false⟩ ⟨8, 16, 24, false, false, .u32, .rne, false, 0⟩),
    (0x5083804010030200, .shflup ⟨0, false, 7, false⟩ ⟨8, 16, 24, false, false, .u32, .rne, false, 0⟩),
    (0x5103804010030200, .shfldn ⟨0, false, 7, false⟩ ⟨8, 16, 24, false, false, .u32, .rne, false, 0⟩),
    (0x5183804010030200, .shflx ⟨0, false, 7, false⟩ ⟨8, 16, 24, false, false, .u32, .rne, false, 0⟩),
    (0x5203804010000200, .bcast ⟨0, false, 7, false⟩ ⟨8, 16, 0, false, false, .u32, .rne, false, 0⟩),
    (0x5283801802000001, .voteany ⟨0, false, 7, false⟩ ⟨3, 2, 0, false, false, .u8, .rne, false, 1⟩),
    (0x5303801802000000, .voteall ⟨0, false, 7, false⟩ ⟨3, 2, 0, false, false, .u8, .rne, false, 0⟩),
    (0x5383804002000000, .ballot ⟨0, false, 7, false⟩ ⟨8, 2, 0, false, false, .u8, .rne, false, 0⟩),
    (0x5403804010000200, .matchx ⟨0, false, 7, false⟩ ⟨8, 16, 0, false, false, .u32, .rne, false, 0⟩),
    (0x5483804010000200, .mrank ⟨0, false, 7, false⟩ ⟨8, 16, 0, false, false, .u32, .rne, false, 0⟩),
    (0x5503801800000000, .elect ⟨0, false, 7, false⟩ ⟨3, 0, 0, false, false, .u8, .rne, false, 0⟩),
    (0x5583804010000200, .redx ⟨0, false, 7, false⟩ ⟨8, 16, 0, false, false, .u32, .rne, false, 0⟩),
    (0x5603804010000200, .scanx ⟨0, false, 7, false⟩ ⟨8, 16, 0, false, false, .u32, .rne, false, 0⟩)] := by decide
theorem words_I : Reads [
    (0x1403804010000005, .iaddi ⟨0, false, 7, false⟩ ⟨8, 16, 5⟩),
    (0x1483804010000005, .andi ⟨0, false, 7, false⟩ ⟨8, 16, 5⟩),
    (0x1503804010000005, .ori ⟨0, false, 7, false⟩ ⟨8, 16, 5⟩),
    (0x1583804010000005, .xori ⟨0, false, 7, false⟩ ⟨8, 16, 5⟩),
    (0x1603804010000005, .shli ⟨0, false, 7, false⟩ ⟨8, 16, 5⟩),
    (0x1683804010000005, .shri ⟨0, false, 7, false⟩ ⟨8, 16, 5⟩),
    (0x1703804010000005, .sari ⟨0, false, 7, false⟩ ⟨8, 16, 5⟩),
    (0x1783801810300005, .icmpi ⟨0, false, 7, false⟩ ⟨3, 16, 3145733⟩),
    (0x7403800000000009, .sleep ⟨0, false, 7, false⟩ ⟨0, 0, 9⟩),
    (0x7503800000000009, .trap ⟨0, false, 7, false⟩ ⟨0, 0, 9⟩),
    (0x7603800000000009, .bkpt ⟨0, false, 7, false⟩ ⟨0, 0, 9⟩)] := by decide
theorem words_W : Reads [
    (0x1803804012345678, .movi ⟨0, false, 7, false⟩ ⟨8, 305419896⟩),
    (0x1883804012345678, .movhi ⟨0, false, 7, false⟩ ⟨8, 305419896⟩)] := by decide
theorem words_Sr_1 : Reads [
    (0x6003804010030300, .sadd ⟨0, false, 7, false⟩ ⟨8, 16, 24, .u64, 0⟩),
    (0x6083804010030300, .ssub ⟨0, false, 7, false⟩ ⟨8, 16, 24, .u64, 0⟩),
    (0x6103804010030300, .smul ⟨0, false, 7, false⟩ ⟨8, 16, 24, .u64, 0⟩),
    (0x6183804010030300, .sand ⟨0, false, 7, false⟩ ⟨8, 16, 24, .u64, 0⟩),
    (0x6203804010030300, .sor ⟨0, false, 7, false⟩ ⟨8, 16, 24, .u64, 0⟩),
    (0x6283804010030300, .sxor ⟨0, false, 7, false⟩ ⟨8, 16, 24, .u64, 0⟩),
    (0x6303804010030300, .sshl ⟨0, false, 7, false⟩ ⟨8, 16, 24, .u64, 0⟩),
    (0x6383804010030300, .sshr ⟨0, false, 7, false⟩ ⟨8, 16, 24, .u64, 0⟩),
    (0x6403831010030304, .scmp ⟨0, false, 7, false⟩ ⟨98, 16, 24, .u64, 4⟩),
    (0x6483804010030303, .ssel ⟨0, false, 7, false⟩ ⟨8, 16, 24, .u64, 3⟩),
    (0x6503804010000300, .smov ⟨0, false, 7, false⟩ ⟨8, 16, 0, .u64, 0⟩),
    (0x6683804010000300, .rdfirst ⟨0, false, 7, false⟩ ⟨8, 16, 0, .u64, 0⟩),
    (0x6703804010000300, .spopc ⟨0, false, 7, false⟩ ⟨8, 16, 0, .u64, 0⟩),
    (0x6783804010000300, .sctz ⟨0, false, 7, false⟩ ⟨8, 16, 0, .u64, 0⟩),
    (0x6883828802006300, .mset ⟨0, false, 7, false⟩ ⟨81, 2, 3, .u64, 0⟩),
    (0x7083800005000000, .brx ⟨0, false, 7, false⟩ ⟨0, 5, 0, .u8, 0⟩),
    (0xC803800003008015, .bari ⟨0, false, 7, false⟩ ⟨0, 3, 4, .u8, 21⟩),
    (0xC883801800000005, .bara ⟨0, false, 7, false⟩ ⟨3, 0, 0, .u8, 5⟩),
    (0xC903800000000005, .barw ⟨0, false, 7, false⟩ ⟨0, 0, 0, .u8, 5⟩),
    (0xC983800003000005, .barexp ⟨0, false, 7, false⟩ ⟨0, 3, 0, .u8, 5⟩),
    (0xCA03800003000005, .barph ⟨0, false, 7, false⟩ ⟨0, 3, 0, .u8, 5⟩),
    (0xCA83800000000005, .barinv ⟨0, false, 7, false⟩ ⟨0, 0, 0, .u8, 5⟩),
    (0xCB03800003008000, .gbar ⟨0, false, 7, false⟩ ⟨0, 3, 4, .u8, 0⟩),
    (0xCB03800003000001, .gbarInit ⟨0, false, 7, false⟩ ⟨0, 3, 0, .u8, 1⟩)] := by decide
theorem words_Sr_2 : Reads [
    (0xCB03800003000002, .gbarFini ⟨0, false, 7, false⟩ ⟨0, 3, 0, .u8, 2⟩),
    (0xCB83801003008005, .strag ⟨0, false, 7, false⟩ ⟨2, 3, 4, .u8, 5⟩),
    (0xD80380100000001A, .sread ⟨0, false, 7, false⟩ ⟨2, 0, 0, .u8, 26⟩),
    (0xD88380000300000C, .swrite ⟨0, false, 7, false⟩ ⟨0, 3, 0, .u8, 12⟩),
    (0xD903800000000000, .rett ⟨0, false, 7, false⟩ ⟨0, 0, 0, .u8, 0⟩),
    (0xD903800000000001, .rettSkip ⟨0, false, 7, false⟩ ⟨0, 0, 0, .u8, 1⟩),
    (0xD903800000000002, .rettExit ⟨0, false, 7, false⟩ ⟨0, 0, 0, .u8, 2⟩),
    (0xD983800000000000, .leave ⟨0, false, 7, false⟩ ⟨0, 0, 0, .u8, 0⟩),
    (0xD983800000000001, .leaveRel ⟨0, false, 7, false⟩ ⟨0, 0, 0, .u8, 1⟩),
    (0xDA0380400000000A, .pwrq ⟨0, false, 7, false⟩ ⟨8, 0, 0, .u8, 10⟩),
    (0xDA83801800000000, .halt ⟨0, false, 7, false⟩ ⟨3, 0, 0, .u8, 0⟩),
    (0xDA83801800000001, .haltResume ⟨0, false, 7, false⟩ ⟨3, 0, 0, .u8, 1⟩),
    (0xDB03801800000000, .dbgdrain ⟨0, false, 7, false⟩ ⟨3, 0, 0, .u8, 0⟩),
    (0xDB83801003000000, .tlbinvVa ⟨0, false, 7, false⟩ ⟨2, 3, 0, .u8, 0⟩),
    (0xDB83801003008001, .tlbinvRange ⟨0, false, 7, false⟩ ⟨2, 3, 4, .u8, 1⟩),
    (0xDB83801000000002, .tlbinvCtx ⟨0, false, 7, false⟩ ⟨2, 0, 0, .u8, 2⟩),
    (0xDB83800000000003, .tlbinvAll ⟨0, false, 7, false⟩ ⟨0, 0, 0, .u8, 3⟩)] := by decide
theorem words_Si : Reads [
    (0x6583804000000005, .smovi ⟨0, false, 7, false⟩ ⟨8, 0, 5⟩),
    (0x6603804010000005, .saddi ⟨0, false, 7, false⟩ ⟨8, 16, 5⟩),
    (0x6803820842000005, .aadd ⟨0, false, 7, false⟩ ⟨65, 66, 5⟩)] := by decide
theorem words_B : Reads [
    (0x7003800000000009, .bra ⟨0, false, 7, false⟩ ⟨0, 9⟩),
    (0x7103800050000009, .brd ⟨0, false, 7, false⟩ ⟨5, 9⟩),
    (0x7183800000000000, .join ⟨0, false, 7, false⟩ ⟨0, 0⟩),
    (0x7203800000000009, .call ⟨0, false, 7, false⟩ ⟨0, 9⟩),
    (0x7283800000000000, .ret ⟨0, false, 7, false⟩ ⟨0, 0⟩),
    (0x7303800000000000, .exit ⟨0, false, 7, false⟩ ⟨0, 0⟩),
    (0x7383800000000000, .nop ⟨0, false, 7, false⟩ ⟨0, 0⟩),
    (0x7483800000000000, .yield ⟨0, false, 7, false⟩ ⟨0, 0⟩),
    (0x7583800000000000, .tfence ⟨0, false, 7, false⟩ ⟨0, 0⟩)] := by decide
theorem words_M : Reads [
    (0x80038081814F2000, .ld ⟨0, false, 7, false⟩ ⟨16, 3, 20, 15, 0, 4, 0, 0⟩),
    (0x80838081814F2000, .st ⟨0, false, 7, false⟩ ⟨16, 3, 20, 15, 0, 4, 0, 0⟩),
    (0x81038081814F2000, .lda ⟨0, false, 7, false⟩ ⟨16, 3, 20, 15, 0, 4, 0, 0⟩),
    (0x81838081814F2000, .stl ⟨0, false, 7, false⟩ ⟨16, 3, 20, 15, 0, 4, 0, 0⟩),
    (0x82038081814F2000, .ldu ⟨0, false, 7, false⟩ ⟨16, 3, 20, 15, 0, 4, 0, 0⟩),
    (0x82838081814F2000, .stu ⟨0, false, 7, false⟩ ⟨16, 3, 20, 15, 0, 4, 0, 0⟩),
    (0x83038081814F2000, .ldnt ⟨0, false, 7, false⟩ ⟨16, 3, 20, 15, 0, 4, 0, 0⟩),
    (0x83838081814F2000, .stnt ⟨0, false, 7, false⟩ ⟨16, 3, 20, 15, 0, 4, 0, 0⟩),
    (0x84038081814F2030, .atom ⟨0, false, 7, false⟩ ⟨16, 3, 20, 15, 0, 4, 0, 48⟩),
    (0x84838081814F2030, .red ⟨0, false, 7, false⟩ ⟨16, 3, 20, 15, 0, 4, 0, 48⟩),
    (0x85038081814F2010, .atomf ⟨0, false, 7, false⟩ ⟨16, 3, 20, 15, 0, 4, 0, 16⟩),
    (0x85838081814F2000, .cas ⟨0, false, 7, false⟩ ⟨16, 3, 20, 15, 0, 4, 0, 0⟩),
    (0x86038081814F2020, .ored ⟨0, false, 7, false⟩ ⟨16, 3, 20, 15, 0, 4, 0, 32⟩),
    (0x86838081814F2000, .sgath ⟨0, false, 7, false⟩ ⟨16, 3, 20, 15, 0, 4, 0, 0⟩),
    (0x8703800000000203, .fence ⟨0, false, 7, false⟩ ⟨0, 0, 0, 0, 0, 0, 2, 3⟩),
    (0x8783800000000000, .ifence ⟨0, false, 7, false⟩ ⟨0, 0, 0, 0, 0, 0, 0, 0⟩),
    (0x88038001814F2000, .pref ⟨0, false, 7, false⟩ ⟨0, 3, 20, 15, 0, 4, 0, 0⟩),
    (0x88838001814F2000, .resid ⟨0, false, 7, false⟩ ⟨0, 3, 20, 15, 0, 4, 0, 0⟩),
    (0x89038001814F2000, .clean ⟨0, false, 7, false⟩ ⟨0, 3, 20, 15, 0, 4, 0, 0⟩),
    (0x89838001814F2000, .inval ⟨0, false, 7, false⟩ ⟨0, 3, 20, 15, 0, 4, 0, 0⟩)] := by decide
theorem words_C_1 : Reads [
    (0xA003BF147C000003, .cpy ⟨0, false, 7, false⟩ ⟨63, 5, 1, 15, 0, 3⟩),
    (0xA083821400000000, .cpym ⟨0, false, 7, false⟩ ⟨2, 5, 0, 0, 0, 0⟩),
    (0xA1038214C0000001, .cpyg ⟨0, false, 7, false⟩ ⟨2, 5, 3, 0, 0, 1⟩),
    (0xA183801400000000, .stage ⟨0, false, 7, false⟩ ⟨0, 5, 0, 0, 0, 0⟩),
    (0xA183800000000001, .stageInc ⟨0, false, 7, false⟩ ⟨0, 0, 0, 0, 0, 1⟩),
    (0xA203801400000000, .tagall ⟨0, false, 7, false⟩ ⟨0, 5, 0, 0, 0, 0⟩),
    (0xA283801400000000, .tagany ⟨0, false, 7, false⟩ ⟨0, 5, 0, 0, 0, 0⟩),
    (0xA303801400000007, .tagff ⟨0, false, 7, false⟩ ⟨0, 5, 0, 0, 0, 7⟩),
    (0xA383801400000000, .tagclr ⟨0, false, 7, false⟩ ⟨0, 5, 0, 0, 0, 0⟩),
    (0xA403800000000047, .tagrd ⟨0, false, 7, false⟩ ⟨0, 0, 0, 0, 0, 71⟩),
    (0xA483801400001000, .strmset ⟨0, false, 7, false⟩ ⟨0, 5, 0, 0, 0, 4096⟩),
    (0xA503800000001000, .strmgo ⟨0, false, 7, false⟩ ⟨0, 0, 0, 0, 0, 4096⟩),
    (0xA583800000001010, .strmpop ⟨0, false, 7, false⟩ ⟨0, 0, 0, 0, 0, 4112⟩),
    (0xA603800000001010, .strmpsh ⟨0, false, 7, false⟩ ⟨0, 0, 0, 0, 0, 4112⟩),
    (0xA683800000001000, .strmend ⟨0, false, 7, false⟩ ⟨0, 0, 0, 0, 0, 4096⟩),
    (0xA703801400000008, .qpush ⟨0, false, 7, false⟩ ⟨0, 5, 0, 0, 0, 8⟩),
    (0xA703801400000040, .qpushClose ⟨0, false, 7, false⟩ ⟨0, 5, 0, 0, 0, 64⟩),
    (0xA783801400000048, .qpop ⟨0, false, 7, false⟩ ⟨0, 5, 0, 0, 0, 72⟩),
    (0xA803801400000048, .qtry ⟨0, false, 7, false⟩ ⟨0, 5, 0, 0, 0, 72⟩),
    (0xA883801400000009, .qstat ⟨0, false, 7, false⟩ ⟨0, 5, 0, 0, 0, 9⟩),
    (0xA903801400000048, .glean ⟨0, false, 7, false⟩ ⟨0, 5, 0, 0, 0, 72⟩),
    (0xA903801400000205, .gleanDone ⟨0, false, 7, false⟩ ⟨0, 5, 0, 0, 0, 517⟩),
    (0xA983801400000042, .taskarm ⟨0, false, 7, false⟩ ⟨0, 5, 0, 0, 0, 66⟩),
    (0xAA03800000001042, .taskdec ⟨0, false, 7, false⟩ ⟨0, 0, 0, 0, 0, 4162⟩)] := by decide
theorem words_C_2 : Reads [
    (0xAA838014C0001008, .spawn ⟨0, false, 7, false⟩ ⟨0, 5, 3, 0, 0, 4104⟩),
    (0xAB03801400000000, .binfl ⟨0, false, 7, false⟩ ⟨0, 5, 0, 0, 0, 0⟩),
    (0xAB03800000000001, .binflAll ⟨0, false, 7, false⟩ ⟨0, 0, 0, 0, 0, 1⟩)] := by decide
theorem words_X_1 : Reads [
    (0xB003800000000045, .mreq ⟨0, false, 7, false⟩ ⟨0, 0, 0, .u8, 0, 69⟩),
    (0xB083800000000000, .reinget ⟨0, false, 7, false⟩ ⟨0, 0, 0, .u8, 0, 0⟩),
    (0xB103800000000000, .reinpass ⟨0, false, 7, false⟩ ⟨0, 0, 0, .u8, 0, 0⟩),
    (0xB183800000000000, .reinrel ⟨0, false, 7, false⟩ ⟨0, 0, 0, .u8, 0, 0⟩),
    (0xB183800000000001, .reinrelKeep ⟨0, false, 7, false⟩ ⟨0, 0, 0, .u8, 0, 1⟩),
    (0xB203810000000123, .hfeed ⟨0, false, 7, false⟩ ⟨0, 2, 0, .u8, 0, 291⟩),
    (0xB283860000000123, .hdrain ⟨0, false, 7, false⟩ ⟨3, 0, 0, .u8, 0, 291⟩),
    (0xB303BED000000003, .mma ⟨0, false, 7, false⟩ ⟨31, 1, 2, .f16, 0, 3⟩),
    (0xB383860000000000, .zzero ⟨0, false, 7, false⟩ ⟨3, 0, 0, .u8, 0, 0⟩),
    (0xB403861400000005, .zscale ⟨0, false, 7, false⟩ ⟨3, 0, 0, .f32, 0, 5⟩),
    (0xB483861400000005, .zadd ⟨0, false, 7, false⟩ ⟨3, 0, 0, .f32, 0, 5⟩),
    (0xB503861400000000, .zcvt ⟨0, false, 7, false⟩ ⟨3, 0, 0, .f32, 0, 0⟩),
    (0xB583861400000023, .zld ⟨0, false, 7, false⟩ ⟨3, 0, 0, .f32, 0, 35⟩),
    (0xB603861400000023, .zst ⟨0, false, 7, false⟩ ⟨3, 0, 0, .f32, 0, 35⟩),
    (0xB683800000000000, .mwait ⟨0, false, 7, false⟩ ⟨0, 0, 0, .u8, 0, 0⟩),
    (0xB703800002000005, .mstat ⟨0, false, 7, false⟩ ⟨0, 0, 0, .u8, 2, 5⟩),
    (0xB783810000000001, .osbind ⟨0, false, 7, false⟩ ⟨0, 2, 0, .u8, 0, 1⟩),
    (0xB803810000000000, .osflush ⟨0, false, 7, false⟩ ⟨0, 2, 0, .u8, 0, 0⟩),
    (0xB883800000000015, .mreset ⟨0, false, 7, false⟩ ⟨0, 0, 0, .u8, 0, 21⟩),
    (0xC003800000000015, .treebind ⟨0, false, 7, false⟩ ⟨0, 0, 0, .u8, 0, 21⟩),
    (0xC083869005001003, .desc ⟨0, false, 7, false⟩ ⟨3, 1, 0, .f16, 5, 4099⟩),
    (0xC103809005000003, .dstep ⟨0, false, 7, false⟩ ⟨0, 1, 0, .f16, 5, 3⟩),
    (0xC183800000000105, .regrp ⟨0, false, 7, false⟩ ⟨0, 0, 0, .u8, 0, 261⟩),
    (0xC203800010000105, .qrd ⟨0, false, 7, false⟩ ⟨0, 0, 0, .u8, 16, 261⟩)] := by decide
theorem words_X_2 : Reads [
    (0xC283800010000105, .qwr ⟨0, false, 7, false⟩ ⟨0, 0, 0, .u8, 16, 261⟩),
    (0xC303809005000003, .ascend ⟨0, false, 7, false⟩ ⟨0, 1, 0, .f16, 5, 3⟩),
    (0xC383800044000105, .naddr ⟨0, false, 7, false⟩ ⟨0, 0, 0, .u8, 68, 261⟩)] := by decide

/-! ### Terms that WellFormed refuses, one or more for each of its checks -/

/-- None of these instructions is well formed. -/
abbrev Refused (l : List Instr) : Prop := ∀ i ∈ l, i.wf = false
/-- The common fields with U set. -/
def hu : Hd := ⟨0, true, 7, false⟩

/-- A type that is not admitted, and a SUB that the description does not use. -/
theorem bad_vector_types : Refused [.iadd hd (vf .f32), .iadd hd { vf .s32 with sub := 1 }, .isad hd (vf .f16), .sar hd (vf .u32), .fadd hd (vf .u32), .frcp hd (vf .f64),
    .hadd2 hd (vf .f32), .dot4 hd (vf .u32), .dot8 hd (vf .s8), .cvtff hd { vf .f32 with sub := 10 }, .cvtfi hd { vf .s32 with sub := 5 },
    .cvtif hd { vf .f16 with b := 0, sub := 5 }, .cvtii hd { vf .s32 with sub := 5 }, .pk2 hd (vf .u8), .shpack hd (vf .f32), .shfl hd (vf .f16)] := by decide
theorem bad_vector_subs : Refused [.fcmp hd { vf .f32 with d := 3, sub := 8 }, .icmp hd { vf .u32 with d := 3, sub := 7 }, .frnd hd { vf .f32 with b := 0, sub := 2 },
    .voteany hd ⟨3, 2, 0, false, false, .u8, .rne, false, 2⟩, .voteall hd ⟨3, 2, 0, false, false, .u32, .rne, false, 0⟩, .redx hd ⟨2, 4, 0, false, false, .u32, .rne, false, 6⟩,
    .redx hd ⟨2, 4, 0, false, false, .f32, .rne, false, 3⟩, .redx hd ⟨2, 4, 0, false, false, .u32, .rup, false, 0⟩, .scanx hd ⟨2, 4, 0, false, false, .f16, .rne, false, 0⟩] := by decide
/-- Registers that do not lie as their operands must, kills and modifiers of operands that take none, U where it is not admitted. -/
theorem bad_vector_operands : Refused [.iadd hd { vf .u64 with d := 3 }, .iadd hd { vf .u64 with a := 5 }, .iadd hd { vf .u64 with b := 7 }, .ineg hd (vf .s32),
    .fcmp hd { vf .f32 with d := 8 }, .voteany hd ⟨3, 2, 0, true, false, .u8, .rne, false, 0⟩, .ineg hd { vf .s32 with b := 0, kb := true },
    .iadd hd { vf .u32 with rnd := .rup }, .iand hd { vf .u32 with sat := true }, .shfl hu (vf .u32)] := by decide
theorem bad_immediates : Refused [.shli hd ⟨2, 4, 32⟩, .shri hd ⟨2, 4, 32⟩, .sari hd ⟨2, 4, 64⟩, .icmpi hd ⟨3, 4, 0x600000⟩, .icmpi hd ⟨8, 4, 0⟩, .movhi hd ⟨3, 7⟩] := by decide
theorem bad_scalar : Refused [.sadd hu ⟨1, 2, 3, .u64, 0⟩, .sadd hd ⟨1, 2, 3, .f32, 0⟩, .sadd hd ⟨80, 2, 3, .u64, 0⟩, .sadd hd ⟨1, 104, 3, .u64, 0⟩, .sadd hd ⟨1, 2, 90, .u64, 0⟩,
    .sadd hd ⟨1, 2, 3, .u64, 1⟩, .sshr hd ⟨1, 2, 3, .u64, 2⟩, .scmp hd ⟨1, 2, 3, .u64, 6⟩, .ssel hd ⟨1, 2, 3, .u64, 16⟩, .smov hd ⟨1, 2, 0, .u32, 0⟩, .smov hd ⟨1, 2, 3, .u64, 0⟩,
    .smovi hd ⟨1, 2, 0⟩, .saddi hd ⟨1, 104, 0⟩, .rdfirst hd ⟨96, 4, 0, .u32, 0⟩, .rdfirst hd ⟨1, 5, 0, .u64, 0⟩] := by decide
theorem bad_scalar_more : Refused [.spopc hd ⟨1, 2, 0, .u32, 0⟩, .sctz hd ⟨1, 2, 3, .u64, 0⟩, .aadd hd ⟨1, 66, 0⟩, .aadd hd ⟨65, 3, 0⟩, .mset hd ⟨65, 2, 3, .u64, 0⟩,
    .mset hd ⟨80, 64, 3, .u64, 0⟩, .mset hd ⟨80, 2, 3, .u32, 0⟩] := by decide
theorem bad_control : Refused [.bra hd ⟨1, 0⟩, .bra hu b0, .brx hd ⟨0, 96, 0, .u8, 0⟩, .brx hd ⟨1, 5, 0, .u8, 0⟩, .brd hd ⟨0, 4⟩, .join hd ⟨0, 1⟩, .call hd ⟨1, 0⟩, .ret hd ⟨1, 0⟩,
    .exit hu b0, .nop hd ⟨0, 1⟩, .sleep hd ⟨1, 0, 9⟩, .yield hd ⟨0, 1⟩, .trap hd ⟨0, 1, 9⟩, .tfence hd ⟨0, 1⟩, .bkpt hu ⟨0, 0, 9⟩] := by decide
theorem bad_memory : Refused [.ld hd { mf 4 0 with inc := 3 }, .ld hd (mf 7 0), .ld hd { mf 5 0 with data := 3 }, .ld hd { mf 4 0 with hint := 4 }, .st hu (mf 4 0), .lda hd (mf 6 0),
    .stl hd { mf 4 0 with hint := 7 }, .ldu hd { mf 4 0 with data := 96 }, .stu hd (mf 6 0), .ldnt hd { mf 4 0 with hint := 1 }, .stnt hd { mf 6 0 with data := 6 },
    .pref hd { lf with hint := 2 }, .resid hd { lf with hint := 3 }, .clean hd { lf with hint := 1 }, .inval hd { lf with data := 1 }] := by decide
theorem bad_atomics : Refused [.atom hd { mf 4 0 with inc := 1 }, .atom hd { mf 4 0 with hint := 1 }, .atom hd (mf 3 0), .atom hd (mf 4 0xB0), .atom hd (mf 4 0x31), .red hd (mf 4 0x80),
    .atomf hd (mf 4 0x50), .atomf hd (mf 4 1), .cas hd { mf 4 0 with data := 3 }, .cas hd (mf 4 1), .ored hd (mf 4 0x60), .ored hd (mf 4 0x10), .ored hd (mf 5 0x20), .sgath hd (mf 5 0)] := by decide
theorem bad_fences : Refused [.fence hd (ff 0), .fence hd (ff 4), .fence hd { ff 3 with hint := 7 }, .fence hd { ff 3 with sz := 1 }, .ifence hd (ff 1), .ifence hu (ff 0)] := by decide
theorem bad_copies : Refused [.cpy hu (cf 5 0), .cpy hd { cf 5 0 with asrc := 1 }, .cpym hd { cf 5 0 with adst := 1 }, .cpyg hd (cf 5 8), .cpy hd (cf 5 0x80), .stage hd (cf 5 1),
    .stageInc hd (cf 5 1), .stageInc hd (cf 0 0), .tagall hd { cf 5 0 with tag := 1 }, .tagany hd (cf 5 1), .tagff hd (cf 5 0x40), .tagclr hd (cf 5 2), .tagrd hd (cf 1 0), .tagrd hd (cf 0 0x80),
    .strmset hd (cf 5 1), .strmgo hd (cf 1 0)] := by decide
theorem bad_queues : Refused [.strmpop hd (cf 0 0x800), .strmpsh hd (cf 1 0), .strmend hd (cf 0 1), .qpush hd (cf 5 1), .qpush hd (cf 5 0x80), .qpushClose hd (cf 5 0), .qpop hd (cf 5 0x200),
    .qtry hd (cf 5 4), .qstat hd (cf 5 0x40), .glean hd { cf 5 8 with depctr := 1 }, .gleanDone hd (cf 5 0x100), .taskarm hd (cf 5 0x1000), .taskdec hd (cf 0 0x40), .taskdec hd (cf 0 0x2000),
    .spawn hd { cf 1 8 with asrc := 7 }, .spawn hd (cf 1 9)] := by decide
theorem bad_spawn : Refused [.binfl hd (cf 1 1), .binflAll hd (cf 1 1), .binflAll hd (cf 0 0)] := by decide
theorem bad_matrix : Refused [.mreq hd (xf 0x80), .mreq hd { xf 0 with z := 1 }, .reinget hd (xf 1), .reinpass hd { xf 0 with t := .f32 }, .reinrel hd (xf 1), .reinrelKeep hd (xf 0),
    .hfeed hd { xf 0 with shape := 1 }, .hdrain hd (xf 0x20000), .mma hd ⟨1, 1, 1, .f16, 0, 0⟩, .mma hd ⟨1, 1, 2, .f32, 0, 0⟩, .mma hd ⟨1, 1, 2, .f16, 0, 0x200⟩, .mma hd ⟨1, 1, 2, .f16, 0, 0x80⟩,
    .mma hd ⟨1, 1, 2, .f16, 0, 0x400⟩, .zzero hd (xf 1), .zscale hd (xf 0), .zadd hd { xf 0x20 with t := .f32 }] := by decide
theorem bad_engine : Refused [.zcvt hd { xf 1 with t := .f32 }, .zld hd (xf 0), .zst hd { xf 0x400 with t := .f32 }, .mwait hd (xf 1), .mstat hd { xf 0 with shape := 4 }, .mstat hd { xf 0 with shape := 128 },
    .osbind hd (xf 3), .osflush hd (xf 1), .mreset hd (xf 64), .treebind hu (xf 0)] := by decide
theorem bad_descent : Refused [.desc hd { xf 0 with t := .f32 }, .desc hd { xf 0 with t := .f16, shape := 64 }, .desc hd { xf 0x2000 with t := .f16, z := 1 }, .desc hd { xf 0x4000 with t := .f16 },
    .desc hd { xf 0x2040 with t := .f16 }, .dstep hd { xf 0x40 with t := .f16 }, .dstep hd { xf 0 with t := .f16, z := 1 }, .regrp hd (xf 0x4000), .qrd hd { xf 0 with shape := 17 }, .qwr hd (xf 0x100000),
    .ascend hd { xf 0x4000 with t := .f16 }, .naddr hd { xf 0 with shape := 6 }, .naddr hd { xf 0 with shape := 8 }, .naddr hd { xf 0 with shape := 4 }, .naddr hd { xf 0 with shape := 16 }] := by decide
theorem bad_barriers : Refused [.bari hu (rf 0 1 0 0), .bari hd (rf 1 1 0 0), .bari hd (rf 0 64 0 0), .bari hd (rf 0 1 2 0), .bari hd (rf 0 1 64 16), .bari hd (rf 0 1 0 32), .bara hd (rf 1 1 0 0),
    .barw hd (rf 0 0 0 16), .barexp hd (rf 0 64 0 0), .barph hd (rf 0 1 1 0), .barinv hd (rf 1 0 0 0), .gbar hd (rf 0 4 5 3), .gbarInit hd (rf 0 4 1 1), .gbarFini hd (rf 0 64 0 2), .strag hd (rf 1 2 3 8),
    .barw hd { rf 0 0 0 0 with t := .u32 }] := by decide
theorem bad_system : Refused [.sread hd (rf 8 0 0 27), .sread hd (rf 96 0 0 1), .swrite hd (rf 0 8 0 11), .swrite hd (rf 0 64 0 12), .rett hd (rf 0 0 0 3), .rettSkip hd (rf 1 0 0 1), .rettExit hd (rf 0 0 0 1),
    .leave hd (rf 0 1 0 0), .leaveRel hd (rf 0 0 0 0), .pwrq hd (rf 8 0 0 11), .pwrq hd (rf 96 0 0 0), .halt hd (rf 64 0 0 0), .haltResume hd (rf 1 0 0 0), .dbgdrain hd (rf 1 1 0 0),
    .tlbinvVa hd (rf 1 2 3 0), .tlbinvRange hd (rf 1 2 64 1)] := by decide
theorem bad_system_more : Refused [.tlbinvCtx hd (rf 64 0 0 2), .tlbinvAll hd (rf 1 0 0 3)] := by decide
/-- Words that are no instruction: a reserved opcode, and a field that is not used. -/
theorem bad_words : ∀ w ∈ [0x0003802002003000 + 0x025 * 2 ^ 55, 0xFF80000000000000, 0x7003801000000000, 0x0003802002003001], decodeTableWord 64 w = none := by decide

/-! ### Single steps: the worked examples of the spec, and corners of its rules -/

/-- The group of 16 threads whose lines are as given, and the same with one thread. -/
def tv (l : List (Nat × List W32)) : Group :=
  { tg with width := 16, active := 0xFFFF, lines := l.map (fun x => ⟨x.1, x.2, false, 0, .general⟩) }
@[inherit_doc tv] def t1 (l : List (Nat × W32)) : Group := { tv (l.map (fun x => (x.1, List.replicate 16 x.2))) with active := 1 }
/-- What an instruction leaves in the machine of a group. -/
def after (i : Instr) (g : Group) : Option (State × Group) :=
  match exec i (tst g) with
  | .next t => (groupOf t 3).map (fun g => (t, g))
  | _ => none
/-- The first words of a line afterwards; and of thread 0. -/
def line (i : Instr) (g : Group) (r n : Nat) : Option (List W32) := (after i g).map (fun x => (readLine x.1 x.2 r).take n)
@[inherit_doc line] def word0 (i : Instr) (g : Group) (r : Nat) : Option W32 := (after i g).map (fun x => (readLine x.1 x.2 r).getD 0 0)
/-- The flags afterwards. -/
def flagsOf (i : Instr) (g : Group) : Option Flags := (after i g).map (fun x => x.2.flags)

/-- The digits of the worked example of MATCH and MRANK (07 R163), with threads 0 to 7 active. -/
def tgDigits : Group := { tv [(6, [3, 1, 3, 2, 1, 3, 0, 2, 0, 0, 0, 0, 0, 0, 0, 0]), (8, List.replicate 16 0), (9, List.replicate 16 7), (10, List.replicate 16 0)] with active := 0xFF }
theorem step_match : line (.matchx hd { vf .u32 with d := 8, a := 6, b := 0 }) tgDigits 8 8 = some [0x25, 0x12, 0x25, 0x88, 0x12, 0x25, 0x40, 0x88] ∧
    line (.matchx hd { vf .u32 with d := 8, a := 6, b := 0 }) tgDigits 9 8 = some (List.replicate 8 0) := by and_intros <;> decide
theorem step_mrank : line (.mrank hd { vf .u32 with d := 10, a := 6, b := 0 }) tgDigits 10 8 = some [0, 0, 1, 0, 1, 2, 0, 1] := by decide

/-- The words of the worked example of a divergent branch (07 R167, R168). -/
theorem words_branch : Reads [(0x1483801000000001, .andi hd ⟨2, 0, 1⟩), (0x1783801802900000, .icmpi hd ⟨3, 2, 0x900000⟩),
    (0x71018000A0000007, .brd ⟨0, false, 3, false⟩ ⟨10, 7⟩), (0x7183800000000000, .join hd b0)] := by decide
/-- The group before the BRD of that example, with p3 set for the odd threads. -/
def tgOdd : Group := { tv [] with pc := 0x1000, pos := 2, p := [0, 0, 0, 0xAAAA, 0, 0, 0] }
theorem step_brd : (after (.brd ⟨0, false, 3, false⟩ ⟨10, 7⟩) tgOdd).map (fun x => (x.2.active, x.2.stack)) =
    some (0x5555, [⟨0xFFFF, 0x1050, 0⟩, ⟨0xAAAA, 0x1038, 1⟩]) := by decide

theorem step_iaddi_wraps : word0 (.iaddi hd ⟨4, 4, 1⟩) (t1 [(4, 0xFFFFFFFF)]) 4 = some 0 := by decide
theorem step_iadd_saturates : word0 (.iadd hd { vf .s32 with sat := true }) (t1 [(2, 0), (4, 0x7FFFFFFF), (6, 1)]) 2 = some 0x7FFFFFFF := by decide
theorem step_shl_by_width : word0 (.shl hd (vf .u32)) (t1 [(2, 9), (4, 1), (6, 32)]) 2 = some 0 := by decide
theorem step_idiv_by_zero : word0 (.idiv hd (vf .u32)) (t1 [(2, 0), (4, 7), (6, 0)]) 2 = some 0xFFFFFFFF ∧
    flagsOf (.idiv hd (vf .u32)) (t1 [(2, 0), (4, 7), (6, 0)]) = some flDZ := by and_intros <;> decide
theorem step_fadd : word0 (.fadd hd (vf .f32)) (t1 [(2, 0), (4, 0x3F800000), (6, 0x40000000)]) 2 = some 0x40400000 := by decide
theorem step_ffma_cancels : word0 (.ffma hd (vf .f32)) (t1 [(2, 0xC0C00000), (4, 0x40000000), (6, 0x40400000)]) 2 = some 0 := by decide
theorem step_hadd2 : word0 (.hadd2 hd (vf .f16)) (t1 [(2, 0), (4, 0x3C003C00), (6, 0x40003C00)]) 2 = some 0x42004000 := by decide
theorem step_cvtif_rounds : word0 (.cvtif hd { vf .f32 with b := 0, sub := 4 }) (t1 [(2, 0), (4, 0x1000001)]) 2 = some 0x4B800000 := by decide
theorem step_smovi_extends : (after (.smovi hd ⟨4, 0, 0xFFFFFF⟩) tg).map (fun x => x.2.s.getD 4 0) = some 0xFFFFFFFFFFFFFFFF := by decide
theorem step_aadd_wraps_window : (after (.aadd hd ⟨65, 66, 0xFFFFF8⟩) { tg with a := tg.a.set 2 0x1000 }).map (fun x => x.2.a.getD 1 0) = some 0xFF8 := by decide
theorem step_predicate_off : word0 (.iaddi ⟨0, false, 7, true⟩ ⟨4, 4, 1⟩) (t1 [(4, 8)]) 4 = some 8 := by decide
theorem step_call : (after (.call hd ⟨0, 0x10⟩) { tg with pos := 0 }).map (fun x => x.2.stack.length) = some 1 := by decide
/-- A trap enters the handler at TRAPBASE with the group in handler mode (16 R376). -/
theorem step_trap : (match exec (.trap hd ⟨0, 0, 5⟩) tstTb with
    | .next t => (groupOf t 3).map (fun g => (g.handler, g.pc))
    | _ => none) = some (true, 0x48000) := by decide
/-- The first step after reset runs the word that is placed. -/
theorem step_first : (match step (State.reset.withFetchWord 64 0x18038040DEADBEEF) with
    | .next t => (groupOf t 3).map (fun g => (readLine t g 8).getD 63 0)
    | _ => none) = some 0xDEADBEEF := by decide +kernel

end Sys2Proof.Tests
end

namespace Sys2Proof.Proofs
open Sys2Proof.Machine Sys2Proof.Laws

/-! ## Every step keeps memories canonical (O60)

The canonical form is an invariant of each operation of the model, not only of a whole step: every
operation `f` has one lemma `f_canon`, which says that `f` answers a state in canonical form when it
gets one, and whose proof follows the branches of `f` and cites the lemmas of the operations it
calls. The lemmas stand in the order of the model's files, from the operations on one object to the
turns of the agenda and `step_canon`. Bytes are written in few places; there the lemmas of the laws
about `memPut`, `memCells`, `memClear` and filters give the canonical form of the new memory. -/

/-! ### Lists of teams -/

/-- Every scratchpad of a list of teams is in its canonical form. -/
def padsWf (ts : List Team) : Bool := ts.all (fun t => Memory.wf t.scratch)

theorem padsWf_iff (ts : List Team) : padsWf ts = true ↔ ∀ t ∈ ts, Memory.wf t.scratch = true := List.all_eq_true

theorem padsWf_append_singleton {ts : List Team} {t : Team} (h : padsWf ts = true) (ht : Memory.wf t.scratch = true) :
    padsWf (ts ++ [t]) = true := by
  rw [padsWf, List.all_append, Bool.and_eq_true]
  exact ⟨h, by simpa using ht⟩

theorem padsWf_filter {ts : List Team} (p : Team → Bool) (h : padsWf ts = true) : padsWf (ts.filter p) = true := by
  rw [padsWf_iff] at *
  exact fun t ht => h t (List.mem_of_mem_filter ht)

theorem padsWf_map {ts : List Team} {f : Team → Team} (hf : ∀ t, Memory.wf t.scratch = true → Memory.wf (f t).scratch = true)
    (h : padsWf ts = true) : padsWf (ts.map f) = true := by
  rw [padsWf_iff] at *
  intro t ht
  obtain ⟨u, hu, rfl⟩ := List.mem_map.mp ht
  exact hf u (h u hu)

/-! ### States -/

/-- The canonical form of a state is that of its memory and of its scratchpads. -/
theorem canon_of_parts {s : State} (hm : Memory.wf s.mem = true) (ht : padsWf s.teams = true) : s.canon = true :=
  Bool.and_eq_true_iff.mpr ⟨hm, ht⟩

theorem mem_wf {s : State} (hs : s.canon = true) : Memory.wf s.mem = true := (Bool.and_eq_true_iff.mp hs).1

theorem teams_wf {s : State} (hs : s.canon = true) : padsWf s.teams = true := (Bool.and_eq_true_iff.mp hs).2

section
variable {fcycles cur agenda freeCtr nextId birth poison dirty wcbs flight remotes oredHeld pwc copies queues qreqs asks
  unmet owed joins farArr relays outbox inbox claims fired rgot owned recs gmsgs out msix msixPend swbase firm
  contexts launches groups cores clusters links fid slew undervolt policyAt}

/-- What changes neither the memory nor the teams keeps the canonical form. -/
theorem canon_with {s : State} (hs : s.canon = true) :
    (State.mk fcycles cur agenda freeCtr nextId birth s.mem poison dirty wcbs flight remotes oredHeld pwc
      copies queues qreqs asks unmet owed joins farArr relays outbox inbox claims fired rgot owned recs gmsgs
      out msix msixPend swbase firm contexts launches s.teams groups cores clusters links fid slew undervolt
      policyAt).canon = true := hs

/-- A new memory in canonical form keeps the canonical form, where the teams stay. -/
theorem canon_with_mem {s : State} (hs : s.canon = true) {mem : Memory} (hm : Memory.wf mem = true) :
    (State.mk fcycles cur agenda freeCtr nextId birth mem poison dirty wcbs flight remotes oredHeld pwc
      copies queues qreqs asks unmet owed joins farArr relays outbox inbox claims fired rgot owned recs gmsgs
      out msix msixPend swbase firm contexts launches s.teams groups cores clusters links fid slew undervolt
      policyAt).canon = true := canon_of_parts hm (@teams_wf s hs)

/-- New teams in canonical form keep the canonical form, where the memory stays. -/
theorem canon_with_teams {s : State} (hs : s.canon = true) {teams : List Team} (ht : padsWf teams = true) :
    (State.mk fcycles cur agenda freeCtr nextId birth s.mem poison dirty wcbs flight remotes oredHeld pwc
      copies queues qreqs asks unmet owed joins farArr relays outbox inbox claims fired rgot owned recs gmsgs
      out msix msixPend swbase firm contexts launches teams groups cores clusters links fid slew undervolt
      policyAt).canon = true := canon_of_parts (@mem_wf s hs) ht
end

theorem holds_ite {α : Type} {p : α → Bool} {c : Prop} [Decidable c] {a b : α} (ha : p a = true) (hb : p b = true) :
    p (if c then a else b) = true := by
  split <;> assumption

theorem fst_ite {α : Type} {c : Prop} [Decidable c] {a b : State × α} (ha : a.1.canon = true) (hb : b.1.canon = true) :
    (if c then a else b).1.canon = true := by
  split <;> assumption

theorem snd_ite {α : Type} {c : Prop} [Decidable c] {a b : α × State} (ha : a.2.canon = true) (hb : b.2.canon = true) :
    (if c then a else b).2.canon = true := by
  split <;> assumption

theorem acc_ite {c : Prop} [Decidable c] {a b : MAcc} (ha : a.s.canon = true) (hb : b.s.canon = true) :
    (if c then a else b).s.canon = true := by
  split <;> assumption

theorem foldl_canon {α : Type} {f : State → α → State} (hf : ∀ s a, s.canon = true → (f s a).canon = true) (xs : List α)
    {s : State} (hs : s.canon = true) : (xs.foldl f s).canon = true :=
  List.foldlRecOn (motive := fun s => s.canon = true) xs f hs (fun s hs a _ => hf s a hs)

/-! ### What an operation answers

The state in an answer, where it holds one, is in canonical form. For options this is `Option.all`. -/

/-- The state that a row answers is in canonical form. -/
def outcomeCanon : Host.Outcome State Fault Refusal → Bool
  | .next t => t.canon
  | _ => true

@[inherit_doc outcomeCanon] def gOutCanon : GOut → Bool
  | .done s | .jump s | .hold s | .trap s _ => s.canon
  | .wait => true

@[inherit_doc outcomeCanon] def qAnsCanon : QAns → Bool
  | .ok s | .word s _ _ | .claim s _ => s.canon
  | _ => true

@[inherit_doc outcomeCanon] def strmOutCanon : StrmOut → Bool
  | .all s | .park s _ | .fault s _ => s.canon

@[inherit_doc outcomeCanon] def laneDoCanon : LaneDo → Bool
  | .turn s | .run s _ _ => s.canon
  | .idle => true

/-- The value, where there is one, meets a condition. -/
def okAll {ε α : Type} (p : α → Bool) : Except ε α → Bool
  | .ok x => p x
  | .error _ => true

theorem getD_canon {o : Option State} {s : State} (ho : o.all State.canon = true) (hs : s.canon = true) :
    (o.getD s).canon = true := by
  cases o with
  | none => exact hs
  | some t => exact ho

section
variable {α β : Type} {p : α → Bool} {q : β → Bool}

theorem all_or {o o' : Option α} (h : o.all p = true) (h' : o'.all p = true) : (o.or o').all p = true := by
  cases o with
  | none => exact h'
  | some x => exact h

theorem all_bind {o : Option α} {k : α → Option β} (hk : ∀ x, o = some x → (k x).all q = true) : (o.bind k).all q = true := by
  cases o with
  | none => rfl
  | some x => exact hk x rfl

theorem all_map {o : Option α} {k : α → β} (hk : ∀ x, o = some x → q (k x) = true) : (o.map k).all q = true := by
  cases o with
  | none => rfl
  | some x => exact hk x rfl

theorem all_bind_of_all {o : Option α} {k : α → Option β} (ho : o.all p = true) (hk : ∀ x, p x = true → (k x).all q = true) :
    (o.bind k).all q = true := by
  refine all_bind (fun x hx => hk x ?_)
  rwa [hx] at ho

theorem all_map_of_all {o : Option α} {k : α → β} (ho : o.all p = true) (hk : ∀ x, p x = true → q (k x) = true) :
    (o.map k).all q = true := by
  refine all_map (fun x hx => hk x ?_)
  rwa [hx] at ho

theorem all_findSome {k : α → Option β} (hk : ∀ x, (k x).all q = true) (xs : List α) : (xs.findSome? k).all q = true := by
  induction xs with
  | nil => rfl
  | cons x xs ih =>
    have hx := hk x
    rw [List.findSome?_cons]
    split <;> rename_i h
    · rwa [h] at hx
    · exact ih

/-- Steps done one after another, each where those before it went well. -/
theorem foldl_bind_all {f : α → β → Option α} (hf : ∀ x b, p x = true → (f x b).all p = true) (bs : List β) {o : Option α}
    (ho : o.all p = true) : (bs.foldl (fun o b => o.bind (fun x => f x b)) o).all p = true :=
  List.foldlRecOn (motive := fun o : Option α => o.all p = true) bs _ ho (fun _ ho b _ => all_bind_of_all ho (fun x hx => hf x b hx))

end

/-! ### Changes of one object -/

theorem onCore_canon {s : State} (hs : s.canon = true) (c f) : (onCore s c f).canon = true := hs
theorem onCluster_canon {s : State} (hs : s.canon = true) (c f) : (onCluster s c f).canon = true := hs
theorem onCtx_canon {s : State} (hs : s.canon = true) (c f) : (onCtx s c f).canon = true := hs
theorem onGroup_canon {s : State} (hs : s.canon = true) (id f) : (onGroup s id f).canon = true := hs
theorem setGroup_canon {s : State} (hs : s.canon = true) (g) : (setGroup s g).canon = true := hs
theorem onEng_canon {s : State} (hs : s.canon = true) (c f) : (onEng s c f).canon = true := hs
theorem onCopy_canon {s : State} (hs : s.canon = true) (id f) : (onCopy s id f).canon = true := hs

theorem onTeam_canon {s : State} (hs : s.canon = true) {f : Team → Team}
    (hf : ∀ t, Memory.wf t.scratch = true → Memory.wf (f t).scratch = true) (id) : (onTeam s id f).canon = true := by
  refine canon_of_parts (@mem_wf s hs) (padsWf_map (fun t ht => ?_) (teams_wf hs))
  split
  · exact hf t ht
  · exact ht

theorem onTeam_frame {s : State} (hs : s.canon = true) {f : Team → Team} {id : Nat}
    (hf : ∀ t, (f t).scratch = t.scratch := by intros; rfl) : (onTeam s id f).canon = true :=
  onTeam_canon hs (fun t h => by rwa [hf]) _

/-! ### Operations of Machine/Xlate -/

section
variable {s : State} (hs : s.canon = true)
include hs

theorem setEntBit_canon (at_ bit) :
    (setEntBit s at_ bit).canon = true := by
  unfold setEntBit
  exact canon_with_mem hs (memPut_wf _ _ (mem_wf hs))

theorem walkNow_canon (ctx va acc) :
    (walkNow s ctx va acc).1.canon = true := by
  unfold walkNow
  match peek s ctx va acc with
  | .error _ => exact hs
  | .ok _ =>
    generalize walkGo _ _ _ _ _ _ _ _ = r
    match r with
    | .error _ => exact hs
    | .ok _ => exact holds_ite (setEntBit_canon (setEntBit_canon hs ..) ..) (setEntBit_canon hs ..)

theorem tlbPut_canon (cluster core e) :
    (tlbPut s cluster core e).canon = true := by
  unfold tlbPut
  extract_lets _ _
  match core with
  | none | some _ => exact hs

theorem tlbDrop_canon (cluster core e) :
    (tlbDrop s cluster core e).canon = true := by
  unfold tlbDrop
  extract_lets _ _
  match core with
  | none | some _ => exact hs

theorem fillWalk_canon (cluster core ctx va acc) :
    (fillWalk s cluster core ctx va acc).1.canon = true := by
  unfold fillWalk
  extract_lets _ cached
  match walkGo s.mem s.poison cached va 4 0 (ctxRoot s ctx) [] with
  | .error _ => exact hs
  | .ok w =>
    dsimp only
    match leafCheck s va acc w.leaf with
    | none =>
      exact fst_ite hs (tlbPut_canon (canon_with (holds_ite (setEntBit_canon (setEntBit_canon hs ..) ..) (setEntBit_canon
        hs ..))) ..)
    | some _ => exact hs

theorem translate_canon (cluster core ctx va acc) :
    (Machine.translate s cluster core ctx va acc).1.canon = true := by
  unfold Machine.translate
  refine fst_ite hs ?_
  match tlbFind s cluster core ctx va with
  | none => exact fillWalk_canon hs ..
  | some e =>
    dsimp only
    match leafCheck s va acc e.leaf with
    | none =>
      exact fst_ite (fst_ite (tlbPut_canon (setEntBit_canon hs ..) ..) (fillWalk_canon (tlbDrop_canon hs ..) ..))
        (tlbPut_canon hs ..)
    | some _ => exact hs

end

/-! ### Operations of Machine/Objects -/

section
variable {s : State} (hs : s.canon = true)
include hs

theorem sendRemote_canon (r pa) :
    (sendRemote s r pa).canon = true := by
  unfold sendRemote
  extract_lets _
  match linkFor s r.dev pa with
  | none | some _ => exact holds_ite hs hs

theorem sendWaiting_canon :
    (sendWaiting s).all State.canon = true := by
  unfold sendWaiting
  exact all_map (fun _ _ => holds_ite hs hs)

theorem sendLines_canon (r cells) :
    (sendLines s r cells).canon = true := by
  unfold sendLines
  exact foldl_canon (fun _ _ h => sendRemote_canon (by exact h) ..) _ hs

theorem sendBytes_canon (dev ctx launch page va pa bs) :
    (sendBytes s dev ctx launch page va pa bs).canon = true := by
  unfold sendBytes
  exact sendLines_canon hs ..

theorem slicePut_canon (ctx va bs) :
    (slicePut s ctx va bs).canon = true := by
  unfold slicePut
  match walkNow s ctx va Acc.wr, walkNow_canon hs ctx va Acc.wr with
  | (_, .error _), h => exact h
  | (_, .ok ph), h =>
    dsimp only
    match ph.dev with
    | none => exact canon_with_mem h (memPut_wf _ _ (mem_wf h))
    | some _ => exact sendBytes_canon h ..

theorem askLine_canon (w launch core dev line) :
    (askLine s w launch core dev line).all State.canon = true := by
  unfold askLine
  exact holds_ite rfl (sendRemote_canon (by exact hs) ..)

end

/-! ### Operations of Machine/QueueOps -/

section
variable {s : State} (hs : s.canon = true)
include hs

theorem sendMsi_canon (vec) : (sendMsi s vec).canon = true := by
  unfold sendMsi
  exact holds_ite hs hs

theorem raiseEvent_canon (ctx bit) :
    (raiseEvent s ctx bit).canon = true := by
  unfold raiseEvent
  match s.contexts[ctx]? with
  | none => exact hs
  | some _ => exact holds_ite hs (sendMsi_canon (by exact hs) _)

theorem putQueue_canon (q) :
    (putQueue s q).canon = true := by
  unfold putQueue
  exact canon_with_mem hs (memPut_wf _ _ (mem_wf hs))

theorem storeEntry_canon (q seq bytes) :
    (storeEntry s q seq bytes).canon = true := by
  unfold storeEntry
  exact holds_ite hs (slicePut_canon hs ..)

theorem closeIfEmpty_canon (pa) :
    (closeIfEmpty s pa).canon = true := by
  unfold closeIfEmpty
  match queueAt s pa with
  | none => exact hs
  | some _ => exact holds_ite (onCtx_canon (canon_with (putQueue_canon hs _)) ..) hs

theorem answerClaim_canon (gid key ent) : (answerClaim s gid key ent).canon = true := hs

theorem serveGo_canon (pa n) : (serveGo pa n s).canon = true := by
  induction n generalizing s with
  | zero => exact hs
  | succ n ih =>
    unfold serveGo
    match queueAt s pa with
    | none => exact hs
    | some q =>
      generalize List.find? _ _ = r
      match r with
      | none => exact hs
      | some _ =>
        dsimp only
        match queueHead s q with
        | none => exact holds_ite hs (ih (by exact hs))
        | some _ => exact ih (answerClaim_canon (putQueue_canon hs _) ..)

theorem serveQueue_canon (pa) :
    (serveQueue s pa).canon = true := by
  unfold serveQueue
  exact closeIfEmpty_canon (serveGo_canon hs ..) _

theorem appendEntry_canon (q bytes stamps regions) :
    (appendEntry s q bytes stamps regions).canon = true := by
  unfold appendEntry
  exact serveQueue_canon (putQueue_canon (storeEntry_canon hs ..) _) _

theorem noteRaw_canon (ctx kind a0 a1) :
    (noteRaw s ctx kind a0 a1).canon = true := by
  unfold noteRaw
  match sysQueue s ctx 3 with
  | none => exact hs
  | some _ => exact holds_ite hs (raiseEvent_canon (appendEntry_canon hs ..) ..)

theorem lostFirst_canon (ctx) :
    (lostFirst s ctx).canon = true := by
  unfold lostFirst
  match s.contexts[ctx]? with
  | none => exact hs
  | some _ =>
    match sysQueue s ctx 3 with
    | none => exact hs
    | some _ => exact holds_ite (noteRaw_canon (by exact hs) ..) hs

theorem notify_canon (ctx kind a0 a1) :
    (notify s ctx kind a0 a1).canon = true := by
  unfold notify
  exact noteRaw_canon (lostFirst_canon hs _) ..

theorem faultRecord_canon (o lfail cause sub) :
    (faultRecord s o lfail cause sub).canon = true := by
  unfold faultRecord
  match s.contexts[o.ctx]? with
  | none => exact hs
  | some _ =>
    refine holds_ite hs ?_
    extract_lets _ s1
    have h : s1.canon = true := by
      unfold s1
      match o.launch with
      | none => exact hs
      | some _ => exact holds_ite hs hs
    clear_value s1
    match sysQueue s1 o.ctx 2 with
    | none => exact h
    | some _ =>
      exact holds_ite h (holds_ite (notify_canon (raiseEvent_canon (appendEntry_canon (lostFirst_canon h _) ..) ..) ..)
        (raiseEvent_canon (appendEntry_canon (lostFirst_canon h _) ..) ..))

end

/-! ### Operations of Machine/Ops -/

section
variable {s : State} (hs : s.canon = true)
include hs

theorem l1Forget_canon (cluster pa n) :
    (l1Forget s cluster pa n).canon = true := by
  unfold l1Forget
  refine foldl_canon (fun s1 k h => ?_) _ hs
  exact h

theorem putVA_canon (cluster ctx va bs) :
    (putVA s cluster ctx va bs).all State.canon = true := by
  unfold putVA
  match Machine.translate s cluster none ctx va Acc.wr, Proofs.translate_canon hs cluster none ctx va Acc.wr with
  | (_, .error _), _ => rfl
  | (_, .ok _), h => exact holds_ite rfl (l1Forget_canon (canon_with_mem h (memPut_wf _ _ (mem_wf h))) ..)

theorem saveSlot_canon (g f) :
    (saveSlot s g f).all State.canon = true := by
  unfold saveSlot
  exact putVA_canon hs ..

theorem stopGroup_canon (g lfail cause sub addr at_) :
    (stopGroup s g lfail cause sub addr at_).canon = true := by
  unfold stopGroup
  exact faultRecord_canon (by exact hs) ..

theorem writeLines_canon (g p) : (writeLines s g p).all State.canon = true := by
  unfold writeLines
  exact foldl_bind_all (fun _ _ hs => putVA_canon hs ..) _ hs

theorem enterTrap_canon (g t) :
    (enterTrap s g t).canon = true := by
  unfold enterTrap
  extract_lets g1 _
  refine holds_ite (stopGroup_canon hs ..) (holds_ite (holds_ite ?_ (stopGroup_canon hs ..)) ?_)
  · generalize hr : writeLines _ _ _ = r
    have h : Option.all State.canon r = true := hr ▸ writeLines_canon hs ..
    clear hr
    match r with
    | none => exact stopGroup_canon hs ..
    | some _ =>
      dsimp only
      generalize hr : saveSlot _ _ _ = r
      have h1 : Option.all State.canon r = true := hr ▸ saveSlot_canon h ..
      clear hr
      match r with
      | none => exact stopGroup_canon h ..
      | some _ => exact faultRecord_canon (by exact h1) ..
  · match saveSlot s g1 (trapFrame g1 t), saveSlot_canon hs g1 (trapFrame g1 t) with
    | none, _ => exact stopGroup_canon hs ..
    | some _, h => exact h

theorem takeTrap_canon (g t) :
    (takeTrap s g t).canon = true := by
  unfold takeTrap
  exact holds_ite hs (enterTrap_canon hs ..)

/-- An instruction keeps the canonical form where its operation does: what completing it or its exception adds concerns its group
and the trap frame. -/
theorem runInstr_canon (i) {k : Group → State → GOut} (hk : ∀ g, gOutCanon (k g s) = true) :
    outcomeCanon (runInstr i s k) = true := by
  unfold runInstr
  split
  · rfl
  · rename_i g _
    split
    · exact takeTrap_canon hs ..
    · have hg := hk g
      split <;> rename_i h <;> rw [h] at hg
      · exact hs
      · exact hg
      · exact takeTrap_canon hg ..
      · exact hg
      · exact hg

omit hs in
theorem onSome_canon {α : Type} (o : Option α) {k : α → Host.Outcome State Fault Refusal}
    (hk : ∀ x, o = some x → outcomeCanon (k x) = true) : outcomeCanon (onSome o k) = true := by
  cases o with
  | none => rfl
  | some x => exact hk x rfl

omit hs in
theorem onSome_next_canon {o : Option State} (ho : o.all State.canon = true) : outcomeCanon (onSome o .next) = true := by
  cases o with
  | none => rfl
  | some _ => exact ho

end

/-! ### Operations of Machine/Operands -/

section
variable {s : State} (hs : s.canon = true)
include hs

theorem vecOp_canon (i h f) :
    outcomeCanon (vecOp i h f s) = true := by
  unfold vecOp
  exact runInstr_canon hs _ (fun _ => hs)

theorem vecOpLL_canon (i h f) :
    outcomeCanon (vecOpLL i h f s) = true := by
  unfold vecOpLL
  exact runInstr_canon hs _ (fun _ => holds_ite hs (holds_ite rfl hs))

theorem wideOp_canon (i h) {k : Group → State → GOut} (hk : ∀ g, gOutCanon (k g s) = true) :
    outcomeCanon (wideOp i h k s) = true := by
  refine runInstr_canon hs i (fun g => ?_)
  split
  · exact hk g
  · exact hs

theorem wideGroup_canon (i h f) :
    outcomeCanon (wideGroup i h f s) = true := by
  unfold wideGroup
  exact wideOp_canon hs _ _ (fun _ => hs)

end

/-! ### Operations of Machine/Scalar -/

section
variable {s : State} (hs : s.canon = true)
include hs

theorem scalar2_canon (i h f op) :
    outcomeCanon (scalar2 i h f op s) = true := by
  unfold scalar2
  exact wideGroup_canon hs ..

theorem scalarBits_canon (i h f op) :
    outcomeCanon (scalarBits i h f op s) = true := by
  unfold scalarBits
  exact wideGroup_canon hs ..

theorem execSshl_canon (h f) :
    outcomeCanon (execSshl h f s) = true := by
  unfold execSshl
  exact scalarBits_canon hs ..

theorem execSshr_canon (h f) :
    outcomeCanon (execSshr h f s) = true := by
  unfold execSshr
  exact scalarBits_canon hs ..

theorem execScmp_canon (h f) :
    outcomeCanon (execScmp h f s) = true := by
  unfold execScmp
  exact wideGroup_canon hs ..

theorem execSsel_canon (h f) :
    outcomeCanon (execSsel h f s) = true := by
  unfold execSsel
  exact wideGroup_canon hs ..

theorem execSmov_canon (h f) :
    outcomeCanon (execSmov h f s) = true := by
  unfold execSmov
  exact wideGroup_canon hs ..

theorem execSmovi_canon (h f) :
    outcomeCanon (execSmovi h f s) = true := by
  unfold execSmovi
  exact wideGroup_canon hs ..

theorem execSaddi_canon (h f) :
    outcomeCanon (execSaddi h f s) = true := by
  unfold execSaddi
  exact wideGroup_canon hs ..

theorem execRdfirst_canon (h f) :
    outcomeCanon (execRdfirst h f s) = true := by
  unfold execRdfirst
  exact wideGroup_canon hs ..

theorem execSpopc_canon (h f) :
    outcomeCanon (execSpopc h f s) = true := by
  unfold execSpopc
  exact wideGroup_canon hs ..

theorem execSctz_canon (h f) :
    outcomeCanon (execSctz h f s) = true := by
  unfold execSctz
  exact wideGroup_canon hs ..

theorem execAadd_canon (h f) :
    outcomeCanon (execAadd h f s) = true := by
  unfold execAadd
  exact wideOp_canon hs _ _ (fun _ => holds_ite hs (holds_ite hs hs))

theorem execMset_canon (h f) :
    outcomeCanon (execMset h f s) = true := by
  unfold execMset
  exact wideGroup_canon hs ..

end

/-! ### Operations of Machine/Control -/

section
variable {s : State} (hs : s.canon = true)
include hs

theorem execBra_canon (h f) :
    outcomeCanon (execBra h f s) = true := by
  unfold execBra
  exact wideOp_canon hs _ _ (fun _ => hs)

theorem execBrx_canon (h f) :
    outcomeCanon (execBrx h f s) = true := by
  unfold execBrx
  exact wideOp_canon hs _ _ (fun _ => hs)

theorem brdOp_canon (h f g) :
    gOutCanon (brdOp h f g s) = true := by
  unfold brdOp
  exact holds_ite hs (holds_ite hs (holds_ite hs hs))

theorem execBrd_canon (h f) :
    outcomeCanon (execBrd h f s) = true := by
  unfold execBrd
  exact runInstr_canon hs _ (fun _ => brdOp_canon hs ..)

theorem execJoin_canon (h f) :
    outcomeCanon (execJoin h f s) = true := by
  unfold execJoin
  refine wideOp_canon hs _ _ (fun g => ?_)
  match joinPop g.stack.reverse with
  | .error _ | .ok _ => exact hs

theorem execCall_canon (h f) :
    outcomeCanon (execCall h f s) = true := by
  unfold execCall
  exact wideOp_canon hs _ _ (fun _ => holds_ite hs hs)

theorem execRet_canon (h f) :
    outcomeCanon (execRet h f s) = true := by
  unfold execRet
  refine wideOp_canon hs _ _ (fun g => ?_)
  match g.stack.reverse with
  | [] => exact hs
  | _ :: _ => exact holds_ite hs (holds_ite hs hs)

theorem execExit_canon (h f) :
    outcomeCanon (execExit h f s) = true := by
  unfold execExit
  exact wideOp_canon hs _ _ (fun _ => hs)

theorem execNop_canon (h f) :
    outcomeCanon (execNop h f s) = true := by
  unfold execNop
  exact runInstr_canon hs _ (fun _ => hs)

theorem execSleep_canon (h f) :
    outcomeCanon (execSleep h f s) = true := by
  unfold execSleep
  exact wideGroup_canon hs ..

theorem execTrap_canon (h f) :
    outcomeCanon (execTrap h f s) = true := by
  unfold execTrap
  exact wideOp_canon hs _ _ (fun _ => hs)

theorem execBkpt_canon (h f) :
    outcomeCanon (execBkpt h f s) = true := by
  unfold execBkpt
  exact wideOp_canon hs _ _ (fun _ => hs)

theorem execTfence_canon (h f) :
    outcomeCanon (execTfence h f s) = true := by
  unfold execTfence
  exact wideOp_canon hs _ _ (fun _ => holds_ite rfl (holds_ite hs hs))

end

/-! ### Operations of Machine/System -/

section
variable {s : State} (hs : s.canon = true)
include hs

theorem execSread_canon (h f) :
    outcomeCanon (execSread h f s) = true := by
  unfold execSread
  exact wideOp_canon hs _ _ (fun _ => holds_ite hs (holds_ite rfl (holds_ite (holds_ite rfl hs) hs)))

theorem execSwrite_canon (h f) :
    outcomeCanon (execSwrite h f s) = true := by
  unfold execSwrite
  refine wideOp_canon hs _ _ (fun g => ?_)
  extract_lets _
  split
  · exact holds_ite rfl hs
  · exact hs
  · exact hs
  · exact onTeam_frame hs

theorem getVA_canon (cluster ctx va n) :
    (getVA s cluster ctx va n).all (fun x => x.1.canon) = true := by
  unfold getVA
  match Machine.translate s cluster none ctx va Acc.rd, Proofs.translate_canon hs cluster none ctx va Acc.rd with
  | (_, .error _), _ => rfl
  | (_, .ok _), h => exact holds_ite rfl h

theorem liveTouch_canon (g n) :
    (liveTouch s g n).canon = true := by
  unfold liveTouch
  match liveVA s g n with
  | none => exact hs
  | some _ => exact Proofs.translate_canon hs ..

theorem reLiveTouch_canon (idx g) :
    (reLiveTouch s idx g).canon = true := by
  unfold reLiveTouch
  exact holds_ite hs (liveTouch_canon hs ..)

theorem rettOp_canon (skip g) :
    gOutCanon (rettOp skip g s) = true := by
  unfold rettOp
  refine holds_ite hs (holds_ite rfl ?_)
  match getVA s g.cluster g.ctx (slotVA s g) 2048, getVA_canon hs g.cluster g.ctx (slotVA s g) 2048 with
  | none, _ => exact stopGroup_canon hs ..
  | some x, h =>
    refine holds_ite h ?_
    match loadRegs x.2 g with
    | none => exact stopGroup_canon h ..
    | some _ => exact reLiveTouch_canon h ..

theorem execRett_canon (h f) :
    outcomeCanon (execRett h f s) = true := by
  unfold execRett
  exact wideOp_canon hs _ _ (fun _ => rettOp_canon hs ..)

theorem execRettSkip_canon (h f) :
    outcomeCanon (execRettSkip h f s) = true := by
  unfold execRettSkip
  exact wideOp_canon hs _ _ (fun _ => rettOp_canon hs ..)

theorem execRettExit_canon (h f) :
    outcomeCanon (execRettExit h f s) = true := by
  unfold execRettExit
  exact wideOp_canon hs _ _ (fun _ => holds_ite hs (holds_ite rfl hs))

end

/-! ### Operations of Machine/MemOps -/

section
variable {s : State} (hs : s.canon = true)
include hs

theorem resolve_canon (g t addr size acc ad exempt) :
    (resolve s g t addr size acc ad exempt).1.canon = true := by
  unfold resolve
  extract_lets va _
  match targetOf va with
  | .own _ =>
    match teamOf s g.team with
    | none | some _ => exact hs
  | .peer idx _ =>
    refine fst_ite hs ?_
    match peerTeam s g.team idx with
    | none | some _ => exact hs
  | .reg .. => exact fst_ite hs (fst_ite hs hs)
  | .bad => exact hs
  | .xlat =>
    refine fst_ite hs ?_
    generalize hr : Machine.translate s g.cluster (some g.core) g.ctx va acc = r
    have h : r.1.canon = true := hr ▸ Proofs.translate_canon hs ..
    clear hr
    match r with
    | (_, .error _) | (_, .ok _) => exact h

theorem l1Put_canon (k sec fill bs) : (l1Put s k sec fill bs).canon = true := hs

theorem l1Store_canon (k cells) : (l1Store s k cells).canon = true := hs

theorem l1Clear_canon (core) :
    (l1Clear s core).canon = true := by
  unfold l1Clear
  refine foldl_canon (fun s1 k h => ?_) _ hs
  exact h

theorem l1Drop_canon (core p) :
    (l1Drop s core p).canon = true := by
  unfold l1Drop
  refine foldl_canon (fun s1 k h => ?_) _ hs
  exact h

theorem recRead_canon (w launch core own va n past) :
    (recRead s w launch core own va n past).1.canon = true := by
  unfold recRead
  generalize hr : Machine.translate s w.cluster (some core) w.ctx va Acc.rd = r
  have h : r.1.canon = true := hr ▸ Proofs.translate_canon hs ..
  clear hr
  match r with
  | (_, .error _) => exact h
  | (s1, .ok ph) =>
    refine fst_ite h ?_
    match placeBytes s1 w.id w.cluster ph va n with
    | .error (.fault ..) | .error .wait | .ok _ => exact h
    | .error (.need ..) => exact getD_canon (askLine_canon h ..) h

theorem groupRead_canon (g va n) :
    (groupRead s g va n).1.canon = true := by
  unfold groupRead
  exact recRead_canon hs ..

omit hs in
theorem memLoop_canon {f : MAcc → Nat → Nat → MAcc} (hf : ∀ a i t, a.s.canon = true → (f a i t).s.canon = true) (ts i)
    {a : MAcc} (ha : a.s.canon = true) : (memLoop f ts i a).s.canon = true := by
  induction ts generalizing i a with
  | nil => exact ha
  | cons t ts ih =>
    unfold memLoop
    split
    · exact ha
    · exact ih _ (hf _ _ _ ha)

theorem bankTurn_canon (g team off size isLoad i) :
    (bankTurn s g team off size isLoad i).all State.canon = true := by
  unfold bankTurn
  match teamOf s team with
  | none => exact hs
  | some _ =>
    dsimp only
    generalize List.find? _ _ = r
    match r with
    | none => exact holds_ite rfl hs
    | some _ => exact holds_ite rfl (holds_ite hs rfl)

theorem bankLost_canon (g r team) :
    (bankLost s g r team).canon = true := by
  unfold bankLost
  match teamOf s team with
  | none | some _ => exact hs

omit hs in
theorem memKeep_canon {a : MAcc} (ha : a.s.canon = true) (i h key g) :
    (memKeep i h key g a).1.canon = true := by
  unfold memKeep
  match key with
  | none => exact ha
  | some _ => exact fst_ite ha ha

omit hs in
theorem memEnd_canon {a : MAcc} (ha : a.s.canon = true) (i h f size key gid) :
    gOutCanon (memEnd i h f size key gid a) = true := by
  unfold memEnd
  match a.stop with
  | none =>
    match groupOf a.s gid with
    | none => rfl
    | some _ => exact memKeep_canon ha ..
  | some o =>
    match groupOf a.s gid with
    | none =>
      match o with
      | none | some _ => rfl
    | some _ =>
      match o with
      | none => rfl
      | some _ => exact memKeep_canon ha ..

omit hs in
theorem memLost_canon {s : State} (hs : s.canon = true) {a : MAcc} (ha : a.s.canon = true) (i h key g t0 ts late t team words isLoad) :
    (memLost i h key s g t0 ts late a t team words isLoad).canon = true := by
  unfold memLost
  exact holds_ite (bankLost_canon hs ..) (bankLost_canon (by exact memKeep_canon ha ..) ..)

omit hs in
theorem memAway_canon {a : MAcc} (ha : a.s.canon = true) (i h key gid t) :
    (memAway i h key gid a t).canon = true := by
  unfold memAway
  match groupOf a.s gid with
  | none => exact ha
  | some _ => exact memKeep_canon ha ..

theorem memSeed_canon (g x2) :
    (memSeed s g x2).1.canon = true := by
  unfold memSeed
  match x2 with
  | none => exact hs
  | some r =>
    dsimp only
    match r.win with
    | none => exact hs
    | some _ =>
      generalize List.getLast? _ = r1
      match r1 with
      | none | some _ => exact hs

theorem memOp_canon (i h f size one result sends noMod) {f1 : Nat → MAcc → Nat → Nat → MAcc}
    (hf : ∀ key a j t, a.s.canon = true → (f1 key a j t).s.canon = true) :
    outcomeCanon (memOp i h f size one result sends noMod f1 s) = true := by
  refine runInstr_canon hs i (fun g => ?_)
  extract_lets _ ts
  clear_value ts
  match ts with
  | [] => exact hs
  | _ :: _ =>
    refine holds_ite hs (holds_ite rfl ?_)
    dsimp only
    generalize MAcc.ask _ = r
    match r with
    | none =>
      generalize MAcc.lost _ = r
      match r with
      | none =>
        generalize MAcc.away _ = r
        match r with
        | none =>
          exact memEnd_canon (memLoop_canon (fun _ _ _ h1 => hf _ _ _ _ h1) _ _ (memSeed_canon (by exact hs) ..)) ..
        | some _ =>
          exact memAway_canon (memLoop_canon (fun _ _ _ h1 => hf _ _ _ _ h1) _ _ (memSeed_canon (by exact hs) ..)) ..
      | some _ =>
        exact memLost_canon hs (memLoop_canon (fun _ _ _ h1 => hf _ _ _ _ h1) _ _ (memSeed_canon (by exact hs) ..)) ..
    | some _ => exact getD_canon (askLine_canon hs ..) hs

end

/-! ### Operations of Machine/Memory -/

section
variable {s : State} (hs : s.canon = true)
include hs

omit hs in
theorem padAccess_canon {a : MAcc} (ha : a.s.canon = true) (g i t team off size isLoad) {k : State → MAcc}
    (hk : ∀ s, s.canon = true → (k s).s.canon = true) : (padAccess g a i t team off size isLoad k).s.canon = true := by
  unfold padAccess
  split
  · exact ha
  · have hb := bankTurn_canon ha g team off size isLoad i
    split <;> rename_i h <;> rw [h] at hb
    · exact ha
    · exact hk _ hb

omit hs in
theorem regAccess_canon {a : MAcc} (ha : a.s.canon = true) (g r) {k : State → Group → MAcc}
    (hk : ∀ s g, s.canon = true → (k s g).s.canon = true) : (regAccess g a r k).s.canon = true := by
  unfold regAccess
  dsimp only
  split
  · exact ha
  · exact hk _ _ ha

theorem sectorRead_canon (g pa home) :
    (sectorRead s g pa home).all (fun x => x.1.canon) = true := by
  unfold sectorRead
  extract_lets _ sec hit
  match (if home = true then none else hit) with
  | none =>
    match s.poison.contains sec with
    | false => exact holds_ite (holds_ite (l1Store_canon hs ..) hs) (l1Put_canon hs ..)
    | true => rfl
  | some _ => exact hs

omit hs in
theorem remoteRead_canon {a : MAcc} (ha : a.s.canon = true) (g addr d size ret ph) :
    (remoteRead g a addr d size ret ph).s.canon = true := by
  unfold remoteRead
  refine acc_ite ha ?_
  match placeBytes a.s g.id g.cluster ph (va57 addr) size with
  | .error (.fault ..) | .error (.need ..) | .error .wait | .ok _ => exact ha

omit hs in
theorem loadAt_canon {a : MAcc} (ha : a.s.canon = true) (g i addr size home ret p) :
    (loadAt g a i addr size home ret p).s.canon = true := by
  unfold loadAt
  match p with
  | .pad .. => exact padAccess_canon ha _ _ _ _ _ _ _ (fun _ h => h)
  | .reg .. => exact regAccess_canon ha _ _ (fun _ _ h => h)
  | .dev ph =>
    dsimp only
    match ph.dev with
    | none =>
      refine acc_ite ha ?_
      match sectorRead a.s g ph.pa home, sectorRead_canon ha g ph.pa home with
      | none, _ => exact ha
      | some _, h => exact h
    | some _ => exact remoteRead_canon ha ..

omit hs in
theorem loadThread_canon {a : MAcc} (ha : a.s.canon = true) (f g home ad acc ret) {done : State → State}
    (hd : ∀ s, s.canon = true → (done s).canon = true) (i t) : (loadThread f g home ad acc ret done a i t).s.canon = true := by
  unfold loadThread
  extract_lets size g' addr
  match resolve a.s g' t addr size acc ad false, resolve_canon ha g' t addr size acc ad false with
  | (_, .error _), h => exact h
  | (_, .ok _), h => exact acc_ite (loadAt_canon h ..) (hd _ (loadAt_canon h ..))

theorem loadOp_canon (i h f home ad) {done : Group → State → State} (hd : ∀ g s, s.canon = true → (done g s).canon = true) :
    outcomeCanon (loadOp i h f home ad done s) = true := by
  refine memOp_canon hs _ _ _ _ _ _ _ _ (fun key a j t ha => ?_)
  split
  · exact ha
  · exact loadThread_canon ha _ _ _ _ _ _ (hd _) ..

theorem execLd_canon (h f) :
    outcomeCanon (execLd h f s) = true := by
  unfold execLd
  exact loadOp_canon hs _ _ _ _ _ (fun _ _ h1 => h1)

theorem execLdnt_canon (h f) :
    outcomeCanon (execLdnt h f s) = true := by
  unfold execLdnt
  exact loadOp_canon hs _ _ _ _ _ (fun _ _ h1 => h1)

theorem execLda_canon (h f) :
    outcomeCanon (execLda h f s) = true := by
  unfold execLda
  exact loadOp_canon hs _ _ _ _ _ (fun _ _ h1 => holds_ite (l1Clear_canon h1 _) h1)

theorem execSgath_canon (h f) :
    outcomeCanon (execSgath h f s) = true := by
  unfold execSgath
  exact loadOp_canon hs _ _ _ _ _ (fun _ _ h1 => h1)

theorem execLdu_canon (h f) :
    outcomeCanon (execLdu h f s) = true := by
  unfold execLdu
  refine memOp_canon hs _ _ _ _ _ _ _ _ (fun key a j t h1 => ?_)
  match s.cur.bind (groupOf s) with
  | none => exact h1
  | some _ => exact loadThread_canon h1 _ _ _ _ _ _ (fun _ h2 => h2) ..

omit hs in
theorem storeAt_canon {a : MAcc} (ha : a.s.canon = true) (g i t size merges v addr p) :
    (storeAt g a i t size merges v addr p).s.canon = true := by
  unfold storeAt
  extract_lets _
  match p with
  | .pad .. =>
    exact acc_ite (padAccess_canon ha _ _ _ _ _ _ _ (fun _ h => onTeam_canon h (fun _ h1 => memPut_wf _ _ h1) _)) ha
  | .reg .. => exact regAccess_canon ha _ _ (fun _ _ h => h)
  | .dev _ => exact ha

omit hs in
theorem storeThread_canon {a : MAcc} (ha : a.s.canon = true) (f g ad merges v i t) :
    (storeThread f g ad merges v a i t).s.canon = true := by
  unfold storeThread
  extract_lets size g' addr
  match resolve a.s g' t addr size Acc.wr ad false, resolve_canon ha g' t addr size Acc.wr ad false with
  | (_, .error _), h => exact h
  | (_, .ok _), h => exact storeAt_canon h ..

theorem storeOp_canon (i h f ad merges ready) :
    outcomeCanon (storeOp i h f ad merges ready s) = true := by
  unfold storeOp
  refine memOp_canon hs _ _ _ _ _ _ _ _ (fun key a j t h1 => ?_)
  match s.cur.bind (groupOf s) with
  | none => exact h1
  | some _ => exact acc_ite (storeThread_canon h1 ..) h1

theorem execSt_canon (h f) : outcomeCanon (execSt h f s) = true := by
  unfold execSt
  exact storeOp_canon hs ..

theorem execStnt_canon (h f) :
    outcomeCanon (execStnt h f s) = true := by
  unfold execStnt
  exact storeOp_canon hs ..

theorem execStl_canon (h f) : outcomeCanon (execStl h f s) = true := by
  unfold execStl
  exact storeOp_canon hs ..

theorem execStu_canon (h f) :
    outcomeCanon (execStu h f s) = true := by
  unfold execStu
  refine memOp_canon hs _ _ _ _ _ _ _ _ (fun key a j t h1 => ?_)
  match s.cur.bind (groupOf s) with
  | none => exact h1
  | some _ => exact storeThread_canon h1 ..

omit hs in
theorem rmwAt_canon {a : MAcc} (ha : a.s.canon = true) (g f i t addr op v ret p) :
    (rmwAt g f a i t addr op v ret p).s.canon = true := by
  unfold rmwAt
  extract_lets _
  match p with
  | .pad .. =>
    refine padAccess_canon ha _ _ _ _ _ _ _ (fun s h => ?_)
    extract_lets _ _
    match ret with
    | none | some _ => exact onTeam_canon h (fun _ h1 => memPut_wf _ _ h1) _
  | .reg .. => exact ha
  | .dev _ => exact acc_ite ha (acc_ite ha (acc_ite ha ha))

theorem atomicOp_canon (i h f ad returns replayOk op) :
    outcomeCanon (atomicOp i h f ad returns replayOk op s) = true := by
  unfold atomicOp
  refine memOp_canon hs _ _ _ _ _ _ _ _ (fun key a j t h1 => ?_)
  match s.cur.bind (groupOf s) with
  | none => exact h1
  | some g =>
    refine acc_ite h1 ?_
    extract_lets addr
    generalize hr : resolve a.s (accGroup g a) t addr (szBytes f.sz) Acc.rw ad false = r
    have h2 : r.1.canon = true := hr ▸ resolve_canon h1 ..
    clear hr
    match r with
    | (_, .error _) => exact h2
    | (_, .ok _) => exact rmwAt_canon h2 ..

theorem execAtom_canon (h f) :
    outcomeCanon (execAtom h f s) = true := by
  unfold execAtom
  exact atomicOp_canon hs ..

theorem execRed_canon (h f) : outcomeCanon (execRed h f s) = true := by
  unfold execRed
  exact atomicOp_canon hs ..

theorem execAtomf_canon (h f) :
    outcomeCanon (execAtomf h f s) = true := by
  unfold execAtomf
  exact atomicOp_canon hs ..

theorem execCas_canon (h f) : outcomeCanon (execCas h f s) = true := by
  unfold execCas
  exact atomicOp_canon hs ..

omit hs in
theorem oredThread_canon {a : MAcc} (ha : a.s.canon = true) (f g i t) :
    (oredThread f g a i t).s.canon = true := by
  unfold oredThread
  extract_lets _ _
  generalize hr : resolve _ _ _ _ _ _ _ _ = r
  have h : r.1.canon = true := hr ▸ resolve_canon ha ..
  clear hr
  match r with
  | (_, .error _) | (_, .ok (.pad ..)) | (_, .ok (.reg ..)) | (_, .ok (.dev _)) => exact h

theorem execOred_canon (h f) :
    outcomeCanon (execOred h f s) = true := by
  unfold execOred
  refine memOp_canon hs _ _ _ _ _ _ _ _ (fun key a j t h1 => ?_)
  match s.cur.bind (groupOf s) with
  | none => exact h1
  | some _ => exact oredThread_canon h1 ..

theorem acquireAt_canon (core scope) :
    (acquireAt s core scope).canon = true := by
  unfold acquireAt
  exact holds_ite (l1Clear_canon hs _) hs

theorem execFence_canon (h f) :
    outcomeCanon (execFence h f s) = true := by
  unfold execFence
  exact wideOp_canon hs _ _ (fun _ => holds_ite (holds_ite (acquireAt_canon hs ..) hs) hs)

theorem execIfence_canon (h f) :
    outcomeCanon (execIfence h f s) = true := by
  unfold execIfence
  exact wideOp_canon hs _ _ (fun _ => hs)

omit hs in
theorem hintThread_canon {a : MAcc} (ha : a.s.canon = true) (f g fill n4 t) :
    (hintThread f g fill a n4 t).s.canon = true := by
  unfold hintThread
  extract_lets _ g' addr _
  match targetOf (va57 addr) with
  | .own _ | .peer .. | .reg .. | .bad => exact ha
  | .xlat =>
    generalize hr : Machine.translate _ _ _ _ _ _ = r
    have h : r.1.canon = true := hr ▸ Proofs.translate_canon ha ..
    clear hr
    match r with
    | (_, .error _) => exact ha
    | (s, .ok ph) =>
      refine acc_ite ha (acc_ite h ?_)
      match sectorRead s g' ph.pa false, sectorRead_canon h g' ph.pa false with
      | none, _ => exact ha
      | some _, h1 => exact h1

theorem hintOp_canon (i h f fill) :
    outcomeCanon (hintOp i h f fill s) = true := by
  unfold hintOp
  refine memOp_canon hs _ _ _ _ _ _ _ _ (fun key a j t h1 => ?_)
  match s.cur.bind (groupOf s) with
  | none => exact h1
  | some _ => exact hintThread_canon h1 ..

omit hs in
theorem cleanThread_canon {a : MAcc} (ha : a.s.canon = true) (f g t) :
    (cleanThread f g a t).s.canon = true := by
  unfold cleanThread
  extract_lets _ _
  generalize hr : resolve _ _ _ _ _ _ _ _ = r
  have h : r.1.canon = true := hr ▸ resolve_canon ha ..
  clear hr
  match r with
  | (_, .error _) | (_, .ok (.pad ..)) | (_, .ok (.reg ..)) => exact h
  | (_, .ok (.dev _)) => exact acc_ite ha (acc_ite h h)

theorem execClean_canon (h f) :
    outcomeCanon (execClean h f s) = true := by
  unfold execClean
  refine memOp_canon hs _ _ _ _ _ _ _ _ (fun key a j t h1 => ?_)
  match s.cur.bind (groupOf s) with
  | none => exact h1
  | some _ => exact cleanThread_canon h1 ..

omit hs in
theorem invalThread_canon {a : MAcc} (ha : a.s.canon = true) (f g t) :
    (invalThread f g a t).s.canon = true := by
  unfold invalThread
  extract_lets _ addr
  match targetOf (va57 addr) with
  | .own _ | .peer .. | .reg .. | .bad => exact ha
  | .xlat =>
    generalize hr : Machine.translate _ _ _ _ _ _ = r
    have h : r.1.canon = true := hr ▸ Proofs.translate_canon ha ..
    clear hr
    match r with
    | (_, .error _) => exact ha
    | (_, .ok _) => exact l1Drop_canon h ..

theorem execInval_canon (h f) :
    outcomeCanon (execInval h f s) = true := by
  unfold execInval
  refine memOp_canon hs _ _ _ _ _ _ _ _ (fun key a j t h1 => ?_)
  match s.cur.bind (groupOf s) with
  | none => exact h1
  | some _ => exact invalThread_canon h1 ..

end

/-! ### Operations of Machine/Arrive -/

section
variable {s : State} (hs : s.canon = true)
include hs

theorem landBytes_canon (o hc cells) :
    (landBytes s o hc cells).canon = true := by
  unfold landBytes
  extract_lets _ _ _ _ _ _ _ _
  exact holds_ite (faultRecord_canon (holds_ite (faultRecord_canon (canon_with_mem hs (memCells_wf _ (mem_wf hs))) ..)
    (canon_with_mem hs (memCells_wf _ (mem_wf hs)))) ..) (holds_ite (faultRecord_canon (canon_with_mem hs (memCells_wf _
    (mem_wf hs))) ..) (canon_with_mem hs (memCells_wf _ (mem_wf hs))))

theorem oredApply_canon (o hc pa op rnd v) :
    (oredApply s o hc pa op rnd v).canon = true := by
  unfold oredApply
  exact landBytes_canon (landBytes_canon hs ..) ..

theorem oredDrain_canon (pa n) : (oredDrain pa n s).canon = true := by
  induction n generalizing s with
  | zero => exact hs
  | succ n ih =>
    unfold oredDrain
    generalize List.find? _ _ = r
    match r with
    | none => exact hs
    | some _ => exact ih (holds_ite (faultRecord_canon (canon_with hs) ..) (oredApply_canon (canon_with hs) ..))

theorem oredJudge_canon (pa) :
    (oredJudge s pa).canon = true := by
  unfold oredJudge
  extract_lets _ _ _
  exact oredDrain_canon (foldl_canon (fun _ _ h1 => faultRecord_canon h1 ..) _ (canon_with hs)) ..

theorem homeWrite_canon (o hc cells) :
    (homeWrite s o hc cells).canon = true := by
  unfold homeWrite
  exact foldl_canon (fun _ _ h => oredJudge_canon h _) _ (landBytes_canon hs ..)

theorem homePut_canon (o hc pa size v) :
    (homePut s o hc pa size v).canon = true := by
  unfold homePut
  exact homeWrite_canon hs ..

theorem engineWrite_canon (o hc cells) :
    (engineWrite s o hc cells).canon = true := by
  unfold engineWrite
  refine homeWrite_canon (foldl_canon (fun s1 n h => ?_) _ hs) ..
  exact h

theorem agentWrite_canon (cluster o hc cells) :
    (agentWrite s cluster o hc cells).canon = true := by
  unfold agentWrite
  extract_lets _
  refine foldl_canon (fun s1 k h => ?_) _ (engineWrite_canon hs ..)
  exact h

theorem storeHome_canon (o hc slice cells) :
    (storeHome s o hc slice cells).canon = true := by
  unfold storeHome
  extract_lets _
  refine holds_ite (foldl_canon (fun s2 n h => ?_) _ (homeWrite_canon hs ..)) (homeWrite_canon hs ..)
  exact h

theorem llGive_canon (gid key p) :
    (llGive s gid key p).canon = true := by
  unfold llGive
  extract_lets acq _
  clear_value acq
  match acq with
  | none => exact hs
  | some _ => exact l1Clear_canon (by exact hs) _

theorem atomicBack_canon (g0 l) : (atomicBack s g0 l).canon = true := by
  unfold atomicBack
  extract_lets g
  split
  · split
    · exact holds_ite hs hs
    · exact hs
  · exact hs

theorem atomicBad_canon (r t) :
    (atomicBad s r t).canon = true := by
  unfold atomicBad
  match groupOf s r.gid with
  | none | some _ => exact hs

theorem execCoalesceWindowClose_canon (gid) :
    outcomeCanon (execCoalesceWindowClose gid s) = true := by
  unfold execCoalesceWindowClose
  refine onSome_canon _ (fun g h => ?_)
  match g.coal with
  | [] => rfl
  | _ :: _ => exact holds_ite rfl hs

theorem leaveL1_canon (r) :
    (leaveL1 s r).canon = true := by
  unfold leaveL1
  match r.dev with
  | none =>
    match r.kind with
    | .store _ =>
      refine foldl_canon (fun s1 c h => ?_) _ hs
      refine foldl_canon (fun s2 k h1 => ?_) _ h
      exact h1
    | .peer .. | .fma .. | .read .. | .gbar .. => exact hs
    | .rmw .. | .ored .. => exact foldl_canon (fun _ _ h => l1Drop_canon h ..) _ hs
  | some _ => exact hs

theorem fifoLeave_canon (gid) :
    (fifoLeave s gid).all State.canon = true := by
  unfold fifoLeave
  match groupOf s gid with
  | none => rfl
  | some g =>
    dsimp only
    match g.fifo with
    | [] => rfl
    | r1 :: _ =>
      dsimp only
      match r1.dev with
      | none => exact leaveL1_canon (by exact hs) _
      | some _ => exact holds_ite rfl (sendRemote_canon (leaveL1_canon (by exact hs) _) ..)

theorem execStoreArriveHome_canon (key) :
    outcomeCanon (execStoreArriveHome key s) = true := by
  unfold execStoreArriveHome
  refine onSome_canon _ (fun r h => holds_ite rfl ?_)
  match r.kind with
  | .store _ => exact storeHome_canon (by exact hs) ..
  | .peer team _ =>
    dsimp only
    match teamOf s team with
    | none => exact hs
    | some _ => exact holds_ite rfl (onTeam_canon hs (fun _ h1 => memCells_wf _ h1) _)
  | .rmw .. | .ored .. | .fma .. | .read .. | .gbar .. => rfl

theorem performRmw_canon (o hc op pa size v returns) :
    (performRmw s o hc op pa size v returns).1.canon = true := by
  unfold performRmw
  exact fst_ite (fst_ite (faultRecord_canon (by exact hs) ..) (faultRecord_canon (by exact hs) ..)) (homePut_canon
    (by exact hs) ..)

theorem execSliceAtomic_canon (key) :
    outcomeCanon (execSliceAtomic key s) = true := by
  unfold execSliceAtomic
  refine onSome_canon _ (fun r h => ?_)
  match r.kind with
  | .store _ | .peer .. | .ored .. | .fma .. | .read .. | .gbar .. => rfl
  | .rmw .. =>
    refine holds_ite rfl ?_
    extract_lets _
    match reqRet r with
    | none => exact performRmw_canon (by exact hs) ..
    | some _ => exact llGive_canon (performRmw_canon (by exact hs) ..) ..

theorem oredAt_canon (o hc slice op rnd pa idx v) :
    (oredAt s o hc slice op rnd pa idx v).canon = true := by
  unfold oredAt
  extract_lets s1
  match oredRefuses s1 pa idx with
  | none => exact holds_ite hs (oredDrain_canon (oredApply_canon (by exact hs) ..) ..)
  | some _ => exact faultRecord_canon (by exact hs) ..

theorem execOredContribution_canon (key) :
    outcomeCanon (execOredContribution key s) = true := by
  unfold execOredContribution
  refine onSome_canon _ (fun r h => ?_)
  match r.kind with
  | .store _ | .peer .. | .rmw .. | .fma .. | .read .. | .gbar .. => rfl
  | .ored .. => exact holds_ite rfl (oredAt_canon (by exact hs) ..)

theorem execWcbDrain_canon (line) :
    outcomeCanon (execWcbDrain line s) = true := by
  unfold execWcbDrain
  exact holds_ite hs rfl

theorem execL1SectorExpire_canon (core sector) :
    outcomeCanon (execL1SectorExpire core sector s) = true := by
  unfold execL1SectorExpire
  exact holds_ite hs rfl

theorem execUncorrectableError_canon (pa) :
    outcomeCanon (execUncorrectableError pa s) = true := by
  unfold execUncorrectableError
  exact holds_ite rfl (holds_ite hs rfl)

theorem execBankReplay_canon (lane) :
    outcomeCanon (execBankReplay lane s) = true := by
  unfold execBankReplay
  generalize List.findIdx? _ _ = r
  match r with
  | none => rfl
  | some _ =>
    dsimp only
    generalize List.find? _ _ = r
    match r with
    | none => rfl
    | some _ => exact holds_ite hs rfl

theorem execLongLatencyResult_canon (gid key) :
    outcomeCanon (execLongLatencyResult gid key s) = true := by
  unfold execLongLatencyResult
  refine onSome_canon _ (fun g h => ?_)
  generalize List.find? _ _ = r
  match r with
  | none => rfl
  | some _ => exact holds_ite hs rfl

theorem execPageWalk_canon (core ctx va write) :
    outcomeCanon (execPageWalk core ctx va write s) = true := by
  unfold execPageWalk
  exact holds_ite (Proofs.translate_canon hs ..) rfl

end

/-! ### Operations of Machine/Tasks -/

section
variable {s : State} (hs : s.canon = true)
include hs

theorem wake_canon (gid) : (wake s gid).canon = true := hs

theorem wakeTrap_canon (gid t) :
    (wakeTrap s gid t).canon = true := by
  unfold wakeTrap
  match groupOf s gid with
  | none => exact hs
  | some _ => exact holds_ite hs (takeTrap_canon hs ..)

theorem decCtr_canon (ctx n k stamp) :
    okAll State.canon (decCtr s ctx n k stamp) = true := by
  unfold decCtr
  exact holds_ite (holds_ite rfl hs) (holds_ite hs (holds_ite hs rfl))

theorem compDec_canon (ctx n launch) :
    (compDec s ctx n launch).canon = true := by
  unfold compDec
  refine holds_ite hs ?_
  match decCtr s ctx n 1 [], decCtr_canon hs ctx n 1 ([]) with
  | .error _, _ => exact faultRecord_canon hs ..
  | .ok _, h => exact h

theorem armCtr_canon (ctx n k task launch) :
    okAll State.canon (armCtr s ctx n k task launch) = true := by
  unfold armCtr
  exact holds_ite rfl (holds_ite rfl (holds_ite hs hs))

end

/-! ### Operations of Machine/Queue -/

section
variable {s : State} (hs : s.canon = true)
include hs

theorem askHome_canon (i h g va pa dev big ask ll) :
    gOutCanon (askHome i h g s va pa dev big ask ll) = true := by
  unfold askHome
  exact holds_ite rfl hs

theorem askQueue_canon (i h q ask ll) :
    outcomeCanon (askQueue i h q ask ll s) = true := by
  unfold askQueue
  refine wideOp_canon hs _ _ (fun g => holds_ite hs ?_)
  generalize hr : Machine.translate _ _ _ _ _ _ = r
  have h1 : r.1.canon = true := hr ▸ Proofs.translate_canon hs ..
  clear hr
  match r with
  | (_, .error _) => exact h1
  | (_, .ok _) => exact askHome_canon h1 ..

theorem execQstat_canon (h f) :
    outcomeCanon (execQstat h f s) = true := by
  unfold execQstat
  refine wideOp_canon hs _ _ (fun g => holds_ite hs (holds_ite hs ?_))
  generalize hr : Machine.translate _ _ _ _ _ _ = r
  have h1 : r.1.canon = true := hr ▸ Proofs.translate_canon hs ..
  clear hr
  match r with
  | (_, .error _) => exact h1
  | (_, .ok _) => exact askHome_canon h1 ..

theorem execTaskarm_canon (h f) :
    outcomeCanon (execTaskarm h f s) = true := by
  unfold execTaskarm
  refine wideOp_canon hs _ _ (fun g => holds_ite hs ?_)
  match taskCount (g.s.getD (f.fl 6 6) 0) with
  | none => exact hs
  | some _ =>
    refine holds_ite hs ?_
    generalize hr : groupRead s g (va57 (g.s.getD f.sdesc.toNat 0)) 256 = r
    have h1 : r.1.canon = true := hr ▸ groupRead_canon hs ..
    clear hr
    match r with
    | (_, .error none) | (_, .error (some _)) => exact h1
    | (_, .ok _) => exact holds_ite h1 (askHome_canon h1 ..)

theorem execTaskdec_canon (h f) :
    outcomeCanon (execTaskdec h f s) = true := by
  unfold execTaskdec
  refine wideOp_canon hs _ _ (fun g => holds_ite hs ?_)
  match (if f.fl 12 1 = 1 then taskCount (g.s.getD (f.fl 6 6) 0) else some 1) with
  | none => exact hs
  | some _ => exact askHome_canon hs ..

theorem reachQueue_canon (ctx pa) : okAll (fun x => x.1.canon) (reachQueue s ctx pa) = true := by
  unfold reachQueue
  match queueAt s pa with
  | some _ => exact hs
  | none =>
    refine holds_ite hs (holds_ite rfl ?_)
    match s.contexts[ctx]? with
    | none => rfl
    | some _ =>
      refine holds_ite rfl ?_
      dsimp only [okAll]
      exact putQueue_canon (canon_with hs) _

theorem popAt_canon (x pa d p direct try_) :
    qAnsCanon (popAt s x pa d p direct try_) = true := by
  unfold popAt
  match reachQueue s x.ctx pa, reachQueue_canon hs x.ctx pa with
  | .error _, _ => rfl
  | .ok x1, h =>
    refine holds_ite rfl (holds_ite rfl ?_)
    match queueHead x1.1 x1.2 with
    | none => exact h
    | some _ => exact serveQueue_canon (putQueue_canon h _) _

theorem gleanAt_canon (x pa d p) :
    qAnsCanon (gleanAt s x pa d p) = true := by
  unfold gleanAt
  match reachQueue s x.ctx pa, reachQueue_canon hs x.ctx pa with
  | .error _, _ => rfl
  | .ok x1, h =>
    refine holds_ite rfl ?_
    match (if (x1.2.gleanOk && x1.2.marked && mayGlean x1.1 x x1.2) = true then queueTail x1.1 x1.2 else none) with
    | none => exact h
    | some _ => exact serveQueue_canon (putQueue_canon h _) _

theorem doneAt_canon (x pa seq) :
    qAnsCanon (doneAt s x pa seq) = true := by
  unfold doneAt
  match reachQueue s x.ctx pa, reachQueue_canon hs x.ctx pa with
  | .error _, _ => rfl
  | .ok _, h =>
    dsimp only
    generalize List.find? _ _ = r
    match r with
    | none => rfl
    | some _ => exact compDec_canon (serveQueue_canon (putQueue_canon h _) _) ..

theorem pushAt_canon (ctx pa bytes stamps regions) :
    qAnsCanon (pushAt s ctx pa bytes stamps regions) = true := by
  unfold pushAt
  match reachQueue s ctx pa, reachQueue_canon hs ctx pa with
  | .error _, _ => rfl
  | .ok _, h => exact holds_ite rfl (holds_ite rfl (holds_ite rfl (appendEntry_canon h ..)))

theorem closeAt_canon (ctx pa) :
    qAnsCanon (closeAt s ctx pa) = true := by
  unfold closeAt
  match reachQueue s ctx pa, reachQueue_canon hs ctx pa with
  | .error _, _ => rfl
  | .ok _, h => exact holds_ite rfl (holds_ite h (serveQueue_canon (putQueue_canon h _) _))

theorem statAt_canon (ctx pa d) :
    qAnsCanon (statAt s ctx pa d) = true := by
  unfold statAt
  match reachQueue s ctx pa, reachQueue_canon hs ctx pa with
  | .error _, _ => rfl
  | .ok _, h => exact h

theorem answerOf_canon (g r) :
    qAnsCanon (answerOf s g r) = true := by
  unfold answerOf
  extract_lets _
  match r.ask with
  | .push _ => exact pushAt_canon hs ..
  | .close => exact closeAt_canon hs ..
  | .pop .. | .try_ .. => exact popAt_canon hs ..
  | .stat _ => exact statAt_canon hs ..
  | .glean .. => exact gleanAt_canon hs ..
  | .done _ => exact doneAt_canon hs ..
  | .arm ctr n task =>
    dsimp only
    match armCtr s g.ctx ctr n task g.launch, armCtr_canon hs g.ctx ctr n task g.launch with
    | .error _, _ => rfl
    | .ok _, h => exact h
  | .dec ctr n =>
    dsimp only
    match decCtr s g.ctx ctr n [(r.gid, r.stamp)], decCtr_canon hs g.ctx ctr n ([(r.gid, r.stamp)]) with
    | .error _, _ => rfl
    | .ok _, h => exact h

theorem putScalar_canon (g d v) :
    (putScalar s g d v).canon = true := by
  unfold putScalar
  exact holds_ite (getD_canon (putVA_canon hs ..) hs) hs

theorem refuseReq_canon (gid key t) :
    (refuseReq s gid key t).canon = true := by
  unfold refuseReq
  exact wakeTrap_canon (by exact hs) ..

omit hs in
theorem deliverAns_canon {s0 : State} (h0 : s0.canon = true) (r) {a : QAns} (ha : qAnsCanon a = true) :
    (deliverAns s0 r a).all State.canon = true := by
  unfold deliverAns
  match a with
  | .notYet => rfl
  | .refuse _ => exact refuseReq_canon (canon_with h0) ..
  | .ok _ => exact ha
  | .word .. => exact getD_canon (all_map (fun _ _ => putScalar_canon (canon_with ha) ..)) ha
  | .claim .. => exact holds_ite (canon_with ha) (wake_canon (canon_with ha) _)

theorem acceptReq_canon (gid) :
    (acceptReq s gid).all State.canon = true := by
  unfold acceptReq
  exact all_bind (fun _ _ => all_bind (fun _ _ => holds_ite rfl (deliverAns_canon hs _ (answerOf_canon hs ..))))

theorem execQueueAccept_canon (gid) : outcomeCanon (execQueueAccept gid s) = true :=
  onSome_next_canon (acceptReq_canon hs gid)

theorem claimSaved_canon (g c) :
    (claimSaved s g c).canon = true := by
  unfold claimSaved
  extract_lets s1
  generalize hr : getVA s1 g.cluster g.ctx (slotVA s1 g) 2048 = r
  have h : Option.all (fun x => x.1.canon) r = true := hr ▸ getVA_canon (by exact hs) ..
  clear hr
  match r with
  | none => exact hs
  | some _ => exact getD_canon (putVA_canon h ..) h

theorem claimResult_canon (g c) :
    (claimResult s g c).canon = true := by
  unfold claimResult
  extract_lets _ _ _ _ _
  exact holds_ite (compDec_canon (holds_ite (claimSaved_canon (onGroup_canon (holds_ite (l1Clear_canon (canon_with hs) _)
    (canon_with hs)) ..) ..) (holds_ite (wake_canon (onGroup_canon (onGroup_canon (holds_ite (l1Clear_canon (canon_with
    hs) _) (canon_with hs)) ..) ..) _) (onGroup_canon (onGroup_canon (holds_ite (l1Clear_canon (canon_with hs) _)
    (canon_with hs)) ..) ..))) ..) (holds_ite (claimSaved_canon (onGroup_canon (holds_ite (l1Clear_canon (canon_with hs)
    _) (canon_with hs)) ..) ..) (holds_ite (wake_canon (onGroup_canon (onGroup_canon (holds_ite (l1Clear_canon (canon_with
    hs) _) (canon_with hs)) ..) ..) _) (onGroup_canon (onGroup_canon (holds_ite (l1Clear_canon (canon_with hs) _)
    (canon_with hs)) ..) ..)))

theorem execClaimResult_canon (gid) :
    outcomeCanon (execClaimResult gid s) = true := by
  unfold execClaimResult
  refine onSome_canon _ (fun g h => ?_)
  generalize List.find? _ _ = r
  match r with
  | none => rfl
  | some _ => exact claimResult_canon hs ..

theorem refuseTask_canon (f) :
    (refuseTask s f).canon = true := by
  unfold refuseTask
  exact faultRecord_canon (canon_with hs) ..

theorem taskPush_canon (key) :
    (taskPush s key).all State.canon = true := by
  unfold taskPush
  refine all_bind (fun f _ => holds_ite rfl ?_)
  match walkNow s f.ctx (va57 f.queue) Acc.rw, walkNow_canon hs f.ctx (va57 f.queue) Acc.rw with
  | (_, .error _), h => exact refuseTask_canon h _
  | (_, .ok ph), h =>
    dsimp only
    match ph.dev with
    | none =>
      generalize hr : pushAt _ _ _ _ _ _ = r
      have h1 : qAnsCanon r = true := hr ▸ pushAt_canon (canon_with h) ..
      clear hr
      match r with
      | .notYet => rfl
      | .refuse _ | .word .. | .claim .. => exact refuseTask_canon h _
      | .ok _ => exact h1
    | some _ => exact holds_ite rfl (sendRemote_canon (canon_with h) ..)

theorem execTaskPush_canon (key) : outcomeCanon (execTaskPush key s) = true :=
  onSome_next_canon (taskPush_canon hs key)

end

/-! ### Operations of Machine/Barrier -/

section
variable {s : State} (hs : s.canon = true)
include hs

theorem setBar_canon (team b x) : (setBar s team b x).canon = true := by
  unfold setBar
  exact onTeam_frame hs

theorem faultWaiters_canon (team b t) :
    (faultWaiters s team b t).canon = true := by
  unfold faultWaiters
  exact foldl_canon (fun _ _ h => wakeTrap_canon h ..) _ hs

theorem testBar_canon (team b x) :
    (testBar s team b x).canon = true := by
  unfold testBar
  exact holds_ite (setBar_canon hs ..) (holds_ite (setBar_canon hs ..) (holds_ite (faultWaiters_canon (setBar_canon hs ..)
    ..) (setBar_canon hs ..)))

theorem arriveBar_canon (team b) :
    (arriveBar s team b).canon = true := by
  unfold arriveBar
  exact testBar_canon hs ..

theorem saveBar_canon (team b) :
    (saveBar s team b).canon = true := by
  unfold saveBar
  match teamOf s team with
  | none => exact hs
  | some _ => exact holds_ite hs (getD_canon (putVA_canon hs ..) hs)

theorem landBar_canon (team b n) :
    (landBar s team b n).canon = true := by
  unfold landBar
  extract_lets _
  refine holds_ite hs ?_
  split
  · exact saveBar_canon (testBar_canon hs ..) ..
  · exact saveBar_canon (setBar_canon hs ..) ..
  · exact hs

theorem execBari_canon (h f) :
    outcomeCanon (execBari h f s) = true := by
  unfold execBari
  exact wideOp_canon hs _ _ (fun _ => holds_ite hs (holds_ite hs (holds_ite hs (setBar_canon hs ..))))

theorem execBara_canon (h f) :
    outcomeCanon (execBara h f s) = true := by
  unfold execBara
  refine wideOp_canon hs _ _ (fun g => ?_)
  extract_lets _ x
  match checkBar x with
  | none => exact holds_ite rfl (arriveBar_canon (by exact hs) ..)
  | some _ => exact hs

theorem execBarw_canon (h f) :
    outcomeCanon (execBarw h f s) = true := by
  unfold execBarw
  refine wideOp_canon hs _ _ (fun g => ?_)
  extract_lets _ x
  match checkBar x with
  | none =>
    exact holds_ite rfl (holds_ite (arriveBar_canon hs ..) (holds_ite (arriveBar_canon hs ..) (arriveBar_canon hs ..)))
  | some _ => exact hs

theorem execBarexp_canon (h f) :
    outcomeCanon (execBarexp h f s) = true := by
  unfold execBarexp
  refine wideOp_canon hs _ _ (fun g => ?_)
  extract_lets _ x _
  match checkBar x with
  | none => exact holds_ite hs (setBar_canon hs ..)
  | some _ => exact hs

theorem execBarph_canon (h f) :
    outcomeCanon (execBarph h f s) = true := by
  unfold execBarph
  refine wideOp_canon hs _ _ (fun g => ?_)
  extract_lets _ x _
  match checkBar x with
  | none => exact holds_ite hs (holds_ite hs hs)
  | some _ => exact hs

theorem execBarinv_canon (h f) :
    outcomeCanon (execBarinv h f s) = true := by
  unfold execBarinv
  exact wideOp_canon hs _ _ (fun _ => faultWaiters_canon (setBar_canon hs ..) ..)

theorem putStrag_canon (r mem off bs) :
    (putStrag s r mem off bs).canon = true := by
  unfold putStrag
  exact slicePut_canon hs ..

theorem putRecWords_canon (r st) :
    (putRecWords s r st).canon = true := by
  unfold putRecWords
  exact canon_with_mem hs (memPut_wf _ _ (mem_wf hs))

theorem putRec_canon (r) :
    (putRec s r).canon = true := by
  unfold putRec
  exact putRecWords_canon (canon_with hs) ..

theorem unmarkAll_canon (pa) :
    (unmarkAll s pa).canon = true := by
  unfold unmarkAll
  exact foldl_canon (fun _ _ h => putQueue_canon h _) _ hs

theorem tellWaiters_canon (pa got p) :
    (tellWaiters s pa got p).canon = true := by
  unfold tellWaiters
  exact foldl_canon (fun _ _ h => onTeam_frame h) _ hs

theorem tellDevice_canon (dev pa data) :
    (tellDevice s dev pa data).canon = true := by
  unfold tellDevice
  extract_lets _
  match linkFor s dev pa with
  | none | some _ => exact holds_ite hs hs

theorem sendOut_canon :
    (sendOut s).all State.canon = true := by
  unfold sendOut
  refine all_map (fun x _ => ?_)
  extract_lets s1
  match linkFor s1 x.1.1 x.1.2.1 with
  | none | some _ => exact hs

theorem tellDevices_canon (devs pa data) :
    (tellDevices s devs pa data).canon = true := by
  unfold tellDevices
  exact foldl_canon (fun _ _ h => tellDevice_canon h ..) _ hs

theorem dropRec_canon (r st) :
    (dropRec s r st).canon = true := by
  unfold dropRec
  exact putRecWords_canon (canon_with (tellDevices_canon (unmarkAll_canon hs _) ..)) ..

theorem abandonRec_canon (r) :
    (abandonRec s r).canon = true := by
  unfold abandonRec
  exact tellWaiters_canon (tellDevices_canon (dropRec_canon (foldl_canon (fun _ _ h => putStrag_canon h ..) _ hs) ..) ..)
    ..

theorem recPlace_canon (g va acc) :
    (recPlace s g va acc).1.canon = true := by
  unfold recPlace
  refine fst_ite hs ?_
  generalize hr : Machine.translate s g.cluster (some g.core) g.ctx va acc = r
  have h : r.1.canon = true := hr ▸ Proofs.translate_canon hs ..
  clear hr
  match r with
  | (_, .error _) | (_, .ok _) => exact h

theorem gbarArrive_canon (g va ph scope gen mem cnt) :
    gOutCanon (gbarArrive s g va ph scope gen mem cnt) = true := by
  unfold gbarArrive
  match teamOf s g.team with
  | none => exact hs
  | some _ => exact holds_ite hs (holds_ite hs (holds_ite rfl (holds_ite (onTeam_frame hs) (onTeam_frame hs))))

theorem execGbar_canon (h f) :
    outcomeCanon (execGbar h f s) = true := by
  unfold execGbar
  refine wideOp_canon hs _ _ (fun g => ?_)
  extract_lets _ i _ va
  match recPlace s g va Acc.rw, recPlace_canon hs g va Acc.rw with
  | (_, none), h1 => exact h1
  | (s1, some ph), h1 =>
    refine holds_ite ?_ ?_
    · match groupRead s1 g va 64, groupRead_canon h1 g va 64 with
      | (_, .error none), h2 | (_, .error (some _)), h2 => exact h2
      | (_, .ok _), h2 =>
        dsimp only
        generalize farRec _ _ _ = r
        match r with
        | .error _ => exact h2
        | .ok _ => exact gbarArrive_canon h2 ..
    · match recAt s1 ph.pa with
      | none => exact h1
      | some r1 =>
        refine holds_ite h1 ?_
        match memberOf s1 g r1 i with
        | none => exact h1
        | some _ => exact gbarArrive_canon h1 ..

theorem execGbarInit_canon (h f) :
    outcomeCanon (execGbarInit h f s) = true := by
  unfold execGbarInit
  refine wideOp_canon hs _ _ (fun g => ?_)
  generalize hr : recPlace s g (va57 (g.s.getD f.a.toNat 0)) Acc.rw = r
  have h1 : r.1.canon = true := hr ▸ recPlace_canon hs ..
  clear hr
  match r with
  | (_, none) => exact h1
  | (_, some _) =>
    exact holds_ite h1 (holds_ite h1 (holds_ite h1 (holds_ite h1 (putRec_canon (canon_with (foldl_canon (fun _ _ h2 =>
      putStrag_canon (putStrag_canon h2 ..) ..) _ h1)) _))))

theorem execGbarFini_canon (h f) :
    outcomeCanon (execGbarFini h f s) = true := by
  unfold execGbarFini
  refine wideOp_canon hs _ _ (fun g => ?_)
  generalize hr : recPlace s g (va57 (g.s.getD f.a.toNat 0)) Acc.rw = r
  have h1 : r.1.canon = true := hr ▸ recPlace_canon hs ..
  clear hr
  match r with
  | (_, none) => exact h1
  | (s1, some ph) =>
    refine holds_ite h1 ?_
    match recAt s1 ph.pa with
    | none => exact h1
    | some _ => exact holds_ite h1 (dropRec_canon h1 ..)

theorem execStrag_canon (h f) :
    outcomeCanon (execStrag h f s) = true := by
  unfold execStrag
  refine wideOp_canon hs _ _ (fun g => holds_ite hs ?_)
  generalize hr : recPlace s g (va57 (g.s.getD f.a.toNat 0)) Acc.rw = r
  have h1 : r.1.canon = true := hr ▸ recPlace_canon hs ..
  clear hr
  match r with
  | (_, none) => exact h1
  | (_, some _) =>
    refine holds_ite h1 (holds_ite h1 (holds_ite h1 (holds_ite h1 ?_)))
    extract_lets _
    generalize hr : recRead _ _ _ _ _ _ _ _ = r
    have h2 : r.1.canon = true := hr ▸ recRead_canon h1 ..
    clear hr
    match r with
    | (_, .error none) | (_, .error (some _)) | (_, .ok _) => exact h2

theorem markPlace_canon (ctx queue) :
    (markPlace s ctx queue).1.canon = true := by
  unfold markPlace
  match walkNow s ctx (va57 queue) Acc.rw, walkNow_canon hs ctx (va57 queue) Acc.rw with
  | (_, .error _), h | (_, .ok _), h => exact h

theorem markHere_canon (pa ctx lid index hood) :
    (markHere s pa ctx lid index hood).all State.canon = true := by
  unfold markHere
  exact all_bind (fun q _ => (holds_ite (putQueue_canon hs _) rfl))

theorem unmarkHere_canon (pa hood) :
    (unmarkHere s pa hood).canon = true := by
  unfold unmarkHere
  match queueAt s pa with
  | none => exact hs
  | some _ => exact holds_ite (putQueue_canon hs _) hs

theorem stragDone_canon (r u x) :
    (stragDone s r u x).canon = true := by
  unfold stragDone
  exact putStrag_canon (putStrag_canon hs ..) ..

theorem stragQueue_canon (r mem) :
    (stragQueue s r mem).1.canon = true := by
  unfold stragQueue
  extract_lets va
  match walkNow s r.ctx va Acc.rd, walkNow_canon hs r.ctx va Acc.rd with
  | (_, .error _), h | (_, .ok _), h => exact h

theorem sendMark_canon (r dev key data) :
    (sendMark s r dev key data).canon = true := by
  unfold sendMark
  match key with
  | none => exact tellDevices_canon hs ..
  | some _ => exact sendRemote_canon hs ..

theorem stragStep_canon (r) :
    (stragStep s r).all State.canon = true := by
  unfold stragStep
  match r.ups with
  | [] => rfl
  | u :: _ =>
    refine holds_ite (stragDone_canon hs ..) (holds_ite rfl ?_)
    match stragQueue s r u.arr.mem, stragQueue_canon hs r u.arr.mem with
    | (_, .error (.fault ..)), h => exact stragDone_canon h ..
    | (_, .error (.need ..)), h => exact askLine_canon h ..
    | (_, .error .wait), _ => rfl
    | (s1, .ok w), h =>
      refine holds_ite (stragDone_canon ?_ ..) (holds_ite (stragDone_canon (by exact h) ..) ?_)
      · match u.arr.dev with
        | none =>
          generalize hr : markPlace (dropGot s1 (recWho r).id) u.arr.ctx w = r1
          have h1 : r1.1.canon = true := hr ▸ markPlace_canon (by exact h) ..
          clear hr
          match r1 with
          | (_, none) => exact h1
          | (_, some ph) =>
            dsimp only
            match ph.dev with
            | none => exact unmarkHere_canon h1 ..
            | some _ => exact sendMark_canon h1 ..
        | some _ => exact sendMark_canon (by exact h) ..
      · extract_lets _
        match u.arr.dev with
        | none =>
          generalize hr : markPlace (dropGot s1 (recWho r).id) u.arr.ctx w = r1
          have h1 : r1.1.canon = true := hr ▸ markPlace_canon (by exact h) ..
          clear hr
          match r1 with
          | (_, none) => exact stragDone_canon h1 ..
          | (s2, some ph) =>
            dsimp only
            match ph.dev with
            | none =>
              generalize hr : markHere s2 ph.pa u.arr.ctx u.arr.lid u.arr.mt [r.pa, r.nbhd] = r1
              have h2 : Option.all State.canon r1 = true := hr ▸ markHere_canon h1 ..
              clear hr
              match r1 with
              | none => exact stragDone_canon h1 ..
              | some _ => exact stragDone_canon h2 ..
            | some _ => exact sendMark_canon (canon_with h1) ..
        | some _ => exact sendMark_canon (canon_with h) ..

theorem stragGo_canon (pa n) : (stragGo pa n s).canon = true := by
  induction n generalizing s with
  | zero => exact hs
  | succ n ih =>
    unfold stragGo
    have h := all_bind (o := recAt s pa) (fun r _ => stragStep_canon hs r)
    split
    · rename_i e
      rw [e] at h
      exact ih h
    · exact hs

theorem markReply_canon (r ok) :
    (markReply s r ok).canon = true := by
  unfold markReply
  match r.ups with
  | [] => exact hs
  | _ :: _ => exact stragDone_canon (canon_with hs) ..

theorem completeGen_canon (r) :
    (completeGen s r).canon = true := by
  unfold completeGen
  exact stragGo_canon (tellDevices_canon (tellWaiters_canon (putRec_canon (by exact hs) _) ..) ..) ..

theorem countArrival_canon (r a) :
    (countArrival s r a).canon = true := by
  unfold countArrival
  exact holds_ite (completeGen_canon hs _) (putRec_canon hs _)

theorem execGbarCombine_canon (key) :
    outcomeCanon (execGbarCombine key s) = true := by
  unfold execGbarCombine
  exact onSome_canon _ (fun _ _ => holds_ite rfl hs)

theorem arriveHome_canon {tell : State → Nat → State} (ht : ∀ n, (tell s n).canon = true) (pa a) :
    (arriveHome tell pa a s).canon = true := by
  unfold arriveHome
  split
  · exact ht _
  · split
    · exact ht _
    · exact countArrival_canon hs ..

theorem execGbarArrival_canon (key) : outcomeCanon (execGbarArrival key s) = true := by
  unfold execGbarArrival
  refine onSome_canon _ (fun m _ => ?_)
  extract_lets _
  refine holds_ite rfl ?_
  match m.dev with
  | none => exact foldl_canon (fun _ _ h => arriveHome_canon h (fun _ => tellWaiters_canon h ..) ..) _ hs
  | some d =>
    refine holds_ite rfl ?_
    match linkFor s d m.pa with
    | none => exact foldl_canon (fun _ _ h => tellWaiters_canon h ..) _ hs
    | some _ => exact sendRemote_canon (canon_with hs) ..

end

/-! ### Operations of Machine/Engine -/

section
variable {s : State} (hs : s.canon = true)
include hs

theorem leaveDrop_canon (c p) : (leaveDrop s c p).canon = true := hs

end

/-! ### Operations of Machine/Copy -/

section
variable {s : State} (hs : s.canon = true)
include hs

theorem readCopyDesc_canon (who va) :
    (readCopyDesc s who va).1.canon = true := by
  unfold readCopyDesc
  generalize List.find? _ _ = r
  match r with
  | none => exact recRead_canon (holds_ite hs (canon_with hs)) ..
  | some _ => exact hs

theorem checkCopy_canon (who kind tag va aS aT) :
    (checkCopy s who kind tag va aS aT).1.canon = true := by
  unfold checkCopy
  extract_lets _
  refine fst_ite hs (fst_ite hs ?_)
  match readCopyDesc s who va, readCopyDesc_canon hs who va with
  | (_, .error _), h => exact h
  | (_, .ok _), h =>
    refine fst_ite h ?_
    extract_lets _ _
    generalize Option.or _ _ = r
    match r with
    | none | some _ => exact h

theorem orConv_canon (team gid mask) :
    (orConv s team gid mask).canon = true := by
  unfold orConv
  match teamOf s team with
  | none => exact hs
  | some _ => exact onTeam_frame hs

theorem setAreaBit_canon (t off bit) :
    (setAreaBit s t off bit).canon = true := by
  unfold setAreaBit
  generalize hr : getVA s (t.core / 4) t.ctx (BitVec.toNat t.save + off) 8 = r
  have h : Option.all (fun x => x.1.canon) r = true := hr ▸ getVA_canon hs ..
  clear hr
  match r with
  | none => exact hs
  | some _ => exact getD_canon (putVA_canon h ..) h

theorem setSavedTag_canon (t tag bad) :
    (setSavedTag s t tag bad).canon = true := by
  unfold setSavedTag
  extract_lets _
  match bad with
  | none => exact setAreaBit_canon hs ..
  | some _ =>
    exact getD_canon (putVA_canon (setAreaBit_canon (setAreaBit_canon hs ..) ..) ..) (setAreaBit_canon (setAreaBit_canon
      hs ..) ..)

theorem setTag_canon (team tag bad) :
    (setTag s team tag bad).canon = true := by
  unfold setTag
  extract_lets _ s1
  match teamOf s1 team with
  | none => exact onTeam_frame hs
  | some _ => exact holds_ite (setSavedTag_canon (onTeam_frame hs) ..) (onTeam_frame hs)

theorem reportCopy_canon (c team cause sub addr) :
    (reportCopy s c team cause sub addr).canon = true := by
  unfold reportCopy
  exact holds_ite (setTag_canon hs ..) (faultRecord_canon hs ..)

theorem finishCopy_canon (c) :
    (finishCopy s c).canon = true := by
  unfold finishCopy
  extract_lets _ _ _
  match c.failed with
  | none =>
    exact compDec_canon (setTag_canon (holds_ite (leaveDrop_canon (canon_with hs) ..) (onTeam_frame (leaveDrop_canon
      (canon_with hs) ..))) ..) ..
  | some _ =>
    exact reportCopy_canon (holds_ite (leaveDrop_canon (canon_with hs) ..) (onTeam_frame (leaveDrop_canon (canon_with hs)
      ..))) ..

theorem takeTag_canon (c) :
    (takeTag s c).canon = true := by
  unfold takeTag
  exact holds_ite (finishCopy_canon (canon_with (onTeam_frame (orConv_canon hs ..))) _) (onTeam_frame (orConv_canon hs
    ..))

theorem copyOp_canon (i h f kind) :
    outcomeCanon (copyOp i h f kind s) = true := by
  unfold copyOp
  refine wideOp_canon hs _ _ (fun g => ?_)
  extract_lets _ _
  generalize hr : checkCopy _ _ _ _ _ _ _ = r
  have h1 : r.1.canon = true := hr ▸ checkCopy_canon hs ..
  clear hr
  match r with
  | (_, .error none) | (_, .error (some _)) => exact h1
  | (_, .ok _) => exact holds_ite h1 (holds_ite (takeTag_canon (by exact h1) _) h1)

theorem execStage_canon (h f) :
    outcomeCanon (execStage h f s) = true := by
  unfold execStage
  exact wideOp_canon hs _ _ (fun _ => onTeam_frame hs)

theorem execStageInc_canon (h f) :
    outcomeCanon (execStageInc h f s) = true := by
  unfold execStageInc
  exact wideOp_canon hs _ _ (fun _ => onTeam_frame hs)

theorem touchPage_canon (c acc va) :
    (touchPage s c acc va).canon = true := by
  unfold touchPage
  match targetOf va with
  | .own _ | .peer .. | .reg .. | .bad => exact hs
  | .xlat => exact Proofs.translate_canon hs ..

theorem putBytes_canon (c recv va bs) :
    (putBytes s c recv va bs).canon = true := by
  unfold putBytes
  match putPlace s c recv va bs.length with
  | .error _ => exact hs
  | .ok (.pad ..) => exact onTeam_canon hs (fun _ h => memPut_wf _ _ h) _
  | .ok (.mem ph) =>
    dsimp only
    match ph.dev with
    | none => exact agentWrite_canon (touchPage_canon hs ..) ..
    | some _ => exact sendLines_canon (touchPage_canon hs ..) ..

theorem putPieces_canon (c recv ps) :
    (putPieces s c recv ps).canon = true := by
  unfold putPieces
  refine foldl_canon (fun s1 p h => ?_) _ hs
  exact foldl_canon (fun _ _ h1 => putBytes_canon h1 ..) _ h

theorem landRemote_canon (r) :
    (landRemote s r).canon = true := by
  unfold landRemote
  extract_lets s1
  match r.ask with
  | .store _ =>
    match r.copy.bind (copyOf s1) with
    | none => exact hs
    | some c =>
      dsimp only
      match c.bar with
      | none => exact hs
      | some _ => exact landBar_canon (canon_with hs) ..
  | .peer .. | .rmw .. | .ored .. | .fma .. | .read .. | .gbar .. => exact hs

theorem touchPages_canon (c n) :
    (touchPages s c n).canon = true := by
  unfold touchPages
  exact foldl_canon (fun _ _ h => touchPage_canon h ..) _ hs

theorem execCopyStart_canon (cluster) :
    outcomeCanon (execCopyStart cluster s) = true := by
  unfold execCopyStart
  generalize List.find? _ _ = r
  match r with
  | none => rfl
  | some _ => exact holds_ite rfl (holds_ite hs hs)

theorem deliverStream_canon (c recv ps) : (deliverStream s c recv ps).all State.canon = true := by
  unfold deliverStream
  refine holds_ite rfl ?_
  match c.bar with
  | none => exact onCopy_canon (onEng_canon hs ..) ..
  | some _ => exact onCopy_canon (landBar_canon (onEng_canon hs ..) ..) ..

theorem execCopyDelivery_canon (copy team) :
    outcomeCanon (execCopyDelivery copy team s) = true := by
  unfold execCopyDelivery
  refine onSome_canon _ (fun c h => holds_ite rfl ?_)
  match copyPlan s c team with
  | (ps, none) =>
    refine holds_ite ?_ (holds_ite ?_ (setTag_canon ?_ ..))
    · match deliverStream s c team ps, deliverStream_canon hs c team ps with
      | none, _ => rfl
      | some _, h1 => exact touchPages_canon h1 ..
    · match c.bar with
      | none => exact putPieces_canon (touchPages_canon hs ..) ..
      | some _ => exact landBar_canon (putPieces_canon (touchPages_canon hs ..) ..) ..
    · match c.bar with
      | none => exact putPieces_canon (touchPages_canon hs ..) ..
      | some _ => exact landBar_canon (putPieces_canon (touchPages_canon hs ..) ..) ..
  | (_, some _) => rfl

theorem execCopyComplete_canon (copy) :
    outcomeCanon (execCopyComplete copy s) = true := by
  unfold execCopyComplete
  exact onSome_canon _ (fun _ _ => holds_ite (finishCopy_canon hs _) rfl)

theorem putChosen_canon (c recv row ps) :
    (putChosen s c recv row ps).canon = true := by
  unfold putChosen
  extract_lets _ _ _ _ _
  match c.bar with
  | none => exact foldl_canon (fun _ _ h => putBytes_canon h ..) _ hs
  | some _ => exact landBar_canon (foldl_canon (fun _ _ h => putBytes_canon h ..) _ (canon_with hs)) ..

theorem putPrefix_canon (c recv row ps) :
    (putPrefix s c recv row ps).canon = true := by
  unfold putPrefix
  extract_lets _ _ _
  match c.bar with
  | none => exact hs
  | some _ => exact landBar_canon (by exact hs) ..

theorem starveAscend_canon (cluster n va) :
    (starveAscend s cluster n va).canon = true := by
  unfold starveAscend
  extract_lets _
  generalize List.find? _ _ = r
  match r with
  | none => exact hs
  | some c =>
    dsimp only
    cases c.kind with
    | ascend => exact holds_ite hs hs
    | _ => exact hs

theorem copyStarves_canon (c va) :
    (copyStarves s c va).canon = true := by
  unfold copyStarves
  exact holds_ite (starveAscend_canon hs ..) hs

theorem failDelivery_canon (c recv cause sub addr) :
    (failDelivery s c recv cause sub addr).canon = true := by
  unfold failDelivery
  exact holds_ite (holds_ite hs (reportCopy_canon hs ..)) (holds_ite (holds_ite hs (reportCopy_canon hs ..))
    (finishCopy_canon (holds_ite hs (reportCopy_canon hs ..)) _))

theorem failCopy_canon (c cause sub) :
    (failCopy s c cause sub).canon = true := by
  unfold failCopy
  exact copyStarves_canon (finishCopy_canon (foldl_canon (fun _ _ h => reportCopy_canon h ..) _ hs) _) ..

theorem execCopyFail_canon (copy row cause) :
    outcomeCanon (execCopyFail copy row cause s) = true := by
  unfold execCopyFail
  refine onSome_canon _ (fun c h => ?_)
  match nextRecv s c with
  | none => rfl
  | some recv =>
    refine holds_ite rfl ?_
    match failsAs s c recv row cause with
    | none => rfl
    | some _ =>
      exact copyStarves_canon (failDelivery_canon (holds_ite (putPrefix_canon (touchPages_canon hs ..) ..)
        (putChosen_canon (touchPages_canon hs ..) ..)) ..) ..

theorem tagWait_canon (i h f all) :
    outcomeCanon (tagWait i h f all s) = true := by
  unfold tagWait
  refine wideOp_canon hs _ _ (fun g => ?_)
  extract_lets _ _
  match teamOf s g.team with
  | none => rfl
  | some _ => exact holds_ite hs (holds_ite hs (holds_ite hs (holds_ite (orConv_canon hs ..) hs)))

theorem execTagff_canon (h f) :
    outcomeCanon (execTagff h f s) = true := by
  unfold execTagff
  refine wideOp_canon hs _ _ (fun g => ?_)
  extract_lets _
  match teamOf s g.team with
  | none => rfl
  | some _ =>
    dsimp only
    generalize lowest _ = r
    match r with
    | none => exact hs
    | some _ => exact holds_ite hs hs

theorem execTagclr_canon (h f) :
    outcomeCanon (execTagclr h f s) = true := by
  unfold execTagclr
  exact wideOp_canon hs _ _ (fun _ => onTeam_frame hs)

theorem execTagrd_canon (h f) :
    outcomeCanon (execTagrd h f s) = true := by
  unfold execTagrd
  refine wideOp_canon hs _ _ (fun g => ?_)
  match teamOf s g.team with
  | none => rfl
  | some _ => exact holds_ite hs hs

theorem execCopyPlanIssue_canon (team) :
    outcomeCanon (execCopyPlanIssue team s) = true := by
  unfold execCopyPlanIssue
  refine onSome_canon _ (fun t h => ?_)
  generalize Option.bind _ _ = r
  match r with
  | none => rfl
  | some x =>
    refine holds_ite rfl ?_
    extract_lets who _
    match checkCopy s who 0 x.2.2 x.1 none none, checkCopy_canon hs who 0 x.2.2 x.1 none none with
    | (_, .error none), h1 => exact h1
    | (_, .error (some _)), h1 => exact finishCopy_canon (onTeam_frame h1) _
    | (_, .ok _), h1 => exact holds_ite rfl (onTeam_frame (takeTag_canon (by exact h1) _))

end

/-! ### Operations of Machine/Strm -/

section
variable {s : State} (hs : s.canon = true)
include hs

theorem putSlot_canon (core n x) : (putSlot s core n x).canon = true := hs

theorem genRead_canon (core w va n) :
    (genRead s core w va n).1.canon = true := by
  unfold genRead
  match targetOf va with
  | .own _ => exact fst_ite hs hs
  | .peer .. | .reg .. | .bad => exact hs
  | .xlat =>
    refine fst_ite hs ?_
    generalize hr : Machine.translate s w.cluster (some core) w.ctx va Acc.rd = r
    have h : r.1.canon = true := hr ▸ Proofs.translate_canon hs ..
    clear hr
    match r with
    | (_, .error _) => exact h
    | (s1, .ok ph) =>
      refine fst_ite h ?_
      extract_lets k
      match l1Find s1 k (ph.pa / 128) with
      | none => exact fst_ite h (fst_ite h h)
      | some _ => exact h

theorem genPlace_canon (core w va n) :
    (genPlace s core w va n).1.canon = true := by
  unfold genPlace
  match targetOf va with
  | .own _ =>
    refine fst_ite hs ?_
    match teamOf s w.team with
    | none | some _ => exact hs
  | .peer .. | .reg .. | .bad => exact hs
  | .xlat =>
    refine fst_ite hs ?_
    generalize hr : Machine.translate s w.cluster (some core) w.ctx va Acc.wr = r
    have h : r.1.canon = true := hr ▸ Proofs.translate_canon hs ..
    clear hr
    match r with
    | (_, .error _) | (_, .ok _) => exact h

theorem genWrite_canon (core w va bs) :
    okAll State.canon (genWrite s core w va bs) = true := by
  unfold genWrite
  extract_lets _
  match genPlace s core w va bs.length, genPlace_canon hs core w va bs.length with
  | (_, .error _), _ | (_, .ok (.reg ..)), _ => rfl
  | (_, .ok (.pad ..)), h => exact onTeam_canon h (fun _ h1 => memPut_wf _ _ h1) _
  | (_, .ok (.dev ph)), h =>
    dsimp only
    match ph.dev with
    | none =>
      refine holds_ite rfl (storeHome_canon (foldl_canon (fun s2 c h1 => ?_) _ h) ..)
      refine foldl_canon (fun s3 k h2 => ?_) _ h1
      exact h2
    | some _ => exact holds_ite rfl (sendRemote_canon (by exact h) ..)

theorem strmAddr_canon (core w recd n) :
    (strmAddr s core w recd n).1.canon = true := by
  unfold strmAddr
  extract_lets _ _
  split
  · exact hs
  · generalize hr : genRead _ _ _ _ _ = r1
    have h : r1.1.canon = true := hr ▸ genRead_canon hs ..
    clear hr
    match r1 with
    | (_, .error _) | (_, .ok _) => exact h

theorem freeSlot_canon (core n) : (freeSlot s core n).canon = true := hs

theorem execStreamElement_canon (core slot) :
    outcomeCanon (execStreamElement core slot s) = true := by
  unfold execStreamElement
  extract_lets x n w
  refine holds_ite rfl ?_
  match strmAddr s core w x.recd x.moved, strmAddr_canon hs core w x.recd x.moved with
  | (_, .error (.fault ..)), h => exact h
  | (_, .error (.need ..)), _ | (_, .error .wait), _ => rfl
  | (s1, .ok c), h =>
    refine holds_ite rfl (holds_ite ?_ (holds_ite rfl ?_))
    · match x.fifo with
      | [] => rfl
      | e :: _ =>
        dsimp only
        match genWrite s1 core w c e, genWrite_canon h core w c e with
        | .error (.fault ..), _ => exact h
        | .error (.need ..), _ | .error .wait, _ => rfl
        | .ok _, h1 => exact h1
    · match genRead s1 core w c n, genRead_canon h core w c n with
      | (_, .error (.fault ..)), h1 | (_, .ok _), h1 => exact h1
      | (_, .error (.need ..)), _ | (_, .error .wait), _ => rfl

theorem execStrmset_canon (h f) :
    outcomeCanon (execStrmset h f s) = true := by
  unfold execStrmset
  refine wideOp_canon hs _ _ (fun g => holds_ite hs (holds_ite hs ?_))
  generalize hr : groupRead s g (va57 (g.s.getD f.sdesc.toNat 0)) 64 = r
  have h1 : r.1.canon = true := hr ▸ groupRead_canon hs ..
  clear hr
  match r with
  | (_, .error none) | (_, .error (some _)) => exact h1
  | (_, .ok _) => exact holds_ite h1 h1

theorem execStrmgo_canon (h f) :
    outcomeCanon (execStrmgo h f s) = true := by
  unfold execStrmgo
  exact wideOp_canon hs _ _ (fun _ => holds_ite hs (holds_ite rfl hs))

theorem execStrmend_canon (h f) :
    outcomeCanon (execStrmend h f s) = true := by
  unfold execStrmend
  exact wideOp_canon hs _ _ (fun _ => holds_ite hs (holds_ite hs hs))

theorem pushCheck_canon (core slot x) :
    (pushCheck s core slot x).1.canon = true := by
  unfold pushCheck
  extract_lets w
  match strmAddr s core w x.recd x.done, strmAddr_canon hs core w x.recd x.done with
  | (_, .error _), h => exact h
  | (_, .ok _), h => exact genPlace_canon h ..

theorem strmGo_canon (core slot gid reg push ts) : strmOutCanon (strmGo core slot gid reg push ts s) = true := by
  induction ts generalizing s with
  | nil => exact hs
  | cons t ts ih =>
    unfold strmGo
    extract_lets x
    match groupOf s gid with
    | none => exact hs
    | some _ =>
      refine holds_ite hs (holds_ite ?_ ?_)
      · match x.bad with
        | none =>
          refine holds_ite hs ?_
          match pushCheck s core slot x, pushCheck_canon hs core slot x with
          | (_, .error (.fault ..)), h | (_, .error (.need ..)), h | (_, .error .wait), h => exact h
          | (_, .ok _), h => exact ih (by exact h)
        | some _ => exact hs
      · match x.fifo with
        | [] =>
          match x.bad with
          | none | some _ => exact hs
        | _ :: _ => exact ih (by exact hs)

theorem strmOp_canon (i h f push) :
    outcomeCanon (strmOp i h f push s) = true := by
  unfold strmOp
  refine wideOp_canon hs _ _ (fun g => holds_ite hs ?_)
  generalize hr : strmGo _ _ _ _ _ _ _ = r
  have h1 : strmOutCanon r = true := hr ▸ strmGo_canon hs ..
  clear hr
  match r with
  | .all _ | .park .. | .fault .. => exact h1

theorem strmResume_canon (g slot push reg rest) :
    (strmResume s g slot push reg rest).all State.canon = true := by
  unfold strmResume
  extract_lets _
  refine holds_ite (wakeTrap_canon hs ..) ?_
  generalize hr : strmGo g.core slot g.id reg push (threads rest) s = r
  have h : strmOutCanon r = true := hr ▸ strmGo_canon hs ..
  clear hr
  match r with
  | .all _ => exact h
  | .park .. => exact holds_ite rfl h
  | .fault .. => exact wakeTrap_canon h ..

end

/-! ### Operations of Machine/Matrix -/

section
variable {s : State} (hs : s.canon = true)
include hs

theorem engOp_canon (i h) {k : Group → State → GOut} (hk : ∀ g, gOutCanon (k g s) = true) :
    outcomeCanon (engOp i h k s) = true := by
  refine wideOp_canon hs i h (fun g => ?_)
  split
  · split
    · exact hs
    · exact hk g
  · exact hk g

theorem grantRein_canon (c x) :
    (grantRein s c x).canon = true := by
  unfold grantRein
  extract_lets _ s2 _
  have h : s2.canon = true := by
    unfold s2
    refine foldl_canon (fun s3 n h => ?_) _ hs
    exact h
  clear_value s2
  exact holds_ite h h

theorem execReinGrant_canon (cluster) :
    outcomeCanon (execReinGrant cluster s) = true := by
  unfold execReinGrant
  refine holds_ite rfl ?_
  match reinNext s cluster with
  | none => rfl
  | some _ => exact grantRein_canon hs ..

theorem leaveRein_canon (c team) : (leaveRein s c team).canon = true := hs

theorem freeTeamEnt_canon (c team) :
    (freeTeamEnt s c team).canon = true := by
  unfold freeTeamEnt
  extract_lets _
  exact onEng_canon (holds_ite (leaveRein_canon hs ..) hs) ..

theorem saveWords_canon (t c off n) :
    (saveWords s t c off n).all (fun x => x.1.canon) = true := by
  unfold saveWords
  generalize hr : getVA s c t.ctx (BitVec.toNat t.save + off) (4 * n) = r
  have h : Option.all (fun x => x.1.canon) r = true := hr ▸ getVA_canon hs ..
  clear hr
  match r with
  | none => rfl
  | some _ => exact h

theorem loadTiles_canon (c t mask) :
    (loadTiles s c t mask).canon = true := by
  unfold loadTiles
  extract_lets s1
  have h : s1.canon = true := by
    unfold s1
    refine foldl_canon (fun s2 j h => ?_) _ hs
    match saveWords s2 t c (16384 + 4096 * j) 1024, saveWords_canon h t c (16384 + 4096 * j) 1024 with
    | none, _ => exact h
    | some _, h1 => exact h1
  clear_value s1
  refine foldl_canon (fun s2 j h1 => ?_) _ h
  match saveWords s2 t c (147456 + 4352 * j) 1088, saveWords_canon h1 t c (147456 + 4352 * j) 1088 with
  | none, _ => exact h1
  | some _, h2 => exact h2

theorem execTileAcquire_canon (cluster entry) :
    outcomeCanon (execTileAcquire cluster entry s) = true := by
  unfold execTileAcquire
  refine onSome_canon _ (fun r h => holds_ite rfl ?_)
  extract_lets s1
  match (if r.restore = 0 then none else teamOf s1 r.team) with
  | none => exact hs
  | some _ => exact loadTiles_canon (by exact hs) ..

theorem execMreq_canon (h f) :
    outcomeCanon (execMreq h f s) = true := by
  unfold execMreq
  exact wideOp_canon hs _ _ (fun _ => holds_ite hs (holds_ite hs (holds_ite (onTeam_frame hs) (onTeam_frame hs))))

theorem execReinget_canon (h f) :
    outcomeCanon (execReinget h f s) = true := by
  unfold execReinget
  refine engOp_canon hs _ _ (fun g => ?_)
  match entOf (engOf s g.cluster) g.team with
  | none => exact hs
  | some _ => exact holds_ite hs hs

theorem execReinpass_canon (h f) :
    outcomeCanon (execReinpass h f s) = true := by
  unfold execReinpass
  refine engOp_canon hs _ _ (fun g => ?_)
  match needRein s g [] with
  | none =>
    match entOf (engOf s g.cluster) g.team with
    | none => exact hs
    | some r1 =>
      dsimp only
      match reinRotate (leaveRein s g.cluster g.team) g.cluster r1 with
      | none => exact hs
      | some _ => exact grantRein_canon (by exact hs) ..
  | some _ => exact hs

theorem execReinrel_canon (h f) :
    outcomeCanon (execReinrel h f s) = true := by
  unfold execReinrel
  exact engOp_canon hs _ _ (fun _ => holds_ite hs (holds_ite (freeTeamEnt_canon (holds_ite (leaveRein_canon hs ..) hs) ..)
    (setGroup_canon (holds_ite (leaveRein_canon hs ..) hs) _)))

theorem execReinrelKeep_canon (h f) :
    outcomeCanon (execReinrelKeep h f s) = true := by
  unfold execReinrelKeep
  refine engOp_canon hs _ _ (fun g => holds_ite hs ?_)
  match needRein s g [] with
  | none | some _ => exact hs

theorem execHfeed_canon (h f) :
    outcomeCanon (execHfeed h f s) = true := by
  unfold execHfeed
  exact engOp_canon hs _ _ (fun _ => holds_ite hs hs)

theorem execHfeedAppend_canon (gid) :
    outcomeCanon (execHfeedAppend gid s) = true := by
  unfold execHfeedAppend
  refine onSome_canon _ (fun g h => ?_)
  match g.park with
  | none => rfl
  | some p =>
    cases p with
    | hfeed => exact holds_ite hs rfl
    | _ => rfl

theorem submit_canon (g key k) : gOutCanon (submit s g key k) = true := by
  unfold submit
  exact holds_ite hs hs

theorem command_canon (bad g k) :
    gOutCanon (command bad g s k) = true := by
  unfold command
  match bad with
  | none => exact submit_canon (by exact hs) ..
  | some _ => exact hs

theorem commandLL_canon (bad i h g k) :
    gOutCanon (commandLL bad i h g s k) = true := by
  unfold commandLL
  match bad with
  | none => exact holds_ite rfl (submit_canon (by exact hs) ..)
  | some _ => exact hs

theorem enterPend_canon (c) :
    (enterPend s c).all State.canon = true := by
  unfold enterPend
  extract_lets e
  match e.pend with
  | [] => rfl
  | e1 :: _ =>
    refine holds_ite rfl ?_
    extract_lets s1
    match groupOf s1 e1.gid with
    | none => exact hs
    | some _ => exact holds_ite (wake_canon (onEng_canon hs ..) _) (onEng_canon hs ..)

theorem execHdrain_canon (h f) :
    outcomeCanon (execHdrain h f s) = true := by
  unfold execHdrain
  exact engOp_canon hs _ _ (fun _ => commandLL_canon hs ..)

theorem execMma_canon (h f) :
    outcomeCanon (execMma h f s) = true := by
  unfold execMma
  exact engOp_canon hs _ _ (fun _ => command_canon hs ..)

theorem execZzero_canon (h f) :
    outcomeCanon (execZzero h f s) = true := by
  unfold execZzero
  exact engOp_canon hs _ _ (fun _ => command_canon hs ..)

theorem execZscale_canon (h f) :
    outcomeCanon (execZscale h f s) = true := by
  unfold execZscale
  exact engOp_canon hs _ _ (fun _ => command_canon hs ..)

theorem execZadd_canon (h f) :
    outcomeCanon (execZadd h f s) = true := by
  unfold execZadd
  exact engOp_canon hs _ _ (fun _ => command_canon hs ..)

theorem execZcvt_canon (h f) :
    outcomeCanon (execZcvt h f s) = true := by
  unfold execZcvt
  exact engOp_canon hs _ _ (fun _ => command_canon hs ..)

theorem rowPieces_canon (g addr e acc) :
    (rowPieces s g addr e acc).1.canon = true := by
  unfold rowPieces
  extract_lets va _ bad _
  match targetOf va with
  | .own _ =>
    match teamOf s g.team with
    | none | some _ => exact hs
  | .peer idx _ =>
    dsimp only
    match peerTeam s g.team idx with
    | none | some _ => exact hs
  | .reg .. | .bad => exact hs
  | .xlat =>
    refine fst_ite hs ?_
    generalize hr : Machine.translate s g.cluster (some g.core) g.ctx va acc = r
    have h : r.1.canon = true := hr ▸ Proofs.translate_canon hs ..
    clear hr
    match r with
    | (_, .error _) => exact h
    | (_, .ok _) =>
      refine fst_ite h ?_
      generalize hr : Machine.translate _ _ _ _ _ _ = r
      have h1 : r.1.canon = true := hr ▸ Proofs.translate_canon h ..
      clear hr
      match r with
      | (_, .error _) | (_, .ok _) => exact h1

theorem tileRows_canon (g base pitch e acc n r) : (tileRows g base pitch e acc n r s).1.canon = true := by
  induction n generalizing s r with
  | zero => exact hs
  | succ n ih =>
    unfold tileRows
    generalize hr : rowPieces s g (base + BitVec.ofNat 64 r * pitch) e acc = r1
    have h : r1.1.canon = true := hr ▸ rowPieces_canon hs ..
    clear hr
    match r1 with
    | (_, .error _) => exact h
    | (s1, .ok _) =>
      dsimp only
      match tileRows g base pitch e acc n (r + 1) s1, ih h (r + 1) with
      | (_, .error _), h1 | (_, .ok _), h1 => exact h1

theorem zRows_canon (g f acc) : (zRows s g f acc).1.canon = true := by
  unfold zRows
  exact tileRows_canon hs ..

theorem execZld_canon (h f) :
    outcomeCanon (execZld h f s) = true := by
  unfold execZld
  refine engOp_canon hs _ _ (fun g => ?_)
  match needRein s g [f.z.toNat] with
  | none =>
    match zRows s g f Acc.rd, zRows_canon hs g f Acc.rd with
    | (_, .error _), h1 => exact h1
    | (_, .ok _), h1 => exact holds_ite rfl (commandLL_canon h1 ..)
  | some _ => exact hs

theorem execZst_canon (h f) :
    outcomeCanon (execZst h f s) = true := by
  unfold execZst
  refine engOp_canon hs _ _ (fun g => ?_)
  match needSpan s g f.z.toNat with
  | none =>
    match zRows s g f Acc.wr, zRows_canon hs g f Acc.wr with
    | (_, .error _), h1 => exact h1
    | (_, .ok _), h1 => exact submit_canon (canon_with h1) ..
  | some _ => exact hs

theorem execOsbind_canon (h f) :
    outcomeCanon (execOsbind h f s) = true := by
  unfold execOsbind
  exact engOp_canon hs _ _ (fun _ => command_canon hs ..)

theorem execOsflush_canon (h f) :
    outcomeCanon (execOsflush h f s) = true := by
  unfold execOsflush
  exact engOp_canon hs _ _ (fun _ => command_canon hs ..)

theorem execPassStart_canon (cluster) :
    outcomeCanon (execPassStart cluster s) = true := by
  unfold execPassStart
  extract_lets e
  match headCmd e with
  | none => rfl
  | some _ => exact holds_ite hs rfl

theorem writeAt_canon (c cluster p bs) :
    (writeAt s c cluster p bs).canon = true := by
  unfold writeAt
  match p.at_ with
  | .pad .. => exact onTeam_canon hs (fun _ h => memPut_wf _ _ h) _
  | .mem none _ _ => exact agentWrite_canon hs ..
  | .mem (some _) _ _ => exact sendLines_canon hs ..

theorem writeRow_canon (c cluster ps bs) : (writeRow c cluster ps bs s).canon = true := by
  induction ps generalizing s bs with
  | nil => exact hs
  | cons p ps ih => exact ih (writeAt_canon hs ..) _

theorem zldRow_canon (c cluster ty ps) :
    (zldRow s c cluster ty ps).1.canon = true := by
  unfold zldRow
  match readRow s c.key cluster ps with
  | .error _ | .ok _ => exact hs

theorem runZld_canon (cluster c z ty rows) : (runZld s cluster c z ty rows).1.canon = true := by
  unfold runZld
  refine List.foldlRecOn (motive := fun a : State × ECmd × List W32 => a.1.canon = true) rows _ hs (fun a ha ps _ => ?_)
  exact zldRow_canon ha ..

theorem runZst_canon (cluster c z ty rows) : (runZst s cluster c z ty rows).1.canon = true := by
  unfold runZst
  refine List.foldlRecOn (motive := fun a : State × Flags => a.1.canon = true) rows.zipIdx _ hs (fun a ha x _ => ?_)
  exact writeRow_canon ha ..

theorem failStreams_canon (cluster p cause) :
    (failStreams s cluster p cause).canon = true := by
  unfold failStreams
  exact foldl_canon (fun _ _ h => failCopy_canon h ..) _ hs

theorem discardStream_canon (cluster n) :
    (discardStream s cluster n).canon = true := by
  unfold discardStream
  exact onEng_canon (failStreams_canon hs ..) ..

theorem bindStream_canon (cluster n b span) :
    (bindStream s cluster n b span).canon = true := by
  unfold bindStream
  exact discardStream_canon hs ..

theorem giveLL_canon (gid key vec) : (giveLL s gid key vec).canon = true := hs

theorem checkRuns_canon (chk) : (checkRuns s chk).1.canon = true := by
  unfold checkRuns
  exact fst_ite hs hs

theorem runMma_canon (cluster c z ty k m acc keep chk mix) :
    (runMma s cluster c z ty k m acc keep chk mix).1.canon = true := by
  unfold runMma
  exact checkRuns_canon hs _

theorem runTile_canon (cluster c) :
    (runTile s cluster c).1.canon = true := by
  unfold runTile
  extract_lets _
  match c.kind with
  | .mma .. => exact runMma_canon hs ..
  | .zzero _ | .zscale .. | .zadd .. | .zcvt .. | .hdrain .. | .desc .. | .dstep .. | .ascend .. | .qrd .. | .qwr .. =>
    exact hs
  | .zld .. => exact giveLL_canon (runZld_canon hs ..) ..
  | .zst .. => exact runZst_canon hs ..
  | .osbind .. => exact bindStream_canon hs ..
  | .osflush _ => exact discardStream_canon hs ..
  | .unbind => exact onEng_canon (foldl_canon (fun _ _ h => bindStream_canon h ..) _ hs) ..

theorem cmdReport_canon (cluster c) :
    (cmdReport s cluster c).canon = true := by
  unfold cmdReport
  match groupOf s c.gid with
  | none =>
    match c.fail with
    | none => exact hs
    | some _ => exact faultRecord_canon hs ..
  | some _ =>
    refine holds_ite ?_ (holds_ite ?_ hs)
    · match c.fail with
      | none => exact hs
      | some _ => exact faultRecord_canon hs ..
    · generalize hr : getVA _ _ _ _ _ = r
      have h : Option.all (fun x => x.1.canon) r = true := hr ▸ getVA_canon (by exact hs) ..
      clear hr
      match r with
      | none => exact hs
      | some _ => exact getD_canon (putVA_canon h ..) h

theorem execMwait_canon (h f) :
    outcomeCanon (execMwait h f s) = true := by
  unfold execMwait
  refine engOp_canon hs _ _ (fun g => holds_ite ?_ hs)
  match mwaitEnd g with
  | (_, none) | (_, some _) => exact hs

theorem execMstat_canon (h f) :
    outcomeCanon (execMstat h f s) = true := by
  unfold execMstat
  exact engOp_canon hs _ _ (fun _ => holds_ite hs (holds_ite hs (holds_ite hs (holds_ite (onEng_canon (setGroup_canon hs
    _) ..) (setGroup_canon hs _)))))

theorem execMreset_canon (h f) :
    outcomeCanon (execMreset h f s) = true := by
  unfold execMreset
  exact engOp_canon hs _ _ (fun _ => holds_ite hs (holds_ite hs hs))

theorem resetStep1_canon (cluster) :
    (resetStep1 s cluster).canon = true := by
  unfold resetStep1
  extract_lets _ s1 _ _
  have h : s1.canon = true := by
    unfold s1
    refine foldl_canon (fun s3 c h => ?_) _ hs
    cases c.kind <;> exact h
  clear_value s1
  exact failStreams_canon (canon_with h) ..

theorem resetGroup_canon (affected g) :
    (resetGroup affected s g).canon = true := by
  unfold resetGroup
  extract_lets _
  match g.park with
  | none => exact hs
  | some p =>
    cases p with
    | reinget => exact holds_ite (wakeTrap_canon hs ..) hs
    | mwait => exact holds_ite (wakeTrap_canon (by exact hs) ..) hs
    | _ => exact hs

theorem resetEngine_canon (cluster) :
    (resetEngine s cluster).canon = true := by
  unfold resetEngine
  extract_lets _ _ s2 _ _
  have h : s2.canon = true := by
    unfold s2
    refine foldl_canon (fun s5 t h => ?_) _ (resetStep1_canon hs _)
    exact h
  clear_value s2
  refine foldl_canon (fun _ _ h1 => resetGroup_canon h1 ..) _ (foldl_canon (fun s6 t h2 => ?_) _ h)
  extract_lets s5
  refine holds_ite (onTeam_frame h2) ?_
  match teamOf s5 t with
  | none => exact onTeam_frame h2
  | some _ => exact faultRecord_canon (onTeam_frame h2) ..

theorem execEngineResetComplete_canon (cluster) :
    outcomeCanon (execEngineResetComplete cluster s) = true := by
  unfold execEngineResetComplete
  extract_lets _
  refine holds_ite rfl (foldl_canon (fun s1 n h => ?_) _ (resetEngine_canon hs _))
  exact h

end

/-! ### Operations of Machine/Descent -/

section
variable {s : State} (hs : s.canon = true)
include hs

theorem readTree_canon (w launch core own va) :
    (readTree s w launch core own va).1.canon = true := by
  unfold readTree
  extract_lets _
  refine fst_ite hs ?_
  match recRead s w launch core own va 64, recRead_canon hs w launch core own va 64 false with
  | (_, .error _), h => exact h
  | (_, .ok _), h =>
    refine fst_ite h ?_
    extract_lets _ _
    generalize Option.or _ _ = r
    match r with
    | none | some _ => exact h

theorem execTreebind_canon (h f) :
    outcomeCanon (execTreebind h f s) = true := by
  unfold execTreebind
  exact engOp_canon hs _ _ (fun _ => holds_ite hs hs)

theorem settleTreebind_canon (g va) :
    (settleTreebind s g va).all State.canon = true := by
  unfold settleTreebind
  refine holds_ite (wakeTrap_canon hs ..) ?_
  generalize hr : readTree s g.who g.launch g.core (ownReqs g) va = r
  have h : r.1.canon = true := hr ▸ readTree_canon hs ..
  clear hr
  match r with
  | (_, .error none) => exact holds_ite rfl h
  | (_, .error (some _)) => exact wakeTrap_canon h ..
  | (_, .ok _) => exact h

theorem execNaddr_canon (h f) :
    outcomeCanon (execNaddr h f s) = true := by
  unfold execNaddr
  exact engOp_canon hs _ _ (fun _ => hs)

theorem execRegrp_canon (h f) :
    outcomeCanon (execRegrp h f s) = true := by
  unfold execRegrp
  refine engOp_canon hs _ _ (fun g => ?_)
  extract_lets _ n l
  match ownRange s g (g.a.getD (xb f 0 4) 0) (4 * n) with
  | .error _ => exact hs
  | .ok _ =>
    match ownRange s g (g.a.getD (xb f 4 4) 0) (4 * (2 * l + n)) with
    | .error _ => exact hs
    | .ok _ => exact holds_ite hs (holds_ite hs hs)

theorem execRegrpComplete_canon (gid) :
    outcomeCanon (execRegrpComplete gid s) = true := by
  unfold execRegrpComplete
  refine onSome_canon _ (fun g h => ?_)
  match g.park with
  | none => rfl
  | some p =>
    cases p with
    | regrp => exact holds_ite rfl (holds_ite (wakeTrap_canon hs ..) (onTeam_canon hs (fun _ h1 => memPut_wf _ _ h1) _))
    | _ => rfl

theorem execQrd_canon (h f) :
    outcomeCanon (execQrd h f s) = true := by
  unfold execQrd
  exact engOp_canon hs _ _ (fun _ => holds_ite hs (holds_ite rfl hs))

theorem execQwr_canon (h f) :
    outcomeCanon (execQwr h f s) = true := by
  unfold execQwr
  exact engOp_canon hs _ _ (fun _ => holds_ite hs (holds_ite hs hs))

theorem execDesc_canon (h f) :
    outcomeCanon (execDesc h f s) = true := by
  unfold execDesc
  refine engOp_canon hs _ _ (fun g => ?_)
  extract_lets sp m
  match descCheck s g f false (if sp = true then none else some f.z.toNat) with
  | .error _ => exact hs
  | .ok _ =>
    refine holds_ite hs (holds_ite ?_ (command_canon hs ..))
    match ownRange s g (g.a.getD (xb f 14 4) 0) (4 * m) with
    | .error _ => exact hs
    | .ok _ => exact command_canon hs ..

theorem execDstep_canon (h f) :
    outcomeCanon (execDstep h f s) = true := by
  unfold execDstep
  refine engOp_canon hs _ _ (fun g => ?_)
  match descCheck s g f false none with
  | .error _ => exact hs
  | .ok _ => exact command_canon hs ..

theorem execAscend_canon (h f) :
    outcomeCanon (execAscend h f s) = true := by
  unfold execAscend
  refine engOp_canon hs _ _ (fun g => ?_)
  match descCheck s g f true none with
  | .error _ => exact hs
  | .ok _ =>
    dsimp only
    generalize Option.or _ _ = r
    match r with
    | none => exact command_canon hs ..
    | some _ => exact hs

theorem nodeBytes_canon (cluster c va n) :
    (nodeBytes s cluster c va n).1.canon = true := by
  unfold nodeBytes
  extract_lets s1
  match readBytes s1 (cmdWho c cluster) va n with
  | .error _ => exact foldl_canon (fun _ _ h => Proofs.translate_canon h ..) _ hs
  | .ok _ =>
    generalize List.find? _ _ = r
    match r with
    | none => exact foldl_canon (fun _ _ h => Proofs.translate_canon h ..) _ hs
    | some _ =>
      exact fst_ite (foldl_canon (fun _ _ h => Proofs.translate_canon h ..) _ hs) (foldl_canon (fun _ _ h =>
        Proofs.translate_canon h ..) _ hs)

theorem rowStep_canon (cluster c t x recd) :
    (rowStep s cluster c t x recd).1.canon = true := by
  unfold rowStep
  extract_lets n
  generalize hr : nodeBytes s cluster c (t.nodes + n * t.stride) (rowBytes t.ty t.k) = r
  have h : r.1.canon = true := hr ▸ nodeBytes_canon hs ..
  clear hr
  match r with
  | (_, .error _) => exact h
  | (s1, .ok _) =>
    dsimp only
    match nodeBytes s1 cluster c (t.bias + 4 * n) 4, nodeBytes_canon h cluster c (t.bias + 4 * n) 4 with
    | (_, .error _), h1 | (_, .ok _), h1 => exact h1

omit hs in
theorem walkRows_canon {a : Walk} (ha : a.s.canon = true) (cluster c t xs rows) :
    (walkRows cluster c t xs rows a).s.canon = true := by
  unfold walkRows
  refine List.foldlRecOn (motive := fun a : Walk => a.s.canon = true) rows _ ha (fun a ha r _ => ?_)
  generalize hr : rowStep a.s cluster c t (xs.getD r []) (recOf a.q r) = r1
  have h : r1.1.canon = true := hr ▸ rowStep_canon ha ..
  clear hr
  match r1 with
  | (_, .error _) | (_, .ok _) => exact h

omit hs in
theorem walkLevel_canon {a : Walk} (ha : a.s.canon = true) (cluster c t xs rows) :
    (walkLevel cluster c t xs rows a).s.canon = true := by
  unfold walkLevel
  refine List.foldlRecOn (motive := fun a : Walk => a.s.canon = true) _ _ ha (fun a ha nodes _ => ?_)
  exact walkRows_canon ha ..

theorem runDesc_canon (cluster c z q mask t) : (runDesc s cluster c z q mask t).1.canon = true := by
  unfold runDesc
  extract_lets old xs rows a leaf tile
  have ha : a.s.canon = true :=
    List.foldlRecOn (motive := fun a : Walk => a.s.canon = true) _ _ hs (fun a ha _ _ => walkLevel_canon ha ..)
  clear_value a
  have ht : ∀ s mine, s.canon = true → (tile s mine).canon = true := fun s mine hs => by
    unfold tile
    split <;> exact hs
  split
  · exact ht _ _ (canon_with ha)
  · exact ht _ _ ha

theorem runDstep_canon (cluster c q mask root t) :
    (runDstep s cluster c q mask root t).1.canon = true := by
  unfold runDstep
  extract_lets _ _ _ _ bad _ a
  match a.bad with
  | none | some _ => exact walkLevel_canon hs ..

theorem runCmd_canon (cluster c) :
    (runCmd s cluster c).1.canon = true := by
  unfold runCmd
  cases c.kind with
  | desc => exact runDesc_canon hs ..
  | dstep => exact runDstep_canon hs ..
  | ascend => exact hs
  | _ => exact runTile_canon hs ..

theorem runQ_canon (cluster c) :
    (runQ s cluster c).canon = true := by
  unfold runQ
  extract_lets _
  cases c.kind with
  | qwr =>
    dsimp only
    generalize groupOf _ _ = r
    match r with
    | none => exact hs
    | some _ => exact holds_ite hs hs
  | _ => exact hs

theorem execEngineCommand_canon (cluster) :
    outcomeCanon (execEngineCommand cluster s) = true := by
  unfold execEngineCommand
  extract_lets e
  match qReady e with
  | none =>
    match headCmd e with
    | none => rfl
    | some _ => exact holds_ite (runCmd_canon hs ..) rfl
  | some _ => exact runQ_canon hs ..

theorem gradAt_canon (cluster c va g x) :
    (gradAt s cluster c va g x).all (fun o => o.all State.canon) = true := by
  unfold gradAt
  generalize hr : Machine.translate s cluster none c.ctx va Acc.wr = r
  have h : r.1.canon = true := hr ▸ Proofs.translate_canon hs ..
  clear hr
  match r with
  | (_, .error _) => rfl
  | (_, .ok ph) =>
    dsimp only
    match ph.dev with
    | none => exact holds_ite rfl (holds_ite rfl (agentWrite_canon (by exact h) ..))
    | some _ => exact holds_ite rfl (sendRemote_canon (by exact h) ..)

theorem execAscendUpdate_canon (cluster) :
    outcomeCanon (execAscendUpdate cluster s) = true := by
  unfold execAscendUpdate
  extract_lets e
  match headCmd e with
  | none => rfl
  | some c =>
    dsimp only
    cases c.kind with
    | ascend =>
      match c.todo with
      | [] => rfl
      | _ :: _ =>
        dsimp only
        generalize hr : gradAt _ _ _ _ _ _ = r
        have h : Option.all (fun o => Option.all State.canon o) r = true := hr ▸ gradAt_canon hs ..
        clear hr
        match r with
        | none => rfl
        | some none => exact hs
        | some (some _) => exact h
    | _ => rfl

theorem retireSp_canon (c) :
    (retireSp s c).canon = true := by
  unfold retireSp
  cases c.kind with
  | desc _ _ _ _ _ sp =>
    match sp with
    | none => exact hs
    | some _ => exact onTeam_canon (snd_ite hs hs) (fun _ h => memPut_wf _ _ h) _
  | _ => exact hs

theorem execCommandRetire_canon (cluster) :
    outcomeCanon (execCommandRetire cluster s) = true := by
  unfold execCommandRetire
  match headCmd (engOf s cluster) with
  | none => rfl
  | some _ =>
    exact holds_ite rfl (holds_ite (onEng_canon (canon_with (retireSp_canon hs _)) ..) (cmdReport_canon (onEng_canon
      (canon_with (retireSp_canon hs _)) ..) ..))

end

/-! ### Operations of Machine/Spawn -/

section
variable {s : State} (hs : s.canon = true)
include hs

theorem launchBin_canon (cluster b) :
    (launchBin s cluster b).canon = true := by
  unfold launchBin
  extract_lets s1
  match teamOf s1 b.owner with
  | none => exact hs
  | some _ =>
    match launchOf s1 b.launch with
    | none | some _ => exact hs

theorem launchBins_canon (cluster p) :
    (launchBins s cluster p).canon = true := by
  unfold launchBins
  refine foldl_canon (fun s1 n h => ?_) _ hs
  generalize List.find? _ _ = r
  match r with
  | none => exact h
  | some _ => exact holds_ite (launchBin_canon h ..) h

theorem appendBin_canon (g b pay) :
    (appendBin s g b pay).canon = true := by
  unfold appendBin
  exact holds_ite (launchBin_canon (by exact hs) ..) hs

theorem deposit_canon (g entry p timer n t) :
    (deposit s g entry p timer n t).all State.canon = true := by
  unfold deposit
  extract_lets _ _ _
  generalize List.find? _ _ = r
  match r with
  | none =>
    match freeBin s g.cluster with
    | none => exact holds_ite rfl (all_map (fun _ _ => appendBin_canon (launchBin_canon hs ..) ..))
    | some _ => exact appendBin_canon hs ..
  | some _ => exact appendBin_canon hs ..

theorem deposits_canon (g entry p timer ts n) : (deposits g entry p timer ts n s).1.canon = true := by
  induction ts generalizing s n with
  | nil => exact hs
  | cons t ts ih =>
    unfold deposits
    match deposit s g entry p timer n t, deposit_canon hs g entry p timer n t with
    | none, _ => exact hs
    | some _, h => exact ih h _

theorem spawnFrom_canon (g entry p timer ts) :
    (spawnFrom s g entry p timer ts).canon = true := by
  unfold spawnFrom
  match deposits g entry p timer ts 0 s, deposits_canon hs g entry p timer ts 0 with
  | (_, []), h | (_, _ :: _), h => exact h

theorem execSpawn_canon (h f) :
    outcomeCanon (execSpawn h f s) = true := by
  unfold execSpawn
  refine runInstr_canon hs _ (fun g => holds_ite hs (holds_ite hs ?_))
  generalize hr : Machine.translate _ _ _ _ _ _ = r
  have h1 : r.1.canon = true := hr ▸ Proofs.translate_canon hs ..
  clear hr
  match r with
  | (_, .error _) => exact h1
  | (_, .ok _) => exact spawnFrom_canon h1 ..

theorem spawnResume_canon (g) :
    (spawnResume s g).all State.canon = true := by
  unfold spawnResume
  match g.park with
  | none => rfl
  | some p =>
    cases p with
    | spawn entry payload timer rest =>
      refine holds_ite rfl ?_
      generalize hr : deposits g entry payload timer (threads rest) 0 s = r
      have h : r.1.canon = true := hr ▸ deposits_canon hs ..
      clear hr
      match r with
      | (_, []) | (_, _ :: _) => exact h
    | _ => rfl

theorem binflOp_canon (i h p) :
    outcomeCanon (binflOp i h p s) = true := by
  unfold binflOp
  exact runInstr_canon hs _ (fun _ => holds_ite hs (holds_ite hs (launchBins_canon hs ..)))

theorem execBinTimerExpire_canon (cluster bin) :
    outcomeCanon (execBinTimerExpire cluster bin s) = true := by
  unfold execBinTimerExpire
  exact onSome_canon _ (fun _ _ => holds_ite (launchBin_canon hs ..) rfl)

end

/-! ### Operations of Machine/Life -/

section
variable {s : State} (hs : s.canon = true)
include hs

theorem putStatus_canon (l v) :
    (putStatus s l v).canon = true := by
  unfold putStatus
  match l.recPA with
  | none => exact hs
  | some _ =>
    match l.recDev with
    | none => exact canon_with_mem hs (memPut_wf _ _ (mem_wf hs))
    | some _ => exact sendBytes_canon hs ..

theorem finishLaunch_canon (l) :
    (finishLaunch s l).canon = true := by
  unfold finishLaunch
  exact raiseEvent_canon (compDec_canon (holds_ite hs (putStatus_canon hs ..)) ..) ..

theorem readPopped_canon (ctx e) : (readPopped s ctx e).1.canon = true := by
  unfold readPopped
  extract_lets va got
  have ht := Proofs.translate_canon hs 144 none ctx va .rd
  split <;> rename_i h <;> rw [h] at ht
  · exact ht
  · split
    · exact ht
    · exact ht
    · refine fst_ite ht ?_
      extract_lets s1
      have h1 : s1.canon = true := holds_ite ht (foldl_canon (fun _ _ h => Proofs.translate_canon h ..) _ ht)
      clear_value s1
      split
      · exact h1
      · exact h1

theorem headEntry_canon (ctx q e) :
    (headEntry s ctx q e).1.canon = true := by
  unfold headEntry
  exact fst_ite hs (Proofs.translate_canon hs ..)

theorem readHead_canon (ctx q e) :
    (readHead s ctx q e).1.canon = true := by
  unfold readHead
  match headEntry s ctx q e, headEntry_canon hs ctx q e with
  | (_, .error _), h => exact h
  | (_, .ok _), h => exact readPopped_canon h ..

theorem popLaunch_canon (ctx e x) :
    (popLaunch s ctx e x).canon = true := by
  unfold popLaunch
  extract_lets _ bad
  clear_value bad
  match bad with
  | none => exact holds_ite (putStatus_canon (canon_with hs) ..) (notify_canon (putStatus_canon (canon_with hs) ..) ..)
  | some _ =>
    exact holds_ite (faultRecord_canon (canon_with hs) ..) (finishLaunch_canon (faultRecord_canon (canon_with hs) ..) _)

theorem execLaunchPop_canon (ctx) : outcomeCanon (execLaunchPop ctx s) = true := by
  unfold execLaunchPop
  refine onSome_canon _ (fun c _ => onSome_canon _ (fun q _ => ?_))
  match queueHead s q with
  | none => rfl
  | some e =>
    refine holds_ite rfl ?_
    match readHead s ctx q e, readHead_canon hs ctx q e with
    | (s1, .error x1), h =>
      dsimp only
      generalize hr : askLine s1 (dispatchers ctx) none 1023 x1.1 x1.2 = r
      have h1 : Option.all State.canon r = true := hr ▸ askLine_canon h ..
      clear hr
      match r with
      | none => rfl
      | some _ => exact h1
    | (_, .ok _), h => exact popLaunch_canon (by exact compDec_canon (serveQueue_canon (putQueue_canon h _) _) ..) ..

theorem takeArea_canon (ctx align size) :
    (takeArea s ctx align size).all (fun x => x.2.canon) = true := by
  unfold takeArea
  exact all_map (fun _ _ => hs)

theorem takeSlot_canon (ctx) :
    (takeSlot s ctx).all (fun x => x.2.canon) = true := by
  unfold takeSlot
  match s.contexts[ctx]? with
  | none => rfl
  | some _ =>
    match ctxRec s ctx with
    | none => rfl
    | some _ =>
      dsimp only
      generalize List.find? _ _ = r
      match r with
      | none => rfl
      | some _ => exact hs

theorem reserve_canon (ctx width nregs) :
    (reserve s ctx width nregs).all (fun x => x.2.canon) = true := by
  unfold reserve
  generalize hr : takeArea s ctx (4 * width) (frameSize width nregs) = r
  have h : Option.all (fun x => x.2.canon) r = true := hr ▸ takeArea_canon hs ..
  clear hr
  match r with
  | none => rfl
  | some _ => exact all_map_of_all (takeSlot_canon h _) (fun _ h1 => h1)

theorem zeroFrame_canon (cluster ctx va len) : (zeroFrame s cluster ctx va len).all State.canon = true := by
  unfold zeroFrame
  refine foldl_bind_all (fun s p hs => ?_) _ hs
  match Machine.translate s cluster none ctx p Acc.wr, Proofs.translate_canon hs cluster none ctx p Acc.wr with
  | (_, .error _), _ => rfl
  | (_, .ok _), h => exact holds_ite rfl (canon_with_mem h (memClear_wf _ _ (mem_wf h)))

theorem startGroup_canon (g frame slot) :
    (startGroup s g frame slot).canon = true := by
  unfold startGroup
  extract_lets g1 s1
  generalize hr : zeroFrame s1 g1.cluster g1.ctx frame (frameSize g1.width g1.nregs) = r
  have h : Option.all State.canon r = true := hr ▸ zeroFrame_canon (by exact hs) ..
  clear hr
  match r with
  | none => exact stopGroup_canon (by exact hs) ..
  | some _ => exact h

theorem shrinkL1_canon (core old) : (shrinkL1 s core old).canon = true := by
  unfold shrinkL1
  exact holds_ite hs hs

theorem fuseL1_canon (cluster) :
    (fuseL1 s cluster).canon = true := by
  unfold fuseL1
  refine holds_ite hs (foldl_canon (fun s1 i h => ?_) _ hs)
  exact h

theorem readyCores_canon (t regions) :
    (readyCores s t regions).canon = true := by
  unfold readyCores
  extract_lets s1
  have h : s1.canon = true := by
    unfold s1
    refine foldl_canon (fun s2 i h => ?_) _ hs
    exact h
  clear_value s1
  refine foldl_canon (fun s2 k h1 => ?_) _ h
  exact h1

/-- A team starts with an empty scratchpad (06 R132). -/
theorem startTeam_canon (l index core save) : (startTeam s l index core save).1.canon = true := by
  unfold startTeam
  refine readyCores_canon (fuseL1_canon (shrinkL1_canon (canon_of_parts ?_ ?_) ..) ..) ..
  · exact @mem_wf s hs
  · exact padsWf_append_singleton (teams_wf hs) rfl

theorem placeTeam_canon (l) :
    (placeTeam s l).all State.canon = true := by
  unfold placeTeam
  generalize pickCore _ _ _ _ = r
  match r with
  | none => rfl
  | some _ =>
    generalize hr : takeArea s l.ctx 65536 (areaSize l.recd.scratch) = r
    have h : Option.all (fun x => x.2.canon) r = true := hr ▸ takeArea_canon hs ..
    clear hr
    match r with
    | none => rfl
    | some _ => exact startTeam_canon h ..

theorem execTeamPlace_canon (launch) :
    outcomeCanon (execTeamPlace launch s) = true := by
  unfold execTeamPlace
  refine onSome_canon _ (fun l h => holds_ite rfl ?_)
  match placeTeam s l, placeTeam_canon hs l with
  | none, _ => rfl
  | some _, h1 => exact h1

theorem createAll_canon (xs) : (createAll s xs).canon = true := by
  induction xs generalizing s with
  | nil => exact hs
  | cons x xs ih => exact ih (startGroup_canon hs ..)

theorem reserveSpan_canon (l xs) : (reserveSpan l xs s).all (fun x => x.1.canon) = true := by
  induction xs generalizing s with
  | nil => exact hs
  | cons x xs ih =>
    unfold reserveSpan
    have ha := takeArea_canon hs l.ctx 65536 (areaSize l.recd.scratch)
    split <;> rename_i h <;> rw [h] at ha
    · rfl
    · dsimp only
      split
      · rfl
      · rename_i s3 gs h3
        have hg : (some (s3, gs)).all (fun x : State × List (Group × Nat × Nat) => x.1.canon) = true := by
          rw [← h3]
          refine foldl_bind_all (p := fun x : State × List (Group × Nat × Nat) => x.1.canon) (fun y g hy => ?_) _ (startTeam_canon ha ..)
          exact all_map_of_all (reserve_canon hy ..) (fun _ hz => hz)
        exact all_map_of_all (ih hg) (fun _ hz => hz)

theorem placeSpan_canon (l) :
    (placeSpan s l).all State.canon = true := by
  unfold placeSpan
  extract_lets _
  generalize pickSpan _ _ _ _ _ = r
  match r with
  | none => rfl
  | some _ => exact all_map_of_all (reserveSpan_canon hs ..) (fun _ h => createAll_canon h _)

theorem execSpanPlace_canon (launch) :
    outcomeCanon (execSpanPlace launch s) = true := by
  unfold execSpanPlace
  refine onSome_canon _ (fun l h => holds_ite rfl ?_)
  match placeSpan s l, placeSpan_canon hs l with
  | none, _ => rfl
  | some _, h1 => exact h1

theorem execGroupCreate_canon (gid) :
    outcomeCanon (execGroupCreate gid s) = true := by
  unfold execGroupCreate
  refine onSome_canon _ (fun g h => holds_ite rfl ?_)
  match reserve s g.ctx g.width g.nregs, reserve_canon hs g.ctx g.width g.nregs with
  | none, _ => rfl
  | some _, h1 => exact holds_ite (startGroup_canon h1 ..) (l1Clear_canon (startGroup_canon h1 ..) _)

theorem abandonClaims_canon (t) :
    (abandonClaims s t).canon = true := by
  unfold abandonClaims
  refine foldl_canon (fun s1 q h => ?_) _ hs
  extract_lets mine
  clear_value mine
  match mine with
  | [] => exact h
  | _ :: _ =>
    generalize queueAt _ _ = r
    match r with
    | none => exact foldl_canon (fun _ _ h1 => faultRecord_canon h1 ..) _ h
    | some _ => exact serveQueue_canon (putQueue_canon (foldl_canon (fun _ _ h1 => faultRecord_canon h1 ..) _ h) _) _

theorem drainTeam_canon (t) :
    (drainTeam s t).canon = true := by
  unfold drainTeam
  extract_lets _ _ _ _
  exact foldl_canon (fun _ _ h => onCore_canon h ..) _ (abandonClaims_canon (holds_ite (leaveRein_canon (onTeam_frame hs)
    ..) (leaveDrop_canon (onTeam_frame hs) ..)) _)

theorem releaseGroup_canon (g) :
    (releaseGroup s g).canon = true := by
  unfold releaseGroup
  extract_lets _ s2
  have h : s2.canon = true := by
    unfold s2
    match g.mwFault with
    | none => exact hs
    | some _ => exact faultRecord_canon hs ..
  clear_value s2
  exact holds_ite (canon_with_teams h (padsWf_filter _ (teams_wf h :))) h

theorem lastGroup_canon (team) :
    (lastGroup s team).canon = true := by
  unfold lastGroup
  extract_lets _
  match teamOf s team with
  | none => exact hs
  | some _ =>
    exact holds_ite hs (holds_ite (drainTeam_canon (foldl_canon (fun _ _ h => launchBins_canon h ..) _ hs) _) (foldl_canon
      (fun _ _ h => launchBins_canon h ..) _ hs))

theorem execGroupRetire_canon (gid) :
    outcomeCanon (execGroupRetire gid s) = true := by
  unfold execGroupRetire
  exact onSome_canon _ (fun _ _ => holds_ite rfl (lastGroup_canon (releaseGroup_canon hs _) _))

theorem dropTeam_canon (t) :
    (dropTeam s t).canon = true := by
  unfold dropTeam
  exact shrinkL1_canon (by exact canon_with_teams hs (padsWf_filter _ (teams_wf hs :))) ..

theorem execTeamRetire_canon (team) :
    outcomeCanon (execTeamRetire team s) = true := by
  unfold execTeamRetire
  exact onSome_canon _ (fun _ _ => holds_ite rfl (dropTeam_canon hs _))

theorem execLaunchComplete_canon (launch) :
    outcomeCanon (execLaunchComplete launch s) = true := by
  unfold execLaunchComplete
  exact onSome_canon _ (fun _ _ => holds_ite rfl (holds_ite (putStatus_canon (by exact hs) ..) (finishLaunch_canon hs _)))

/-- The team of a handler activation has no scratchpad. -/
theorem activate_canon (ctx lane r) : (activate s ctx lane r).canon = true := by
  unfold activate
  refine startGroup_canon (canon_of_parts ?_ ?_) ..
  · exact @mem_wf s hs
  · exact padsWf_append_singleton (teams_wf hs) rfl

theorem execNotifyActivation_canon (ctx) :
    outcomeCanon (execNotifyActivation ctx s) = true := by
  unfold execNotifyActivation
  refine onSome_canon _ (fun c h => ?_)
  match c.recd with
  | none => rfl
  | some _ =>
    match sysQueue s ctx 3 with
    | none => rfl
    | some _ =>
      match handlerLane s ctx with
      | none => rfl
      | some _ => exact holds_ite rfl (activate_canon hs ..)

end

/-! ### Operations of Machine/Lane -/

section
variable {s : State} (hs : s.canon = true)
include hs

theorem dropDead_canon (gid n) :
    (dropDead s gid n).canon = true := by
  unfold dropDead
  match groupOf s gid with
  | none => exact hs
  | some _ => exact holds_ite hs (holds_ite hs hs)

theorem dropDeads_canon (g i) :
    (dropDeads s g i).canon = true := by
  unfold dropDeads
  exact foldl_canon (fun _ _ h => dropDead_canon h ..) _ hs

theorem fetchWord_canon (g va) :
    (fetchWord s g va).1.canon = true := by
  unfold fetchWord
  generalize hr : Machine.translate s g.cluster (some g.core) g.ctx va Acc.fetch = r
  have h : r.1.canon = true := hr ▸ Proofs.translate_canon hs ..
  clear hr
  match r with
  | (_, .error _) => exact h
  | (_, .ok _) =>
    dsimp only
    generalize List.find? _ _ = r
    match r with
    | none => exact h
    | some _ => exact fst_ite h h

theorem fetchGo_canon (g n va ws) : (fetchGo g n va ws s).1.canon = true := by
  induction n generalizing s va ws with
  | zero => exact hs
  | succ n ih =>
    unfold fetchGo
    match fetchWord s g va, fetchWord_canon hs g va with
    | (_, .error _), h => exact h
    | (_, .ok _), h => exact ih h ..

theorem fetchClause_canon (g) :
    (fetchClause s g).1.canon = true := by
  unfold fetchClause
  match fetchWord s g (va57 g.pc), fetchWord_canon hs g (va57 g.pc) with
  | (_, .error _), h => exact h
  | (_, .ok _), h => exact fetchGo_canon h ..

theorem fetchTurn_canon (g) :
    (fetchTurn s g).canon = true := by
  unfold fetchTurn
  refine holds_ite (takeTrap_canon hs ..) ?_
  match fetchClause s g, fetchClause_canon hs g with
  | (_, .error _), h => exact takeTrap_canon h ..
  | (_, .ok _), h => exact h

theorem headerTurn_canon (g) :
    (headerTurn s g).canon = true := by
  unfold headerTurn
  extract_lets n _
  refine holds_ite (takeTrap_canon hs ..) (holds_ite hs ?_)
  match liveRead s g n with
  | .error c =>
    match liveEntry s g n with
    | none =>
      match c with
      | .fault .. => exact takeTrap_canon (by exact liveTouch_canon hs ..) ..
      | .need .. => exact getD_canon (askLine_canon hs ..) hs
      | .wait => exact hs
    | some _ =>
      match c with
      | .fault .. => exact holds_ite (liveTouch_canon hs ..) (holds_ite (liveTouch_canon hs ..) (liveTouch_canon hs ..))
      | .need .. => exact getD_canon (askLine_canon hs ..) hs
      | .wait => exact hs
  | .ok _ =>
    match liveEntry s g n with
    | none => exact takeTrap_canon (by exact liveTouch_canon hs ..) ..
    | some _ => exact holds_ite (liveTouch_canon hs ..) (holds_ite (liveTouch_canon hs ..) (liveTouch_canon hs ..))

theorem execHeaderWaitMet_canon (gid) :
    outcomeCanon (execHeaderWaitMet gid s) = true := by
  unfold execHeaderWaitMet
  exact onSome_canon _ (fun _ _ => holds_ite rfl hs)

theorem execLaneChoose_canon (lane) :
    outcomeCanon (execLaneChoose lane s) = true := by
  unfold execLaneChoose
  refine holds_ite rfl ?_
  match laneChoice s lane with
  | none => rfl
  | some _ => exact hs

theorem fillLine_canon (g n) :
    (fillLine s g n).canon = true := by
  unfold fillLine
  extract_lets va
  match getVA s g.cluster g.ctx va (4 * g.width), getVA_canon hs g.cluster g.ctx va (4 * g.width) with
  | none, _ => exact stopGroup_canon hs ..
  | some _, h => exact h

theorem execRegcacheFill_canon (gid reg) :
    outcomeCanon (execRegcacheFill gid reg s) = true := by
  unfold execRegcacheFill
  exact onSome_canon _ (fun _ _ => holds_ite rfl (fillLine_canon hs ..))

theorem evictLine_canon (g l) :
    (evictLine s g l).canon = true := by
  unfold evictLine
  extract_lets _
  refine holds_ite hs ?_
  generalize hr : putVA _ _ _ _ _ = r
  have h : Option.all State.canon r = true := hr ▸ putVA_canon hs ..
  clear hr
  match r with
  | none => exact stopGroup_canon hs ..
  | some _ => exact h

theorem fitGo_canon (n core) : (fitGo n core s).canon = true := by
  induction n generalizing s with
  | zero => exact hs
  | succ n ih =>
    unfold fitGo
    split
    · exact hs
    · split
      · exact hs
      · exact ih (evictLine_canon hs ..)

theorem fitCaches_canon :
    (fitCaches s).canon = true := by
  unfold fitCaches
  exact foldl_canon (fun _ _ h => fitGo_canon h ..) _ hs

theorem budgetTrap_canon (g) : (budgetTrap s g).canon = true := by
  unfold budgetTrap
  exact takeTrap_canon hs ..

theorem execBudgetExhausted_canon (gid) :
    outcomeCanon (execBudgetExhausted gid s) = true := by
  unfold execBudgetExhausted
  exact onSome_canon _ (fun _ _ => holds_ite (budgetTrap_canon hs _) rfl)

theorem execTrapEntry_canon (gid) :
    outcomeCanon (execTrapEntry gid s) = true := by
  unfold execTrapEntry
  refine onSome_canon _ (fun g h => ?_)
  match g.pendTrap with
  | none => rfl
  | some _ => exact holds_ite (enterTrap_canon hs ..) rfl

theorem execSleepWake_canon (gid) :
    outcomeCanon (execSleepWake gid s) = true := by
  unfold execSleepWake
  refine onSome_canon _ (fun g h => ?_)
  match g.park with
  | none => rfl
  | some p =>
    cases p with
    | sleep => exact holds_ite hs rfl
    | _ => rfl

theorem instrTurn_canon (g0) :
    laneDoCanon (instrTurn s g0) = true := by
  unfold instrTurn
  extract_lets g
  refine holds_ite (budgetTrap_canon hs _) ?_
  match decodeWord (g.wordAt g.pos) with
  | .error _ => exact takeTrap_canon hs ..
  | .ok i =>
    dsimp only
    match popAwaited s g i with
    | none =>
      refine holds_ite rfl ?_
      match preFault s g i with
      | none =>
        match lineMissing s g i with
        | none => exact dropDeads_canon (by exact hs) ..
        | some _ => exact fillLine_canon hs ..
      | some _ => exact dropDeads_canon (by exact hs) ..
    | some _ => exact hs

theorem groupTurn_canon (g) :
    laneDoCanon (groupTurn s g) = true := by
  unfold groupTurn
  refine holds_ite rfl ?_
  generalize List.find? _ _ = r
  match r with
  | none =>
    exact holds_ite rfl (holds_ite (holds_ite rfl (fetchTurn_canon hs _)) (holds_ite (headerTurn_canon hs _) (holds_ite hs
      (instrTurn_canon hs _))))
  | some _ => exact holds_ite (atomicBack_canon hs ..) rfl

theorem laneTurn_canon (lane) :
    laneDoCanon (laneTurn s lane) = true := by
  unfold laneTurn
  generalize List.find? _ _ = r
  match r with
  | none => rfl
  | some g =>
    dsimp only
    match groupTurn s g, groupTurn_canon hs g with
    | .idle, _ => rfl
    | .turn _, h => exact h
    | .run .., h => exact holds_ite rfl h

theorem execSlewAdmit_canon :
    outcomeCanon (execSlewAdmit s) = true := by
  unfold execSlewAdmit
  extract_lets _
  match slewNext s with
  | none => rfl
  | some _ => exact holds_ite rfl hs

end

/-! ### Operations of Machine/Save -/

section
variable {s : State} (hs : s.canon = true)
include hs

theorem requestTeam_canon (team) : (requestTeam s team).canon = true :=
  onTeam_frame hs (fun _ => by split <;> rfl)

theorem execPreemptWaitExpire_canon (launch) :
    outcomeCanon (execPreemptWaitExpire launch s) = true := by
  unfold execPreemptWaitExpire
  exact onSome_canon _ (fun _ _ => holds_ite rfl (foldl_canon (fun _ _ h1 => requestTeam_canon h1 _) _ hs))

theorem execPtoExpire_canon (team) :
    outcomeCanon (execPtoExpire team s) = true := by
  unfold execPtoExpire
  refine onSome_canon _ (fun t h => ?_)
  extract_lets _
  match t.preq with
  | none => rfl
  | some _ => exact holds_ite rfl hs

theorem saveGroup_canon (g full) :
    (saveGroup s g full).canon = true := by
  unfold saveGroup
  extract_lets _
  dsimp only
  generalize hr : writeLines _ _ _ = r
  have h : Option.all State.canon r = true := hr ▸ writeLines_canon (fst_ite hs hs) ..
  clear hr
  match r with
  | none => exact stopGroup_canon (fst_ite hs hs) ..
  | some _ =>
    dsimp only
    generalize hr : saveSlot _ _ _ = r
    have h1 : Option.all State.canon r = true := hr ▸ saveSlot_canon h ..
    clear hr
    match r with
    | none => exact stopGroup_canon h ..
    | some _ => exact h1

theorem execGroupSave_canon (gid) :
    outcomeCanon (execGroupSave gid s) = true := by
  unfold execGroupSave
  exact onSome_canon _ (fun _ _ => holds_ite (saveGroup_canon hs ..) rfl)

theorem putImage_canon (t off len) : (putImage s t off len).all State.canon = true := by
  unfold putImage
  refine foldl_bind_all (fun s p hs => ?_) _ hs
  have ht := Proofs.translate_canon hs (t.core / 4) none t.ctx (t.save.toNat + 0x30000 + p.1) .wr
  split <;> rename_i s' _ h <;> rw [h] at ht
  · split
    · rfl
    · exact canon_of_parts (memCells_wf _ (memClear_wf _ _ (@mem_wf s' ht))) (@teams_wf s' ht)
  · rfl

theorem getImage_canon (t off len) : (getImage s t off len).all State.canon = true := by
  unfold getImage
  refine foldl_bind_all (fun s p hs => ?_) _ hs
  have ht := Proofs.translate_canon hs (t.core / 4) none t.ctx (t.save.toNat + 0x30000 + p.1) .rd
  split <;> rename_i h <;> rw [h] at ht
  · split
    · rfl
    · exact onTeam_canon ht (fun _ h => memCells_wf _ h) _
  · rfl

theorem putArea_canon (t off bs) :
    (putArea t off bs s).all State.canon = true := by
  unfold putArea
  exact putVA_canon hs ..

theorem putTiles_canon (t mask tmask) : (putTiles s t mask tmask).all State.canon = true := by
  unfold putTiles
  refine foldl_bind_all (fun _ _ hs => putArea_canon hs ..) _ ?_
  exact foldl_bind_all (fun _ _ hs => putArea_canon hs ..) _ hs

theorem writeArea_canon (t full) : (writeArea s t full).all State.canon = true := by
  unfold writeArea
  extract_lets gs ent bit ranges strm slot fault tree head o1 o2 o3
  have h2 : o2.all State.canon = true := foldl_bind_all (fun _ _ hs => putArea_canon hs ..) _ (putArea_canon hs ..)
  have h3 : o3.all State.canon = true := by
    clear_value o2
    cases he : ent with
    | none =>
      simp only [o3, he]
      exact h2
    | some x =>
      simp only [o3, he]
      exact all_bind_of_all h2 (fun _ hs => putTiles_canon hs ..)
  clear_value o3 ranges
  cases ranges with
  | none => exact all_bind_of_all h3 (fun _ hs => putImage_canon hs ..)
  | some rs => exact foldl_bind_all (fun _ _ hs => putImage_canon hs ..) _ h3

theorem stopTeam_canon (t cause sub addr) :
    (stopTeam s t cause sub addr).canon = true := by
  unfold stopTeam
  exact faultRecord_canon hs ..

theorem slotFlags_canon (g) :
    (slotFlags s g).canon = true := by
  unfold slotFlags
  refine holds_ite hs ?_
  extract_lets s1
  generalize hr : getVA s1 g.cluster g.ctx (slotVA s1 g + 1360) 8 = r
  have h : Option.all (fun x => x.1.canon) r = true := hr ▸ getVA_canon (by exact hs) ..
  clear hr
  match r with
  | none => exact hs
  | some _ => exact getD_canon (putVA_canon h ..) h

/-- A team that leaves its core gives its scratchpad up. -/
theorem leaveCore_canon (t tiles qs) : (leaveCore s t tiles qs).canon = true := by
  unfold leaveCore
  refine shrinkL1_canon (onTeam_canon ?_ (fun _ _ => by rfl) _) ..
  exact foldl_canon (fun _ _ hs => freeSlot_canon hs ..) _ (leaveDrop_canon (freeTeamEnt_canon hs ..) ..)

theorem execTeamSave_canon (team) :
    outcomeCanon (execTeamSave team s) = true := by
  unfold execTeamSave
  refine onSome_canon _ (fun t h => holds_ite rfl ?_)
  extract_lets _ s1 _ _
  generalize hr : writeArea s1 t false = r
  have h1 : Option.all State.canon r = true := hr ▸ writeArea_canon (foldl_canon (fun _ _ h1 => slotFlags_canon h1 _) _
    hs) ..
  clear hr
  match r with
  | none => exact stopTeam_canon (foldl_canon (fun _ _ h2 => slotFlags_canon h2 _) _ hs) ..
  | some _ => exact leaveCore_canon h1 ..

theorem reloadGroup_canon (g) :
    (reloadGroup s g).canon = true := by
  unfold reloadGroup
  match getVA s g.cluster g.ctx (slotVA s g) 2048, getVA_canon hs g.cluster g.ctx (slotVA s g) 2048 with
  | none, _ => exact stopGroup_canon hs ..
  | some _, h =>
    dsimp only
    generalize loadRegs _ _ = r
    match r with
    | none => exact stopGroup_canon h ..
    | some _ =>
      refine holds_ite (reLiveTouch_canon h ..) ?_
      match g.park with
      | none => exact reLiveTouch_canon h ..
      | some _ => exact holds_ite (reLiveTouch_canon h ..) (reLiveTouch_canon h ..)

theorem restoreGroup_canon (g) :
    (restoreGroup s g).canon = true := by
  unfold restoreGroup
  exact holds_ite hs (reloadGroup_canon hs _)

theorem moveGroups_canon (t) : (moveGroups s t).canon = true := hs

theorem loadArea_canon (t) : (loadArea s t).all State.canon = true := by
  unfold loadArea
  have hg := getVA_canon hs (t.core / 4) t.ctx t.save.toNat 0x1040
  dsimp only
  split
  · rfl
  · rename_i s1 bs h1
    rw [h1] at hg
    split
    · rfl
    · rename_i s2 fifos h2
      have h3 : (some (s2, fifos)).all (fun x : State × List (List Byte) => x.1.canon) = true := by
        rw [← h2]
        refine foldl_bind_all (p := fun x : State × List (List Byte) => x.1.canon) (fun x i hx => ?_) _ hg
        exact all_map_of_all (getVA_canon hx ..) (fun _ hy => hy)
      have h4 : ∀ f : Team → Team, (∀ t, (f t).scratch = []) → (onTeam (t.strm.foldl (fun s x => putSlot s (t.core + x.1 / 4) (x.1 % 4)
          (if x.1 < 4 then streamAt ((bs.drop (0x640 + 128 * x.1)).take 128) (fifos.getD x.1 []) x.2 else x.2)) s2) t.id f).canon = true :=
        fun f hf => onTeam_canon (foldl_canon (fun _ _ hs => putSlot_canon hs ..) _ h3) (fun t _ => by rw [hf]; rfl) _
      split
      · exact getImage_canon (h4 _ (fun _ => rfl)) ..
      · exact foldl_bind_all (fun _ _ hs => getImage_canon hs ..) _ (h4 _ (fun _ => rfl))

theorem resumeTeam_canon (t) :
    (resumeTeam s t).canon = true := by
  unfold resumeTeam
  match loadArea s t, loadArea_canon hs t with
  | none, _ => exact stopTeam_canon (onTeam_frame hs) ..
  | some _, h =>
    exact foldl_canon (fun _ _ h1 => restoreGroup_canon h1 _) _ (foldl_canon (fun _ _ h2 => l1Clear_canon h2 _) _
      (readyCores_canon (onTeam_frame h) ..))

theorem dropSaved_canon (t bad) :
    (dropSaved s t bad).canon = true := by
  unfold dropSaved
  exact dropTeam_canon (abandonClaims_canon (freeTeamEnt_canon (foldl_canon (fun _ _ h => releaseGroup_canon h _) _
    (faultRecord_canon hs ..)) ..) _) _

omit hs in
theorem takeCore_canon {s0 : State} (h0 : s0.canon = true) (t core) : (takeCore s0 t core).canon = true := by
  unfold takeCore
  extract_lets s old c s1
  have h1 : s1.canon = true := fuseL1_canon (shrinkL1_canon (onTeam_canon h0 (fun _ h => by exact h) _) ..) ..
  clear_value s1
  split
  · exact h1
  · rename_i u _
    extract_lets s2
    have h2 : s2.canon = true := moveGroups_canon h1 u
    clear_value s2
    have hg := getVA_canon h2 c u.ctx u.save.toNat 0x18
    split <;> rename_i h <;> rw [h] at hg
    · exact stopTeam_canon (onTeam_canon h2 (fun _ h => by exact h) _) ..
    · rename_i s3 bs
      extract_lets w post
      have hp : ∀ s tree, s.canon = true → (post s tree).canon = true := fun s tree hs => by
        exact holds_ite (holds_ite (onEng_canon hs ..) (onEng_canon (onEng_canon hs ..) ..)) (resumeTeam_canon (holds_ite
          (onEng_canon hs ..) (onEng_canon (onEng_canon hs ..) ..)) _)
      clear_value post
      split
      · exact resumeTeam_canon hg ..
      · have ht := readTree_canon hg ⟨u.id, u.ctx, c, u.id⟩ u.launch core [] (wAt bs 0x10).toNat
        refine holds_ite (hp _ _ hg) ?_
        generalize hr : readTree _ _ _ _ _ _ = r
        have h3 : r.1.canon = true := hr ▸ readTree_canon hg ..
        clear hr
        match r with
        | (_, .error none) => exact h0
        | (_, .error (some _)) => exact dropSaved_canon h3 ..
        | (_, .ok _) => exact hp _ _ (by exact h3)

theorem treeHere_canon (t core) :
    (treeHere s t core).1.canon = true := by
  unfold treeHere
  generalize hr : getVA s (core / 4) t.ctx (BitVec.toNat t.save) 24 = r
  have h : Option.all (fun x => x.1.canon) r = true := hr ▸ getVA_canon hs ..
  clear hr
  match r with
  | none => exact hs
  | some _ =>
    refine fst_ite h ?_
    generalize hr : readTree _ _ _ _ _ _ = r
    have h1 : r.1.canon = true := hr ▸ readTree_canon h ..
    clear hr
    match r with
    | (_, .error none) => exact h1
    | (_, .error (some _)) | (_, .ok _) => exact h

theorem execTeamRestore_canon (team) : outcomeCanon (execTeamRestore team s) = true := by
  unfold execTeamRestore
  refine onSome_canon _ (fun t _ => ?_)
  dsimp only
  split
  · rfl
  · split
    · split
      · exact resumeTeam_canon hs ..
      · rfl
    · split
      · rfl
      · split
        · refine List.foldlRecOn (motive := fun a : State × Bool => a.1.canon = true) _ _ hs (fun a ha x _ => ?_)
          generalize Option.map _ _ = r
          match r with
          | none => exact ha
          | some _ => exact treeHere_canon ha ..
        · refine foldl_canon (fun s x hs => ?_) _ hs
          generalize Option.map _ _ = r
          match r with
          | none => exact hs
          | some _ => exact takeCore_canon hs ..

end

/-! ### Operations of Machine/Debug -/

section
variable {s : State} (hs : s.canon = true)
include hs

theorem haltGroup_canon (g) :
    (haltGroup s g).all State.canon = true := by
  unfold haltGroup
  extract_lets _
  refine holds_ite (holds_ite hs rfl) (holds_ite rfl ?_)
  generalize hr : writeLines _ _ _ = r
  have h : Option.all State.canon r = true := hr ▸ writeLines_canon hs ..
  clear hr
  match r with
  | none => exact stopGroup_canon hs ..
  | some _ =>
    dsimp only
    generalize hr : saveSlot _ _ _ = r
    have h1 : Option.all State.canon r = true := hr ▸ saveSlot_canon h ..
    clear hr
    match r with
    | none => exact stopGroup_canon h ..
    | some _ => exact h1

theorem drainCore_canon (core) :
    (drainCore s core).canon = true := by
  unfold drainCore
  extract_lets s1
  have h : s1.canon = true := by
    unfold s1
    refine foldl_canon (fun s2 t h => ?_) _ hs
    match writeArea s2 t true, writeArea_canon h t true with
    | none, _ => exact faultRecord_canon h ..
    | some _, h1 => exact h1
  clear_value s1
  exact h

theorem reloadTeam_canon (t) : (reloadTeam s t).canon = true := by
  unfold reloadTeam
  extract_lets s1
  have h1 : s1.canon = true := onTeam_canon hs (fun _ h => by exact h) _
  have hl := all_bind (o := teamOf s1 t.id) (fun u _ => loadArea_canon h1 u)
  split <;> rename_i h <;> rw [h] at hl
  · exact stopTeam_canon h1 ..
  · split
    · exact hl
    · exact loadTiles_canon hl ..

theorem resumeCore_canon (core) :
    (resumeCore s core).canon = true := by
  unfold resumeCore
  extract_lets _ _
  refine foldl_canon (fun s3 g h => ?_) _ (holds_ite (foldl_canon (fun _ _ h1 => reloadTeam_canon h1 _) _ hs) hs)
  exact holds_ite h (reloadGroup_canon h _)

theorem execHalt_canon (h f) :
    outcomeCanon (execHalt h f s) = true := by
  unfold execHalt
  refine wideOp_canon hs _ _ (fun g => ?_)
  match coreArg s g f with
  | none => exact hs
  | some _ => exact holds_ite hs hs

theorem execHaltResume_canon (h f) :
    outcomeCanon (execHaltResume h f s) = true := by
  unfold execHaltResume
  refine wideOp_canon hs _ _ (fun g => ?_)
  match coreArg s g f with
  | none => exact hs
  | some _ => exact holds_ite hs hs

theorem execDbgdrain_canon (h f) :
    outcomeCanon (execDbgdrain h f s) = true := by
  unfold execDbgdrain
  refine wideOp_canon hs _ _ (fun g => ?_)
  match coreArg s g f with
  | none => exact hs
  | some _ => exact holds_ite hs hs

theorem haltEnd_canon (g k form) :
    (haltEnd s g k form).all State.canon = true := by
  unfold haltEnd
  extract_lets _
  refine holds_ite rfl (holds_ite hs (holds_ite rfl ?_))
  split
  · exact hs
  · exact resumeCore_canon hs _
  · exact holds_ite hs (holds_ite (drainCore_canon hs _) rfl)

theorem tlbinvOp_canon (i h k) :
    outcomeCanon (tlbinvOp i h k s) = true := by
  unfold tlbinvOp
  refine wideOp_canon hs _ _ (fun g => ?_)
  match k g with
  | .error _ => exact hs
  | .ok _ => exact holds_ite hs hs

theorem execTlbinvAll_canon (h f) :
    outcomeCanon (execTlbinvAll h f s) = true := by
  unfold execTlbinvAll
  exact tlbinvOp_canon hs ..

theorem execTlbinvComplete_canon (gid) :
    outcomeCanon (execTlbinvComplete gid s) = true := by
  unfold execTlbinvComplete
  refine onSome_canon _ (fun g h => ?_)
  match g.park with
  | none => rfl
  | some p =>
    cases p with
    | tlbinv => exact holds_ite rfl hs
    | _ => rfl

end

/-! ### Operations of Machine/Power -/

section
variable {s : State} (hs : s.canon = true)
include hs

theorem notifyCluster_canon (c kind a1) :
    (notifyCluster s c kind a1).canon = true := by
  unfold notifyCluster
  exact foldl_canon (fun _ _ h => notify_canon h ..) _ hs

theorem closeInterval_canon (c) : (closeInterval s c).canon = true := hs

theorem askPool_canon (c target) :
    (askPool s c target).canon = true := by
  unfold askPool
  exact holds_ite hs (holds_ite (notifyCluster_canon hs ..) hs)

theorem setThrottle_canon (c target pool lo) :
    (setThrottle s c target pool lo).canon = true := by
  unfold setThrottle
  exact holds_ite (notifyCluster_canon (by exact hs) ..) (holds_ite (notifyCluster_canon (by exact hs) ..) hs)

theorem placeCluster_canon (ts c) :
    (placeCluster ts s c).canon = true := by
  unfold placeCluster
  exact holds_ite hs (setThrottle_canon (askPool_canon (by exact hs) ..) ..)

theorem applyGrant_canon (ctx) :
    (applyGrant s ctx).canon = true := by
  unfold applyGrant
  generalize Option.bind _ _ = r
  match r with
  | none | some _ => exact hs

theorem execPolicyStep_canon : outcomeCanon (execPolicyStep s) = true := by
  unfold execPolicyStep
  split
  · rfl
  · extract_lets all s1 s2 down ts s3 k s4
    have h1 : s1.canon = true := foldl_canon (fun _ _ hs => applyGrant_canon hs _) _ (canon_with hs)
    have h2 : s2.canon = true := foldl_canon (fun _ _ hs => closeInterval_canon hs _) _ h1
    have h3 : s3.canon = true := foldl_canon (fun _ _ hs => placeCluster_canon hs ..) _ h2
    exact canon_with (foldl_canon (fun _ _ hs => onCluster_canon hs ..) _ h3)

theorem execVoltageRampEnd_canon (cluster) :
    outcomeCanon (execVoltageRampEnd cluster s) = true := by
  unfold execVoltageRampEnd
  exact onSome_canon _ (fun _ _ => holds_ite rfl hs)

theorem execFrequencySwitchEnd_canon (cluster) :
    outcomeCanon (execFrequencySwitchEnd cluster s) = true := by
  unfold execFrequencySwitchEnd
  exact onSome_canon _ (fun _ _ => holds_ite rfl hs)

theorem execDroopDetect_canon (cluster) :
    outcomeCanon (execDroopDetect cluster s) = true := by
  unfold execDroopDetect
  exact holds_ite rfl (holds_ite hs hs)

theorem execDroopEnd_canon (cluster) :
    outcomeCanon (execDroopEnd cluster s) = true := by
  unfold execDroopEnd
  exact holds_ite hs rfl

theorem execUndervolt_canon (pool mv) :
    outcomeCanon (execUndervolt pool mv s) = true := by
  unfold execUndervolt
  exact holds_ite rfl (holds_ite hs hs)

theorem execLeave_canon (h f) :
    outcomeCanon (execLeave h f s) = true := by
  unfold execLeave
  exact wideOp_canon hs _ _ (fun _ => holds_ite hs (holds_ite (holds_ite hs hs) (holds_ite hs hs)))

theorem execLeaveRel_canon (h f) :
    outcomeCanon (execLeaveRel h f s) = true := by
  unfold execLeaveRel
  exact wideOp_canon hs _ _ (fun _ => hs)

theorem execLeaveGrant_canon (cluster) :
    outcomeCanon (execLeaveGrant cluster s) = true := by
  unfold execLeaveGrant
  exact holds_ite hs rfl

theorem leaveAgain_canon (c) :
    (leaveAgain s c).all State.canon = true := by
  unfold leaveAgain
  match headCmd (engOf s c) with
  | none => rfl
  | some _ => exact holds_ite hs rfl

theorem execPwrq_canon (h f) :
    outcomeCanon (execPwrq h f s) = true := by
  unfold execPwrq
  exact wideOp_canon hs _ _ (fun _ => holds_ite hs hs)

end

/-! ### Operations of Machine/Commands -/

section
variable {s : State} (hs : s.canon = true)
include hs

theorem report_canon (ctx cmd result) : (report s ctx cmd result).canon = true := hs

theorem contextCommand_canon (ctx cmd) {k : Context → State → State} (hk : ∀ c, (k c s).canon = true) :
    outcomeCanon (command_ ctx cmd s k) = true :=
  onSome_canon _ (fun c _ => holds_ite (report_canon hs ..) (hk c))

theorem openSys_canon (ctx n va) :
    (openSys s ctx n va).all State.canon = true := by
  unfold openSys
  match walkNow s ctx (va57 va) Acc.rw, walkNow_canon hs ctx (va57 va) Acc.rw with
  | (_, .error _), _ => rfl
  | (_, .ok _), h => exact holds_ite rfl (all_map (fun _ _ => putQueue_canon (canon_with h) _))

theorem createWith_canon (ctx r) :
    (createWith s ctx r).all State.canon = true := by
  unfold createWith
  exact all_bind_of_all (openSys_canon (by exact hs) ..) (fun _ h => all_bind_of_all (openSys_canon h ..) (fun _ h1 =>
    openSys_canon h1 ..))

theorem execCreate_canon (ctx) :
    outcomeCanon (execCreate ctx s) = true := by
  unfold execCreate
  refine contextCommand_canon hs _ _ (fun c => holds_ite hs (holds_ite hs ?_))
  match crecWords s c with
  | none => exact hs
  | some w =>
    refine holds_ite hs (holds_ite hs ?_)
    match createWith s ctx (readCRec w), createWith_canon hs ctx (readCRec w) with
    | none, _ => exact hs
    | some _, h => exact h

theorem execStart_canon (ctx) :
    outcomeCanon (execStart ctx s) = true := by
  unfold execStart
  exact contextCommand_canon hs _ _ (fun _ => holds_ite hs hs)

theorem suspendDone_canon (ctx) :
    (suspendDone s ctx).canon = true := by
  unfold suspendDone
  match s.contexts[ctx]? with
  | none => exact hs
  | some _ => exact holds_ite (raiseEvent_canon (by exact hs) ..) hs

theorem execSuspend_canon (ctx) :
    outcomeCanon (execSuspend ctx s) = true := by
  unfold execSuspend
  exact contextCommand_canon hs _ _ (fun _ => holds_ite hs (suspendDone_canon
    (by exact foldl_canon (fun _ _ h => requestTeam_canon h _) _ hs) _))

theorem execResume_canon (ctx) :
    outcomeCanon (execResume ctx s) = true := by
  unfold execResume
  refine contextCommand_canon hs _ _ (fun c => ?_)
  match c.st with
  | .free | .created | .active | .suspending | .tearing => exact hs
  | .suspended => exact raiseEvent_canon (by exact hs) ..

theorem execGrant_canon (ctx) :
    outcomeCanon (execGrant ctx s) = true := by
  unfold execGrant
  refine contextCommand_canon hs _ _ (fun c => holds_ite hs ?_)
  match crecWords s c with
  | none => exact hs
  | some _ => exact holds_ite hs hs

theorem releaseCtx_canon (ctx) :
    (releaseCtx s ctx).canon = true := by
  unfold releaseCtx
  exact raiseEvent_canon (by exact hs) ..

theorem entryStatus_canon (ctx e) :
    (entryStatus s ctx e).canon = true := by
  unfold entryStatus
  match walkNow s ctx (va57 (wAt e.bytes 0)) Acc.rd, walkNow_canon hs ctx (va57 (wAt e.bytes 0)) Acc.rd with
  | (_, .error _), h => exact h
  | (_, .ok _), h => exact putStatus_canon h ..

theorem tearLaunches_canon (ctx) :
    (tearLaunches s ctx).canon = true := by
  unfold tearLaunches
  extract_lets s1
  have h : s1.canon = true := by
    unfold s1
    refine foldl_canon (fun s2 l h => ?_) _ hs
    exact holds_ite h (putStatus_canon h ..)
  clear_value s1
  exact foldl_canon (fun _ _ h1 => entryStatus_canon h1 ..) _ h

theorem execTeardown_canon (ctx) :
    outcomeCanon (execTeardown ctx s) = true := by
  unfold execTeardown
  refine contextCommand_canon hs _ _ (fun c => ?_)
  match c.st with
  | .free | .active | .suspending | .suspended | .tearing => exact hs
  | .created =>
    match unreadEntry s ctx with
    | none =>
      exact report_canon (releaseCtx_canon (tearLaunches_canon (canon_with_teams hs (padsWf_filter _ (teams_wf hs :))) _)
        _) ..
    | some _ => exact hs

theorem expelTeam_canon (t) :
    (expelTeam s t).canon = true := by
  unfold expelTeam
  extract_lets _ _
  refine foldl_canon (fun s2 k h => ?_) _ (freeTeamEnt_canon hs ..)
  exact h

theorem sweepCtx_canon (ctx) :
    (sweepCtx s ctx).canon = true := by
  unfold sweepCtx
  exact canon_with_teams (tearLaunches_canon (canon_with (foldl_canon (fun _ _ h => tellDevices_canon h ..) _ (foldl_canon
    (fun _ _ h1 => abandonRec_canon h1 _) _ (foldl_canon (fun _ _ h2 => expelTeam_canon h2 _) _ hs)))) _) (padsWf_filter _
    (teams_wf (tearLaunches_canon (canon_with (foldl_canon (fun _ _ h => tellDevices_canon h ..) _ (foldl_canon (fun _ _
    h1 => abandonRec_canon h1 _) _ (foldl_canon (fun _ _ h2 => expelTeam_canon h2 _) _ hs)))) _) :))

theorem execTeardownComplete_canon (ctx) :
    outcomeCanon (execTeardownComplete ctx s) = true := by
  unfold execTeardownComplete
  refine onSome_canon _ (fun c h => holds_ite rfl ?_)
  match unreadEntry s ctx with
  | none => exact releaseCtx_canon (sweepCtx_canon hs _) _
  | some x =>
    dsimp only
    match headEntry s ctx x.1 x.2, headEntry_canon hs ctx x.1 x.2 with
    | (s1, .error x2), h1 =>
      dsimp only
      generalize hr : askLine s1 (dispatchers ctx) none 1023 x2.1 x2.2 = r
      have h2 : Option.all State.canon r = true := hr ▸ askLine_canon h1 ..
      clear hr
      match r with
      | none => rfl
      | some _ => exact h2
    | (_, .ok _), h1 => exact putQueue_canon h1 _

theorem launchEntry_canon (q seq) :
    (launchEntry s q seq).1.canon = true := by
  unfold launchEntry
  generalize hr : walkNow _ _ _ _ = r
  have h : r.1.canon = true := hr ▸ walkNow_canon hs ..
  clear hr
  match r with
  | (_, .error _) | (_, .ok _) => exact h

theorem execLdoor_canon (ctx n) : outcomeCanon (execLdoor ctx n s) = true := by
  unfold execLdoor
  refine onSome_canon _ (fun _ _ => ?_)
  split
  · exact report_canon hs ..
  · split
    · exact report_canon hs ..
    · refine putQueue_canon (List.foldlRecOn (motive := fun x : State × List QEntry => x.1.canon = true) _ _ hs
        (fun x hx i _ => ?_)) _
      exact launchEntry_canon hx ..

theorem execEvpendClear_canon (ctx ones) :
    outcomeCanon (execEvpendClear ctx ones s) = true := by
  unfold execEvpendClear
  exact onSome_canon _ (fun _ _ => hs)

end

/-! ### Operations of Machine/FloatVec -/

section
variable {s : State} (hs : s.canon = true)
include hs

theorem execFclass_canon (h f) :
    outcomeCanon (execFclass h f s) = true := by
  unfold execFclass
  exact vecOp_canon hs ..

end

/-! ### Operations of Machine/Cross -/

section
variable {s : State} (hs : s.canon = true)
include hs

theorem execVoteany_canon (h f) :
    outcomeCanon (execVoteany h f s) = true := by
  unfold execVoteany
  exact vecOp_canon hs ..

theorem execVoteall_canon (h f) :
    outcomeCanon (execVoteall h f s) = true := by
  unfold execVoteall
  exact vecOp_canon hs ..

theorem execBallot_canon (h f) :
    outcomeCanon (execBallot h f s) = true := by
  unfold execBallot
  exact vecOp_canon hs ..

theorem execMatchx_canon (h f) :
    outcomeCanon (execMatchx h f s) = true := by
  unfold execMatchx
  exact vecOp_canon hs ..

theorem execMrank_canon (h f) :
    outcomeCanon (execMrank h f s) = true := by
  unfold execMrank
  exact vecOp_canon hs ..

theorem execElect_canon (h f) :
    outcomeCanon (execElect h f s) = true := by
  unfold execElect
  exact vecOp_canon hs ..

end

/-! ### Operations of Machine/Port -/

section
variable {s : State} (hs : s.canon = true)
include hs

theorem putMsix_canon (o val) : (putMsix s o val).canon = true := by
  unfold putMsix
  exact holds_ite hs hs

theorem otherCommand_canon (ctx code) :
    (otherCommand s ctx code).canon = true := by
  unfold otherCommand
  refine holds_ite hs ?_
  match s.contexts[ctx]? with
  | none | some _ => exact hs

theorem otherMailbox_canon (code) :
    (otherMailbox s code).canon = true := by
  unfold otherMailbox
  exact holds_ite hs hs

theorem execRegisterWrite_canon (off val) :
    outcomeCanon (execRegisterWrite off val s) = true := by
  unfold execRegisterWrite
  refine holds_ite ?_ (holds_ite (otherMailbox_canon hs _) (holds_ite (canon_with hs) (holds_ite (canon_with hs)
    (holds_ite (canon_with hs) (holds_ite (putMsix_canon hs ..) hs)))))
  split
  · exact otherCommand_canon hs ..
  · exact hs
  · exact hs
  · exact hs
  · exact hs

theorem hostUnit_canon (cells) :
    (hostUnit s cells).canon = true := by
  unfold hostUnit
  extract_lets cs
  clear_value cs
  match cs with
  | [] => exact hs
  | _ :: _ => exact homeWrite_canon (by exact hs) ..

theorem execHostSlowWrite_canon (off bytes) :
    outcomeCanon (execHostSlowWrite off bytes s) = true := by
  unfold execHostSlowWrite
  exact holds_ite rfl (foldl_canon (fun _ _ h => hostUnit_canon h _) _ hs)

theorem execHostSlowRead_canon (off len) :
    outcomeCanon (execHostSlowRead off len s) = true := by
  unfold execHostSlowRead
  exact holds_ite rfl (holds_ite hs hs)

theorem execUnsupportedRequest_canon (tag) : outcomeCanon (execUnsupportedRequest tag s) = true := hs

end

/-! ### Operations of Machine/Link -/

section
variable {s : State} (hs : s.canon = true)
include hs

theorem setLink_canon (n st f) :
    (setLink s n st f).canon = true := by
  unfold setLink
  extract_lets _ _
  refine holds_ite hs (foldl_canon (fun s2 c h => ?_) _ hs)
  exact holds_ite (notify_canon h ..) h

theorem loseAsync_canon (r id) :
    (loseAsync s r id).canon = true := by
  unfold loseAsync
  match copyOf s id with
  | none => exact holds_ite hs hs
  | some _ => exact holds_ite hs (failCopy_canon hs ..)

theorem queueReply_canon (q data) :
    (queueReply s q data).canon = true := by
  unfold queueReply
  extract_lets s1 _
  match groupOf s1 q.gid with
  | none => exact hs
  | some _ =>
    refine holds_ite (refuseReq_canon (canon_with hs) ..) ?_
    match q.ask with
    | .push _ | .close | .done _ | .arm .. | .dec .. => exact hs
    | .pop .. | .try_ .. | .glean .. =>
      exact holds_ite (claimResult_canon (canon_with hs) ..) (claimResult_canon (canon_with hs) ..)
    | .stat _ => exact putScalar_canon (canon_with hs) ..

theorem taskReply_canon (f data) :
    (taskReply s f data).canon = true := by
  unfold taskReply
  exact holds_ite (refuseTask_canon (canon_with hs) _) hs

theorem failRemote_canon (r cause sub) :
    (failRemote s r cause sub).canon = true := by
  unfold failRemote
  exact foldl_canon (fun _ _ h => faultRecord_canon h ..) _ hs

theorem relayReply_canon (x ok) :
    (relayReply s x ok).canon = true := by
  unfold relayReply
  exact tellDevice_canon (canon_with hs) ..

theorem loseRemote_canon (r) :
    (loseRemote s r).canon = true := by
  unfold loseRemote
  extract_lets _
  match r.copy with
  | none =>
    generalize List.find? _ _ = r1
    match r1 with
    | none =>
      match r.ret with
      | none =>
        generalize List.find? _ _ = r1
        match r1 with
        | none =>
          generalize List.find? _ _ = r1
          match r1 with
          | none =>
            exact getD_canon (all_map (fun _ _ => relayReply_canon (failRemote_canon (canon_with hs) ..) ..))
              (failRemote_canon (canon_with hs) ..)
          | some _ => exact markReply_canon (failRemote_canon (canon_with hs) ..) ..
        | some _ => exact taskReply_canon (failRemote_canon (canon_with hs) ..) ..
      | some _ => exact llGive_canon (failRemote_canon (canon_with hs) ..) ..
    | some _ => exact queueReply_canon (failRemote_canon (canon_with hs) ..) ..
  | some _ => exact loseAsync_canon (failRemote_canon (canon_with hs) ..) ..

theorem peerGone_canon (dev) :
    (peerGone s dev).canon = true := by
  unfold peerGone
  extract_lets _ _ _ _ _ _
  refine foldl_canon (fun s4 q h => ?_) _ (foldl_canon (fun _ _ h1 => tellWaiters_canon h1 ..) _ (foldl_canon (fun _ _ h2
    => abandonRec_canon h2 _) _ hs))
  extract_lets _
  match queueAt s4 q.pa with
  | none => exact h
  | some _ =>
    exact holds_ite (foldl_canon (fun _ _ h1 => faultRecord_canon h1 ..) _ (putQueue_canon h _)) (serveQueue_canon
      (putQueue_canon (foldl_canon (fun _ _ h1 => faultRecord_canon h1 ..) _ (putQueue_canon h _)) _) _)

theorem linkLoss_canon (n st) :
    (linkLoss s n st).canon = true := by
  unfold linkLoss
  match linkAt s n with
  | none => exact hs
  | some _ =>
    exact holds_ite (peerGone_canon (foldl_canon (fun _ _ h => loseRemote_canon h _) _ (setLink_canon hs ..)) _)
      (foldl_canon (fun _ _ h => loseRemote_canon h _) _ (setLink_canon hs ..))

theorem execLinkLock_canon (link lanes peer peerLink) :
    outcomeCanon (execLinkLock link lanes peer peerLink s) = true := by
  unfold execLinkLock
  exact onSome_canon _ (fun _ _ => holds_ite rfl (holds_ite (holds_ite (setLink_canon hs ..) (linkLoss_canon hs ..))
    (holds_ite (setLink_canon hs ..) (setLink_canon hs ..))))

theorem execLinkTrainingTimeout_canon (link) :
    outcomeCanon (execLinkTrainingTimeout link s) = true := by
  unfold execLinkTrainingTimeout
  exact onSome_canon _ (fun _ _ => holds_ite rfl (holds_ite (linkLoss_canon hs ..) (setLink_canon hs ..)))

theorem execLinkLaneLoss_canon (link left) :
    outcomeCanon (execLinkLaneLoss link left s) = true := by
  unfold execLinkLaneLoss
  exact onSome_canon _ (fun _ _ => holds_ite rfl (holds_ite (linkLoss_canon hs ..) (holds_ite hs (setLink_canon hs ..))))

theorem execLinkPeerReset_canon (link) :
    outcomeCanon (execLinkPeerReset link s) = true := by
  unfold execLinkPeerReset
  exact onSome_canon _ (fun _ _ => holds_ite (linkLoss_canon hs ..) rfl)

theorem execLinkReplayLimit_canon (link) :
    outcomeCanon (execLinkReplayLimit link s) = true := by
  unfold execLinkReplayLimit
  exact onSome_canon _ (fun _ _ => holds_ite (linkLoss_canon hs ..) rfl)

theorem execFlitNak_canon (link seq) :
    outcomeCanon (execFlitNak link seq s) = true := by
  unfold execFlitNak
  exact onSome_canon _ (fun _ _ => holds_ite rfl hs)

theorem execFlitAck_canon (link seq) :
    outcomeCanon (execFlitAck link seq s) = true := by
  unfold execFlitAck
  exact onSome_canon _ (fun _ _ => holds_ite rfl hs)

theorem replyTo_canon (r data secs) :
    (replyTo s r data secs).canon = true := by
  unfold replyTo
  extract_lets _
  match r.copy with
  | none =>
    match r.ret with
    | none => exact holds_ite hs (failRemote_canon (canon_with hs) ..)
    | some _ => exact holds_ite (llGive_canon (canon_with hs) ..) (atomicBad_canon (canon_with hs) ..)
  | some _ => exact holds_ite hs hs

theorem replyFor_canon (req data secs) :
    (replyFor s req data secs).canon = true := by
  unfold replyFor
  generalize List.find? _ _ = r
  match r with
  | none =>
    generalize List.find? _ _ = r
    match r with
    | none =>
      generalize List.find? _ _ = r
      match r with
      | none =>
        generalize List.find? _ _ = r
        match r with
        | none =>
          generalize List.find? _ _ = r
          match r with
          | none => exact hs
          | some _ => exact replyTo_canon hs ..
        | some _ => exact relayReply_canon hs ..
      | some _ => exact markReply_canon hs ..
    | some _ => exact taskReply_canon hs ..
  | some _ => exact queueReply_canon hs ..

theorem answerPeer_canon (dev pa data) :
    (answerPeer s dev pa data).canon = true := by
  unfold answerPeer
  exact tellDevice_canon hs ..

theorem askAnswer_canon (x) :
    qAnsCanon (askAnswer s x) = true := by
  unfold askAnswer
  extract_lets _
  split
  · exact pushAt_canon (canon_with hs) ..
  · exact closeAt_canon hs ..
  · exact popAt_canon hs ..
  · exact popAt_canon hs ..
  · exact statAt_canon hs ..
  · exact gleanAt_canon hs ..
  · exact doneAt_canon hs ..
  · exact pushAt_canon hs ..

theorem answerAsk_canon (x) :
    (answerAsk s x).all State.canon = true := by
  unfold answerAsk
  refine holds_ite rfl ?_
  extract_lets _
  match askAnswer s x, askAnswer_canon hs x with
  | .notYet, _ => rfl
  | .refuse _, _ => exact answerPeer_canon (canon_with hs) ..
  | .ok _, h | .word .., h => exact answerPeer_canon (canon_with h) ..
  | .claim .., h => exact h

theorem peerClaim_canon :
    (peerClaim s).all State.canon = true := by
  unfold peerClaim
  exact all_map (fun _ _ => answerPeer_canon (holds_ite (compDec_canon (canon_with hs) ..) (canon_with hs)) ..)

theorem tellPerformed_canon :
    (tellPerformed s).all State.canon = true := by
  unfold tellPerformed
  exact all_map (fun _ _ => tellDevices_canon (canon_with hs) ..)

theorem peerArrive_canon (dev pa m) :
    (peerArrive dev pa s m).canon = true := by
  unfold peerArrive
  extract_lets _
  match recAt s pa with
  | none => exact tellDevices_canon hs ..
  | some _ => exact holds_ite (tellDevices_canon hs ..) (arriveHome_canon hs (fun _ => tellDevices_canon hs ..) ..)

theorem peerMark_canon (dev queue who recPA nbhd) :
    (peerMark s dev queue who recPA nbhd).canon = true := by
  unfold peerMark
  match markPlace s who.ctx queue, markPlace_canon hs who.ctx queue with
  | (_, none), h => exact answerPeer_canon h ..
  | (_, some ph), h =>
    dsimp only
    match ph.dev with
    | none => exact answerPeer_canon (getD_canon (markHere_canon h ..) h) ..
    | some _ => exact sendRemote_canon (canon_with h) ..

theorem peerMarkAt_canon (dev pa who recPA nbhd home) :
    (peerMarkAt s dev pa who recPA nbhd home).canon = true := by
  unfold peerMarkAt
  exact answerPeer_canon (getD_canon (markHere_canon hs ..) hs) ..

theorem unmarkAt_canon (queue recPA home) :
    (unmarkAt s queue recPA home).canon = true := by
  unfold unmarkAt
  match queue with
  | none => exact foldl_canon (fun _ _ h => unmarkHere_canon h ..) _ hs
  | some _ => exact unmarkHere_canon hs ..

theorem peerUnmark_canon (dev recPA queue) :
    (peerUnmark s dev recPA queue).canon = true := by
  unfold peerUnmark
  match queue with
  | none => exact unmarkAt_canon (canon_with (tellDevices_canon hs ..)) ..
  | some x =>
    dsimp only
    match markPlace s x.1 x.2, markPlace_canon hs x.1 x.2 with
    | (_, none), h => exact h
    | (_, some ph), h =>
      dsimp only
      match ph.dev with
      | none => exact unmarkAt_canon h ..
      | some _ => exact tellDevice_canon h ..

theorem peerRmw_canon (dev pa size op v page) :
    (peerRmw s dev pa size op v page).canon = true := by
  unfold peerRmw
  exact holds_ite (answerPeer_canon hs ..) (answerPeer_canon (performRmw_canon hs ..) ..)

theorem peerOred_canon (dev pa op rnd idx v page) :
    (peerOred s dev pa op rnd idx v page).canon = true := by
  unfold peerOred
  match oredRefuses s pa idx with
  | none => exact answerPeer_canon (oredAt_canon hs ..) ..
  | some _ => exact answerPeer_canon hs ..

theorem peerRead_canon (dev pa len) :
    (peerRead s dev pa len).canon = true := by
  unfold peerRead
  exact answerPeer_canon hs ..

theorem peerWrite_canon (dev pa data page) :
    (peerWrite s dev pa data page).canon = true := by
  unfold peerWrite
  exact answerPeer_canon (foldl_canon (fun _ _ h => storeHome_canon h ..) _ hs) ..

theorem peerFma_canon (dev pa g x page) :
    (peerFma s dev pa g x page).canon = true := by
  unfold peerFma
  exact holds_ite (answerPeer_canon hs ..) (answerPeer_canon (homePut_canon (by exact hs) ..) ..)

theorem farRelease_canon (dev pa gen) :
    (farRelease s dev pa gen).canon = true := by
  unfold farRelease
  exact tellWaiters_canon (by exact hs) ..

theorem ackRemote_canon (r) :
    (ackRemote s r).canon = true := by
  unfold ackRemote
  match r.ask with
  | .store _ | .peer .. | .rmw .. | .ored .. | .fma .. | .read .. => exact landRemote_canon hs _
  | .gbar .. => exact hs

theorem payloadDo_canon (dev x2) :
    (payloadDo s dev x2).all State.canon = true := by
  unfold payloadDo
  match x2 with
  | .idle | .queue .. | .performed _ => exact hs
  | .reply .. | .poisoned .. => exact replyFor_canon hs ..
  | .failed .. =>
    dsimp only
    generalize List.find? _ _ = r
    match r with
    | none => exact hs
    | some _ => exact failRemote_canon (canon_with hs) ..
  | .ack _ =>
    dsimp only
    generalize List.find? _ _ = r
    match r with
    | none => exact hs
    | some _ => exact ackRemote_canon hs _
  | .read .. => exact holds_ite rfl (peerRead_canon hs ..)
  | .write .. => exact holds_ite rfl (peerWrite_canon hs ..)
  | .atomic .. | .atomicF .. | .cas .. => exact holds_ite rfl (peerRmw_canon hs ..)
  | .ored .. => exact holds_ite rfl (peerOred_canon hs ..)
  | .fma .. => exact holds_ite rfl (peerFma_canon hs ..)
  | .gbar .. => exact holds_ite (foldl_canon (fun _ _ h => peerArrive_canon h ..) _ hs) rfl
  | .gbarRelease .. => exact farRelease_canon hs ..
  | .gbarRefuse .. => exact tellWaiters_canon hs ..
  | .gbarGone rec =>
    dsimp only
    match recAt s rec with
    | none => exact hs
    | some _ => exact holds_ite (abandonRec_canon hs _) hs
  | .mark .. => exact peerMark_canon hs ..
  | .unmark .. => exact peerUnmark_canon hs ..
  | .markAt .. => exact peerMarkAt_canon hs ..
  | .unmarkAt .. => exact unmarkAt_canon hs ..

theorem serveInbox_canon :
    (serveInbox s).all State.canon = true := by
  unfold serveInbox
  refine all_findSome (fun x => ?_) _
  exact holds_ite rfl (payloadDo_canon (canon_with hs) ..)

theorem execFlitReceive_canon (link seq crcOk payload) :
    outcomeCanon (execFlitReceive link seq crcOk payload s) = true := by
  unfold execFlitReceive
  refine onSome_canon _ (fun l h => holds_ite rfl (holds_ite hs (holds_ite hs ?_)))
  extract_lets s1
  generalize hr : (if inboxBehind s1.inbox l.peer payload = true then none else payloadDo s1 l.peer payload) = r
  have h1 : Option.all State.canon r = true := hr ▸ holds_ite rfl (payloadDo_canon (by exact hs) ..)
  clear hr
  match r with
  | none => exact hs
  | some _ => exact h1

theorem sendQueue_canon (q) :
    (sendQueue s q).all State.canon = true := by
  unfold sendQueue
  match q.dev with
  | none => rfl
  | some _ =>
    match groupOf s q.gid with
    | none => rfl
    | some _ => exact holds_ite rfl (sendRemote_canon (holds_ite (canon_with hs) hs) ..)

end

/-! ### Operations of Machine/Firmware -/

section
variable {s : State} (hs : s.canon = true)
include hs

theorem mreport_canon (cmd result) : (mreport s cmd result).canon = true := hs

theorem mailbox_canon (cmd) {k : State → State} (hk : (k s).canon = true) : outcomeCanon (mailbox cmd s k) = true :=
  holds_ite (mreport_canon hs ..) (holds_ite (mreport_canon hs ..) hk)

theorem linkCmd_canon (cmd ok) {k : State → Nat → State} (hk : ∀ n, (k s n).canon = true) :
    outcomeCanon (linkCmd cmd ok k s) = true :=
  mailbox_canon hs _ (holds_ite (mreport_canon (hk _) ..) (mreport_canon hs ..))

theorem execLinktrain_canon :
    outcomeCanon (execLinktrain s) = true := by
  unfold execLinktrain
  exact linkCmd_canon hs _ _ (fun _ => setLink_canon hs ..)

theorem execLinkretrain_canon :
    outcomeCanon (execLinkretrain s) = true := by
  unfold execLinkretrain
  exact linkCmd_canon hs _ _ (fun _ => setLink_canon hs ..)

theorem execLinkrel_canon :
    outcomeCanon (execLinkrel s) = true := by
  unfold execLinkrel
  exact linkCmd_canon hs _ _ (fun _ => setLink_canon hs ..)

theorem execSetfid_canon :
    outcomeCanon (execSetfid s) = true := by
  unfold execSetfid
  exact mailbox_canon hs _ (holds_ite hs (holds_ite hs hs))

theorem execUpdate_canon :
    outcomeCanon (execUpdate s) = true := by
  unfold execUpdate
  exact mailbox_canon hs _ (holds_ite hs (holds_ite hs hs))

theorem resetState_canon : (resetState s).canon = true := canon_of_parts (@mem_wf s hs) rfl

theorem minimal_canon :
    (minimal s).canon = true := by
  unfold minimal
  extract_lets _
  exact canon_with (resetState_canon hs)

/-- The start writes zeros to all of HBM (19 R427). -/
theorem reachStep_canon (step) : (reachStep s step).canon = true := by
  unfold reachStep
  split <;> split
  · exact canon_of_parts rfl (@teams_wf s hs)
  · exact canon_with hs
  · exact canon_of_parts rfl (@teams_wf s hs)
  · exact canon_with hs

theorem started_canon (k) : (started s k).canon = true := by
  unfold started
  exact reachStep_canon hs _

theorem startSeq_canon (os n) : (startSeq os n s).canon = true := by
  induction n generalizing s os with
  | zero => unfold startSeq; exact minimal_canon hs
  | succ n ih =>
    unfold startSeq
    extract_lets _ _
    generalize tryStart _ _ = r
    match r with
    | (_, none) => exact reachStep_canon (canon_with (resetState_canon hs)) _
    | (_, some (.error _)) => exact ih (canon_with (reachStep_canon (canon_with (resetState_canon hs)) _)) _
    | (_, some (.ok _)) => exact started_canon (canon_with (resetState_canon hs)) _

theorem start_canon (os) : (start os s).canon = true := by
  unfold start
  exact startSeq_canon hs ..

theorem resetStart_canon (os) :
    (resetStart os s).canon = true := by
  unfold resetStart
  exact holds_ite (start_canon hs _) (start_canon hs _)

theorem execReset_canon (o) :
    outcomeCanon (execReset o s) = true := by
  unfold execReset
  exact mailbox_canon hs _ (holds_ite (holds_ite (resetStart_canon (canon_with hs) _) (mreport_canon (minimal_canon hs)
    ..)) (resetStart_canon hs _))

theorem execPowerOn_canon (o) : outcomeCanon (execPowerOn o s) = true := by
  refine start_canon (canon_of_parts rfl ?_) o
  exact @teams_wf s hs

theorem execStartTimeout_canon (o) :
    outcomeCanon (execStartTimeout o s) = true := by
  unfold execStartTimeout
  exact holds_ite rfl (holds_ite (resetStart_canon (canon_with hs) _) (start_canon (canon_with hs) _))

theorem execAttest_canon :
    outcomeCanon (execAttest s) = true := by
  unfold execAttest
  exact mailbox_canon hs _ (holds_ite hs (homeWrite_canon hs ..))

end

/-! ### Operations of Machine/IntVec -/

section
variable {s : State} (hs : s.canon = true)
include hs

theorem execMovi_canon (h f) : outcomeCanon (execMovi h f s) = true := by
  unfold execMovi
  exact vecOp_canon hs ..

theorem execMovhi_canon (h f) :
    outcomeCanon (execMovhi h f s) = true := by
  unfold execMovhi
  exact vecOp_canon hs ..

end

/-! ### Operations of Machine/Dispatch -/

section
variable {s : State} (hs : s.canon = true)
include hs

/-- Every row keeps the canonical form. -/
theorem exec_canon (i) : outcomeCanon (exec i s) = true := by
  cases i with
  | iadd | isub | iaddc | isubb | imul | imulh | imad | imadw | idiv | irem | ineg | iabs | imin | imax | iclamp | isad |
    iand | ior | ixor | andn | inot | shl | shr | sar | rot | shld | bfx | bfi | popc | clz | ctz | brev | permb | sel |
    mov | icmp | iadds | iaddi | andi | ori | xori | shli | shri | sari | icmpi | fadd | fsub | fmul | ffma | ffms | fmin
    | fmax | fminn | fmaxn | fabs | fneg | fcpys | fcmp | frnd | ffrc | fscl | fexpn | hadd2 | hmul2 | hfma2 | hmin2 |
    hmax2 | dot2h | dot4 | dot8 | cvtff | cvtfi | cvtif | cvtii | pk2 | unpk2 | pk4i | unpk4i | shpack | shunpk | shfl |
    shflup | shfldn | shflx | bcast | redx | scanx =>
    exact vecOp_canon hs ..
  | fdiv | fsqrt | frcp | frsq | fexp2 | flog2 | fsin | fcos | ftanh =>
    exact vecOpLL_canon hs ..
  | sadd | ssub | smul =>
    exact scalar2_canon hs ..
  | sand | sor | sxor =>
    exact scalarBits_canon hs ..
  | yield =>
    exact wideGroup_canon hs ..
  | pref | resid =>
    exact hintOp_canon hs ..
  | cpy | cpym | cpyg =>
    exact copyOp_canon hs ..
  | tagall | tagany =>
    exact tagWait_canon hs ..
  | strmpop | strmpsh =>
    exact strmOp_canon hs ..
  | qpush | qpushClose | qpop | qtry | glean | gleanDone =>
    exact askQueue_canon hs ..
  | binfl | binflAll =>
    exact binflOp_canon hs ..
  | tlbinvVa | tlbinvRange | tlbinvCtx =>
    exact tlbinvOp_canon hs ..
  | movi => exact execMovi_canon hs ..
  | movhi => exact execMovhi_canon hs ..
  | fclass => exact execFclass_canon hs ..
  | voteany => exact execVoteany_canon hs ..
  | voteall => exact execVoteall_canon hs ..
  | ballot => exact execBallot_canon hs ..
  | matchx => exact execMatchx_canon hs ..
  | mrank => exact execMrank_canon hs ..
  | elect => exact execElect_canon hs ..
  | sshl => exact execSshl_canon hs ..
  | sshr => exact execSshr_canon hs ..
  | scmp => exact execScmp_canon hs ..
  | ssel => exact execSsel_canon hs ..
  | smov => exact execSmov_canon hs ..
  | smovi => exact execSmovi_canon hs ..
  | saddi => exact execSaddi_canon hs ..
  | rdfirst => exact execRdfirst_canon hs ..
  | spopc => exact execSpopc_canon hs ..
  | sctz => exact execSctz_canon hs ..
  | aadd => exact execAadd_canon hs ..
  | mset => exact execMset_canon hs ..
  | bra => exact execBra_canon hs ..
  | brx => exact execBrx_canon hs ..
  | brd => exact execBrd_canon hs ..
  | join => exact execJoin_canon hs ..
  | call => exact execCall_canon hs ..
  | ret => exact execRet_canon hs ..
  | exit => exact execExit_canon hs ..
  | nop => exact execNop_canon hs ..
  | sleep => exact execSleep_canon hs ..
  | trap => exact execTrap_canon hs ..
  | tfence => exact execTfence_canon hs ..
  | bkpt => exact execBkpt_canon hs ..
  | ld => exact execLd_canon hs ..
  | st => exact execSt_canon hs ..
  | lda => exact execLda_canon hs ..
  | stl => exact execStl_canon hs ..
  | ldu => exact execLdu_canon hs ..
  | stu => exact execStu_canon hs ..
  | ldnt => exact execLdnt_canon hs ..
  | stnt => exact execStnt_canon hs ..
  | atom => exact execAtom_canon hs ..
  | red => exact execRed_canon hs ..
  | atomf => exact execAtomf_canon hs ..
  | cas => exact execCas_canon hs ..
  | ored => exact execOred_canon hs ..
  | sgath => exact execSgath_canon hs ..
  | fence => exact execFence_canon hs ..
  | ifence => exact execIfence_canon hs ..
  | clean => exact execClean_canon hs ..
  | inval => exact execInval_canon hs ..
  | stage => exact execStage_canon hs ..
  | stageInc => exact execStageInc_canon hs ..
  | tagff => exact execTagff_canon hs ..
  | tagclr => exact execTagclr_canon hs ..
  | tagrd => exact execTagrd_canon hs ..
  | strmset => exact execStrmset_canon hs ..
  | strmgo => exact execStrmgo_canon hs ..
  | strmend => exact execStrmend_canon hs ..
  | qstat => exact execQstat_canon hs ..
  | taskarm => exact execTaskarm_canon hs ..
  | taskdec => exact execTaskdec_canon hs ..
  | spawn => exact execSpawn_canon hs ..
  | mreq => exact execMreq_canon hs ..
  | reinget => exact execReinget_canon hs ..
  | reinpass => exact execReinpass_canon hs ..
  | reinrel => exact execReinrel_canon hs ..
  | reinrelKeep => exact execReinrelKeep_canon hs ..
  | hfeed => exact execHfeed_canon hs ..
  | hdrain => exact execHdrain_canon hs ..
  | mma => exact execMma_canon hs ..
  | zzero => exact execZzero_canon hs ..
  | zscale => exact execZscale_canon hs ..
  | zadd => exact execZadd_canon hs ..
  | zcvt => exact execZcvt_canon hs ..
  | zld => exact execZld_canon hs ..
  | zst => exact execZst_canon hs ..
  | mwait => exact execMwait_canon hs ..
  | mstat => exact execMstat_canon hs ..
  | osbind => exact execOsbind_canon hs ..
  | osflush => exact execOsflush_canon hs ..
  | mreset => exact execMreset_canon hs ..
  | treebind => exact execTreebind_canon hs ..
  | desc => exact execDesc_canon hs ..
  | dstep => exact execDstep_canon hs ..
  | regrp => exact execRegrp_canon hs ..
  | qrd => exact execQrd_canon hs ..
  | qwr => exact execQwr_canon hs ..
  | ascend => exact execAscend_canon hs ..
  | naddr => exact execNaddr_canon hs ..
  | bari => exact execBari_canon hs ..
  | bara => exact execBara_canon hs ..
  | barw => exact execBarw_canon hs ..
  | barexp => exact execBarexp_canon hs ..
  | barph => exact execBarph_canon hs ..
  | barinv => exact execBarinv_canon hs ..
  | gbar => exact execGbar_canon hs ..
  | gbarInit => exact execGbarInit_canon hs ..
  | gbarFini => exact execGbarFini_canon hs ..
  | strag => exact execStrag_canon hs ..
  | sread => exact execSread_canon hs ..
  | swrite => exact execSwrite_canon hs ..
  | rett => exact execRett_canon hs ..
  | rettSkip => exact execRettSkip_canon hs ..
  | rettExit => exact execRettExit_canon hs ..
  | leave => exact execLeave_canon hs ..
  | leaveRel => exact execLeaveRel_canon hs ..
  | pwrq => exact execPwrq_canon hs ..
  | halt => exact execHalt_canon hs ..
  | haltResume => exact execHaltResume_canon hs ..
  | dbgdrain => exact execDbgdrain_canon hs ..
  | tlbinvAll => exact execTlbinvAll_canon hs ..
  | create => exact execCreate_canon hs ..
  | start => exact execStart_canon hs ..
  | suspend => exact execSuspend_canon hs ..
  | resume => exact execResume_canon hs ..
  | teardown => exact execTeardown_canon hs ..
  | grant => exact execGrant_canon hs ..
  | teardownComplete => exact execTeardownComplete_canon hs ..
  | ldoor => exact execLdoor_canon hs ..
  | evpendClear => exact execEvpendClear_canon hs ..
  | registerWrite => exact execRegisterWrite_canon hs ..
  | hostSlowWrite => exact execHostSlowWrite_canon hs ..
  | hostSlowRead => exact execHostSlowRead_canon hs ..
  | unsupportedRequest => exact execUnsupportedRequest_canon hs ..
  | linktrain => exact execLinktrain_canon hs ..
  | linkretrain => exact execLinkretrain_canon hs ..
  | linkrel => exact execLinkrel_canon hs ..
  | setfid => exact execSetfid_canon hs ..
  | attest => exact execAttest_canon hs ..
  | update => exact execUpdate_canon hs ..
  | reset => exact execReset_canon hs ..
  | powerOn => exact execPowerOn_canon hs ..
  | startTimeout => exact execStartTimeout_canon hs ..
  | launchPop => exact execLaunchPop_canon hs ..
  | teamPlace => exact execTeamPlace_canon hs ..
  | spanPlace => exact execSpanPlace_canon hs ..
  | groupCreate => exact execGroupCreate_canon hs ..
  | copyPlanIssue => exact execCopyPlanIssue_canon hs ..
  | laneChoose => exact execLaneChoose_canon hs ..
  | headerWaitMet => exact execHeaderWaitMet_canon hs ..
  | regcacheFill => exact execRegcacheFill_canon hs ..
  | bankReplay => exact execBankReplay_canon hs ..
  | longLatencyResult => exact execLongLatencyResult_canon hs ..
  | groupRetire => exact execGroupRetire_canon hs ..
  | teamRetire => exact execTeamRetire_canon hs ..
  | launchComplete => exact execLaunchComplete_canon hs ..
  | coalesceWindowClose => exact execCoalesceWindowClose_canon hs ..
  | storeArriveHome => exact execStoreArriveHome_canon hs ..
  | wcbDrain => exact execWcbDrain_canon hs ..
  | l1SectorExpire => exact execL1SectorExpire_canon hs ..
  | sliceAtomic => exact execSliceAtomic_canon hs ..
  | oredContribution => exact execOredContribution_canon hs ..
  | uncorrectableError => exact execUncorrectableError_canon hs ..
  | pageWalk => exact execPageWalk_canon hs ..
  | tlbinvComplete => exact execTlbinvComplete_canon hs ..
  | queueAccept => exact execQueueAccept_canon hs ..
  | claimResult => exact execClaimResult_canon hs ..
  | taskPush => exact execTaskPush_canon hs ..
  | copyStart => exact execCopyStart_canon hs ..
  | copyDelivery => exact execCopyDelivery_canon hs ..
  | copyComplete => exact execCopyComplete_canon hs ..
  | copyFail => exact execCopyFail_canon hs ..
  | streamElement => exact execStreamElement_canon hs ..
  | tileAcquire => exact execTileAcquire_canon hs ..
  | reinGrant => exact execReinGrant_canon hs ..
  | engineCommand => exact execEngineCommand_canon hs ..
  | passStart => exact execPassStart_canon hs ..
  | commandRetire => exact execCommandRetire_canon hs ..
  | hfeedAppend => exact execHfeedAppend_canon hs ..
  | ascendUpdate => exact execAscendUpdate_canon hs ..
  | engineResetComplete => exact execEngineResetComplete_canon hs ..
  | binTimerExpire => exact execBinTimerExpire_canon hs ..
  | sleepWake => exact execSleepWake_canon hs ..
  | budgetExhausted => exact execBudgetExhausted_canon hs ..
  | trapEntry => exact execTrapEntry_canon hs ..
  | notifyActivation => exact execNotifyActivation_canon hs ..
  | gbarCombine => exact execGbarCombine_canon hs ..
  | gbarArrival => exact execGbarArrival_canon hs ..
  | slewAdmit => exact execSlewAdmit_canon hs ..
  | preemptWaitExpire => exact execPreemptWaitExpire_canon hs ..
  | groupSave => exact execGroupSave_canon hs ..
  | ptoExpire => exact execPtoExpire_canon hs ..
  | teamSave => exact execTeamSave_canon hs ..
  | teamRestore => exact execTeamRestore_canon hs ..
  | policyStep => exact execPolicyStep_canon hs ..
  | voltageRampEnd => exact execVoltageRampEnd_canon hs ..
  | frequencySwitchEnd => exact execFrequencySwitchEnd_canon hs ..
  | leaveGrant => exact execLeaveGrant_canon hs ..
  | droopDetect => exact execDroopDetect_canon hs ..
  | droopEnd => exact execDroopEnd_canon hs ..
  | linkLock => exact execLinkLock_canon hs ..
  | linkTrainingTimeout => exact execLinkTrainingTimeout_canon hs ..
  | linkLaneLoss => exact execLinkLaneLoss_canon hs ..
  | linkPeerReset => exact execLinkPeerReset_canon hs ..
  | linkReplayLimit => exact execLinkReplayLimit_canon hs ..
  | flitReceive => exact execFlitReceive_canon hs ..
  | flitNak => exact execFlitNak_canon hs ..
  | flitAck => exact execFlitAck_canon hs ..
  | undervolt => exact execUndervolt_canon hs ..
  | regrpComplete => exact execRegrpComplete_canon hs ..

end

/-! ### Operations of Machine/Settle -/

section
variable {s : State} (hs : s.canon = true)
include hs

theorem settleTags_canon (g all ors m) :
    (settleTags s g all ors m).all State.canon = true := by
  unfold settleTags
  match teamOf s g.team with
  | none => rfl
  | some _ => exact holds_ite rfl (holds_ite (wakeTrap_canon hs ..) (holds_ite (orConv_canon hs ..) hs))

theorem settleTagff_canon (g k d) :
    (settleTagff s g k d).all State.canon = true := by
  unfold settleTagff
  match teamOf s g.team with
  | none => rfl
  | some _ => exact holds_ite hs rfl

theorem settleTagrd_canon (g m err d) :
    (settleTagrd s g m err d).all State.canon = true := by
  unfold settleTagrd
  match teamOf s g.team with
  | none => rfl
  | some _ => exact holds_ite rfl hs

theorem settleCopy_canon (g id) :
    (settleCopy s g id).all State.canon = true := by
  unfold settleCopy
  match copyOf s id with
  | none => exact hs
  | some _ => exact holds_ite (takeTag_canon hs _) rfl

theorem settleFence_canon (g acq rel scope) :
    (settleFence s g acq rel scope).all State.canon = true := by
  unfold settleFence
  exact holds_ite (holds_ite (acquireAt_canon hs ..) hs) rfl

theorem settleStrmend_canon (g slot) :
    (settleStrmend s g slot).all State.canon = true := by
  unfold settleStrmend
  exact holds_ite hs rfl

theorem settleGbar_canon (g scope got) :
    (settleGbar s g scope got).all State.canon = true := by
  unfold settleGbar
  split
  · rfl
  · exact acquireAt_canon hs ..
  · exact wakeTrap_canon hs ..

theorem settleMreq_canon (g mask heavy) :
    (settleMreq s g mask heavy).all State.canon = true := by
  unfold settleMreq
  exact holds_ite (wakeTrap_canon hs ..) (holds_ite hs rfl)

theorem settleReinget_canon (g) :
    (settleReinget s g).all State.canon = true := by
  unfold settleReinget
  exact holds_ite hs (holds_ite (wakeTrap_canon hs ..) rfl)

theorem settleReinrel_canon (g) :
    (settleReinrel s g).all State.canon = true := by
  unfold settleReinrel
  exact holds_ite (freeTeamEnt_canon hs ..) rfl

theorem settleMwait_canon (g) :
    (settleMwait s g).all State.canon = true := by
  unfold settleMwait
  refine holds_ite (wakeTrap_canon (by exact hs) ..) (holds_ite rfl ?_)
  match mwaitEnd g with
  | (_, none) => exact hs
  | (_, some _) => exact wakeTrap_canon (by exact hs) ..

theorem settleCommand_canon (g id) :
    (settleCommand s g id).all State.canon = true := by
  unfold settleCommand
  exact holds_ite rfl hs

theorem settleQwr_canon (g id) :
    (settleQwr s g id).all State.canon = true := by
  unfold settleQwr
  exact holds_ite rfl hs

theorem settleResult_canon (g key) :
    (settleResult s g key).all State.canon = true := by
  unfold settleResult
  exact holds_ite rfl hs

theorem settleParked_canon (g) :
    (settleParked s g).all State.canon = true := by
  unfold settleParked
  match g.park with
  | none | some (.sleep _) | some .queue | some (.barw ..) | some (.barph ..) | some (.hfeed ..) | some (.mreset _) | some (.regrp ..) | some (.tlbinv ..) =>
    rfl
  | some (.tags ..) => exact settleTags_canon hs ..
  | some (.tagff ..) => exact settleTagff_canon hs ..
  | some (.tagrd ..) => exact settleTagrd_canon hs ..
  | some (.copy _) => exact settleCopy_canon hs ..
  | some (.fence ..) => exact settleFence_canon hs ..
  | some (.strmend _) => exact settleStrmend_canon hs ..
  | some (.strm ..) => exact strmResume_canon hs ..
  | some (.spawn ..) => exact spawnResume_canon hs _
  | some (.result _) => exact settleResult_canon hs ..
  | some (.gbar ..) => exact settleGbar_canon hs ..
  | some (.mreq ..) => exact settleMreq_canon hs ..
  | some .reinget => exact settleReinget_canon hs _
  | some .reinrel => exact settleReinrel_canon hs _
  | some (.command _) => exact settleCommand_canon hs ..
  | some .mwait => exact settleMwait_canon hs _
  | some (.qwr _) => exact settleQwr_canon hs ..
  | some (.treebind _) => exact settleTreebind_canon hs ..
  | some .leave => exact holds_ite hs rfl
  | some (.halt ..) => exact haltEnd_canon hs ..

theorem settleGroup_canon (g) :
    (settleGroup s g).all State.canon = true := by
  unfold settleGroup
  exact holds_ite rfl (holds_ite (haltGroup_canon hs _) (holds_ite (settleParked_canon hs _) rfl))

theorem copyNeed_canon (c) : (copyNeed s c).all State.canon = true := by
  unfold copyNeed
  match nextRecv s c with
  | none => rfl
  | some _ =>
    refine holds_ite rfl ?_
    split
    · exact askLine_canon hs ..
    · rfl

theorem slotNeed_canon (core n x) :
    (slotNeed s core n x).all State.canon = true := by
  unfold slotNeed
  refine holds_ite rfl ?_
  extract_lets w _ _
  match (strmAddr s core w x.recd x.moved).2 with
  | .error (.fault ..) | .error .wait => rfl
  | .error (.need ..) => exact askLine_canon hs ..
  | .ok dev =>
    refine holds_ite rfl ?_
    match (genRead s core w dev (strmSize x.recd)).2 with
    | .error (.fault ..) | .error .wait | .ok _ => rfl
    | .error (.need ..) => exact askLine_canon hs ..

theorem cmdNeed_canon (cluster) :
    (cmdNeed s cluster).all State.canon = true := by
  unfold cmdNeed
  match headCmd (engOf s cluster) with
  | none => rfl
  | some c =>
    dsimp only
    cases c.kind with
    | zld =>
      refine all_findSome (fun ps => ?_) _
      match readRow s c.key cluster ps with
      | .error (.fault ..) | .error .wait | .ok _ => rfl
      | .error (.need ..) => exact askLine_canon hs ..
    | desc _ _ _ _ _ _ tree =>
      refine all_or ?_ ?_
      · generalize readBytes _ _ _ _ = r
        match r with
        | .error (.fault ..) | .error .wait | .ok _ => rfl
        | .error (.need ..) => exact askLine_canon hs ..
      · match readBytes s (cmdWho c cluster) tree.bias (4 * (2 ^ tree.depth - 1)) with
        | .error (.fault ..) | .error .wait | .ok _ => rfl
        | .error (.need ..) => exact askLine_canon hs ..
    | dstep _ _ _ _ _ tree =>
      refine all_or ?_ ?_
      · generalize readBytes _ _ _ _ = r
        match r with
        | .error (.fault ..) | .error .wait | .ok _ => rfl
        | .error (.need ..) => exact askLine_canon hs ..
      · match readBytes s (cmdWho c cluster) tree.bias (4 * (2 ^ tree.depth - 1)) with
        | .error (.fault ..) | .error .wait | .ok _ => rfl
        | .error (.need ..) => exact askLine_canon hs ..
    | _ => rfl

theorem settleLinks_canon : (settleLinks s).all State.canon = true := by
  unfold settleLinks
  split
  · exact loseRemote_canon hs ..
  · refine all_or (sendWaiting_canon hs) (all_or (all_findSome (sendQueue_canon hs) _) ?_)
    refine all_or (all_findSome (answerAsk_canon hs) _) (all_or (peerClaim_canon hs) ?_)
    refine all_or (tellPerformed_canon hs) (all_or (sendOut_canon hs) (all_or (serveInbox_canon hs) ?_))
    refine all_or (all_findSome (stragStep_canon hs) _) ?_
    split
    · rfl
    · refine all_or (all_findSome (copyNeed_canon hs) _) (all_or (all_findSome (fun k => ?_) _) (all_findSome (cmdNeed_canon hs) _))
      exact all_findSome (fun x => slotNeed_canon hs ..) _

theorem settleCluster_canon (c) :
    (settleCluster s c).all State.canon = true := by
  unfold settleCluster
  exact holds_ite rfl (all_or (enterPend_canon hs _) (all_or (all_map (fun _ _ => hs)) (leaveAgain_canon hs _)))

theorem settleLeave_canon (c) :
    (settleLeave s c).all State.canon = true := by
  unfold settleLeave
  exact holds_ite hs rfl

theorem settleTeam_canon (t) :
    (settleTeam s t).all State.canon = true := by
  unfold settleTeam
  extract_lets _
  refine holds_ite rfl (holds_ite (freeTeamEnt_canon hs ..) (all_findSome (fun k => ?_) _))
  refine all_findSome (fun n => ?_) _
  exact holds_ite hs rfl

theorem settleCtx_canon (n) :
    (settleCtx s n).all State.canon = true := by
  unfold settleCtx
  exact holds_ite (suspendDone_canon hs _) rfl

theorem settleReplay_canon :
    (settleReplay s).all State.canon = true := by
  unfold settleReplay
  exact all_map (fun _ _ => hs)

theorem settleOne_canon : (settleOne s).all State.canon = true := by
  unfold settleOne
  refine all_or (settleReplay_canon hs) (all_or (all_findSome (settleGroup_canon hs) _) ?_)
  refine all_or (all_findSome (settleCluster_canon hs) _) (all_or (all_findSome (settleLeave_canon hs) _) ?_)
  exact all_or (all_findSome (settleTeam_canon hs) _) (all_or (all_findSome (settleCtx_canon hs) _) (settleLinks_canon hs))

theorem settleGo_canon (n) : (settleGo n s).canon = true := by
  induction n generalizing s with
  | zero => exact hs
  | succ n ih =>
    unfold settleGo
    have h := settleOne_canon hs
    split <;> rename_i e <;> rw [e] at h
    · exact hs
    · exact ih h

theorem settle_canon : (settle s).canon = true := by
  unfold settle
  exact settleGo_canon hs _

end

/-! ### Operations of Machine/Turns -/

section
variable {s : State} (hs : s.canon = true)
include hs

theorem endTurn_canon (s0 actor n) :
    (endTurn s0 actor n s).canon = true := by
  unfold endTurn
  exact settle_canon (by exact fitCaches_canon (canon_with hs))

theorem heldTurn_canon (s0 lane) :
    (heldTurn s0 lane s).canon = true := by
  unfold heldTurn
  exact endTurn_canon (canon_with hs) ..

theorem afterIssue_canon (s0 gid lane i) :
    (afterIssue s0 gid lane i s).canon = true := by
  unfold afterIssue
  exact holds_ite (heldTurn_canon hs ..) (endTurn_canon (by exact hs) ..)

theorem laneDo_canon (lane) :
    outcomeCanon (laneDo lane s) = true := by
  unfold laneDo
  match laneTurn s lane, laneTurn_canon hs lane with
  | .idle, _ => exact hs
  | .turn _, h => exact heldTurn_canon h ..
  | .run .., h =>
    dsimp only
    generalize hr : exec _ _ = r
    have h1 : outcomeCanon r = true := hr ▸ exec_canon (canon_with h) _
    clear hr
    match r with
    | .next _ => exact afterIssue_canon h1 ..
    | .fault _ | .refused _ => rfl

theorem ownDo_canon (o) :
    outcomeCanon (ownDo o s) = true := by
  unfold ownDo
  match o with
  | .trapEntry _ => exact execTrapEntry_canon hs _
  | .longLatencyResult .. => exact execLongLatencyResult_canon hs ..
  | .coalesceWindowClose _ => exact execCoalesceWindowClose_canon hs _
  | .groupCreate _ => exact execGroupCreate_canon hs _
  | .headerWaitMet _ => exact execHeaderWaitMet_canon hs _
  | .groupSave _ => exact execGroupSave_canon hs _
  | .groupRetire _ => exact execGroupRetire_canon hs _
  | .claimResult _ => exact execClaimResult_canon hs _
  | .sleepWake _ => exact execSleepWake_canon hs _
  | .queueAccept _ => exact execQueueAccept_canon hs _
  | .hfeedAppend _ => exact execHfeedAppend_canon hs _
  | .regrpComplete _ => exact execRegrpComplete_canon hs _
  | .tlbinvComplete _ => exact execTlbinvComplete_canon hs _
  | .storeArriveHome _ => exact execStoreArriveHome_canon hs _
  | .sliceAtomic _ => exact execSliceAtomic_canon hs _
  | .oredContribution _ => exact execOredContribution_canon hs _
  | .wcbDrain _ => exact execWcbDrain_canon hs _
  | .taskPush _ => exact execTaskPush_canon hs _
  | .gbarCombine _ => exact execGbarCombine_canon hs _
  | .gbarArrival _ => exact execGbarArrival_canon hs _
  | .copyStart _ => exact execCopyStart_canon hs _
  | .copyDelivery .. => exact execCopyDelivery_canon hs ..
  | .copyFail .. => exact execCopyFail_canon hs ..
  | .copyComplete _ => exact execCopyComplete_canon hs _
  | .copyPlanIssue _ => exact execCopyPlanIssue_canon hs _
  | .ptoExpire _ => exact execPtoExpire_canon hs _
  | .teamSave _ => exact execTeamSave_canon hs _
  | .teamRestore _ => exact execTeamRestore_canon hs _
  | .teamRetire _ => exact execTeamRetire_canon hs _
  | .launchComplete _ => exact execLaunchComplete_canon hs _
  | .teamPlace _ => exact execTeamPlace_canon hs _
  | .spanPlace _ => exact execSpanPlace_canon hs _
  | .preemptWaitExpire _ => exact execPreemptWaitExpire_canon hs _
  | .launchPop _ => exact execLaunchPop_canon hs _
  | .notifyActivation _ => exact execNotifyActivation_canon hs _
  | .teardownComplete _ => exact execTeardownComplete_canon hs _
  | .streamElement .. => exact execStreamElement_canon hs ..
  | .bankReplay _ => exact execBankReplay_canon hs _
  | .l1SectorExpire .. => exact execL1SectorExpire_canon hs ..
  | .passStart _ => exact execPassStart_canon hs _
  | .engineCommand _ => exact execEngineCommand_canon hs _
  | .ascendUpdate _ => exact execAscendUpdate_canon hs _
  | .commandRetire _ => exact execCommandRetire_canon hs _
  | .tileAcquire .. => exact execTileAcquire_canon hs ..
  | .reinGrant _ => exact execReinGrant_canon hs _
  | .engineResetComplete _ => exact execEngineResetComplete_canon hs _
  | .binTimerExpire .. => exact execBinTimerExpire_canon hs ..
  | .leaveGrant _ => exact execLeaveGrant_canon hs _
  | .voltageRampEnd _ => exact execVoltageRampEnd_canon hs _
  | .frequencySwitchEnd _ => exact execFrequencySwitchEnd_canon hs _
  | .linkTrainingTimeout _ => exact execLinkTrainingTimeout_canon hs _
  | .linkReplayLimit _ => exact execLinkReplayLimit_canon hs _
  | .policyStep => exact execPolicyStep_canon hs
  | .slewAdmit => exact execSlewAdmit_canon hs
  | .laneChoose _ => exact execLaneChoose_canon hs _

theorem doTurn_canon (t) :
    outcomeCanon (doTurn t s) = true := by
  unfold doTurn
  match t with
  | .tick _ => exact settle_canon (by exact hs)
  | .lane _ => exact laneDo_canon hs _
  | .fifo gid =>
    dsimp only
    match fifoLeave s gid, fifoLeave_canon hs gid with
    | none, _ => exact hs
    | some _, h => exact endTurn_canon h ..
  | .own _ =>
    dsimp only
    generalize hr : ownDo _ _ = r
    have h : outcomeCanon r = true := hr ▸ ownDo_canon (canon_with hs) _
    clear hr
    match r with
    | .next _ => exact endTurn_canon h ..
    | .fault _ => exact hs
    | .refused _ => rfl
  | .act _ =>
    dsimp only
    generalize hr : exec _ _ = r
    have h : outcomeCanon r = true := hr ▸ exec_canon (canon_with hs) _
    clear hr
    match r with
    | .next _ => exact endTurn_canon h ..
    | .fault _ => exact hs
    | .refused _ => rfl

theorem takeTurn_canon :
    outcomeCanon (takeTurn s) = true := by
  unfold takeTurn
  match s.agenda with
  | [] => exact hs
  | _ :: _ => exact doTurn_canon (canon_with hs) _

end

/-! ### Operations of Machine/Step -/

section
variable {s : State} (hs : s.canon = true)
include hs

theorem step_canon : outcomeCanon (step s) = true := by
  unfold step
  exact takeTurn_canon hs

end

/-- Settles O60: a step is a turn of the agenda, and every turn keeps the canonical form. -/
theorem everyStepKeepsMemoryCanonical : Obligations.EveryStepKeepsMemoryCanonical := by
  unfold Obligations.EveryStepKeepsMemoryCanonical
  intro s t hs h
  have ht := step_canon hs
  rwa [h] at ht

end Sys2Proof.Proofs

namespace Sys2Proof.Proofs
open Sys2Proof.Machine Sys2Proof.Laws Sys2Proof.Claims

/-! ## The state right after reset (O59) -/

theorem reset_contexts : State.reset.contexts = List.replicate 64 Context.empty := rfl
theorem reset_cores : State.reset.cores = List.replicate 576 Core.empty := rfl
theorem reset_clusters : State.reset.clusters = (List.range 144).map Cluster.fresh := rfl
theorem reset_links : State.reset.links = List.replicate 16 Link.down := rfl
theorem reset_undervolt : State.reset.undervolt = List.replicate 17 0 := rfl

theorem reset_canon : State.reset.canon = true := rfl

theorem reset_shaped : State.reset.shaped = true := by
  rw [State.shaped, reset_cores, reset_clusters, reset_contexts, reset_links, List.length_map, List.length_range]
  simp only [List.length_replicate, decide_true, Bool.and_true]

theorem reset_cluster {n : Nat} {c : Cluster} (h : State.reset.clusters[n]? = some c) : c = Cluster.fresh n := by
  rw [reset_clusters, List.getElem?_map, Option.map_eq_some_iff] at h
  obtain ⟨m, hm, rfl⟩ := h
  obtain ⟨_, rfl⟩ := List.getElem?_eq_some_iff.mp hm
  rw [List.getElem_range]

/-- A fresh cluster has the voltage that is requested for it in pool 0 where no undervolt is in force (18 R409). -/
theorem fresh_mv {s : State} (h : s.undervolt.getD 0 0 = 0) (n : Nat) : (Cluster.fresh n).mv = poolMv s n 0 := by
  simp only [Cluster.fresh, poolMv, h]
  omega

/-- Settles O59: every part of the state after reset is a literal but for the voltage of a cluster, which rests on its calibration and is
that of pool 0 where no undervolt is in force. -/
theorem resetState : Obligations.ResetState := by
  unfold Obligations.ResetState
  refine ⟨reset_canon, reset_shaped, ?contexts, rfl, rfl, rfl, ?cores, ?count, ?clusters, ?links, rfl, rfl, rfl, rfl⟩
  case contexts => rw [reset_contexts]; exact fun c => List.eq_of_mem_replicate
  case cores => rw [reset_cores]; exact fun c => List.eq_of_mem_replicate
  case count => rw [reset_clusters, List.length_map, List.length_range]
  case clusters =>
    intro n c h
    obtain rfl := reset_cluster h
    exact ⟨rfl, rfl, fresh_mv (by rw [reset_undervolt]; rfl) n⟩
  case links =>
    rw [reset_links]
    intro l h
    rw [List.eq_of_mem_replicate h, Link.down]

/-! ## Operating points (O42) -/

/-! ### One cluster changed -/

theorem clusterAt_of_getElem? {s : State} {c : Nat} {x : Cluster} (h : s.clusters[c]? = some x) : clusterAt s c = x := by
  rw [clusterAt, h, Option.getD_some]

theorem getElem?_onCluster {s : State} {c : Nat} {x : Cluster} (h : s.clusters[c]? = some x) (f : Cluster → Cluster) :
    (onCluster s c f).clusters[c]? = some (f x) := by
  rw [onCluster_clusters, List.getElem?_modify_eq, h, Option.map_eq_map, Option.map_some]

theorem clusterAt_onCluster {s : State} {c : Nat} (h : c < s.clusters.length) (f : Cluster → Cluster) :
    clusterAt (onCluster s c f) c = f (clusterAt s c) := by
  have hx := List.getElem?_eq_getElem h
  rw [clusterAt_of_getElem? hx, clusterAt_of_getElem? (getElem?_onCluster hx f)]

theorem clusterAt_onCluster_ne {s : State} {c d : Nat} (h : c ≠ d) (f : Cluster → Cluster) :
    clusterAt (onCluster s c f) d = clusterAt s d := by
  rw [clusterAt, onCluster_clusters, List.getElem?_modify_ne f _ h, clusterAt]

/-- The lane clock is a matter of the fabric cycle and of the cluster alone (01 R23). -/
theorem cyclesOf_congr {s t : State} {c : Nat} (hf : t.fcycles = s.fcycles) (hc : clusterAt t c = clusterAt s c) :
    cyclesOf t c = cyclesOf s c := by
  simp only [cyclesOf, hf, hc]

/-- A lane clock that is based at this fabric cycle stands at its base, whatever its frequency (01 R23). -/
theorem cyclesOf_based {s : State} {c : Nat} {x : Cluster} (h : s.clusters[c]? = some x) (hf : x.cycF = s.fcycles) :
    cyclesOf s c = x.cyc0 := by
  simp [cyclesOf, clusterAt_of_getElem? h, hf]

/-! ### The lane clock based anew -/

/-- A cluster whose lane clock is based anew in a lane cycle and a fabric cycle (01 R23, 18 R416). -/
def rebased (x : Cluster) (now fcycles : Nat) : Cluster :=
  { x with cyc0 := now, cycF := fcycles, stretched := if x.droop then x.stretched + (now - x.cyc0) else x.stretched }

theorem getElem?_rebase {s : State} {c : Nat} {x : Cluster} (h : s.clusters[c]? = some x) :
    (rebase s c).clusters[c]? = some (rebased x (cyclesOf s c) s.fcycles) :=
  getElem?_onCluster h _

/-- A change of a cluster whose lane clock has been based anew does not set the clock back, where it leaves the base. -/
theorem cyclesOf_onCluster_rebase {s : State} {c : Nat} {x : Cluster} (h : s.clusters[c]? = some x) (f : Cluster → Cluster)
    (h0 : ∀ y, (f y).cyc0 = y.cyc0) (hF : ∀ y, (f y).cycF = y.cycF) : cyclesOf (onCluster (rebase s c) c f) c = cyclesOf s c :=
  (cyclesOf_based (getElem?_onCluster (getElem?_rebase h) f) (hF _)).trans (h0 _)

/-! ### PWRQ -/

theorem ofTeam_eq (team : Nat) (r : LeaveBy) : r.ofTeam team = (decide (r = .tenure team) || decide (r = .leave team)) := by
  cases r <;> simp [LeaveBy.ofTeam]

/-- The table of the items gives what PWRQ reads (18 R421). -/
theorem pwrVal_of_mem {s : State} {g : Group} {n v : Nat} (h : (n, v) ∈ powerItems s g) : pwrVal s g n = v := by
  simp only [powerItems, List.mem_cons, Prod.mk.injEq, List.not_mem_nil, or_false] at h
  rcases h with ⟨rfl, rfl⟩ | ⟨rfl, rfl⟩ | ⟨rfl, rfl⟩ | ⟨rfl, rfl⟩ | ⟨rfl, rfl⟩ |
    ⟨rfl, rfl⟩ | ⟨rfl, rfl⟩ | ⟨rfl, rfl⟩ | ⟨rfl, rfl⟩ | ⟨rfl, rfl⟩
  case inr.inr.inl => cases h : groupLaunch s g <;> simp only [pwrVal, h] <;> rfl
  case inr.inr.inr.inr.inr.inr.inr.inr.inr => simp only [pwrVal, leaveWaits, ofTeam_eq]
  all_goals rfl

theorem mvNow_of_steady {x : Cluster} (h : x.change = none) (s : State) : mvNow s x = x.mv := by
  simp only [mvNow, h]

/-- The voltage of a ramp that does not fall, in steps of 25 mV (18 R421). -/
theorem mvNow_of_rise {x : Cluster} {y : Change} (h : x.change = some y) (hr : y.ramp = true) (hm : y.from_ ≤ y.mv) (s : State) :
    mvNow s x = y.from_ + (min (y.mv - y.from_).natAbs ((s.fcycles - y.at_) / 20) / 25 * 25 : Nat) := by
  simp [mvNow, h, hr, hm]

/-- The operation of PWRQ on a group that qualifies (18 R421). -/
def pwrqOp (f : RF) (g : Group) (s : State) : GOut :=
  if isReplay s g.ctx ∧ f.mod ≠ 3 then .trap s (trapC 0x0D 0)
  else .done (setGroup s (writeScalar g f.d.toNat (BitVec.ofNat 64 (pwrVal s g f.mod.toNat))))

theorem exec_pwrq (h : Hd) (f : RF) (s : State) : exec (.pwrq h f) s = wideOp (.pwrq h f) h (pwrqOp f) s := rfl

section
variable {s : State} {g : Group} {h : Hd} {f : RF} (hr : Runs s g (.pwrq h f)) (hw : wideActs g h = true)
include hr hw

theorem pwrq_traps (hy : isReplay s g.ctx = true) (hm : f.mod ≠ 3) : Traps (.pwrq h f) s s g (trapC 0x0D 0) :=
  wide_traps (exec_pwrq h f s) hr hw (if_pos ⟨hy, hm⟩) hr.2.1

theorem pwrq_does (hy : isReplay s g.ctx = true → f.mod = 3) :
    Does (.pwrq h f) s s g (writeScalar g f.d.toNat (BitVec.ofNat 64 (pwrVal s g f.mod.toNat))) [] := by
  have hs := writeScalar_scal g f.d.toNat (BitVec.ofNat 64 (pwrVal s g f.mod.toNat))
  refine wide_does (exec_pwrq h f s) hr hw (if_neg fun hn => hn.2 (hy hn.1)) hr.2.1 hs.id ?_ hs.ll hs.ln (hs.rd s)
  rw [hs.st, hr.2.2.1]
  decide

theorem pwrq_does_item {n v : Nat} (hi : (n, v) ∈ powerItems s g) (hn : f.mod.toNat = n) (hy : isReplay s g.ctx = true → n = 3) :
    Does (.pwrq h f) s s g (writeScalar g f.d.toNat (BitVec.ofNat 64 v)) [] := by
  have hd := pwrq_does hr hw (fun e => BitVec.eq_of_toNat_eq (hn.trans (hy e)))
  rwa [hn, pwrVal_of_mem hi] at hd

theorem pwrq_does_mv (hy : isReplay s g.ctx = false) (hm : f.mod = 1) :
    Does (.pwrq h f) s s g (writeScalar g f.d.toNat (BitVec.ofNat 64 (mvNow s (clusterAt s g.cluster)).toNat)) [] := by
  have hd := pwrq_does hr hw (fun e => absurd (hy.symm.trans e) Bool.false_ne_true)
  rwa [hm] at hd
end

/-! ### Changes of operating point, droops and undervolts -/

theorem exec_voltageRampEnd {s : State} {c : Nat} {x : Cluster} {y : Change} (hx : s.clusters[c]? = some x) (hy : x.change = some y)
    (hr : y.ramp = true) (ht : y.at_ + 20 * (y.mv - y.from_).natAbs ≤ s.fcycles) :
    exec (.voltageRampEnd c) s = .next (onCluster s c (fun x => { x with
      mv := y.mv, change := if y.up then some { y with ramp := false, at_ := s.fcycles } else none })) := by
  change execVoltageRampEnd c s = _
  rw [execVoltageRampEnd, clusterAt_of_getElem? hx, hy, onSome, if_neg]
  simp [hr, rampCycles, ht]

theorem exec_frequencySwitchEnd {s : State} {c : Nat} {x : Cluster} {y : Change} (hx : s.clusters[c]? = some x) (hy : x.change = some y)
    (hr : y.ramp = false) (ht : y.at_ + 64 ≤ s.fcycles) :
    exec (.frequencySwitchEnd c) s = .next (onCluster (rebase s c) c (fun x => { x with
      pool := y.pool, mhz := poolMhz y.pool, change := if y.up then none else some { y with ramp := true, at_ := s.fcycles } })) := by
  change execFrequencySwitchEnd c s = _
  rw [execFrequencySwitchEnd, clusterAt_of_getElem? hx, hy, onSome, if_neg]
  simp [hr, ht]

/-- The injections of a cluster in the last 65,536 lane cycles (18 R416). -/
def recentInjects (s : State) (c : Nat) (x : Cluster) : List Nat := x.injects.filter (fun k => decide (cyclesOf s c < k + 65536))

section
variable {s : State} {c : Nat} {x : Cluster} (hx : s.clusters[c]? = some x)
include hx

theorem exec_droopDetect (hc : c < 144) (hd : x.droop = false) : exec (.droopDetect c) s =
    if (recentInjects s c x).length < 64 then
      .next (onCluster s c (fun x' => { x' with injects := cyclesOf s c :: recentInjects s c x, injected := x'.injected + 1 }))
    else .next (onCluster (rebase s c) c (fun x' => { x' with injects := recentInjects s c x, droop := true })) := by
  change execDroopDetect c s = _
  rw [execDroopDetect, clusterAt_of_getElem? hx, if_neg (by simp [hd, hc])]
  rfl

theorem exec_droopEnd (hd : x.droop = true) :
    exec (.droopEnd c) s = .next (onCluster (rebase s c) c (fun x => { x with droop := false })) := by
  change execDroopEnd c s = _
  rw [execDroopEnd, clusterAt_of_getElem? hx, if_pos hd]
end

theorem exec_undervolt {s : State} (hm : s.firm.mode = 1) (pool mv : Nat) : exec (.undervolt pool mv) s =
    if 16 < pool ∨ 100 < mv then .next s else .next { s with undervolt := s.undervolt.set pool (-(mv : Int)) } := by
  change execUndervolt pool mv s = _
  rw [execUndervolt, if_neg (not_not_intro hm)]

theorem powerSteps : PowerSteps := by
  refine ⟨?pwrq, ?change, ?droop, ?undervolt⟩
  case pwrq =>
    intro s g h f hr hw
    refine ⟨pwrq_traps hr hw, fun n v => pwrq_does_item hr hw, fun y hy hm hc hramp hrise => ?_, fun hy hm hc => ?_⟩
    · have hd := pwrq_does_mv hr hw hy hm
      rwa [mvNow_of_rise hc hramp hrise] at hd
    · have hd := pwrq_does_mv hr hw hy hm
      rwa [mvNow_of_steady hc] at hd
  case change =>
    intro s c x y hx hy
    exact ⟨exec_voltageRampEnd hx hy, fun hr ht => ⟨_, _, exec_frequencySwitchEnd hx hy hr ht, getElem?_onCluster (getElem?_rebase hx) _,
      rfl, rfl, rfl, cyclesOf_onCluster_rebase hx _ (fun _ => rfl) (fun _ => rfl), rfl⟩⟩
  case droop =>
    intro s c x hx hc
    refine ⟨fun hd hn => ?_, fun hd hn => ?_, fun hd => ?_⟩
    · exact ⟨_, (exec_droopDetect hx hc hd).trans (if_pos hn), getElem?_onCluster hx _⟩
    · exact ⟨_, _, (exec_droopDetect hx hc hd).trans (if_neg (not_lt.mpr hn)), getElem?_onCluster (getElem?_rebase hx) _, rfl, rfl,
        cyclesOf_onCluster_rebase hx _ (fun _ => rfl) (fun _ => rfl)⟩
    · exact ⟨_, _, exec_droopEnd hx hd, getElem?_onCluster (getElem?_rebase hx) _, rfl,
        cyclesOf_onCluster_rebase hx _ (fun _ => rfl) (fun _ => rfl), if_pos hd⟩
  case undervolt =>
    intro s pool mv hm
    exact ⟨fun hp hv => (exec_undervolt hm pool mv).trans (if_neg (by omega)), fun h => (exec_undervolt hm pool mv).trans (if_pos h)⟩

/-! ### What a record changes -/

/-- The machine but for what a record that enters a queue changes: the queue and who waits at it, memory, the traffic to other devices,
the counts and events of the context, and what the host is sent (04 R89, R90, R94; 12 R298 to R301). -/
def outsideNotes (s : State) : State :=
  { s with nextId := 0, mem := [], wcbs := [], remotes := [], queues := [], claims := [], out := [], msixPend := [], contexts := [], links := [] }

theorem outsideNotes_with (s : State) {nextId mem wcbs remotes queues claims out msixPend contexts links} : outsideNotes { s with
    nextId := nextId, mem := mem, wcbs := wcbs, remotes := remotes, queues := queues, claims := claims, out := out, msixPend := msixPend,
    contexts := contexts, links := links } = outsideNotes s := rfl

theorem keeps_ite {β : Type} {p : State → β} {c : Prop} [Decidable c] {a b : State} {r : β} (ha : p a = r) (hb : p b = r) :
    p (if c then a else b) = r := by
  split <;> assumption

/-- What each of several steps keeps, they keep together. -/
theorem foldl_keeps {α β : Type} {p : State → β} {f : State → α → State} (hf : ∀ s a, p (f s a) = p s) (xs : List α) (s : State) :
    p (xs.foldl f s) = p s :=
  List.foldlRecOn (motive := fun t => p t = p s) xs f rfl (fun t ht a _ => (hf t a).trans ht)

section
variable (s : State)

theorem outsideNotes_walkNow (ctx va : Nat) (acc : Acc) : outsideNotes (walkNow s ctx va acc).1 = outsideNotes s := by
  unfold walkNow
  split
  · exact keeps_ite (outsideNotes_with s) (outsideNotes_with s)
  · rfl

theorem outsideNotes_sendRemote (r : Remote) (pa : Nat) : outsideNotes (sendRemote s r pa) = outsideNotes s := by
  unfold sendRemote
  dsimp only
  split <;> exact keeps_ite (outsideNotes_with s) (outsideNotes_with s)

theorem outsideNotes_sendBytes (dev ctx : Nat) (launch : Option Nat) (page : PageAttr) (va : Option (Nat × Bool)) (pa : Nat) (bs : List Byte) :
    outsideNotes (sendBytes s dev ctx launch page va pa bs) = outsideNotes s :=
  foldl_keeps (fun s _ => outsideNotes_sendRemote (takeId s).2 _ _) _ s

theorem outsideNotes_slicePut (ctx va : Nat) (bs : List Byte) : outsideNotes (slicePut s ctx va bs) = outsideNotes s := by
  have hw := outsideNotes_walkNow s ctx va .wr
  unfold slicePut
  split <;> rename_i h <;> rw [h] at hw
  · exact hw
  · split
    · exact (outsideNotes_with _).trans hw
    · exact (outsideNotes_sendBytes ..).trans hw

theorem outsideNotes_putQueue (q : Queue) : outsideNotes (putQueue s q) = outsideNotes s := outsideNotes_with s

theorem outsideNotes_answerClaim (gid key : Nat) (ent : Option QEntry) : outsideNotes (answerClaim s gid key ent) = outsideNotes s :=
  outsideNotes_with s

theorem outsideNotes_closeIfEmpty (pa : Nat) : outsideNotes (closeIfEmpty s pa) = outsideNotes s := by
  unfold closeIfEmpty
  split
  · rfl
  · rename_i q _
    exact keeps_ite ((outsideNotes_with (putQueue s { q with st := 3 })).trans (outsideNotes_putQueue ..)) rfl

theorem outsideNotes_serveGo (pa n : Nat) : outsideNotes (serveGo pa n s) = outsideNotes s := by
  induction n generalizing s with
  | zero => rfl
  | succ n ih =>
    unfold serveGo
    split
    · split
      · exact (ih _).trans ((outsideNotes_answerClaim ..).trans (outsideNotes_putQueue ..))
      · exact keeps_ite rfl ((ih _).trans (outsideNotes_answerClaim ..))
    · rfl

theorem outsideNotes_appendEntry (q : Queue) (bytes : List Byte) (stamps regions : List (Nat × Nat)) :
    outsideNotes (appendEntry s q bytes stamps regions) = outsideNotes s :=
  calc outsideNotes (appendEntry s q bytes stamps regions)
      = outsideNotes (serveGo q.pa _ _) := outsideNotes_closeIfEmpty _ _
    _ = outsideNotes (putQueue (storeEntry s q q.next bytes) _) := outsideNotes_serveGo _ _ _
    _ = outsideNotes (storeEntry s q q.next bytes) := outsideNotes_putQueue ..
    _ = outsideNotes s := keeps_ite rfl (outsideNotes_slicePut ..)

theorem outsideNotes_raiseEvent (ctx bit : Nat) : outsideNotes (raiseEvent s ctx bit) = outsideNotes s := by
  unfold raiseEvent
  split
  · rfl
  · exact keeps_ite (outsideNotes_with s) (keeps_ite (outsideNotes_with s) (outsideNotes_with s))

theorem outsideNotes_noteRaw (ctx kind a0 a1 : Nat) : outsideNotes (noteRaw s ctx kind a0 a1) = outsideNotes s := by
  unfold noteRaw
  split
  · rfl
  · exact keeps_ite (outsideNotes_with s) ((outsideNotes_raiseEvent ..).trans (outsideNotes_appendEntry ..))

theorem outsideNotes_lostFirst (ctx : Nat) : outsideNotes (lostFirst s ctx) = outsideNotes s := by
  unfold lostFirst
  split
  · exact keeps_ite ((outsideNotes_noteRaw ..).trans (outsideNotes_with s)) rfl
  · rfl

theorem outsideNotes_notify (ctx kind a0 a1 : Nat) : outsideNotes (notify s ctx kind a0 a1) = outsideNotes s :=
  (outsideNotes_noteRaw ..).trans (outsideNotes_lostFirst ..)

theorem outsideNotes_notifyCluster (c kind a1 : Nat) : outsideNotes (notifyCluster s c kind a1) = outsideNotes s :=
  foldl_keeps (fun s ctx => outsideNotes_notify s ctx kind c a1) _ s

end

/-! ### What a policy step leaves of a cluster that it places -/

/-- A cluster but for what its placing and its ration set (18 R413, R415, R418, R419). -/
def unplaced (x : Cluster) : Cluster := { x with leaveQ := [], change := none, throttled := false, grantR := 0 }

/-- The fabric cycle, the next policy step, and the clusters but for what their placing and their rations set. -/
def besidesPlacing (s : State) : Nat × Nat × List Cluster := (s.fcycles, s.policyAt, s.clusters.map unplaced)

theorem besidesPlacing_of_outsideNotes {s t : State} (h : outsideNotes t = outsideNotes s) : besidesPlacing t = besidesPlacing s := by
  change besidesPlacing (outsideNotes t) = besidesPlacing (outsideNotes s)
  rw [h]

theorem besidesPlacing_onCluster (s : State) (c : Nat) {f : Cluster → Cluster} (hf : ∀ x, unplaced (f x) = unplaced x := by intros; rfl) :
    besidesPlacing (onCluster s c f) = besidesPlacing s := by
  have hm : (s.clusters.modify c f).map unplaced = s.clusters.map unplaced := by
    apply List.ext_getElem?
    intro d
    rcases ne_or_eq c d with hcd | rfl
    · rw [List.getElem?_map, List.getElem?_modify_ne f _ hcd, List.getElem?_map]
    · cases h : s.clusters[c]? <;> simp [h, hf]
  simp only [besidesPlacing, onCluster, hm]

theorem besidesPlacing_notifyCluster (s : State) (c kind a1 : Nat) : besidesPlacing (notifyCluster s c kind a1) = besidesPlacing s :=
  besidesPlacing_of_outsideNotes (outsideNotes_notifyCluster ..)

theorem besidesPlacing_askPool (s : State) (c target : Nat) : besidesPlacing (askPool s c target) = besidesPlacing s :=
  keeps_ite rfl (keeps_ite (besidesPlacing_notifyCluster ..) (besidesPlacing_onCluster s c))

theorem besidesPlacing_setThrottle (s : State) (c target pool lo : Nat) : besidesPlacing (setThrottle s c target pool lo) = besidesPlacing s := by
  unfold setThrottle
  extract_lets was is s1
  have hs : besidesPlacing s1 = besidesPlacing s := besidesPlacing_onCluster s c
  exact keeps_ite ((besidesPlacing_notifyCluster ..).trans hs) (keeps_ite ((besidesPlacing_notifyCluster ..).trans hs) hs)

theorem besidesPlacing_placeCluster (ts : List Nat) (s : State) (c : Nat) : besidesPlacing (placeCluster ts s c) = besidesPlacing s := by
  unfold placeCluster
  exact keeps_ite rfl (((besidesPlacing_setThrottle ..).trans (besidesPlacing_askPool ..)).trans (besidesPlacing_onCluster s c))

section
variable {s t : State} (h : besidesPlacing t = besidesPlacing s)
include h

theorem fcycles_of_besidesPlacing : t.fcycles = s.fcycles := congrArg (fun p => p.1) h
theorem policyAt_of_besidesPlacing : t.policyAt = s.policyAt := congrArg (fun p => p.2.1) h

theorem length_of_besidesPlacing : t.clusters.length = s.clusters.length := by
  have hc := congrArg (fun p => p.2.2.length) h
  simpa only [besidesPlacing, List.length_map] using hc

theorem unplaced_clusterAt (c : Nat) : unplaced (clusterAt t c) = unplaced (clusterAt s c) := by
  have hc : t.clusters.map unplaced = s.clusters.map unplaced := congrArg (fun p => p.2.2) h
  have hm := congrArg (fun xs => xs[c]?) hc
  simp only [List.getElem?_map] at hm
  simp only [clusterAt, ← Option.getD_map unplaced, hm]

end

/-! ### One change of every cluster -/

/-- Clusters changed one after another, each by a change that depends on the fabric cycle and on that cluster alone: each is changed
as the state before them all says. -/
theorem clusterAt_foldl_onCluster {G : State → Nat → Cluster → Cluster}
    (hG : ∀ s t c, t.fcycles = s.fcycles → clusterAt t c = clusterAt s c → G t c = G s c) {s : State} {n : Nat} (hn : n ≤ s.clusters.length)
    (c : Nat) : clusterAt ((List.range n).foldl (fun s c => onCluster s c (G s c)) s) c =
      if c < n then G s c (clusterAt s c) else clusterAt s c := by
  induction n generalizing c with
  | zero => rfl
  | succ n ih =>
    have hc := ih (by omega)
    have hf := foldl_keeps (p := State.fcycles) (f := fun s c => onCluster s c (G s c)) (fun _ _ => rfl) (List.range n) s
    have hl := foldl_keeps (p := fun s => s.clusters.length) (f := fun s c => onCluster s c (G s c)) (fun _ _ => List.length_modify ..)
      (List.range n) s
    rw [List.range_succ, List.foldl_append, List.foldl_cons, List.foldl_nil]
    generalize (List.range n).foldl _ s = t at hf hl hc
    have hself : clusterAt t n = clusterAt s n := (hc n).trans (if_neg (lt_irrefl n))
    rcases ne_or_eq n c with hne | rfl
    · rw [clusterAt_onCluster_ne hne, hc]
      exact if_congr (by omega) rfl rfl
    · rw [clusterAt_onCluster (by omega), hself, hG s t n hf hself, if_pos (lt_add_one n)]

/-! ### The policy step -/

/-- A cluster whose interval ends in a lane cycle (18 R412). -/
def intervalClosed (now : Nat) (x : Cluster) : Cluster :=
  let r := fun (n : Nat) => if now ≤ x.mark then 0 else min 1024 (n * 1024 / (now - x.mark))
  { x with ratios := [r x.memstall, r x.issue, r x.mxbusy], memstall := 0, issue := 0, mxbusy := 0, mark := now }

/-- The grant limit that a cluster is given: one of the six (18 R418). -/
def ration (c k : Nat) : Nat := ([32, 24, 16, 12, 8, 4] : List Nat).getD (Config.ration c k).val 32

theorem ration_mem (c k : Nat) : ration c k ∈ [32, 24, 16, 12, 8, 4] := by
  rw [ration, List.getD_eq_getElem _ _ (Config.ration c k).isLt]
  exact List.getElem_mem _

/-- The parts of a policy step, in their order: the grants of the contexts, the ends of the intervals, the placing, the rations. -/
def granted (s : State) : State := (List.range 64).foldl applyGrant { s with policyAt := (s.fcycles / 20000 + 1) * 20000 }
@[inherit_doc granted] def allClosed (s : State) : State := (List.range 144).foldl closeInterval s
@[inherit_doc granted] def allPlaced (ts : List Nat) (s : State) : State := (List.range 144).foldl (placeCluster ts) s
@[inherit_doc granted] def allRationed (k : Nat) (s : State) : State :=
  (List.range 144).foldl (fun s c => onCluster s c (fun x => { x with grantR := ration c k })) s

theorem exec_policyStep {s : State} (hm : s.firm.mode = 1) (hp : s.policyAt ≤ s.fcycles) :
    ∃ ts k, exec .policyStep s = .next { allRationed k (allPlaced ts (allClosed (granted s))) with freeCtr := k + 1 } := by
  change ∃ ts k, execPolicyStep s = _
  rw [execPolicyStep, if_neg (by simp [hm, hp])]
  exact ⟨_, _, rfl⟩

theorem applyGrant_clusters (s : State) (ctx : Nat) : (applyGrant s ctx).clusters = s.clusters := by unfold applyGrant; split <;> rfl
theorem applyGrant_fcycles (s : State) (ctx : Nat) : (applyGrant s ctx).fcycles = s.fcycles := by unfold applyGrant; split <;> rfl
theorem applyGrant_policyAt (s : State) (ctx : Nat) : (applyGrant s ctx).policyAt = s.policyAt := by unfold applyGrant; split <;> rfl

theorem granted_clusters (s : State) : (granted s).clusters = s.clusters := foldl_keeps applyGrant_clusters _ _
theorem granted_fcycles (s : State) : (granted s).fcycles = s.fcycles := foldl_keeps applyGrant_fcycles _ _
theorem granted_policyAt (s : State) : (granted s).policyAt = (s.fcycles / 20000 + 1) * 20000 := foldl_keeps applyGrant_policyAt _ _

theorem clusterAt_granted (s : State) (c : Nat) : clusterAt (granted s) c = clusterAt s c := by rw [clusterAt, granted_clusters, clusterAt]

theorem allClosed_fcycles (s : State) : (allClosed s).fcycles = s.fcycles :=
  foldl_keeps (p := State.fcycles) (f := closeInterval) (fun _ _ => rfl) _ s
theorem allClosed_policyAt (s : State) : (allClosed s).policyAt = s.policyAt :=
  foldl_keeps (p := State.policyAt) (f := closeInterval) (fun _ _ => rfl) _ s
theorem allClosed_length (s : State) : (allClosed s).clusters.length = s.clusters.length :=
  foldl_keeps (p := fun s => s.clusters.length) (fun _ _ => List.length_modify ..) _ _

theorem clusterAt_allClosed {s : State} (hl : s.clusters.length = 144) {c : Nat} (hc : c < 144) :
    clusterAt (allClosed s) c = intervalClosed (cyclesOf s c) (clusterAt s c) :=
  (clusterAt_foldl_onCluster (G := fun s c => intervalClosed (cyclesOf s c)) (fun s t c hf hx => by rw [cyclesOf_congr hf hx]) hl.ge c).trans
    (if_pos hc)

theorem besidesPlacing_allPlaced (ts : List Nat) (s : State) : besidesPlacing (allPlaced ts s) = besidesPlacing s :=
  foldl_keeps (besidesPlacing_placeCluster ts) _ s

theorem besidesPlacing_allRationed (k : Nat) (s : State) : besidesPlacing (allRationed k s) = besidesPlacing s :=
  foldl_keeps (fun s c => besidesPlacing_onCluster s c) _ s

theorem clusterAt_allRationed (k : Nat) {s : State} (hl : s.clusters.length = 144) {c : Nat} (hc : c < 144) :
    clusterAt (allRationed k s) c = { clusterAt s c with grantR := ration c k } :=
  (clusterAt_foldl_onCluster (G := fun _ c x => { x with grantR := ration c k }) (fun _ _ _ _ _ => rfl) hl.ge c).trans (if_pos hc)

theorem policySteps : PolicySteps := by
  intro s hm hp hl
  obtain ⟨ts, k, hx⟩ := exec_policyStep hm hp
  have hg : (granted s).clusters.length = 144 := by rw [granted_clusters, hl]
  have hplaced := besidesPlacing_allPlaced ts (allClosed (granted s))
  have hw : (allPlaced ts (allClosed (granted s))).clusters.length = 144 := by rw [length_of_besidesPlacing hplaced, allClosed_length, hg]
  have hb := (besidesPlacing_allRationed k _).trans hplaced
  have hr := fun c => clusterAt_allRationed k hw (c := c)
  generalize allRationed k (allPlaced ts (allClosed (granted s))) = t at hx hb hr
  refine ⟨_, hx, ?_, ?_, fun c hc => ?_⟩
  · change t.policyAt = _
    rw [policyAt_of_besidesPlacing hb, allClosed_policyAt, granted_policyAt]
  · change t.fcycles = _
    rw [fcycles_of_besidesPlacing hb, allClosed_fcycles, granted_fcycles]
  · have hu := unplaced_clusterAt hb c
    rw [clusterAt_allClosed hg hc, clusterAt_granted, cyclesOf_congr (granted_fcycles s) (clusterAt_granted s c)] at hu
    have hgr : (clusterAt t c).grantR = ration c k := by rw [hr c hc]
    exact ⟨congrArg Cluster.ratios hu, congrArg Cluster.memstall hu, congrArg Cluster.issue hu, congrArg Cluster.mxbusy hu,
      congrArg Cluster.mark hu, (congrArg Cluster.pool hu :), (congrArg Cluster.mhz hu :), hgr ▸ ration_mem c k⟩

/-- Settles O42: a row is worked out from its own conditions, and a policy step part by part, of which the placing and the rations leave
what the end of the interval set. -/
theorem operatingPoints : Obligations.OperatingPoints := ⟨powerSteps, policySteps⟩

end Sys2Proof.Proofs

namespace Sys2Proof.Proofs
open Sys2Proof.Machine Sys2Proof.Laws Sys2Proof.Claims

/-! ## The engine at work on its first command (O37) -/

/-! ### Engines, tiles and commands after a change -/

theorem engOf_onEng {s : State} {c : Nat} (h : c < s.clusters.length) (f : Engine → Engine) : engOf (onEng s c f) c = f (engOf s c) := by
  rw [engOf, onEng, clusterAt_onCluster h, engOf]

theorem tileOf_putTile_same (e : Engine) (z : Nat) (ws : List W32) : tileOf (putTile e z ws) z = ws := by
  simp [tileOf, putTile]

theorem tileOf_putTile_ne (e : Engine) {y z : Nat} (ws : List W32) (h : y ≠ z) : tileOf (putTile e z ws) y = tileOf e y := by
  rw [tileOf, putTile, List.find?_cons_of_neg (by simp [h.symm]), find_filter_ne _ _ _ _ h, tileOf]

/-- The first of some keyed things under its key, where those under a key have been changed. -/
theorem find_map_keyed {α : Type} {key : α → Nat} {f : α → α} (hf : ∀ x, key (f x) = key x) (n : Nat) (xs : List α) :
    (xs.map (fun x => if key x = n then f x else x)).find? (fun x => decide (key x = n)) =
      (xs.find? (fun x => decide (key x = n))).map f := by
  have hp : (fun x => decide (key x = n)) ∘ (fun x => if key x = n then f x else x) = fun x => decide (key x = n) := by
    funext x
    by_cases hx : key x = n <;> simp [hx, hf]
  rw [List.find?_map, hp]
  cases h : xs.find? (fun x => decide (key x = n)) with
  | none => rfl
  | some x => simp [show key x = n by simpa using List.find?_some h]

theorem headCmd_congr {e e' : Engine} (h : e'.cmds = e.cmds) : headCmd e' = headCmd e := by
  rw [headCmd, h, headCmd]

/-- The first command replaced by one of its kind is the first. -/
theorem headCmd_putCmd {e : Engine} {k k' : ECmd} (h : headCmd e = some k) (hu : ∀ x ∈ e.cmds, x.key = k.key → x = k)
    (hkey : k'.key = k.key) (hkind : k'.kind = k.kind) : headCmd (putCmd e k') = some k' := by
  have hm : (putCmd e k').cmds = e.cmds.map (fun x => if x = k then k' else x) := by
    refine List.map_congr_left fun x hx => if_congr ⟨fun he => hu x hx (he.trans hkey), fun he => ?_⟩ rfl rfl
    rw [he, hkey]
  have hk : ∀ x, (if x = k then k' else x).kind = x.kind := fun x => by
    split
    · rename_i he
      rw [hkind, he]
    · rfl
  rw [headCmd, hm, List.find?_map]
  simp only [Function.comp_def, hk]
  rw [show e.cmds.find? _ = some k from h, Option.map_some, if_pos rfl]

/-! ### ENGINE_COMMAND -/

/-- A command whose effect is done, in a fabric cycle. -/
def doneAt (k : ECmd) (fcycles : Nat) : ECmd := { k with phase := 2, fail := k.fail.map (fun t => { t with at_ := some fcycles }) }

/-- The state in which the effect of a command is done, from what the command gave (10 R254). -/
def effectDone (c : Nat) (r : State × ECmd) : State := onEng r.1 c (fun e => putCmd e (doneAt r.2 r.1.fcycles))

/-- What ENGINE_COMMAND needs of the command whose turn has come: what it takes and what it reads is there. -/
def CommandReady (s : State) (c : Nat) (k : ECmd) : Prop := cmdReady s c k = true ∧ treeNeed s c k = false

theorem exec_engineCommand {s : State} {c : Nat} {k : ECmd} {r : State × ECmd} (hk : Heads s c k) (hr : CommandReady s c k)
    (hrun : runCmd s c k = r) : exec (.engineCommand c) s = .next (effectDone c r) := by
  obtain ⟨-, hq, hh, -⟩ := hk
  subst hrun
  change execEngineCommand c s = _
  simp only [execEngineCommand, hq, hh, hr.1, hr.2, Bool.not_false, Bool.and_self, if_true]
  rfl

section
variable {s : State} {c n : Nat} {k k1 : ECmd} {F : Engine → Engine} (hk : Heads s c k)
include hk

/-- The engine after the effect of its first command, which beside free choices changed that engine alone. -/
theorem engOf_effectDone : engOf (effectDone c (onEng { s with freeCtr := n } c F, k1)) c = putCmd (F (engOf s c)) (doneAt k1 s.fcycles) := by
  have h1 : c < (onEng { s with freeCtr := n } c F).clusters.length := by simpa [onEng] using hk.1
  calc engOf (effectDone c (onEng { s with freeCtr := n } c F, k1)) c
      = putCmd (engOf (onEng { s with freeCtr := n } c F) c) (doneAt k1 s.fcycles) := engOf_onEng h1 _
    _ = putCmd (F (engOf { s with freeCtr := n } c)) (doneAt k1 s.fcycles) := by rw [engOf_onEng (by exact hk.1)]
    _ = putCmd (F (engOf s c)) (doneAt k1 s.fcycles) := rfl

theorem headCmd_effectDone (hc : (F (engOf s c)).cmds = (engOf s c).cmds) (hkey : k1.key = k.key) (hkind : k1.kind = k.kind) :
    headCmd (engOf (effectDone c (onEng { s with freeCtr := n } c F, k1)) c) = some (doneAt k1 s.fcycles) := by
  obtain ⟨-, -, hh, hu⟩ := id hk
  rw [engOf_effectDone hk]
  exact headCmd_putCmd ((headCmd_congr hc).trans hh) (by rwa [hc]) hkey hkind

/-- A command that gives a tile, its flags, and nothing else of the tiles and the queue. -/
theorem tileDone_of_run {z : Nat} {w : List W32} {fl : Flags} (hr : CommandReady s c k)
    (hrun : runCmd s c k = (onEng { s with freeCtr := n } c F, k1)) (h1 : k1 = { k with flags := fl })
    (hc : (F (engOf s c)).cmds = (engOf s c).cmds) (ht : (F (engOf s c)).tiles = (putTile (engOf s c) z w).tiles) :
    TileDone s c k z w fl := by
  subst h1
  have htile : ∀ y, tileOf (putCmd (F (engOf s c)) (doneAt { k with flags := fl } s.fcycles)) y = tileOf (putTile (engOf s c) z w) y :=
    fun y => by rw [tileOf, putCmd, ht, tileOf]
  refine ⟨_, exec_engineCommand hk hr hrun, ?_, fun y hy => ?_, headCmd_effectDone hk hc rfl rfl, rfl⟩
  · rw [engOf_effectDone hk, htile, tileOf_putTile_same]
  · rw [engOf_effectDone hk, htile, tileOf_putTile_ne _ _ hy]
end

/-! ### The operations on tiles in place, and HDRAIN -/

/-- The commands that need nothing but tiles: they take nothing from a stream and nothing from memory (10 R270, R272). -/
def tilesOnly : CmdK → Bool
  | .zzero _ | .zscale _ _ _ | .zadd _ _ _ | .zcvt _ _ | .hdrain _ _ _ _ => true
  | _ => false

theorem commandReady_tilesOnly {k : ECmd} (s : State) (c : Nat) (hp : k.phase = 0) (h : tilesOnly k.kind = true) : CommandReady s c k := by
  rw [CommandReady, cmdReady, rowsHere, treeNeed]
  cases hkind : k.kind <;> rw [hkind] at h
  case zzero | zscale | zadd | zcvt | hdrain => simp [CmdK.aUse, hp]
  all_goals exact absurd h Bool.false_ne_true

section
variable {s : State} {c z : Nat} {k : ECmd} (hk : Heads s c k)
include hk

/-- A command that gives each element of a tile by itself (10 R272). -/
theorem mapTile_done {f : Nat → W32 → W32 × Flags} (hr : CommandReady s c k)
    (hrun : runCmd s c k = (onEng s c (fun e => putTile e z (mapTile f (tileOf (engOf s c) z)).1),
      { k with flags := (mapTile f (tileOf (engOf s c) z)).2 })) :
    TileDone s c k z (((tileOf (engOf s c) z).zipIdx.map (fun x => f x.2 x.1)).map (fun o => o.1))
      (allFlags ((tileOf (engOf s c) z).zipIdx.map (fun x => f x.2 x.1))) :=
  tileDone_of_run hk hr hrun rfl rfl rfl

variable (hp : k.phase = 0)
include hp

theorem zzero_done (h : k.kind = .zzero z) : TileDone s c k z (List.replicate 1024 0) k.flags := by
  have hrun : runCmd s c k = (onEng s c (fun e => putTile e z (List.replicate 1024 0)), k) := by simp only [runCmd, runTile, h]
  exact tileDone_of_run hk (commandReady_tilesOnly s c hp (by rw [h]; rfl)) hrun rfl rfl rfl

theorem zscale_done {ty : Ty} {v : W32} (h : k.kind = .zscale z ty v) :
    TileDone s c k z (((tileOf (engOf s c) z).zipIdx.map (fun x => scaleEl ty v x.1)).map (fun o => o.1))
      (allFlags ((tileOf (engOf s c) z).zipIdx.map (fun x => scaleEl ty v x.1))) :=
  mapTile_done (f := fun _ x => scaleEl ty v x) hk
    (commandReady_tilesOnly s c hp (by rw [h]; rfl)) (by simp only [runCmd, runTile, h])

theorem zadd_done {y : Nat} {ty : Ty} (h : k.kind = .zadd z y ty) :
    TileDone s c k z (((tileOf (engOf s c) z).zipIdx.map (fun x => addEl ty ((tileOf (engOf s c) y).getD x.2 0) x.1)).map (fun o => o.1))
      (allFlags ((tileOf (engOf s c) z).zipIdx.map (fun x => addEl ty ((tileOf (engOf s c) y).getD x.2 0) x.1))) :=
  mapTile_done (f := fun i x => addEl ty ((tileOf (engOf s c) y).getD i 0) x) hk
    (commandReady_tilesOnly s c hp (by rw [h]; rfl)) (by simp only [runCmd, runTile, h])

theorem zcvt_done {ty : Ty} (h : k.kind = .zcvt z ty) :
    TileDone s c k z (((tileOf (engOf s c) z).zipIdx.map (fun x => cvtEl ty x.1)).map (fun o => o.1))
      (allFlags ((tileOf (engOf s c) z).zipIdx.map (fun x => cvtEl ty x.1))) :=
  mapTile_done (f := fun _ x => cvtEl ty x) hk
    (commandReady_tilesOnly s c hp (by rw [h]; rfl)) (by simp only [runCmd, runTile, h])

theorem hdrain_done {row0 line : Nat} {ts : List Nat} {g : Group} {l : LL} (h : k.kind = .hdrain z row0 line ts)
    (hg : groupOf s k.gid = some g) (hl : g.ll.find? (fun l => decide (l.key = k.key)) = some l) :
    ∃ t g', exec (.engineCommand c) s = .next t ∧ groupOf t k.gid = some g' ∧ g'.ll.find? (fun l => decide (l.key = k.key)) =
      some { l with need := 0, vec := drainVec (tileOf (engOf s c) z) row0 line ts } := by
  have hrun : runCmd s c k = (giveLL s k.gid k.key (drainVec (tileOf (engOf s c) z) row0 line ts), k) := by simp only [runCmd, runTile, h]
  have hg' : groupOf (giveLL s k.gid k.key (drainVec (tileOf (engOf s c) z) row0 line ts)) k.gid = some { g with
      ll := g.ll.map (fun l => if l.key = k.key then { l with need := 0, vec := drainVec (tileOf (engOf s c) z) row0 line ts } else l) } :=
    groupOf_onGroup hg (fun _ => rfl)
  refine ⟨_, _, exec_engineCommand hk (commandReady_tilesOnly s c hp (by rw [h]; rfl)) hrun, hg', ?_⟩
  dsimp only
  rw [find_map_keyed (by intro; rfl), hl, Option.map_some]
end

/-! ### Passes -/

/-- PASS_START (10 R248, R259). -/
theorem exec_passStart {s : State} {c : Nat} {k : ECmd} (hh : headCmd (engOf s c) = some k) (hp : k.phase = 0) (hu : k.kind.aUse.isSome = true)
    (hsw : switching s c = false) (hlv : k.kind.heavy = true → k.lv = true ∨ hasLeave s c k.team = true) (hb : bFull k = true)
    (ha : aReady (engOf s c) k = true) : exec (.passStart c) s = .next (onEng s c (fun e => putCmd e { k with phase := 1 })) := by
  have hleave : (!k.kind.heavy || k.lv || hasLeave s c k.team) = true := by
    cases hv : k.kind.heavy with
    | false => rfl
    | true => simpa using hlv hv
  change execPassStart c s = _
  simp only [execPassStart, hh, hp, hu, hsw, hleave, hb, ha, Bool.not_false, decide_true, Bool.and_self, if_true]

/-- The runs of a pass of which one at least shows no mismatch. -/
theorem checkRuns_passed {s : State} {chk : Bool}
    (h : chk = true → Config.engineError s.freeCtr = false ∨ Config.engineError (s.freeCtr + 1) = false) :
    ∃ n one, checkRuns s chk = ({ s with freeCtr := n }, one, false) := by
  cases chk with
  | false => exact ⟨s.freeCtr, false, rfl⟩
  | true =>
    refine ⟨s.freeCtr + 2, Config.engineError s.freeCtr, ?_⟩
    rcases h rfl with h | h <;> simp [checkRuns, h]

/-- The runs of a checked pass that both show a mismatch. -/
theorem checkRuns_failed {s : State} (h1 : Config.engineError s.freeCtr = true) (h2 : Config.engineError (s.freeCtr + 1) = true) :
    checkRuns s true = ({ s with freeCtr := s.freeCtr + 2 }, true, true) := by
  simp [checkRuns, h1, h2]

section
variable {s : State} {c z sa sb : Nat} {k : ECmd} {ty : Ty} {d m : Nat} {acc keep chk mix : Bool}
  (h : k.kind = .mma z sa sb ty d m acc keep chk mix)
include h

theorem mma_starts (hk : Heads s c k) (hp : k.phase = 0) (hsw : switching s c = false)
    (hlv : k.kind.heavy = true → k.lv = true ∨ hasLeave s c k.team = true) (hb : bFull k = true) (ha : aReady (engOf s c) k = true) :
    ∃ t, exec (.passStart c) s = .next t ∧ headCmd (engOf t c) = some { k with phase := 1 } := by
  obtain ⟨hlt, -, hh, hu⟩ := hk
  refine ⟨_, exec_passStart hh hp (by rw [h]; rfl) hsw hlv hb ha, ?_⟩
  rw [engOf_onEng hlt]
  exact headCmd_putCmd hh hu rfl rfl

theorem runCmd_mma : runCmd s c k = runMma s c k z ty d m acc keep chk mix := by simp only [runCmd, runTile, h]

variable (hp : k.phase = 1) (ha : aFull k = true) (hb : bFull k = true)
include hp ha hb

theorem mma_ready : CommandReady s c k :=
  ⟨by simp [cmdReady, h, CmdK.aUse, hp, ha, hb], by simp only [treeNeed, h]⟩

variable (hk : Heads s c k)
include hk

/-- A pass that is not checked, or of which a run shows no mismatch, accumulates into its tile (10 R262, R271). -/
theorem mma_accumulates
    (hok : chk = true → Config.engineError s.freeCtr = false ∨ Config.engineError (s.freeCtr + 1) = false) :
    TileDone s c k z (mmaTile ty d acc mix (aRows k) (bRows (engOf s c) k ty d keep) (tileOf (engOf s c) z)).1
      (mmaTile ty d acc mix (aRows k) (bRows (engOf s c) k ty d keep) (tileOf (engOf s c) z)).2 := by
  obtain ⟨n, one, hr⟩ := checkRuns_passed hok
  have hrun := runCmd_mma (s := s) (c := c) h
  rw [runMma, hr] at hrun
  cases one with
  | false => exact tileDone_of_run hk (mma_ready h hp ha hb) hrun rfl rfl rfl
  | true => exact tileDone_of_run hk (mma_ready h hp ha hb) hrun rfl rfl rfl

/-- A checked pass of which both runs show a mismatch leaves its tile as it was, with an engine error (10 R262). -/
theorem mma_fails (hc : chk = true) (h1 : Config.engineError s.freeCtr = true) (h2 : Config.engineError (s.freeCtr + 1) = true) :
    ∃ t, exec (.engineCommand c) s = .next t ∧ (∀ y, tileOf (engOf t c) y = tileOf (engOf s c) y) ∧ t.mem = s.mem ∧
      (engOf t c).mstat = ((engOf s c).mstat.set 0 (((engOf s c).mstat.getD 0 0 + 1) % 2 ^ 64)).set 1
        (((engOf s c).mstat.getD 1 0 + 1) % 2 ^ 64) ∧
      headCmd (engOf t c) =
        some { k with phase := 2, fail := some { cause := 0x19, sub := 0, info := BitVec.ofNat 64 z, at_ := some s.fcycles } } := by
  subst hc
  have hrun : runCmd s c k = (onEng { s with freeCtr := s.freeCtr + 2 } c (fun e => addStat (addStat (addIdle
      { e with heldB := some (bRows (engOf s c) k ty d keep, ty, d) } (fun r => decide (r < m)) (passSteps ty d)) 0 1) 1 1),
      { k with fail := some { trapC 0x19 0 with info := BitVec.ofNat 64 z } }) := by
    rw [runCmd_mma h, runMma, checkRuns_failed h1 h2]
    rfl
  refine ⟨_, exec_engineCommand hk (mma_ready h hp ha hb) hrun, fun y => ?_, rfl, ?_, headCmd_effectDone hk rfl rfl rfl⟩
  · rw [engOf_effectDone hk]
    rfl
  · rw [engOf_effectDone hk]
    simp [putCmd, addStat, addIdle]
end

/-! ### COMMAND_RETIRE -/

theorem cmdDone_of {s : State} {k : ECmd} (hp : k.phase = 2) (ht : k.todo = []) (hr : ∀ r ∈ s.remotes, r.copy ≠ some k.key) :
    cmdDone s k = true := by
  have ha : s.remotes.any (fun r => decide (r.copy = some k.key) && r.writes) = false := by
    rw [List.any_eq_false]
    intro r hm
    simp [hr r hm]
  simp [cmdDone, hp, ht, ha]

/-- Only a DESC.sp writes the scratchpad as it retires (11 R287). -/
theorem retireSp_of_noSp (s : State) {k : ECmd} (h : ∀ z q sa mask m sp tree, k.kind ≠ .desc z q sa mask m (some sp) tree) :
    retireSp s k = s := by
  unfold retireSp
  split
  · exact absurd ‹_› (h _ _ _ _ _ _ _)
  · rfl

/-- The flags and the failure of a command are kept for the MWAIT of its group, where that goes on (02 R52, 10 R274). -/
theorem groupOf_cmdReport {s : State} {c : Nat} {k : ECmd} {g : Group} (hg : groupOf s k.gid = some g) (hr : g.st ≠ .retiring)
    (hs : g.st ≠ .saved) :
    groupOf (cmdReport s c k) k.gid = some { g with mwFlags := g.mwFlags ||| k.flags, mwFault := g.mwFault.or k.fail } := by
  simp only [cmdReport, hg, if_neg hr, if_neg hs]
  exact groupOf_onGroup (groupOf_onGroup hg (by intro; rfl)) (by intro; rfl)

theorem clusters_cmdReport {s : State} {c : Nat} {k : ECmd} {g : Group} (hg : groupOf s k.gid = some g) (hr : g.st ≠ .retiring)
    (hs : g.st ≠ .saved) : (cmdReport s c k).clusters = s.clusters := by
  simp only [cmdReport, hg, if_neg hr, if_neg hs]
  rfl

/-- The state in which a command has left its queue (10 R254). -/
def retired (s : State) (c : Nat) (k : ECmd) : State :=
  onEng { s with rgot := s.rgot.filter (fun x => decide (x.id ≠ k.key)) } c
    (fun e => addStat { e with cmds := e.cmds.filter (fun x => decide (x.key ≠ k.key)) } 2 k.kind.passes)

theorem command_retires {s : State} {c : Nat} {k : ECmd} {g : Group} (hlt : c < s.clusters.length) (hh : headCmd (engOf s c) = some k)
    (hd : cmdDone s k = true) (hu : k.kind ≠ .unbind) (hsp : ∀ z q sa mask m sp tree, k.kind ≠ .desc z q sa mask m (some sp) tree)
    (hg : groupOf s k.gid = some g) (hr : g.st ≠ .retiring) (hs : g.st ≠ .saved) :
    ∃ t, exec (.commandRetire c) s = .next t ∧ (engOf t c).cmds = (engOf s c).cmds.filter (fun x => decide (x.key ≠ k.key)) ∧
      groupOf t k.gid = some { g with mwFlags := g.mwFlags ||| k.flags, mwFault := g.mwFault.or k.fail } := by
  have hx : exec (.commandRetire c) s = .next (cmdReport (retired s c k) c k) := by
    change execCommandRetire c s = _
    simp only [execCommandRetire, hh, hd, retireSp_of_noSp s hsp, if_neg hu, Bool.not_true, Bool.false_eq_true, if_false]
    rfl
  have hg' : groupOf (retired s c k) k.gid = some g := hg
  refine ⟨_, hx, ?_, groupOf_cmdReport hg' hr hs⟩
  rw [engOf, clusterAt, clusters_cmdReport hg' hr hs]
  change (engOf (retired s c k) c).cmds = _
  rw [retired, engOf_onEng (by exact hlt)]
  rfl

/-- Settles O37: what a command gives follows from its kind, and what ENGINE_COMMAND, PASS_START and COMMAND_RETIRE make of the first
command is said once for all kinds. -/
theorem engineWorks : Obligations.EngineWorks := by
  refine ⟨?tiles, ?pass, ?retire⟩
  case tiles =>
    intro s c k z hk hp
    exact ⟨zzero_done hk hp, fun _ _ => zscale_done hk hp, fun _ _ => zadd_done hk hp, fun _ => zcvt_done hk hp,
      fun _ _ _ _ _ h => hdrain_done hk hp h⟩
  case pass =>
    intro s c k z sa sb ty d m acc keep chk mix hk h
    refine ⟨mma_starts h hk, fun hp ha hb => ⟨fun hc => ?_, fun _ he => ?_, mma_fails h hp ha hb hk⟩⟩
    · exact mma_accumulates h hp ha hb hk (fun ht => absurd (hc.symm.trans ht) Bool.false_ne_true)
    · exact mma_accumulates h hp ha hb hk (fun _ => he)
  case retire =>
    intro s c k g hlt hh hp ht hr hu hsp hg hret hsv
    exact command_retires hlt hh (cmdDone_of hp ht hr) hu hsp hg hret hsv

/-! ## The waits and counters of the engine, its reset, and the binding of a tree (O38) -/

/-! ### Engine instructions -/

/-- What an engine instruction does to a group that acts: the engine-reset fault where its team is reset-pending, else its own operation
(10 R265). -/
def unlessReset (k : Group → State → GOut) (g : Group) (s : State) : GOut :=
  match teamOf s g.team with
  | some t => if t.resetPend then .trap s mxReset else k g s
  | none => k g s

theorem engOp_eq (i : Instr) (h : Hd) (k : Group → State → GOut) (s : State) : engOp i h k s = wideOp i h (unlessReset k) s := rfl

theorem unlessReset_of_engRuns {s : State} {g : Group} {i : Instr} {h : Hd} (hr : EngRuns s g i h) (k : Group → State → GOut) :
    unlessReset k g s = k g s := by
  obtain ⟨-, -, hp⟩ := hr
  unfold unlessReset
  split
  · rename_i t ht
    rw [hp t ht]
    rfl
  · rfl

theorem parkGroup_outside (s : State) (g : Group) (p : Park) :
    (parkGroup s g p).outside = ({ g with st := .parked, park := some p } : Group).outside := by
  change ({ (flushWin s g).outside with st := .parked, park := some p } : Group) = { g.outside with st := .parked, park := some p }
  rw [outside_flushWin]

section
variable {i : Instr} {s s' : State} {g : Group} {h : Hd} {k : Group → State → GOut} (hx : exec i s = engOp i h k s) (hr : EngRuns s g i h)
include hx hr

theorem eng_traps {c : TrapInfo} (hk : k g s = .trap s' c) (hs : groupOf s' g.id = some g) : Traps i s s' g c :=
  wide_traps (hx.trans (engOp_eq ..)) hr.1 hr.2.1 ((unlessReset_of_engRuns hr k).trans hk) hs

theorem eng_does {gk : Group} (hk : k g s = .done (setGroup s' gk)) (hs : groupOf s' g.id = some g) (hw : Scal g gk) : Does i s s' g gk [] :=
  wide_does (hx.trans (engOp_eq ..)) hr.1 hr.2.1 ((unlessReset_of_engRuns hr k).trans hk) hs hw.id
    (by rw [hw.st, hr.1.2.2.1]; decide) hw.ll hw.ln (hw.rd s')

theorem eng_parks {p : Park} (hk : k g s = .done (setGroup s' (parkGroup s g p))) (hs : groupOf s' g.id = some g) :
    Moves i s s' g { g with st := .parked, park := some p } := by
  have ho := parkGroup_outside s g p
  have hn : lineNo (parkGroup s g p) = lineNo g := by
    funext r
    rw [lineNo, lineNo, outside_field (fun x => x.handler) (fun _ => rfl) ho, outside_field (fun x => x.nregs) (fun _ => rfl) ho]
  refine moves_congr ho (wide_moves (hx.trans (engOp_eq ..)) hr.1 hr.2.1 (.inr ⟨(unlessReset_of_engRuns hr k).trans hk, rfl⟩) hs ?_ ?_ hn
    (fun n => readLine_flushWin s' s g n))
  · exact (outside_field (fun x => x.id) (fun _ => rfl) ho :)
  · exact (outside_field (fun x => x.ll) (fun _ => rfl) ho :)
end

/-! ### MWAIT -/

/-- The operation of MWAIT (10 R274). -/
def mwaitOp (g : Group) (s : State) : GOut :=
  if mwaitMet s g then
    match mwaitEnd g with
    | (g, none) => .done (setGroup s g)
    | (g, some t) => .trap (setGroup s g) t
  else .done (setGroup s (parkGroup s g .mwait))

theorem exec_mwait (h : Hd) (f : XF) (s : State) : exec (.mwait h f) s = engOp (.mwait h f) h mwaitOp s := rfl

theorem mwaitMet_iff (s : State) (g : Group) :
    mwaitMet s g = true ↔ ¬ ∃ k ∈ (engOf s g.cluster).cmds ++ (engOf s g.cluster).pend, k.gid = g.id ∧ k.kind.counts = true := by
  rw [mwaitMet, Bool.not_eq_true', List.any_eq_false]
  simp only [Bool.and_eq_true, decide_eq_true_eq, not_exists, not_and]

section
variable {s : State} {g : Group} {h : Hd} {f : XF} (hr : EngRuns s g (.mwait h f) h)
include hr

theorem mwait_waits (hb : mwaitMet s g = false) : Moves (.mwait h f) s s g { g with st := .parked, park := some .mwait } :=
  eng_parks (exec_mwait h f s) hr (by simp only [mwaitOp, hb, Bool.false_eq_true, if_false]) hr.1.2.1

theorem mwait_ends (hb : mwaitMet s g = true) (hf : g.mwFault = none) :
    Does (.mwait h f) s s g { g with flags := g.flags ||| g.mwFlags, mwFlags := 0 } [] :=
  eng_does (exec_mwait h f s) hr (by simp only [mwaitOp, hb, if_true, mwaitEnd, hf]) hr.1.2.1 ⟨rfl, rfl, rfl, rfl, fun _ _ => rfl⟩

theorem mwait_faults (hb : mwaitMet s g = true) {c : TrapInfo} (hf : g.mwFault = some c) (ha : c.after = false) :
    exec (.mwait h f) s = .next (takeTrap (setGroup s (mwaitEnd g).1) (mwaitEnd g).1 c) := by
  have hk : mwaitOp g s = .trap (setGroup s (mwaitEnd g).1) c := by simp only [mwaitOp, hb, if_true, mwaitEnd, hf]
  have hg : groupOf (setGroup s (mwaitEnd g).1) g.id = some (mwaitEnd g).1 := groupOf_setGroup hr.1.2.1
  have hx := runInstr_trap (k := fun g s => if wideActs g h then unlessReset mwaitOp g s else .done s) hr.1
    ((if_pos hr.2.1).trans ((unlessReset_of_engRuns hr mwaitOp).trans hk))
  rwa [ha, hg] at hx
end

/-! ### MSTAT -/

theorem failing_nil : failing [] = none := rfl

theorem failing_cons (b : Bool) (n : Nat) (cs : List (Bool × Nat)) : failing ((b, n) :: cs) = if b then some n else failing cs := by
  cases b <;> rfl

theorem entOf_isNone (e : Engine) (team : Nat) : (entOf e team).isNone = !e.ents.any (fun x => decide (x.team = team)) := by
  rw [entOf, ← Option.not_isSome, List.isSome_find?]

/-- The checks of MSTAT, in their order (10 R275, R278). -/
def mstatChecks (s : State) (g : Group) (f : XF) : List (Bool × Nat) :=
  [(!(engOf s g.cluster).ents.any (fun x => decide (x.team = g.team)), 1), (f.xf.getLsbD 6 && !holdsRein (engOf s g.cluster) g.team, 4)]

/-- The counter that an item of MSTAT names set to zero (10 R275). -/
def clearStat (item : Nat) (e : Engine) : Engine :=
  if item < 64 then { e with mstat := e.mstat.set item 0 } else { e with idle := e.idle.set (item - 64) 0 }

/-- MSTAT after its checks (10 R275). -/
def mstatRead (f : XF) (g : Group) (s : State) : GOut :=
  if isReplay s g.ctx then .trap s (trapC 0x0D 0)
  else
    let s := setGroup s (writeScalar g (xb f 0 6) (BitVec.ofNat 64 (mstatVal (engOf s g.cluster) f.shape.toNat)))
    .done (if f.xf.getLsbD 6 then onEng s g.cluster (clearStat f.shape.toNat) else s)

/-- The operation of MSTAT: its checks, then the read. -/
def mstatOp (f : XF) (g : Group) (s : State) : GOut :=
  ((failing (mstatChecks s g f)).map (fun sub => GOut.trap s (mxs sub))).getD (mstatRead f g s)

theorem exec_mstat (h : Hd) (f : XF) (s : State) : exec (.mstat h f) s = engOp (.mstat h f) h (mstatOp f) s := by
  have hk : mstatOp f = fun g s =>
      if (entOf (engOf s g.cluster) g.team).isNone then .trap s (mxFault 1)
      else if f.xf.getLsbD 6 && !holdsRein (engOf s g.cluster) g.team then .trap s (mxFault 4)
      else mstatRead f g s := by
    funext g s
    rw [mstatOp, mstatChecks, failing_cons, failing_cons, failing_nil, entOf_isNone]
    split
    · rfl
    · split <;> rfl
  rw [hk]
  rfl

theorem mstatOp_done {s : State} {g : Group} {f : XF} (hc : failing (mstatChecks s g f) = none) (hy : isReplay s g.ctx = false) :
    mstatOp f g s = .done (if f.xf.getLsbD 6 then
      onEng (setGroup s (writeScalar g (xb f 0 6) (BitVec.ofNat 64 (mstatVal (engOf s g.cluster) f.shape.toNat)))) g.cluster (clearStat f.shape.toNat)
      else setGroup s (writeScalar g (xb f 0 6) (BitVec.ofNat 64 (mstatVal (engOf s g.cluster) f.shape.toNat)))) := by
  rw [mstatOp, hc]
  exact if_neg (by rw [hy]; decide)

section
variable {s : State} {g : Group} {h : Hd} {f : XF} (hr : EngRuns s g (.mstat h f) h)
include hr

theorem mstat_traps {sub : Nat} (hc : failing (mstatChecks s g f) = some sub) : Traps (.mstat h f) s s g (mxs sub) :=
  eng_traps (exec_mstat h f s) hr (by rw [mstatOp, hc]; rfl) hr.1.2.1

variable (hc : failing (mstatChecks s g f) = none)
include hc

theorem mstat_refused (hy : isReplay s g.ctx = true) : Traps (.mstat h f) s s g { cause := 0x0D, sub := 0 } :=
  eng_traps (exec_mstat h f s) hr (by rw [mstatOp, hc]; exact if_pos hy) hr.1.2.1

variable (hy : isReplay s g.ctx = false)
include hy

theorem mstat_reads (hn : f.xf.getLsbD 6 = false) : Does (.mstat h f) s s g
    (writeScalar g (xf f 0 6) (BitVec.ofNat 64 (mstatVal (engOf s g.cluster) f.shape.toNat))) [] :=
  eng_does (exec_mstat h f s) hr ((mstatOp_done hc hy).trans (by rw [hn]; rfl)) hr.1.2.1 (writeScalar_scal ..)

theorem mstat_clears (hn : f.xf.getLsbD 6 = true) : Does (.mstat h f) s (onEng s g.cluster (clearStat f.shape.toNat)) g
    (writeScalar g (xf f 0 6) (BitVec.ofNat 64 (mstatVal (engOf s g.cluster) f.shape.toNat))) [] :=
  eng_does (exec_mstat h f s) hr ((mstatOp_done hc hy).trans (by rw [hn]; rfl)) hr.1.2.1 (writeScalar_scal ..)
end

/-! ### MRESET and TREEBIND at issue -/

/-- The operation of MRESET (10 R277). -/
def mresetOp (f : XF) (g : Group) (s : State) : GOut :=
  let c := (g.s.getD (xb f 0 6) 0).toNat
  if 143 < c then .trap s (mxFault 8)
  else if !inPart s g.ctx c then .trap s (mxFault 8)
  else .done (setGroup s (parkGroup s g (.mreset c)))

theorem exec_mreset (h : Hd) (f : XF) (s : State) : exec (.mreset h f) s = engOp (.mreset h f) h (mresetOp f) s := rfl

section
variable {s : State} {g : Group} {h : Hd} {f : XF} (hr : EngRuns s g (.mreset h f) h)
include hr

theorem mreset_traps (hc : 143 < (g.s.getD (xf f 0 6) 0).toNat ∨ inPart s g.ctx (g.s.getD (xf f 0 6) 0).toNat = false) :
    Traps (.mreset h f) s s g (mxs 8) := by
  refine eng_traps (exec_mreset h f s) hr ?_ hr.1.2.1
  by_cases hn : 143 < (g.s.getD (xf f 0 6) 0).toNat
  · exact if_pos hn
  · have hp : (!inPart s g.ctx (g.s.getD (xf f 0 6) 0).toNat) = true := by rw [hc.resolve_left hn]; rfl
    exact (if_neg hn).trans (if_pos hp)

theorem mreset_parks (hc : (g.s.getD (xf f 0 6) 0).toNat ≤ 143) (hp : inPart s g.ctx (g.s.getD (xf f 0 6) 0).toNat = true) :
    Moves (.mreset h f) s s g { g with st := .parked, park := some (.mreset (g.s.getD (xf f 0 6) 0).toNat) } := by
  have hn : ¬ (!inPart s g.ctx (g.s.getD (xf f 0 6) 0).toNat) = true := by rw [hp]; decide
  exact eng_parks (exec_mreset h f s) hr ((if_neg (not_lt.mpr hc)).trans (if_neg hn)) hr.1.2.1
end

/-- The operation of TREEBIND at its issue (11 R284). -/
def treebindOp (f : XF) (g : Group) (s : State) : GOut :=
  if (entOf (engOf s g.cluster) g.team).isNone then .trap s (mxFault 1)
  else .done (setGroup s (parkGroup s g (.treebind (va57 (g.s.getD (xb f 0 6) 0)))))

theorem exec_treebind (h : Hd) (f : XF) (s : State) : exec (.treebind h f) s = engOp (.treebind h f) h (treebindOp f) s := rfl

/-- Whether a team has an entry in a cluster's engine. -/
theorem entOf_isNone_iff (s : State) (c team : Nat) : (entOf (engOf s c) team).isNone = true ↔ ∀ x ∈ entsOf s c, x.team ≠ team := by
  rw [entOf, Option.isNone_iff_eq_none, List.find?_eq_none]
  simp only [entsOf, decide_eq_true_eq, ne_eq]

theorem entOf_not_isNone {s : State} {c team : Nat} (h : ∃ x ∈ entsOf s c, x.team = team) : ¬ (entOf (engOf s c) team).isNone = true := by
  obtain ⟨x, hx, ht⟩ := h
  exact fun hn => (entOf_isNone_iff s c team).mp hn x hx ht

section
variable {s : State} {g : Group} {h : Hd} {f : XF} (hr : EngRuns s g (.treebind h f) h)
include hr

theorem treebind_traps (he : ∀ x ∈ entsOf s g.cluster, x.team ≠ g.team) : Traps (.treebind h f) s s g (mxs 1) :=
  eng_traps (exec_treebind h f s) hr (if_pos ((entOf_isNone_iff ..).mpr he)) hr.1.2.1

theorem treebind_parks (he : ∃ x ∈ entsOf s g.cluster, x.team = g.team) :
    Moves (.treebind h f) s s g { g with st := .parked, park := some (.treebind ((g.s.getD (xf f 0 6) 0).toNat % 2 ^ 57)) } :=
  eng_parks (exec_treebind h f s) hr (if_neg (entOf_not_isNone he)) hr.1.2.1
end

/-! ### What the reads and writes of memory, and the fault records, leave as it was

They change no engine, copy, team or group: only memory and the caches, what goes to the host and over links, and the counts of
contexts, launches and queues. -/

theorem map_modify_of_keeps {α β : Type} {f : α → α} {p : α → β} (h : ∀ x, p (f x) = p x) (xs : List α) (n : Nat) :
    (xs.modify n f).map p = xs.map p := by
  induction xs generalizing n with
  | nil => cases n <;> rfl
  | cons x xs ih => cases n <;> simp [h, ih]

/-- The engines of the clusters, the copies, the teams and the groups. -/
def agents (s : State) : List Engine × List Copy × List Team × List Group := (s.clusters.map (fun x => x.eng), s.copies, s.teams, s.groups)

theorem agents_of_outsideNotes {s t : State} (h : outsideNotes t = outsideNotes s) : agents t = agents s := by
  change agents (outsideNotes t) = agents (outsideNotes s)
  rw [h]

theorem agents_onCluster (s : State) (c : Nat) {f : Cluster → Cluster} (hf : ∀ x, (f x).eng = x.eng := by intros; rfl) :
    agents (onCluster s c f) = agents s := by
  rw [agents, onCluster_clusters, map_modify_of_keeps hf, agents]
  rfl

/-- The state that a read or a write leaves, where it succeeds, holds the same. -/
def SameAgents (s : State) (o : Option State) : Prop := ∀ t, o = some t → agents t = agents s

theorem agents_getD {s t : State} {o : Option State} (h : SameAgents s o) (ht : agents t = agents s) : agents (o.getD t) = agents s := by
  cases o with
  | none => exact ht
  | some u => exact h u rfl

section
variable (s : State)

theorem agents_setEntBit (at_ bit : Nat) : agents (setEntBit s at_ bit) = agents s := rfl

theorem agents_tlbPut (cluster : Nat) (core : Option Nat) (e : TlbEnt) : agents (tlbPut s cluster core e) = agents s := by
  cases core <;> exact agents_onCluster s cluster

theorem agents_tlbDrop (cluster : Nat) (core : Option Nat) (e : TlbEnt) : agents (tlbDrop s cluster core e) = agents s := by
  cases core <;> exact agents_onCluster s cluster

theorem agents_fillWalk (cluster : Nat) (core : Option Nat) (ctx va : Nat) (acc : Acc) :
    agents (fillWalk s cluster core ctx va acc).1 = agents s := by
  unfold fillWalk
  extract_lets
  split
  · rfl
  · dsimp only
    split
    · rfl
    · split
      · rfl
      · refine (agents_tlbPut ..).trans ?_
        exact keeps_ite (p := agents) (agents_setEntBit _ _ _) (agents_setEntBit _ _ _)

theorem agents_translate (cluster : Nat) (core : Option Nat) (ctx va : Nat) (acc : Acc) :
    agents (Machine.translate s cluster core ctx va acc).1 = agents s := by
  unfold Machine.translate
  split
  · rfl
  · split
    · exact agents_fillWalk ..
    · split
      · rfl
      · split
        · dsimp only
          split
          · exact agents_tlbPut ..
          · exact (agents_fillWalk ..).trans (agents_tlbDrop ..)
        · exact agents_tlbPut ..

theorem agents_l1Forget (cluster pa n : Nat) : agents (l1Forget s cluster pa n) = agents s :=
  foldl_keeps (f := fun s k => onCore s (4 * cluster + k) _) (fun _ _ => rfl) _ s

theorem agents_putVA (cluster ctx va : Nat) (bs : List Byte) : SameAgents s (putVA s cluster ctx va bs) := by
  intro t ht
  have hx := agents_translate s cluster none ctx va .wr
  unfold putVA at ht
  split at ht
  · rename_i h
    rw [h] at hx
    split at ht
    · cases ht
    · cases ht
      exact (agents_l1Forget ..).trans hx
  · cases ht

theorem agents_getVA {cluster ctx va n : Nat} {t : State} {bs : List Byte} (h : getVA s cluster ctx va n = some (t, bs)) :
    agents t = agents s := by
  have hx := agents_translate s cluster none ctx va .rd
  unfold getVA at h
  split at h
  · rename_i h1
    rw [h1] at hx
    split at h
    · cases h
    · cases h
      exact hx
  · cases h

theorem agents_failLaunch (id cause : Nat) : agents (failLaunch s id cause) = agents s := rfl

theorem agents_onCtx (c : Nat) (f : Context → Context) : agents (onCtx s c f) = agents s := rfl

theorem agents_faultRecord (o : Origin) (lfail : Bool) (cause sub : Nat) : agents (faultRecord s o lfail cause sub) = agents s := by
  unfold faultRecord
  split
  · rfl
  · refine keeps_ite rfl ?_
    extract_lets _ s1
    have h1 : agents s1 = agents s := by
      change agents (match o.launch with
        | some l => if lfail then failLaunch s l cause else s
        | none => s) = _
      split
      · exact keeps_ite (agents_failLaunch ..) rfl
      · rfl
    split
    · exact h1
    · refine keeps_ite ((agents_onCtx ..).trans h1) ?_
      have h2 : ∀ q bs, agents (raiseEvent (appendEntry (lostFirst s1 o.ctx) q bs [] []) o.ctx 2) = agents s := fun q bs =>
        (agents_of_outsideNotes (((outsideNotes_raiseEvent ..).trans (outsideNotes_appendEntry ..)).trans (outsideNotes_lostFirst ..))).trans h1
      exact keeps_ite ((agents_of_outsideNotes (outsideNotes_notify ..)).trans (h2 _ _)) (h2 _ _)

theorem agents_askLine (w : Who) (launch : Option Nat) (core dev line : Nat) : SameAgents s (askLine s w launch core dev line) := by
  intro t ht
  unfold askLine at ht
  split at ht
  · cases ht
  · cases ht
    exact agents_of_outsideNotes ((outsideNotes_sendRemote ..).trans (outsideNotes_with s))

theorem agents_recRead (w : Who) (launch : Option Nat) (core : Nat) (own : List Req) (va n : Nat) (past : Bool) :
    agents (recRead s w launch core own va n past).1 = agents s := by
  have hx := agents_translate s w.cluster (some core) w.ctx va .rd
  unfold recRead
  split <;> rename_i h <;> rw [h] at hx
  · exact hx
  · split
    · exact hx
    · split
      · exact hx
      · exact hx
      · exact (agents_getD (agents_askLine _ w launch core _ _) rfl).trans hx
      · exact hx

/-- Reading a tree descriptor changes no engine, copy, team or group. -/
theorem agents_readTree (w : Who) (launch : Option Nat) (core : Nat) (own : List Req) (va : Nat) :
    agents (readTree s w launch core own va).1 = agents s := by
  have hx := agents_recRead s w launch core own va 64 false
  unfold readTree
  extract_lets
  split
  · rfl
  · split <;> rename_i h <;> rw [h] at hx
    · exact hx
    · extract_lets
      split
      · exact hx
      · split <;> exact hx
end

section
variable {s t : State} (h : agents t = agents s)
include h

theorem engines_of_agents : t.clusters.map (fun x => x.eng) = s.clusters.map (fun x => x.eng) := congrArg (fun p => p.1) h
theorem copies_of_agents : t.copies = s.copies := congrArg (fun p => p.2.1) h
theorem teams_of_agents : t.teams = s.teams := congrArg (fun p => p.2.2.1) h
theorem groups_of_agents : t.groups = s.groups := congrArg (fun p => p.2.2.2) h

theorem clusters_length_of_agents : t.clusters.length = s.clusters.length := by
  have hl := congrArg List.length (engines_of_agents h)
  simpa only [List.length_map] using hl

end

/-! ### Waking a group -/

theorem nextPos_id (g : Group) : (nextPos g).id = g.id := by
  unfold nextPos
  split
  · rfl
  · split <;> rfl

theorem wakeGroup_id (g : Group) : (wakeGroup g).id = g.id := by
  unfold wakeGroup
  split
  · rfl
  · exact nextPos_id _

/-- A parked group that is not halted goes on as it is woken (06 R114). -/
theorem wakeGroup_eq {g : Group} (hp : g.st = .parked) (hh : g.halted = false) : wakeGroup g = goneOn g :=
  if_neg (by simp [asleep, hp, hh])

theorem groupOf_wake {s : State} {g : Group} (hg : groupOf s g.id = some g) (hp : g.st = .parked) (hh : g.halted = false) :
    groupOf (wake s g.id) g.id = some (goneOn g) := by
  rw [← wakeGroup_eq hp hh]
  exact groupOf_onGroup hg wakeGroup_id

/-! ### The end of TREEBIND -/

/-- The state in which a tree is bound to the entry of a team, and the node cache emptied (11 R284). -/
def treeBoundIn (s : State) (c team : Nat) (t : Tree) : State :=
  onEng s c (fun e => { onEnt e team (fun x => { x with tree := some t }) with ncache := [] })

section
variable {s : State} {g : Group} {va : Nat}

/-- A group parked in TREEBIND ends its wait where nothing holds it back. -/
theorem settleGroup_treebind (hk : g.park = some (.treebind va)) (hp : g.st = .parked) (hh : g.halted = false)
    (ht : tearing s g.ctx = false) (hc : (coreAt s g.core).halted = false) (hs : switchHolds s g = false) :
    settleGroup s g = settleTreebind s g va := by
  simp [settleGroup, settleParked, awake, hk, hp, hh, ht, hc, hs]

variable (he : ∃ x ∈ entsOf s g.cluster, x.team = g.team)
include he

theorem settleTreebind_fails {s1 : State} {c : TrapInfo} (h : readTree s g.who g.launch g.core (ownReqs g) va = (s1, .error (some c))) :
    settleTreebind s g va = some (wakeTrap s1 g.id c) := by
  simp only [settleTreebind, if_neg (entOf_not_isNone he), h]

theorem settleTreebind_binds {s1 : State} {t : Tree} (h : readTree s g.who g.launch g.core (ownReqs g) va = (s1, .ok t)) :
    settleTreebind s g va = some (wake (treeBoundIn s1 g.cluster g.team t) g.id) := by
  simp only [settleTreebind, if_neg (entOf_not_isNone he), h]
  rfl

theorem settleTreebind_misaligned (hva : va % 64 ≠ 0) : settleTreebind s g va = some (wakeTrap s g.id (treeFault va)) :=
  settleTreebind_fails he (by rw [readTree, if_pos hva])

/-- The tree of a sound descriptor is bound (11 R284). -/
theorem treebind_ends {s1 : State} {t : Tree} (h : readTree s g.who g.launch g.core (ownReqs g) va = (s1, .ok t)) (hp : g.st = .parked)
    (hh : g.halted = false) (hg : groupOf s g.id = some g) (hl : g.cluster < s.clusters.length) :
    ∃ s2, settleTreebind s g va = some s2 ∧ groupOf s2 g.id = some (goneOn g) ∧ (engOf s2 g.cluster).ncache = [] ∧
      entsOf s2 g.cluster = (entsOf s1 g.cluster).map (fun x => if x.team = g.team then { x with tree := some t } else x) := by
  have hs1 : agents s1 = agents s := by
    have hr := agents_readTree s g.who g.launch g.core (ownReqs g) va
    rwa [h] at hr
  have hg1 : groupOf (treeBoundIn s1 g.cluster g.team t) g.id = some g := by
    change s1.groups.find? _ = _
    rw [groups_of_agents hs1]
    exact hg
  have he1 : engOf (wake (treeBoundIn s1 g.cluster g.team t) g.id) g.cluster =
      { onEnt (engOf s1 g.cluster) g.team (fun x => { x with tree := some t }) with ncache := [] } := by
    change engOf (treeBoundIn s1 g.cluster g.team t) g.cluster = _
    rw [treeBoundIn, engOf_onEng (by rwa [clusters_length_of_agents hs1])]
  refine ⟨_, settleTreebind_binds he h, groupOf_wake hg1 hp hh, ?_, ?_⟩
  · rw [he1]
  · rw [entsOf, he1]
    rfl
end

/-! ### What the entry of a trap changes

A trap replaces its own group; beside it, what is written is memory and records. -/

/-- The groups under an identity. -/
def groupsOf (s : State) (id : Nat) : List Group := s.groups.filter (fun g => decide (g.id = id))

theorem groupOf_eq_head (s : State) (id : Nat) : groupOf s id = (groupsOf s id).head? := List.head?_filter.symm

theorem groupOf_of_groupsOf {s : State} {g : Group} (h : groupsOf s g.id = [g]) : groupOf s g.id = some g := by
  rw [groupOf_eq_head, h]
  rfl

/-- The engines, the copies and the teams. -/
def besideGroups (s : State) : List Engine × List Copy × List Team := (s.clusters.map (fun x => x.eng), s.copies, s.teams)

/-- Of the engines, the copies, the teams and the groups, only the groups under one identity differ. -/
structure OnlyGroupsOf (id : Nat) (s t : State) : Prop where
  beside : besideGroups t = besideGroups s
  others : ∀ j, j ≠ id → groupsOf t j = groupsOf s j

theorem OnlyGroupsOf.trans {id : Nat} {s t u : State} (h : OnlyGroupsOf id s t) (h' : OnlyGroupsOf id t u) : OnlyGroupsOf id s u :=
  ⟨h'.beside.trans h.beside, fun j hj => (h'.others j hj).trans (h.others j hj)⟩

theorem onlyGroupsOf_of_agents {id : Nat} {s t : State} (h : agents t = agents s) : OnlyGroupsOf id s t := by
  refine ⟨?_, fun j _ => ?_⟩
  · rw [besideGroups, engines_of_agents h, copies_of_agents h, teams_of_agents h, besideGroups]
  · rw [groupsOf, groups_of_agents h, groupsOf]

theorem onlyGroupsOf_onGroup (s : State) (id : Nat) {f : Group → Group} (hf : ∀ x, x.id = id → (f x).id = id) :
    OnlyGroupsOf id s (onGroup s id f) := by
  refine ⟨rfl, fun j hj => ?_⟩
  rw [groupsOf, onGroup_groups, groupsOf]
  induction s.groups with
  | nil => rfl
  | cons x xs ih =>
    by_cases hx : x.id = id
    · rw [List.map_cons, if_pos hx, List.filter_cons_of_neg (by simp [hf x hx, hj.symm]),
        List.filter_cons_of_neg (by simp [hx, hj.symm]), ih]
    · rw [List.map_cons, if_neg hx]
      by_cases hxj : x.id = j
      · rw [List.filter_cons_of_pos (by simp [hxj]), List.filter_cons_of_pos (by simp [hxj]), ih]
      · rw [List.filter_cons_of_neg (by simp [hxj]), List.filter_cons_of_neg (by simp [hxj]), ih]

theorem onlyGroupsOf_setGroup (s : State) {g : Group} {id : Nat} (h : g.id = id) : OnlyGroupsOf id s (setGroup s g) := by
  subst h
  exact onlyGroupsOf_onGroup s g.id (fun _ _ => rfl)

theorem onlyGroupsOf_ite {id : Nat} {s a b : State} {c : Prop} [Decidable c] (ha : OnlyGroupsOf id s a) (hb : OnlyGroupsOf id s b) :
    OnlyGroupsOf id s (if c then a else b) := by
  split <;> assumption

theorem flushWin_id (s : State) (g : Group) : (flushWin s g).id = g.id := outside_field (fun x => x.id) (fun _ => rfl) (outside_flushWin s g)

theorem foldl_id {α : Type} {f : Group → α → Group} (hf : ∀ g a, (f g a).id = g.id) (xs : List α) (g : Group) : (xs.foldl f g).id = g.id :=
  List.foldlRecOn (motive := fun x : Group => x.id = g.id) xs f rfl (fun x hx a _ => (hf x a).trans hx)

theorem applyLL_id (s : State) (g : Group) (l : LL) : (applyLL s g l).id = g.id := by
  unfold applyLL
  extract_lets g1 g2 g3
  have h1 : g1.id = g.id := foldl_id (fun g n => by dsimp only; split <;> rfl) _ g
  have h2 : g2.id = g.id := (foldl_id (fun g (x : Nat × W64) => (writeScalar_scal g x.1 x.2).id) _ g1).trans h1
  change g3.id = g.id
  unfold g3
  split
  · exact (putPred_scal ..).id.trans h2
  · exact h2

theorem applyAll_id (s : State) (g : Group) : (applyAll s g).id = g.id := foldl_id (applyLL_id s) g.ll g

theorem group_named_id (g : Group) (s : State) : (g.named s).id = g.id := by
  unfold Group.named
  split <;> rfl

section
variable (s : State) (g : Group)

theorem onlyGroupsOf_stopGroup (lfail : Bool) (cause sub : Nat) (addr : W64) (at_ : Option Nat) :
    OnlyGroupsOf g.id s (stopGroup s g lfail cause sub addr at_) :=
  (onlyGroupsOf_setGroup s (g := toRetiring s g) (flushWin_id s g)).trans (onlyGroupsOf_of_agents (agents_faultRecord ..))

theorem agents_writeLines (p : Line → Bool) : SameAgents s (writeLines s g p) := by
  unfold writeLines
  refine List.foldlRecOn (motive := fun o => SameAgents s o) _ _ (fun t ht => ?_) (fun o ho l _ t ht => ?_)
  · cases ht
    rfl
  · obtain ⟨u, hu, hp⟩ := Option.bind_eq_some_iff.mp ht
    exact (agents_putVA u _ _ _ _ t hp).trans (ho u hu)

theorem agents_saveSlot (f : FrameInfo) : SameAgents s (saveSlot s g f) := agents_putVA s _ _ _ _

theorem onlyGroupsOf_enterTrap (t : TrapInfo) : OnlyGroupsOf g.id s (enterTrap s g t) := by
  unfold enterTrap
  extract_lets g1 _ _ _ g2
  have h1 : g1.id = g.id := (flushWin_id ..).trans (applyAll_id ..)
  have hstop : ∀ lfail cause sub addr at_, OnlyGroupsOf g.id s (stopGroup s g1 lfail cause sub addr at_) := fun lfail cause sub addr at_ => by
    rw [← h1]
    exact onlyGroupsOf_stopGroup ..
  refine onlyGroupsOf_ite (hstop ..) (onlyGroupsOf_ite (onlyGroupsOf_ite ?_ (hstop ..)) ?_)
  · have h2 : g2.id = g.id := (group_named_id ..).trans h1
    have hstop2 : ∀ u, agents u = agents s → ∀ lfail cause sub addr, OnlyGroupsOf g.id s (stopGroup u g2 lfail cause sub addr) :=
      fun u hu lfail cause sub addr => (onlyGroupsOf_of_agents hu).trans (h2 ▸ onlyGroupsOf_stopGroup u g2 ..)
    split
    · exact hstop2 s rfl ..
    · rename_i s1 hw
      have hs1 : agents s1 = agents s := agents_writeLines s g2 _ s1 hw
      split
      · exact hstop2 s1 hs1 ..
      · rename_i s2 hv
        have hs2 : agents s2 = agents s := (agents_saveSlot s1 g2 _ s2 hv).trans hs1
        refine OnlyGroupsOf.trans ((onlyGroupsOf_of_agents hs2).trans ?_) (onlyGroupsOf_of_agents (agents_faultRecord ..))
        exact onlyGroupsOf_setGroup s2 h2
  · split
    · exact hstop ..
    · rename_i s1 hv
      exact (onlyGroupsOf_of_agents (agents_saveSlot s g1 _ s1 hv)).trans (onlyGroupsOf_setGroup s1 h1)

theorem onlyGroupsOf_takeTrap (t : TrapInfo) : OnlyGroupsOf g.id s (takeTrap s g t) :=
  onlyGroupsOf_ite (onlyGroupsOf_setGroup s rfl) (onlyGroupsOf_enterTrap s g t)

theorem onlyGroupsOf_wakeTrap (gid : Nat) (t : TrapInfo) : OnlyGroupsOf gid s (wakeTrap s gid t) := by
  unfold wakeTrap
  split
  · exact onlyGroupsOf_of_agents rfl
  · rename_i g hg
    obtain rfl := groupOf_id hg
    exact onlyGroupsOf_ite (onlyGroupsOf_setGroup s rfl) (onlyGroupsOf_takeTrap s { g with st := .ready, park := none, refetch := true } t)

theorem onlyGroupsOf_wake (gid : Nat) : OnlyGroupsOf gid s (wake s gid) := onlyGroupsOf_onGroup s gid (fun x hx => (wakeGroup_id x).trans hx)

end

/-! ### Steps that each change the groups of one identity -/

section
variable {α : Type} {f : State → α → State} {id : α → Nat}

theorem besideGroups_foldl (hf : ∀ s a, OnlyGroupsOf (id a) s (f s a)) (xs : List α) (s : State) :
    besideGroups (xs.foldl f s) = besideGroups s :=
  foldl_keeps (fun s a => (hf s a).beside) xs s

/-- What each of several steps that are taken keeps, they keep together. -/
theorem groupsOf_foldl {xs : List α} {j : Nat} (hf : ∀ s, ∀ a ∈ xs, groupsOf (f s a) j = groupsOf s j) (s : State) :
    groupsOf (xs.foldl f s) j = groupsOf s j :=
  List.foldlRecOn (motive := fun t => groupsOf t j = groupsOf s j) xs f rfl (fun t ht a ha => (hf t a ha).trans ht)

theorem groupsOf_foldl_ne {xs : List α} {j : Nat} (hf : ∀ s a, OnlyGroupsOf (id a) s (f s a)) (hj : ∀ a ∈ xs, id a ≠ j) (s : State) :
    groupsOf (xs.foldl f s) j = groupsOf s j :=
  groupsOf_foldl (fun s a ha => (hf s a).others j (hj a ha).symm) s

/-- Where one step is for an identity, it finds the groups under it as they were, and leaves them as they will be. -/
theorem groupsOf_foldl_once (hf : ∀ s a, OnlyGroupsOf (id a) s (f s a)) {xs : List α} {k : α}
    (hk : xs.filter (fun a => decide (id a = id k)) = [k])
    (s : State) : ∃ s', groupsOf s' (id k) = groupsOf s (id k) ∧ besideGroups s' = besideGroups s ∧
      groupsOf (xs.foldl f s) (id k) = groupsOf (f s' k) (id k) := by
  obtain ⟨l1, l2, rfl, h1, -, h2⟩ := List.filter_eq_cons_iff.mp hk
  have hne1 : ∀ a ∈ l1, id a ≠ id k := fun a ha => by simpa using h1 a ha
  have hne2 : ∀ a ∈ l2, id a ≠ id k := fun a ha => by simpa using List.filter_eq_nil_iff.mp h2 a ha
  refine ⟨l1.foldl f s, groupsOf_foldl_ne hf hne1 s, besideGroups_foldl hf l1 s, ?_⟩
  rw [List.foldl_append, List.foldl_cons]
  exact groupsOf_foldl_ne hf hne2 _
end

/-! ### What the failure of a copy leaves as it was -/

/-- Which teams are reset-pending (10 R265). -/
def resets (s : State) : List (Nat × Bool) := s.teams.map (fun t => (t.id, t.resetPend))

/-- The number of clusters, the copies, which teams are reset-pending, and the groups. -/
def steady (s : State) : Nat × List Copy × List (Nat × Bool) × List Group := (s.clusters.length, s.copies, resets s, s.groups)

theorem steady_of_agents {s t : State} (h : agents t = agents s) : steady t = steady s := by
  rw [steady, resets, clusters_length_of_agents h, copies_of_agents h, teams_of_agents h, groups_of_agents h, steady, resets]

theorem steady_onCluster (s : State) (c : Nat) (f : Cluster → Cluster) : steady (onCluster s c f) = steady s := by
  rw [steady, onCluster_clusters, List.length_modify, steady]
  rfl

theorem steady_onTeam (s : State) (id : Nat) {f : Team → Team} (hf : ∀ t, ((f t).id, (f t).resetPend) = (t.id, t.resetPend) := by intros; rfl) :
    steady (onTeam s id f) = steady s := by
  have hr : resets (onTeam s id f) = resets s := by
    rw [resets, onTeam_teams, List.map_map]
    refine List.map_congr_left fun t _ => ?_
    rw [Function.comp_apply]
    split
    · exact hf t
    · rfl
  rw [steady, hr, steady]
  rfl

section
variable (s : State)

theorem agents_setAreaBit (t : Team) (off bit : Nat) : agents (setAreaBit s t off bit) = agents s := by
  unfold setAreaBit
  split
  · rename_i s1 bs h
    have h1 := agents_getVA s h
    exact (agents_getD (agents_putVA s1 _ _ _ _) rfl).trans h1
  · rfl

theorem agents_setSavedTag (t : Team) (tag : Nat) (bad : Option (Nat × Nat × W64)) : agents (setSavedTag s t tag bad) = agents s := by
  unfold setSavedTag
  extract_lets s1
  have h1 : agents s1 = agents s := agents_setAreaBit ..
  split
  · exact (agents_getD (agents_putVA _ _ _ _ _) rfl).trans ((agents_setAreaBit ..).trans h1)
  · exact h1

theorem steady_setTag (team tag : Nat) (bad : Option (Nat × Nat × W64)) : steady (setTag s team tag bad) = steady s := by
  unfold setTag
  extract_lets bit s1
  have h1 : steady s1 = steady s := steady_onTeam s team
  split
  · exact keeps_ite ((steady_of_agents (agents_setSavedTag ..)).trans h1) h1
  · exact h1

theorem steady_reportCopy (c : Copy) (team cause sub addr : Nat) : steady (reportCopy s c team cause sub addr) = steady s :=
  keeps_ite (steady_setTag ..) (steady_of_agents (agents_faultRecord ..))

theorem agents_leaveDrop (c : Nat) (p : LeaveBy → Bool) : agents (leaveDrop s c p) = agents s := agents_onCluster s c

/-- The end of a copy that has failed takes it off the list. -/
theorem steady_finishCopy {c : Copy} {x : Nat × Nat × W64} (h : c.failed = some x) :
    steady (finishCopy s c) = steady { s with copies := s.copies.filter (fun y => decide (y.id ≠ c.id)) } := by
  unfold finishCopy
  extract_lets s1 s2 s3
  have h2 : steady s2 = steady s1 := steady_of_agents (agents_leaveDrop ..)
  have h3 : steady s3 = steady s2 := keeps_ite rfl (steady_onTeam s2 c.team)
  rw [h]
  exact (steady_reportCopy ..).trans (h3.trans h2)

theorem steady_copyStarves (c : Copy) (va : Nat) : steady (copyStarves s c va) = steady s := by
  refine keeps_ite ?_ rfl
  unfold starveAscend
  extract_lets e
  split
  · split
    · exact keeps_ite (steady_onCluster s _ _) rfl
    · rfl
  · rfl

/-- A copy that fails as a whole is taken off the list. -/
theorem steady_failCopy (c : Copy) (cause sub : Nat) :
    steady (failCopy s c cause sub) = steady { s with copies := s.copies.filter (fun y => decide (y.id ≠ c.id)) } := by
  have hf : ∃ x, (c.failed <|> some (cause, sub, (0 : W64))) = some x := by
    cases c.failed with
    | none => exact ⟨_, rfl⟩
    | some x => exact ⟨x, rfl⟩
  obtain ⟨x, hf⟩ := hf
  unfold failCopy
  extract_lets s1
  have h1 : steady s1 = steady s := foldl_keeps (fun s r => steady_reportCopy s c r cause sub 0) _ s
  have h2 : steady { s1 with copies := s1.copies.filter (fun y => decide (y.id ≠ c.id)) } =
      steady { s with copies := s.copies.filter (fun y => decide (y.id ≠ c.id)) } :=
    congrArg (fun p => (p.1, p.2.1.filter (fun y => decide (y.id ≠ c.id)), p.2.2)) h1
  exact ((steady_copyStarves ..).trans (steady_finishCopy s1 (c := { c with failed := c.failed <|> some (cause, sub, 0) }) hf)).trans h2
end

/-- What the failure of copies leaves as it was: the number of clusters, which teams are reset-pending, and the groups. -/
def besideCopies (s : State) : Nat × List (Nat × Bool) × List Group := (s.clusters.length, resets s, s.groups)

theorem besideCopies_failCopy (s : State) (c : Copy) (cause sub : Nat) : besideCopies (failCopy s c cause sub) = besideCopies s :=
  congrArg (fun p => (p.1, p.2.2)) (steady_failCopy s c cause sub)

theorem besideCopies_failStreams (s : State) (cluster : Nat) (p : Nat → Bool) (cause : Nat) :
    besideCopies (failStreams s cluster p cause) = besideCopies s :=
  foldl_keeps (fun s c => besideCopies_failCopy s c cause 0) _ s

theorem mem_foldl_failCopy {cs : List Copy} {cause : Nat} {x : Copy} {s : State}
    (h : x ∈ (cs.foldl (fun s c => failCopy s c cause 0) s).copies) :
    x ∈ s.copies ∧ ∀ c ∈ cs, x.id ≠ c.id := by
  induction cs generalizing s with
  | nil => exact ⟨h, fun c hc => absurd hc List.not_mem_nil⟩
  | cons c cs ih =>
    obtain ⟨hx, hcs⟩ := ih h
    have hc : (failCopy s c cause 0).copies = s.copies.filter (fun y => decide (y.id ≠ c.id)) :=
      congrArg (fun p => p.2.1) (steady_failCopy s c cause 0)
    rw [hc, List.mem_filter] at hx
    exact ⟨hx.1, List.forall_mem_cons.mpr ⟨by simpa using hx.2, hcs⟩⟩

/-- No copy into a stream of a cluster is left but those whose bytes have all landed, and those that will fail as they take their tag (10
R251, R265). -/
def StreamsFailed (s : State) (c : Nat) : Prop :=
  ∀ x ∈ s.copies, x.cluster = c → x.cd.dstos = true → if x.queued then x.left = [] else x.failed ≠ none

theorem streamsFailed_failStreams (s : State) (c cause : Nat) : StreamsFailed (failStreams s c (fun _ => true) cause) c := by
  intro x hx hc hd
  obtain ⟨y, hy, hyx⟩ := List.mem_map.mp hx
  obtain ⟨hy, hne⟩ := mem_foldl_failCopy hy
  split at hyx
  case isTrue hh =>
    have hq : y.queued = false := by simpa using (Bool.and_eq_true_iff.mp hh).1
    subst hyx
    simp [hq]
  case isFalse hh =>
    subst hyx
    split
    case isTrue hq =>
      by_contra hl
      exact hne y (List.mem_filter.mpr ⟨hy, by simp [hq, hl, hc, hd]⟩) rfl
    case isFalse hq => exact absurd (by simp [hq, hc, hd]) hh

/-! ### The engine reset (10 R265) -/

/-- The commands of a cluster: those of the queue and those that wait for room. -/
def allCmds (s : State) (c : Nat) : List ECmd := (engOf s c).cmds ++ (engOf s c).pend

/-- The teams that a reset of a cluster affects. -/
def affected (s : State) (c : Nat) : List Nat := (engOf s c).ents.map (fun x => x.team)

/-- A team made reset-pending, with a record where no group of it is left to take the fault. -/
def pendTeam (s : State) (team : Nat) : State :=
  let s := onTeam s team (fun x => { x with resetPend := true })
  if hasLive s team then s
  else match teamOf s team with
    | some x => faultRecord s { ctx := x.ctx, launch := x.launch, core := x.core,
                                team := if x.launch.isSome then x.index else 0xFFFFFF } false 0x1A 0
    | none => s

/-- The reset up to the engine that holds nothing. -/
def emptied (s : State) (c : Nat) : State :=
  onEng ((affected s c).foldl (fun s t => leaveDrop s c (LeaveBy.ofTeam t)) (resetStep1 s c)) c
    (fun e => { Engine.empty with age := e.age, ncache := e.ncache })

/-- The reset up to the teams that are reset-pending. -/
def pended (s : State) (c : Nat) : State := (affected s c).foldl pendTeam (emptied s c)

theorem resetEngine_eq (s : State) (c : Nat) : resetEngine s c =
    ((pended s c).groups.filter (fun g => decide (g.cluster = c))).foldl (resetGroup (affected s c)) (pended s c) := rfl

/-! #### Step 1 -/

theorem onlyGroupsOf_giveLL (s : State) (gid key : Nat) (vec : List (Nat × Nat × W32)) : OnlyGroupsOf gid s (giveLL s gid key vec) :=
  onlyGroupsOf_onGroup s gid (fun _ hx => hx)

/-- The outstanding result of a command that is discarded becomes zero. -/
def zeroResult (s : State) (k : ECmd) : State :=
  match k.kind with
  | .hdrain _ _ line ts => giveLL s k.gid k.key (ts.map (fun t => (line, t, 0)))
  | .qrd _ _ _ line ts => giveLL s k.gid k.key (ts.map (fun t => (line, t, 0)))
  | .zld _ _ _ => giveLL s k.gid k.key []
  | _ => s

theorem onlyGroupsOf_zeroResult (s : State) (k : ECmd) : OnlyGroupsOf k.gid s (zeroResult s k) := by
  unfold zeroResult
  split
  · exact onlyGroupsOf_giveLL ..
  · exact onlyGroupsOf_giveLL ..
  · exact onlyGroupsOf_giveLL ..
  · exact onlyGroupsOf_of_agents rfl

theorem besideCopies_resetStep1 (s : State) (c : Nat) : besideCopies (resetStep1 s c) = besideCopies ((allCmds s c).foldl zeroResult s) :=
  besideCopies_failStreams ..

theorem clusters_length_of_besideGroups {s t : State} (h : besideGroups t = besideGroups s) : t.clusters.length = s.clusters.length := by
  have hl := congrArg (fun p => p.1.length) h
  simpa only [besideGroups, List.length_map] using hl

section
variable (s : State) (c : Nat)

theorem clusters_length_resetStep1 : (resetStep1 s c).clusters.length = s.clusters.length :=
  (congrArg (fun p => p.1) (besideCopies_resetStep1 s c)).trans
    (clusters_length_of_besideGroups (besideGroups_foldl onlyGroupsOf_zeroResult (allCmds s c) s))

theorem resets_resetStep1 : resets (resetStep1 s c) = resets s :=
  (congrArg (fun p => p.2.1) (besideCopies_resetStep1 s c)).trans
    (congrArg (fun p => p.2.2.map (fun (t : Team) => (t.id, t.resetPend))) (besideGroups_foldl onlyGroupsOf_zeroResult (allCmds s c) s))

/-- The groups without a command are as they were. -/
theorem groupsOf_resetStep1 {j : Nat} (hj : ∀ x ∈ allCmds s c, x.gid ≠ j) : groupsOf (resetStep1 s c) j = groupsOf s j := by
  have hg : (resetStep1 s c).groups = ((allCmds s c).foldl zeroResult s).groups := congrArg (fun p => p.2.2) (besideCopies_resetStep1 s c)
  rw [groupsOf, hg]
  exact groupsOf_foldl_ne onlyGroupsOf_zeroResult hj s
end

/-! #### The teams that held entries -/

theorem agents_pendTeam (s : State) (team : Nat) : agents (pendTeam s team) = agents (onTeam s team (fun x => { x with resetPend := true })) := by
  unfold pendTeam
  extract_lets s1
  refine keeps_ite rfl ?_
  split
  · exact agents_faultRecord ..
  · rfl

/-- The engines, the copies and the groups. -/
def besideTeams (s : State) : List Engine × List Copy × List Group := (s.clusters.map (fun x => x.eng), s.copies, s.groups)

theorem besideTeams_pendTeam (s : State) (team : Nat) : besideTeams (pendTeam s team) = besideTeams s :=
  (congrArg (fun p => (p.1, p.2.1, p.2.2.2)) (agents_pendTeam s team) :)

theorem besideTeams_pended (s : State) (c : Nat) : besideTeams (pended s c) = besideTeams (emptied s c) :=
  foldl_keeps besideTeams_pendTeam _ _

theorem resets_pendTeam (s : State) (team : Nat) : resets (pendTeam s team) = (resets s).map (fun x => (x.1, x.2 || decide (x.1 = team))) := by
  rw [resets, teams_of_agents (agents_pendTeam s team), onTeam_teams, List.map_map, resets, List.map_map]
  refine List.map_congr_left fun t _ => ?_
  by_cases ht : t.id = team <;> simp [ht]

theorem resets_foldl_pendTeam (teams : List Nat) (s : State) :
    resets (teams.foldl pendTeam s) = (resets s).map (fun x => (x.1, x.2 || teams.contains x.1)) := by
  induction teams generalizing s with
  | nil => simp
  | cons t ts ih =>
    rw [List.foldl_cons, ih, resets_pendTeam, List.map_map]
    refine List.map_congr_left fun x _ => ?_
    simp [Bool.or_assoc]

theorem resetPend_of_resets {s : State} (id : Nat) :
    (teamOf s id).map (fun t => (t.id, t.resetPend)) = (resets s).find? (fun x => decide (x.1 = id)) := by
  rw [resets, List.find?_map]
  rfl

/-! #### The state that the groups go on in -/

section
variable (s : State) (c : Nat)

theorem agents_leaveDrops (teams : List Nat) : agents (teams.foldl (fun s t => leaveDrop s c (LeaveBy.ofTeam t)) s) = agents s :=
  foldl_keeps (fun s t => agents_leaveDrop s c (LeaveBy.ofTeam t)) teams s

theorem teams_emptied : (emptied s c).teams = (resetStep1 s c).teams :=
  (teams_of_agents (agents_leaveDrops (resetStep1 s c) c (affected s c)) :)
theorem groups_emptied : (emptied s c).groups = (resetStep1 s c).groups :=
  (groups_of_agents (agents_leaveDrops (resetStep1 s c) c (affected s c)) :)
theorem copies_emptied : (emptied s c).copies = (resetStep1 s c).copies :=
  (copies_of_agents (agents_leaveDrops (resetStep1 s c) c (affected s c)) :)

theorem resets_pended : resets (pended s c) = (resets s).map (fun x => (x.1, x.2 || (affected s c).contains x.1)) := by
  rw [pended, resets_foldl_pendTeam, resets, teams_emptied, ← resets, resets_resetStep1]

theorem groupsOf_pended {j : Nat} (hj : ∀ x ∈ allCmds s c, x.gid ≠ j) : groupsOf (pended s c) j = groupsOf s j := by
  have hg : (pended s c).groups = (emptied s c).groups := congrArg (fun p => p.2.2) (besideTeams_pended s c)
  rw [groupsOf, hg, groups_emptied]
  exact groupsOf_resetStep1 s c hj

theorem streamsFailed_pended : StreamsFailed (pended s c) c := by
  have hc : (pended s c).copies = (emptied s c).copies := congrArg (fun p => p.2.1) (besideTeams_pended s c)
  rw [StreamsFailed, hc, copies_emptied]
  exact streamsFailed_failStreams _ c 0x4D

theorem engOf_eq_of_engines {s t : State} (h : t.clusters.map (fun x => x.eng) = s.clusters.map (fun x => x.eng)) (c : Nat) :
    engOf t c = engOf s c := by
  have he : ∀ u : State, engOf u c = ((u.clusters.map (fun x => x.eng))[c]?).getD Engine.empty := fun u => by
    rw [engOf, clusterAt, List.getElem?_map]
    cases u.clusters[c]? <;> rfl
  rw [he, he, h]

/-- The engine after its reset holds nothing but the age of postings and the node cache. -/
theorem engOf_pended (hc : c < s.clusters.length) : ∃ age ncache, engOf (pended s c) c = { Engine.empty with age := age, ncache := ncache } := by
  have he : engOf (pended s c) c = engOf (emptied s c) c := engOf_eq_of_engines (congrArg (fun p => p.1) (besideTeams_pended s c)) c
  rw [he, emptied, engOf_onEng (by rw [clusters_length_of_agents (agents_leaveDrops ..), clusters_length_resetStep1]; exact hc)]
  exact ⟨_, _, rfl⟩
end

/-! #### The groups that go on -/

theorem onlyGroupsOf_resetGroup (teams : List Nat) (s : State) (g : Group) : OnlyGroupsOf g.id s (resetGroup teams s g) := by
  unfold resetGroup
  extract_lets mine
  split
  · exact onlyGroupsOf_ite (onlyGroupsOf_wakeTrap ..) (onlyGroupsOf_of_agents rfl)
  · refine onlyGroupsOf_ite (OnlyGroupsOf.trans ?_ (onlyGroupsOf_wakeTrap ..)) (onlyGroupsOf_of_agents rfl)
    exact onlyGroupsOf_onGroup s g.id (fun _ hx => hx)
  · exact onlyGroupsOf_wake ..
  · exact onlyGroupsOf_wake ..
  · exact onlyGroupsOf_wake ..
  · exact onlyGroupsOf_of_agents rfl

/-- The state after ENGINE_RESET_COMPLETE, for one group that waits for it (10 R277). -/
def afterReset (s : State) (c gid : Nat) : State := wake (resetEngine s c) gid

theorem exec_engineResetComplete {s : State} {c : Nat} {g : Group} (hw : s.groups.filter (fun k => decide (k.park = some (.mreset c))) = [g]) :
    exec (.engineResetComplete c) s = .next (afterReset s c g.id) := by
  change execEngineResetComplete c s = _
  rw [execEngineResetComplete, hw]
  rfl

theorem besideGroups_afterReset (s : State) (c gid : Nat) : besideGroups (afterReset s c gid) = besideGroups (pended s c) :=
  (onlyGroupsOf_wake ..).beside.trans (besideGroups_foldl (onlyGroupsOf_resetGroup (affected s c)) _ _)

section
variable {s : State} {c : Nat} {g k : Group}

/-- The group that asked for the reset goes on. -/
theorem mreset_goesOn (ha : Alone s g) (hp : g.park = some (.mreset c)) (hj : ∀ x ∈ allCmds s c, x.gid ≠ g.id) :
    groupOf (afterReset s c g.id) g.id = some (goneOn g) := by
  obtain ⟨hn, hst, hh⟩ := ha
  have hpend : groupsOf (pended s c) g.id = [g] := (groupsOf_pended s c hj).trans hn
  have hr : groupsOf (resetEngine s c) g.id = [g] := by
    rw [resetEngine_eq]
    refine (groupsOf_foldl (fun t x hx => ?_) _).trans hpend
    by_cases hid : x.id = g.id
    · have hm : x ∈ groupsOf (pended s c) g.id := List.mem_filter.mpr ⟨List.mem_of_mem_filter hx, by simpa using hid⟩
      rw [hpend, List.mem_singleton] at hm
      rw [resetGroup, hm, hp]
    · exact (onlyGroupsOf_resetGroup _ t x).others _ (Ne.symm hid)
  exact groupOf_wake (groupOf_of_groupsOf hr) hst hh

theorem id_ne_of_park_ne (hg : Alone s g) (hk : Alone s k) (hne : k.park ≠ g.park) : k.id ≠ g.id := fun hid => by
  have he : [g] = [k] := by rw [← hg.1, ← hk.1, hid]
  exact hne (List.singleton_inj.mp he ▸ rfl)

section
variable (hg : Alone s g) (hgp : g.park = some (.mreset c)) (hk : Alone s k) (hc : k.cluster = c) (hj : ∀ x ∈ allCmds s c, x.gid ≠ k.id)
include hg hk hc hj

/-- A group that waits in the cluster for something else is found as it was when its turn comes, and is afterwards what that makes of
it. -/
theorem resetGroup_turn (hne : k.park ≠ g.park) :
    ∃ s', groupOf s' k.id = some k ∧ besideGroups s' = besideGroups (pended s c) ∧
      groupOf (afterReset s c g.id) k.id = groupOf (resetGroup (affected s c) s' k) k.id := by
  have hpend : groupsOf (pended s c) k.id = [k] := (groupsOf_pended s c hj).trans hk.1
  have hf : ((pended s c).groups.filter (fun g => decide (g.cluster = c))).filter (fun x => decide (x.id = k.id)) = [k] := by
    rw [List.filter_comm]
    change (groupsOf (pended s c) k.id).filter _ = _
    rw [hpend]
    simp [hc]
  obtain ⟨s', hn, hb, ht⟩ := groupsOf_foldl_once (id := Group.id) (onlyGroupsOf_resetGroup (affected s c)) hf (pended s c)
  refine ⟨s', groupOf_of_groupsOf (hn.trans hpend), hb, ?_⟩
  rw [groupOf_eq_head, groupOf_eq_head, ← ht, ← resetEngine_eq, afterReset, (onlyGroupsOf_wake ..).others k.id (id_ne_of_park_ne hg hk hne)]

include hgp

/-- A group whose command or whose wait is gone goes on. -/
theorem waiting_goesOn (hp : (∃ n, k.park = some (.command n) ∨ k.park = some (.qwr n)) ∨ k.park = some .reinrel) :
    groupOf (afterReset s c g.id) k.id = some (goneOn k) := by
  have hne : k.park ≠ g.park := by rcases hp with ⟨n, hp | hp⟩ | hp <;> rw [hp, hgp] <;> simp
  obtain ⟨s', hs', -, ht⟩ := resetGroup_turn hg hk hc hj hne
  have hr : resetGroup (affected s c) s' k = wake s' k.id := by rcases hp with ⟨n, hp | hp⟩ | hp <;> rw [resetGroup, hp]
  obtain ⟨-, hst, hh⟩ := hk
  rw [ht, hr]
  exact groupOf_wake hs' hst hh

/-- A group of an affected team that waits in REINGET or MWAIT takes the engine-reset fault there. -/
theorem waiting_faults (he : ∃ x ∈ entsOf s c, x.team = k.team) (hp : k.park = some .reinget ∨ k.park = some .mwait) :
    ∃ s', groupOf s' k.id = some { k with mwFault := if k.park = some .mwait then none else k.mwFault } ∧
      teamOf s' k.team = teamOf (afterReset s c g.id) k.team ∧
      groupOf (afterReset s c g.id) k.id = groupOf (wakeTrap s' k.id { cause := 0x1A, sub := 0 }) k.id := by
  have hne : k.park ≠ g.park := by rcases hp with hp | hp <;> rw [hp, hgp] <;> simp
  obtain ⟨s', hs', hb, ht⟩ := resetGroup_turn hg hk hc hj hne
  have hteams : s'.teams = (afterReset s c g.id).teams := congrArg (fun p => p.2.2) (hb.trans (besideGroups_afterReset s c g.id).symm)
  have hm : (affected s c).contains k.team = true := by
    obtain ⟨x, hx, hxt⟩ := he
    exact List.contains_iff_mem.mpr (List.mem_map.mpr ⟨x, hx, hxt⟩)
  rcases hp with hp | hp
  · have hw : k.park ≠ some .mwait := by rw [hp]; simp
    refine ⟨s', by rwa [if_neg hw], by rw [teamOf, hteams, teamOf], ?_⟩
    rw [ht, resetGroup, hp]
    exact congrArg (groupOf · k.id) (if_pos hm)
  · refine ⟨onGroup s' k.id (fun g => { g with mwFault := none }), ?_, by rw [teamOf, onGroup_teams, hteams, teamOf], ?_⟩
    · rw [if_pos hp]
      exact groupOf_onGroup hs' (fun _ => rfl)
    · rw [ht, resetGroup, hp]
      exact congrArg (groupOf · k.id) (if_pos hm)
end

/-- The teams that held entries are reset-pending, the others are as they were. -/
theorem resetPend_afterReset {team : Team} (ht : teamOf s team.id = some team) (gid : Nat) :
    ∃ team', teamOf (afterReset s c gid) team.id = some team' ∧
      team'.resetPend = (team.resetPend || (entsOf s c).any (fun x => decide (x.team = team.id))) := by
  have hteams : (afterReset s c gid).teams = (pended s c).teams := congrArg (fun p => p.2.2) (besideGroups_afterReset s c gid)
  have hany : (affected s c).contains team.id = (entsOf s c).any (fun x => decide (x.team = team.id)) := by
    rw [affected, List.contains_eq_any_beq, List.any_map]
    refine congrArg (List.any (entsOf s c)) (funext fun x => ?_)
    rw [Function.comp_apply, BEq.comm, beq_eq_decide]
  have hf : (teamOf (afterReset s c gid) team.id).map (fun t => (t.id, t.resetPend)) =
      some (team.id, team.resetPend || (affected s c).contains team.id) := by
    rw [resetPend_of_resets, resets, hteams, ← resets, resets_pended, List.find?_map]
    change ((resets s).find? (fun x => decide (x.1 = team.id))).map _ = _
    rw [← resetPend_of_resets, ht]
    rfl
  obtain ⟨team', ht', he⟩ := Option.map_eq_some_iff.mp hf
  exact ⟨team', ht', (congrArg Prod.snd he).trans (by rw [hany])⟩

theorem engOf_afterReset (hc : c < s.clusters.length) (gid : Nat) :
    ∃ age ncache, engOf (afterReset s c gid) c = { Engine.empty with age := age, ncache := ncache } := by
  rw [engOf_eq_of_engines (congrArg (fun p => p.1) (besideGroups_afterReset s c gid)) c]
  exact engOf_pended s c hc

theorem streamsFailed_afterReset (gid : Nat) : StreamsFailed (afterReset s c gid) c := by
  have hcopies : (afterReset s c gid).copies = (pended s c).copies := congrArg (fun p => p.2.1) (besideGroups_afterReset s c gid)
  rw [StreamsFailed, hcopies]
  exact streamsFailed_pended s c

theorem park_of_waits (hw : s.groups.filter (fun k => decide (k.park = some (.mreset c))) = [g]) : g.park = some (.mreset c) := by
  have hm : g ∈ s.groups.filter (fun k => decide (k.park = some (.mreset c))) := hw ▸ List.mem_singleton_self g
  simpa using (List.mem_filter.mp hm).2
end

/-- Settles O38: the instructions are worked out from their operations, the reset from what each of its parts leaves as it was, and the
end of TREEBIND from what reading the descriptor leaves as it was. -/
theorem engineWaitsAndCounters : Obligations.EngineWaitsAndCounters := by
  refine ⟨?mwait, ?mstat, ?mreset, ?reset, ?treebind, ?treeEnd⟩
  case mwait =>
    intro s g h f hr
    refine ⟨fun hb => mwait_waits hr ?_, fun hb => mwait_ends hr ((mwaitMet_iff s g).mpr hb),
      fun hb c => mwait_faults hr ((mwaitMet_iff s g).mpr hb)⟩
    exact Bool.eq_false_iff.mpr fun hm => (mwaitMet_iff s g).mp hm hb
  case mstat =>
    intro s g h f hr
    exact ⟨fun sub => mstat_traps hr, mstat_refused hr, fun hc hy => ⟨mstat_reads hr hc hy, mstat_clears hr hc hy⟩⟩
  case mreset =>
    intro s g h f hr
    exact ⟨mreset_traps hr, mreset_parks hr⟩
  case reset =>
    intro s g c hc hw hg cmds
    have hp := park_of_waits hw
    obtain ⟨age, ncache, he⟩ := engOf_afterReset hc g.id
    refine ⟨_, exec_engineResetComplete hw, ?ents, by rw [he]; rfl, by rw [he]; rfl, by rw [he]; rfl, by rw [he]; rfl, by rw [he]; rfl,
      streamsFailed_afterReset g.id, fun team ht => resetPend_afterReset ht g.id, mreset_goesOn hg hp,
      fun k hk hkc hj => ⟨waiting_goesOn hg hp hk hkc hj, waiting_faults hg hp hk hkc hj⟩⟩
    rw [entsOf, he]
    rfl
  case treebind =>
    intro s g h f hr
    exact ⟨treebind_traps hr, treebind_parks hr⟩
  case treeEnd =>
    intro s g va hk hp hh hg hl he ht hc hs
    rw [settleGroup_treebind hk hp hh ht hc hs]
    exact ⟨settleTreebind_misaligned he, fun s1 c => settleTreebind_fails he, fun s1 t h => treebind_ends he h hp hh hg hl⟩

end Sys2Proof.Proofs

namespace Sys2Proof.Proofs
open Sys2Proof.Machine Sys2Proof.Laws

/-! ## What a save slot holds (O30)

A save slot is the little-endian form of 256 words. So each word is found by its place in a list of words, and what the
return from a trap reads is a part of that list. -/

/-! ### Words as bytes -/

theorem length_natLE (n v : Nat) : (natLE n v).length = n := by
  induction n generalizing v with
  | zero => rfl
  | succ n ih => rw [natLE, List.length_cons, ih]

theorem natLE_ofNat (v : Nat) : natLE 8 (BitVec.ofNat 64 v).toNat = natLE 8 v := by
  have hmod : ∀ n v, natLE n (v % 256 ^ n) = natLE n v := by
    intro n
    induction n with
    | zero => intro v; rfl
    | succ n ih =>
      intro v
      have hlow : v % 256 ^ (n + 1) % 256 = v % 256 := Nat.mod_mod_of_dvd v (Dvd.intro_left _ (Nat.pow_succ ..).symm)
      have hhigh : v % 256 ^ (n + 1) / 256 = v / 256 % 256 ^ n := by rw [Nat.pow_succ', Nat.mod_mul_right_div_self]
      rw [natLE, natLE, hhigh, ih]
      congr 1
      exact BitVec.eq_of_toNat_eq (by simp [hlow])
  exact hmod 8 v

@[simp] theorem wordsLE_nil : wordsLE [] = [] := rfl

@[simp] theorem wordsLE_cons (w : W64) (ws : List W64) : wordsLE (w :: ws) = natLE 8 w.toNat ++ wordsLE ws := rfl

@[simp] theorem wordsLE_append (vs ws : List W64) : wordsLE (vs ++ ws) = wordsLE vs ++ wordsLE ws := List.flatMap_append

theorem wordsLE_zeros (n : Nat) : wordsLE (List.replicate n 0) = List.replicate (8 * n) 0 := by
  induction n with
  | zero => rfl
  | succ n ih =>
    rw [List.replicate_succ, wordsLE_cons, ih, Nat.mul_succ, Nat.add_comm, List.replicate_add]
    rfl

theorem length_wordsLE (ws : List W64) : (wordsLE ws).length = 8 * ws.length := by
  induction ws with
  | nil => rfl
  | cons w ws ih => rw [wordsLE_cons, List.length_append, length_natLE, ih, List.length_cons]; omega

/-- A word is read at its place. -/
theorem wAt_wordsLE (ws : List W64) (i : Nat) : wAt (wordsLE ws) (8 * i) = ws.getD i 0 := by
  induction ws generalizing i with
  | nil => rw [wAt, wordsLE, List.flatMap_nil, List.drop_nil]; rfl
  | cons w ws ih =>
    cases i with
    | zero =>
      have hw : w.toNat % 256 ^ 8 = w.toNat := Nat.mod_eq_of_lt w.isLt
      rw [wAt, wordsLE_cons, Nat.mul_zero, List.drop_zero, List.take_left' (length_natLE ..), leNat_natLE, hw,
        BitVec.ofNat_toNat, BitVec.setWidth_eq]
      rfl
    | succ i =>
      have hd : (wordsLE (w :: ws)).drop (8 * (i + 1)) = (wordsLE ws).drop (8 * i) := by
        rw [wordsLE_cons, Nat.mul_succ, Nat.add_comm, ← List.drop_drop, List.drop_left' (length_natLE ..)]
      rw [List.getD_cons_succ, ← ih, wAt, hd, wAt]

/-- A list of words holds another from a place on. -/
def PartAt (ws : List W64) (n : Nat) (part : List W64) : Prop := ∀ i, i < part.length → ws.getD (n + i) 0 = part.getD i 0

theorem partAt_head {xs ys : List W64} : PartAt (xs ++ ys) 0 xs := fun i hi => by rw [Nat.zero_add, List.getD_append _ _ _ _ hi]

theorem PartAt.skip {xs ys part : List W64} {k n : Nat} (hx : xs.length = k) (h : PartAt ys n part) : PartAt (xs ++ ys) (k + n) part :=
  fun i hi => by rw [List.getD_append_right _ _ _ _ (by omega), ← h i hi, hx]; congr 1; omega

/-! ### The words of a slot -/

/-- The number in the first word of a frame (16 R377). -/
def frameHead (f : FrameInfo) : Nat :=
  f.trap.cause + 2 ^ 8 * f.trap.sub + 2 ^ 16 * (if f.hdr then 0 else f.pos % 16) + (if f.hdr then 2 ^ 20 else 0) +
    (if f.trap.after then 2 ^ 21 else 0) + (if f.full then 2 ^ 22 else 0) + (if f.parkw then 2 ^ 23 else 0)

/-- The words of a frame (16 R377). -/
def frameWords (s : State) (g : Group) (f : FrameInfo) : List W64 :=
  let t := f.trap
  let team := teamOf s g.team
  [BitVec.ofNat 64 (frameHead f),
    f.instr, BitVec.ofNat 64 (va57 g.pc), t.addr, t.addr2, f.remain, BitVec.ofNat 64 f.resume, BitVec.ofNat 64 g.flags.toNat,
    (team.map (fun (x : Team) => x.tagerr)).getD 0, BitVec.ofNat 64 s.fcycles, g.active, t.info,
    (team.map (fun (x : Team) => x.save)).getD 0, BitVec.ofNat 64 (t.tcause + 2 ^ 8 * t.tsub + 2 ^ 16 * t.tag), t.taddr] ++
    List.replicate 17 0

/-- The two words of an entry of the convergence stack (07 R170). -/
def stackWords (e : CEnt) : List W64 := [BitVec.ofNat 64 (va57 e.addr / 8 * 8 + e.kind), e.mask]

/-- The words that follow the convergence stack, up to the lengths of the loops (04 R86). -/
def tailWords (g : Group) (f : FrameInfo) : List W64 :=
  [BitVec.ofNat 64 (resumePC g f), g.active, BitVec.ofNat 64 g.flags.toNat, BitVec.ofNat 64 g.flagen.toNat, BitVec.ofNat 64 g.rmode.toNat,
    BitVec.ofNat 64 (g.stack.length + 2 ^ 32 * g.liveIdx), g.frame, BitVec.ofNat 64 g.left]

/-- The words of a save slot (04 R86). -/
def slotWords (s : State) (g : Group) (f : FrameInfo) : List W64 :=
  frameWords s g f ++ (g.s ++ (g.a ++ (g.mB ++ (g.p ++ ([0] ++
    ((g.stack.flatMap stackWords ++ List.replicate (2 * (16 - g.stack.length)) 0) ++ (tailWords g f ++ (g.mL ++ List.replicate 64 0))))))))

theorem frameBytes_eq (s : State) (g : Group) (f : FrameInfo) : frameBytes s g f = wordsLE (frameWords s g f) := by
  simp only [frameBytes, frameWords, frameHead, wordsLE_append, wordsLE_cons, natLE_ofNat, wordsLE_zeros,
    wordsLE_nil, List.append_assoc, List.append_nil]

theorem stackBytes_eq (e : CEnt) : stackBytes e = wordsLE (stackWords e) := by
  simp only [stackBytes, stackWords, wordsLE_cons, natLE_ofNat, wordsLE_nil, List.append_nil]

theorem flatMap_stackBytes (es : List CEnt) : es.flatMap stackBytes = wordsLE (es.flatMap stackWords) := by
  induction es with
  | nil => rfl
  | cons e es ih => rw [List.flatMap_cons, List.flatMap_cons, wordsLE_append, ih, stackBytes_eq]

theorem slotBytes_eq (s : State) (g : Group) (f : FrameInfo) : slotBytes s g f = wordsLE (slotWords s g f) := by
  have hz : 16 * (16 - g.stack.length) = 8 * (2 * (16 - g.stack.length)) := by omega
  simp only [slotBytes, slotWords, tailWords, wordsLE_append, wordsLE_cons, natLE_ofNat, wordsLE_zeros, frameBytes_eq,
    flatMap_stackBytes, hz, wordsLE_nil, List.append_assoc, List.append_nil]
  rfl

/-- The parts of a slot have the sizes of 04 R86. -/
structure SlotSized (g : Group) : Prop where
  s : g.s.length = 64
  a : g.a.length = 16
  mB : g.mB.length = 16
  mL : g.mL.length = 16
  p : g.p.length = 7
  stack : g.stack.length ≤ 16

theorem length_stackWords (es : List CEnt) : (es.flatMap stackWords).length = 2 * es.length := by
  induction es with
  | nil => rfl
  | cons e es ih => rw [List.flatMap_cons, List.length_append, ih, List.length_cons]; simp only [stackWords, List.length_cons, List.length_nil]; omega

theorem getElem_stackWords (es : List CEnt) (i : Nat) (e : CEnt) (he : es[i]? = some e) :
    (es.flatMap stackWords)[2 * i]? = some (BitVec.ofNat 64 (va57 e.addr / 8 * 8 + e.kind)) ∧
      (es.flatMap stackWords)[2 * i + 1]? = some e.mask := by
  induction es generalizing i with
  | nil => simp at he
  | cons x es ih =>
    cases i with
    | zero =>
      obtain rfl : x = e := by simpa using he
      exact ⟨rfl, rfl⟩
    | succ i => exact ih i (by simpa using he)

/-- A word of the slot is read from the list of its words. -/
theorem wAt_slotBytes (s : State) (g : Group) (f : FrameInfo) {off i : Nat} (h : off = 8 * i) : wAt (slotBytes s g f) off = (slotWords s g f).getD i 0 := by
  rw [slotBytes_eq, h, wAt_wordsLE]

section
variable {s : State} {g : Group} {f : FrameInfo} (hg : SlotSized g)
include hg

theorem length_slotWords : (slotWords s g f).length = 256 := by
  obtain ⟨h1, h2, h3, h4, h5, h6⟩ := hg
  simp only [slotWords, frameWords, tailWords, List.length_append, List.length_cons, List.length_nil, List.length_replicate, length_stackWords,
    h1, h2, h3, h4, h5]
  omega

theorem length_slotBytes : (slotBytes s g f).length = 2048 := by
  rw [slotBytes_eq, length_wordsLE, length_slotWords hg]


/-- Where each part of a slot stands, in words. -/
theorem slotWords_parts :
    PartAt (slotWords s g f) 0 (frameWords s g f) ∧ PartAt (slotWords s g f) 32 g.s ∧ PartAt (slotWords s g f) 96 g.a ∧
    PartAt (slotWords s g f) 112 g.mB ∧ PartAt (slotWords s g f) 128 g.p ∧
    PartAt (slotWords s g f) 136 (g.stack.flatMap stackWords ++ List.replicate (2 * (16 - g.stack.length)) 0) ∧
    PartAt (slotWords s g f) 168 (tailWords g f) ∧ PartAt (slotWords s g f) 176 g.mL := by
  obtain ⟨hs, ha, hB, hL, hp, hst⟩ := hg
  have hf : (frameWords s g f).length = 32 := rfl
  have hstack : (g.stack.flatMap stackWords ++ List.replicate (2 * (16 - g.stack.length)) 0).length = 32 := by
    rw [List.length_append, length_stackWords, List.length_replicate]
    omega
  have h0 : ([0] : List W64).length = 1 := rfl
  have ht : (tailWords g f).length = 8 := rfl
  exact ⟨partAt_head, .skip hf partAt_head, .skip hf (.skip hs partAt_head), .skip hf (.skip hs (.skip ha partAt_head)),
    .skip hf (.skip hs (.skip ha (.skip hB partAt_head))), .skip hf (.skip hs (.skip ha (.skip hB (.skip hp (.skip h0 partAt_head))))),
    .skip hf (.skip hs (.skip ha (.skip hB (.skip hp (.skip h0 (.skip hstack partAt_head)))))),
    .skip hf (.skip hs (.skip ha (.skip hB (.skip hp (.skip h0 (.skip hstack (.skip ht partAt_head)))))))⟩

end

/-- A word of a part is read at the place of the part in the slot. -/
theorem wAt_of_partAt {s : State} {g : Group} {f : FrameInfo} {part : List W64} {n i off : Nat} (h : PartAt (slotWords s g f) n part)
    (hi : i < part.length) (hoff : off = 8 * (n + i)) : wAt (slotBytes s g f) off = part.getD i 0 :=
  (wAt_slotBytes s g f hoff).trans (h i hi)

/-- The words of a part are read from its place in the slot. -/
theorem wordsAt_of_partAt {s : State} {g : Group} {f : FrameInfo} {part : List W64} {n m off : Nat} (h : PartAt (slotWords s g f) n part)
    (hm : part.length = m) (hoff : off = 8 * n) : wordsAt (slotBytes s g f) off m = part := by
  refine List.ext_getElem (by simp [wordsAt, hm]) fun i h1 h2 => ?_
  simp only [wordsAt, List.getElem_map, List.getElem_range]
  rw [wAt_of_partAt h h2 (by omega), List.getD_eq_getElem _ _ h2]

/-- The two words of an entry of the convergence stack are read at its place. -/
theorem wAt_stack {s : State} {g : Group} {f : FrameInfo} (hg : SlotSized g) {i : Nat} {e : CEnt} (he : g.stack[i]? = some e) :
    wAt (slotBytes s g f) (0x440 + 16 * i) = BitVec.ofNat 64 (va57 e.addr / 8 * 8 + e.kind) ∧
      wAt (slotBytes s g f) (0x448 + 16 * i) = e.mask := by
  have hi : i < g.stack.length := (List.getElem?_eq_some_iff.mp he).1
  have hlen := length_stackWords g.stack
  obtain ⟨-, -, -, -, -, hst, -, -⟩ := slotWords_parts (s := s) (f := f) hg
  have hword : ∀ j off x, j < 2 * g.stack.length → off = 8 * (136 + j) → (g.stack.flatMap stackWords)[j]? = some x →
      wAt (slotBytes s g f) off = x := fun j off x hj ho hx => by
    rw [wAt_of_partAt hst (by rw [List.length_append]; omega) ho, List.getD_append _ _ _ _ (by omega),
      List.getD_eq_getElem?_getD, hx, Option.getD_some]
  obtain ⟨haddr, hmask⟩ := getElem_stackWords g.stack i e he
  exact ⟨hword (2 * i) _ _ (by omega) (by omega) haddr, hword (2 * i + 1) _ _ (by omega) (by omega) hmask⟩

/-! ### The layout -/

theorem toNat_ofNat_of_lt {n : Nat} (h : n < 2 ^ 64) : (BitVec.ofNat 64 n : W64).toNat = n := Nat.mod_eq_of_lt h

theorem ofNat_toNat_zeroExtend {n : Nat} (x : BitVec n) : BitVec.ofNat 64 x.toNat = x.zeroExtend 64 := BitVec.ofNat_toNat 64 x

/-- The fields of the first word of a frame (16 R377). -/
theorem frameHead_fields {f : FrameInfo} (hc : f.trap.cause < 256) (hs : f.trap.sub < 256) (hp : f.pos < 16) :
    frameHead f < 2 ^ 64 ∧ bits (frameHead f) 0 8 = f.trap.cause ∧ bits (frameHead f) 8 8 = f.trap.sub ∧
    bits (frameHead f) 16 4 = (if f.hdr then 0 else f.pos) ∧ (frameHead f).testBit 20 = f.hdr ∧ (frameHead f).testBit 21 = f.trap.after ∧
    (frameHead f).testBit 22 = f.full ∧ (frameHead f).testBit 23 = f.parkw := by
  have hbit : ∀ b n : Nat, ∀ x : Bool, b / 2 ^ n % 2 = x.toNat → b.testBit n = x := fun b n x h => by
    rw [Nat.testBit_eq_decide_div_mod_eq, h]
    cases x <;> rfl
  have hif : ∀ (x : Bool) (n : Nat), (if x then n else 0) = n * x.toNat := fun x n => by cases x <;> simp
  have hle : ∀ x : Bool, x.toNat ≤ 1 := Bool.toNat_le
  have h0 : (if f.hdr then 0 else f.pos % 16) = (if f.hdr then 0 else f.pos) := by rw [Nat.mod_eq_of_lt hp]
  have h1 : (if f.hdr then 0 else f.pos) < 16 := by split <;> omega
  have hh := hle f.hdr
  have ha := hle f.trap.after
  have hf := hle f.full
  have hw := hle f.parkw
  simp only [frameHead, h0, hif _ (2 ^ _), bits]
  generalize (if f.hdr then 0 else f.pos) = pos at *
  refine ⟨?_, ?_, ?_, ?_, hbit _ _ _ ?_, hbit _ _ _ ?_, hbit _ _ _ ?_, hbit _ _ _ ?_⟩ <;> omega

theorem saveSlotLayout : Claims.SaveSlotLayout := by
  intro s g f team hteam hs ha hB hL hp hst hcause hsub hpos htc hts htag hidx b w frame rest
  have hg : SlotSized g := ⟨hs, ha, hB, hL, hp, hst⟩
  obtain ⟨pf, ps, pa, pB, pp, pst, pt, pL⟩ := slotWords_parts (s := s) (f := f) hg
  have wf : ∀ i off, i < 32 → off = 8 * i → w off = (frameWords s g f).getD i 0 := fun i off hi ho =>
    wAt_of_partAt pf hi (by omega)
  have wt : ∀ i off, i < 8 → off = 0x540 + 8 * i → w off = (tailWords g f).getD i 0 := fun i off hi ho =>
    wAt_of_partAt pt hi (by omega)
  have hhead : w 0 = BitVec.ofNat 64 (frameHead f) := wf 0 0 (by decide) rfl
  have htag' : w 0x68 = BitVec.ofNat 64 (f.trap.tcause + 2 ^ 8 * f.trap.tsub + 2 ^ 16 * f.trap.tag) := wf 13 0x68 (by decide) rfl
  have hdepth : w 0x568 = BitVec.ofNat 64 (g.stack.length + 2 ^ 32 * g.liveIdx) := wt 5 0x568 (by decide) rfl
  have hresume : w 0x540 = BitVec.ofNat 64 (resumePC g f) := wt 0 0x540 (by decide) rfl
  have hresumeLt : resumePC g f < 2 ^ 64 := by unfold resumePC va57; split <;> omega
  obtain ⟨hlt, f1, f2, f3, f4, f5, f6, f7⟩ := frameHead_fields hcause hsub hpos
  rw [hhead, htag', hdepth, hresume, BitVec.getLsbD_ofNat, BitVec.getLsbD_ofNat, BitVec.getLsbD_ofNat, BitVec.getLsbD_ofNat,
    toNat_ofNat_of_lt hlt, toNat_ofNat_of_lt hresumeLt, toNat_ofNat_of_lt (n := _ + 2 ^ 16 * _) (by omega), toNat_ofNat_of_lt (by omega)]
  refine ⟨length_slotBytes hg, ?words, f1, f2, f3, f4, f5, f6, f7, ?_, ?_, ?_, rfl, ?_, ?_,
    fun i hi => wAt_of_partAt ps (by omega) (by omega), fun i hi => wAt_of_partAt pa (by omega) (by omega),
    fun i hi => wAt_of_partAt pB (by omega) (by omega), fun i hi => wAt_of_partAt pp (by omega) (by omega),
    fun i hi => wAt_of_partAt pL (by omega) (by omega), ?stack⟩
  case words =>
    have htagerr : ((teamOf s g.team).map (fun (x : Team) => x.tagerr)).getD 0 = team.tagerr := by rw [hteam]; rfl
    have hsave : ((teamOf s g.team).map (fun (x : Team) => x.save)).getD 0 = team.save := by rw [hteam]; rfl
    have hw := fun i (hi : i < 32) => wf i _ hi rfl
    have hv := fun i (hi : i < 8) => wt i _ hi rfl
    simp only [frame, rest, List.forall_mem_append, List.forall_mem_cons, ← ofNat_toNat_zeroExtend, ← htagerr, ← hsave]
    exact ⟨⟨hw 1 (by decide), hw 2 (by decide), hw 3 (by decide), hw 4 (by decide), hw 5 (by decide), hw 6 (by decide), hw 7 (by decide),
        hw 8 (by decide), hw 9 (by decide), hw 10 (by decide), hw 11 (by decide), hw 12 (by decide), hw 14 (by decide), by simp⟩,
      hv 1 (by decide), hv 2 (by decide), hv 3 (by decide), hv 4 (by decide), hv 6 (by decide), hv 7 (by decide), by simp⟩
  case stack =>
    intro i e he hk
    obtain ⟨haddr, hmask⟩ := wAt_stack (s := s) (f := f) hg he
    exact ⟨by rw [show w _ = _ from haddr, toNat_ofNat_of_lt (by unfold va57; omega)]; rfl, hmask⟩
  all_goals (unfold bits; omega)

/-! ### What is read back -/

/-- The address of an entry with its kind in the low bits gives both back (07 R170). -/
theorem stackAt_slotBytes {s : State} {g : Group} {f : FrameInfo} (hg : SlotSized g)
    (hst : ∀ e ∈ g.stack, e.kind < 3 ∧ e.addr.toNat < 2 ^ 57 ∧ e.addr.toNat % 8 = 0) :
    stackAt (slotBytes s g f) g.stack.length = g.stack := by
  refine List.ext_getElem (by simp [stackAt]) fun i h1 h2 => ?_
  obtain ⟨haddr, hmask⟩ := wAt_stack (s := s) (f := f) hg (List.getElem?_eq_getElem h2)
  obtain ⟨hk, ha, h8⟩ := hst _ (List.getElem_mem h2)
  have hnum : va57 g.stack[i].addr / 8 * 8 = g.stack[i].addr.toNat := by unfold va57; omega
  simp only [stackAt, List.getElem_map, List.getElem_range, haddr, hmask, hnum]
  generalize g.stack[i] = e at *
  have hw : (BitVec.ofNat 64 (e.addr.toNat + e.kind) : W64).toNat = e.addr.toNat + e.kind := toNat_ofNat_of_lt (by omega)
  have h57 : va57 (BitVec.ofNat 64 (e.addr.toNat + e.kind)) / 8 * 8 = e.addr.toNat := by rw [va57, hw]; omega
  have h4 : (e.addr.toNat + e.kind) % 4 = e.kind := by omega
  rw [h57, hw, h4, BitVec.ofNat_toNat, BitVec.setWidth_eq]

theorem map_eq_self {α : Type} {xs : List α} {f : α → α} (h : ∀ x ∈ xs, f x = x) : xs.map f = xs :=
  (List.map_congr_left h).trans (List.map_id' xs)

theorem slotRoundTrip : Claims.SlotRoundTrip := by
  intro s g k f hs ha hB hL hp hst hidx hleft hwidth hB57 hactive hpw hent
  have hg : SlotSized g := ⟨hs, ha, hB, hL, hp, hst⟩
  obtain ⟨-, ps, pa, pB, pp, -, pt, pL⟩ := slotWords_parts (s := s) (f := f) hg
  have ht : ∀ i off, i < 8 → off = 0x540 + 8 * i → wAt (slotBytes s g f) off = (tailWords g f).getD i 0 := fun i off hi ho =>
    wAt_of_partAt pt hi (by omega)
  have hdepth : (wAt (slotBytes s g f) 0x568).toNat = g.stack.length + 2 ^ 32 * g.liveIdx :=
    (congrArg BitVec.toNat (ht 5 0x568 (by decide) rfl)).trans (toNat_ofNat_of_lt (by omega))
  have hlen : min 16 ((g.stack.length + 2 ^ 32 * g.liveIdx) % 32) = g.stack.length := by omega
  have hkinds : g.stack.any (fun e => decide (e.kind = 3)) = false := by
    rw [List.any_eq_false]
    exact fun e he => by have := (hent e he).1; simp; omega
  have hva : ∀ b ∈ g.mB, BitVec.ofNat 64 (va57 b) = b := fun b hb => by
    rw [va57, Nat.mod_eq_of_lt (hB57 b hb), BitVec.ofNat_toNat, BitVec.setWidth_eq]
  have hidx' : bits (g.stack.length + 2 ^ 32 * g.liveIdx) 32 12 = g.liveIdx := by unfold bits; omega
  have hwidths : ∀ p ∈ g.p, p &&& widthMask k.width = p := hwidth ▸ hpw
  rw [loadRegs]
  simp only [hdepth, hlen, stackAt_slotBytes hg hent, hkinds, Bool.false_eq_true, if_false, hidx',
    wordsAt_of_partAt ps hs (off := 0x100) rfl, wordsAt_of_partAt pa ha (off := 0x300) rfl, wordsAt_of_partAt pB hB (off := 0x380) rfl,
    wordsAt_of_partAt pL hL (off := 0x580) rfl, wordsAt_of_partAt pp hp (off := 0x400) rfl, map_eq_self hva, map_eq_self hwidths,
    ht 1 0x548 (by decide) rfl, ht 2 0x550 (by decide) rfl, ht 3 0x558 (by decide) rfl, ht 4 0x560 (by decide) rfl, ht 7 0x578 (by decide) rfl]
  simp only [tailWords, List.getD_cons_succ, List.getD_cons_zero, hwidth, hactive, toNat_ofNat_of_lt hleft]
  simp

/-- Settles O30: a slot is the little-endian form of a list of words, in which each part has its place. -/
theorem saveSlots : Obligations.SaveSlots := ⟨saveSlotLayout, slotRoundTrip⟩

end Sys2Proof.Proofs

namespace Sys2Proof.Proofs
open Sys2Proof.Machine Sys2Proof.Laws Sys2Proof.Claims

/-! ## The host port (O52) -/

/-! ### Control pages -/

theorem exec_registerWrite (off : Nat) (val : W64) (s : State) : exec (.registerWrite off val) s = execRegisterWrite off val s := rfl

/-- A write to a register of a control page (04 R94). -/
def pageWrite (s : State) (ctx r : Nat) (val : W64) : State :=
  match r with
  | 0x000 => otherCommand s ctx (val.toNat % 256)
  | 0x010 => onCtx s ctx (fun c => { c with crec := val })
  | 0x028 => onCtx s ctx (fun c => { c with evmask := val.truncate 6 })
  | 0x030 => onCtx s ctx (fun c => { c with msivec := BitVec.ofNat 64 (bits val.toNat 0 48) })
  | _ => s

theorem pageWrite_ignored {r : Nat} (hr : r ∉ [0, 0x010, 0x028, 0x030]) (s : State) (ctx : Nat) (val : W64) : pageWrite s ctx r val = s := by
  unfold pageWrite
  split
  case h_5 => rfl
  all_goals exact absurd (by decide) hr

section
variable {ctx r : Nat} (hc : ctx < 64) (hr : r < 0x20000)
include hc hr

/-- The control page and the register of an offset of BAR 0 (04 R94). -/
theorem page_offset : 0x20000 * ctx + r < 0x800000 ∧ (0x20000 * ctx + r) / 0x20000 = ctx ∧ (0x20000 * ctx + r) % 0x20000 = r := by
  omega

theorem exec_registerWrite_page (val : W64) (s : State) :
    exec (.registerWrite (0x20000 * ctx + r) val) s = .next (pageWrite s ctx r val) := by
  obtain ⟨hlt, hdiv, hmod⟩ := page_offset hc hr
  rw [exec_registerWrite, execRegisterWrite, if_pos hlt, hdiv, hmod]
  rfl

theorem barRead_page {s : State} {c : Context} {f : Context → Context} (h : s.contexts[ctx]? = some c) :
    barRead (onCtx s ctx f) (0x20000 * ctx + r) = pageRead (f c) r := by
  obtain ⟨hlt, hdiv, hmod⟩ := page_offset hc hr
  have hf : (onCtx s ctx f).contexts[ctx]? = some (f c) := by
    rw [onCtx_contexts, List.getElem?_modify_eq, h]
    rfl
  simp only [barRead, if_pos hlt, hdiv, hmod, hf]
end

theorem otherCommand_reports {s : State} {ctx code : Nat} {c : Context} (h : s.contexts[ctx]? = some c) (hcode : code = 0 ∨ 6 < code) :
    otherCommand s ctx code = report s ctx code (if c.busy then 1 else 2) := by
  rw [otherCommand, if_neg (by omega), h]

theorem otherMailbox_reports (s : State) {code : Nat} (hcode : code = 0 ∨ 7 < code) :
    otherMailbox s code = mreport s code (if s.firm.busy then 1 else if s.firm.mode = 2 then 5 else 3) := by
  rw [otherMailbox, if_neg (by omega)]
  rfl

/-- Offsets past the control pages that hold no register which a write changes. -/
theorem exec_registerWrite_ignored {off : Nat} (h0 : 0x800000 < off) (hreg : off ∉ [0x800008, 0x800010, 0xF00108])
    (hbar : off < 0x1000000 ∨ 0x1001000 ≤ off ∨ off % 8 ≠ 0) (val : W64) (s : State) : exec (.registerWrite off val) s = .next s := by
  simp only [List.mem_cons, List.not_mem_nil, or_false, not_or] at hreg
  obtain ⟨h1, h2, h3⟩ := hreg
  rw [exec_registerWrite, execRegisterWrite, if_neg (by omega), if_neg (by omega), if_neg h1, if_neg h2, if_neg h3, if_neg (by omega)]

/-! ### The MSI-X table -/

/-- A sum of different powers of two has their bits. -/
theorem sum_powers (p : Nat → Bool) (n : Nat) :
    ((List.range n).map (fun i => if p i then 2 ^ i else 0)).sum < 2 ^ n ∧
      ∀ i, (((List.range n).map (fun i => if p i then 2 ^ i else 0)).sum).testBit i = (decide (i < n) && p i) := by
  induction n with
  | zero => simp
  | succ n ih =>
    obtain ⟨hlt, hbit⟩ := ih
    rw [List.range_succ, List.map_append, List.sum_append, List.map_singleton, List.sum_singleton, Nat.pow_succ]
    generalize ((List.range n).map (fun i => if p i then 2 ^ i else 0)).sum = v at *
    have hsplit : v + (if p n then 2 ^ n else 0) = 2 ^ n * (p n).toNat + v := by cases p n <;> simp [Nat.add_comm]
    have hle := Nat.mul_le_mul_left (2 ^ n) (Bool.toNat_le (p n))
    rw [hsplit]
    refine ⟨by omega, fun i => ?_⟩
    rw [Nat.testBit_two_pow_mul_add _ hlt, hbit]
    rcases Nat.lt_trichotomy i n with h | rfl | h
    · simp [h, Nat.lt_succ_of_lt h]
    · cases p i <;> simp
    · have h1 : ¬ i < n := by omega
      have h2 : ¬ i < n + 1 := by omega
      rw [if_neg h1, decide_eq_false h2, Bool.false_and]
      exact Nat.testBit_lt_two_pow (Nat.lt_of_le_of_lt (Bool.toNat_le _) (Nat.one_lt_two_pow (by omega)))

theorem barRead_bar4 (s : State) (o : Nat) : barRead s (0x1000000 + o) = msixRead s o := by
  unfold barRead
  dsimp only
  rw [if_neg (by omega), if_neg (by omega), if_pos (by omega), Nat.add_sub_cancel_left]

theorem exec_registerWrite_bar4 {o : Nat} (ho : o < 0x1000) (h8 : o % 8 = 0) (val : W64) (s : State) :
    exec (.registerWrite (0x1000000 + o) val) s = .next (putMsix s o val) := by
  rw [exec_registerWrite, execRegisterWrite, if_neg (by omega), if_neg (by omega), if_neg (by omega), if_neg (by omega), if_neg (by omega),
    if_pos (by omega), Nat.add_sub_cancel_left]

section
variable {s : State} {v : Nat} (hv : v < 256)
include hv

theorem msixRead_entry {a d : W64} (h : s.msix[v]? = some (a, d)) : msixRead s (16 * v) = a.toNat ∧ msixRead s (16 * v + 8) = d.toNat := by
  have he : s.msix.getD v (0, 0) = (a, d) := by rw [List.getD_eq_getElem?_getD, h]; rfl
  have h0 : 16 * v / 16 = v ∧ 16 * v % 16 = 0 := by omega
  have h8 : (16 * v + 8) / 16 = v ∧ (16 * v + 8) % 16 = 8 := by omega
  constructor
  · rw [msixRead, if_pos (by omega), h0.1, h0.2, he]; rfl
  · rw [msixRead, if_pos (by omega), h8.1, h8.2, he]; rfl

theorem msixRead_pending : (msixRead s (0x1000 + 8 * (v / 64))).testBit (v % 64) = s.msixPend.contains v := by
  have hv64 : 64 * (v / 64) + v % 64 = v := by omega
  have hlt : v % 64 < 64 := by omega
  have hdiv : 8 * (v / 64) / 8 = v / 64 := by omega
  rw [msixRead, if_neg (by omega), if_pos (by omega), Nat.add_sub_cancel_left, hdiv, (sum_powers _ 64).2, decide_eq_true hlt, Bool.true_and, hv64]

end

theorem putMsix_msix (s : State) (o : Nat) (val : W64) : (putMsix s o val).msix =
    s.msix.set (o / 16) (if o % 16 = 8 then ((s.msix.getD (o / 16) (0, 0)).1, val) else (val, (s.msix.getD (o / 16) (0, 0)).2)) := by
  unfold putMsix
  dsimp only
  generalize (if o % 16 = 8 then _ else _ : W64 × W64) = e
  split <;> rfl

section
variable {s : State} {v : Nat} {val : W64}

/-- A message that waits is sent with the write that unmasks its entry (17 R405, R408). -/
theorem putMsix_sends (hp : s.msixPend.contains v = true) (hm : val.getLsbD 32 = false) :
    (putMsix s (16 * v + 8) val).out = s.out ++ [.msi v] ∧ v ∉ (putMsix s (16 * v + 8) val).msixPend := by
  have hdiv : (16 * v + 8) / 16 = v := by omega
  have hmod : (16 * v + 8) % 16 = 8 := by omega
  unfold putMsix
  dsimp only
  rw [hdiv, hmod, if_pos rfl, if_pos (by rw [hp, hm]; rfl)]
  exact ⟨rfl, by simp⟩

theorem putMsix_keeps (h : s.msixPend.contains v = false ∨ val.getLsbD 32 = true) :
    (putMsix s (16 * v + 8) val).out = s.out ∧ (putMsix s (16 * v + 8) val).msixPend = s.msixPend := by
  have hdiv : (16 * v + 8) / 16 = v := by omega
  have hmod : (16 * v + 8) % 16 = 8 := by omega
  unfold putMsix
  dsimp only
  rw [hdiv, hmod, if_pos rfl, if_neg]
  · exact ⟨rfl, rfl⟩
  · rw [Bool.and_eq_true, Bool.not_eq_true', not_and]
    exact fun hp hm => h.elim (fun h => Bool.false_ne_true (h.symm.trans hp)) (fun h => Bool.false_ne_true (hm.symm.trans h))
end

theorem registerWrites : Claims.RegisterWrites := by
  refine ⟨?pages, ?device, ?table⟩
  case pages =>
    intro s ctx c val hctx hc page at_
    have hat : ∀ r f v, r < 0x20000 → pageWrite s ctx r val = onCtx s ctx f → pageRead (f c) r = v → at_ r f v := fun r f v hr hw hv =>
      ⟨(exec_registerWrite_page hctx hr val s).trans (by rw [hw]), (barRead_page hctx hr hc).trans hv⟩
    have h48 : bits val.toNat 0 48 = val.toNat % 2 ^ 48 := by rw [bits, Nat.pow_zero, Nat.div_one]
    refine ⟨hat _ _ _ (by decide) rfl rfl, hat _ _ _ (by decide) rfl (BitVec.toNat_setWidth ..), ?_, fun hcode => ?_, fun r hr hreg => ?_⟩
    · exact hat _ _ _ (by decide) (by rw [← h48]; rfl) (Nat.mod_eq_of_lt (by omega))
    · rw [← otherCommand_reports hc (by omega)]
      exact exec_registerWrite_page (r := 0) hctx (by decide) val s
    · rw [exec_registerWrite_page hctx hr, pageWrite_ignored hreg]
  case device =>
    intro s val
    refine ⟨rfl, rfl, rfl, fun hcode => ?_, fun off h0 hreg hbar => exec_registerWrite_ignored h0 hreg hbar val s⟩
    rw [← otherMailbox_reports s hcode]
    rfl
  case table =>
    intro s v a d val hv h
    obtain ⟨ha, hd⟩ := msixRead_entry hv h
    have he : s.msix.getD v (0, 0) = (a, d) := by rw [List.getD_eq_getElem?_getD, h]; rfl
    have h0 : 16 * v / 16 = v ∧ 16 * v % 16 = 0 := by omega
    have h8 : (16 * v + 8) / 16 = v ∧ (16 * v + 8) % 16 = 8 := by omega
    refine ⟨by rw [barRead_bar4, ha], by rw [Nat.add_assoc, barRead_bar4, hd], ?_, ⟨_, exec_registerWrite_bar4 (by omega) (by omega) val s, ?_⟩,
      _, exec_registerWrite_bar4 (o := 16 * v + 8) (by omega) (by omega) val s, ?_, putMsix_sends, putMsix_keeps⟩
    · rw [← msixRead_pending hv, ← barRead_bar4, ← Nat.add_assoc]
    · rw [putMsix_msix, h0.1, h0.2, he]; rfl
    · rw [putMsix_msix, h8.1, h8.2, he]; rfl

/-! ### Writes at a home slice -/

/-- A byte that no cell writes is as it was. -/
theorem memGet_memCells_not_mem {m : Memory} (h : Memory.wf m = true) {cells : List Host.Cell} {a : Nat} (ha : ∀ c ∈ cells, c.1 ≠ a) :
    memGet (memCells m cells) a = memGet m a := by
  induction cells generalizing m with
  | nil => rfl
  | cons c cs ih =>
    obtain ⟨hc, hcs⟩ := List.forall_mem_cons.mp ha
    refine (ih (memSet_wf c.1 c.2 h) hcs).trans ?_
    rw [memGet_memSet h, if_neg (Ne.symm hc)]

/-- A byte that some cell writes, and every cell that does so alike, reads as it was written. -/
theorem memGet_memCells_mem {m : Memory} (h : Memory.wf m = true) {cells : List Host.Cell} {a : Nat} {b : Byte} (hb : (a, b) ∈ cells)
    (ha : ∀ c ∈ cells, c.1 = a → c.2 = b) : memGet (memCells m cells) a = b := by
  induction cells generalizing m with
  | nil => cases hb
  | cons c cs ih =>
    obtain ⟨hc, hcs⟩ := List.forall_mem_cons.mp ha
    have hw := memSet_wf c.1 c.2 h
    by_cases hmem : (a, b) ∈ cs
    · exact ih hw hmem hcs
    · obtain rfl : (a, b) = c := (List.mem_cons.mp hb).resolve_right hmem
      have hno : ∀ x ∈ cs, x.1 ≠ a := fun x hx he => hmem (by rw [← he, ← hcs x hx he]; exact hx)
      refine (memGet_memCells_not_mem hw hno).trans ?_
      rw [memGet_memSet h, if_pos rfl]

/-- Nothing in the way of a write at its home: each byte lies in device memory, in no descriptor of a live queue, in no barrier record, and
is no part of the NEXT of a cell that holds contributions. -/
structure PlainCells (s : State) (cells : List Host.Cell) : Prop where
  queue : ∀ c ∈ cells, inQueueDesc s c.1 = false
  barrier : ∀ c ∈ cells, inBarRec s c.1 = false
  held : ∀ c ∈ cells, ∀ h ∈ s.oredHeld, c.1 < h.pa + 8 ∨ h.pa + 12 ≤ c.1

/-- What a plain write at its home leaves as it was. -/
def besideMem (s : State) : List Group × List Context × List Queue × List GRec × List OHeld := (s.groups, s.contexts, s.queues, s.recs, s.oredHeld)

section
variable {s : State} {cells : List Host.Cell}

theorem PlainCells.sub (h : PlainCells s cells) (p : Host.Cell → Bool) : PlainCells s (cells.filter p) :=
  ⟨fun c hc => h.queue c (List.mem_of_mem_filter hc), fun c hc => h.barrier c (List.mem_of_mem_filter hc),
    fun c hc => h.held c (List.mem_of_mem_filter hc)⟩

theorem PlainCells.of_beside {t : State} (h : PlainCells s cells) (ht : besideMem t = besideMem s) : PlainCells t cells := by
  obtain ⟨-, -, hq, hr, ho⟩ : t.groups = s.groups ∧ t.contexts = s.contexts ∧ t.queues = s.queues ∧ t.recs = s.recs ∧ t.oredHeld = s.oredHeld := by
    simpa [besideMem] using ht
  refine ⟨fun c hc => ?_, fun c hc => ?_, ho ▸ h.held⟩
  · rw [inQueueDesc, hq]; exact h.queue c hc
  · rw [inBarRec, hr]; exact h.barrier c hc

theorem landBytes_plain (h : PlainCells s cells) (o : Origin) (hc : Bool) :
    (landBytes s o hc cells).mem = memCells s.mem cells ∧ besideMem (landBytes s o hc cells) = besideMem s := by
  have hq : cells.any (fun c => inQueueDesc s c.1) = false := by rw [List.any_eq_false]; simpa using h.queue
  have hr : cells.any (fun c => inBarRec s c.1) = false := by rw [List.any_eq_false]; simpa using h.barrier
  have hall : cells.filter (fun c => !inQueueDesc s c.1 && !inBarRec s c.1) = cells :=
    List.filter_eq_self.mpr fun c hc => by rw [h.queue c hc, h.barrier c hc]; rfl
  unfold landBytes
  dsimp only
  rw [hq, hr, hall, if_neg Bool.false_ne_true, if_neg Bool.false_ne_true]
  exact ⟨rfl, rfl⟩

theorem homeWrite_plain (h : PlainCells s cells) (o : Origin) (hc : Bool) :
    (homeWrite s o hc cells).mem = memCells s.mem cells ∧ besideMem (homeWrite s o hc cells) = besideMem s := by
  have hcells : cellsStored s cells = [] := by
    rw [cellsStored, List.filter_eq_nil_iff]
    intro pa hpa
    obtain ⟨x, hx, rfl⟩ := List.mem_map.mp (List.mem_eraseDups.mp hpa)
    rw [Bool.not_eq_true, List.any_eq_false]
    intro c hc
    have := h.held c hc x hx
    simp
    omega
  rw [homeWrite, hcells]
  exact landBytes_plain h o hc
end

/-! ### The slow window -/

theorem hostUnit_plain {s : State} {cells : List Host.Cell} (h : PlainCells s cells) (hpa : ∀ c ∈ cells, c.1 < paLimit) :
    (hostUnit s cells).mem = memCells s.mem cells ∧ besideMem (hostUnit s cells) = besideMem s := by
  have hall : cells.filter (fun c => decide (c.1 < paLimit)) = cells := List.filter_eq_self.mpr fun c hc => decide_eq_true (hpa c hc)
  rw [hostUnit, hall]
  cases cells with
  | nil => exact ⟨rfl, rfl⟩
  | cons c cs => exact homeWrite_plain (s := drainLine s (c.1 / 512)) (h.of_beside rfl) _ _

/-- The units of 8 bytes of a write of the host are written one after another (17 R407): together they write every cell. -/
theorem hostUnits_plain {s : State} {cells : List Host.Cell} (hs : Memory.wf s.mem = true) (h : PlainCells s cells)
    (hpa : ∀ c ∈ cells, c.1 < paLimit) (hone : ∀ c ∈ cells, ∀ d ∈ cells, c.1 = d.1 → c = d) (u n : Nat) :
    let t := (List.range n).foldl (fun s i => hostUnit s (cells.filter (fun c => decide (c.1 / 8 = u + i)))) s
    Memory.wf t.mem = true ∧ besideMem t = besideMem s ∧
      (∀ c ∈ cells, u ≤ c.1 / 8 → c.1 / 8 < u + n → memGet t.mem c.1 = c.2) ∧
      ∀ a, (∀ c ∈ cells, c.1 ≠ a) → memGet t.mem a = memGet s.mem a := by
  induction n with
  | zero => exact ⟨hs, rfl, fun c _ h1 h2 => by omega, fun a _ => rfl⟩
  | succ n ih =>
    obtain ⟨hw, hb, hin, hout⟩ := ih
    rw [List.range_succ, List.foldl_append, List.foldl_cons, List.foldl_nil]
    generalize (List.range n).foldl (fun s i => hostUnit s (cells.filter (fun c => decide (c.1 / 8 = u + i)))) s = t at *
    have hmem : ∀ c, c ∈ cells.filter (fun c => decide (c.1 / 8 = u + n)) ↔ c ∈ cells ∧ c.1 / 8 = u + n := fun c => by simp
    obtain ⟨hm, hb'⟩ := hostUnit_plain ((h.sub (fun c => decide (c.1 / 8 = u + n))).of_beside hb) (fun c hc => hpa c ((hmem c).mp hc).1)
    refine ⟨hm ▸ memCells_wf _ hw, hb'.trans hb, fun c hc h1 h2 => ?_, fun a ha => ?_⟩
    · rw [hm]
      by_cases hn : c.1 / 8 = u + n
      · exact memGet_memCells_mem hw ((hmem c).mpr ⟨hc, hn⟩) fun d hd he => by rw [hone d ((hmem d).mp hd).1 c hc he]
      · rw [memGet_memCells_not_mem hw fun d hd he => hn (by rw [← he]; exact ((hmem d).mp hd).2)]
        exact hin c hc h1 (by omega)
    · rw [hm, memGet_memCells_not_mem hw fun d hd => ha d ((hmem d).mp hd).1]
      exact hout a ha

/-- The cells of a write of the host whose bytes are not all enabled (17 R405). -/
def windowCells (pa : Nat) (bytes : List (Option Byte)) : List Host.Cell :=
  bytes.zipIdx.filterMap (fun x => x.1.map (fun b => (pa + x.2, b)))

theorem mem_windowCells {pa : Nat} {bytes : List (Option Byte)} {c : Host.Cell} :
    c ∈ windowCells pa bytes ↔ ∃ j, bytes[j]? = some (some c.2) ∧ c.1 = pa + j := by
  rw [windowCells, List.mem_filterMap]
  constructor
  · rintro ⟨⟨o, j⟩, hx, ho⟩
    obtain ⟨b, rfl, rfl⟩ := Option.map_eq_some_iff.mp ho
    exact ⟨j, List.mem_zipIdx_iff_getElem?.mp hx, rfl⟩
  · rintro ⟨j, hj, ha⟩
    exact ⟨(some c.2, j), List.mem_zipIdx_iff_getElem?.mpr hj, by rw [Option.map_some, ← ha]⟩

theorem slowWindow : Claims.SlowWindow := by
  refine ⟨?write, ?read, fun s tag => rfl⟩
  case read =>
    intro s off len hlen hoff pa
    have hok : ¬ (2 ^ 34 < off + len ∨ 512 < len) := by omega
    have hx : exec (.hostSlowRead off len) s = execHostSlowRead off len s := rfl
    refine ⟨fun h => ?_, fun h0 hlim => ?_⟩
    · rw [hx, execHostSlowRead, if_neg hok]
      exact if_neg (by omega)
    · rw [hx, execHostSlowRead, if_neg hok]
      exact if_pos ⟨h0, hlim⟩
  case write =>
    intro s off bytes hs hlen hoff hlim hplain hheld
    have hok : ¬ (2 ^ 34 < off + bytes.length ∨ 256 < bytes.length) := by omega
    let pa := s.swbase + off
    have hlt : ∀ {j : Nat} {b : Option Byte}, bytes[j]? = some b → j < bytes.length := fun h => (List.getElem?_eq_some_iff.mp h).1
    have hp : PlainCells s (windowCells pa bytes) := by
      refine ⟨fun c hc => ?_, fun c hc => ?_, fun c hc h hh => ?_⟩ <;> obtain ⟨j, hj, ha⟩ := mem_windowCells.mp hc <;> have := hlt hj
      · rw [ha]; exact (hplain j this).1
      · rw [ha]; exact (hplain j this).2
      · have := hheld h hh; omega
    have hone : ∀ c ∈ windowCells pa bytes, ∀ d ∈ windowCells pa bytes, c.1 = d.1 → c = d := fun c hc d hd he => by
      obtain ⟨i, hi, hc1⟩ := mem_windowCells.mp hc
      obtain ⟨j, hj, hd1⟩ := mem_windowCells.mp hd
      obtain rfl : i = j := by omega
      exact Prod.ext he (Option.some.inj (Option.some.inj (hi.symm.trans hj)))
    have hpa : ∀ c ∈ windowCells pa bytes, c.1 < paLimit := fun c hc => by
      obtain ⟨j, hj, ha⟩ := mem_windowCells.mp hc
      have := hlt hj
      omega
    obtain ⟨-, hb, hin, hout⟩ := hostUnits_plain (mem_wf hs) hp hpa hone (pa / 8) (bytes.length / 8 + 2)
    refine ⟨_, if_neg hok, congrArg (fun p => p.1) hb, congrArg (fun p => p.2.1) hb, fun a => ?_⟩
    by_cases ha : a < s.swbase + off
    · rw [if_pos ha]
      exact hout a fun c hc he => by obtain ⟨j, -, hj⟩ := mem_windowCells.mp hc; omega
    · rw [if_neg ha]
      cases hb : (bytes[a - (s.swbase + off)]?).join with
      | none =>
        refine hout a fun c hc he => ?_
        obtain ⟨j, hj, hcj⟩ := mem_windowCells.mp hc
        rw [show a - (s.swbase + off) = j by omega, hj] at hb
        cases hb
      | some b =>
        have hbyte : bytes[a - (s.swbase + off)]? = some (some b) := Option.join_eq_some_iff.mp hb
        have := hlt hbyte
        exact hin (a, b) (mem_windowCells.mpr ⟨_, hbyte, by omega⟩) (by omega) (by omega)

/-- Settles O52: a write to a register is worked out from its offset, and one of the slow window from its units, each of which writes its
own cells at the home. -/
theorem hostPort : Obligations.HostPort := ⟨registerWrites, slowWindow⟩

end Sys2Proof.Proofs

namespace Sys2Proof.Proofs
open Sys2Proof.Machine Sys2Proof.Laws Sys2Proof.Claims

/-! ## Groups come and go (O48) -/

/-! ### Frames and slots -/

theorem alignUp_mod (n a : Nat) : alignUp n a % a = 0 := Nat.mul_mod_left _ a

theorem le_alignUp {n a : Nat} (ha : 0 < a) : n ≤ alignUp n a := by
  have := Nat.div_add_mod (n + a - 1) a
  have := Nat.mod_lt (n + a - 1) ha
  rw [alignUp, Nat.mul_comm]
  omega

theorem onCtx_onCtx (s : State) (ctx : Nat) (f f' : Context → Context) : onCtx (onCtx s ctx f) ctx f' = onCtx s ctx (f' ∘ f) := by
  unfold onCtx
  rw [List.modify_modify_eq]

theorem getElem?_onCtx {s : State} {ctx : Nat} {c : Context} (h : s.contexts[ctx]? = some c) (f : Context → Context) :
    (onCtx s ctx f).contexts[ctx]? = some (f c) := by
  rw [onCtx_contexts, List.getElem?_modify_eq, h]
  rfl

theorem ctxRec_of_getElem? {s : State} {ctx : Nat} {c : Context} (h : s.contexts[ctx]? = some c) : ctxRec s ctx = c.recd := by
  rw [ctxRec, h]
  rfl

section
variable {s s1 : State} {ctx align size a : Nat} {c : Context} {r : CRec} (hc : s.contexts[ctx]? = some c) (hr : c.recd = some r)
include hc hr

/-- A part of the backing area is aligned, lies in what groups may use and meets no other (04 R84, R85). -/
theorem allocAt_place (ha : 0 < align) (hlo : ∀ x ∈ c.alloc, (backing r).1 ≤ x.1) (h : allocAt s ctx align size = some a) :
    a % align = 0 ∧ (backing r).1 ≤ a ∧ a + size ≤ (backing r).2 ∧ ∀ x ∈ c.alloc, x.1 + x.2 ≤ a ∨ a + size ≤ x.1 := by
  rw [allocAt, ctxRec_of_getElem? hc, hc, hr] at h
  obtain ⟨hmem, hfits⟩ := List.mem_filter.mp (List.min?_mem h)
  obtain ⟨n, hn, rfl⟩ := List.mem_map.mp hmem
  obtain ⟨hhi, hall⟩ := Bool.and_eq_true_iff.mp hfits
  refine ⟨alignUp_mod n align, Nat.le_trans ?_ (le_alignUp ha), of_decide_eq_true hhi, fun x hx => ?_⟩
  · rcases List.mem_cons.mp hn with rfl | hn
    · exact Nat.le_refl _
    · obtain ⟨x, hx, rfl⟩ := List.mem_map.mp hn
      exact Nat.le_trans (hlo x hx) (Nat.le_add_right ..)
  · simpa using List.all_eq_true.mp hall x hx

theorem takeSlot_slot {n : Nat} (h : takeSlot s ctx = some (n, s1)) :
    n + 1 < r.nslot ∧ n ∉ c.slots ∧ s1 = onCtx s ctx (fun c => { c with slots := n :: c.slots }) := by
  rw [takeSlot, ctxRec_of_getElem? hc, hc, hr] at h
  dsimp only at h
  split at h
  · rename_i m hm
    cases h
    have hlt := List.mem_range.mp (List.mem_of_find?_eq_some hm)
    exact ⟨by omega, by simpa using List.find?_some hm, rfl⟩
  · cases h
end

theorem framesAndSlots : Claims.FramesAndSlots := by
  intro s ctx width nregs frame slot s1 c r hc hr hw hlo h
  have hsize : frameSize width nregs = (nregs + 64) * 4 * width := rfl
  rw [reserve, takeArea] at h
  cases ha : allocAt s ctx (4 * width) (frameSize width nregs) with
  | none => rw [ha] at h; cases h
  | some a =>
    rw [ha] at h
    obtain ⟨⟨n, s2⟩, hslot, he⟩ := Option.map_eq_some_iff.mp h
    cases he
    obtain ⟨hmod, hbelow, habove, hapart⟩ := allocAt_place hc hr (by omega) hlo ha
    obtain ⟨hn, hfree, hs⟩ := takeSlot_slot (getElem?_onCtx hc _) hr hslot
    exact ⟨hmod, hbelow, habove, hapart, hn, hfree, hs.trans (onCtx_onCtx ..)⟩

/-! ### What a fault record leaves as it was -/

/-- What neither a fault record nor the failure of a launch changes holds after both. -/
theorem faultRecord_keeps {β : Type} {p : State → β} (hn : ∀ s t, outsideNotes t = outsideNotes s → p t = p s)
    (hf : ∀ s id cause, p (failLaunch s id cause) = p s) (s : State) (o : Origin) (lfail : Bool) (cause sub : Nat) :
    p (faultRecord s o lfail cause sub) = p s := by
  unfold faultRecord
  split
  · rfl
  · refine keeps_ite rfl ?_
    extract_lets _ s1
    have h1 : p s1 = p s := by
      change p (match o.launch with
        | some l => if lfail then failLaunch s l cause else s
        | none => s) = _
      split
      · exact keeps_ite (hf ..) rfl
      · rfl
    split
    · exact h1
    · refine keeps_ite ((hn _ _ (outsideNotes_with s1)).trans h1) ?_
      have h2 : ∀ q bs, p (raiseEvent (appendEntry (lostFirst s1 o.ctx) q bs [] []) o.ctx 2) = p s := fun q bs =>
        (hn _ _ (((outsideNotes_raiseEvent ..).trans (outsideNotes_appendEntry ..)).trans (outsideNotes_lostFirst ..))).trans h1
      exact keeps_ite ((hn _ _ (outsideNotes_notify ..)).trans (h2 _ _)) (h2 _ _)

/-- The machine but for what a fault record changes: what a record that enters a queue changes, and the launches (04 R88, 05 R105). -/
def outsideFaults (s : State) : State := { outsideNotes s with launches := [] }

theorem outsideFaults_of_outsideNotes {s t : State} (h : outsideNotes t = outsideNotes s) : outsideFaults t = outsideFaults s := by
  unfold outsideFaults
  rw [h]

theorem outsideFaults_faultRecord (s : State) (o : Origin) (lfail : Bool) (cause sub : Nat) :
    outsideFaults (faultRecord s o lfail cause sub) = outsideFaults s :=
  faultRecord_keeps (fun _ _ => outsideFaults_of_outsideNotes) (fun _ _ _ => rfl) s o lfail cause sub

/-- The identities of the launches. -/
def launchIds (s : State) : List Nat := s.launches.map (fun l => l.id)

theorem launchIds_faultRecord (s : State) (o : Origin) (lfail : Bool) (cause sub : Nat) :
    launchIds (faultRecord s o lfail cause sub) = launchIds s := by
  refine faultRecord_keeps (fun s t h => ?_) (fun s id cause => ?_) s o lfail cause sub
  · exact congrArg (fun s : State => s.launches.map (fun l => l.id)) h
  · rw [launchIds, failLaunch, onLaunch, List.map_map, launchIds]
    exact List.map_congr_left fun l _ => by rw [Function.comp_apply]; split <;> rfl

section
variable {s t : State} (h : outsideFaults t = outsideFaults s)
include h

theorem groups_of_outsideFaults : t.groups = s.groups := (congrArg (fun s : State => s.groups) h :)
theorem teams_of_outsideFaults : t.teams = s.teams := (congrArg (fun s : State => s.teams) h :)
theorem clusters_of_outsideFaults : t.clusters = s.clusters := (congrArg (fun s : State => s.clusters) h :)
theorem cur_of_outsideFaults : t.cur = s.cur := (congrArg (fun s : State => s.cur) h :)
end

theorem launchOf_isSome_iff (s : State) (id : Nat) : (launchOf s id).isSome = true ↔ id ∈ launchIds s := by
  rw [launchOf, List.find?_isSome, launchIds, List.mem_map]
  simp only [decide_eq_true_eq]

/-! ### Creation -/

/-- A group for which everything is there is created (04 R85, 06 R115). -/
theorem groupCreate_creates {s s1 : State} {gid frame slot : Nat} {g : Group} {tm : Team} {c : Context} (hg : groupOf s gid = some g)
    (hst : g.st = .pending) (htm : teamOf s g.team = some tm) (hres : tm.st = .resident) (hc : s.contexts[tm.ctx]? = some c)
    (hact : c.st = .active) (hsw : switchHolds s g = false) (hlane : laneUsed s (fun _ => false) g.lane < 8) (hdep : depositsDone s g = true)
    (hr : reserve s g.ctx g.width g.nregs = some ((frame, slot), s1)) :
    exec (.groupCreate gid) s =
      .next (if g.after = [] then startGroup s1 g frame slot else l1Clear (startGroup s1 g frame slot) g.core) := by
  have hx : exec (.groupCreate gid) s = execGroupCreate gid s := rfl
  rw [hx, execGroupCreate, hg]
  simp only [onSome, htm, hres, hc, hact, Option.map_some, decide_true, Bool.and_true]
  rw [if_neg, hr]
  rw [hst, hsw, hdep]
  simp
  omega

theorem startGroup_starts {s s2 : State} {g : Group} {frame slot : Nat}
    (h : zeroFrame (setGroup { s with birth := s.birth + 1 }
      { g with frame := BitVec.ofNat 64 frame, slot := slot, birth := s.birth, st := .ready, after := [] })
      g.cluster g.ctx frame (frameSize g.width g.nregs) = some s2) : startGroup s g frame slot = s2 := by
  unfold startGroup
  dsimp only
  rw [show Group.cluster { g with frame := BitVec.ofNat 64 frame, slot := slot, birth := s.birth, st := .ready, after := [] } = g.cluster from rfl, h]

/-! ### Retirement -/

/-- A group's failure that no MWAIT has taken, recorded (10 R262, R274). -/
def recorded (s : State) (g : Group) : State :=
  match g.mwFault with
  | some t => faultRecord s { groupOrigin s g with addr := t.addr, at_ := t.at_ } true t.cause t.sub
  | none => s

theorem outsideFaults_recorded (s : State) (g : Group) : outsideFaults (recorded s g) = outsideFaults s := by
  unfold recorded
  split
  · exact outsideFaults_faultRecord ..
  · rfl

theorem launchIds_recorded (s : State) (g : Group) : launchIds (recorded s g) = launchIds s := by
  unfold recorded
  split
  · exact launchIds_faultRecord ..
  · rfl

/-- The state without a retiring group, its failure recorded. -/
def withoutGroup (s : State) (g : Group) : State :=
  { recorded s g with
    groups := (recorded s g).groups.filter (fun x => decide (x.id ≠ g.id)), cur := if s.cur = some g.id then none else s.cur }

/-- The state after the release of a group that is no activation of the notification handler (06 R115). -/
def released (s : State) (g : Group) : State :=
  onCtx (withoutGroup s g) g.ctx (fun c => { c with
    alloc := c.alloc.filter (fun x => decide (x.1 ≠ g.frame.toNat)), slots := c.slots.filter (fun n => decide (n ≠ g.slot)) })

theorem releaseGroup_eq {s : State} {g : Group} (h : g.hslot = false) : releaseGroup s g = released s g := by
  have hx : releaseGroup s g = if g.hslot then _ else onCtx (dropArea { recorded s g with
      groups := (recorded s g).groups.filter (fun x => decide (x.id ≠ g.id)),
      cur := if (recorded s g).cur = some g.id then none else (recorded s g).cur } g.ctx g.frame.toNat) g.ctx
        (fun c => { c with slots := c.slots.filter (fun n => decide (n ≠ g.slot)) }) := rfl
  rw [hx, h, if_neg Bool.false_ne_true, dropArea, onCtx_onCtx, cur_of_outsideFaults (outsideFaults_recorded s g)]
  rfl

theorem exec_groupRetire {s : State} {gid : Nat} {g : Group} (hg : groupOf s gid = some g) (hst : g.st = .retiring) (hcoal : g.coal = [])
    (hfifo : g.fifo = []) (hll : g.ll = []) (hh : g.hslot = false) : exec (.groupRetire gid) s = .next (lastGroup (released s g) g.team) := by
  have hx : exec (.groupRetire gid) s = execGroupRetire gid s := rfl
  rw [hx, execGroupRetire, hg, ← releaseGroup_eq hh]
  exact if_neg (by simp [hst, hcoal, hfifo, hll])

section
variable {s : State} {g : Group}

theorem groups_released : (released s g).groups = s.groups.filter (fun x => decide (x.id ≠ g.id)) :=
  congrArg (List.filter _) (groups_of_outsideFaults (outsideFaults_recorded s g))

theorem teams_released : (released s g).teams = s.teams :=
  (teams_of_outsideFaults (outsideFaults_recorded s g) :)

theorem clusters_released : (released s g).clusters = s.clusters :=
  (clusters_of_outsideFaults (outsideFaults_recorded s g) :)

theorem teamOf_released (k : Nat) : teamOf (released s g) k = teamOf s k := by rw [teamOf, teams_released, teamOf]

theorem launchIds_released : launchIds (released s g) = launchIds s := launchIds_recorded s g
end

/-- Whether a team has no group. -/
def noGroups (s : State) (team : Nat) : Bool := !s.groups.any (fun g => decide (g.team = team))

theorem noGroups_iff (s : State) (team : Nat) : noGroups s team = true ↔ ∀ g ∈ s.groups, g.team ≠ team := by
  simp [noGroups]

/-- The bins of a team launched on every cluster where it opened some. -/
def binsLaunched (s : State) (team : Nat) : State :=
  ((List.range s.clusters.length).filter (fun c => (clusterAt s c).bins.any (fun b => decide (b.owner = team)))).foldl
    (fun s c => launchBins s c (fun b => decide (b.owner = team))) s

theorem lastGroup_busy {s : State} {team : Nat} (h : noGroups s team = false) : lastGroup s team = s := by
  unfold lastGroup
  dsimp only
  split
  · rfl
  · have hn : (!noGroups s team) = true := by rw [h]; rfl
    exact if_pos (.inr hn)

theorem lastGroup_last {s : State} {team : Nat} {tm : Team} (h : noGroups s team = true) (ht : teamOf s team = some tm) (hst : tm.st = .resident) :
    lastGroup s team = if noGroups (binsLaunched s team) team then drainTeam (binsLaunched s team) tm else binsLaunched s team := by
  unfold lastGroup
  rw [ht]
  have hn : ¬ (!noGroups s team) = true := by rw [h]; decide
  exact if_neg (not_or.mpr ⟨not_not.mpr hst, hn⟩)

/-! ### Draining -/

/-- The groups and the teams. -/
def crew (s : State) : List Group × List Team := (s.groups, s.teams)

theorem crew_of_outsideNotes {s t : State} (h : outsideNotes t = outsideNotes s) : crew t = crew s :=
  (congrArg (fun s : State => (s.groups, s.teams)) h :)

theorem crew_serveQueue (s : State) (pa : Nat) : crew (serveQueue s pa) = crew s :=
  crew_of_outsideNotes ((outsideNotes_closeIfEmpty _ _).trans (outsideNotes_serveGo _ _ _))

theorem crew_abandonClaims (s : State) (t : Team) : crew (abandonClaims s t) = crew s := by
  refine foldl_keeps (fun s q => ?_) s.queues s
  dsimp only
  split
  · rfl
  · have hf : ∀ (o : Origin) (es : List QEntry) s, crew (es.foldl (fun s _ => faultRecord s o false 0x49 0) s) = crew s := fun o =>
      foldl_keeps fun s _ => (congrArg (fun s : State => (s.groups, s.teams)) (outsideFaults_faultRecord s o false 0x49 0) :)
    split
    · exact hf _ _ s
    · exact (crew_serveQueue _ _).trans ((crew_of_outsideNotes (outsideNotes_putQueue ..)).trans (hf _ _ s))

/-- A team that drains keeps the groups and the other teams as they are. -/
theorem crew_drainTeam (s : State) (t : Team) : crew (drainTeam s t) = crew (onTeam s t.id (fun t => { t with st := .draining })) := by
  unfold drainTeam
  refine (foldl_keeps (fun _ _ => ?streams) _ _).trans ((crew_abandonClaims _ t).trans (keeps_ite ?rein ?leave))
  all_goals rfl

/-! ### Bins -/

theorem pc_binGroup (b : Bin) (t : Team) (l : Launch) (id idx : Nat) : (binGroup b t l id idx).pc.toNat = b.entry.toNat % 2 ^ 57 := by
  have : b.entry.toNat % 2 ^ 57 < 2 ^ 64 := by omega
  exact Nat.mod_eq_of_lt this

/-- The launch of a bin frees it, and can only add a group. -/
theorem launchBin_grows (s : State) (c : Nat) (b : Bin) :
    (launchBin s c b).clusters = s.clusters.modify c (fun x => { x with bins := x.bins.filter (fun y => decide (y.num ≠ b.num)) }) ∧
    (launchBin s c b).teams = s.teams ∧ (launchBin s c b).launches = s.launches ∧ s.groups ⊆ (launchBin s c b).groups := by
  unfold launchBin
  dsimp only
  split
  · exact ⟨rfl, rfl, rfl, List.subset_append_left ..⟩
  · exact ⟨rfl, rfl, rfl, List.Subset.refl _⟩

/-- What each launch of bins keeps: the teams, the launches and the groups that are there. -/
def Grows (s t : State) : Prop := t.teams = s.teams ∧ t.launches = s.launches ∧ s.groups ⊆ t.groups

theorem Grows.trans {s t u : State} (h : Grows s t) (h' : Grows t u) : Grows s u :=
  ⟨h'.1.trans h.1, h'.2.1.trans h.2.1, fun _ hg => h'.2.2 (h.2.2 hg)⟩

theorem grows_foldl {α : Type} {f : State → α → State} (hf : ∀ s a, Grows s (f s a)) (xs : List α) (s : State) : Grows s (xs.foldl f s) :=
  List.foldlRecOn (motive := Grows s) xs f ⟨rfl, rfl, List.Subset.refl _⟩ (fun t ht a _ => ht.trans (hf t a))

/-- One step of the launch of a cluster's bins in ascending number (06 R139, R142). -/
def launchNumber (c : Nat) (p : Bin → Bool) (s : State) (n : Nat) : State :=
  match (clusterAt s c).bins.find? (fun b => decide (b.num = n)) with
  | some b => if p b then launchBin s c b else s
  | none => s

theorem launchBins_eq (s : State) (c : Nat) (p : Bin → Bool) : launchBins s c p = (List.range 64).foldl (launchNumber c p) s := rfl

theorem launchNumber_cases (c : Nat) (p : Bin → Bool) (s : State) (n : Nat) :
    launchNumber c p s n = s ∨ ∃ b, b.num = n ∧ launchNumber c p s n = launchBin s c b := by
  unfold launchNumber
  split
  · rename_i b hb
    split
    · exact .inr ⟨b, by simpa using List.find?_some hb, rfl⟩
    · exact .inl rfl
  · exact .inl rfl

theorem launchNumber_grows (c : Nat) (p : Bin → Bool) (s : State) (n : Nat) : Grows s (launchNumber c p s n) := by
  obtain h | ⟨b, -, h⟩ := launchNumber_cases c p s n
  · rw [h]; exact ⟨rfl, rfl, List.Subset.refl _⟩
  · rw [h]; exact (launchBin_grows s c b).2

theorem launchBins_grows (c : Nat) (p : Bin → Bool) (s : State) : Grows s (launchBins s c p) := grows_foldl (launchNumber_grows c p) _ s

/-- A bin of a cluster, the only one of its number, whose launch is there. -/
structure BinStands (s : State) (c : Nat) (b : Bin) (tm : Team) : Prop where
  mem : b ∈ (clusterAt s c).bins
  only : ∀ y ∈ (clusterAt s c).bins, y.num = b.num → y = b
  owner : teamOf s b.owner = some tm
  launch : (launchOf s b.launch).isSome = true

/-- A pending group of a team at the entry of a bin. -/
def HasBinGroup (s : State) (team : Nat) (b : Bin) : Prop :=
  ∃ k ∈ s.groups, k.team = team ∧ k.st = .pending ∧ k.pc.toNat = b.entry.toNat % 2 ^ 57

theorem Grows.hasBinGroup {s t : State} {team : Nat} {b : Bin} (h : Grows s t) (hb : HasBinGroup s team b) : HasBinGroup t team b := by
  obtain ⟨k, hk, hrest⟩ := hb
  exact ⟨k, h.2.2 hk, hrest⟩

section
variable {s : State} {c : Nat} {b : Bin} {tm : Team} (h : BinStands s c b tm)
include h

/-- A bin stands while bins of other clusters or of other numbers are launched. -/
theorem BinStands.after_launchBin {d : Nat} {x : Bin} (hx : d ≠ c ∨ x.num ≠ b.num) : BinStands (launchBin s d x) c b tm := by
  obtain ⟨hcl, hteams, hlaunches, -⟩ := launchBin_grows s d x
  have howner : teamOf (launchBin s d x) b.owner = some tm := by rw [teamOf, hteams]; exact h.owner
  have hlaunch : (launchOf (launchBin s d x) b.launch).isSome = true := by rw [launchOf, hlaunches]; exact h.launch
  have hcat : clusterAt (launchBin s d x) c =
      clusterAt (onCluster s d (fun x' => { x' with bins := x'.bins.filter (fun y => decide (y.num ≠ x.num)) })) c := by
    rw [clusterAt, hcl, clusterAt, onCluster_clusters]
  by_cases hd : d = c
  · subst hd
    have hlt : d < s.clusters.length := by
      by_contra hge
      have hm := h.mem
      rw [clusterAt, List.getElem?_eq_none (Nat.le_of_not_lt hge)] at hm
      cases hm
    rw [clusterAt_onCluster hlt] at hcat
    refine ⟨?_, fun y hy hn => ?_, howner, hlaunch⟩
    · rw [hcat]
      exact List.mem_filter.mpr ⟨h.mem, by simpa using (hx.resolve_left (by simp)).symm⟩
    · rw [hcat] at hy
      exact h.only y (List.mem_of_mem_filter hy) hn
  · rw [clusterAt_onCluster_ne hd] at hcat
    exact ⟨hcat ▸ h.mem, hcat ▸ h.only, howner, hlaunch⟩

theorem BinStands.after_launchNumber {d : Nat} {p : Bin → Bool} {n : Nat} (hx : d ≠ c ∨ n ≠ b.num) : BinStands (launchNumber d p s n) c b tm := by
  obtain he | ⟨x, rfl, he⟩ := launchNumber_cases d p s n
  · rwa [he]
  · rw [he]; exact h.after_launchBin hx

/-- A launched bin is a PENDING group of its owner at the bin's entry. -/
theorem BinStands.launched {p : Bin → Bool} (hp : p b = true) : HasBinGroup (launchNumber c p s b.num) tm.id b := by
  have hfind : (clusterAt s c).bins.find? (fun x => decide (x.num = b.num)) = some b := by
    cases hf : (clusterAt s c).bins.find? (fun x => decide (x.num = b.num)) with
    | none => exact absurd (List.find?_eq_none.mp hf b h.mem) (by simp)
    | some y => rw [h.only y (List.mem_of_find?_eq_some hf) (by simpa using List.find?_some hf)]
  obtain ⟨l, hl⟩ := Option.isSome_iff_exists.mp h.launch
  have hteam : teamOf (onCluster s c (fun x => { x with bins := x.bins.filter (fun y => decide (y.num ≠ b.num)) })) b.owner = some tm := h.owner
  have hlaunch : launchOf (onCluster s c (fun x => { x with bins := x.bins.filter (fun y => decide (y.num ≠ b.num)) })) b.launch = some l := hl
  rw [launchNumber, hfind]
  dsimp only
  rw [if_pos hp, launchBin]
  dsimp only
  rw [hteam, hlaunch]
  exact ⟨_, List.mem_append_right _ (List.mem_singleton_self _), rfl, rfl, pc_binGroup ..⟩

theorem BinStands.launchBins_other {d : Nat} {p : Bin → Bool} (hd : d ≠ c) : BinStands (launchBins s d p) c b tm :=
  List.foldlRecOn (motive := fun t => BinStands t c b tm) _ _ h (fun _ ht _ _ => ht.after_launchNumber (.inl hd))

theorem BinStands.launchBins_launched {p : Bin → Bool} (hp : p b = true) (hnum : b.num < 64) : HasBinGroup (launchBins s c p) tm.id b := by
  obtain ⟨before, after, hsplit, hnot⟩ := List.eq_append_cons_of_mem (List.mem_range.mpr hnum)
  rw [launchBins_eq, hsplit, List.foldl_append, List.foldl_cons]
  have hstands : BinStands (before.foldl (launchNumber c p) s) c b tm :=
    List.foldlRecOn (motive := fun t => BinStands t c b tm) _ _ h
      (fun _ ht n hn => ht.after_launchNumber (.inr fun e => hnot (e ▸ hn)))
  exact (grows_foldl (launchNumber_grows c p) _ _).hasBinGroup (hstands.launched hp)
end

theorem binsLaunched_grows (s : State) (team : Nat) : Grows s (binsLaunched s team) := grows_foldl (fun s c => launchBins_grows c _ s) _ s

/-- The bins of a team are launched on whatever cluster they stand (06 R132, R139). -/
theorem binsLaunched_launched {s : State} {c : Nat} {b : Bin} {tm : Team} (h : BinStands s c b tm) (hc : c < s.clusters.length)
    (hnum : b.num < 64) : HasBinGroup (binsLaunched s b.owner) tm.id b := by
  have hp : (fun x : Bin => decide (x.owner = b.owner)) b = true := decide_eq_true rfl
  have hmem : c ∈ (List.range s.clusters.length).filter (fun c => (clusterAt s c).bins.any (fun x => decide (x.owner = b.owner))) :=
    List.mem_filter.mpr ⟨List.mem_range.mpr hc, List.any_eq_true.mpr ⟨b, h.mem, hp⟩⟩
  obtain ⟨before, after, hsplit, hnot⟩ := List.eq_append_cons_of_mem hmem
  rw [binsLaunched, hsplit, List.foldl_append, List.foldl_cons]
  have hstands : BinStands (before.foldl (fun s c => launchBins s c (fun x => decide (x.owner = b.owner))) s) c b tm :=
    List.foldlRecOn (motive := fun t => BinStands t c b tm) _ _ h (fun _ ht d hd => ht.launchBins_other (fun e => hnot (e ▸ hd)))
  exact (grows_foldl (fun s c => launchBins_grows c _ s) _ _).hasBinGroup (hstands.launchBins_launched hp hnum)

/-- Where a team has no bins, none are launched. -/
theorem binsLaunched_none {s : State} {team : Nat} (h : ∀ c ∈ s.clusters, ∀ b ∈ c.bins, b.owner ≠ team) : binsLaunched s team = s := by
  have hnil : (List.range s.clusters.length).filter (fun c => (clusterAt s c).bins.any (fun b => decide (b.owner = team))) = [] := by
    rw [List.filter_eq_nil_iff]
    intro c hc
    have hlt := List.mem_range.mp hc
    rw [clusterAt_of_getElem? (List.getElem?_eq_getElem hlt), Bool.not_eq_true, List.any_eq_false]
    exact fun b hb => by simpa using h _ (List.getElem_mem hlt) b hb
  rw [binsLaunched, hnil]
  rfl

theorem groupsStartAndEnd : Claims.GroupsStartAndEnd := by
  refine ⟨?create, ?retire, ?last⟩
  case create =>
    intro s gid g tm c frame slot s1 s2 hg hst htm hres hc hact hsw hlane hdep hr g1 hz
    rw [groupCreate_creates hg hst htm hres hc hact hsw hlane hdep hr, startGroup_starts hz]
  case retire =>
    intro s gid g x hg hst hcoal hfifo hll hh hx hxid hxt
    obtain rfl := groupOf_id hg
    rw [exec_groupRetire hg hst hcoal hfifo hll hh, lastGroup_busy]
    · rfl
    · rw [Bool.eq_false_iff]
      exact fun hn => (noGroups_iff ..).mp hn x (groups_released ▸ List.mem_filter.mpr ⟨hx, decide_eq_true hxid⟩) hxt
  case last =>
    intro s gid g tm hg hst hcoal hfifo hll hh hlast htm hres
    obtain rfl := groupOf_id hg
    have hid : tm.id = g.team := by simpa using List.find?_some htm
    have hteam : teamOf (released s g) g.team = some tm := (teamOf_released _).trans htm
    have hnone : noGroups (released s g) g.team = true := (noGroups_iff ..).mpr fun x hx hxt => by
      rw [groups_released] at hx
      obtain ⟨hx, hxid⟩ := List.mem_filter.mp hx
      exact of_decide_eq_true hxid (hlast x hx hxt)
    have hexec := exec_groupRetire hg hst hcoal hfifo hll hh
    rw [lastGroup_last hnone hteam hres] at hexec
    refine ⟨fun hbins => ?_, fun c x b l hc hb howner hnum honly hl => ?_⟩
    · rw [binsLaunched_none (by rw [clusters_released]; exact hbins), hnone, if_pos rfl] at hexec
      have hcrew := crew_drainTeam (released s g) tm
      have hgroups : (drainTeam (released s g) tm).groups = s.groups.filter (fun x => decide (x.id ≠ g.id)) :=
        (congrArg Prod.fst hcrew).trans groups_released
      have hteams : (drainTeam (released s g) tm).teams = (onTeam (released s g) tm.id (fun t => { t with st := .draining })).teams :=
        congrArg Prod.snd hcrew
      refine ⟨_, { tm with st := .draining }, hexec, ?_, ?_, rfl⟩
      · rw [groupOf, hgroups, List.find?_eq_none]
        exact fun x hx => by simpa using (List.mem_filter.mp hx).2
      · rw [teamOf, hteams]
        exact (teamOf_onTeam _ _ _ (fun t => { t with st := .draining }) (fun _ => rfl)).trans (by rw [hteam, Option.map_some, if_pos rfl])
    · have hcl : (clusterAt (released s g) c) = x := clusterAt_of_getElem? (by rw [clusters_released]; exact hc)
      have hstands : BinStands (released s g) c b tm := ⟨hcl ▸ hb, fun y hy hn => honly y (hcl ▸ hy) hn, howner ▸ hteam, by
        rw [launchOf_isSome_iff, launchIds_released, ← launchOf_isSome_iff, hl]; rfl⟩
      have hlen : c < (released s g).clusters.length := by rw [clusters_released]; exact (List.getElem?_eq_some_iff.mp hc).1
      obtain ⟨k, hk, hkt, hkst, hkpc⟩ := howner ▸ binsLaunched_launched hstands hlen hnum
      have hsome : noGroups (binsLaunched (released s g) g.team) g.team = false := by
        rw [Bool.eq_false_iff]
        exact fun hn => (noGroups_iff ..).mp hn k hk (hkt.trans hid)
      rw [hsome, if_neg Bool.false_ne_true] at hexec
      exact ⟨_, tm, hexec, by rw [teamOf, (binsLaunched_grows _ _).1]; exact hteam, hres, k, hk, hkt.trans hid, hkst, hkpc⟩

/-- Settles O48: a place in the backing area is one of the list that the choice is made from; a group that retires leaves a team with
other groups alone, and the last one launches its bins, which grow the team, or drains it. -/
theorem groupsComeAndGo : Obligations.GroupsComeAndGo := ⟨framesAndSlots, groupsStartAndEnd⟩

end Sys2Proof.Proofs

namespace Sys2Proof.Proofs
open Sys2Proof.Machine Sys2Proof.Laws Sys2Proof.Claims

/-! ## The commands of a control page (O45) -/

/-! ### Reports -/

theorem contexts_report {s : State} {ctx : Nat} {c : Context} (h : s.contexts[ctx]? = some c) (cmd result : Nat) :
    (report s ctx cmd result).contexts[ctx]? = some { c with cmd := cmd, result := result } := getElem?_onCtx h _

section
variable {s : State} {ctx cmd : Nat} {c : Context} (h : s.contexts[ctx]? = some c)
include h

/-- A command while another is in progress. -/
theorem command_busy (hb : c.busy = true) (k : Context → State → State) : command_ ctx cmd s k = .next (report s ctx cmd 1) := by
  rw [command_, h]
  exact congrArg _ (if_pos hb)

/-- A command that is taken. -/
theorem command_taken (hb : c.busy = false) (k : Context → State → State) : command_ ctx cmd s k = .next (k c s) := by
  rw [command_, h]
  exact congrArg _ (if_neg (by rw [hb]; exact Bool.false_ne_true))
end

theorem exec_create (ctx : Nat) (s : State) : exec (.create ctx) s = execCreate ctx s := rfl
theorem exec_start (ctx : Nat) (s : State) : exec (.start ctx) s = execStart ctx s := rfl
theorem exec_suspend (ctx : Nat) (s : State) : exec (.suspend ctx) s = execSuspend ctx s := rfl
theorem exec_resume (ctx : Nat) (s : State) : exec (.resume ctx) s = execResume ctx s := rfl
theorem exec_teardown (ctx : Nat) (s : State) : exec (.teardown ctx) s = execTeardown ctx s := rfl
theorem exec_grant (ctx : Nat) (s : State) : exec (.grant ctx) s = execGrant ctx s := rfl

/-- Each command of CCMD reports 1 while another is in progress. -/
theorem exec_command_busy {s : State} {ctx n : Nat} {c : Context} {i : Instr} (h : s.contexts[ctx]? = some c) (hb : c.busy = true)
    (hi : (commandOf ctx)[n]? = some i) : exec i s = .next (report s ctx (n + 1) 1) := by
  match n, hi with
  | 0, rfl => exact (exec_create ctx s).trans (command_busy h hb _)
  | 1, rfl => exact (exec_start ctx s).trans (command_busy h hb _)
  | 2, rfl => exact (exec_suspend ctx s).trans (command_busy h hb _)
  | 3, rfl => exact (exec_resume ctx s).trans (command_busy h hb _)
  | 4, rfl => exact (exec_teardown ctx s).trans (command_busy h hb _)
  | 5, rfl => exact (exec_grant ctx s).trans (command_busy h hb _)

/-! ### The record -/

/-- The record is read where it lies aligned in readable memory. -/
theorem crecWords_eq_some_iff {s : State} {c : Context} {w : Nat → Nat} : crecWords s c = some w ↔ RecordAt s c w := by
  unfold crecWords RecordAt
  dsimp only
  constructor
  · intro h
    split at h
    · cases h
    · rename_i hn
      rw [not_or, not_or] at hn
      obtain ⟨h1, h2, h3⟩ := hn
      exact ⟨not_not.mp h1, Nat.lt_of_not_le h2, fun hp => h3 (List.contains_iff_mem.mpr hp), (Option.some.inj h).symm⟩
  · rintro ⟨h1, h2, h3, rfl⟩
    rw [if_neg]
    rw [not_or, not_or]
    exact ⟨not_not.mpr h1, Nat.not_le.mpr h2, fun hp => h3 (List.contains_iff_mem.mp hp)⟩

theorem crecBad_eq_false_iff (w : Nat → Nat) : crecBad w = false ↔ GoodRecord w := by
  unfold crecBad GoodRecord bits
  simp only [Bool.or_eq_false_iff, Bool.and_eq_false_iff, decide_eq_false_iff_not]
  constructor
  · rintro h
    omega
  · rintro h
    omega

/-- Where no well-formed record can be read, none is found or it is malformed. -/
theorem crecWords_cases {s : State} {c : Context} (h : ∀ w, RecordAt s c w → ¬ GoodRecord w) :
    crecWords s c = none ∨ ∃ w, crecWords s c = some w ∧ crecBad w = true := by
  cases hw : crecWords s c with
  | none => exact .inl rfl
  | some w => exact .inr ⟨w, rfl, Bool.of_not_eq_false fun hb => h w (crecWords_eq_some_iff.mp hw) ((crecBad_eq_false_iff w).mp hb)⟩

section
variable {s t : State} (h : outsideNotes t = outsideNotes s)
include h

theorem groups_of_outsideNotes : t.groups = s.groups := (congrArg (fun s : State => s.groups) h :)
theorem teams_of_outsideNotes : t.teams = s.teams := (congrArg (fun s : State => s.teams) h :)
theorem launches_of_outsideNotes : t.launches = s.launches := (congrArg (fun s : State => s.launches) h :)
end

/-! ### CREATE -/

section
variable {s : State} {ctx : Nat} {c : Context} (h : s.contexts[ctx]? = some c) (hb : c.busy = false)
include h hb

theorem create_wrongMode (hm : s.firm.mode ≠ 1) : exec (.create ctx) s = .next (report s ctx 1 4) := by
  rw [exec_create, execCreate, command_taken h hb, if_pos hm]

theorem create_wrongState (hm : s.firm.mode = 1) (hst : c.st ≠ .free) : exec (.create ctx) s = .next (report s ctx 1 2) := by
  rw [exec_create, execCreate, command_taken h hb, if_neg (not_not.mpr hm), if_pos hst]

variable (hm : s.firm.mode = 1) (hst : c.st = .free)
include hm hst

theorem create_badRecord (hw : ∀ w, RecordAt s c w → ¬ GoodRecord w) : exec (.create ctx) s = .next (report s ctx 1 3) := by
  rw [exec_create, execCreate, command_taken h hb, if_neg (not_not.mpr hm), if_neg (not_not.mpr hst)]
  obtain hw | ⟨w, hw, hbad⟩ := crecWords_cases hw
  · rw [hw]
  · rw [hw]
    exact congrArg _ (if_pos hbad)

variable {w : Nat → Nat} (hw : RecordAt s c w) (hg : GoodRecord w)
include hw hg

theorem create_goodRecord : exec (.create ctx) s = .next (
    if (readCRec w).nqueue < 3 ∨ 65536 * (readCRec w).rsize < frameSize 16 (readCRec w).nregs then report s ctx 1 4
    else match createWith s ctx (readCRec w) with
      | none => report s ctx 1 3
      | some s => report s ctx 1 0) := by
  rw [exec_create, execCreate, command_taken h hb, if_neg (not_not.mpr hm), if_neg (not_not.mpr hst), crecWords_eq_some_iff.mpr hw]
  exact congrArg _ (if_neg (by rw [(crecBad_eq_false_iff w).mpr hg]; exact Bool.false_ne_true))
end

/-! #### Opening the queues of the device -/

theorem contexts_walkNow (s : State) (ctx va : Nat) (acc : Acc) : (walkNow s ctx va acc).1.contexts = s.contexts := by
  unfold walkNow
  split
  · exact keeps_ite (p := fun s : State => s.contexts) rfl rfl
  · rfl

/-- What opening a queue of the device leaves as it was. -/
theorem openSys_keeps {s t : State} {ctx n : Nat} {va : W64} (h : openSys s ctx n va = some t) :
    outsideNotes t = outsideNotes s ∧ t.contexts = s.contexts := by
  have hnotes := outsideNotes_walkNow s ctx (va57 va) .rw
  have hctx := contexts_walkNow s ctx (va57 va) .rw
  unfold openSys at h
  split at h <;> rename_i hw <;> rw [hw] at hnotes hctx
  · cases h
  · split at h
    · cases h
    · obtain ⟨q, -, rfl⟩ := Option.map_eq_some_iff.mp h
      exact ⟨(outsideNotes_putQueue ..).trans hnotes, hctx⟩

/-- A context as CREATE makes it (04 R93). -/
def Context.opened (c : Context) (r : CRec) : Context :=
  { c with
    st := .created, recd := some r, openQ := 3, ctrs := [], alloc := [], slots := [], grantNew := none, lostN := 0, lostF := 0,
    dropHints := 0 }

theorem createWith_keeps {s t : State} {ctx : Nat} {r : CRec} (h : createWith s ctx r = some t) :
    outsideNotes t = outsideNotes s ∧ t.contexts = (onCtx s ctx (fun c => Context.opened c r)).contexts := by
  obtain ⟨s1, h1, h⟩ := Option.bind_eq_some_iff.mp h
  obtain ⟨s2, h2, h3⟩ := Option.bind_eq_some_iff.mp h
  obtain ⟨hn1, hc1⟩ := openSys_keeps h1
  obtain ⟨hn2, hc2⟩ := openSys_keeps h2
  obtain ⟨hn3, hc3⟩ := openSys_keeps h3
  exact ⟨hn3.trans (hn2.trans hn1), hc3.trans (hc2.trans hc1)⟩

theorem create_opens {s : State} {ctx : Nat} {c : Context} (h : s.contexts[ctx]? = some c) (hb : c.busy = false) (hm : s.firm.mode = 1)
    (hst : c.st = .free) {w : Nat → Nat} (hw : RecordAt s c w) (hg : GoodRecord w) (h3 : 3 ≤ (readCRec w).nqueue)
    (hsize : frameSize 16 (readCRec w).nregs ≤ 65536 * (readCRec w).rsize) (hopen : createWith s ctx (readCRec w) ≠ none) :
    Commands (.create ctx) s ctx 1 (fun t c =>
      c.st = .created ∧ c.recd = some (readCRec w) ∧ c.openQ = 3 ∧ c.ctrs = [] ∧ c.alloc = [] ∧ c.slots = [] ∧
      t.groups = s.groups ∧ t.teams = s.teams ∧ t.launches = s.launches) := by
  have hexec := create_goodRecord h hb hm hst hw hg
  rw [if_neg (by omega)] at hexec
  obtain ⟨s1, h1⟩ := Option.ne_none_iff_exists'.mp hopen
  rw [h1] at hexec
  obtain ⟨hnotes, hctx⟩ := createWith_keeps h1
  have hc : s1.contexts[ctx]? = some (Context.opened c (readCRec w)) := hctx ▸ getElem?_onCtx h _
  exact ⟨_, _, hexec, contexts_report hc 1 0, rfl, rfl, rfl, rfl, rfl, rfl, rfl, rfl,
    (groups_of_outsideNotes hnotes), (teams_of_outsideNotes hnotes),
    (launches_of_outsideNotes hnotes)⟩

/-! ### START, SUSPEND, RESUME and GRANT -/

/-- The pending bit of an event that is raised is set, and nothing else of the context changes (04 R94). -/
theorem contexts_raiseEvent {s : State} {ctx bit : Nat} {c : Context} (h : s.contexts[ctx]? = some c) :
    (raiseEvent s ctx bit).contexts[ctx]? = some { c with evpend := c.evpend ||| (1 <<< bit) } := by
  rw [raiseEvent, h]
  refine keeps_ite (p := fun s : State => s.contexts[ctx]?) (getElem?_onCtx h _) ?_
  exact keeps_ite (p := fun s : State => s.contexts[ctx]?) (getElem?_onCtx h _) (getElem?_onCtx h _)

theorem mem_raiseEvent (s : State) (ctx bit : Nat) : (raiseEvent s ctx bit).mem = s.mem := by
  unfold raiseEvent
  split
  · rfl
  · refine keeps_ite (p := fun s : State => s.mem) rfl ?_
    exact keeps_ite (p := fun s : State => s.mem) rfl rfl

section
variable {s : State} {ctx : Nat} {c : Context} (h : s.contexts[ctx]? = some c) (hb : c.busy = false)
include h hb

theorem start_activates (hst : c.st = .created) :
    exec (.start ctx) s = .next (report (onCtx s ctx (fun c => { c with st := .active })) ctx 2 0) := by
  rw [exec_start, execStart, command_taken h hb, if_pos hst]

theorem start_wrongState (hst : c.st ≠ .created) : exec (.start ctx) s = .next (report s ctx 2 2) := by
  rw [exec_start, execStart, command_taken h hb, if_neg hst]

theorem resume_activates (hst : c.st = .suspended) : Commands (.resume ctx) s ctx 4 (fun t c =>
    c.st = .active ∧ c.evpend.getLsbD 4 = true ∧ t.groups = s.groups ∧ t.teams = s.teams ∧ t.mem = s.mem) := by
  have hexec := (exec_resume ctx s).trans (command_taken h hb _)
  rw [hst] at hexec
  have hnotes := outsideNotes_raiseEvent (report (onCtx s ctx (fun c => { c with st := .active })) ctx 4 0) ctx 4
  refine ⟨_, _, hexec, contexts_raiseEvent (contexts_report (getElem?_onCtx h _) 4 0), rfl, rfl, rfl, ?_,
    (groups_of_outsideNotes hnotes), (teams_of_outsideNotes hnotes), mem_raiseEvent ..⟩
  simp

theorem resume_suspending (hst : c.st = .suspending) : exec (.resume ctx) s = .next (report s ctx 4 1) := by
  rw [exec_resume, execResume, command_taken h hb, hst]

theorem resume_wrongState (h1 : c.st ≠ .suspended) (h2 : c.st ≠ .suspending) : exec (.resume ctx) s = .next (report s ctx 4 2) := by
  rw [exec_resume, execResume, command_taken h hb]
  split
  · exact absurd ‹_› h2
  · exact absurd ‹_› h1
  · rfl

theorem grant_grants (hst : c.st = .active) {w : Nat → Nat} (hw : RecordAt s c w) (hg : GoodRecord w) :
    exec (.grant ctx) s = .next (report (onCtx s ctx (fun c => { c with
      recd := c.recd.map (fun x => { x with prio := bits (w 1) 8 3, grant := BitVec.ofNat 64 (w 5) }),
      grantNew := some (BitVec.ofNat 64 (w 5)) })) ctx 6 0) := by
  rw [exec_grant, execGrant, command_taken h hb, if_neg (not_not.mpr hst), crecWords_eq_some_iff.mpr hw]
  exact congrArg _ (if_neg (by rw [(crecBad_eq_false_iff w).mpr hg]; exact Bool.false_ne_true))

theorem grant_badRecord (hst : c.st = .active) (hw : ∀ w, RecordAt s c w → ¬ GoodRecord w) :
    exec (.grant ctx) s = .next (report s ctx 6 3) := by
  rw [exec_grant, execGrant, command_taken h hb, if_neg (not_not.mpr hst)]
  obtain hw | ⟨w, hw, hbad⟩ := crecWords_cases hw
  · rw [hw]
  · rw [hw]
    exact congrArg _ (if_pos hbad)

theorem grant_wrongState (hst : c.st ≠ .active) : exec (.grant ctx) s = .next (report s ctx 6 2) := by
  rw [exec_grant, execGrant, command_taken h hb, if_pos hst]

theorem suspend_wrongState (hst : c.st ≠ .active) : exec (.suspend ctx) s = .next (report s ctx 3 2) := by
  rw [exec_suspend, execSuspend, command_taken h hb, if_pos hst]
end

/-! #### SUSPEND -/

/-- A team requested at a fabric cycle (16 R383). -/
def Team.requested (t : Team) (now : Nat) : Team :=
  if t.st = .resident ∧ t.launch.isSome ∧ t.preq.isNone then { t with preq := some now } else t

theorem Team.requested_same (t : Team) (now : Nat) : (Team.requested t now).id = t.id ∧ (Team.requested t now).ctx = t.ctx ∧
    (Team.requested t now).st = t.st ∧ (Team.requested t now).launch = t.launch := by
  unfold Team.requested
  split <;> exact ⟨rfl, rfl, rfl, rfl⟩

theorem Team.requested_requested (t : Team) (now : Nat) : Team.requested (Team.requested t now) now = Team.requested t now := by
  by_cases h : t.st = .resident ∧ t.launch.isSome ∧ t.preq.isNone
  · have hr : Team.requested t now = { t with preq := some now } := if_pos h
    rw [hr]
    exact if_neg (fun hn => by simpa using hn.2.2)
  · have hr : Team.requested t now = t := if_neg h
    rw [hr, hr]

/-- A team that can be requested is requested afterwards. -/
theorem Team.requested_isSome {t : Team} {now : Nat} (hres : t.st = .resident) (hl : t.launch.isSome = true) :
    (Team.requested t now).preq.isSome = true := by
  unfold Team.requested
  split
  · rfl
  · rename_i hn
    cases hp : t.preq with
    | none => exact absurd ⟨hres, hl, by rw [hp]; rfl⟩ hn
    | some _ => rfl

/-- Requests of teams reach each of them, and nothing else. -/
theorem foldl_requestTeam (ids : List Nat) (s : State) : ids.foldl requestTeam s =
    { s with teams := s.teams.map (fun t => if t.id ∈ ids then Team.requested t s.fcycles else t) } := by
  induction ids generalizing s with
  | nil => simp
  | cons k ids ih =>
    rw [List.foldl_cons, ih]
    refine congrArg (fun ts => ({ s with teams := ts } : State)) ?_
    refine List.map_map.trans (List.map_congr_left fun t _ => ?_)
    change (if (if t.id = k then Team.requested t s.fcycles else t).id ∈ ids then
        Team.requested (if t.id = k then Team.requested t s.fcycles else t) s.fcycles
      else if t.id = k then Team.requested t s.fcycles else t) = _
    by_cases hk : t.id = k
    · rw [if_pos hk, if_pos (List.mem_cons.mpr (.inl hk)), Team.requested_requested, ite_self]
    · simp only [if_neg hk, List.mem_cons, or_iff_right hk]

/-- The state in which SUSPEND has requested the teams of its context (04 R93). -/
def suspending (s : State) (ctx : Nat) : State :=
  report (((s.teams.filter (fun t => decide (t.ctx = ctx))).map (fun t => t.id)).foldl requestTeam
    (onCtx s ctx (fun c => { c with st := .suspending }))) ctx 3 0

/-- Whether no team of a context holds its core, and no activation is live (04 R91, R93). -/
def allSaved (s : State) (ctx : Nat) : Bool :=
  s.teams.all (fun t => decide (t.ctx ≠ ctx) || (t.launch.isSome && decide (t.st ≠ .resident)))

theorem suspendDone_eq {s : State} {ctx : Nat} {c : Context} (h : s.contexts[ctx]? = some c) (hst : c.st = .suspending) :
    suspendDone s ctx = if allSaved s ctx then raiseEvent (onCtx s ctx (fun c => { c with st := .suspended })) ctx 4 else s := by
  rw [suspendDone, h]
  dsimp only
  rw [hst, decide_eq_true rfl, Bool.true_and]
  rfl

section
variable {s : State} {ctx : Nat} {c : Context} (h : s.contexts[ctx]? = some c)
include h

theorem suspending_context : (suspending s ctx).contexts[ctx]? = some { c with st := .suspending, cmd := 3, result := 0 } := by
  rw [suspending, foldl_requestTeam]
  exact contexts_report (getElem?_onCtx h _) 3 0
omit h

theorem suspending_teams : (suspending s ctx).teams = s.teams.map (fun t =>
    if t.id ∈ (s.teams.filter (fun t => decide (t.ctx = ctx))).map (fun t => t.id) then Team.requested t s.fcycles else t) := by
  rw [suspending, foldl_requestTeam]
  rfl

theorem mem_suspending_teams {x : Team} (hx : x ∈ (suspending s ctx).teams) :
    ∃ y ∈ s.teams, x.ctx = y.ctx ∧ (y.ctx = ctx → x = Team.requested y s.fcycles) := by
  rw [suspending_teams] at hx
  obtain ⟨y, hy, rfl⟩ := List.mem_map.mp hx
  obtain ⟨-, hctx, -, -⟩ := Team.requested_same y s.fcycles
  refine ⟨y, hy, ?_, fun hc => if_pos (List.mem_map.mpr ⟨y, List.mem_filter.mpr ⟨hy, decide_eq_true hc⟩, rfl⟩)⟩
  split
  · exact hctx
  · rfl

theorem allSaved_suspending_of_none (hn : ∀ x ∈ s.teams, x.ctx ≠ ctx) : allSaved (suspending s ctx) ctx = true := by
  rw [allSaved, List.all_eq_true]
  intro x hx
  obtain ⟨y, hy, hctx, -⟩ := mem_suspending_teams hx
  rw [decide_eq_true (hctx ▸ hn y hy), Bool.true_or]

theorem allSaved_suspending_of_resident {x : Team} (hx : x ∈ s.teams) (hctx : x.ctx = ctx) (hres : x.st = .resident) :
    allSaved (suspending s ctx) ctx = false := by
  obtain ⟨-, hc, hst, -⟩ := Team.requested_same x s.fcycles
  have hmem : Team.requested x s.fcycles ∈ (suspending s ctx).teams := by
    rw [suspending_teams]
    exact List.mem_map.mpr ⟨x, hx, if_pos (List.mem_map.mpr ⟨x, List.mem_filter.mpr ⟨hx, decide_eq_true hctx⟩, rfl⟩)⟩
  rw [Bool.eq_false_iff]
  intro hall
  have := List.all_eq_true.mp hall _ hmem
  rw [hc, hst, hres, hctx] at this
  simp at this

include h

/-- SUSPEND requests the resident teams of an ACTIVE context, and ends at once where it has none (04 R93). -/
theorem suspend_requests (hb : c.busy = false) (hst : c.st = .active) : Commands (.suspend ctx) s ctx 3 (fun t c =>
    (∀ x ∈ t.teams, x.ctx = ctx → x.st = .resident → x.launch.isSome = true → x.preq.isSome = true) ∧
    t.groups = s.groups ∧ t.mem = s.mem ∧ t.launches = s.launches ∧
    ((∀ x ∈ s.teams, x.ctx ≠ ctx) → c.st = .suspended ∧ c.evpend.getLsbD 4 = true) ∧
    ((∃ x ∈ s.teams, x.ctx = ctx ∧ x.st = .resident) → c.st = .suspending)) := by
  have hc := suspending_context h
  have hexec : exec (.suspend ctx) s = .next (suspendDone (suspending s ctx) ctx) := by
    rw [exec_suspend, execSuspend, command_taken h hb, if_neg (not_not.mpr hst)]
    rfl
  rw [suspendDone_eq hc rfl] at hexec
  have hreq : ∀ x ∈ (suspending s ctx).teams, x.ctx = ctx → x.st = .resident → x.launch.isSome = true → x.preq.isSome = true := by
    intro x hx hxc hres hl
    obtain ⟨y, hy, hctx, hy'⟩ := mem_suspending_teams hx
    obtain rfl := hy' (hctx.symm.trans hxc)
    obtain ⟨-, -, hst', hl'⟩ := Team.requested_same y s.fcycles
    exact Team.requested_isSome (hst' ▸ hres) (hl' ▸ hl)
  have hrest : (suspending s ctx).groups = s.groups ∧ (suspending s ctx).mem = s.mem ∧ (suspending s ctx).launches = s.launches := by
    rw [suspending, foldl_requestTeam]
    exact ⟨rfl, rfl, rfl⟩
  cases hall : allSaved (suspending s ctx) ctx with
  | false =>
    rw [hall, if_neg Bool.false_ne_true] at hexec
    refine ⟨_, _, hexec, hc, rfl, rfl, hreq, hrest.1, hrest.2.1, hrest.2.2, fun hn => ?_, fun _ => rfl⟩
    rw [allSaved_suspending_of_none hn] at hall
    cases hall
  | true =>
    rw [hall, if_pos rfl] at hexec
    have hnotes := outsideNotes_raiseEvent (onCtx (suspending s ctx) ctx (fun c => { c with st := .suspended })) ctx 4
    refine ⟨_, _, hexec, contexts_raiseEvent (getElem?_onCtx hc _), rfl, rfl, ?_,
      (groups_of_outsideNotes hnotes).trans hrest.1, (mem_raiseEvent ..).trans hrest.2.1,
      (launches_of_outsideNotes hnotes).trans hrest.2.2, fun _ => ⟨rfl, by simp⟩, fun ⟨x, hx, hxc, hres⟩ => ?_⟩
    · rw [teams_of_outsideNotes hnotes]
      exact hreq
    · rw [allSaved_suspending_of_resident hx hxc hres] at hall
      cases hall
end

theorem pageCommands : Claims.PageCommands := by
  intro s ctx c h
  refine ⟨fun n i hb hi => exec_command_busy h hb hi, fun hb => ⟨create_wrongMode h hb, fun hm => ⟨create_wrongState h hb hm,
    create_badRecord h hb hm, fun w hst hw hg => ⟨fun hlow => ?_, fun h3 hsize => ⟨fun hn => ?_, create_opens h hb hm hst hw hg h3 hsize⟩⟩⟩,
    start_activates h hb, start_wrongState h hb, suspend_requests h hb, suspend_wrongState h hb, resume_activates h hb,
    resume_suspending h hb, resume_wrongState h hb, fun hst w hw hg => grant_grants h hb hst hw hg, grant_badRecord h hb, grant_wrongState h hb⟩⟩
  · rw [create_goodRecord h hb hm hst hw hg, if_pos hlow]
  · rw [create_goodRecord h hb hm hst hw hg, if_neg (by omega), hn]

/-! ### The doorbell -/

/-- The entries that LDOOR has read at its k-th step: with the state that reading them leaves (04 R87, R94). -/
def rung (s : State) (q : Queue) (n : Nat) : State × List QEntry :=
  (List.range n).foldl (fun (x : State × List QEntry) i =>
    let (s, bs) := launchEntry x.1 q (q.next + i)
    (s, x.2 ++ [⟨q.next + i, bs, [], [], none⟩])) (s, [])

theorem ite_isSome {α β : Type} (o : Option α) (a b : β) : (if o.isSome then b else a) = if o = none then a else b := by
  cases o <;> rfl

theorem launchEntry_eq (s : State) (q : Queue) (k : Nat) :
    (launchEntry s q (q.next + k)).1 = (walkNow s q.ctx (ringVA q k) .rd).1 ∧
      ∀ s' ph, walkNow s q.ctx (ringVA q k) .rd = (s', .ok ph) →
        (launchEntry s q (q.next + k)).2 = if ph.dev = none then memBytes s'.mem ph.pa 64 else [] := by
  have hva : va57 (BitVec.ofNat 64 (q.store + 64 * ((q.next + k) % q.cap))) = ringVA q k := by
    rw [va57, ringVA, BitVec.toNat_ofNat]
    exact Nat.mod_mod_of_dvd _ (by decide)
  unfold launchEntry
  rw [hva]
  split <;> rename_i hw <;> rw [hw]
  · refine ⟨rfl, fun s' ph he => ?_⟩
    cases he
    exact ite_isSome ..
  · exact ⟨rfl, fun s' ph he => by cases he⟩

theorem rung_succ (s : State) (q : Queue) (n : Nat) : rung s q (n + 1) =
    ((launchEntry (rung s q n).1 q (q.next + n)).1,
      (rung s q n).2 ++ [⟨q.next + n, (launchEntry (rung s q n).1 q (q.next + n)).2, [], [], none⟩]) := by
  rw [rung, List.range_succ, List.foldl_append]
  rfl

theorem ringWalked_succ (s : State) (q : Queue) (n : Nat) :
    ringWalked s q (n + 1) = (walkNow (ringWalked s q n) q.ctx (ringVA q n) .rd).1 := by
  rw [ringWalked, List.range_succ, List.foldl_append]
  rfl

/-- The entries read, one after another, each in the state that the ones before it leave. -/
theorem rung_eq (s : State) (q : Queue) (n : Nat) : (rung s q n).1 = ringWalked s q n ∧ (rung s q n).2.length = n ∧
    ∀ k, k < n → (rung s q n).2[k]? = some ⟨q.next + k, (launchEntry (ringWalked s q k) q (q.next + k)).2, [], [], none⟩ := by
  induction n with
  | zero => exact ⟨rfl, rfl, fun k hk => absurd hk (Nat.not_lt_zero k)⟩
  | succ n ih =>
    obtain ⟨hs, hlen, hk⟩ := ih
    rw [rung_succ, hs]
    refine ⟨(launchEntry_eq _ q n).1.trans (ringWalked_succ s q n).symm, by rw [List.length_append, hlen]; rfl, fun k hlt => ?_⟩
    by_cases he : k = n
    · subst he
      rw [List.getElem?_append_right (by omega), hlen, Nat.sub_self]
      rfl
    · rw [List.getElem?_append_left (by omega)]
      exact hk k (by omega)

theorem queues_walkNow (s : State) (ctx va : Nat) (acc : Acc) : (walkNow s ctx va acc).1.queues = s.queues := by
  unfold walkNow
  split
  · exact keeps_ite (p := fun s : State => s.queues) rfl rfl
  · rfl

section
variable (s : State) (q : Queue) (n : Nat)

/-! Walks of the home slice change no context, no group and no queue. -/

theorem contexts_ringWalked : (ringWalked s q n).contexts = s.contexts :=
  foldl_keeps (p := fun s => s.contexts) (fun s k => contexts_walkNow s q.ctx (ringVA q k) .rd) _ s

theorem queues_ringWalked : (ringWalked s q n).queues = s.queues :=
  foldl_keeps (p := fun s => s.queues) (fun s k => queues_walkNow s q.ctx (ringVA q k) .rd) _ s

theorem outsideNotes_ringWalked : outsideNotes (ringWalked s q n) = outsideNotes s :=
  foldl_keeps (fun s k => outsideNotes_walkNow s q.ctx (ringVA q k) .rd) _ s

theorem ringWalked_canon (hs : s.canon = true) : (ringWalked s q n).canon = true :=
  foldl_canon (fun _ _ hs => walkNow_canon hs ..) _ hs
end

/-- An element that replaces those of its key is found where one of them was. -/
theorem find?_map_replaced {α : Type} {p : α → Bool} (key : α → Nat) {x y : α} {xs : List α} (h : xs.find? p = some x) (hy : p y = true)
    (hkey : key y = key x) : (xs.map (fun z => if key z = key y then y else z)).find? p = some y := by
  induction xs with
  | nil => cases h
  | cons z zs ih =>
    rw [List.map_cons]
    by_cases hz : key z = key y
    · rw [if_pos hz, List.find?_cons_of_pos hy]
    · have hno : ¬ p z = true := fun hyes => by
        rw [List.find?_cons_of_pos hyes] at h
        exact hz (Option.some.inj h ▸ hkey.symm)
      rw [List.find?_cons_of_neg hno] at h
      rw [if_neg hz, List.find?_cons_of_neg hno, ih h]

section
variable (s : State) (q : Queue)

theorem contexts_putQueue : (putQueue s q).contexts = s.contexts := rfl

theorem mem_putQueue : (putQueue s q).mem = memPut s.mem (q.pa + 0x20) (liveHdr q) := rfl

theorem length_liveHdr : (liveHdr q).length = 16 := by rw [liveHdr, List.length_append, length_natLE, length_natLE]

/-- A write of the live words of a queue changes no other byte (12 R296). -/
theorem memGet_putQueue (hs : Memory.wf s.mem = true) {a : Nat} (ha : a < q.pa + 0x20 ∨ q.pa + 0x30 ≤ a) :
    memGet (putQueue s q).mem a = memGet s.mem a := by
  rw [mem_putQueue, memGet_memPut hs, length_liveHdr, if_neg (by omega)]
end

theorem sysQueue_putQueue {s : State} {ctx n : Nat} {q q' : Queue} (h : sysQueue s ctx n = some q) (hpa : q'.pa = q.pa) (hctx : q'.ctx = q.ctx)
    (hsys : q'.sys = q.sys) : sysQueue (putQueue s q') ctx n = some q' := by
  refine find?_map_replaced (fun q : Queue => q.pa) h ?_ hpa
  rw [hctx, hsys]
  exact List.find?_some (p := fun q : Queue => decide (q.ctx = ctx) && decide (q.sys = n)) h

/-- The launch queue with the entries that LDOOR has read at its tail. -/
def Queue.rungFor (q : Queue) (s : State) (n : Nat) : Queue := { q with next := q.next + n, ents := q.ents ++ (rung s q n).2 }

theorem ldoor_rings {s : State} {ctx n : Nat} {c : Context} {q : Queue} (h : s.contexts[ctx]? = some c) (hq : sysQueue s ctx 1 = some q)
    (h1 : 1 ≤ n) (h2 : n ≤ 4096) (hcap : q.ents.length + n ≤ q.cap) :
    exec (.ldoor ctx n) s = .next (putQueue (ringWalked s q n) (Queue.rungFor q s n)) := by
  have hx : exec (.ldoor ctx n) s = execLdoor ctx n s := rfl
  rw [hx, execLdoor, h, ← (rung_eq s q n).1]
  dsimp only [onSome]
  rw [hq]
  exact if_neg (by omega)

theorem ldoor_refuses {s : State} {ctx n : Nat} {c : Context} (h : s.contexts[ctx]? = some c)
    (hq : ∀ q, sysQueue s ctx 1 = some q → n = 0 ∨ 4096 < n ∨ q.cap < q.ents.length + n) :
    exec (.ldoor ctx n) s = .next (report s ctx 0 3) := by
  have hx : exec (.ldoor ctx n) s = execLdoor ctx n s := rfl
  rw [hx, execLdoor, h]
  dsimp only [onSome]
  split
  · rfl
  · exact if_pos (hq _ ‹_›)

theorem doorbellAndEvents : Claims.DoorbellAndEvents := by
  refine ⟨fun s ctx n c h => ⟨fun q hq => ⟨fun hn => ldoor_refuses h fun q' hq' => ?_, fun h1 h2 hcap => ?_⟩, fun hq => ldoor_refuses h fun q hq' => ?_⟩,
    fun s ctx ones c h => ?_⟩
  · rw [hq] at hq'
    cases hq'
    exact hn
  · obtain ⟨-, hlen, hents⟩ := rung_eq s q n
    have hq' : sysQueue (ringWalked s q n) ctx 1 = some q := by rw [sysQueue, queues_ringWalked]; exact hq
    have hnotes := (outsideNotes_putQueue (ringWalked s q n) (Queue.rungFor q s n)).trans (outsideNotes_ringWalked s q n)
    refine ⟨_, Queue.rungFor q s n, ldoor_rings h hq h1 h2 hcap, sysQueue_putQueue hq' rfl rfl rfl, rfl,
      by rw [Queue.rungFor, List.length_append, hlen], List.take_left' rfl, fun k hk => ?_, ?_, groups_of_outsideNotes hnotes,
      fun hs a ha => memGet_putQueue _ _ (mem_wf (ringWalked_canon s q n hs)) ha⟩
    · refine ⟨_, by rw [Queue.rungFor, List.getElem?_append_right (Nat.le_add_right ..), Nat.add_sub_cancel_left, hents k hk], rfl, rfl, ?_⟩
      exact (launchEntry_eq (ringWalked s q k) q k).2
    · rw [contexts_putQueue, contexts_ringWalked]
  · rw [hq] at hq'
    cases hq'
  · have hx : exec (.evpendClear ctx ones) s = execEvpendClear ctx ones s := rfl
    rw [hx, execEvpendClear, h]
    rfl

/-- Settles O45: each command is worked out from the state of its context and its record, and the doorbell entry by entry. -/
theorem contextCommands : Obligations.ContextCommands := ⟨pageCommands, doorbellAndEvents⟩

end Sys2Proof.Proofs

namespace Sys2Proof.Proofs
open Sys2Proof.Machine Sys2Proof.Laws Sys2Proof.Claims

/-! ## The pre-emption of groups (O50) -/

/-! ### Requests -/

theorem mem_insertBy {α : Type} {le : α → α → Bool} {x y : α} {xs : List α} : y ∈ insertBy le x xs ↔ y = x ∨ y ∈ xs := by
  induction xs with
  | nil => simp [insertBy]
  | cons z zs ih =>
    rw [insertBy]
    split
    · exact List.mem_cons
    · rw [List.mem_cons, ih, List.mem_cons]
      tauto

theorem mem_sortBy {α : Type} {le : α → α → Bool} {y : α} {xs : List α} : y ∈ sortBy le xs ↔ y ∈ xs := by
  induction xs with
  | nil => exact Iff.rfl
  | cons x xs ih =>
    change y ∈ insertBy le x (sortBy le xs) ↔ _
    rw [mem_insertBy, ih, List.mem_cons]

theorem victims_subset (s : State) (need : Need) (core : Nat) (got ts : List Nat) : victims s need core got ts ⊆ ts := by
  induction ts generalizing got with
  | nil => exact List.Subset.refl _
  | cons t ts ih =>
    rw [victims]
    split
    · exact List.nil_subset _
    · exact List.cons_subset_cons t (ih _)

/-- The teams that the dispatcher requests are of lower priority (16 R383). -/
theorem preemptTeams_lower {s : State} {l : Launch} {k : Nat} (h : k ∈ preemptTeams s l) :
    ∃ x ∈ s.teams, x.id = k ∧ x.launch ≠ none ∧ ctxPrio s x.ctx < ctxPrio s l.ctx := by
  obtain ⟨core, -, hk⟩ := List.mem_flatMap.mp h
  have hlow := mem_sortBy.mp (List.mem_of_mem_filter (victims_subset _ _ _ _ _ hk))
  obtain ⟨x, hx, hid⟩ := List.mem_map.mp hlow
  obtain ⟨hx, hcond⟩ := List.mem_filter.mp hx
  simp only [Bool.and_eq_true, decide_eq_true_eq] at hcond
  obtain ⟨⟨⟨-, hl⟩, hp⟩, -⟩ := hcond
  exact ⟨x, hx, hid, Option.isSome_iff_ne_none.mp hl, hp⟩

theorem mayPlace_of_places {s : State} {launch : Nat} {l : Launch} (h : Places s launch l) : mayPlace s l = true := by
  obtain ⟨-, hst, hnext, c, hc, hact⟩ := h
  simp [mayPlace, hst, hnext, hc, hact]

/-- A team that has waited for 10 µs requests those that it chose (16 R383). -/
theorem preemptWait_requests {s : State} {launch k : Nat} {l : Launch} {x : Team} (h : Places s launch l) (hw : l.waited + 20000 ≤ s.fcycles)
    (hk : k ∈ preemptTeams s l) (hx : teamOf s k = some x) (hp : x.preq = none) (hres : x.st = .resident) :
    ∃ t, exec (.preemptWaitExpire launch) s = .next t ∧ t.groups = s.groups ∧ t.mem = s.mem ∧
      ∀ y ∈ t.teams, y.id = k → y.st = .resident → y.launch ≠ none → y.preq ≠ none := by
  let new := (preemptTeams s l).filter (fun t => ((teamOf s t).map (fun x => x.preq.isNone && decide (x.st = .resident))).getD false)
  have hnew : k ∈ new := List.mem_filter.mpr ⟨hk, by rw [hx, Option.map_some, hp, hres]; rfl⟩
  have hexec : exec (.preemptWaitExpire launch) s = .next (new.foldl requestTeam s) := by
    have hx : exec (.preemptWaitExpire launch) s = execPreemptWaitExpire launch s := rfl
    rw [hx, execPreemptWaitExpire, h.1]
    refine if_neg ?_
    rw [mayPlace_of_places h, decide_eq_false (by omega), decide_eq_false (List.ne_nil_of_mem hnew)]
    decide
  rw [foldl_requestTeam] at hexec
  refine ⟨_, hexec, rfl, rfl, fun y hy hid hst hl => ?_⟩
  obtain ⟨z, hz, rfl⟩ := List.mem_map.mp hy
  obtain ⟨hzid, -, hzst, hzl⟩ := Team.requested_same z s.fcycles
  have hzk : z.id ∈ new := by
    by_contra hno
    rw [if_neg hno] at hid
    exact hno (hid ▸ hnew)
  rw [if_pos hzk] at hst hl ⊢
  exact Option.isSome_iff_ne_none.mp (Team.requested_isSome (hzst ▸ hst) (Option.isSome_iff_ne_none.mpr (hzl ▸ hl)))

/-! ### PTO -/

theorem mayFull_iff (g : Group) : mayFull g = true ↔ NotSaved g := by
  unfold mayFull NotSaved
  simp only [Bool.and_eq_true, decide_eq_true_eq, Bool.not_eq_true', and_assoc]

/-- PTO after its request, the groups of a team that are not saved are to be fully saved (16 R385). -/
theorem ptoExpire_full {s : State} {team t0 : Nat} {tm : Team} {r : CRec} {g : Group} (ht : teamOf s team = some tm) (hp : tm.preq = some t0)
    (hr : ctxRec s tm.ctx = some r) (hpto : t0 + 2000 * (if r.pto = 0 then 200 else r.pto) ≤ s.fcycles) (hg : g ∈ s.groups)
    (hgt : g.team = team) (hns : NotSaved g) : exec (.ptoExpire team) s =
      .next { s with groups := s.groups.map (fun g => if g.team = team && mayFull g then { g with fullSave := true } else g) } := by
  have hx : exec (.ptoExpire team) s = execPtoExpire team s := rfl
  have hcyc : ptoCycles s tm.ctx = 2000 * (if r.pto = 0 then 200 else r.pto) := by rw [ptoCycles, hr]; rfl
  have hany : s.groups.any (fun g => decide (g.team = team) && mayFull g) = true :=
    List.any_eq_true.mpr ⟨g, hg, by rw [decide_eq_true hgt, (mayFull_iff g).mpr hns]; rfl⟩
  rw [hx, execPtoExpire, ht]
  dsimp only [onSome]
  rw [hp]
  dsimp only
  rw [hcyc, hany, if_neg]
  rw [not_or]
  exact ⟨by omega, by decide⟩

/-! ### The save -/

theorem drained_of_quiet {s : State} {g : Group} (h : Quiet s g) : drained s g = true := by
  obtain ⟨hcoal, hfifo, hflight, hll⟩ := h
  have hf : s.flight.any (fun r => decide (r.gid = g.id)) = false := List.any_eq_false.mpr fun r hr => by simpa using hflight r hr
  have hl : loadsBack g = true := List.all_eq_true.mpr fun l hl => by simpa using hll l hl
  rw [drained, decide_eq_true hcoal, decide_eq_true hfifo, hf, hl]
  rfl

theorem standing_id (g : Group) (s : State) : (g.standing s).id = g.id := by
  unfold Group.standing
  split
  · rfl
  · exact group_named_id g s

theorem drainRegs_id (s : State) (g : Group) : (drainRegs s g).id = g.id := (flushWin_id ..).trans (foldl_id (applyLL_id s) _ g)

/-- The state and the group whose slot is written, for a full save and for one at a pre-emption point (16 R384, R385). -/
def savedFrom (s : State) (g : Group) (full : Bool) : State × Group :=
  if full then (s, (drainRegs s g).standing s) else thinRegs s ((drainRegs s g).standing s)

theorem saveGroup_eq (s : State) (g : Group) (full : Bool) : saveGroup s g full =
    (match writeLines (savedFrom s g full).1 (savedFrom s g full).2 (fun _ => true) with
    | none => stopGroup (savedFrom s g full).1 (savedFrom s g full).2 true 0x44 0 (savedFrom s g full).2.frame
    | some s2 =>
      match saveSlot s2 (savedFrom s g full).2 (saveFrame s2 (savedFrom s g full).2 0x29 full) with
      | none => stopGroup s2 (savedFrom s g full).2 true 0x44 0 (BitVec.ofNat 64 (slotVA s2 (savedFrom s g full).2))
      | some s3 => setGroup s3 { (savedFrom s g full).2 with
          st := .saved, saving := false, fullSave := full,
          lines := if full then [] else (savedFrom s g full).2.lines.filter (fun l => lineDead (savedFrom s g full).2 l.reg && !l.dirty) }) := by
  cases full <;> rfl

theorem savedFrom_keeps (s : State) (g : Group) (full : Bool) : (savedFrom s g full).1.groups = s.groups ∧ (savedFrom s g full).2.id = g.id := by
  have hid : ((drainRegs s g).standing s).id = g.id := (standing_id ..).trans (drainRegs_id ..)
  cases full
  · exact ⟨rfl, hid⟩
  · exact ⟨rfl, hid⟩

theorem exec_groupSave {s : State} {gid : Nat} {g : Group} (hg : groupOf s gid = some g)
    (hs : g.saving = true ∨ (g.fullSave = true ∧ g.handler = false)) (hp : g.st ≠ .pending) (hr : g.st ≠ .retiring) (hsv : g.st ≠ .saved)
    (hc : (coreAt s g.core).halted = false) (ht : g.pendTrap = none) (hq : Quiet s g) :
    exec (.groupSave gid) s = .next (saveGroup s g (!g.saving)) := by
  have hx : exec (.groupSave gid) s = execGroupSave gid s := rfl
  have hwant : (g.saving || (g.fullSave && !g.handler)) = true := by
    rcases hs with h | ⟨h, h'⟩
    · rw [h]; rfl
    · rw [h, h', Bool.or_comm]; rfl
  rw [hx, execGroupSave, hg]
  refine if_pos ?_
  rw [maySave, hwant, decide_eq_true hp, decide_eq_true hsv, decide_eq_true hr, hc, ht, drained_of_quiet hq]
  rfl

/-- A group whose lines and slot are written is SAVED; of its lines, a liveness save keeps clean ones that its entry does not name. -/
theorem saveGroup_saves {s s2 s3 : State} {g : Group} (hg : groupOf s g.id = some g) (full : Bool)
    (h2 : writeLines (savedFrom s g full).1 (savedFrom s g full).2 (fun _ => true) = some s2)
    (h3 : saveSlot s2 (savedFrom s g full).2 (saveFrame s2 (savedFrom s g full).2 0x29 full) = some s3) :
    saveGroup s g full = { s3 with groups := (saveGroup s g full).groups } ∧ ∃ g', groupOf (saveGroup s g full) g.id = some g' ∧
      g' = { (savedFrom s g full).2 with st := .saved, saving := false, fullSave := full, lines := g'.lines } ∧
      (full = true → g'.lines = []) ∧ ∀ l ∈ g'.lines, l.dirty = false ∧ lineDead (savedFrom s g full).2 l.reg = true := by
  obtain ⟨hgroups, hid⟩ := savedFrom_keeps s g full
  have hsame : s3.groups = s.groups := (groups_of_agents (agents_saveSlot s2 _ _ s3 h3)).trans
    ((groups_of_agents (agents_writeLines _ _ _ s2 h2)).trans hgroups)
  rw [saveGroup_eq, h2]
  dsimp only
  rw [h3]
  refine ⟨rfl, { (savedFrom s g full).2 with
      st := .saved, saving := false, fullSave := full,
      lines := if full then [] else (savedFrom s g full).2.lines.filter (fun l => lineDead (savedFrom s g full).2 l.reg && !l.dirty) },
    ?_, rfl, fun hf => if_pos hf, fun l hl => ?_⟩
  · rw [← hid]
    refine groupOf_setGroup (g := g) ?_
    rw [groupOf, hsame]
    exact hid.symm ▸ hg
  · change l ∈ (if full = true then [] else _) at hl
    split at hl
    · cases hl
    · simpa [and_comm] using (List.mem_filter.mp hl).2

/-! ### What a liveness save leaves of the registers -/

/-- Elements that are kept or replaced by zero, each at its place. -/
theorem getD_zipIdx_map {α : Type} (xs : List α) (keep : Nat → Bool) (z : α) (i : Nat) :
    (xs.zipIdx.map (fun x => if keep x.2 then x.1 else z)).getD i z = if keep i then xs.getD i z else z := by
  simp only [List.getD_eq_getElem?_getD, List.getElem?_map, List.getElem?_zipIdx, Option.map_map]
  cases xs[i]? with
  | none => exact (ite_self _).symm
  | some x => rw [Nat.zero_add]; rfl

/-- Taking out what a search passes over, and adding such elements at the end, leaves what it finds. -/
theorem find_thinned {α : Type} {xs ys : List α} {p keep : α → Bool} (hkeep : ∀ x, p x = true → keep x = true)
    (hnew : ∀ y ∈ ys, p y = false) : (xs.filter keep ++ ys).find? p = xs.find? p := by
  rw [List.find?_append, List.find?_eq_none.mpr fun y hy => Bool.eq_false_iff.mp (hnew y hy), Option.or_none, List.find?_filter]
  exact congrArg (fun q => xs.find? q) (funext fun x => by cases h : p x <;> simp [h, hkeep])

/-- A line that an entry names is read as before (05 R98, R100). -/
theorem readLine_thinRegs (s : State) (g : Group) {n : Nat} (h : ∃ r ∈ liveRegs g.live, r.1 ≤ n ∧ n < r.1 + r.2) :
    readLine s (thinRegs s g).2 n = readLine s g n := by
  have hlive : lineDead g n = false := by
    obtain ⟨r, hr, h1, h2⟩ := h
    have hany : (liveRegs g.live).any (fun r => decide (r.1 ≤ n) && decide (n < r.1 + r.2)) = true :=
      List.any_eq_true.mpr ⟨r, hr, by rw [decide_eq_true h1, decide_eq_true h2]; rfl⟩
    rw [lineDead, hany, Bool.not_true, Bool.and_false]
  have hlines : (thinRegs s g).2.lines.find? (fun l => decide (l.reg = n)) = g.lines.find? (fun l => decide (l.reg = n)) := by
    refine find_thinned (fun l hl => ?_) fun l hl => ?_
    · obtain rfl := of_decide_eq_true hl
      rw [hlive]; rfl
    · obtain ⟨m, hm, rfl⟩ := List.mem_map.mp hl
      have hdead := (Bool.and_eq_true_iff.mp (List.mem_filter.mp hm).2).1
      refine decide_eq_false fun h => ?_
      obtain rfl : m = n := h
      rw [hlive] at hdead
      cases hdead
  rw [readLine_eq, readLine_eq, cachedLine, cachedLine, hlines]
  rfl

/-- Settles O50: the save of a group is that of its drained registers, which a liveness save first thins of what its entry does not
name. -/
theorem groupsAreSaved : Obligations.GroupsAreSaved := by
  refine ⟨fun s launch l k x h hw hk hx hp hres => preemptWait_requests h hw hk hx hp hres, fun s l k h => preemptTeams_lower h, ?pto, ?save, ?thin⟩
  case pto =>
    intro s team tm t0 r g ht hp hr hpto hg hgt hns
    refine ⟨_, ptoExpire_full ht hp hr hpto hg hgt hns, rfl, List.length_map .., fun i x y hx hy => ?_⟩
    rw [List.getElem?_map, hx, Option.map_some] at hy
    obtain rfl := Option.some.inj hy
    rw [← mayFull_iff]
    refine ⟨fun hteam hfull => ?_, fun hno => if_neg ?_⟩
    · exact if_pos (by rw [decide_eq_true hteam, hfull]; rfl)
    · rw [Bool.and_eq_true, decide_eq_true_eq]
      exact fun h => hno.elim (fun hteam => hteam h.1) (fun hfull => hfull h.2)
  case save =>
    intro s gid g hg hs hp hr hsv hc ht hq
    obtain rfl := groupOf_id hg
    have hexec := exec_groupSave hg hs hp hr hsv hc ht hq
    have hfrom : ((if g.saving then (thinRegs s ((drainRegs s g).standing s)).1 else s),
        (if g.saving then (thinRegs s ((drainRegs s g).standing s)).2 else (drainRegs s g).standing s)) = savedFrom s g (!g.saving) := by
      cases g.saving <;> rfl
    intro g0 g1 s1
    have hs1 : s1 = (savedFrom s g (!g.saving)).1 := congrArg Prod.fst hfrom
    have hg1 : g1 = (savedFrom s g (!g.saving)).2 := congrArg Prod.snd hfrom
    clear_value s1 g1
    subst hs1 hg1
    refine ⟨fun s2 s3 h2 h3 => ?_, fun hno => ?_⟩
    · obtain ⟨ht, g', hg', he, hfull, hlines⟩ := saveGroup_saves hg (!g.saving) h2 h3
      exact ⟨_, g', hexec, ht, hg', he, fun hsv => hfull (by rw [hsv]; rfl), hlines⟩
    · rw [hexec, saveGroup_eq, hno]
  case thin =>
    intro s g g1
    refine ⟨fun i hi hlive => ?_, fun i hi hlive => ?_, fun i hi hlive => ?_, fun i => ?_, fun n hn hlive => readLine_thinRegs s g hlive⟩
    · refine (getD_zipIdx_map g.s (fun i => (liveW g.live 8).testBit (0 + i) || !Config.freeChoice (s.freeCtr + (0 + i))) 0 i).trans (if_pos ?_)
      rw [Nat.zero_add, hlive, Bool.true_or]
    · refine (getD_zipIdx_map g.a (fun i => (liveW g.live 9).testBit (0 + i) || !Config.freeChoice (s.freeCtr + (64 + i))) 0 i).trans (if_pos ?_)
      rw [Nat.zero_add, hlive, Bool.true_or]
    · refine (getD_zipIdx_map g.p (fun i => (liveW g.live 9).testBit (32 + i) || !Config.freeChoice (s.freeCtr + (96 + i))) 0 i).trans (if_pos ?_)
      rw [hlive, Bool.true_or]
    · rw [show g1.s.getD i 0 = _ from
        getD_zipIdx_map g.s (fun i => (liveW g.live 8).testBit (0 + i) || !Config.freeChoice (s.freeCtr + (0 + i))) 0 i]
      split
      · exact .inl rfl
      · exact .inr rfl

end Sys2Proof.Proofs

namespace Sys2Proof.Proofs
open Sys2Proof.Machine Sys2Proof.Laws Sys2Proof.Claims

/-! ## The end of a context (O46) -/

theorem unreadEntry_of_entriesRead {s : State} {ctx : Nat} (h : EntriesRead s ctx) : unreadEntry s ctx = none := by
  rw [unreadEntry]
  cases hq : sysQueue s ctx 1 with
  | none => rfl
  | some q =>
    rw [Option.bind_some, List.find?_eq_none.mpr fun e he => by simpa using h q hq e he]
    rfl

/-- A teardown whose work has drained sweeps what is left and releases the context (04 R95). -/
theorem teardownComplete_releases {s : State} {ctx : Nat} {c : Context} (hc : s.contexts[ctx]? = some c) (hst : c.st = .tearing)
    (hw : ctxWork s ctx = false) (he : EntriesRead s ctx) : exec (.teardownComplete ctx) s = .next (releaseCtx (sweepCtx s ctx) ctx) := by
  have hx : exec (.teardownComplete ctx) s = execTeardownComplete ctx s := rfl
  rw [hx, execTeardownComplete, hc, onSome]
  rw [if_neg (by rw [hst, hw]; decide), unreadEntry_of_entriesRead he]

/-! ### Two queues at one address -/

/-- An entry of a launch queue whose launch record lies in a page of device 5. -/
def farEntry : QEntry := ⟨2, natLE 8 0x20390000 ++ List.replicate 56 0, [], [], none⟩

/-- An ACTIVE barrier record of context 0 (13 R320). -/
def markingRec : GRec := ⟨0x3C0000, 0, 0, 2, 1, 1, 5, 0, 0, 0, 0, 0, [], [], [], [], [], none, []⟩

/-- A launch queue of context 0 that holds no entry. -/
def emptyLaunchQueue : Queue := ⟨0x380000, 0, 1, 0x390000, 8, false, false, 0, 0, 0xFFFFFF, 1, false, [], 3, []⟩

/-- A second one at the same address, marked by that record, with one entry. -/
def markedTwin : Queue := { emptyLaunchQueue with marked := true, hood := [0x3C0000, 2], ents := [farEntry] }

/-- Context 0 in teardown, nothing of it under way, with a link to device 5, where its second 512 MiB of addresses lie, and with two
launch queues at one address. -/
def twinQueues : State :=
  let s := placeWord State.reset 0
  { s with
    mem := memPut s.mem 0x30008 (natLE 8 0x058000000000007F), fid := 1,
    links := s.links.set 0 { Link.down with st := 2, lanes := 8, peer := 5 },
    contexts := s.contexts.set 0 { Context.empty with st := .tearing, busy := true, recd := some soloCtx, openQ := 3 },
    launches := [], teams := [], groups := [], queues := [emptyLaunchQueue, markedTwin], recs := [markingRec] }

theorem sysQueue_twinQueues : sysQueue twinQueues 0 1 = some emptyLaunchQueue := by decide

/-- The discarded record takes its mark from the second queue, which by its address replaces the first: the STATUS of its entry is
then sent to device 5. -/
theorem remotes_of_twinQueues : ∃ r ∈ (releaseCtx (sweepCtx twinQueues 0) 0).remotes, r.ctx = 0 := by
  decide

/-- Refutes O46: the statement is about every state, also one in which two queues have one address, though `openSys` opens no queue where
another stands. Where a second launch queue of the context stands at the address of an empty one, and is marked by a record of the
context, the sweep puts it in the place of the empty one, and then sends the STATUS of its entry. -/
theorem not_contextsEnd : ¬ Obligations.ContextsEnd := by
  intro h
  have hempty : ∀ q, sysQueue twinQueues 0 1 = some q → q.ents = [] := fun q hq => by
    obtain rfl := Option.some.inj (sysQueue_twinQueues.symm.trans hq)
    rfl
  have hread : EntriesRead twinQueues 0 := fun q hq e he => by
    rw [hempty q hq] at he
    cases he
  have hctx : twinQueues.contexts[0]? = some { Context.empty with st := .tearing, busy := true, recd := some soloCtx, openQ := 3 } := rfl
  have hwork : ctxWork twinQueues 0 = false := by decide
  obtain ⟨t, c, hexec, -, -, -, -, -, hremotes, -⟩ := (h twinQueues 0 _ hctx).2 rfl hwork hread
  obtain rfl := Host.Outcome.next.inj ((teardownComplete_releases hctx rfl hwork hread).symm.trans hexec)
  obtain ⟨r, hr, hr0⟩ := remotes_of_twinQueues
  exact hremotes (List.forall_mem_nil _) hempty r hr hr0

end Sys2Proof.Proofs

namespace Sys2Proof.Proofs
open Sys2Proof.Machine Sys2Proof.Laws Sys2Proof.Claims

/-! ## The placement of a team (O49) -/

/-! ### What a start does to the teams and groups that stand on the core

Dispatch performs the effect of an IFENCE on each core where it places a team (05 R110): it leaves the teams as they are, and discards
the fetched clause of every group of the core. -/

/-- A group after every clause that a core has fetched is discarded. -/
def refetching (core : Nat) (x : Group) : Group := if x.core = core then loseClause x else x

theorem groups_fenceCode_none (s : State) (core : Nat) : (fenceCode s core none).groups = s.groups.map (refetching core) := by
  simp [fenceCode, refetching]

theorem teams_fenceCode (s : State) (core : Nat) (self : Option Nat) : (fenceCode s core self).teams = s.teams := rfl

theorem keeps_shrinkL1 {β : Type} {p : State → β} (hp : ∀ s k f, p (onCore s k f) = p s) (s : State) (core old : Nat) :
    p (shrinkL1 s core old) = p s := by
  rw [shrinkL1]
  exact keeps_ite rfl (hp ..)

theorem keeps_fuseL1 {β : Type} {p : State → β} (hp : ∀ s k f, p (onCore s k f) = p s) (s : State) (cluster : Nat) :
    p (fuseL1 s cluster) = p s := by
  rw [fuseL1]
  exact keeps_ite rfl (foldl_keeps (fun _ _ => hp ..) _ _)

theorem teams_readyCores (s : State) (t : Team) (regions : List (Nat × Nat)) : (readyCores s t regions).teams = s.teams := by
  rw [readyCores]
  exact (foldl_keeps (p := State.teams) (fun s k => teams_fenceCode s k none) _ _).trans
    (foldl_keeps (p := State.teams) (fun _ _ => onCore_teams ..) _ _)

theorem groups_readyCores (s : State) {t : Team} (ht : t.paired = false) (regions : List (Nat × Nat)) :
    (readyCores s t regions).groups = s.groups.map (refetching t.core) := by
  have hcores : t.cores = [t.core] := by rw [Team.cores, ht]; rfl
  rw [readyCores, hcores, List.foldl_cons, List.foldl_nil, groups_fenceCode_none]
  exact congrArg _ (foldl_keeps (p := State.groups) (fun _ _ => onCore_groups ..) _ _)

theorem teams_startTeam (s : State) (l : Launch) (index core save : Nat) :
    (startTeam s l index core save).1.teams = s.teams ++ [freshTeam s.nextId l index core save] :=
  (teams_readyCores ..).trans ((keeps_fuseL1 (p := State.teams) onCore_teams ..).trans (keeps_shrinkL1 (p := State.teams) onCore_teams ..))

theorem groups_startTeam (s : State) {l : Launch} (hl : l.recd.paired = false) (index core save : Nat) :
    ∃ gs, (startTeam s l index core save).1.groups = s.groups.map (refetching core) ++ gs :=
  ⟨_, congrArg (· ++ _) ((groups_readyCores _ hl _).trans (congrArg (List.map (refetching core))
    ((keeps_fuseL1 (p := State.groups) onCore_groups ..).trans (keeps_shrinkL1 (p := State.groups) onCore_groups ..))))⟩

/-! ### TEAM_PLACE -/

theorem takeArea_keeps {s s1 : State} {ctx align size a : Nat} (h : takeArea s ctx align size = some (a, s1)) :
    s1.teams = s.teams ∧ s1.groups = s.groups := by
  obtain ⟨_, -, hx⟩ := Option.map_eq_some_iff.mp h
  have hs1 := (Prod.mk.inj hx).2
  exact hs1 ▸ ⟨rfl, rfl⟩

/-- A placement adds one team, and has every group on the core of that team fetch its clause anew. -/
theorem placeTeam_refetches {s t : State} {l : Launch} (hl : l.recd.paired = false) (h : placeTeam s l = some t) :
    ∃ tm gs, t.teams = s.teams ++ [tm] ∧ t.groups = s.groups.map (refetching tm.core) ++ gs := by
  unfold placeTeam at h
  split at h
  next core save s1 hcore harea =>
    obtain ⟨hteams, hgroups⟩ := takeArea_keeps harea
    obtain ⟨gs, hgs⟩ := groups_startTeam s1 hl l.next core save
    obtain rfl := Option.some.inj h
    rw [← hteams, ← hgroups]
    exact ⟨_, gs, teams_startTeam .., hgs⟩
  next => cases h

theorem placeTeam_of_exec {s t : State} {launch : Nat} {l : Launch} (hl : launchOf s launch = some l)
    (h : exec (.teamPlace launch) s = .next t) : placeTeam s l = some t := by
  have hx : exec (.teamPlace launch) s = execTeamPlace launch s := rfl
  rw [hx, execTeamPlace, hl, onSome] at h
  split at h
  · cases h
  · split at h
    next s1 hs1 => exact hs1.trans (congrArg some (Host.Outcome.next.inj h))
    next => cases h

/-! ### A team placed beside an activation of the notification handler -/

/-- A launch of one team with one group, to be placed. -/
def placingLaunch : Launch := { soloLaunch 1 0 with recd := { soloRec with nregs := 16 }, st := .placing, next := 0 }

/-- The team of a handler activation on core 0 (04 R91). -/
def handlerTeam : Team := { freshTeam 2 placingLaunch 0 0 0 with launch := none, size := 0 }

/-- Its group, in the handler slot of lane 0, running a clause that it has fetched. -/
def handlerGroup : Group :=
  { freshGroup 3 0 none 2 0 16 64 0 0x40000 0x900080 with
    hslot := true, st := .running, atHdr := false, fresh := false, checked := true, clause := [soloHeader, 0], frame := 0x100000, slot := 63 }

/-- The machine in which the handler of context 0 runs while a launch of the context has a team to place. -/
def placingBesideHandler : State :=
  { placeWord State.reset 0 with launches := [placingLaunch], teams := [handlerTeam], groups := [handlerGroup] }

theorem places_besideHandler : Places placingBesideHandler 1 placingLaunch := ⟨rfl, rfl, by decide, _, rfl, rfl⟩

/-- The activation is in no group slot, so that core 0 has no resident group and comes first. -/
theorem bestCore_besideHandler : BestCore placingBesideHandler (launchNeed placingLaunch) 0 := by
  have hload : coreLoad placingBesideHandler (fun _ => false) (launchNeed placingLaunch).paired 0 = 0 := by decide
  have hfits : coreFits placingBesideHandler (fun _ => false) (launchNeed placingLaunch) 0 = true := by decide
  refine ⟨by decide, hfits, fun k _ _ => ?_⟩
  rw [hload]
  omega

theorem takeArea_besideHandler : (takeArea placingBesideHandler 0 65536 (areaSize placingLaunch.recd.scratch)).isSome = true := by decide

/-- The handler's clause is to be fetched again. -/
theorem refetching_handlerGroup : refetching 0 handlerGroup ≠ handlerGroup := by decide

/-- Refutes O49: it says that placing a team only adds to the groups, while dispatch performs the effect of an IFENCE on the core
(05 R110), so that a group which runs there, as the activation of the notification handler here, has its clause to fetch again. -/
theorem not_teamsAndLaunches : ¬ Obligations.TeamsAndLaunches := by
  rintro ⟨⟨hplace, -⟩, -⟩
  obtain ⟨⟨save, s1⟩, harea⟩ := Option.isSome_iff_exists.mp takeArea_besideHandler
  obtain ⟨t, tm, gs, l', hexec, hteams, hgroups, -, -, hcore, -⟩ :=
    hplace _ _ _ _ _ _ places_besideHandler rfl bestCore_besideHandler harea
  obtain ⟨tm', gs', hteams', hgroups'⟩ := placeTeam_refetches rfl (placeTeam_of_exec places_besideHandler.1 hexec)
  obtain rfl : tm = tm' := List.singleton_inj.mp (List.append_cancel_left (hteams.symm.trans hteams'))
  rw [hcore] at hgroups'
  exact refetching_handlerGroup (List.cons.inj (hgroups'.symm.trans hgroups)).1

end Sys2Proof.Proofs

namespace Sys2Proof.Proofs
open Sys2Proof.Machine Sys2Proof.Laws Sys2Proof.Claims

/-! ## The choice of a lane, and what ends its waits (O47) -/

theorem tearing_eq_false_iff (s : State) (ctx : Nat) : tearing s ctx = false ↔ ∀ c, s.contexts[ctx]? = some c → c.st ≠ .tearing := by
  rw [tearing]
  cases s.contexts[ctx]? <;> simp

/-! ### The ranks of groups -/

/-- The class in which a group is chosen (06 R116): in handler mode, passed over 16 times, or neither. -/
def choiceKind (g : Group) : Nat := if g.handler = true ∨ g.hslot = true then 0 else if 16 ≤ g.pass then 1 else 2

/-- The PRIO of a group, of which there are eight. -/
def choicePrio (s : State) (g : Group) : Nat := min 7 (((ctxRec s g.ctx).map (fun (r : CRec) => r.prio)).getD 0)

/-- Whether a group stands behind the others of its PRIO. -/
def choiceLate (g : Group) : Nat := if g.yielded then 1 else 0

theorem chosenBefore_iff (s : State) (a b : Group) : ChosenBefore s a b ↔ choiceKind a < choiceKind b ∨ (choiceKind a = choiceKind b ∧
    (if choiceKind a < 2 then a.birth < b.birth
      else choicePrio s b < choicePrio s a ∨ (choicePrio s a = choicePrio s b ∧
        (choiceLate a < choiceLate b ∨ (choiceLate a = choiceLate b ∧ a.birth < b.birth))))) := Iff.rfl

theorem choiceKind_le (g : Group) : choiceKind g ≤ 2 := by
  unfold choiceKind
  split
  · omega
  · split <;> omega

theorem laneRank_eq (s : State) (g : Group) : laneRank s g =
    if choiceKind g < 2 then [choiceKind g, 0, 0, g.birth] else [2, 7 - choicePrio s g, choiceLate g, g.birth] := by
  by_cases hh : g.handler = true ∨ g.hslot = true
  · simp [laneRank, choiceKind, hh]
  · by_cases hp : 16 ≤ g.pass
    · simp [laneRank, choiceKind, hh, hp]
    · have hmin (n : Nat) : 7 - min 7 n = 7 - n := by omega
      simp [laneRank, choiceKind, choicePrio, choiceLate, hh, hp, hmin]

theorem rankLt_four {a b c d a' b' c' d' : Nat} : rankLt [a, b, c, d] [a', b', c', d'] = true ↔
    a < a' ∨ a = a' ∧ (b < b' ∨ b = b' ∧ (c < c' ∨ c = c' ∧ d < d')) := by
  simp [rankLt]

theorem rankLt_of_chosenBefore {s : State} {a b : Group} (h : ChosenBefore s a b) : rankLt (laneRank s a) (laneRank s b) = true := by
  rw [chosenBefore_iff] at h
  have ha := choiceKind_le a
  have hb := choiceKind_le b
  have hpa : choicePrio s a ≤ 7 := Nat.min_le_left ..
  have hpb : choicePrio s b ≤ 7 := Nat.min_le_left ..
  rw [laneRank_eq, laneRank_eq]
  by_cases hka : choiceKind a < 2
  · rw [if_pos hka] at h ⊢
    split
    · rw [rankLt_four]; omega
    · rw [rankLt_four]; omega
  · rw [if_neg hka] at h ⊢
    have hkb : ¬ choiceKind b < 2 := by omega
    rw [if_neg hkb, rankLt_four]
    omega

theorem rankLt_asymm {xs ys : List Nat} (h : rankLt xs ys = true) : rankLt ys xs = false := by
  induction xs generalizing ys with
  | nil => simp [rankLt] at h
  | cons x xs ih =>
    cases ys with
    | nil => simp [rankLt] at h
    | cons y ys =>
      simp only [rankLt, Bool.or_eq_true, Bool.and_eq_true, decide_eq_true_eq] at h
      simp only [rankLt, Bool.or_eq_false_iff, Bool.and_eq_false_iff, decide_eq_false_iff_not]
      obtain hlt | ⟨rfl, hrest⟩ := h
      · exact ⟨by omega, .inl (by omega)⟩
      · exact ⟨by omega, .inr (ih hrest)⟩

theorem rankLt_irrefl (xs : List Nat) : rankLt xs xs = false := by
  cases h : rankLt xs xs with
  | false => rfl
  | true => exact h.symm.trans (rankLt_asymm h)

/-! ### The group that comes first -/

/-- The earlier of a group and the one that stands first so far. -/
def firstOf (s : State) (m : Option Group) (g : Group) : Option Group :=
  match m with
  | none => some g
  | some x => if rankLt (laneRank s g) (laneRank s x) then some g else some x

theorem laneChoice_eq (s : State) (lane : Nat) :
    laneChoice s lane = (s.groups.filter (fun g => mayChoose s g lane)).foldl (firstOf s) none := rfl

theorem mayRun_iff {s : State} {lane : Nat} {g : Group} : MayRun s lane g ↔ g ∈ s.groups.filter (fun g => mayChoose s g lane) := by
  have hsave : (g.fullSave && !g.handler) = false ↔ (g.fullSave = true → g.handler = true) := by
    cases g.fullSave <;> cases g.handler <;> decide
  simp only [List.mem_filter, mayChoose, Bool.and_eq_true, Bool.not_eq_true', decide_eq_true_eq, hsave, tearing_eq_false_iff]
  constructor
  · rintro ⟨hmem, hlane, hst, hhalt, hfull, hcore, hctx⟩
    exact ⟨hmem, ⟨⟨⟨⟨hctx, hlane⟩, hst⟩, hhalt⟩, hfull⟩, hcore⟩
  · rintro ⟨hmem, ⟨⟨⟨⟨hctx, hlane⟩, hst⟩, hhalt⟩, hfull⟩, hcore⟩
    exact ⟨hmem, hlane, hst, hhalt, hfull, hcore, hctx⟩

section
variable {s : State} {g : Group}

theorem firstOf_mem {xs : List Group} {m : Option Group} (hm : ∀ x, m = some x → x ∈ xs) (hg : g ∈ xs) :
    ∀ x, firstOf s m g = some x → x ∈ xs := by
  intro x hx
  cases m with
  | none => exact Option.some.inj hx ▸ hg
  | some y =>
    rw [firstOf] at hx
    split at hx
    · exact Option.some.inj hx ▸ hg
    · exact hm x hx

theorem firstOf_takes {m : Option Group} (hm : ∀ x, m = some x → x = g ∨ ChosenBefore s g x) : firstOf s m g = some g := by
  cases m with
  | none => rfl
  | some x =>
    rw [firstOf]
    obtain rfl | hx := hm x rfl
    · exact ite_self _
    · exact if_pos (rankLt_of_chosenBefore hx)

theorem firstOf_keeps {x : Group} (hx : x = g ∨ ChosenBefore s g x) : firstOf s (some g) x = some g := by
  rw [firstOf]
  obtain rfl | hx := hx
  · exact ite_self _
  · rw [rankLt_asymm (rankLt_of_chosenBefore hx)]
    rfl

theorem foldl_firstOf {xs : List Group} (hg : g ∈ xs) (hfirst : ∀ x ∈ xs, x = g ∨ ChosenBefore s g x) :
    xs.foldl (firstOf s) none = some g := by
  obtain ⟨before, after, rfl⟩ := List.append_of_mem hg
  rw [List.foldl_append, List.foldl_cons]
  have hbefore : ∀ x, before.foldl (firstOf s) none = some x → x ∈ before :=
    List.foldlRecOn (motive := fun m => ∀ x, m = some x → x ∈ before) _ _ (fun _ hx => absurd hx (Option.some_ne_none _).symm)
      (fun _ hm _ ha => firstOf_mem hm ha)
  rw [firstOf_takes fun x hx => hfirst x (List.mem_append_left _ (hbefore x hx))]
  refine List.foldlRecOn (motive := fun m => m = some g) after _ rfl fun m hm x hx => ?_
  rw [hm, firstOf_keeps (hfirst x (List.mem_append_right _ (List.mem_cons_of_mem _ hx)))]
end

theorem laneChoice_of_first {s : State} {lane : Nat} {g : Group} (hg : MayRun s lane g)
    (hfirst : ∀ x, MayRun s lane x → x = g ∨ ChosenBefore s g x) : laneChoice s lane = some g := by
  rw [laneChoice_eq]
  exact foldl_firstOf (mayRun_iff.mp hg) fun x hx => hfirst x (mayRun_iff.mpr hx)

theorem switching_eq_false_iff (s : State) (c : Nat) : switching s c = false ↔ ∀ y, (clusterAt s c).change = some y → y.ramp = true := by
  rw [switching]
  cases (clusterAt s c).change <;> simp

theorem laneMay_of {s : State} {lane : Nat} (hfree : ∀ x ∈ s.groups, x.lane = lane → x.st ≠ .running)
    (hadm : cyclesOf s (lane / 64) < (clusterAt s (lane / 64)).lastIssue + 256) (hsw : switching s (lane / 64) = false) :
    laneMay s lane = true := by
  have hheld : laneHeld s lane = false := by
    rw [laneHeld, List.any_eq_false]
    simpa using hfree
  have hslew : slewed s (lane / 64) = false := decide_eq_false (Nat.not_le_of_lt hadm)
  rw [laneMay, hheld, hslew, hsw]
  rfl

theorem exec_laneChoose {s : State} {lane : Nat} {g : Group} (hmay : laneMay s lane = true) (hg : laneChoice s lane = some g) :
    exec (.laneChoose lane) s = .next { s with groups := s.groups.map (fun x =>
      if x.id = g.id then { x with st := .running, pass := 0, yielded := false }
      else if x.lane = lane ∧ x.st = .ready then { x with pass := min 16 (x.pass + 1), yielded := false } else x) } := by
  have hx : exec (.laneChoose lane) s = execLaneChoose lane s := rfl
  rw [hx, execLaneChoose, hmay, hg]
  rfl

theorem lanesChoose : Claims.LanesChoose := by
  intro s lane g _ hfree hadm hsw hg hfirst
  exact ⟨_, exec_laneChoose (laneMay_of hfree hadm ((switching_eq_false_iff ..).mpr hsw)) (laneChoice_of_first hg hfirst), rfl, rfl, rfl, rfl⟩

/-! ### The ends of waits -/

theorem headerMet_iff (s : State) (g : Group) : headerMet s g = true ↔ WaitsMet s g := by
  simp only [headerMet, WaitsMet, Bool.and_eq_true, Bool.or_eq_true, Bool.not_eq_true', List.any_eq_false, decide_eq_true_eq, and_assoc]
  have himp {b : Bool} {p : Prop} : (b = false ∨ p) ↔ (b = true → p) := by cases b <;> simp
  simp only [himp, not_and, Bool.not_eq_true]

theorem exec_headerWaitMet {s : State} {gid : Nat} {g : Group} (hg : groupOf s gid = some g) (hst : g.st = .waiting) (hsave : g.saving = false)
    (hsw : switchHolds s g = false) (hmet : WaitsMet s g) : exec (.headerWaitMet gid) s = .next (setGroup s { g with st := .ready }) := by
  have hx : exec (.headerWaitMet gid) s = execHeaderWaitMet gid s := rfl
  rw [hx, execHeaderWaitMet, hg, onSome, (headerMet_iff s g).mpr hmet, hst, hsave, hsw]
  rfl

theorem linePresent_eq_false_iff (g : Group) (n : Nat) : linePresent g n = false ↔ (∀ h ∈ g.win, h.reg ≠ n) ∧ ∀ l ∈ g.lines, l.reg ≠ n := by
  simp [linePresent]

theorem exec_regcacheFill {s : State} {gid reg : Nat} {g : Group} (hg : groupOf s gid = some g) (hst : g.st = .running) (hreg : reg < g.nregs + 64)
    (hp : linePresent g reg = false) : exec (.regcacheFill gid reg) s = .next (fillLine s g reg) := by
  have hx : exec (.regcacheFill gid reg) s = execRegcacheFill gid reg s := rfl
  rw [hx, execRegcacheFill, hg, onSome]
  exact if_neg (by simp [hst, hp, hreg])

section
variable {s : State} {g : Group} {reg : Nat}

theorem fillLine_filled {s1 : State} {bs : List Byte} (h : getVA s g.cluster g.ctx (va57 g.frame + 4 * g.width * reg) (4 * g.width) = some (s1, bs)) :
    fillLine s g reg = setGroup s1 { g with lines :=
      ⟨reg, (List.range g.width).map (fun t => (BitVec.ofNat 32 (leNat ((bs.drop (4 * t)).take 4)) : W32)), false, s1.fcycles, .general⟩ :: g.lines } := by
  rw [fillLine, h]

theorem fillLine_fails (h : getVA s g.cluster g.ctx (va57 g.frame + 4 * g.width * reg) (4 * g.width) = none) :
    fillLine s g reg = stopGroup s g true 0x44 0 (BitVec.ofNat 64 (va57 g.frame + 4 * g.width * reg)) := by
  rw [fillLine, h]
end

theorem awaits_eq_false_iff (g : Group) : g.awaits = false ↔ ∀ l ∈ g.ll, l.exact = none := by
  simp [Group.awaits]

theorem exec_budgetExhausted {s : State} {g : Group} (h : AboutToIssue s g) (hdue : budgetDue g = true) :
    exec (.budgetExhausted g.id) s = .next (budgetTrap s { g with atHdr := false }) := by
  obtain ⟨hg, hst, hpos, hfetch, hchecked, htrap, hhalt, hfull, hhandler, hcore, hctx, hll⟩ := h
  have hx : exec (.budgetExhausted g.id) s = execBudgetExhausted g.id s := rfl
  have hbefore : beforeInstr g = true := by simp [beforeInstr, hst, hpos, hfetch, hchecked, htrap, hhalt, hfull]
  rw [hx, execBudgetExhausted, hg, onSome]
  exact if_pos (by simp [hbefore, hcore, (tearing_eq_false_iff s g.ctx).mpr hctx, (awaits_eq_false_iff g).mpr hll, hdue])

theorem handler_of_aboutToIssue {s : State} {g : Group} (h : AboutToIssue s g) : g.handler = false := by
  obtain ⟨-, -, -, -, -, -, -, -, hhandler, -⟩ := h
  exact hhandler

theorem budgetTrap_budget (s : State) {g : Group} (hb : g.budget ≠ 0) (hl : g.left = 0) : budgetTrap s g =
    takeTrap s { g with left := g.budget, held := 0 } { cause := 0x23, sub := 0, info := BitVec.ofNat 64 g.budget } := by
  rw [budgetTrap, if_pos ⟨hb, hl⟩]
  rfl

theorem budgetTrap_limit (s : State) {g : Group} (h : g.budget = 0 ∨ g.left ≠ 0) : budgetTrap s g =
    takeTrap s { g with left := g.budget, held := 0 } { cause := 0x23, sub := 0, info := 262144 } := by
  rw [budgetTrap, if_neg (by tauto)]
  rfl

theorem exec_sleepWake {s : State} {g : Group} {till : Nat} (hg : groupOf s g.id = some g) (hp : g.park = some (.sleep till))
    (hst : g.st = .parked) (hh : g.halted = false) (hsw : switchHolds s g = false) (ht : till ≤ cyclesOf s g.cluster) :
    exec (.sleepWake g.id) s = .next (wake s g.id) := by
  have hx : exec (.sleepWake g.id) s = execSleepWake g.id s := rfl
  rw [hx, execSleepWake, hg, onSome, hp]
  exact if_pos (by simp [awake, hst, hh, hsw, ht])

theorem laneWaitsEnd : Claims.LaneWaitsEnd := by
  refine ⟨fun s gid g => exec_headerWaitMet, fun s gid reg g hg hst hreg hwin hlines => ?fill, fun s g hiss => ⟨?budget, ?limit⟩,
    fun s gid g till hg hp hst hh hsw ht => ?sleep⟩
  case fill =>
    have hx := exec_regcacheFill hg hst hreg ((linePresent_eq_false_iff g reg).mpr ⟨hwin, hlines⟩)
    exact ⟨fun s1 bs h => hx.trans (congrArg _ (fillLine_filled h)), fun h => hx.trans (congrArg _ (fillLine_fails h))⟩
  case budget =>
    intro hb hl
    rw [exec_budgetExhausted hiss (by simp [budgetDue, handler_of_aboutToIssue hiss, hb, hl])]
    exact congrArg _ (budgetTrap_budget s (g := { g with atHdr := false }) hb hl)
  case limit =>
    intro hbl hslot hheld
    rw [exec_budgetExhausted hiss (by simp [budgetDue, handler_of_aboutToIssue hiss, hslot, hheld])]
    exact congrArg _ (budgetTrap_limit s (g := { g with atHdr := false }) hbl)
  case sleep =>
    obtain rfl := groupOf_id hg
    exact ⟨_, exec_sleepWake hg hp hst hh hsw ht, groupOf_wake hg hst hh, rfl⟩

/-- Settles O47: a lane chooses the least of the ranks, and each wait ends where its condition is met. -/
theorem lanesChooseAndWait : Obligations.LanesChooseAndWait := ⟨lanesChoose, laneWaitsEnd⟩

end Sys2Proof.Proofs

namespace Sys2Proof.Proofs
open Sys2Proof.Machine Sys2Proof.Laws Sys2Proof.Claims

/-! ## Spawn bins (O25) -/

/-! ### The group of a bin -/

theorem freeIdx_lt (s : State) (team f n : Nat) : freeIdx s team f n < 65536 := by
  induction f generalizing n with
  | zero => exact Nat.mod_lt _ (by decide)
  | succ f ih =>
    rw [freeIdx]
    split
    · exact ih (n + 1)
    · exact Nat.mod_lt _ (by decide)

section
variable {b : Bin} {tm : Team} {l : Launch} {id idx : Nat}

/-- A thread of the group is active where the bin has a deposit for it (06 R139). -/
theorem active_binGroup (i : Nat) : (binGroup b tm l id idx).active.getLsbD i = decide (i < min 64 b.deps.length) := by
  have ha : (binGroup b tm l id idx).active = maskOf (List.range b.deps.length) := rfl
  rw [ha]
  by_cases hi : i < 64
  · rw [maskOf_bit _ _ hi]
    simp [hi]
  · rw [BitVec.getLsbD_of_ge _ _ (by omega), eq_comm, decide_eq_false_iff_not]
    omega

/-- Each thread holds its deposit in v0 and v1. -/
theorem readV_binGroup (s : State) {i : Nat} {d : W32 × W32} (hi : i < l.recd.width) (hd : b.deps[i]? = some d) :
    readV s (binGroup b tm l id idx) 0 i = d.1 ∧ readV s (binGroup b tm l id idx) 1 i = d.2 := by
  have hline (f : W32 × W32 → W32) : ((List.range l.recd.width).map (fun i => ((b.deps[i]?).map f).getD 0)).getD i 0 = f d := by
    simp [List.getD_eq_getElem?_getD, hi, hd]
  exact ⟨hline Prod.fst, hline Prod.snd⟩
end

/-! ### The launch of a bin -/

theorem groups_launchBin {s : State} {c : Nat} {b : Bin} {tm : Team} {l : Launch} (ht : teamOf s b.owner = some tm) (hl : launchOf s b.launch = some l) :
    ∃ idx, idx < 65536 ∧ (launchBin s c b).groups = s.groups ++ [binGroup b tm l s.nextId idx] := by
  unfold launchBin
  dsimp only
  split
  next tm' l' ht' hl' =>
    obtain rfl : tm = tm' := Option.some.inj (ht.symm.trans ht')
    obtain rfl : l = l' := Option.some.inj (hl.symm.trans hl')
    exact ⟨_, freeIdx_lt .., rfl⟩
  next h => exact absurd hl (h tm l ht)

theorem launchBin_keeps (s : State) (c : Nat) (b : Bin) : (launchBin s c b).mem = s.mem ∧ ∃ new, (launchBin s c b).groups = s.groups ++ new := by
  unfold launchBin
  dsimp only
  split
  · exact ⟨rfl, _, rfl⟩
  · exact ⟨rfl, [], (List.append_nil _).symm⟩

theorem bins_launchBin {s : State} {c : Nat} (hc : c < s.clusters.length) (b : Bin) :
    (clusterAt (launchBin s c b) c).bins = (clusterAt s c).bins.filter (fun x => decide (x.num ≠ b.num)) := by
  have hcl : clusterAt (launchBin s c b) c = clusterAt (onCluster s c (fun x => { x with bins := x.bins.filter (fun y => decide (y.num ≠ b.num)) })) c :=
    congrArg (fun (xs : List Cluster) => (xs[c]?).getD Cluster.empty) (launchBin_grows s c b).1
  rw [hcl, clusterAt_onCluster hc]

theorem binLaunched_launchBin {s : State} {c : Nat} (hc : c < s.clusters.length) (b : Bin) : BinLaunched s (launchBin s c b) c b := by
  refine ⟨bins_launchBin hc b, (launchBin_grows s c b).2.1, (launchBin_keeps s c b).1, fun tm l ht hl => ?_⟩
  obtain ⟨idx, hidx, hgroups⟩ := groups_launchBin (c := c) ht hl
  exact ⟨_, hgroups, rfl, rfl, rfl, rfl, rfl, pc_binGroup .., rfl, rfl, rfl, rfl, hidx, active_binGroup,
    fun i d hi hd => readV_binGroup _ hi hd⟩

theorem groupOf_launchBin {s : State} {k : Nat} {g : Group} (hg : groupOf s k = some g) (c : Nat) (b : Bin) :
    groupOf (launchBin s c b) k = some g := by
  obtain ⟨-, new, hnew⟩ := launchBin_keeps s c b
  rw [groupOf, hnew, List.find?_append, show s.groups.find? _ = some g from hg, Option.some_or]

/-! ### One deposit -/

/-- The state with a bin that has one deposit more (06 R138). -/
def binHeld (s : State) (g : Group) (b : Bin) (pay : W32 × W32) : State :=
  onCluster s g.cluster (fun c => { c with bins := c.bins.filter (fun x => decide (x.num ≠ b.num)) ++ [more b g pay] })

theorem appendBin_eq (s : State) (g : Group) (b : Bin) (pay : W32 × W32) : appendBin s g b pay =
    if g.width ≤ b.deps.length + 1 then launchBin (binHeld s g b pay) g.cluster (more b g pay) else binHeld s g b pay := by
  have hlen : (more b g pay).deps.length = b.deps.length + 1 := List.length_append
  rw [← hlen]
  rfl

theorem bins_binHeld {s : State} {g : Group} (hc : g.cluster < s.clusters.length) (b : Bin) (pay : W32 × W32) :
    (clusterAt (binHeld s g b pay) g.cluster).bins = (clusterAt s g.cluster).bins.filter (fun x => decide (x.num ≠ b.num)) ++ [more b g pay] := by
  rw [binHeld, clusterAt_onCluster hc]

theorem appendBin_holds (s : State) {g : Group} {b : Bin} (h : b.deps.length + 1 < g.width) (pay : W32 × W32) :
    appendBin s g b pay = binHeld s g b pay := by
  rw [appendBin_eq, if_neg (by omega)]

theorem appendBin_fills (s : State) {g : Group} {b : Bin} (h : g.width ≤ b.deps.length + 1) (pay : W32 × W32) :
    appendBin s g b pay = launchBin (binHeld s g b pay) g.cluster (more b g pay) := by
  rw [appendBin_eq, if_pos h]

theorem groupOf_appendBin {s : State} {k : Nat} {x : Group} (hx : groupOf s k = some x) (g : Group) (b : Bin) (pay : W32 × W32) :
    groupOf (appendBin s g b pay) k = some x := by
  rw [appendBin_eq]
  split
  · exact groupOf_launchBin (s := binHeld s g b pay) hx ..
  · exact hx

theorem freeBin_eq_some {s : State} {c num : Nat} (hnum : num < 64) (hfree : ∀ b ∈ (clusterAt s c).bins, b.num ≠ num)
    (hbelow : ∀ m, m < num → ∃ b ∈ (clusterAt s c).bins, b.num = m) : freeBin s c = some num := by
  rw [freeBin, List.find?_range_eq_some]
  simpa using ⟨hfree, hnum, hbelow⟩

theorem freeBin_eq_none {s : State} {c : Nat} (hfull : ∀ m, m < 64 → ∃ b ∈ (clusterAt s c).bins, b.num = m) : freeBin s c = none := by
  rw [freeBin, List.find?_range_eq_none]
  simpa using hfull

/-- The bin that a thread's deposit opens (06 R137). -/
def openedBin (s : State) (g : Group) (entry : W64) (p timer n t num : Nat) : Bin :=
  let k := keyOf s g entry p t
  ⟨num, k.launch, k.entry, k.key, k.replay, g.team, timer, cyclesOf s g.cluster + n, [], []⟩

section
variable {s : State} {g : Group} {entry : W64} {p t : Nat} (timer n : Nat)

theorem deposit_eq : deposit s g entry p timer n t =
    match (clusterAt s g.cluster).bins.find? (fun b => b.hasKey (keyOf s g entry p t)) with
    | some b => some (appendBin s g b (payOf s g p t))
    | none =>
      match freeBin s g.cluster with
      | some num => some (appendBin s g (openedBin s g entry p timer n t num) (payOf s g p t))
      | none =>
        if (keyOf s g entry p t).replay.isSome then none
        else (oldestBin s g.cluster).map (fun b =>
          appendBin (launchBin s g.cluster b) g (openedBin s g entry p timer n t b.num) (payOf s g p t)) := rfl

theorem appendBin_opened (s' : State) {num : Nat} {pay : W32 × W32} (h : 1 < g.width) :
    appendBin s' g (openedBin s g entry p timer n t num) pay = binHeld s' g (openedBin s g entry p timer n t num) pay :=
  appendBin_holds (b := openedBin s g entry p timer n t num) s' h pay

theorem isSome_replay_keyOf : (keyOf s g entry p t).replay.isSome = isReplay s g.ctx := by
  rw [keyOf]
  cases isReplay s g.ctx <;> rfl

theorem deposit_found {b : Bin} (hfind : (clusterAt s g.cluster).bins.find? (fun b => b.hasKey (keyOf s g entry p t)) = some b) :
    deposit s g entry p timer n t = some (appendBin s g b (payOf s g p t)) := by
  rw [deposit_eq, hfind]

variable (hfind : (clusterAt s g.cluster).bins.find? (fun b => b.hasKey (keyOf s g entry p t)) = none)
include hfind

theorem deposit_opens {num : Nat} (hfree : freeBin s g.cluster = some num) :
    deposit s g entry p timer n t = some (appendBin s g (openedBin s g entry p timer n t num) (payOf s g p t)) := by
  rw [deposit_eq, hfind, hfree]

theorem deposit_refused (hfree : freeBin s g.cluster = none) (hr : isReplay s g.ctx = true) : deposit s g entry p timer n t = none := by
  rw [deposit_eq, hfind, hfree]
  exact if_pos (isSome_replay_keyOf.trans hr)

theorem deposit_evicts {b : Bin} (hfree : freeBin s g.cluster = none) (hr : isReplay s g.ctx = false) (hold : oldestBin s g.cluster = some b) :
    deposit s g entry p timer n t =
      some (appendBin (launchBin s g.cluster b) g (openedBin s g entry p timer n t b.num) (payOf s g p t)) := by
  rw [deposit_eq, hfind, hfree, hold, isSome_replay_keyOf, hr]
  rfl
end

theorem groupOf_deposit {s s' : State} {g x : Group} {entry : W64} {p timer n t k : Nat} (hx : groupOf s k = some x)
    (h : deposit s g entry p timer n t = some s') : groupOf s' k = some x := by
  rw [deposit_eq] at h
  split at h
  · exact Option.some.inj h ▸ groupOf_appendBin hx ..
  · split at h
    · exact Option.some.inj h ▸ groupOf_appendBin hx ..
    · split at h
      · cases h
      · obtain ⟨b, -, rfl⟩ := Option.map_eq_some_iff.mp h
        exact groupOf_appendBin (groupOf_launchBin hx ..) ..

theorem groupOf_deposits {s : State} {g x : Group} {entry : W64} {p timer k : Nat} (ts : List Nat) (n : Nat) (hx : groupOf s k = some x) :
    groupOf (deposits g entry p timer ts n s).1 k = some x := by
  induction ts generalizing s n with
  | nil => exact hx
  | cons t ts ih =>
    rw [deposits]
    split
    next s' hs' => exact ih (n + 1) (groupOf_deposit hx hs')
    next => exact hx

/-! ### SPAWN -/

/-- The word is illegal in a group of no launch (06 R138). -/
theorem preFault_spawn {s : State} {g : Group} (hl : g.launch = none) (h : Hd) (f : CF) : preFault s g (.spawn h f) = some illegal := by
  have hill : illegalHere s g (.spawn h f) = true := by simp [illegalHere, hl]
  rw [preFault]
  exact if_pos (by rw [hill, Bool.or_true])

/-- A fault of the word is taken before its operation (03 R74). -/
theorem traps_of_preFault {i : Instr} {s : State} {g : Group} {k : Group → State → GOut} {c : TrapInfo} (hx : exec i s = runInstr i s k)
    (hcur : s.cur = some g.id) (hg : groupOf s g.id = some g) (hc : preFault s g i = some c) (ha : c.after = false) : Traps i s s g c := by
  have hraise : raising i s g c = g := by rw [raising, ha]; rfl
  rw [Traps, hx, hraise]
  simp only [runInstr, hcur, Option.bind_some, hg, hc]

/-- The entry address that SPAWN takes from its descriptor register (06 R137). -/
def spawnEntry (f : CF) (g : Group) : Nat := va57 (g.s.getD f.sdesc.toNat 0)

/-- The threads that deposit: the active ones of SPAWN's predicate. -/
def spawnThreads (f : CF) (g : Group) : List Nat := threads (predMask g (f.fl 11 3) &&& g.active)

/-- The operation of SPAWN where the group's lowest active thread qualifies (06 R138). -/
def spawnOp (f : CF) (g : Group) (s : State) : GOut :=
  let entry := spawnEntry f g
  let bad := { trapC 0x0F 0 with addr := BitVec.ofNat 64 entry }
  if entry % 8 ≠ 0 then .trap s bad
  else match translate s g.cluster (some g.core) g.ctx entry .fetch with
    | (s, .error _) => .trap s bad
    | (s, .ok _) => .done (spawnFrom s g (BitVec.ofNat 64 entry) (f.fl 0 11) (1024 * 2 ^ f.asrc.toNat) (spawnThreads f g))

theorem exec_spawn (h : Hd) (f : CF) (s : State) : exec (.spawn h f) s = wideOp (.spawn h f) h (spawnOp f) s := by
  have hx : exec (.spawn h f) s = runInstr (.spawn h f) s (fun g s => if !wideActs g h then .done s else spawnOp f g s) := rfl
  rw [hx, wideOp]
  congr 1
  funext g s
  cases wideActs g h <;> rfl

theorem spawn_illegal {s : State} {g : Group} (hcur : s.cur = some g.id) (hg : groupOf s g.id = some g) (hl : g.launch = none) (h : Hd) (f : CF) :
    Traps (.spawn h f) s s g { cause := 3, sub := 0 } :=
  traps_of_preFault (exec_spawn h f s) hcur hg (preFault_spawn hl h f) rfl

theorem spawnFrom_done {s s2 : State} {g : Group} {entry : W64} {p timer : Nat} {ts : List Nat} (h : deposits g entry p timer ts 0 s = (s2, [])) :
    spawnFrom s g entry p timer ts = s2 := by
  rw [spawnFrom, h]

theorem spawnFrom_parks {s s2 : State} {g : Group} {entry : W64} {p timer : Nat} {ts rest : List Nat}
    (h : deposits g entry p timer ts 0 s = (s2, rest)) (hrest : rest ≠ []) :
    spawnFrom s g entry p timer ts = setGroup s2 (parkGroup s2 g (.spawn entry p timer (maskOf rest))) := by
  rw [spawnFrom, h]
  cases rest with
  | nil => exact absurd rfl hrest
  | cons => rfl

/-- A group-wide instruction that parks its group. -/
theorem wide_parks {i : Instr} {s s' s0 : State} {g : Group} {h : Hd} {k : Group → State → GOut} {p : Park} (hx : exec i s = wideOp i h k s)
    (hr : Runs s g i) (hw : wideActs g h = true) (hk : k g s = .done (setGroup s' (parkGroup s0 g p))) (hs : groupOf s' g.id = some g) :
    Moves i s s' g { g with st := .parked, park := some p } := by
  have ho := parkGroup_outside s0 g p
  have hn : lineNo (parkGroup s0 g p) = lineNo g := by
    funext r
    rw [lineNo, lineNo, outside_field (fun x => x.handler) (fun _ => rfl) ho, outside_field (fun x => x.nregs) (fun _ => rfl) ho]
  exact moves_congr ho (wide_moves hx hr hw (.inr ⟨hk, rfl⟩) hs (outside_field (fun x => x.id) (fun _ => rfl) ho :)
    (outside_field (fun x => x.ll) (fun _ => rfl) ho :) hn (fun n => readLine_flushWin s' s0 g n))

theorem groupOf_translated {s s1 : State} {c k ctx va id : Nat} {acc : Acc} {r : Except TrapInfo Phys} {x : Group} (hx : groupOf s id = some x)
    (ht : translate s c (some k) ctx va acc = (s1, r)) : groupOf s1 id = some x := by
  have hxl := xl_translate s c (some k) ctx va acc
  rw [ht] at hxl
  rwa [groupOf, hxl.groups]

section
variable {s s1 : State} {g : Group} {h : Hd} {f : CF} (hr : Runs s g (.spawn h f)) (hw : wideActs g h = true)
include hr hw

theorem spawn_misaligned (ha : spawnEntry f g % 8 ≠ 0) :
    Traps (.spawn h f) s s g { cause := 0x0F, sub := 0, addr := BitVec.ofNat 64 (spawnEntry f g) } :=
  wide_traps (exec_spawn h f s) hr hw (if_pos ha) hr.2.1

variable (ha : spawnEntry f g % 8 = 0)
include ha

theorem spawn_untranslated {e : TrapInfo}
    (ht : translate s g.cluster (some g.core) g.ctx (spawnEntry f g) .fetch = (s1, .error e)) :
    Traps (.spawn h f) s s1 g { cause := 0x0F, sub := 0, addr := BitVec.ofNat 64 (spawnEntry f g) } := by
  refine wide_traps (exec_spawn h f s) hr hw ?_ (groupOf_translated hr.2.1 ht)
  rw [spawnOp]
  dsimp only
  rw [if_neg (not_not_intro ha), ht]
  rfl

section
variable {ph : Phys} {s2 : State} {rest : List Nat}
  (ht : translate s g.cluster (some g.core) g.ctx (spawnEntry f g) .fetch = (s1, .ok ph))
  (hd : deposits g (BitVec.ofNat 64 (spawnEntry f g)) (f.fl 0 11) (2 ^ (10 + f.asrc.toNat))
    (spawnThreads f g) 0 s1 = (s2, rest))

omit hr hw in
include ht in
theorem spawnOp_translated : spawnOp f g s = .done (spawnFrom s1 g (BitVec.ofNat 64 (spawnEntry f g)) (f.fl 0 11)
    (2 ^ (10 + f.asrc.toNat)) (spawnThreads f g)) := by
  rw [spawnOp]
  dsimp only
  rw [if_neg (not_not_intro ha), ht, Nat.pow_add]

omit hw ha in
include ht hd in
/-- The group stands through its deposits. -/
theorem groupOf_deposited : groupOf s2 g.id = some g := by
  have hs1 : groupOf s1 g.id = some g := groupOf_translated hr.2.1 ht
  have hs2 := groupOf_deposits (g := g) (entry := BitVec.ofNat 64 (spawnEntry f g)) (p := f.fl 0 11)
    (timer := 2 ^ (10 + f.asrc.toNat)) (spawnThreads f g) 0 hs1
  rwa [hd] at hs2

include ht hd

theorem spawn_deposits (hrest : rest = []) : Does (.spawn h f) s s2 g g [] := by
  subst hrest
  refine wide_state (exec_spawn h f s) hr hw ?_ (groupOf_deposited hr ht hd)
  rw [spawnOp_translated ha ht, spawnFrom_done hd]

theorem spawn_parks (hrest : rest ≠ []) : Moves (.spawn h f) s s2 g { g with st := .parked, park := some (.spawn
    (BitVec.ofNat 64 (spawnEntry f g)) (f.fl 0 11) (2 ^ (10 + f.asrc.toNat)) (maskOf rest)) } := by
  refine wide_parks (s0 := s2) (exec_spawn h f s) hr hw ?_ (groupOf_deposited hr ht hd)
  rw [spawnOp_translated ha ht, spawnFrom_parks hd hrest]
end
end

theorem spawnDeposits : Claims.SpawnDeposits := by
  refine ⟨fun s g h f hcur hg hl => spawn_illegal hcur hg hl h f, fun s g h f hr => ⟨?idle, ?misaligned, ?untranslated, ?deposits⟩,
    fun s g entry p timer n t hc => ⟨?holds, ?fills, ?opens, ?refused, ?evicts⟩⟩
  case idle => exact wide_idle (exec_spawn h f s) hr
  case misaligned => exact fun hw ha => spawn_misaligned hr hw ha
  case untranslated => exact fun hw ha s1 ⟨e, ht⟩ => spawn_untranslated hr hw ha ht
  case deposits => exact fun hw ha s1 ph s2 rest ht hd => ⟨spawn_deposits hr hw ha ht hd, spawn_parks hr hw ha ht hd⟩
  case holds =>
    intro b hfind hroom
    exact ⟨_, (deposit_found timer n hfind).trans (congrArg some (appendBin_holds s hroom _)), bins_binHeld hc .., rfl⟩
  case fills =>
    intro b hfind hfull
    have hc' : g.cluster < (binHeld s g b (payOf s g p t)).clusters.length := by
      rwa [binHeld, onCluster_clusters, List.length_modify]
    exact ⟨_, _, (deposit_found timer n hfind).trans (congrArg some (appendBin_fills s hfull _)), bins_binHeld hc .., rfl,
      binLaunched_launchBin hc' _⟩
  case opens =>
    intro num hfind hnum hfree hbelow hwidth
    exact ⟨_, (deposit_opens timer n hfind (freeBin_eq_some hnum hfree hbelow)).trans (congrArg some (appendBin_opened timer n s hwidth)), rfl,
      bins_binHeld hc ..⟩
  case refused => exact fun hfind hfull hr => deposit_refused timer n hfind (freeBin_eq_none hfull) hr
  case evicts =>
    intro b hfind hfull hr hwidth hold
    exact ⟨_, _, binLaunched_launchBin hc b,
      (deposit_evicts timer n hfind (freeBin_eq_none hfull) hr hold).trans (congrArg some (appendBin_opened timer n _ hwidth)), rfl⟩

/-! ### BINFL and the timers of bins -/

/-- A bin number is passed over where no bin of that number is selected. -/
theorem launchNumber_idle {s : State} {c n : Nat} {p : Bin → Bool} (h : ∀ x ∈ (clusterAt s c).bins, x.num = n → p x = false) :
    launchNumber c p s n = s := by
  rw [launchNumber]
  split
  next x hx => rw [h x (List.mem_of_find?_eq_some hx) (by simpa using List.find?_some hx)]; rfl
  next => rfl

theorem foldl_launchNumber_idle {s : State} {c : Nat} {p : Bin → Bool} {ns : List Nat}
    (h : ∀ n ∈ ns, ∀ x ∈ (clusterAt s c).bins, x.num = n → p x = false) : ns.foldl (launchNumber c p) s = s :=
  List.foldlRecOn (motive := fun t => t = s) ns _ rfl fun _ ht n hn => by rw [ht, launchNumber_idle (h n hn)]

theorem launchBins_none {s : State} {c : Nat} {p : Bin → Bool} (h : ∀ x ∈ (clusterAt s c).bins, p x = false) : launchBins s c p = s := by
  rw [launchBins_eq]
  exact foldl_launchNumber_idle fun _ _ x hx _ => h x hx

/-- Where one bin alone is selected, it alone is launched. -/
theorem launchBins_single {s : State} {c : Nat} {p : Bin → Bool} {b : Bin} (hc : c < s.clusters.length) (hb : b ∈ (clusterAt s c).bins)
    (hnum : b.num < 64) (hp : p b = true) (hother : ∀ x ∈ (clusterAt s c).bins, x ≠ b → p x = false ∧ x.num ≠ b.num) :
    launchBins s c p = launchBin s c b := by
  obtain ⟨before, after, hsplit, hnot⟩ := List.eq_append_cons_of_mem (List.mem_range.mpr hnum)
  have hfind : (clusterAt s c).bins.find? (fun x => decide (x.num = b.num)) = some b := by
    cases hf : (clusterAt s c).bins.find? (fun x => decide (x.num = b.num)) with
    | none => exact absurd (List.find?_eq_none.mp hf b hb) (by simp)
    | some x =>
      by_contra hne
      exact (hother x (List.mem_of_find?_eq_some hf) (fun e => hne (congrArg some e))).2 (by simpa using List.find?_some hf)
  have hbefore : before.foldl (launchNumber c p) s = s :=
    foldl_launchNumber_idle fun n hn x hx hxn => (hother x hx (fun e => hnot (e ▸ hxn ▸ hn))).1
  have hlaunch : launchNumber c p s b.num = launchBin s c b := by
    rw [launchNumber, hfind]
    exact if_pos hp
  have hafter : after.foldl (launchNumber c p) (launchBin s c b) = launchBin s c b := by
    refine foldl_launchNumber_idle fun n _ x hx _ => ?_
    rw [bins_launchBin hc, List.mem_filter, decide_eq_true_eq] at hx
    exact (hother x hx.1 (fun e => hx.2 (congrArg Bin.num e))).1
  rw [launchBins_eq, hsplit, List.foldl_append, List.foldl_cons, hbefore, hlaunch, hafter]

/-- The bins that BINFL selects (06 R142), of those that its form p names. -/
def selected (s : State) (g : Group) (p : Group → Bin → Bool) (b : Bin) : Bool :=
  decide (some b.launch = g.launch) && (!isReplay s g.ctx || decide (b.replay = some (g.team, g.idx))) && p g b

theorem selected_iff (s : State) (g : Group) (p : Group → Bin → Bool) (b : Bin) : selected s g p b = true ↔
    some b.launch = g.launch ∧ (isReplay s g.ctx = true → b.replay = some (g.team, g.idx)) ∧ p g b = true := by
  cases hy : isReplay s g.ctx <;> simp [selected, and_assoc, hy]

/-- Each form of BINFL is one operation on the bins that the form names. -/
theorem exec_binfl {h : Hd} {f : CF} {i : Instr} (hi : i = .binfl h f ∨ i = .binflAll h f) :
    ∃ p, (∀ s, exec i s = binflOp i h p s) ∧
      ∀ g b, p g b = true ↔ (i = .binfl h f → b.entry.toNat = va57 (g.s.getD f.sdesc.toNat 0)) := by
  obtain rfl | rfl := hi
  · refine ⟨_, fun _ => rfl, fun g b => ?_⟩
    have hva : va57 (g.s.getD f.sdesc.toNat 0) < 2 ^ 64 := (va_lt _).trans (by decide)
    rw [decide_eq_true_eq, ← BitVec.toNat_inj, BitVec.toNat_ofNat, Nat.mod_eq_of_lt hva]
    simp
  · exact ⟨_, fun _ => rfl, fun g b => by simp⟩

section
variable {i : Instr} {h : Hd} {p : Group → Bin → Bool} {s : State} {g : Group} (hx : exec i s = binflOp i h p s) (hr : Runs s g i)
include hx hr

theorem binfl_illegal (hl : g.launch = none) : Traps i s s g { cause := 3, sub := 0 } :=
  traps_at hx hr (if_pos (by rw [hl]; rfl)) hr.2.1

theorem binfl_launches (hl : g.launch ≠ none) (hw : wideActs g h = true)
    (hg : groupOf (launchBins s g.cluster (selected s g p)) g.id = some g) : Does i s (launchBins s g.cluster (selected s g p)) g g [] := by
  refine does_state hx hr ((if_neg (by simpa using hl)).trans ?_) hg
  rw [hw]
  rfl
end

theorem exec_binTimerExpire {s : State} {c n : Nat} {b : Bin} (hb : (clusterAt s c).bins.find? (fun b => decide (b.num = n)) = some b)
    (hr : b.replay = none) (ht : b.start + b.timer ≤ cyclesOf s c) : exec (.binTimerExpire c n) s = .next (launchBin s c b) := by
  have hx : exec (.binTimerExpire c n) s = execBinTimerExpire c n s := rfl
  rw [hx, execBinTimerExpire, hb, onSome]
  exact if_pos (by simp [binDue, hr, ht])

theorem binsAreLaunched : Claims.BinsAreLaunched := by
  refine ⟨fun s g h f i hi hr => ?_, fun s c n b hc hb hr ht => ⟨_, exec_binTimerExpire hb hr ht, binLaunched_launchBin hc b⟩⟩
  obtain ⟨p, hx, hp⟩ := exec_binfl hi
  have hmine (b : Bin) : selected s g p b = true ↔ some b.launch = g.launch ∧
      (isReplay s g.ctx = true → b.replay = some (g.team, g.idx)) ∧ (i = .binfl h f → b.entry.toNat = va57 (g.s.getD f.sdesc.toNat 0)) := by
    rw [selected_iff, hp]
  have hnot {b : Bin} (hn : ¬ _) : selected s g p b = false := Bool.eq_false_iff.mpr (mt (hmine b).mp hn)
  refine ⟨binfl_illegal (hx s) hr, fun hl hw => ⟨fun hnone => ?_, fun b hc hb hnum hb' hother => ?_⟩⟩
  · have he := launchBins_none (fun x hmem => hnot (hnone x hmem))
    have hd := binfl_launches (hx s) hr hl hw (he.symm ▸ hr.2.1)
    rwa [he] at hd
  · have he := launchBins_single hc hb hnum ((hmine b).mpr hb') (fun x hmem hne => ⟨hnot (hother x hmem hne).1, (hother x hmem hne).2⟩)
    have hd := binfl_launches (hx s) hr hl hw (he.symm ▸ groupOf_launchBin hr.2.1 _ b)
    rw [he] at hd
    exact ⟨_, binLaunched_launchBin hc b, hd⟩

/-- Settles O25: each deposit only adds to a bin or opens one, and each launch adds one group and leaves the others as they are. -/
theorem spawnedThreads : Obligations.SpawnedThreads := ⟨spawnDeposits, binsAreLaunched⟩

end Sys2Proof.Proofs

namespace Sys2Proof.Proofs
open Sys2Proof.Machine Sys2Proof.Laws Sys2Proof.Claims

/-! ## The vector instructions (O1 to O5)

A vector instruction whose result is written at once is `vecOp` of one evaluation, and `vecOp_rule` says what `vecOp` does. What is
left for a row of the tables of 07 is that its evaluation is the row's formula and that it names no register but the destination's. The
lemmas below have one form of destination each. The model's evaluation of most rows is the row's formula by unfolding, which is the
default of their arguments; a row for which it is not has a lemma of its own. -/

/-- An instruction that writes n registers from d on, where its evaluation gives words for no others. -/
theorem vectorRule_span {i : Instr} {h : Hd} {E : State → Group → Nat → ThreadOut} {d n : Nat} (hx : ∀ s, exec i s = vecOp i h E s)
    (hd : vwrites i = [(d, n)]) (hr : ∀ s g t, ∀ w ∈ (E s g t).regs, w.1 ∈ spanRegs [(d, n)]) : VectorRule i h E :=
  vecOp_rule hx (by rw [hd]; exact Nat.le_refl 1) (fun s g t w hw => by rw [hd]; exact hr s g t w hw)

/-- An instruction that writes a predicate alone. -/
theorem vectorRule_pred {i : Instr} {h : Hd} {p : Nat} {b : State → Group → Nat → Bool} {fl : State → Group → Nat → Flags}
    (hx : ∀ s, exec i s = vecOp i h (fun s g t => outP p (b s g t) (fl s g t)) s) (hd : vwrites i = []) :
    VectorRule i h (fun s g t => outP p (b s g t) (fl s g t)) :=
  vecOp_rule hx (by rw [hd]; exact Nat.zero_le 1) (fun _ _ _ _ hw => absurd hw List.not_mem_nil)

/-- The register at an offset below the number of a span's registers. -/
theorem mem_span {d n k : Nat} (h : k < n) : d + k ∈ spanRegs [(d, n)] := by
  simpa [spanRegs] using h

/-- A destination of one register. -/
theorem reg_mem {d n k : Nat} (h : k < n) {x : W32} {w : Nat × W32} (hw : w ∈ [(d + k, x)]) : w.1 ∈ spanRegs [(d, n)] := by
  obtain rfl := List.mem_singleton.mp hw
  exact mem_span h

/-- A destination in the type of the instruction. -/
theorem holdW_mem {ty : Ty} {d v : Nat} {w : Nat × W32} (h : w ∈ holdW ty d v) : w.1 ∈ spanRegs [(d, ty.regs)] := wordsFrom_mem h

@[inherit_doc holdW_mem] theorem holdI_mem {ty : Ty} {d : Nat} {v : Int} {w : Nat × W32} (h : w ∈ holdI ty d v) :
    w.1 ∈ spanRegs [(d, ty.regs)] := wordsFrom_mem h

section
variable {i : Hd → VF → Instr}

theorem intRule {v : State → Group → VF → Nat → Int}
    (hx : ∀ h f s, exec (i h f) s = vecOp (i h f) h (fun s g t => outI f.t f.sat f.d.toNat (v s g f t)) s := by intros; rfl)
    (hd : ∀ h f, vwrites (i h f) = [(f.d.toNat, f.t.regs)] := by intros; rfl) : IntRule i v :=
  fun h f => vectorRule_span (hx h f) (hd h f) (fun _ _ _ _ => outI_mem)

theorem bitRule {v : State → Group → VF → Nat → Nat}
    (hx : ∀ h f s, exec (i h f) s = vecOp (i h f) h (fun s g t => outW (holdW f.t f.d.toNat (v s g f t % 2 ^ f.t.bits)) 0) s := by
      intros; rfl)
    (hd : ∀ h f, vwrites (i h f) = [(f.d.toNat, f.t.regs)] := by intros; rfl) : BitRule i v :=
  fun h f => vectorRule_span (hx h f) (hd h f) (fun _ _ _ _ => holdW_mem)

theorem wordRule {v : State → Group → VF → Nat → Nat} (n : VF → Nat) (hn : ∀ f, 1 ≤ n f)
    (hx : ∀ h f s, exec (i h f) s = vecOp (i h f) h (fun s g t => outW (hold1 f.d.toNat (v s g f t)) 0) s := by intros; rfl)
    (hd : ∀ h f, vwrites (i h f) = [(f.d.toNat, n f)] := by intros; rfl) : WordRule i v :=
  fun h f => vectorRule_span (hx h f) (hd h f) (fun _ _ _ _ => hold1_mem (hn f))

theorem immRule {i : Hd → IF → Instr} {v : W32 → BitVec 24 → W32}
    (hx : ∀ h f s, exec (i h f) s = vecOp (i h f) h (fun s g t => outW [(f.d.toNat, v (readV s g f.a.toNat t) f.imm)] 0) s := by
      intros; rfl)
    (hd : ∀ h f, vwrites (i h f) = [(f.d.toNat, 1)] := by intros; rfl) : ImmRule i v :=
  fun h f => vectorRule_span (hx h f) (hd h f) (fun _ _ _ _ => reg_mem (k := 0) Nat.one_pos)

end

/-! ## The integer instructions (O1) -/

theorem readT_lt (s : State) (g : Group) (ty : Ty) (r t : Nat) : readT s g ty r t < 2 ^ ty.bits := Nat.mod_lt _ (Nat.two_pow_pos _)

theorem carryIn_nonneg (g : Group) (f : VF) (t : Nat) : 0 ≤ carryIn g f t := by
  rw [carryIn]
  split <;> decide

/-- What an addition with a carry takes out of its type is a carry, and never a borrow; with a subtraction it is the reverse. -/
theorem carryOut_add {n x y : Nat} {c : Int} (hc : 0 ≤ c) :
    decide ((x : Int) + y + c < 0 ∨ 2 ^ n ≤ (x : Int) + y + c) = decide (2 ^ n ≤ (x : Int) + y + c) :=
  decide_eq_decide.mpr (or_iff_right (by omega))

@[inherit_doc carryOut_add] theorem carryOut_sub {n x y : Nat} {c : Int} (hx : x < 2 ^ n) (hc : 0 ≤ c) :
    decide ((x : Int) - y - c < 0 ∨ 2 ^ n ≤ (x : Int) - y - c) = decide ((x : Int) - y - c < 0) := by
  have hx' : (x : Int) < 2 ^ n := by exact_mod_cast hx
  exact decide_eq_decide.mpr (or_iff_left (by omega))

theorem carryOp_add (f : VF) (s : State) (g : Group) (t : Nat) : carryOp f (fun x y c => x + y + c) s g t =
    let r : Int := bx s g f t + by_ s g f t + carryIn g f t
    ⟨holdI f.t f.d.toNat r, [(f.sub.toNat % 8, decide (2 ^ f.t.bits ≤ r))], 0⟩ := by
  rw [carryOp, carryOut_add (carryIn_nonneg g f t)]
  rfl

theorem carryOp_sub (f : VF) (s : State) (g : Group) (t : Nat) : carryOp f (fun x y c => x - y - c) s g t =
    let r : Int := bx s g f t - by_ s g f t - carryIn g f t
    ⟨holdI f.t f.d.toNat r, [(f.sub.toNat % 8, decide (r < 0))], 0⟩ := by
  rw [carryOp, carryOut_sub (readT_lt ..) (carryIn_nonneg g f t)]
  rfl

theorem integerArithmetic : Claims.IntegerArithmetic := by
  refine ⟨intRule, intRule, intRule, intRule, intRule, intRule, intRule, intRule, intRule, intRule, intRule, ?imadw, ?isad⟩
  case imadw => exact fun h f => vectorRule_span (fun _ => rfl) rfl (fun _ _ _ _ => wordsFrom_mem)
  case isad => exact fun h f => vectorRule_span (fun _ => rfl) rfl (fun _ _ _ _ hw => span_mono (regs_pos f.t) (outI_mem hw))

theorem carryAndDivision : Claims.CarryAndDivision := by
  refine ⟨fun h f => ?iaddc, fun h f => ?isubb, fun h f => ?idiv, fun h f => ?irem⟩
  case iaddc => exact vectorRule_span (vecOp_congr (carryOp_add f)) rfl (fun _ _ _ _ => holdI_mem)
  case isubb => exact vectorRule_span (vecOp_congr (carryOp_sub f)) rfl (fun _ _ _ _ => holdI_mem)
  case idiv =>
    refine vectorRule_span (fun _ => rfl) rfl (fun s g t w hw => ?_)
    split at hw
    · exact holdI_mem hw
    · exact outI_mem hw
  case irem =>
    refine vectorRule_span (fun _ => rfl) rfl (fun s g t w hw => ?_)
    split at hw <;> exact holdI_mem hw

/-- Settles O1: each row is one evaluation of a thread; only of the carries a side is left out that cannot be. -/
theorem integerResults : Obligations.IntegerResults := ⟨integerArithmetic, carryAndDivision⟩

/-! ## The instructions on bits, the compares and the immediates (O2) -/

/-- SEL takes x where its predicate differs from the bit that negates it, else y. -/
theorem selOp_eq (f : VF) (s : State) (g : Group) (t : Nat) : selOp f s g t = outW (holdW f.t f.d.toNat
    (if (predMask g (f.sub.toNat % 8)).getLsbD t = f.sub.getLsbD 3 then by_ s g f t else bx s g f t)) 0 := by
  unfold selOp bx by_
  cases (predMask g (f.sub.toNat % 8)).getLsbD t <;> cases f.sub.getLsbD 3 <;> rfl

theorem bitInstructions : Claims.BitInstructions := by
  have one : ∀ _ : VF, 1 ≤ 1 := fun _ => Nat.le_refl 1
  have typed : ∀ f : VF, 1 ≤ f.t.regs := fun f => regs_pos f.t
  refine ⟨bitRule, bitRule, bitRule, bitRule, bitRule, bitRule, bitRule, bitRule, bitRule, bitRule, bitRule,
    wordRule _ typed, wordRule _ one, wordRule _ one, wordRule _ one, wordRule _ typed,
    fun h f => ?sel, fun h f => ?bfx, fun h f => ?bfi⟩
  case sel => exact vectorRule_span (vecOp_congr (selOp_eq f)) rfl (fun _ _ _ _ => holdW_mem)
  case bfx => exact vectorRule_span (fun _ => rfl) rfl (fun _ _ _ _ => holdI_mem)
  case bfi => exact vectorRule_span (fun _ => rfl) rfl (fun _ _ _ _ => holdW_mem)

theorem comparesAndImmediates : Claims.ComparesAndImmediates := by
  refine ⟨?icmp, immRule, immRule, immRule, immRule, immRule, immRule, immRule, ?icmpi, ?movi, ?movhi⟩
  case icmp => exact fun h f => vectorRule_pred (fun _ => rfl) rfl
  case icmpi => exact fun h f => vectorRule_pred (fun _ => rfl) rfl
  case movi => exact fun h f => vectorRule_span (fun _ => rfl) rfl (fun _ _ _ _ => reg_mem (k := 0) Nat.one_pos)
  case movhi => exact fun h f => vectorRule_span (fun _ => rfl) rfl (fun _ _ _ _ => reg_mem (k := 1) Nat.one_lt_two)

/-- Settles O2: each row is one evaluation of a thread. -/
theorem bitsAndCompares : Obligations.BitsAndCompares := ⟨bitInstructions, comparesAndImmediates⟩

end Sys2Proof.Proofs

namespace Sys2Proof.Proofs
open Sys2Proof.Machine Sys2Proof.Laws Sys2Proof.Claims

/-! ## The float, packed and dot-product instructions (O3) -/

section
variable {i : Hd → VF → Instr}

theorem fltRule {v : FFmt → RMode → State → Group → VF → Nat → Nat × Flags}
    (hx : ∀ h f s, exec (i h f) s =
      vecOp (i h f) h (fun s g t => outF f.t f.d.toNat (v (fmtOf f.t) (modeOf g f f.t) s g f t)) s := by intros; rfl)
    (hd : ∀ h f, vwrites (i h f) = [(f.d.toNat, f.t.regs)] := by intros; rfl) : FltRule i v :=
  fun h f => vectorRule_span (hx h f) (hd h f) (fun _ _ _ _ => holdW_mem)

theorem signRule {v : Nat → Nat → Nat → Nat}
    (hx : ∀ h f s, exec (i h f) s = vecOp (i h f) h (fun s g t =>
      outW (holdW f.t f.d.toNat (v (2 ^ (f.t.bits - 1)) (bx s g f t) (by_ s g f t))) 0) s := by intros; rfl)
    (hd : ∀ h f, vwrites (i h f) = [(f.d.toNat, f.t.regs)] := by intros; rfl) : SignRule i v :=
  fun h f => vectorRule_span (hx h f) (hd h f) (fun _ _ _ _ => holdW_mem)

theorem pairRule {v : FFmt → RMode → (BitVec 11 → FVal) → VF → Nat × Flags}
    (hx : ∀ h f s, exec (i h f) s = vecOp (i h f) h (fun s g t =>
      let e := fun k => v (fmtOf f.t) (modeOf g f f.t) (fun r => readH s g f.t r.toNat t k) f
      outH f.d.toNat (e 0) (e 1)) s := by intros; rfl)
    (hd : ∀ h f, vwrites (i h f) = [(f.d.toNat, f.t.regs)] := by intros; rfl) : PairRule i v :=
  fun h f => vectorRule_span (hx h f) (hd h f) (fun _ _ _ _ => hold1_mem (regs_pos f.t))

end

theorem floatArithmetic : Claims.FloatArithmetic := by
  refine ⟨fltRule, fltRule, fltRule, fltRule, fltRule, fltRule, fltRule, fltRule, fltRule, signRule, signRule, signRule, ?fcmp,
    wordRule _ (fun _ => Nat.le_refl 1), fltRule, fltRule, fltRule, ?fexpn⟩
  case fcmp => exact fun h f => vectorRule_pred (fun _ => rfl) rfl
  case fexpn => exact fun h f => vectorRule_span (fun _ => rfl) rfl (fun _ _ _ _ => holdI_mem (ty := .s32))

theorem packedAndDotProducts : Claims.PackedAndDotProducts := by
  refine ⟨pairRule, pairRule, pairRule, pairRule, pairRule, fun h f => ?dot2h, fun h f => ?dot4, fun h f => ?dot8⟩
  case dot2h => exact vectorRule_span (fun _ => rfl) rfl (fun _ _ _ _ hw => span_mono (regs_pos f.t) (holdW_mem (ty := .f32) hw))
  case dot4 => exact vectorRule_span (fun _ => rfl) rfl (fun _ _ _ _ hw => span_mono (regs_pos f.t) (outI_mem (ty := .s32) hw))
  case dot8 => exact vectorRule_span (fun _ => rfl) rfl (fun _ _ _ _ hw => span_mono (regs_pos f.t) (outI_mem (ty := .s32) hw))

/-- Settles O3: each row is one evaluation of a thread; what it rounds to is the model's arithmetic. -/
theorem floatResults : Obligations.FloatResults := ⟨floatArithmetic, packedAndDotProducts⟩

/-! ## The conversions (O4) -/

/-- An element of PK4I in its type (07 R160). -/
def pk4iElem (f : VF) (s : State) (g : Group) (t k : Nat) : Int × Flags :=
  saturate f.t f.sat (readI s g (if f.t = .u8 then .u32 else .s32) (f.a.toNat + k) t)

/-- PK4I packs its elements one above the other and gives the flags of all. -/
theorem pk4iGo_eq (f : VF) (s : State) (g : Group) (t n : Nat) : pk4iGo f s g t n =
    ((List.range n).foldl (fun w k => w + wrapNat f.t.bits (pk4iElem f s g t k).1 * 2 ^ (f.t.bits * k)) 0,
      (List.range n).foldl (fun fl k => fl ||| (pk4iElem f s g t k).2) 0) := by
  induction n with
  | zero => rfl
  | succ n ih =>
    rw [pk4iGo, ih, List.range_succ, List.foldl_append, List.foldl_append]
    rfl

theorem pk4iOp_eq (f : VF) (s : State) (g : Group) (t : Nat) : pk4iOp f s g t =
    outW (hold1 f.d.toNat ((List.range (32 / f.t.bits)).foldl
        (fun w k => w + wrapNat f.t.bits (pk4iElem f s g t k).1 * 2 ^ (f.t.bits * k)) 0))
      ((List.range (32 / f.t.bits)).foldl (fun fl k => fl ||| (pk4iElem f s g t k).2) 0) := by
  rw [pk4iOp, pk4iGo_eq]

/-- UNPK4I has as many elements as fit in one register, all of which are registers of its destination. -/
theorem vwrites_unpk4i (h : Hd) (f : VF) : ∃ n, vwrites (.unpk4i h f) = [(f.d.toNat, n)] ∧ 32 / f.t.bits ≤ n := by
  have hw : vwrites (.unpk4i h f) = (packRegs f.t).span f.d := rfl
  rw [hw]
  cases f.t <;> exact ⟨_, rfl, by decide⟩

theorem vwrites_shpack (h : Hd) (f : VF) : vwrites (.shpack h f) = [(f.d.toNat, (shBytes f.t + 3) / 4)] := by
  have hw : vwrites (.shpack h f) = (sheafRegs f.t).span f.d := rfl
  rw [hw]
  cases f.t <;> rfl

theorem vectorRule_unpk4i (h : Hd) (f : VF) : VectorRule (.unpk4i h f) h (fun s g t => outW ((List.range (32 / f.t.bits)).map (fun k =>
    (f.d.toNat + k, BitVec.ofInt 32 (intVal f.t (wa s g f t / 2 ^ (f.t.bits * k)))))) 0) := by
  obtain ⟨n, hd, hn⟩ := vwrites_unpk4i h f
  refine vectorRule_span (fun _ => rfl) hd (fun s g t w hw => ?_)
  obtain ⟨k, hk, rfl⟩ := List.mem_map.mp hw
  exact mem_span ((List.mem_range.mp hk).trans_le hn)

theorem vectorRule_shunpk (h : Hd) (f : VF) : VectorRule (.shunpk h f) h (fun s g t =>
    outW ((shUnpack f.t (readVs s g f.a.toNat ((shBytes f.t + 3) / 4) t)).zipIdx.map (fun p =>
      (f.d.toNat + p.2, BitVec.ofNat 32 (fPut fmtF32 ⟨.rne, false, false⟩ p.1).1))) 0) := by
  refine vectorRule_span (fun _ => rfl) rfl (fun s g t w hw => ?_)
  obtain ⟨p, hp, rfl⟩ := List.mem_map.mp hw
  have hlt := List.snd_lt_of_mem_zipIdx hp
  rw [shUnpack, List.length_map, List.length_range] at hlt
  exact mem_span hlt

/-- Settles O4: each row is one evaluation of a thread; those that pack and unpack name as many registers as their types take. -/
theorem conversions : Obligations.Conversions := by
  unfold Obligations.Conversions
  refine ⟨fun h f => ?cvtff, fun h f => ?cvtfi, fun h f => ?cvtif, fun h f => ?cvtii, fun h f => ?pk2, fun h f => ?unpk2, fun h f => ?pk4i,
    vectorRule_unpk4i, fun h f => ?shpack, vectorRule_shunpk⟩
  case cvtff => exact vectorRule_span (fun _ => rfl) rfl (fun _ _ _ _ => holdW_mem)
  case cvtfi => exact vectorRule_span (fun _ => rfl) rfl (fun _ _ _ _ => holdI_mem)
  case cvtif => exact vectorRule_span (fun _ => rfl) rfl (fun _ _ _ _ => holdW_mem)
  case cvtii => exact vectorRule_span (fun _ => rfl) rfl (fun _ _ _ _ => outI_mem)
  case pk2 => exact vectorRule_span (fun _ => rfl) rfl (fun _ _ _ _ => hold1_mem (Nat.le_refl 1))
  case unpk2 =>
    refine vectorRule_span (d := f.d.toNat) (n := 2) (fun _ => rfl) rfl (fun s g t w hw => ?_)
    obtain rfl | hw := List.mem_cons.mp hw
    · exact mem_span (k := 0) Nat.two_pos
    · exact reg_mem (k := 1) Nat.one_lt_two hw
  case pk4i => exact vectorRule_span (vecOp_congr (pk4iOp_eq f)) rfl (fun _ _ _ _ => hold1_mem (Nat.le_refl 1))
  case shpack => exact vectorRule_span (fun _ => rfl) (vwrites_shpack h f) (fun _ _ _ _ => wordsFrom_mem)

/-! ## The instructions across the threads of a group (O5) -/

/-! ### Masks and the lists of their threads -/

theorem threads_filter (m n : TMask) (p : Nat → Bool) (h : ∀ t < 64, n.getLsbD t = (m.getLsbD t && p t)) :
    (threads m).filter p = threads n := by
  rw [threads, threads, List.filter_filter]
  exact List.filter_congr (fun t ht => by rw [h t (List.mem_range.mp ht), Bool.and_comm])

theorem maskOf_threads (m : TMask) : maskOf (threads m) = m := by
  refine BitVec.eq_of_getLsbD_eq (fun t ht => ?_)
  rw [maskOf_bit _ _ ht]
  simp [mem_threads, ht]

theorem threads_inj {m n : TMask} : threads m = threads n ↔ m = n :=
  ⟨fun h => by rw [← maskOf_threads m, h, maskOf_threads], fun h => by rw [h]⟩

theorem threads_eq_nil {m : TMask} : threads m = [] ↔ m = 0 := by
  have h0 : threads 0 = [] := by simp [threads]
  rw [← h0, threads_inj]

/-- In an ascending list the elements below one of them are those before it. -/
theorem filter_lt_of_sorted {before after : List Nat} {t : Nat} (h : (before ++ t :: after).Pairwise (· < ·)) :
    (before ++ t :: after).filter (fun u => decide (u < t)) = before := by
  obtain ⟨-, hafter, hbefore⟩ := List.pairwise_append.mp h
  have hlt : ∀ u ∈ before, u < t := fun u hu => hbefore u hu t List.mem_cons_self
  have hge : ∀ u ∈ t :: after, ¬ u < t := by
    intro u hu
    obtain rfl | hu := List.mem_cons.mp hu
    · exact Nat.lt_irrefl u
    · exact Nat.lt_asymm (List.rel_of_pairwise_cons hafter hu)
  rw [List.filter_append, List.filter_eq_self.mpr (fun u hu => decide_eq_true (hlt u hu)),
    List.filter_eq_nil_iff.mpr (fun u hu => by rw [decide_eq_true_eq]; exact hge u hu), List.append_nil]

/-! ### Shuffles, votes and ballots -/

theorem srcAt_eq (f : VF) (s : State) (g : Group) (j : Int) (t : Nat) : srcAt f s g j t = from_ s g f t j := by
  simp only [srcAt, from_, isActive, Bool.and_eq_true, decide_eq_true_eq, and_assoc]

theorem vectorRule_shuf {i : Instr} {h : Hd} {f : VF} {idx : State → Group → Nat → Int} (hx : ∀ s, exec i s = vecOp i h (shufOp f idx) s)
    (hd : vwrites i = [(f.d.toNat, f.t.regs)]) :
    VectorRule i h (fun s g t => outW (holdW f.t f.d.toNat (from_ s g f t (idx s g t))) 0) :=
  vectorRule_span (fun s => (hx s).trans (vecOp_congr (fun s g t => by rw [shufOp, srcAt_eq]) s)) hd (fun _ _ _ _ => holdW_mem)

theorem bcastOp_eq (f : VF) (s : State) (g : Group) (t : Nat) : bcastOp f s g t = outW (holdW f.t f.d.toNat (bx s g f
    (if f.b.toNat < g.width ∧ g.active.getLsbD f.b.toNat then f.b.toNat else (lowest g.active).getD 0))) 0 := by
  simp only [bcastOp, bx, isActive, Bool.and_eq_true, decide_eq_true_eq]

/-- The voters as a list and as a mask. -/
theorem votes_eq (g : Group) (h : Hd) (f : VF) : votes g h f = threads (voters h f g) := by
  refine threads_filter _ _ _ (fun t ht => ?_)
  rw [voters, BitVec.getLsbD_and]
  cases f.sub.getLsbD 0 <;> simp [ht]

theorem voters_ne_zero (g : Group) (h : Hd) (f : VF) : voters h f g ≠ 0 ↔ votes g h f ≠ [] := by
  rw [votes_eq, ne_eq, ne_eq, threads_eq_nil]

theorem voters_eq_qual (g : Group) (h : Hd) (f : VF) : voters h f g = qualMask g h ↔ votes g h f = threads (qualMask g h) := by
  rw [votes_eq, threads_inj]

theorem maskOf_votes (g : Group) (h : Hd) (f : VF) : maskOf (votes g h f) = voters h f g := by rw [votes_eq, maskOf_threads]

theorem crossThread : Claims.CrossThread := by
  refine ⟨fun h f => vectorRule_shuf (fun _ => rfl) rfl, fun h f => vectorRule_shuf (fun _ => rfl) rfl,
    fun h f => vectorRule_shuf (fun _ => rfl) rfl, fun h f => vectorRule_shuf (fun _ => rfl) rfl, fun h f => ?bcast, fun h f => ?voteany, fun h f => ?voteall, fun h f => ?ballot,
    fun h f => ?matchx, fun h f => ?mrank, fun h f => ?elect⟩
  case bcast => exact vectorRule_span (vecOp_congr (bcastOp_eq f)) rfl (fun _ _ _ _ => holdW_mem)
  case voteany => exact vectorRule_pred (vecOp_congr (fun _ g _ => by rw [decide_eq_decide.mpr (voters_ne_zero g h f)])) rfl
  case voteall => exact vectorRule_pred (vecOp_congr (fun _ g _ => by rw [decide_eq_decide.mpr (voters_eq_qual g h f)])) rfl
  case ballot => exact vectorRule_span (vecOp_congr (fun _ g _ => by rw [maskOf_votes])) rfl (fun _ _ _ _ => wordsFrom_mem)
  case matchx => exact vectorRule_span (fun _ => rfl) rfl (fun _ _ _ _ => wordsFrom_mem)
  case mrank => exact vectorRule_span (fun _ => rfl) rfl (fun _ _ _ _ => holdW_mem)
  case elect => exact vectorRule_pred (fun _ => rfl) rfl

/-! ### Reduction and scan -/

/-- A fold as its trace, from a value and flags of its start. -/
def foldFrom (s : State) (g : Group) (f : VF) (a : Nat × Flags) (ts : List Nat) : Nat × Flags :=
  ts.foldl (fun a u => ((foldStep f g a.1 (bx s g f u)).1, a.2 ||| (foldStep f g a.1 (bx s g f u)).2)) a

theorem folded_eq (s : State) (g : Group) (f : VF) (ts : List Nat) : folded s g f ts = foldFrom s g f (foldId f.t (f.sub.toNat % 8), 0) ts :=
  rfl

section
variable (s : State) (g : Group) (f : VF)

/-- The flags of a trace are those of the fold. -/
theorem foldTrace_flags (ts : List Nat) (a : Nat) (fl : Flags) :
    (foldTrace f s g a ts).foldl (fun b y => b ||| y.2.2.2) fl = (foldFrom s g f (a, fl) ts).2 := by
  induction ts generalizing a fl with
  | nil => rfl
  | cons u us ih => exact ih _ _

/-- The last value of a trace is that of the fold. -/
theorem foldTrace_last (ts : List Nat) (a : Nat) (fl : Flags) :
    ((foldTrace f s g a ts).getLast?.map (fun x => x.2.2.1)).getD a = (foldFrom s g f (a, fl) ts).1 := by
  induction ts generalizing a fl with
  | nil => rfl
  | cons u us ih =>
    have hus := ih (foldStep f g a (bx s g f u)).1 (fl ||| (foldStep f g a (bx s g f u)).2)
    change _ = (foldFrom s g f _ us).1
    rw [← hus, foldTrace, List.getLast?_cons]
    change _ = (Option.map _ (foldTrace f s g (foldStep f g a (readT s g f.t f.a.toNat u)).1 us).getLast?).getD _
    cases (foldTrace f s g (foldStep f g a (readT s g f.t f.a.toNat u)).1 us).getLast? <;> rfl

/-- The step of a trace at a thread: the value before it is that of the fold over the threads before it. -/
theorem foldTrace_at {t : Nat} {before : List Nat} (ht : t ∉ before) (after : List Nat) (a : Nat) (fl : Flags) :
    (foldTrace f s g a (before ++ t :: after)).find? (fun x => decide (x.1 = t)) =
      some (t, (foldFrom s g f (a, fl) before).1, foldStep f g (foldFrom s g f (a, fl) before).1 (bx s g f t)) := by
  induction before generalizing a fl with
  | nil => exact List.find?_cons_of_pos (decide_eq_true rfl)
  | cons u us ih =>
    have hu : u ≠ t := (List.ne_of_not_mem_cons ht).symm
    exact (List.find?_cons_of_neg (by simpa using hu)).trans (ih (List.not_mem_of_not_mem_cons ht) _ _)

end

theorem redxOp_eq {h : Hd} {g : Group} {t : Nat} (ht : t ∈ threads (qualMask g h)) (f : VF) (s : State) : redxOp h f s g t =
    foldOut f (folded s g f (threads (qualMask g h))).1 (folded s g f (threads (qualMask g h))).2 := by
  obtain ⟨u, us, hts⟩ := List.exists_cons_of_ne_nil (List.ne_nil_of_mem ht)
  have hlast := foldTrace_last s g f (threads (qualMask g h)) (foldId f.t (f.sub.toNat % 8)) 0
  rw [folded_eq, ← hlast, ← foldTrace_flags, redxOp]
  split
  next x hx => rw [hx]; rfl
  next hnone =>
    rw [hts, foldTrace, List.getLast?_eq_none_iff] at hnone
    cases hnone

theorem scanxOp_eq {h : Hd} {g : Group} {t : Nat} (ht : t ∈ threads (qualMask g h)) (f : VF) (s : State) : scanxOp h f s g t =
    let before := (folded s g f ((threads (qualMask g h)).filter (fun u => decide (u < t)))).1
    let own := foldStep f g before (bx s g f t)
    foldOut f (if f.sub.getLsbD 3 then before else own.1) own.2 := by
  obtain ⟨before, after, hts, hnot⟩ := List.eq_append_cons_of_mem ht
  have hlt := filter_lt_of_sorted (hts ▸ threads_sorted (qualMask g h))
  rw [scanxOp, hts, hlt, foldTrace_at s g f hnot after _ 0, folded_eq]

theorem foldOut_mem {f : VF} {v : Nat} {fl : Flags} {w : Nat × W32} (hw : w ∈ (foldOut f v fl).regs) :
    w.1 ∈ spanRegs [(f.d.toNat, f.t.regs)] := by
  rw [foldOut] at hw
  split at hw
  · exact holdW_mem hw
  · exact holdI_mem hw

theorem reductionAndScan : Claims.ReductionAndScan := by
  refine ⟨fun h f => ?redx, fun h f => ?scanx⟩
  case redx => exact vectorRule_span (vecOp_congr_qual (fun s g t ht => redxOp_eq ht f s)) rfl (fun _ _ _ _ => foldOut_mem)
  case scanx => exact vectorRule_span (vecOp_congr_qual (fun s g t ht => scanxOp_eq ht f s)) rfl (fun _ _ _ _ => foldOut_mem)

/-- Settles O5: the votes are the threads of a mask, and a fold that keeps its trace is the fold over the threads in ascending order. -/
theorem crossThreadResults : Obligations.CrossThreadResults := ⟨crossThread, reductionAndScan⟩

end Sys2Proof.Proofs

namespace Sys2Proof.Proofs
open Sys2Proof.Machine Sys2Proof.Laws Sys2Proof.Claims

/-! ## Long-latency results (O6) -/

/-! ### A result begins -/

/-- The outstanding result of a vector instruction that writes n registers from d on, with no part yet. -/
theorem newLL_vector {i : Instr} {d n : Nat} (hd : vwrites i = [(d, n)]) (hz : ∀ g k h, (newLL i g k h).tile = none) (g : Group)
    (key : Nat) (h : Hd) : newLL i g key h =
      { key := key, left := h.la.toNat, need := 0, vregs := (List.range n).map (fun k => lineNo g (d + k)), sregs := [], pred := none,
        vec := [], scl := [], pval := false, flags := 0, uni := llUniform g i h, mask := g.active } := by
  have hv : (spanRegs [(d, n)]).map (lineNo g) = (List.range n).map (fun k => lineNo g (d + k)) := by
    rw [spanRegs, List.flatMap_singleton, List.map_map]
    rfl
  have ht := hz g key h
  simp only [newLL] at ht ⊢
  rw [hd, hv, ht]

theorem longLatencyRule {i : Hd → VF → Instr} {v : FFmt → RMode → State → Group → VF → Nat → Nat × Flags}
    (hx : ∀ h f s, exec (i h f) s =
      vecOpLL (i h f) h (fun s g t => outF f.t f.d.toNat (v (fmtOf f.t) (modeOf g f f.t) s g f t)) s := by intros; rfl)
    (hd : ∀ h f, vwrites (i h f) = [(f.d.toNat, f.t.regs)] := by intros; rfl)
    (hz : ∀ h f g k h', (newLL (i h f) g k h').tile = none := by intros; rfl) : LongLatencyRule i v := by
  intro s g h f hr os l
  refine ⟨fun hnone => ?none, fun hsome hroom => ?begins, fun hsome hfull => ?waits⟩
  case none => exact does_state (hx h f s) hr (if_pos hnone) hr.2.1
  case begins =>
    have hl : { newLL (i h f) g s.nextId h with vec := l.vec, flags := l.flags } = l := by rw [newLL_vector (hd h f) (hz h f)]
    refine begins_group (s2 := { s with nextId := s.nextId + 1 }) (hx h f s) hr ?_ hr.2.1
    rw [← hl]
    exact (if_neg hsome).trans (if_neg (Nat.not_le.mpr hroom))
  case waits => exact waits_at (hx h f s) hr ((if_neg hsome).trans (if_pos hfull))

theorem longLatencyFunctions : Claims.LongLatencyFunctions :=
  ⟨longLatencyRule, longLatencyRule, longLatencyRule, longLatencyRule, longLatencyRule, longLatencyRule, longLatencyRule,
    longLatencyRule, longLatencyRule⟩

/-! ### A result is written -/

theorem mergeLine_set {i : Nat} (x : W32) (ws : List (Nat × W32)) (l : List W32) (h : i ∈ ws.map Prod.fst) :
    mergeLine (l.set i x) ws = mergeLine l ws := by
  induction ws generalizing l with
  | nil => cases h
  | cons w ws ih =>
    change mergeLine ((l.set i x).set w.1 w.2) ws = mergeLine (l.set w.1 w.2) ws
    by_cases hi : i = w.1
    · rw [hi, List.set_set]
    · rw [List.set_comm _ _ hi]
      exact ih _ ((List.mem_cons.mp h).resolve_left hi)

/-- Words that are merged twice are merged once. -/
theorem mergeLine_twice (ws : List (Nat × W32)) (l : List W32) : mergeLine (mergeLine l ws) ws = mergeLine l ws := by
  have part : ∀ vs ⊆ ws, ∀ l, mergeLine (mergeLine l vs) ws = mergeLine l ws := by
    intro vs
    induction vs with
    | nil => exact fun _ _ => rfl
    | cons v vs ih =>
      intro hsub l
      obtain ⟨hv, hvs⟩ := List.cons_subset.mp hsub
      exact (ih hvs (l.set v.1 v.2)).trans (mergeLine_set v.2 ws l (List.mem_map_of_mem hv))
  exact part ws (List.Subset.refl ws) l

/-- The words of an outstanding result for a line. -/
def llWords (l : LL) (n : Nat) : List (Nat × W32) := (l.vec.filter (fun x => decide (x.1 = n))).map (fun x => x.2)

/-- The words of an outstanding result for one line, written into the register cache. -/
def putLine (s : State) (l : LL) (g : Group) (n : Nat) : Group :=
  if llWords l n = [] then g else cachePut s g n (mergeLine (cachedLine s g n) (llWords l n)) (llTag l (llWords l n))

/-- The uniform registers and the predicate of an outstanding result, written. -/
def putUniform (l : LL) (g : Group) : Group :=
  match l.pred with
  | some p => putPred (l.scl.foldl (fun (g : Group) (x : Nat × W64) => writeScalar g x.1 x.2) g) p l.mask (if l.pval then BitVec.allOnes 64 else 0)
  | none => l.scl.foldl (fun (g : Group) (x : Nat × W64) => writeScalar g x.1 x.2) g

theorem applyLL_eq (s : State) (g : Group) (l : LL) : applyLL s g l =
    { putUniform l (l.vregs.foldl (putLine s l) g) with
      flags := (putUniform l (l.vregs.foldl (putLine s l) g)).flags ||| l.flags,
      ll := (putUniform l (l.vregs.foldl (putLine s l) g)).ll.filter (fun x => decide (x.key ≠ l.key)) } := by
  unfold applyLL putUniform
  cases l.pred <;> rfl

theorem outside_putLine (s : State) (l : LL) (g : Group) (n : Nat) : (putLine s l g n).outside = g.outside := by
  unfold putLine
  split <;> rfl

theorem win_putLine (s : State) (l : LL) (g : Group) (n : Nat) : (putLine s l g n).win = g.win := by
  unfold putLine
  split <;> rfl

theorem outside_putLines (s : State) (l : LL) (ns : List Nat) (g : Group) : (ns.foldl (putLine s l) g).outside = g.outside :=
  List.foldlRecOn (motive := fun x : Group => x.outside = g.outside) ns _ rfl (fun x hx n _ => (outside_putLine s l x n).trans hx)

theorem win_putLines (s : State) (l : LL) (ns : List Nat) (g : Group) : (ns.foldl (putLine s l) g).win = g.win :=
  List.foldlRecOn (motive := fun x : Group => x.win = g.win) ns _ rfl (fun x hx n _ => (win_putLine s l x n).trans hx)

theorem cachedLine_putLine (s : State) (l : LL) (g : Group) (m n : Nat) : cachedLine s (putLine s l g m) n =
    if n = m then mergeLine (cachedLine s g n) (llWords l n) else cachedLine s g n := by
  by_cases hn : n = m
  · subst hn
    rw [if_pos rfl, putLine]
    split
    next hw => rw [hw, mergeLine_nil]
    next => rw [cachedLine_cachePut, if_pos rfl]
  · rw [if_neg hn, putLine]
    split
    next => rfl
    next => rw [cachedLine_cachePut, if_neg hn]

theorem cachedLine_putLines (s : State) (l : LL) (ns : List Nat) (g : Group) (n : Nat) : cachedLine s (ns.foldl (putLine s l) g) n =
    if n ∈ ns then mergeLine (cachedLine s g n) (llWords l n) else cachedLine s g n := by
  induction ns generalizing g with
  | nil => rfl
  | cons m ns ih =>
    rw [List.foldl_cons, ih, cachedLine_putLine]
    by_cases hm : n = m <;> by_cases hns : n ∈ ns <;> simp [hm, hns, mergeLine_twice]

/-- A line that the window holds reads as it is held there. -/
theorem readLine_of_held {s : State} {g g' : Group} {n : Nat} (hw : g'.win = g.win) (h : ∃ x ∈ g.win, x.reg = n) :
    readLine s g' n = readLine s g n := by
  obtain ⟨x, hx, hn⟩ := h
  obtain ⟨y, hy⟩ := Option.isSome_iff_exists.mp (List.find?_isSome (p := fun x : Held => decide (x.reg = n)).mpr ⟨x, hx, decide_eq_true hn⟩)
  rw [readLine, readLine, hw, hy]

theorem readLine_of_not_held {s : State} {g : Group} {n : Nat} (h : ∀ x ∈ g.win, x.reg ≠ n) : readLine s g n = cachedLine s g n := by
  rw [readLine, List.find?_eq_none.mpr (fun x hx => by simpa using h x hx)]

/-- A line of an outstanding result takes its words where no newer result is held (06 R128). -/
theorem readLine_putLines (s : State) (l : LL) (ns : List Nat) (g : Group) (n : Nat) : readLine s (ns.foldl (putLine s l) g) n =
    if n ∈ ns ∧ ∀ x ∈ g.win, x.reg ≠ n then mergeLine (readLine s g n) (llWords l n) else readLine s g n := by
  have hw := win_putLines s l ns g
  by_cases hheld : ∀ x ∈ g.win, x.reg ≠ n
  · rw [readLine_of_not_held (hw ▸ hheld), readLine_of_not_held hheld, cachedLine_putLines]
    exact if_congr (and_iff_left hheld).symm rfl rfl
  · have hsome : ∃ x ∈ g.win, x.reg = n := by simpa using hheld
    rw [readLine_of_held hw hsome, if_neg (fun h => hheld h.2)]

theorem outside_putPred (g : Group) (p : Nat) (sel m : TMask) : (putPred g p sel m).outside = putPred g.outside p sel m := by
  unfold putPred setPred
  split <;> rfl

theorem outside_writeScalar (g : Group) (d : Nat) (v : W64) : (writeScalar g d v).outside = writeScalar g.outside d v := by
  unfold writeScalar
  split
  · rfl
  split
  · rfl
  split
  · rfl
  · exact outside_putPred ..

theorem outside_writeScalars (xs : List (Nat × W64)) (g : Group) :
    (xs.foldl (fun (g : Group) (x : Nat × W64) => writeScalar g x.1 x.2) g).outside =
      xs.foldl (fun (g : Group) (x : Nat × W64) => writeScalar g x.1 x.2) g.outside :=
  List.foldl_hom Group.outside (fun g x => (outside_writeScalar g x.1 x.2).symm) |>.symm

theorem outside_putUniform (l : LL) (g : Group) : (putUniform l g).outside = putUniform l g.outside := by
  unfold putUniform
  split
  · rw [outside_putPred, outside_writeScalars]
  · exact outside_writeScalars ..

theorem scal_trans {g x y : Group} (h : Scal g x) (h' : Scal x y) : Scal g y :=
  ⟨h'.id.trans h.id, h'.st.trans h.st, h'.ll.trans h.ll, h'.ln.trans h.ln, fun s n => (h'.rd s n).trans (h.rd s n)⟩

theorem scal_writeScalars (xs : List (Nat × W64)) (g : Group) :
    Scal g (xs.foldl (fun (g : Group) (x : Nat × W64) => writeScalar g x.1 x.2) g) :=
  List.foldlRecOn (motive := Scal g) xs _ ⟨rfl, rfl, rfl, rfl, fun _ _ => rfl⟩
    (fun _ hx a _ => scal_trans hx (writeScalar_scal _ a.1 a.2))

theorem scal_putUniform (l : LL) (g : Group) : Scal g (putUniform l g) := by
  unfold putUniform
  split
  · exact scal_trans (scal_writeScalars ..) (putPred_scal ..)
  · exact scal_writeScalars ..

theorem putPred_flags (g : Group) (p : Nat) (sel m : TMask) : (putPred g p sel m).flags = g.flags :=
  (congrArg Group.flags (putPred_eq g p sel m) :)

theorem writeScalar_flags (g : Group) (d : Nat) (v : W64) : (writeScalar g d v).flags = g.flags := by
  unfold writeScalar
  split
  · rfl
  split
  · rfl
  split
  · rfl
  · exact putPred_flags ..

theorem putUniform_flags (l : LL) (g : Group) : (putUniform l g).flags = g.flags := by
  have hs := List.foldlRecOn (motive := fun x : Group => x.flags = g.flags) l.scl (fun (g : Group) (x : Nat × W64) => writeScalar g x.1 x.2)
    rfl (fun x hx a _ => (writeScalar_flags x a.1 a.2).trans hx)
  unfold putUniform
  split
  · exact (putPred_flags ..).trans hs
  · exact hs

theorem readLine_applyLL (s : State) (g : Group) (l : LL) (n : Nat) : readLine s (applyLL s g l) n =
    if n ∈ l.vregs ∧ ∀ x ∈ g.win, x.reg ≠ n then mergeLine (readLine s g n) (llWords l n) else readLine s g n := by
  rw [applyLL_eq]
  exact ((scal_putUniform l _).rd s n).trans (readLine_putLines s l l.vregs g n)

theorem outside_applyLL (s : State) (g : Group) (l : LL) : (applyLL s g l).outside =
    { putUniform l g with flags := g.flags ||| l.flags, ll := g.ll.filter (fun x => decide (x.key ≠ l.key)) }.outside := by
  have ho : (putUniform l (l.vregs.foldl (putLine s l) g)).outside = (putUniform l g).outside := by
    rw [outside_putUniform, outside_putLines, outside_putUniform]
  have hf : (putUniform l (l.vregs.foldl (putLine s l) g)).flags = g.flags :=
    (outside_field (fun x => x.flags) (fun _ => rfl) ho).trans (putUniform_flags l g)
  have hl : (putUniform l (l.vregs.foldl (putLine s l) g)).ll = g.ll :=
    (outside_field (fun x => x.ll) (fun _ => rfl) ho).trans (scal_putUniform l g).ll
  rw [applyLL_eq, hf, hl]
  exact congrArg (fun x : Group => { x with flags := g.flags ||| l.flags, ll := g.ll.filter (fun x => decide (x.key ≠ l.key)) }) ho

theorem exec_longLatencyResult {s : State} {gid key : Nat} {g : Group} {l : LL} (hg : groupOf s gid = some g)
    (hl : g.ll.find? (fun x => decide (x.key = key)) = some l) (hneed : l.need = 0) (hexact : l.exact = none)
    (hsw : switchHolds s g = false) : exec (.longLatencyResult gid key) s = .next (setGroup s (applyLL s g l)) := by
  have hx : exec (.longLatencyResult gid key) s = execLongLatencyResult gid key s := rfl
  rw [hx, execLongLatencyResult, hg, onSome, hl]
  exact if_pos ⟨hneed, hexact, by rw [hsw]; rfl⟩

theorem longLatencyResultIsWritten : Claims.LongLatencyResultIsWritten := by
  intro s gid key g l hg hl hneed hexact hsw
  have hid : (applyLL s g l).id = gid := (applyLL_id s g l).trans (groupOf_id hg)
  have hkey : l.key = key := by simpa using List.find?_some hl
  refine ⟨_, applyLL s g l, exec_longLatencyResult hg hl hneed hexact hsw, ?found, ⟨rfl, ?others⟩, ?lines, ?rest⟩
  case found =>
    rw [← hid]
    exact groupOf_setGroup (hid ▸ hg)
  case others => exact fun k hk => groupOf_setGroup_ne (by rwa [applyLL_id])
  case lines => exact readLine_applyLL s g l
  case rest =>
    rw [outside_applyLL, hkey]
    unfold putUniform
    cases l.pred <;> rfl

/-- Settles O6: a function begins its result with the evaluations of its threads; a result that is written merges its words into the
lines that the window does not hold, and the rest of it changes the scalar space alone. -/
theorem longLatencyResults : Obligations.LongLatencyResults := ⟨longLatencyFunctions, longLatencyResultIsWritten⟩

end Sys2Proof.Proofs

namespace Sys2Proof.Proofs
open Sys2Proof.Machine Sys2Proof.Laws Sys2Proof.Claims

/-! ## The scalar and address instructions and the scalar space (O7) -/

/-! ### The scalar instructions -/

theorem scalarRule {i : Hd → RF → Instr} {v : State → Group → RF → Int}
    (hx : ∀ h f s, exec (i h f) s = wideGroup (i h f) h
      (fun s g => writeScalar g f.d.toNat (BitVec.ofInt 64 (intVal f.t (wrapNat f.t.bits (v s g f))))) s := by intros; rfl) :
    ScalarRule i v :=
  fun h f => wideGroup_rule (hx h f) (fun _ _ => writeScalar_scal ..)

/-- A number in the type of 64 bits without a sign is its low 64 bits. -/
theorem sPut_u64 (g : Group) (d n : Nat) : sPut .u64 g d (n : Int) = writeScalar g d (BitVec.ofNat 64 n) := by
  have hv : intVal .u64 (wrapNat 64 (n : Int)) = ((n % 2 ^ 64 : Nat) : Int) := by
    simp only [intVal, wrapNat, Ty.signed, Ty.bits, Bool.false_eq_true, if_false]
    omega
  change writeScalar g d (BitVec.ofInt 64 (intVal .u64 (wrapNat 64 (n : Int)))) = _
  rw [hv, BitVec.ofInt_natCast]
  exact congrArg (writeScalar g d) (BitVec.eq_of_toNat_eq (by simp))

theorem scmpPut_scal (g : Group) (d : Nat) (b : Bool) : Scal g (scmpPut g d b) := by
  unfold scmpPut
  split
  · exact writeScalar_scal ..
  · exact putPred_scal ..

theorem scalarInstructions : Claims.ScalarInstructions := by
  refine ⟨scalarRule, scalarRule, scalarRule, scalarRule, scalarRule, scalarRule, scalarRule, scalarRule, scalarRule, scalarRule,
    scalarRule, fun h f => ?spopc, fun h f => ?scmp, fun h f => ?smov, fun h f => ?smovi, fun h f => ?saddi⟩
  case spopc =>
    refine wideGroup_rule (fun s => ?_) (fun _ _ => writeScalar_scal ..)
    simp only [← sPut_u64]
    rfl
  case scmp => exact wideGroup_rule (fun _ => rfl) (fun _ _ => scmpPut_scal ..)
  case smov => exact wideGroup_rule (fun _ => rfl) (fun _ _ => writeScalar_scal ..)
  case smovi => exact wideGroup_rule (fun _ => rfl) (fun _ _ => writeScalar_scal ..)
  case saddi => exact wideGroup_rule (fun _ => rfl) (fun _ _ => writeScalar_scal ..)

/-! ### Reading the scalar space after a write -/

theorem getD_set_self {α : Type} {xs : List α} {k : Nat} (h : k < xs.length) (x y : α) : (xs.set k x).getD k y = x := by
  rw [List.getD_eq_getElem?_getD, List.getElem?_set_self h, Option.getD_some]

theorem getD_set_ne {α : Type} {k j : Nat} (h : k ≠ j) (xs : List α) (x y : α) : (xs.set k x).getD j y = xs.getD j y := by
  rw [List.getD_eq_getElem?_getD, List.getElem?_set_ne h, List.getD_eq_getElem?_getD]

section
variable (g : Group) {r : Nat} (v : W64)

theorem readScalar_s (h : r < 64) : readScalar g r = g.s.getD r 0 := if_pos h

theorem readScalar_a (h : 64 ≤ r) (h' : r < 80) : readScalar g r = g.a.getD (r - 64) 0 := by
  rw [readScalar, if_neg (by omega), if_pos h']

theorem readScalar_m (h : 80 ≤ r) (h' : r < 96) : readScalar g r = g.mB.getD (r - 80) 0 := by
  rw [readScalar, if_neg (by omega), if_neg (by omega), if_pos h']

theorem readScalar_p (h : 96 ≤ r) : readScalar g r = predMask g (r - 96) &&& widthMask g.width := by
  rw [readScalar, if_neg (by omega), if_neg (by omega), if_neg (by omega)]

theorem writeScalar_s (h : r < 64) : writeScalar g r v = { g with s := g.s.set r v } := if_pos h

theorem writeScalar_a (h : 64 ≤ r) (h' : r < 80) : writeScalar g r v = { g with a := g.a.set (r - 64) v } := by
  rw [writeScalar, if_neg (by omega), if_pos h']

theorem writeScalar_m (h : 80 ≤ r) (h' : r < 96) :
    writeScalar g r v = { g with mB := g.mB.set (r - 80) (v &&& BitVec.ofNat 64 (2 ^ 57 - 1)) } := by
  rw [writeScalar, if_neg (by omega), if_neg (by omega), if_pos h']

theorem writeScalar_p (h : 96 ≤ r) : writeScalar g r v = putPred g (r - 96) (widthMask g.width) v := by
  rw [writeScalar, if_neg (by omega), if_neg (by omega), if_neg (by omega)]

end

theorem predMask_putPred_ne {g : Group} {q p : Nat} (h : q ≠ p) (sel m : TMask) : predMask (putPred g q sel m) p = predMask g p := by
  unfold putPred setPred
  split
  · exact congrArg (fun m => if p = 7 then BitVec.allOnes 64 else m) (getD_set_ne h ..)
  · rfl

/-- The written bits of a predicate read as they were written. -/
theorem predMask_putPred_and {g : Group} {q : Nat} (hl : g.p.length = 7) (hq : q < 7) (sel m : TMask) :
    predMask (putPred g q sel m) q &&& sel = m &&& sel := by
  refine BitVec.eq_of_getLsbD_eq (fun t ht => ?_)
  rw [BitVec.getLsbD_and, BitVec.getLsbD_and, predMask_putPred g q q t sel m (hl ▸ hq) ht]
  cases sel.getLsbD t <;> simp [hq]

theorem putPred_width (g : Group) (p : Nat) (sel m : TMask) : (putPred g p sel m).width = g.width :=
  (congrArg Group.width (putPred_eq g p sel m) :)

theorem readScalar_writeScalar_same {g : Group} {d : Nat} (v : W64) (hs : g.s.length = 64) (ha : g.a.length = 16)
    (hm : g.mB.length = 16) (hp : g.p.length = 7) (hd : d < 104) : readScalar (writeScalar g d v) d =
      if d < 80 then v else if d < 96 then v &&& BitVec.ofNat 64 (2 ^ 57 - 1)
      else if d < 103 then v &&& widthMask g.width else widthMask g.width := by
  by_cases h64 : d < 64
  · rw [if_pos (by omega), writeScalar_s g v h64, readScalar_s _ h64]
    exact getD_set_self (by omega) ..
  by_cases h80 : d < 80
  · rw [if_pos h80, writeScalar_a g v (by omega) h80, readScalar_a _ (by omega) h80]
    exact getD_set_self (by omega) ..
  by_cases h96 : d < 96
  · rw [if_neg h80, if_pos h96, writeScalar_m g v (by omega) h96, readScalar_m _ (by omega) h96]
    exact getD_set_self (by omega) ..
  rw [if_neg h80, if_neg h96, writeScalar_p g v (by omega), readScalar_p _ (by omega), putPred_width]
  by_cases h103 : d < 103
  · rw [if_pos h103]
    exact predMask_putPred_and hp (by omega) ..
  · obtain rfl : d = 103 := by omega
    rw [if_neg h103]
    exact BitVec.allOnes_and

theorem readScalar_writeScalar_ne {g : Group} {d e : Nat} (v : W64) (hne : e ≠ d) : readScalar (writeScalar g d v) e = readScalar g e := by
  by_cases d64 : d < 64
  · rw [writeScalar_s g v d64]
    unfold readScalar
    split
    · exact getD_set_ne hne.symm ..
    · rfl
  by_cases d80 : d < 80
  · rw [writeScalar_a g v (by omega) d80]
    unfold readScalar
    split
    · rfl
    split
    · exact getD_set_ne (by omega) ..
    · rfl
  by_cases d96 : d < 96
  · rw [writeScalar_m g v (by omega) d96]
    unfold readScalar
    split
    · rfl
    split
    · rfl
    split
    · exact getD_set_ne (by omega) ..
    · rfl
  · rw [writeScalar_p g v (by omega)]
    by_cases e96 : e < 96
    · rw [putPred_eq]
      unfold readScalar
      simp only [e96, if_true]
    · rw [readScalar_p _ (by omega), readScalar_p _ (by omega), putPred_width, predMask_putPred_ne (by omega)]

theorem scalarSpaceReadsAsWritten : Claims.ScalarSpaceReadsAsWritten :=
  fun _ _ v hs ha hm hp hd => ⟨readScalar_writeScalar_same v hs ha hm hp hd, fun _ _ hne => readScalar_writeScalar_ne v hne⟩

/-! ### The address instructions -/

/-- A group-wide instruction that changes the scalar space of its group. -/
theorem wide_scalar {i : Instr} {h : Hd} {s : State} {g gk : Group} {k : Group → State → GOut} (hx : exec i s = wideOp i h k s)
    (hr : Runs s g i) (hw : wideActs g h = true) (hk : k g s = .done (setGroup s gk)) (hs : Scal g gk) : Does i s s g gk [] := by
  have ⟨_, hg, hst, _⟩ := hr
  exact wide_does hx hr hw hk hg hs.id (by rw [hs.st, hst]; decide) hs.ll hs.ln (hs.rd s)

theorem moduloOk_one {len : W64} : moduloOk len 1 = true ↔ len ≠ 0 ∧ len.toNat < 2 ^ 40 := by
  rw [moduloOk, Nat.mod_one, Bool.and_eq_true, Bool.and_eq_true, decide_eq_true_eq, decide_eq_true_eq, decide_eq_true_eq,
    and_iff_left rfl]

theorem addressInstructions : Claims.AddressInstructions := by
  refine ⟨fun h f => ?mset, ?aadd⟩
  case mset =>
    exact wideGroup_rule (fun _ => rfl) (fun _ _ => scal_trans (writeScalar_scal ..) ⟨rfl, rfl, rfl, rfl, fun _ _ => rfl⟩)
  intro s g h f hr hw k inc len a gives
  have hx : exec (.aadd h f) s = execAadd h f s := rfl
  refine ⟨fun hk => ?plain, fun hk h0 hlt => ?wraps, fun hk hbad => ?bad⟩
  case plain => exact wide_scalar hx hr hw (if_pos hk) (writeScalar_scal ..)
  case wraps =>
    have hok : ¬ (!moduloOk len 1) = true := by simpa using moduloOk_one.mpr ⟨h0, hlt⟩
    exact wide_scalar hx hr hw ((if_neg hk).trans (if_neg hok)) (writeScalar_scal ..)
  case bad =>
    have hok : (!moduloOk len 1) = true := by
      rw [Bool.not_eq_true', Bool.eq_false_iff, ne_eq, moduloOk_one]
      rintro ⟨h0, hlt⟩
      exact hbad.elim h0 (Nat.not_le.mpr hlt)
    exact wide_traps hx hr hw ((if_neg hk).trans (if_pos hok)) hr.2.1

/-- Settles O7: each instruction writes one register of the scalar space or a predicate, and no two registers of that space are one. -/
theorem scalarSpace : Obligations.ScalarSpace := ⟨scalarInstructions, scalarSpaceReadsAsWritten, addressInstructions⟩

/-! ## The control instructions (O8) -/

/-! ### Transfers -/

/-- The join of BRD lies ahead of its clause, at an offset without a sign (07 R172). -/
theorem joinAddr_eq (g : Group) (n : Nat) : BitVec.ofNat 64 ((va57 g.pc + 8 * n) % 2 ^ 57) = target g n := by
  rw [target, ← BitVec.ofInt_natCast]
  norm_cast

section
variable {i : Instr} {s : State} {g : Group} {k : Group → State → GOut} {st : List CEnt} {a : TMask} {pc : W64} (hr : Runs s g i)
include hr

/-- An instruction that transfers its group, whose stack and active threads it may have changed. -/
theorem moves_landed (hx : exec i s = runInstr i s k)
    (hk : k g s = .jump (setGroup s (landed { g with stack := st, active := a } pc))) :
    Moves i s s g (landed { g with stack := st, active := a } pc) :=
  moves_group hx hr (.inl hk) hr.2.1 rfl rfl rfl (fun _ => rfl)

/-- An instruction that changes the stack and the active threads of its group, which goes on. -/
theorem does_stacked (hx : exec i s = runInstr i s k) (hk : k g s = .done (setGroup s { g with stack := st, active := a })) :
    Does i s s g { g with stack := st, active := a } [] := by
  have ⟨_, hg, hst, _⟩ := hr
  exact does_group hx hr hk hg rfl (by change g.st ≠ .parked; rw [hst]; decide) rfl rfl (fun _ => rfl)

@[inherit_doc moves_landed] theorem wide_landed {h : Hd} (hx : exec i s = wideOp i h k s) (hw : wideActs g h = true)
    (hk : k g s = .jump (setGroup s (landed { g with stack := st, active := a } pc))) :
    Moves i s s g (landed { g with stack := st, active := a } pc) :=
  moves_landed hr (k := fun g s => if wideActs g h then k g s else .done s) hx ((if_pos hw).trans hk)

end

theorem stackRoom_eq_zero {g : Group} : stackRoom g = 0 ↔ 16 ≤ g.stack.length := Nat.sub_eq_zero_iff_le

/-- The operation of RET (07 R174). -/
def retOp (g : Group) (s : State) : GOut :=
  match fromTop g with
  | [] => .trap s (trapC 0x0E 2)
  | e :: rest =>
    if e.kind ≠ 2 then .trap s (trapC 0x0E 3)
    else if e.mask = 0 then .jump (setGroup s (resumeOrRetire s { g with stack := rest.reverse }))
    else .jump (setGroup s (landed { g with stack := rest.reverse, active := e.mask } e.addr))

theorem exec_ret (h : Hd) (f : BF) (s : State) : exec (.ret h f) s = wideOp (.ret h f) h retOp s := rfl

section
variable {s : State} {g : Group} {h : Hd} {f : BF} {e : CEnt} {rest : List CEnt}

theorem retOp_returns (hst : fromTop g = e :: rest) (hk : e.kind = 2) (hm : e.mask ≠ 0) :
    retOp g s = .jump (setGroup s (landed { g with stack := rest.reverse, active := e.mask } e.addr)) := by
  rw [retOp, hst]
  exact (if_neg (not_not_intro hk)).trans (if_neg hm)

theorem retOp_noCall (hst : fromTop g = e :: rest) (hk : e.kind ≠ 2) : retOp g s = .trap s (trapC 0x0E 3) := by
  rw [retOp, hst]
  exact if_pos hk

theorem retOp_empty (hst : g.stack = []) : retOp g s = .trap s (trapC 0x0E 2) := by
  rw [retOp, fromTop, hst]
  rfl

end

theorem uniformTransfers : Claims.UniformTransfers := by
  refine ⟨fun s g h f hr hw => ?bra, fun s g h f hr hw => ?brx, fun s g h f hr hw => ⟨fun hroom => ?call, fun hfull => ?overflow⟩,
    fun s g h f hr hw => ⟨fun e rest hst hk hm => ?ret, fun e rest hst hk => ?noCall, fun hst => ?empty⟩⟩
  case bra =>
    have hx : exec (.bra h f) s = execBra h f s := rfl
    exact wide_landed hr hx hw rfl
  case brx =>
    have hx : exec (.brx h f) s = execBrx h f s := rfl
    exact wide_landed hr hx hw rfl
  case call =>
    have hx : exec (.call h f) s = execCall h f s := rfl
    exact wide_landed hr hx hw (if_neg (fun h0 => Nat.not_le.mpr hroom (stackRoom_eq_zero.mp h0)))
  case overflow =>
    have hx : exec (.call h f) s = execCall h f s := rfl
    exact wide_traps hx hr hw (if_pos (stackRoom_eq_zero.mpr hfull)) hr.2.1
  case ret => exact wide_landed hr (exec_ret h f s) hw (retOp_returns hst hk hm)
  case noCall => exact wide_traps (exec_ret h f s) hr hw (retOp_noCall hst hk) hr.2.1
  case empty => exact wide_traps (exec_ret h f s) hr hw (retOp_empty hst) hr.2.1

/-! ### BRD and JOIN -/

/-- BRD pushes the join of its group, and where only some threads are taken the entry on which these wait (07 R172). -/
theorem brdOp_eq (h : Hd) (f : BF) (g : Group) (s : State) : brdOp h f g s =
    let tk := condMask g h
    let j : CEnt := ⟨g.active, target g f.joff.toNat, 0⟩
    let t : CEnt := ⟨tk, target g f.off.toInt, 1⟩
    if 16 - g.stack.length < (if tk = g.active ∨ tk = 0 then 1 else 2) then .trap s (trapC 0x0E 1)
    else if tk = g.active then .jump (setGroup s (landed { g with stack := g.stack ++ [j] } (target g f.off.toInt)))
    else if tk = 0 then .done (setGroup s { g with stack := g.stack ++ [j] })
    else .done (setGroup s { g with stack := g.stack ++ [j, t], active := g.active &&& ~~~tk }) := by
  have hpush : ∀ j t : CEnt, g.stack ++ [j, t] = g.stack ++ [j] ++ [t] := fun j t => List.append_cons g.stack j [t]
  simp only [brdOp, joinAddr_eq, hpush]
  rfl

theorem divergentBranch : Claims.DivergentBranch := by
  intro s g h f hr tk j t
  have hx : exec (.brd h f) s = runInstr (.brd h f) s (brdOp h f) := rfl
  have hop := brdOp_eq h f g s
  refine ⟨fun hall hlen => ?all, fun hall hnone hlen => ?none, fun hall hnone hlen => ?some, fun hfull => ?overflow⟩
  case all =>
    have hroom : ¬ 16 - g.stack.length < (if tk = g.active ∨ tk = 0 then 1 else 2) := by rw [if_pos (.inl hall)]; omega
    exact moves_landed hr hx (hop.trans ((if_neg hroom).trans (if_pos hall)))
  case none =>
    have hroom : ¬ 16 - g.stack.length < (if tk = g.active ∨ tk = 0 then 1 else 2) := by rw [if_pos (.inr hnone)]; omega
    exact does_stacked hr hx (hop.trans ((if_neg hroom).trans ((if_neg hall).trans (if_pos hnone))))
  case some =>
    have hroom : ¬ 16 - g.stack.length < (if tk = g.active ∨ tk = 0 then 1 else 2) := by rw [if_neg (not_or.mpr ⟨hall, hnone⟩)]; omega
    exact does_stacked hr hx (hop.trans ((if_neg hroom).trans ((if_neg hall).trans (if_neg hnone))))
  case overflow => exact traps_at hx hr (hop.trans (if_pos hfull)) hr.2.1

/-- JOIN passes over the entries without a thread above which no call stands (07 R173). -/
theorem joinPop_append {es : List CEnt} (h : ∀ x ∈ es, x.mask = 0 ∧ x.kind ≠ 2) (xs : List CEnt) : joinPop (es ++ xs) = joinPop xs := by
  induction es with
  | nil => rfl
  | cons e es ih =>
    obtain ⟨⟨hm, hk⟩, hes⟩ := List.forall_mem_cons.mp h
    rw [List.cons_append, joinPop, if_neg hk, if_pos hm, ih hes]

/-- The operation of JOIN (07 R173). -/
def joinOp (g : Group) (s : State) : GOut :=
  match joinPop (fromTop g) with
  | .error sub => .trap s (trapC 0x0E sub)
  | .ok (e, rest) => .jump (setGroup s (landed { g with stack := rest.reverse, active := e.mask } e.addr))

theorem exec_join (h : Hd) (f : BF) (s : State) : exec (.join h f) s = wideOp (.join h f) h joinOp s := rfl

theorem joinOp_resumes {g : Group} {e : CEnt} {rest : List CEnt} (h : joinPop (fromTop g) = .ok (e, rest)) (s : State) :
    joinOp g s = .jump (setGroup s (landed { g with stack := rest.reverse, active := e.mask } e.addr)) := by rw [joinOp, h]

theorem joinOp_traps {g : Group} {sub : Nat} (h : joinPop (fromTop g) = .error sub) (s : State) :
    joinOp g s = .trap s (trapC 0x0E sub) := by rw [joinOp, h]

theorem joinResumes : Claims.JoinResumes := by
  intro s g h f hr hw
  have hx := exec_join h f s
  refine ⟨fun es e rest hst hes hk hm => ?resumes, fun es e rest hst hes hk => ?call, fun hes => ?ends⟩
  case resumes =>
    have hpop : joinPop (fromTop g) = .ok (e, rest) := by rw [hst, joinPop_append hes, joinPop, if_neg hk, if_neg hm]
    exact wide_landed hr hx hw (joinOp_resumes hpop s)
  case call =>
    have hpop : joinPop (fromTop g) = .error 3 := by rw [hst, joinPop_append hes, joinPop, if_pos hk]
    exact wide_traps hx hr hw (joinOp_traps hpop s) hr.2.1
  case ends =>
    have htop : ∀ x ∈ fromTop g, x.mask = 0 ∧ x.kind ≠ 2 := fun x hx => hes x (List.mem_reverse.mp hx)
    have hpop : joinPop (fromTop g) = .error 2 := by rw [← List.append_nil (fromTop g), joinPop_append htop, joinPop]
    exact wide_traps hx hr hw (joinOp_traps hpop s) hr.2.1

/-! ### EXIT -/

theorem popLive_append {es : List CEnt} (h : ∀ x ∈ es, x.mask = 0) (xs : List CEnt) : popLive (es ++ xs) = popLive xs := by
  induction es with
  | nil => rfl
  | cons e es ih =>
    obtain ⟨hm, hes⟩ := List.forall_mem_cons.mp h
    rw [List.cons_append, popLive, if_pos hm, ih hes]

theorem resumeOrRetire_resumes {g : Group} {e : CEnt} {rest : List CEnt} (h : popLive (fromTop g) = some (e, rest)) (s : State) :
    resumeOrRetire s g = landed { g with stack := rest.reverse, active := e.mask } e.addr := by
  rw [fromTop] at h
  rw [resumeOrRetire, h]
  rfl

theorem resumeOrRetire_retires {g : Group} (h : popLive (fromTop g) = none) (s : State) :
    resumeOrRetire s g = toRetiring s { g with active := 0, stack := [] } := by
  rw [fromTop] at h
  rw [resumeOrRetire, h]

/-- A group without its active threads (07 R175). -/
def withoutActive (g : Group) : Group := { g with active := 0, stack := g.stack.map (CEnt.less g) }

theorem fromTop_withoutActive (g : Group) : fromTop (withoutActive g) = (fromTop g).map (CEnt.less g) := List.map_reverse.symm

theorem exec_exit (h : Hd) (f : BF) (s : State) :
    exec (.exit h f) s = wideOp (.exit h f) h (fun g s => .jump (setGroup s (resumeOrRetire s (withoutActive g)))) s := rfl

theorem lineNo_of_outside {g gk : Group} (h : gk.outside = g.outside) : lineNo gk = lineNo g := by
  funext r
  rw [lineNo, lineNo, outside_field (fun x => x.handler) (fun _ => rfl) h, outside_field (fun x => x.nregs) (fun _ => rfl) h]

theorem toRetiring_outside (s : State) (g : Group) : (toRetiring s g).outside =
    ({ g with st := .retiring, active := 0, stack := [], park := none, pendTrap := none } : Group).outside :=
  congrArg (fun x : Group => { x with st := .retiring, active := 0, stack := [], park := none, pendTrap := none }) (outside_flushWin s g)

/-- A group-wide instruction that leaves its group without a thread. -/
theorem wide_retires {i : Instr} {h : Hd} {s : State} {g : Group} {k : Group → State → GOut} (hx : exec i s = wideOp i h k s)
    (hr : Runs s g i) (hw : wideActs g h = true) (hk : k g s = .jump (setGroup s (toRetiring s { g with active := 0, stack := [] }))) :
    Moves i s s g { g with st := .retiring, active := 0, stack := [], park := none, pendTrap := none } := by
  have ho := toRetiring_outside s { g with active := 0, stack := [] }
  exact moves_congr ho (wide_moves hx hr hw (.inl hk) hr.2.1 (outside_field (fun x => x.id) (fun _ => rfl) ho :)
    (outside_field (fun x => x.ll) (fun _ => rfl) ho :) (lineNo_of_outside ho :) (fun n => readLine_flushWin s s _ n))

theorem exitRetires : Claims.ExitRetires := by
  intro s g h f hr hw
  have hx := exec_exit h f s
  refine ⟨fun es e rest hst hes hm => ?resumes, fun hes => ?retires⟩
  case resumes =>
    have hpop : popLive (fromTop (withoutActive g)) = some (e, rest) := by
      rw [fromTop_withoutActive, hst, popLive_append hes, popLive, if_neg hm]
    exact wide_landed hr hx hw (congrArg (fun x => GOut.jump (setGroup s x)) (resumeOrRetire_resumes hpop s))
  case retires =>
    have hnone : ∀ x ∈ fromTop (withoutActive g), x.mask = 0 := by
      intro x hx
      obtain ⟨e, he, rfl⟩ := List.mem_map.mp (List.mem_reverse.mp hx)
      exact hes e he
    have hpop : popLive (fromTop (withoutActive g)) = none := by
      rw [← List.append_nil (fromTop (withoutActive g)), popLive_append hnone, popLive]
    obtain ⟨t, g', hn, hg, hl, hc, ho⟩ :=
      wide_retires hx hr hw (congrArg (fun x => GOut.jump (setGroup s x)) (resumeOrRetire_retires hpop s))
    exact ⟨t, g', hn, hg, hl, ho, hc⟩

/-! ### NOP, SLEEP and YIELD -/

theorem yieldGroup_outside (s : State) (g : Group) : (yieldGroup s g).outside =
    ({ g with st := .ready, yielded := true, refetch := true, left := if g.budget = 0 then g.left else g.budget + 1 } : Group).outside :=
  congrArg (fun x : Group => { x with st := .ready, yielded := true, refetch := true, left := if g.budget = 0 then g.left else g.budget + 1 })
    (outside_flushWin s g)

/-- A group-wide instruction that yields (06 R131). -/
theorem wide_yields {i : Instr} {h : Hd} {s : State} {g : Group} {k : Group → State → GOut} (hx : exec i s = wideOp i h k s)
    (hr : Runs s g i) (hw : wideActs g h = true) (hk : k g s = .done (setGroup s (yieldGroup s g))) :
    Does i s s g { g with st := .ready, yielded := true, refetch := true, left := if g.budget = 0 then g.left else g.budget + 1 } [] :=
  done_group (k := fun g s => if wideActs g h then k g s else .done s) hx hr ((if_pos hw).trans hk) hr.2.1 (yieldGroup_outside s g) rfl
    (show GSt.ready ≠ .parked by decide) rfl rfl (fun n => readLine_flushWin s s g n) (newKeys_same rfl)

theorem exec_sleep (h : Hd) (f : IF) (s : State) : exec (.sleep h f) s = wideOp (.sleep h f) h (fun g s => .done (setGroup s
    (if f.imm = 0 then yieldGroup s g else parkGroup s g (.sleep (cyclesOf s g.cluster + f.imm.toNat))))) s := rfl

theorem exec_yield (h : Hd) (f : BF) (s : State) :
    exec (.yield h f) s = wideOp (.yield h f) h (fun g s => .done (setGroup s (yieldGroup s g))) s := rfl

theorem nopSleepYield : Claims.NopSleepYield := by
  refine ⟨fun s g h f hr => ?nop, fun s g h f hr hw himm => ?sleep, fun s g i hi hr => ?yield⟩
  case nop =>
    have hx : exec (.nop h f) s = execNop h f s := rfl
    exact does_state hx hr rfl hr.2.1
  case sleep => exact wide_parks (exec_sleep h f s) hr hw (congrArg (fun x => GOut.done (setGroup s x)) (if_neg himm)) hr.2.1
  case yield =>
    obtain ⟨h, f, rfl, hw, himm⟩ | ⟨h, f, rfl, hw⟩ := hi
    · exact wide_yields (exec_sleep h f s) hr hw (congrArg (fun x => GOut.done (setGroup s x)) (if_pos himm))
    · exact wide_yields (exec_yield h f s) hr hw rfl

/-- Settles O8: each instruction is worked out from its operation, and the pops of the stack from what they pass over. -/
theorem controlTransfers : Obligations.ControlTransfers := ⟨uniformTransfers, divergentBranch, joinResumes, exitRetires, nopSleepYield⟩

end Sys2Proof.Proofs

namespace Sys2Proof.Proofs
open Sys2Proof.Machine Sys2Proof.Laws Sys2Proof.Claims

/-! ## Atomics and ordered reductions at their homes (O13) -/

/-! ### A number written at its home -/

theorem memCells_zipIdx (m : Memory) (a k : Nat) (bs : List Byte) :
    memCells m ((bs.zipIdx k).map (fun x => (a + x.2, x.1))) = memPut m (a + k) bs := by
  induction bs generalizing m k with
  | nil => rfl
  | cons b bs ih => exact ih (memSet m (a + k) b) (k + 1)

theorem memCells_numCells (m : Memory) (a n v : Nat) : memCells m (numCells a n v) = memPut m a (natLE n v) :=
  memCells_zipIdx m a 0 (natLE n v)

theorem mem_numCells {a n v : Nat} {c : Host.Cell} (h : c ∈ numCells a n v) : ∃ i, i < n ∧ c.1 = a + i := by
  obtain ⟨x, hx, rfl⟩ := List.mem_map.mp h
  have hlt := List.snd_lt_of_mem_zipIdx hx
  rw [length_natLE] at hlt
  exact ⟨x.2, hlt, rfl⟩

theorem memNat_lt (m : Memory) (a n : Nat) : memNat m a n < 256 ^ n := by
  have hbytes : ∀ bs : List Byte, leNat bs < 256 ^ bs.length := by
    intro bs
    induction bs with
    | nil => decide
    | cons b bs ih =>
      have hb := b.isLt
      rw [leNat, List.length_cons, Nat.pow_succ']
      omega
  have h := hbytes (memBytes m a n)
  rwa [show (memBytes m a n).length = n from by simp [memBytes]] at h

theorem memNat_congr {m k : Memory} {a n : Nat} (h : ∀ i, i < n → memGet m (a + i) = memGet k (a + i)) : memNat m a n = memNat k a n := by
  rw [memNat, memNat, memBytes, memBytes, List.map_congr_left fun i hi => h i (List.mem_range.mp hi)]

theorem memNat_memPut_self {m : Memory} (h : Memory.wf m = true) (a n v : Nat) : memNat (memPut m a (natLE n v)) a n = v % 256 ^ n := by
  have hb := memBytes_memPut h a (natLE n v)
  rw [length_natLE] at hb
  rw [memNat, hb, leNat_natLE]

theorem memGet_memPut_apart {m : Memory} (h : Memory.wf m = true) {a n v x : Nat} (hx : x < a ∨ a + n ≤ x) :
    memGet (memPut m a (natLE n v)) x = memGet m x := by
  rw [memGet_memPut h, length_natLE, if_neg (by omega)]

theorem memNat_memPut_apart {m : Memory} (h : Memory.wf m = true) {a n v b k : Nat} (hb : b + k ≤ a ∨ a + n ≤ b) :
    memNat (memPut m a (natLE n v)) b k = memNat m b k :=
  memNat_congr fun _ _ => memGet_memPut_apart h (by omega)

/-- Bytes that no descriptor of a live queue and no barrier record holds, and no NEXT of a cell with contributions, are plain. -/
theorem plain_numCells {s : State} {pa n : Nat} (hb : ∀ i, i < n → inQueueDesc s (pa + i) = false ∧ inBarRec s (pa + i) = false)
    (hh : ∀ h ∈ s.oredHeld, pa + n ≤ h.pa + 8 ∨ h.pa + 12 ≤ pa) (v : Nat) : PlainCells s (numCells pa n v) := by
  refine ⟨fun c hc => ?_, fun c hc => ?_, fun c hc h hm => ?_⟩ <;> obtain ⟨i, hi, he⟩ := mem_numCells hc
  · rw [he]; exact (hb i hi).1
  · rw [he]; exact (hb i hi).2
  · have := hh h hm
    omega

theorem homePut_plain {s : State} {pa n v : Nat} (h : PlainCells s (numCells pa n v)) (o : Origin) (hc : Bool) :
    (homePut s o hc pa n v).mem = memPut s.mem pa (natLE n v) ∧ (homePut s o hc pa n v).groups = s.groups := by
  obtain ⟨hmem, hbeside⟩ := homeWrite_plain h o hc
  rw [memCells_numCells] at hmem
  exact ⟨hmem, congrArg (fun x => x.1) hbeside⟩

/-! ### The answer of an atomic -/

theorem groupOf_of_groups {s t : State} (h : t.groups = s.groups) (id : Nat) : groupOf t id = groupOf s id := by
  rw [groupOf, h, groupOf]

theorem l1Clear_mem (s : State) (core : Nat) : (l1Clear s core).mem = s.mem :=
  foldl_keeps (p := fun s => s.mem) (f := fun s k => onCore s k (fun c => { c with l1 := [] })) (fun _ _ => rfl) _ s

/-- An outstanding result of identity key with more of its parts come. -/
def givenParts (key : Nat) (p : List (Nat × Nat × W32) × List (Nat × W64)) (g : Group) : Group :=
  { g with ll := g.ll.map (fun l => if l.key = key then { l with need := l.need - 1, vec := l.vec ++ p.1, scl := l.scl ++ p.2 } else l) }

theorem llGive_keeps (s : State) (gid key : Nat) (p : List (Nat × Nat × W32) × List (Nat × W64)) :
    (llGive s gid key p).mem = s.mem ∧ (llGive s gid key p).groups = (onGroup s gid (givenParts key p)).groups := by
  unfold llGive
  extract_lets acq t
  cases acq with
  | none => exact ⟨rfl, rfl⟩
  | some core => exact ⟨l1Clear_mem t core, l1Clear_groups t core⟩

/-- The state after an atomic has been performed in s, where its old value goes to the outstanding result that waits for it. -/
def answered (s : State) (r : Req) (size old : Nat) : State :=
  match reqRet r with
  | some t => llGive s r.gid t.key (retParts t (natLE size old))
  | none => s

theorem answered_mem (s : State) (r : Req) (size old : Nat) : (answered s r size old).mem = s.mem := by
  unfold answered
  split
  · exact (llGive_keeps ..).1
  · rfl

/-- The old value of an atomic of one register comes as one word of its result. -/
theorem answered_result {s : State} {r : Req} {op : Rmw} {pa k line th : Nat} {v : W64} {g : Group} {l : LL} {old : Nat}
    (hk : r.kind = .rmw op pa 4 v (some (k, line, th))) (hg : groupOf s r.gid = some g) (hl : g.ll = [l]) (hkey : l.key = k)
    (hold : old < 256 ^ 4) : (groupOf (answered s r 4 old) r.gid).map (fun (g : Group) => g.ll) =
      some [{ l with need := l.need - 1, vec := l.vec ++ [(line, th, BitVec.ofNat 32 old)] }] := by
  let t : Ret := { key := k, line := line, n := 1, t := th, ts := [th], scl := none, sz := 4 }
  have hret : reqRet r = some t := by rw [reqRet, hk]; rfl
  have hparts : retParts t (natLE 4 old) = ([(line, th, BitVec.ofNat 32 old)], []) := by
    have hval : loadVal 4 (natLE 4 old) = old := (leNat_natLE 4 old).trans (Nat.mod_eq_of_lt hold)
    change ((wordsFrom line 1 (loadVal 4 (natLE 4 old))).flatMap (fun w => [th].map (fun t => (w.1, t, w.2))), []) = _
    rw [hval]
    rfl
  have ha : answered s r 4 old = llGive s r.gid k ([(line, th, BitVec.ofNat 32 old)], []) := by rw [answered, hret, ← hparts]
  have hgroup := groupOf_onGroup (f := givenParts k ([(line, th, BitVec.ofNat 32 old)], [])) hg (fun _ => rfl)
  rw [ha, groupOf, (llGive_keeps ..).2]
  rw [groupOf] at hgroup
  rw [hgroup, Option.map_some, givenParts, hl, List.map_singleton, if_pos hkey, List.append_nil]

/-! ### SLICE_ATOMIC -/

/-- The state that an arriving request finds at its home: it is on its way no longer, and the buffer of its line has drained (08 R189). -/
def arrived (s : State) (key pa : Nat) : State := drainLine (dropReq s key) (pa / 512)

theorem exec_sliceAtomic {s : State} {key : Nat} {r : Req} {op : Rmw} {pa size : Nat} {v : W64} {ret : Option (Nat × Nat × Nat)}
    (hr : reqAt s key = some r) (hm : mayArrive s r = true) (hk : r.kind = .rmw op pa size v ret) : exec (.sliceAtomic key) s =
      .next (let p := performRmw (dropReq s key) (reqOrigin s r) r.hc op pa size v ret.isSome; answered p.1 r size p.2) := by
  have hx : exec (.sliceAtomic key) s = execSliceAtomic key s := rfl
  rw [hx, execSliceAtomic, hr]
  dsimp only [onSome]
  rw [hk, hm]
  rfl

theorem performRmw_clean {s : State} {pa : Nat} (h : s.poison.contains (pa / 128) = false) (o : Origin) (hc : Bool) (op : Rmw) (size : Nat)
    (v : W64) (returns : Bool) : performRmw s o hc op pa size v returns =
      (homePut (drainLine s (pa / 512)) o hc pa size (rmwNew op size (memNat s.mem pa size) (v.toNat % 2 ^ (8 * size))), memNat s.mem pa size) := by
  have h' : (drainLine s (pa / 512)).poison.contains (pa / 128) = false := h
  rw [performRmw, if_neg (by rw [h']; decide)]
  rfl

theorem performRmw_poisoned {s : State} {pa : Nat} (h : s.poison.contains (pa / 128) = true) (o : Origin) (hc : Bool) (op : Rmw) (size : Nat)
    (v : W64) : performRmw s o hc op pa size v false = (faultRecord (drainLine s (pa / 512)) { o with addr := 0 } true 0x0C 0, 0) := by
  have h' : (drainLine s (pa / 512)).poison.contains (pa / 128) = true := h
  rw [performRmw, if_pos h']
  rfl

theorem atomicsArrive : Claims.AtomicsArrive := by
  intro s key r op pa size v ret hwf hr hm hk
  have hx := exec_sliceAtomic hr hm hk
  refine ⟨fun hp hb hh => ?clean, fun hp hret => ?poisoned⟩
  case clean =>
    have hp' : (dropReq s key).poison.contains (pa / 128) = false := hp
    have hplain : ∀ n, PlainCells (arrived s key pa) (numCells pa size n) := plain_numCells (s := arrived s key pa) hb hh
    rw [performRmw_clean hp'] at hx
    obtain ⟨hmem, hgroups⟩ := homePut_plain (hplain (rmwNew op size (memNat s.mem pa size) (v.toNat % 2 ^ (8 * size)))) (reqOrigin s r) r.hc
    have ht := (answered_mem (homePut (arrived s key pa) (reqOrigin s r) r.hc pa size _) r size (memNat s.mem pa size)).trans hmem
    refine ⟨_, hx, (congrArg (fun m => memNat m pa size) ht).trans (memNat_memPut_self hwf ..),
      fun a ha => (congrArg (fun m => memGet m a) ht).trans (memGet_memPut_apart hwf ha), ?_⟩
    rintro k line th rfl g l hg hl hkey rfl
    exact answered_result hk ((groupOf_of_groups hgroups r.gid).trans hg) hl hkey (memNat_lt ..)
  case poisoned =>
    subst hret
    have hp' : (dropReq s key).poison.contains (pa / 128) = true := hp
    have hnone : reqRet r = none := by rw [reqRet, hk]
    rw [hx]
    dsimp only [Option.isSome_none]
    rw [performRmw_poisoned hp', answered, hnone]
    rfl

/-! ### The operations -/

theorem atomicOperations : Claims.AtomicOperations := by
  intro size old v _ hold hv
  refine ⟨rfl, rfl, rfl, ?smin, ?smax, rfl, rfl, rfl, rfl, ?inc, rfl, fun _ => rfl⟩
  case smin =>
    change sInt _ (if sInt (8 * size) old ≤ sInt (8 * size) v then old else v) = _
    rw [apply_ite (sInt (8 * size)), min_def]
  case smax =>
    change sInt _ (if sInt (8 * size) old ≤ sInt (8 * size) v then v else old) = _
    rw [apply_ite (sInt (8 * size)), max_def]
  case inc =>
    change (if v ≤ old then 0 else (old + 1) % 2 ^ (8 * size)) = _
    split
    · rfl
    · exact Nat.mod_eq_of_lt (by omega)

/-! ### ORED_CONTRIBUTION -/

theorem exec_oredContribution {s : State} {key : Nat} {r : Req} {op pa idx : Nat} {rnd : Rnd} {v : W64}
    (hr : reqAt s key = some r) (hm : mayArrive s r = true) (hk : r.kind = .ored op rnd pa idx v) :
    exec (.oredContribution key) s = .next (oredAt (dropReq s key) (reqOrigin s r) r.hc r.slice op rnd pa idx v) := by
  have hx : exec (.oredContribution key) s = execOredContribution key s := rfl
  rw [hx, execOredContribution, hr]
  dsimp only [onSome]
  rw [hk, hm]
  rfl

theorem oredRefuses_eq {s : State} {pa : Nat} (hp : s.poison.contains (pa / 128) = false) (idx : Nat) : oredRefuses s pa idx =
    if idx < oredNext s pa ∨ oredNext s pa + 4096 ≤ idx ∨ ∃ h ∈ s.oredHeld, h.pa = pa ∧ h.idx = idx then some 0x46 else none := by
  rw [oredRefuses, if_neg (by rw [hp]; decide)]
  simp only [List.any_eq_true, Bool.and_eq_true, decide_eq_true_eq]

theorem oredAt_refused {s : State} {pa idx cause : Nat} (h : oredRefuses (drainLine s (pa / 512)) pa idx = some cause) (o : Origin) (hc : Bool)
    (slice op : Nat) (rnd : Rnd) (v : W64) : oredAt s o hc slice op rnd pa idx v = faultRecord (drainLine s (pa / 512)) o true cause 0 := by
  rw [oredAt, h]

theorem oredAt_held {s : State} {pa idx : Nat} (h : oredRefuses (drainLine s (pa / 512)) pa idx = none) (hn : idx ≠ oredNext s pa) (o : Origin)
    (hc : Bool) (slice op : Nat) (rnd : Rnd) (v : W64) : oredAt s o hc slice op rnd pa idx v =
      let s := drainLine s (pa / 512)
      { s with oredHeld := s.oredHeld ++ [⟨slice, pa, idx, v, op, rnd, o.ctx, o.launch, o.core, o.team, hc⟩] } := by
  rw [oredAt, h]
  exact if_pos hn

theorem oredAt_next {s : State} {pa : Nat} (h : oredRefuses (drainLine s (pa / 512)) pa (oredNext s pa) = none) (hh : s.oredHeld = []) (o : Origin)
    (hc : Bool) (slice op : Nat) (rnd : Rnd) (v : W64) :
    oredAt s o hc slice op rnd pa (oredNext s pa) v = oredApply (drainLine s (pa / 512)) o hc pa op rnd v := by
  have hlen : (drainLine s (pa / 512)).oredHeld.length = 0 := congrArg List.length hh
  rw [oredAt, h]
  refine (if_neg (not_not_intro (rfl : oredNext s pa = oredNext (drainLine s (pa / 512)) pa))).trans ?_
  rw [hlen, oredDrain]

theorem oredSize_le (op : Nat) : oredSize op ≤ 8 := by
  unfold oredSize
  split <;> decide

/-- ACC and then the next index, put into a cell. -/
theorem landBytes_cell {s : State} {pa n : Nat} (hn : n ≤ 8) (hb : ∀ i, i < 16 → inQueueDesc s (pa + i) = false ∧ inBarRec s (pa + i) = false)
    (hh : s.oredHeld = []) (hwf : Memory.wf s.mem = true) (o : Origin) (hc : Bool) (acc : Nat) :
    let s1 := landBytes s o hc (numCells pa n acc)
    (landBytes s1 o hc (numCells (pa + 8) 4 (oredNext s1 pa + 1))).mem =
      memPut (memPut s.mem pa (natLE n acc)) (pa + 8) (natLE 4 (oredNext s pa + 1)) := by
  intro s1
  have hnone : ∀ a k, ∀ h ∈ s.oredHeld, a + k ≤ h.pa + 8 ∨ h.pa + 12 ≤ a := by rw [hh]; exact fun _ _ => List.forall_mem_nil _
  obtain ⟨hm1, hb1⟩ := landBytes_plain (plain_numCells (fun i hi => hb i (by omega)) (hnone pa n) acc) o hc
  rw [memCells_numCells] at hm1
  have hnext : oredNext s1 pa = oredNext s pa := by
    rw [oredNext, hm1, memNat_memPut_apart hwf (by omega), oredNext]
  have hplain : PlainCells s1 (numCells (pa + 8) 4 (oredNext s1 pa + 1)) :=
    (plain_numCells (fun i hi => by rw [Nat.add_assoc]; exact hb (8 + i) (by omega)) (hnone (pa + 8) 4) _).of_beside hb1
  rw [(landBytes_plain hplain o hc).1, memCells_numCells, hnext, hm1]

/-- A contribution combined changes ACC and NEXT of its cell (09 R217). -/
theorem oredApply_mem {s : State} {pa : Nat} (hb : ∀ i, i < 16 → inQueueDesc s (pa + i) = false ∧ inBarRec s (pa + i) = false)
    (hh : s.oredHeld = []) (hwf : Memory.wf s.mem = true) (o : Origin) (hc : Bool) (op : Nat) (rnd : Rnd) (v : W64) :
    (oredApply s o hc pa op rnd v).mem =
      memPut (memPut s.mem pa (natLE (oredSize op) (oredCombine op rnd (memNat s.mem pa (oredSize op)) (v.toNat % 2 ^ (8 * oredSize op)))))
        (pa + 8) (natLE 4 (oredNext s pa + 1)) :=
  landBytes_cell (oredSize_le op) hb hh hwf o hc _

theorem orderedContributions : Claims.OrderedContributions := by
  intro s key r op rnd pa idx v hwf hr hm hk hp hb
  have hx := exec_oredContribution hr hm hk
  have hrefuses : oredRefuses (arrived s key pa) pa idx = if idx < memNat s.mem (pa + 8) 4 ∨ memNat s.mem (pa + 8) 4 + 4096 ≤ idx ∨
      ∃ h ∈ s.oredHeld, h.pa = pa ∧ h.idx = idx then some 0x46 else none := oredRefuses_eq (s := arrived s key pa) hp idx
  refine ⟨fun hidx hh => ?next, fun hlow hhigh hnew => ?held, fun hout => ?discarded⟩
  case next =>
    have hnone : oredRefuses (arrived s key pa) pa (oredNext (dropReq s key) pa) = none := by
      change oredRefuses (arrived s key pa) pa (memNat s.mem (pa + 8) 4) = none
      rw [← hidx, hrefuses, hh, if_neg]
      simp only [List.not_mem_nil, false_and, exists_false, or_false]
      omega
    have hsize := oredSize_le op
    have hidx' : idx = oredNext (dropReq s key) pa := hidx
    rw [hidx', oredAt_next hnone hh] at hx
    have hmem := oredApply_mem (s := arrived s key pa) hb hh hwf (reqOrigin s r) r.hc op rnd v
    refine ⟨_, hx, ?acc, ?count, ?rest⟩
    case acc =>
      refine (congrArg (fun m => memNat m pa (oredSize op)) hmem).trans ?_
      exact (memNat_memPut_apart (memPut_wf _ _ hwf) (by omega)).trans (memNat_memPut_self hwf ..)
    case count =>
      refine (congrArg (fun m => memNat m (pa + 8) 4) hmem).trans ?_
      exact memNat_memPut_self (memPut_wf _ _ hwf) ..
    case rest =>
      intro a ha
      refine (congrArg (fun m => memGet m a) hmem).trans ?_
      exact (memGet_memPut_apart (memPut_wf _ _ hwf) (by omega)).trans (memGet_memPut_apart hwf (by omega))
  case held =>
    have hnone : oredRefuses (arrived s key pa) pa idx = none := by
      rw [hrefuses, if_neg]
      rintro (h | h | ⟨h, hm, he⟩)
      · omega
      · omega
      · exact hnew h hm he
    have hne : idx ≠ oredNext (dropReq s key) pa := fun h => by
      have : idx = memNat s.mem (pa + 8) 4 := h
      omega
    rw [hx, oredAt_held hnone hne]
    rfl
  case discarded =>
    have hsome : oredRefuses (arrived s key pa) pa idx = some 0x46 := by rw [hrefuses, if_pos hout]
    rw [hx, oredAt_refused hsome]
    rfl

/-- Settles O13: each arrival is worked out from what a number written at its home leaves in memory. -/
theorem atomicsAtTheirHomes : Obligations.AtomicsAtTheirHomes := ⟨atomicsArrive, atomicOperations, orderedContributions⟩

end Sys2Proof.Proofs

namespace Sys2Proof.Proofs
open Sys2Proof.Machine Sys2Proof.Laws Sys2Proof.Claims

/-! ## The memory's own events (O15) -/

/-- A lane that an access with an earlier rank keeps behind is not served (08 R180). -/
theorem bankReplay_notEnabled {s : State} {lane k : Nat} {r : Replay}
    (hk : s.cores.findIdx? (fun c => c.replays.any (fun r => decide (r.lane = lane) && !r.granted)) = some k)
    (hr : (coreAt s k).replays.find? (fun r => decide (r.lane = lane)) = some r)
    (hb : rankedBehind s k lane r.at_ (cyclesOf s (k / 4)) r.words r.load = true) :
    exec (.bankReplay lane) s = .fault .notEnabled := by
  have hx : exec (.bankReplay lane) s = execBankReplay lane s := rfl
  rw [hx, execBankReplay, hk]
  dsimp only
  rw [hr]
  dsimp only
  rw [hb, if_neg (by simp)]

/-- A load of sixteen bytes that waits for banks 0 to 3, presented first. -/
def firstLoad : Replay := { lane := 0, at_ := 5, granted := false, words := [0, 1, 2, 3], load := true }

/-- A load of four bytes that waits for bank 4. -/
def secondLoad : Replay := { lane := 1, at_ := 5, granted := false, words := [4], load := true }

/-- The device after reset, where the two loads wait on core 0, and where its cluster is down to its least ration, four grants in a
lane cycle (18 R418). -/
def rationedLoads : State :=
  let s := onCluster State.reset 0 (fun c => { c with grantR := 4 })
  { onCore s 0 (fun c => { c with replays := [firstLoad, secondLoad] }) with fcycles := 100000 }

theorem replays_of_rationedLoads : (coreAt rationedLoads 0).replays = [firstLoad, secondLoad] := by decide

theorem secondLoad_waits : rationedLoads.cores.findIdx? (fun c => c.replays.any (fun r => decide (r.lane = 1) && !r.granted)) = some 0 := by
  decide

/-- The first load takes all four grants. -/
theorem secondLoad_rankedBehind : rankedBehind rationedLoads 0 1 5 (cyclesOf rationedLoads 0) [4] true = true := by decide

/-- Refutes O15: an access of an earlier rank holds a lane back also where no bank is common to the two, if it leaves too few of the
grants of the lane cycle (18 R418). The statement leaves that out: of two loads that were presented in one lane cycle, for different banks, it lets
the second be served, while the first takes all the grants of a rationed cluster. -/
theorem not_memoryEvents : ¬ Obligations.MemoryEvents := by
  intro ⟨_, _, _, hserved, _⟩
  have hfind : (coreAt rationedLoads 0).replays.find? (fun r => decide (r.lane = 1)) = some secondLoad := by decide
  have hcycle : secondLoad.at_ < cyclesOf rationedLoads (0 / 4) := by decide
  have hapart : ∀ x ∈ (coreAt rationedLoads 0).replays, x.granted = false → secondLoad.at_ < x.at_ ∨
      (secondLoad.at_ = x.at_ ∧ 1 ≤ x.lane) ∨ ∀ a ∈ x.words, ∀ b ∈ secondLoad.words, a % 32 ≠ b % 32 := by
    rw [replays_of_rationedLoads]
    decide
  have hfree : bankFree rationedLoads 0 (cyclesOf rationedLoads (0 / 4)) secondLoad.words secondLoad.load = true := by decide
  have hx := hserved rationedLoads 1 0 secondLoad secondLoad_waits hfind hcycle hapart hfree
  rw [bankReplay_notEnabled secondLoad_waits hfind secondLoad_rankedBehind] at hx
  cases hx

end Sys2Proof.Proofs

namespace Sys2Proof.Proofs
open Sys2Proof.Machine Sys2Proof.Laws Sys2Proof.Claims

/-! ## The stream instructions and the generators (O19) -/

/-! ### STRMSET, STRMGO and STRMEND -/

/-- The operation of STRMSET (09 R241). -/
def strmsetOp (f : CF) (g : Group) (s : State) : GOut :=
  let bad := { trapC 0x17 0 with addr := BitVec.ofNat 64 (va57 (g.s.getD f.sdesc.toNat 0)) }
  if (slotOf s g.core (strmNo f)).st ≠ .free then .trap s strmState
  else if va57 (g.s.getD f.sdesc.toNat 0) % 64 ≠ 0 then .trap s bad
  else match groupRead s g (va57 (g.s.getD f.sdesc.toNat 0)) 64 with
    | (s, .error none) => .hold s
    | (s, .error (some e)) => .trap s (readFault bad e)
    | (s, .ok bs) => if strmMalformed (wordsAt bs 0 8) then .trap s bad
      else .done (putSlot s g.core (strmNo f) { Stream.empty with st := .set, team := g.team, recd := wordsAt bs 0 8 })

theorem exec_strmset (h : Hd) (f : CF) (s : State) : exec (.strmset h f) s = wideOp (.strmset h f) h (strmsetOp f) s := rfl

theorem wordsAt_zero (bs : List Byte) (n : Nat) :
    wordsAt bs 0 n = (List.range n).map (fun i => BitVec.ofNat 64 (leNat ((bs.drop (8 * i)).take 8))) := by
  simp only [wordsAt, wAt, Nat.zero_add]

theorem groupOf_groupRead {s s1 : State} {g x : Group} {va n id : Nat} {r : Except (Option TrapInfo) (List Byte)} (hx : groupOf s id = some x)
    (h : groupRead s g va n = (s1, r)) : groupOf s1 id = some x := by
  have ha := agents_recRead s g.who g.launch g.core (ownReqs g) va n false
  have h1 : (recRead s g.who g.launch g.core (ownReqs g) va n false).1 = s1 := congrArg Prod.fst h
  rw [h1] at ha
  rw [groupOf_of_groups (groups_of_agents ha), hx]

/-- A record that has been read for a free slot sets it, where it is well-formed (09 R241). -/
theorem strmsetOp_read {f : CF} {g : Group} {s s1 : State} {bs : List Byte} (hst : (slotOf s g.core (strmNo f)).st = .free)
    (hal : (sdesc g f).toNat % 2 ^ 57 % 64 = 0) (hread : groupRead s g ((sdesc g f).toNat % 2 ^ 57) 64 = (s1, .ok bs)) :
    let w := (List.range 8).map (fun i => BitVec.ofNat 64 (leNat ((bs.drop (8 * i)).take 8)))
    strmsetOp f g s = if strmMalformed w then .trap s1 { cause := 0x17, sub := 0, addr := BitVec.ofNat 64 ((sdesc g f).toNat % 2 ^ 57) }
      else .done (putSlot s1 g.core (strmNo f) { Stream.empty with st := .set, team := g.team, recd := w }) := by
  intro w
  have hread' : groupRead s g (va57 (g.s.getD f.sdesc.toNat 0)) 64 = (s1, .ok bs) := hread
  have hw : wordsAt bs 0 8 = w := wordsAt_zero bs 8
  refine (if_neg (not_not_intro hst)).trans ((if_neg (not_not_intro hal)).trans ?_)
  rw [hread', ← hw]
  rfl

/-- The operation of STRMGO (09 R241). -/
def strmgoOp (f : CF) (g : Group) (s : State) : GOut :=
  let x := slotOf s g.core (strmNo f)
  if x.st ≠ .set ∨ x.team ≠ g.team then .trap s strmState
  else if g.coal ≠ [] ∨ g.fifo ≠ [] then .wait
  else .done (putSlot s g.core (strmNo f) { x with st := .running })

theorem exec_strmgo (h : Hd) (f : CF) (s : State) : exec (.strmgo h f) s = wideOp (.strmgo h f) h (strmgoOp f) s := rfl

/-- The operation of STRMEND (09 R241). -/
def strmendOp (f : CF) (g : Group) (s : State) : GOut :=
  let x := slotOf s g.core (strmNo f)
  if x.st = .free ∨ x.team ≠ g.team then .trap s strmState
  else if strmEnds s g.core (strmNo f) x then .done (freeSlot s g.core (strmNo f))
  else .done (setGroup (putSlot s g.core (strmNo f) { x with ending := true }) (parkGroup s g (.strmend (strmNo f))))

theorem exec_strmend (h : Hd) (f : CF) (s : State) : exec (.strmend h f) s = wideOp (.strmend h f) h (strmendOp f) s := rfl

/-! ### One thread of STRMPOP and STRMPSH -/

/-- A group whose thread t has words put into its registers, over what the window holds (06 R126). -/
def withWords (s : State) (t : Nat) (ws : List (Nat × W32)) (g : Group) : Group :=
  ws.foldl (fun g w => holdLine s g (lineNo g w.1) [(t, w.2)] .general) g

theorem outside_withWords (s : State) (t : Nat) (ws : List (Nat × W32)) (g : Group) : (withWords s t ws g).outside = g.outside := by
  induction ws generalizing g with
  | nil => rfl
  | cons w ws ih => exact ih (holdLine s g (lineNo g w.1) [(t, w.2)] .general)

/-- The words are read where they were put. -/
theorem readLine_withWords {s s1 : State} (hs : ∀ g n, readLine s1 g n = readLine s g n) (t : Nat) (ws : List (Nat × W32)) (g : Group) (n : Nat) :
    readLine s1 (withWords s t ws g) n =
      mergeLine (readLine s1 g n) ((ws.filter (fun w => decide (lineNo g w.1 = n))).map (fun w => (t, w.2))) := by
  induction ws generalizing g with
  | nil => rfl
  | cons w ws ih =>
    refine (ih (holdLine s g (lineNo g w.1) [(t, w.2)] .general)).trans ?_
    rw [readLine_holdLine]
    change mergeLine _ ((ws.filter (fun w => decide (lineNo g w.1 = n))).map (fun w => (t, w.2))) = _
    by_cases hw : lineNo g w.1 = n
    · rw [if_pos hw.symm, List.filter_cons_of_pos (by simpa using hw), hw, ← hs g n]
      rfl
    · rw [if_neg (Ne.symm hw), List.filter_cons_of_neg (by simpa using hw)]

section
variable {s : State} {g : Group} {core slot reg t : Nat} (hg : groupOf s g.id = some g)
include hg

theorem strmGo_past {push : Bool} (hd : strmTotal (slotOf s core slot).recd ≤ (slotOf s core slot).done) :
    strmGo core slot g.id reg push [t] s = .fault s { strmState with sub := 1, thread := some t } := by
  simp only [strmGo, hg, if_pos hd]

variable (hd : (slotOf s core slot).done < strmTotal (slotOf s core slot).recd)
include hd

theorem strmGo_pop {e : List Byte} {rest : List (List Byte)} (hf : (slotOf s core slot).fifo = e :: rest) :
    strmGo core slot g.id reg false [t] s =
      .all (putSlot (setGroup s (withWords s t (wordsFrom reg (strmRegs (slotOf s core slot).recd) (leNat e)) g)) core slot
        { slotOf s core slot with fifo := rest, done := (slotOf s core slot).done + 1 }) := by
  simp only [strmGo, hg, if_neg (Nat.not_le.mpr hd), Bool.false_eq_true, if_false, hf]
  rfl

theorem strmGo_popWaits (hf : (slotOf s core slot).fifo = []) (hb : (slotOf s core slot).bad = none) :
    strmGo core slot g.id reg false [t] s = .park s [t] := by
  simp only [strmGo, hg, if_neg (Nat.not_le.mpr hd), Bool.false_eq_true, if_false, hf, hb]

variable (hb : (slotOf s core slot).bad = none)
include hb

theorem strmGo_pushWaits (hroom : 2048 < ((slotOf s core slot).fifo.length + 1) * strmSize (slotOf s core slot).recd) :
    strmGo core slot g.id reg true [t] s = .park s [t] := by
  simp only [strmGo, hg, if_neg (Nat.not_le.mpr hd), if_true, hb, if_pos hroom]

variable (hroom : ((slotOf s core slot).fifo.length + 1) * strmSize (slotOf s core slot).recd ≤ 2048)
include hroom

theorem strmGo_push {s1 : State} {p : Place} (hp : pushCheck s core slot (slotOf s core slot) = (s1, .ok p)) :
    strmGo core slot g.id reg true [t] s = .all (putSlot s1 core slot { slotOf s core slot with
      fifo := (slotOf s core slot).fifo ++ [((List.range (strmRegs (slotOf s core slot).recd)).flatMap
        (fun i => natLE 4 (readV s1 g (reg + i) t).toNat)).take (strmSize (slotOf s core slot).recd)],
      done := (slotOf s core slot).done + 1 }) := by
  simp only [strmGo, hg, if_neg (Nat.not_le.mpr hd), if_true, hb, if_neg (Nat.not_lt.mpr hroom), hp]

theorem strmGo_pushFaults {s1 : State} {c b a : Nat} {a2 : W64} (hp : pushCheck s core slot (slotOf s core slot) = (s1, .error (.fault c b a a2))) :
    strmGo core slot g.id reg true [t] s = .fault (strmHold s1 core slot (slotOf s core slot) (slotOf s core slot).done c b a a2)
      { cause := c, sub := b, addr := BitVec.ofNat 64 a, addr2 := a2, thread := some t } := by
  simp only [strmGo, hg, if_neg (Nat.not_le.mpr hd), if_true, hb, if_neg (Nat.not_lt.mpr hroom), hp]
end

/-! ### What a generator's accesses leave as it was -/

section
variable (s : State)

theorem agents_genRead (core : Nat) (w : Who) (va n : Nat) : agents (genRead s core w va n).1 = agents s := by
  have hx := agents_translate s w.cluster (some core) w.ctx va .rd
  unfold genRead
  split
  · split
    · rfl
    · split <;> rename_i h <;> rw [h] at hx
      · exact hx
      · split
        · exact hx
        · extract_lets
          split
          · exact hx
          · split
            · exact hx
            · split <;> exact hx
  · split <;> rfl
  · rfl

theorem agents_genPlace (core : Nat) (w : Who) (va n : Nat) : agents (genPlace s core w va n).1 = agents s := by
  have hx := agents_translate s w.cluster (some core) w.ctx va .wr
  unfold genPlace
  split
  · split
    · rfl
    · split <;> rfl
  · split
    · rfl
    · split <;> rename_i h <;> rw [h] at hx <;> exact hx
  · rfl

theorem agents_strmAddr (core : Nat) (w : Who) (recd : List W64) (n : Nat) : agents (strmAddr s core w recd n).1 = agents s := by
  unfold strmAddr
  extract_lets off base
  split
  · rfl
  · have hx := agents_genRead s core w (((recd.getD 1 0).toNat + off) % 2 ^ 57).toNat (2 ^ strmInd recd)
    split <;> rename_i h <;> rw [h] at hx <;> exact hx

theorem agents_pushCheck (core slot : Nat) (x : Stream) : agents (pushCheck s core slot x).1 = agents s := by
  have hx := agents_strmAddr s core (strmWho s core slot x.team) x.recd x.done
  unfold pushCheck
  extract_lets w
  split <;> rename_i h <;> rw [h] at hx
  · exact hx
  · exact (agents_genPlace ..).trans hx
end

theorem groupOf_pushCheck {s s1 : State} {g : Group} {core slot id : Nat} {x : Stream} {r : Except CErr Place} (hg : groupOf s id = some g)
    (h : pushCheck s core slot x = (s1, r)) : groupOf s1 id = some g := by
  have ha := agents_pushCheck s core slot x
  rw [h] at ha
  rw [groupOf_of_groups (groups_of_agents ha), hg]

/-! ### STRMPOP and STRMPSH -/

/-- How STRMPOP and STRMPSH end, as their threads do (09 R242). -/
def strmEnd (f : CF) (push : Bool) (g : Group) : StrmOut → GOut
  | .all s => .done s
  | .fault s t => .trap s t
  | .park s rest => .done (setGroup s (parkGroup s ((groupOf s g.id).getD g) (.strm (strmNo f) push (f.fl 0 11) (maskOf rest))))

/-- The operation of STRMPOP and STRMPSH (09 R242). -/
def strmTurn (f : CF) (push : Bool) (g : Group) (s : State) : GOut :=
  let x := slotOf s g.core (strmNo f)
  if x.st ≠ .running ∨ x.team ≠ g.team ∨ strmScatters x.recd ≠ push then .trap s strmState
  else strmEnd f push g (strmGo g.core (strmNo f) g.id (f.fl 0 11) push (threads (liveMask g)) s)

theorem exec_strmpop (h : Hd) (f : CF) (s : State) : exec (.strmpop h f) s = wideOp (.strmpop h f) h (strmTurn f false) s := rfl

theorem exec_strmpsh (h : Hd) (f : CF) (s : State) : exec (.strmpsh h f) s = wideOp (.strmpsh h f) h (strmTurn f true) s := rfl

/-- The one thread t of group g is at STRMPOP or STRMPSH, on a slot of its team that runs in that direction. -/
structure StrmThread (s : State) (g : Group) (f : CF) (push : Bool) (t : Nat) : Prop where
  one : threads (liveMask g) = [t]
  running : (slotOf s g.core (strmNo f)).st = .running
  team : (slotOf s g.core (strmNo f)).team = g.team
  way : strmScatters (slotOf s g.core (strmNo f)).recd = push

theorem strmTurn_of {s : State} {g : Group} {f : CF} {push : Bool} {t : Nat} (h : StrmThread s g f push t) :
    strmTurn f push g s = strmEnd f push g (strmGo g.core (strmNo f) g.id (f.fl 0 11) push [t] s) := by
  rw [strmTurn, h.one]
  refine if_neg ?_
  rw [not_or, not_or]
  exact ⟨not_not_intro h.running, not_not_intro h.team, not_not_intro h.way⟩

section
variable {s : State} {g : Group} {h : Hd} {f : CF} {push : Bool} {t : Nat} {i : Instr} (hx : exec i s = wideOp i h (strmTurn f push) s)
  (hr : Runs s g i) (hw : wideActs g h = true) (ht : StrmThread s g f push t)
include hx hr hw ht

theorem strm_traps {s1 : State} {c : TrapInfo} (hgo : strmGo g.core (strmNo f) g.id (f.fl 0 11) push [t] s = .fault s1 c)
    (hs : groupOf s1 g.id = some g) : Traps i s s1 g c :=
  wide_traps hx hr hw (by rw [strmTurn_of ht, hgo, strmEnd]) hs

theorem strm_does {s1 : State} (hgo : strmGo g.core (strmNo f) g.id (f.fl 0 11) push [t] s = .all s1) (hs : groupOf s1 g.id = some g) :
    Does i s s1 g g [] :=
  wide_state hx hr hw (by rw [strmTurn_of ht, hgo, strmEnd]) hs

theorem strm_parks (hgo : strmGo g.core (strmNo f) g.id (f.fl 0 11) push [t] s = .park s [t]) :
    Moves i s s g { g with st := .parked, park := some (.strm (strmNo f) push (f.fl 0 11) (maskOf [t])) } :=
  wide_parks hx hr hw (by rw [strmTurn_of ht, hgo, strmEnd, hr.2.1]; rfl) hr.2.1

/-- A thread that has got words in its registers, in a state s1 that holds the memory of s. -/
theorem strm_gives {s1 : State} {ws : List (Nat × W32)}
    (hgo : strmGo g.core (strmNo f) g.id (f.fl 0 11) push [t] s = .all (setGroup s1 (withWords s t ws g))) (hs : groupOf s1 g.id = some g)
    (hread : ∀ g n, readLine s1 g n = readLine s g n) :
    Answers s g i (fun t' g' => Reads s1 t' g g' i (fun m => (ws.filter (fun w => decide (lineNo g w.1 = m))).map (fun w => (t, w.2))) ∧
      Completed g g' [] ∧ OnlyGroup s1 t' g) := by
  have ho := outside_withWords s t ws g
  have hid : (withWords s t ws g).id = g.id := outside_field (fun x => x.id) (fun _ => rfl) ho
  have hst : (withWords s t ws g).st = g.st := outside_field (fun x => x.st) (fun _ => rfl) ho
  have hll : (withWords s t ws g).ll = g.ll := outside_field (fun x => x.ll) (fun _ => rfl) ho
  have hn : lineNo (withWords s t ws g) = lineNo g := by
    funext r
    rw [lineNo, lineNo, outside_field (fun x => x.handler) (fun _ => rfl) ho, outside_field (fun x => x.nregs) (fun _ => rfl) ho]
  have hk : (if wideActs g h then strmTurn f push g s else .done s) = GOut.done (setGroup s1 (withWords s t ws g)) := by
    rw [if_pos hw, strmTurn_of ht, hgo, strmEnd]
  obtain ⟨u, g', hnext, hg', honly, hdone, -, hlines⟩ :=
    runInstr_group (k := fun g s => if wideActs g h then strmTurn f push g s else .done s) hr hk hs hid (by rw [hst, hr.2.2.1]; decide) hn
  rw [newKeys_same hll] at hdone
  exact ⟨u, g', hx.trans hnext, hg', fun n hnot => (hlines n hnot).trans (readLine_withWords hread t ws g n), completed_congr ho hdone, honly⟩
end

/-! ### STREAM_ELEMENT -/

/-- The generator of a slot is to move its next element, which its record names itself, and no copy owns the element's line
(08 R200, R201; 09 R232). -/
structure GeneratorMoves (s : State) (core slot va : Nat) : Prop where
  running : (slotOf s core slot).st = .running
  undrained : (coreAt s core).drained = false
  steady : switching s (core / 4) = false
  goesOn : strmStops (slotOf s core slot) = false
  left : (slotOf s core slot).moved < strmTotal (slotOf s core slot).recd
  place : strmAddr s core (strmWho s core slot (slotOf s core slot).team) (slotOf s core slot).recd (slotOf s core slot).moved = (s, .ok va)
  free : genWaits s (strmWho s core slot (slotOf s core slot).team) va = false

theorem strmAddr_direct {recd : List W64} (h : strmInd recd = 0) (s : State) (core : Nat) (w : Who) (n : Nat) :
    strmAddr s core w recd n = (s, .ok (((recd.getD 0 0).toNat + strmOff recd n) % 2 ^ 57).toNat) := by
  simp only [strmAddr, h]

section
variable {s s1 : State} {core slot va : Nat} (hm : GeneratorMoves s core slot va)
include hm

theorem GeneratorMoves.enabled : ¬((slotOf s core slot).st ≠ .running ∨ (coreAt s core).drained ∨ switching s (core / 4) ∨
    strmStops (slotOf s core slot) ∨ strmTotal (slotOf s core slot).recd ≤ (slotOf s core slot).moved) := by
  have hleft := hm.left
  simp only [hm.running, hm.undrained, hm.steady, hm.goesOn]
  simpa using hleft

theorem streamElement_gathers (hg : strmScatters (slotOf s core slot).recd = false)
    (hroom : ((slotOf s core slot).fifo.length + 1) * strmSize (slotOf s core slot).recd ≤ 2048) {bs : List Byte}
    (hread : genRead s core (strmWho s core slot (slotOf s core slot).team) va (strmSize (slotOf s core slot).recd) = (s1, .ok bs)) :
    exec (.streamElement core slot) s = .next (dropGot (putSlot s1 core slot { slotOf s core slot with
      moved := (slotOf s core slot).moved + 1, fifo := (slotOf s core slot).fifo ++ [bs] })
      (strmWho s core slot (slotOf s core slot).team).id) := by
  have hx : exec (.streamElement core slot) s = execStreamElement core slot s := rfl
  rw [hx, execStreamElement]
  simp only [if_neg hm.enabled, hm.place, hm.free, Bool.false_eq_true, if_false, hg, if_neg (Nat.not_lt.mpr hroom), hread]

theorem streamElement_scatters (hsc : strmScatters (slotOf s core slot).recd = true) {e : List Byte} {rest : List (List Byte)}
    (hf : (slotOf s core slot).fifo = e :: rest) (hwrite : genWrite s core (strmWho s core slot (slotOf s core slot).team) va e = .ok s1) :
    exec (.streamElement core slot) s = .next (dropGot (putSlot s1 core slot { slotOf s core slot with
      moved := (slotOf s core slot).moved + 1, fifo := rest }) (strmWho s core slot (slotOf s core slot).team).id) := by
  have hx : exec (.streamElement core slot) s = execStreamElement core slot s := rfl
  rw [hx, execStreamElement]
  simp only [if_neg hm.enabled, hm.place, hm.free, Bool.false_eq_true, if_false, hsc, if_true, hf, hwrite]
end

/-- Settles O19: the slot instructions are worked out from their operations, STRMPOP and STRMPSH from the turn of their one thread. -/
theorem streams : Obligations.Streams := by
  refine ⟨fun s g h f hw hr => ?set, fun s g h f hw hr => ?go, fun s g h f hw hr => ?ends, fun s g h f t hw ht => ?threads, fun s core slot => ?element⟩
  case set =>
    have hx := exec_strmset h f s
    refine ⟨fun hst => wide_traps hx hr hw (if_pos hst) hr.2.1,
      fun hst hal => wide_traps hx hr hw ((if_neg (not_not_intro hst)).trans (if_pos hal)) hr.2.1, fun s1 bs hst hal hread => ?_⟩
    have hop := strmsetOp_read hst hal hread
    have hs := groupOf_groupRead hr.2.1 hread
    exact ⟨fun hok => wide_state hx hr hw (hop.trans (if_neg (ne_true_of_eq_false hok))) hs,
      fun hbad => wide_traps hx hr hw (hop.trans (if_pos hbad)) hs⟩
  case go =>
    have hx := exec_strmgo h f s
    refine ⟨fun hst hteam hcoal hfifo => wide_state hx hr hw ?_ hr.2.1, fun hno => wide_traps hx hr hw (if_pos hno) hr.2.1⟩
    refine (if_neg ?_).trans (if_neg ?_)
    · exact not_or.mpr ⟨not_not_intro hst, not_not_intro hteam⟩
    · exact not_or.mpr ⟨not_not_intro hcoal, not_not_intro hfifo⟩
  case ends =>
    have hx := exec_strmend h f s
    refine ⟨fun hst hteam hends => wide_state hx hr hw ?_ hr.2.1, fun hst hteam hends => wide_parks (s0 := s) hx hr hw ?_ hr.2.1,
      fun hno => wide_traps hx hr hw (if_pos hno) hr.2.1⟩
    · exact (if_neg (not_or.mpr ⟨hst, not_not_intro hteam⟩)).trans (if_pos hends)
    · exact (if_neg (not_or.mpr ⟨hst, not_not_intro hteam⟩)).trans (if_neg (ne_true_of_eq_false hends))
  case threads =>
    intro n x reg k hst hteam _ _ _ _
    refine ⟨fun hr hgather hd => ?pop, fun hr hsc hd hbad => ?push, fun hr hgather hd => ?past⟩
    case pop =>
      have hth : StrmThread s g f false t := ⟨ht, hst, hteam, hgather⟩
      refine ⟨fun e rest hf => ?_, fun hf hbad => strm_parks (exec_strmpop h f s) hr hw hth (strmGo_popWaits hr.2.1 hd hf hbad)⟩
      exact strm_gives (s1 := putSlot s g.core n { x with fifo := rest, done := x.done + 1 }) (exec_strmpop h f s) hr hw hth
        (strmGo_pop hr.2.1 hd hf) hr.2.1 (fun g n => readLine_same g rfl rfl rfl rfl rfl n)
    case push =>
      have hth : StrmThread s g f true t := ⟨ht, hst, hteam, hsc⟩
      have hx := exec_strmpsh h f s
      refine ⟨fun hroom s1 p hp => ?_, fun hroom s1 c b a a2 hp => ?_, fun hroom => strm_parks hx hr hw hth (strmGo_pushWaits hr.2.1 hd hbad hroom)⟩
      · exact strm_does hx hr hw hth (strmGo_push hr.2.1 hd hbad hroom hp) (groupOf_pushCheck hr.2.1 hp :)
      · exact strm_traps hx hr hw hth (strmGo_pushFaults hr.2.1 hd hbad hroom hp) (groupOf_pushCheck hr.2.1 hp :)
    case past =>
      exact strm_traps (exec_strmpop h f s) hr hw ⟨ht, hst, hteam, hgather⟩ (strmGo_past hr.2.1 hd) hr.2.1
  case element =>
    intro x w va hst hdr hsw hstop hleft hind hfree
    have hm : GeneratorMoves s core slot va := ⟨hst, hdr, hsw, hstop, hleft, strmAddr_direct hind s core w x.moved, hfree⟩
    exact ⟨fun hg hroom s1 bs hread => streamElement_gathers hm hg hroom hread, fun hsc e rest s1 hf hwrite => streamElement_scatters hm hsc hf hwrite⟩

end Sys2Proof.Proofs

namespace Sys2Proof.Proofs
open Sys2Proof.Machine Sys2Proof.Laws Sys2Proof.Claims

/-! ## The tag instructions and STAGE (O18) -/

/-- A group-wide instruction that is done in a state s', in which its group is gk, changed in the scalar space alone. -/
theorem wide_leaves {i : Instr} {s s' : State} {g gk : Group} {h : Hd} {k : Group → State → GOut} (hx : exec i s = wideOp i h k s)
    (hr : Runs s g i) (hw : wideActs g h = true) (hk : k g s = .done s') (hg : groupOf s' g.id = some gk) (hs : Scal g gk) :
    Does i s s' g gk [] := by
  have hst : gk.st ≠ .parked := by rw [hs.st, hr.2.2.1]; decide
  obtain ⟨t, g', hnext, hg', honly, hdone, -, hlines⟩ :=
    runInstr_goesOn (k := fun g s => if wideActs g h then k g s else .done s) hr ((if_pos hw).trans hk) hg hst hs.ln
  rw [newKeys_same hs.ll] at hdone
  exact ⟨t, g', hx.trans hnext, hg', fun n hn => (hlines n hn).trans (hs.rd s' n), hdone, honly⟩

/-! ### Flags kept with tags -/

/-- A group with more flags differs in nothing that its registers depend on. -/
theorem scal_flags (g : Group) (fl : Flags) : Scal g { g with flags := fl } := ⟨rfl, rfl, rfl, rfl, fun _ _ => rfl⟩

/-- The flags kept with the tags of a mask go to the flags of their group (09 R227). -/
theorem groupOf_orConv {s : State} {g : Group} (hg : groupOf s g.id = some g) (team : Nat) (m : W64) :
    groupOf (orConv s team g.id m) g.id = some { g with flags := g.flags ||| keptFlags s team g.id m } := by
  cases ht : teamOf s team with
  | none =>
    simp only [orConv, keptFlags, ht, hg]
    simp
  | some t =>
    simp only [orConv, keptFlags, ht]
    exact groupOf_onGroup hg (fun _ => rfl)

/-! ### TAGALL and TAGANY -/

/-- The operation of TAGALL and TAGANY (09 R238). -/
def tagWaitOp (f : CF) (all : Bool) (g : Group) (s : State) : GOut :=
  match teamOf s g.team with
  | none => .wait
  | some t =>
    if sdesc g f &&& ~~~(tagMask s g.team) ≠ 0 then .trap s (trapC 0x10 0)
    else if !tagsMet t (all || isReplay s g.ctx) (sdesc g f) then
      .done (setGroup s (parkGroup s g (.tags (all || isReplay s g.ctx) all (sdesc g f))))
    else if t.tagbits &&& sdesc g f &&& t.tagerr ≠ 0 then .trap s (copyFault t (t.tagbits &&& sdesc g f &&& t.tagerr))
    else .done (if all then orConv s g.team g.id (sdesc g f) else s)

theorem exec_tagall (h : Hd) (f : CF) (s : State) : exec (.tagall h f) s = wideOp (.tagall h f) h (tagWaitOp f true) s := rfl
theorem exec_tagany (h : Hd) (f : CF) (s : State) : exec (.tagany h f) s = wideOp (.tagany h f) h (tagWaitOp f false) s := rfl

section
variable {f : CF} {all : Bool} {g : Group} {s : State} {t : Team} (ht : teamOf s g.team = some t)
include ht

/-- A tag that the team does not have is a fault (09 R238). -/
theorem tagWaitOp_wrong (hm : sdesc g f &&& ~~~(tagMask s g.team) ≠ 0) : tagWaitOp f all g s = .trap s (trapC 0x10 0) := by
  simp only [tagWaitOp, ht, if_pos hm]

variable (hm : ¬ sdesc g f &&& ~~~(tagMask s g.team) ≠ 0)
include hm

theorem tagWaitOp_waits (hd : tagsMet t (all || isReplay s g.ctx) (sdesc g f) = false) :
    tagWaitOp f all g s = .done (setGroup s (parkGroup s g (.tags (all || isReplay s g.ctx) all (sdesc g f)))) := by
  simp only [tagWaitOp, ht, if_neg hm, hd, Bool.not_false, if_true]

variable (hd : tagsMet t (all || isReplay s g.ctx) (sdesc g f) = true)
include hd

theorem tagWaitOp_failed (he : t.tagbits &&& sdesc g f &&& t.tagerr ≠ 0) :
    tagWaitOp f all g s = .trap s (copyFault t (t.tagbits &&& sdesc g f &&& t.tagerr)) := by
  simp only [tagWaitOp, ht, if_neg hm, hd, Bool.not_true, Bool.false_eq_true, if_false, if_pos he]

theorem tagWaitOp_met (he : t.tagbits &&& sdesc g f &&& t.tagerr = 0) :
    tagWaitOp f all g s = .done (if all then orConv s g.team g.id (sdesc g f) else s) := by
  simp only [tagWaitOp, ht, if_neg hm, hd, Bool.not_true, Bool.false_eq_true, if_false, if_neg (not_not_intro he)]
end

theorem tagsMet_all (t : Team) (m : W64) : tagsMet t true m = decide (t.tagbits &&& m = m) := rfl

theorem tagsMet_any (t : Team) (m : W64) : tagsMet t false m = decide (t.tagbits &&& m ≠ 0 ∨ m = 0) := by
  rw [tagsMet, if_neg Bool.false_ne_true, ← Bool.decide_or]

/-! ### TAGFF and TAGRD -/

/-- The operation of TAGFF outside replay mode (09 R239). -/
def tagffOp (f : CF) (g : Group) (s : State) : GOut :=
  match teamOf s g.team with
  | none => .wait
  | some t =>
    match lowest (sdesc g f &&& tagMask s g.team &&& (if isReplay s g.ctx then t.tagbits ||| busyTags s g.team else t.tagbits)) with
    | none => .done (setGroup s (writeScalar g (f.fl 0 6) 64))
    | some k =>
      if t.tagbits.getLsbD k then .done (setGroup s (writeScalar g (f.fl 0 6) (tagffVal t k)))
      else .done (setGroup s (parkGroup s g (.tagff k (f.fl 0 6))))

theorem exec_tagff (h : Hd) (f : CF) (s : State) : exec (.tagff h f) s = wideOp (.tagff h f) h (tagffOp f) s := rfl

/-- The lowest bit of a mask is set in it. -/
theorem getLsbD_of_lowest {m : W64} {k : Nat} (h : lowest m = some k) : m.getLsbD k = true :=
  (mem_threads.mp (List.mem_of_mem_head? h)).2

theorem tagffOp_of_team {f : CF} {g : Group} {s : State} {t : Team} (ht : teamOf s g.team = some t) (hy : isReplay s g.ctx = false) :
    tagffOp f g s = .done (setGroup s (writeScalar g (f.fl 0 6) (match lowest (sdesc g f &&& tagMask s g.team &&& t.tagbits) with
      | some k => tagffVal t k
      | none => 64))) := by
  simp only [tagffOp, ht, hy, Bool.false_eq_true, if_false]
  cases hk : lowest (sdesc g f &&& tagMask s g.team &&& t.tagbits) with
  | none => rfl
  | some k =>
    have hb := getLsbD_of_lowest hk
    rw [BitVec.getLsbD_and, Bool.and_eq_true] at hb
    exact if_pos hb.2

/-- The operation of TAGRD (09 R239). -/
def tagrdOp (f : CF) (g : Group) (s : State) : GOut :=
  match teamOf s g.team with
  | none => .wait
  | some t =>
    if isReplay s g.ctx && decide (busyTags s g.team &&& tagMask s g.team ≠ 0) then
      .done (setGroup s (parkGroup s g (.tagrd (busyTags s g.team &&& tagMask s g.team) (f.flags.getLsbD 6) (f.fl 0 6))))
    else .done (setGroup s (writeScalar g (f.fl 0 6) (tagrdVal s t (f.flags.getLsbD 6))))

theorem exec_tagrd (h : Hd) (f : CF) (s : State) : exec (.tagrd h f) s = wideOp (.tagrd h f) h (tagrdOp f) s := rfl

theorem teamOf_id {s : State} {k : Nat} {t : Team} (h : teamOf s k = some t) : t.id = k := by
  simpa using List.find?_some h

theorem tagrdOp_of_team {f : CF} {g : Group} {s : State} {t : Team} (ht : teamOf s g.team = some t) (hy : isReplay s g.ctx = false) :
    tagrdOp f g s = .done (setGroup s (writeScalar g (f.fl 0 6) ((if f.flags.getLsbD 6 then t.tagerr else t.tagbits) &&& tagMask s g.team))) := by
  simp only [tagrdOp, ht, hy, Bool.false_and, Bool.false_eq_true, if_false, tagrdVal, teamOf_id ht]

/-! ### The statement -/

/-- Settles O18: each instruction is worked out from its operation, and a tag wait from which of its tags have completed. -/
theorem tagsAndStages : Obligations.TagsAndStages := by
  refine ⟨fun s g h f t hw ht => ?waits, fun s g h f t hw ht hy => ?reads, fun s g h f hw => ?writes⟩
  case waits =>
    intro m wrong done
    refine ⟨fun hr => ?all, fun hr hy => ?any⟩
    case all =>
      have hx := exec_tagall h f s
      have met : tagsMet t (true || isReplay s g.ctx) (sdesc g f) = decide (done = m) := tagsMet_all t m
      refine ⟨fun hm => wide_traps hx hr hw (tagWaitOp_wrong ht hm) hr.2.1, fun hm hd => ?_, fun hm hd he => ?_, fun hm hd he => ?_⟩
      · exact wide_parks hx hr hw (tagWaitOp_waits ht hm (met.trans (decide_eq_false hd))) hr.2.1
      · exact wide_traps hx hr hw (tagWaitOp_failed ht hm (met.trans (decide_eq_true hd)) he) hr.2.1
      · exact wide_leaves hx hr hw (tagWaitOp_met ht hm (met.trans (decide_eq_true hd)) he) (groupOf_orConv hr.2.1 g.team m) (scal_flags g _)
    case any =>
      have hx := exec_tagany h f s
      have hev : (false || isReplay s g.ctx) = false := hy
      have met : tagsMet t (false || isReplay s g.ctx) (sdesc g f) = decide (done ≠ 0 ∨ m = 0) := by rw [hev, tagsMet_any]
      refine ⟨fun hm => wide_traps hx hr hw (tagWaitOp_wrong ht hm) hr.2.1, fun hm hd hne => ?_, fun hm hd he => ?_, fun hm hd he => ?_⟩
      · have hnot : ¬(done ≠ 0 ∨ m = 0) := not_or.mpr ⟨not_not_intro hd, hne⟩
        have hop := tagWaitOp_waits ht hm (met.trans (decide_eq_false hnot))
        rw [hev] at hop
        exact wide_parks hx hr hw hop hr.2.1
      · exact wide_traps hx hr hw (tagWaitOp_failed ht hm (met.trans (decide_eq_true hd)) he) hr.2.1
      · exact wide_state hx hr hw (tagWaitOp_met ht hm (met.trans (decide_eq_true hd)) he) hr.2.1
  case reads =>
    exact ⟨fun hr => wide_scalar (exec_tagff h f s) hr hw (tagffOp_of_team ht hy) (writeScalar_scal ..),
      fun hr => wide_scalar (exec_tagrd h f s) hr hw (tagrdOp_of_team ht hy) (writeScalar_scal ..)⟩
  case writes =>
    refine ⟨fun hr => ?_, fun hr => ?_, fun hr => ?_⟩
    · have hx : exec (.tagclr h f) s = execTagclr h f s := rfl
      exact wide_state hx hr hw rfl hr.2.1
    · have hx : exec (.stage h f) s = execStage h f s := rfl
      exact wide_state hx hr hw rfl hr.2.1
    · have hx : exec (.stageInc h f) s = execStageInc h f s := rfl
      exact wide_state hx hr hw rfl hr.2.1

end Sys2Proof.Proofs

namespace Sys2Proof.Proofs
open Sys2Proof.Machine Sys2Proof.Laws Sys2Proof.Claims

/-! ## Stores to device memory (O11) -/

/-- The window that an instruction is still in stays open, also where requests to peers stand behind it (08 R185). -/
theorem coalesceWindowClose_notEnabled {s : State} {gid : Nat} {g : Group} {w : List Req} {ws : List (List Req)} (hg : groupOf s gid = some g)
    (hc : g.coal = w :: ws) (hw : isWindow w = true) (hws : ws.any isWindow = false)
    (hr : ((replayOf s g.lane).bind (fun r => r.win)).isSome = true) : exec (.coalesceWindowClose gid) s = .fault .notEnabled := by
  have hx : exec (.coalesceWindowClose gid) s = execCoalesceWindowClose gid s := rfl
  rw [hx, execCoalesceWindowClose, hg]
  simp only [onSome, hc, hw, hws, hr, Bool.not_false, Bool.and_true, Bool.true_or, if_true]

/-- A request of group 3, the thread before whose has been sent. -/
def sentRequest (kind : ReqKind) : Req :=
  { key := 7, gid := 3, ctx := 0, launch := some 1, team := 2, cluster := 0, core := 0, seq := 1, slice := 0, dev := none, hc := false, kind := kind }

/-- The group at a store of three threads: the first has stored to memory, the second to the scratchpad of team 5. -/
def storingGroup : Group :=
  { soloGroup State.reset 3 1 2 0 with coal := [[sentRequest (.store [(0x380000, 1)])], [sentRequest (.peer 5 [(0, 1)])]] }

/-- The third thread's store to the own scratchpad, which waits for bank 0, with the first thread's window still open. -/
def thirdStore : Replay := { lane := 0, at_ := 2, granted := false, words := [0], first := some 0, win := some 0 }

/-- The device after reset, where that group waits for its bank on core 0. -/
def storing : State := { onCore State.reset 0 (fun c => { c with replays := [thirdStore] }) with groups := [storingGroup] }

/-- Refutes O11: a window stays open while its instruction waits for a bank, also where the instruction has sent requests to a peer since
(08 R185). The statement asks for that only of a window which is the group's last: it lets the window of a store to memory close behind
which a request to a peer stands, while a third thread of the same instruction waits for its bank. -/
theorem not_deviceStores : ¬ Obligations.DeviceStores := by
  intro ⟨_, hclose, _⟩
  have hg : groupOf storing 3 = some storingGroup := by decide
  have hx := hclose storing 3 storingGroup _ _ hg rfl (by decide) (by intro h; cases h)
  rw [coalesceWindowClose_notEnabled hg rfl (by decide) (by decide) (by decide)] at hx
  cases hx

end Sys2Proof.Proofs

namespace Sys2Proof.Proofs
open Sys2Proof.Machine Sys2Proof.Laws Sys2Proof.Claims

/-! ## Loads and stores of the own scratchpad (O9) -/

/-! ### What depends on the registers alone -/

section
variable {s st : State} {g : Group} (h : ∀ n, readLine st g n = readLine s g n)
include h

theorem memAddr_of_reads (f : MF) (size : Nat) (disp : Bool) (t : Nat) : memAddr st g f size disp t = memAddr s g f size disp t :=
  memAddr_congr h

theorem storeVal_of_reads (f : MF) (t : Nat) : storeVal f st g t = storeVal f s g t := readVs_congr h _ _ _
end

/-- Taking an identity changes no line that is read. -/
theorem readLine_loopStart (s : State) (g : Group) (n : Nat) : readLine (loopStart s).s g n = readLine s g n :=
  readLine_same g rfl rfl rfl rfl rfl n

/-- What a memory instruction does for a thread of the group that has the turn. -/
def ofTurn (s : State) (k : Group → Nat → MAcc → Nat → Nat → MAcc) (key : Nat) (a : MAcc) (j t : Nat) : MAcc :=
  match s.cur.bind (groupOf s) with
  | none => a.halt
  | some g => k g key a j t

theorem ofTurn_of_runs {s : State} {g : Group} {i : Instr} (hr : Runs s g i) (k : Group → Nat → MAcc → Nat → Nat → MAcc) : ofTurn s k = k g := by
  funext key a j t
  rw [ofTurn, hr.1, Option.bind_some, hr.2.1]

/-- Turns at the banks change no group. -/
theorem bankTurns_groups {g : Group} {tm size : Nat} {isLoad : Bool} {off : Nat → Nat} {ts : List Nat} {i : Nat} {s s2 : State}
    (h : bankTurns s g tm size isLoad off ts i = some s2) : s2.groups = s.groups := by
  induction ts generalizing i s with
  | nil =>
    cases h
    rfl
  | cons t ts ih =>
    rw [bankTurns] at h
    split at h
    · cases h
    · rename_i s1 h1
      rw [ih h, bankTurn_same h1]

/-! ### Instructions that send no request -/

/-- What an acquire load makes its result's acquire: its scope, counted from 1 (09 R211). -/
def acquires : Instr → Nat
  | .lda _ f => f.hint.toNat + 1
  | _ => 0

/-- The scalar registers that a memory instruction's result writes (09 R210). -/
def scalarsOf : Instr → List Nat
  | .ldu _ f => [f.data.toNat]
  | _ => []

section
variable {i : Instr} {h : Hd} {f : MF} {size t0 : Nat} {one noMod : Bool} {k : Group → Nat → MAcc → Nat → Nat → MAcc} {s s2 : State} {g : Group}
  {ts : List Nat} (hr : Runs s g i) (ha : MayAccess s g f size) (hts : accessors g h one = t0 :: ts) (hg : s2.groups = s.groups)
include hr ha hts hg

/-- A memory instruction without a result whose threads leave a state s2 and no request. -/
theorem does_accesses {sends : Bool} (hc : (sends && decide (g.coal ≠ [])) = false) (hx : exec i s = memOp i h f size one false sends noMod (ofTurn s k) s)
    (hloop : memLoop (k g s.nextId) (t0 :: ts) 0 (loopStart s) = { loopStart s with s := s2 }) :
    Does i s (dropGot s2 g.id) g (postInc g f size) [] := by
  obtain ⟨hacq, hrep, hmod⟩ := ha
  rw [← ofTurn_of_runs hr k] at hloop
  have hdoes := memOp_plain hx hr hts (by rw [hmod]; rfl) hc hacq hrep hloop rfl rfl rfl rfl ((groupOf_of_groups hg g.id).trans hr.2.1)
  have hkeep : enterReqs s2 g [] = (s2, g) := by simp [enterReqs]
  dsimp only [loopStart] at hdoes
  rw [hkeep] at hdoes
  exact hdoes

/-- A memory instruction whose threads leave a state s2, parts of a result and no request. -/
theorem does_reads {ps : List (Nat × Nat × W32)} {cs : List (Nat × W64)} (hlen : g.ll.length < 16)
    (hx : exec i s = memOp i h f size one true false noMod (ofTurn s k) s)
    (hloop : memLoop (k g s.nextId) (t0 :: ts) 0 (loopStart s) = { loopStart s with s := s2, parts := ps, scl := cs })
    (hsome : ¬(ps = [] ∧ cs = [])) :
    Does i s (dropGot s2 g.id) g (postInc { g with
      ll := g.ll ++ [{ newLL i g s.nextId h with vec := ps, scl := cs, need := 0, acq := acquires i, sregs := scalarsOf i }] } f size)
      (newKey g s.nextId) := by
  obtain ⟨hacq, hrep, hmod⟩ := ha
  rw [← ofTurn_of_runs hr k] at hloop
  have hdoes := memOp_result (i := i) rfl hx hr hts (by rw [hmod]; rfl) hlen rfl hacq hrep hloop rfl rfl rfl rfl
    ((groupOf_of_groups hg g.id).trans hr.2.1) (fun h => hsome ⟨h.1, h.2.1⟩)
  have hkeep : enterReqs s2 g [] = (s2, g) := by simp [enterReqs]
  dsimp only [loopStart] at hdoes
  rw [hkeep] at hdoes
  exact hdoes
end

/-! ### Loads -/

/-- The values of some threads give a result a part. -/
theorem gotParts_ne {g : Group} {h : Hd} {f : MF} {k t0 : Nat} {ts : List Nat} (hts : accessors g h h.u = t0 :: ts) (bytes : Nat → List Byte) :
    (t0 :: ts).flatMap (fun t => (retParts (vecRet g h f k t) (bytes t)).1) ≠ [] := by
  have hone : (vecRet g h f k t0).ts ≠ [] := by
    unfold vecRet accessors at *
    dsimp only
    split
    · intro hnone
      simp [hnone] at hts
    · exact List.cons_ne_nil _ _
  intro hnil
  exact retParts_ne (r := vecRet g h f k t0) (bs := bytes t0) (.inr ⟨szRegs_pos _, hone⟩)
    ⟨List.flatMap_eq_nil_iff.mp hnil t0 List.mem_cons_self, rfl, rfl⟩

/-- The result of LD is that of its threads' values. -/
theorem newLL_ld (s : State) (g : Group) (h : Hd) (f : MF) (ts : List Nat) (bytes : Nat → List Byte) :
    { newLL (.ld h f) g s.nextId h with
      vec := ts.flatMap (fun t => (retParts (vecRet g h f s.nextId t) (bytes t)).1), scl := [], need := 0,
      acq := acquires (.ld h f), sregs := scalarsOf (.ld h f) } =
    loadResult s g (.ld h f) h f 0 0 (ts.map (fun t => (t, bytes t))) := by
  have hregs : (spanRegs (vwrites (.ld h f))).map (lineNo g) = (List.range (szRegs f.sz)).map (fun k => lineNo g (f.data.toNat + k)) := by
    change (spanRegs [(f.data.toNat, szRegs f.sz)]).map (lineNo g) = _
    rw [span1, List.map_map]
    rfl
  simp only [newLL, hregs, loadResult, List.flatMap_map, acquires, scalarsOf]

/-- The result of LDU is its one value. -/
theorem newLL_ldu (s : State) (g : Group) (h : Hd) (f : MF) (bs : List Byte) :
    { newLL (.ldu h f) g s.nextId h with
      vec := [], scl := [(f.data.toNat, loadScalar f.sz bs)], need := 0, acq := acquires (.ldu h f), sregs := scalarsOf (.ldu h f) } =
    scalarResult s g h f bs := rfl

/-- Where LDU puts the value of its thread. -/
def scalarRet (f : MF) (k t : Nat) : Ret := { key := k, line := 0, n := 0, t := t, ts := [t], scl := some f.data.toNat, sz := f.sz }

/-- One thread's load in the own scratchpad, where it wins its banks. -/
theorem loadThread_pad {s : State} {g : Group} {f : MF} {team : Team} {home : Bool} {ret : Nat → Ret} {a : MAcc} {i t : Nat} {addr : W64}
    (hg : groupOf a.s g.id = some g) (ht : teamOf a.s g.team = some team) (haddr : memAddr a.s g f (szBytes f.sz) true t = addr)
    (hp : InPad team (szBytes f.sz) addr) (hb : bankTurn a.s g g.team (addr.toNat % 2 ^ 48) (szBytes f.sz) true i = some s) :
    loadThread f g home ⟨true, true⟩ .rd ret (fun s => s) a i t =
      ({ a with s := s }.give (retParts (ret t) (memBytes team.scratch (addr.toNat % 2 ^ 48) (szBytes f.sz)))) := by
  have hacc : accGroup g a = g := by simp [accGroup, hg]
  have hteam : teamOf s g.team = some team := ((bankTurn_keeps hb).1 g.team).trans ht
  unfold loadThread
  simp only [hacc, haddr, resolve_own (ad := ⟨true, true⟩) (acc := .rd) (ex := false) (t := t) ht rfl hp]
  simp only [loadAt, padAccess, ne_eq, not_true_eq_false, decide_false, Bool.false_and, Bool.false_eq_true, if_false, hb, padBytes, hteam, ite_self]

theorem exec_ld (h : Hd) (f : MF) (s : State) : exec (.ld h f) s = memOp (.ld h f) h f (szBytes f.sz) h.u true false false
    (ofTurn s (fun g key => loadThread f g (decide (f.hint = 1)) ⟨true, true⟩ .rd (vecRet g h f key) (fun s => s))) s := rfl

theorem exec_ldu (h : Hd) (f : MF) (s : State) : exec (.ldu h f) s = memOp (.ldu h f) h f (szBytes f.sz) true true false false
    (ofTurn s (fun g key => loadThread f g (decide (f.hint = 1)) ⟨true, true⟩ .rd (scalarRet f key) (fun s => s))) s := rfl

section
variable {s s2 : State} {g : Group} {h : Hd} {f : MF} {team : Team} (ht : teamOf s g.team = some team) (hl : MayLoad s g f)
include ht hl

theorem ld_scratchpad {t0 : Nat} {ts : List Nat} (hr : Runs s g (.ld h f)) (hts : accessors g h h.u = t0 :: ts) :
    let addr := fun t => memAddr s g f (szBytes f.sz) true t
    (∀ t ∈ t0 :: ts, InPad team (szBytes f.sz) (addr t)) →
    bankTurns { s with nextId := s.nextId + 1 } g g.team (szBytes f.sz) true (fun t => (addr t).toNat % 2 ^ 48) (t0 :: ts) 0 = some s2 →
    Does (.ld h f) s (dropGot s2 g.id) g (postInc { g with ll := g.ll ++ [loadResult s g (.ld h f) h f 0 0 ((t0 :: ts).map (fun t =>
      (t, memBytes team.scratch ((addr t).toNat % 2 ^ 48) (szBytes f.sz))))] } f (szBytes f.sz)) (newKey g s.nextId) := by
  intro addr hp hb
  have hg : s2.groups = s.groups := (bankTurns_groups hb :)
  have hloop := load_threads (decide (f.hint = 1)) (vecRet g h f s.nextId) (fun _ => rfl) addr
    (fun st hst t => memAddr_of_reads hst f _ true t) (t0 :: ts) 0 (loopStart s) s2 rfl ht hr.2.1 (readLine_loopStart s g) hp hb
  have hnil : (loopStart s).parts = [] := rfl
  rw [hnil, List.nil_append] at hloop
  have hdoes := does_reads hr hl.2 hts hg hl.1 (exec_ld h f s) hloop (fun hnone => gotParts_ne hts _ hnone.1)
  rw [← newLL_ld]
  exact hdoes

theorem ldu_scratchpad {t : Nat} (hr : Runs s g (.ldu h f)) (hts : accessors g h true = [t]) :
    let addr := memAddr s g f (szBytes f.sz) true t
    InPad team (szBytes f.sz) addr →
    bankTurn { s with nextId := s.nextId + 1 } g g.team (addr.toNat % 2 ^ 48) (szBytes f.sz) true 0 = some s2 →
    Does (.ldu h f) s (dropGot s2 g.id) g (postInc { g with
      ll := g.ll ++ [scalarResult s g h f (memBytes team.scratch (addr.toNat % 2 ^ 48) (szBytes f.sz))] } f (szBytes f.sz)) (newKey g s.nextId) := by
  intro addr hp hb
  have hg : s2.groups = s.groups := (congrArg (fun s : State => s.groups) (bankTurn_same hb) :)
  have hloop : memLoop (loadThread f g (decide (f.hint = 1)) ⟨true, true⟩ .rd (scalarRet f s.nextId) (fun s => s)) [t] 0 (loopStart s) =
      { loopStart s with s := s2, parts := [], scl := [(f.data.toNat, loadScalar f.sz (memBytes team.scratch (addr.toNat % 2 ^ 48) (szBytes f.sz)))] } := by
    rw [memLoop_stop_none _ _ _ _ rfl, memLoop]
    exact loadThread_pad (a := loopStart s) hr.2.1 ht (memAddr_of_reads (readLine_loopStart s g) f _ true t) hp hb
  exact does_reads hr hl.2 hts hg hl.1 (exec_ldu h f s) hloop (fun hnone => List.cons_ne_nil _ _ hnone.2)
end

/-! ### Stores -/

theorem exec_st (h : Hd) (f : MF) (s : State) : exec (.st h f) s = memOp (.st h f) h f (szBytes f.sz) false false true false
    (ofTurn s (fun g _ => storeThread f g ⟨true, true⟩ true (storeVal f))) s := rfl

/-- The value of STU: a scalar register. -/
def scalarVal (f : MF) (_ : State) (g : Group) (_ : Nat) : Nat := (readScalar g f.data.toNat).toNat

theorem exec_stu (h : Hd) (f : MF) (s : State) : exec (.stu h f) s = memOp (.stu h f) h f (szBytes f.sz) true false true false
    (ofTurn s (fun g _ => storeThread f g ⟨true, true⟩ true (scalarVal f))) s := rfl

section
variable {s s2 : State} {g : Group} {h : Hd} {f : MF} {team : Team} (ht : teamOf s g.team = some team) (hl : MayStore s g f (szBytes f.sz))
include ht hl

theorem st_scratchpad {t0 : Nat} {ts : List Nat} (hr : Runs s g (.st h f)) (hts : accessors g h false = t0 :: ts) :
    let addr := fun t => memAddr s g f (szBytes f.sz) true t
    (∀ t ∈ t0 :: ts, InPad team (szBytes f.sz) (addr t)) →
    bankTurns { s with nextId := s.nextId + 1 } g g.team (szBytes f.sz) false (fun t => (addr t).toNat % 2 ^ 48) (t0 :: ts) 0 = some s2 →
    Does (.st h f) s (dropGot (onTeam s2 g.team (fun x =>
      let put := fun m t => memPut m ((addr t).toNat % 2 ^ 48) (natLE (szBytes f.sz) (readVs s g f.data.toNat (szRegs f.sz) t))
      { x with scratch := (t0 :: ts).foldl put x.scratch })) g.id) g (postInc g f (szBytes f.sz)) [] := by
  intro addr hp hb
  have hg : s2.groups = s.groups := (bankTurns_groups hb :)
  have hloop := store_threads (storeVal f) (fun t => storeVal f s g t) (fun st hst t => storeVal_of_reads hst f t) addr
    (fun st hst t => memAddr_of_reads hst f _ true t) (t0 :: ts) 0 (loopStart s) s2 team rfl ht hr.2.1 (readLine_loopStart s g) hp hb
  exact does_accesses hr hl.2 hts hg (by rw [hl.1]; rfl) (exec_st h f s) hloop

theorem stu_scratchpad {t : Nat} (hr : Runs s g (.stu h f)) (hts : accessors g h true = [t]) :
    let addr := memAddr s g f (szBytes f.sz) true t
    InPad team (szBytes f.sz) addr →
    bankTurn { s with nextId := s.nextId + 1 } g g.team (addr.toNat % 2 ^ 48) (szBytes f.sz) false 0 = some s2 →
    Does (.stu h f) s (dropGot (onTeam s2 g.team (fun x =>
      { x with scratch := memPut x.scratch (addr.toNat % 2 ^ 48) (natLE (szBytes f.sz) (readScalar g f.data.toNat).toNat) })) g.id)
      g (postInc g f (szBytes f.sz)) [] := by
  intro addr hp hb
  have hg : s2.groups = s.groups := (congrArg (fun s : State => s.groups) (bankTurn_same hb) :)
  refine does_accesses hr hl.2 hts hg (by rw [hl.1]; rfl) (exec_stu h f s) ?_
  rw [memLoop_stop_none _ _ _ _ rfl, memLoop]
  exact storeThread_pad (a := loopStart s) hr.2.1 ht (memAddr_of_reads (readLine_loopStart s g) f _ true t) hp hb
end

/-- Settles O9: the loop over the threads gathers the values, or stores them, one after another. -/
theorem scratchpadAccesses : Obligations.ScratchpadAccesses :=
  ⟨fun _ _ _ _ _ _ _ _ hr ht hl hts => ld_scratchpad ht hl hr hts, fun _ _ _ _ _ _ _ hr ht hl hts => ldu_scratchpad ht hl hr hts,
    fun _ _ _ _ _ _ _ _ hr ht hl hts => st_scratchpad ht hl hr hts, fun _ _ _ _ _ _ _ hr ht hl hts => stu_scratchpad ht hl hr hts⟩

end Sys2Proof.Proofs

namespace Sys2Proof.Proofs
open Sys2Proof.Machine Sys2Proof.Laws Sys2Proof.Claims

/-! ## Loads of device memory (O10) -/

/-! ### The result of a load -/

/-- The lines of the registers that a load of a size writes. -/
theorem lines_of_span (g : Group) (d n : Nat) : (spanRegs [(d, n)]).map (lineNo g) = (List.range n).map (fun k => lineNo g (d + k)) := by
  rw [span1, List.map_map]
  rfl

/-- The outstanding result of a vector load of one thread, as a memory instruction begins it. -/
def oneResult (s : State) (g : Group) (h : Hd) (f : MF) (i : Instr) (t : Nat) (got : List Byte) : LL :=
  { newLL i g s.nextId h with
    vec := (retParts (vecRet g h f s.nextId t) got).1, scl := [], need := 0, acq := acquires i, sregs := scalarsOf i }

section
variable (s : State) (g : Group) (h : Hd) (f : MF) (t : Nat) (got : List Byte)

theorem oneResult_ld : oneResult s g h f (.ld h f) t got = loadResult s g (.ld h f) h f 0 0 [(t, got)] := by
  simp only [oneResult, newLL, vwrites, lines_of_span, loadResult, List.flatMap_singleton, acquires, scalarsOf]

theorem oneResult_ldnt : oneResult s g h f (.ldnt h f) t got = loadResult s g (.ldnt h f) h f 0 0 [(t, got)] := by
  simp only [oneResult, newLL, vwrites, lines_of_span, loadResult, List.flatMap_singleton, acquires, scalarsOf]

theorem oneResult_lda : oneResult s g h f (.lda h f) t got = loadResult s g (.lda h f) h f 0 (f.hint.toNat + 1) [(t, got)] := by
  simp only [oneResult, newLL, vwrites, lines_of_span, loadResult, List.flatMap_singleton, acquires, scalarsOf]

/-- SGATH writes one register. -/
theorem oneResult_sgath : oneResult s g h f (.sgath h f) t got =
    { loadResult s g (.sgath h f) h f 0 0 [(t, got)] with vregs := [lineNo g f.data.toNat] } := by
  simp only [oneResult, newLL, vwrites, lines_of_span, loadResult, List.flatMap_singleton, acquires, scalarsOf, List.range_one,
    List.map_cons, List.map_nil, Nat.add_zero]
end

/-! ### Loads of one thread -/

section
variable (h : Hd) (f : MF) (s : State)

theorem exec_ld_eq : exec (.ld h f) s = loadOp (.ld h f) h f (decide (f.hint = 1)) ⟨true, true⟩ (fun _ s => s) s := rfl
theorem exec_ldnt_eq : exec (.ldnt h f) s = loadOp (.ldnt h f) h f true ⟨true, false⟩ (fun _ s => s) s := rfl
theorem exec_lda_eq : exec (.lda h f) s = loadOp (.lda h f) h f (decide (3 ≤ f.hint.toNat)) ⟨true, false⟩
    (fun g s => if decide (3 ≤ f.hint.toNat) then l1Clear s g.core else s) s := rfl
theorem exec_sgath_eq : exec (.sgath h f) s = loadOp (.sgath h f) h f true ⟨false, false⟩ (fun _ s => s) s := rfl
end

section
variable {s s2 : State} {g : Group} {h : Hd} {f : MF} {t : Nat} {ph : Phys} {bs : List Byte} {i : Instr} {home : Bool}
  (hl : MayLoad s g f) (hp : Claims.Lands s g .rd (szBytes f.sz) (memAddr s g f (szBytes f.sz) true t) ph) (hd : ph.dev = none)
  (ho : (ownReqs g).any (fun r => isRmw r && (reqSectors r).contains (ph.pa / 128)) = false)
  (hw : let s1 := (Claims.xlated s g .rd (memAddr s g f (szBytes f.sz) true t)).1
    (home = false ∧ (l1Find s1 (servingL1 s1 g.core ph.pa) (ph.pa / 128)).isSome) ∨ mustWait s1 g ph.pa = false)
  (hs : sectorRead (Claims.xlated s g .rd (memAddr s g f (szBytes f.sz) true t)).1 g ph.pa home = some (s2, bs)) (hr : Runs s g i)
include hl hp hd ho hw hs hr

/-- A vector load of one thread has the sector's bytes, with the group's own stores laid over them, as its result. -/
theorem does_load {ad : Admits} {done : Group → State → State} {l : LL} (hx : ∀ s, exec i s = loadOp i h f home ad done s)
    (hdone : ∀ x, (done g x).groups = x.groups) (hts : accessors g h h.u = [t])
    (hres : oneResult s g h f i t (overlay (storeCells (ownReqs g)) ph.pa ((bs.drop (ph.pa % 128)).take (szBytes f.sz))) = l) :
    Does i s (dropGot (done g s2) g.id) g (postInc { g with ll := g.ll ++ [l] } f (szBytes f.sz)) (newKey g s.nextId) :=
  vecLoad hdone hres.symm hx hr hl hts hp hd ho hs hw

theorem does_ldu (hi : i = .ldu h f) (hhome : home = decide (f.hint = 1)) (hts : accessors g h true = [t]) :
    Does i s (dropGot s2 g.id) g (postInc { g with ll := g.ll ++ [scalarResult s g h f
      (overlay (storeCells (ownReqs g)) ph.pa ((bs.drop (ph.pa % 128)).take (szBytes f.sz)))] } f (szBytes f.sz)) (newKey g s.nextId) := by
  subst hi hhome
  have hread : s2.groups = (Claims.xlated s g .rd (memAddr s g f (szBytes f.sz) true t)).1.groups :=
    (congrArg (fun s : State => s.groups) (sectorRead_frame hs) :)
  have hg : s2.groups = s.groups := hread.trans (place_groups hp)
  refine does_reads hr hl.2 hts hg hl.1 (exec_ldu h f s) ?_ (fun hnone => List.cons_ne_nil _ _ hnone.2)
  rw [memLoop_stop_none _ _ _ _ rfl, memLoop]
  exact loadThread_dev hr.2.1 hp hd ho hs hw
end

theorem loadsOfMemory : Claims.LoadsOfMemory := by
  intro s g h f t ph s2 bs i home hl size addr s1 hp hd ho hw hs hr got wide
  refine ⟨fun hts hi => ?near, fun hts hi hhome => ?acquire, fun hts hi hhome => ?gather, fun hts hi hhome => ?scalar⟩
  case near =>
    obtain ⟨hi, hhome⟩ | ⟨hi, hhome⟩ := hi
    · subst hi hhome
      exact (does_load hl hp hd ho hw hs hr (exec_ld_eq h f) (fun _ => rfl) hts (oneResult_ld s g h f t got) :)
    · subst hi hhome
      exact (does_load hl hp hd ho hw hs hr (exec_ldnt_eq h f) (fun _ => rfl) hts (oneResult_ldnt s g h f t got) :)
  case acquire =>
    subst hi hhome
    exact (does_load hl hp hd ho hw hs hr (exec_lda_eq h f) (fun x => keeps_ite (l1Clear_groups x g.core) rfl) hts (oneResult_lda s g h f t got) :)
  case gather =>
    subst hi hhome
    exact (does_load hl hp hd ho hw hs hr (exec_sgath_eq h f) (fun _ => rfl) hts (oneResult_sgath s g h f t got) :)
  case scalar => exact does_ldu hl hp hd ho hw hs hr hi hhome hts

/-! ### The bytes of a sector -/

theorem coreAt_onCore_ne {k n : Nat} (h : n ≠ k) (s : State) (f : Core → Core) : coreAt (onCore s k f) n = coreAt s n := by
  have hm : (s.cores.modify k f)[n]? = s.cores[n]? := by simp [h.symm]
  rw [coreAt, onCore_cores, hm, coreAt]

/-- A valid copy in L1 serves a read that does not go to the home slice, and is touched. -/
theorem sectorRead_hit {s : State} {g : Group} {pa : Nat} {bs : List Byte} (hf : l1Find s (servingL1 s g.core pa) (pa / 128) = some bs) :
    ∃ fill, sectorRead s g pa false = some (l1Put s (servingL1 s g.core pa) (pa / 128) fill bs, bs) := by
  simp only [sectorRead, hf, Bool.false_eq_true, if_false]
  exact ⟨_, rfl⟩

/-- A read that L1 does not serve has the bytes of the home slice, and changes at most the portion of L1 that serves the core. -/
theorem sectorRead_home {s : State} {g : Group} {pa : Nat} {home : Bool} (hp : s.poison.contains (pa / 128) = false)
    (hh : home = true ∨ l1Find s (servingL1 s g.core pa) (pa / 128) = none) :
    ∃ s2, sectorRead s g pa home = some (s2, memBytes s.mem (pa / 128 * 128) 128) ∧
      ∀ n, n ≠ servingL1 s g.core pa → coreAt s2 n = coreAt s n := by
  cases home with
  | true =>
    refine ⟨_, by simp only [sectorRead, hp, if_true]; rfl, fun n hn => ?_⟩
    split
    · exact coreAt_onCore_ne hn s _
    · rfl
  | false =>
    have hmiss := hh.resolve_left Bool.false_ne_true
    exact ⟨_, by simp only [sectorRead, hp, hmiss, Bool.false_eq_true, if_false]; rfl, fun n hn => coreAt_onCore_ne hn s _⟩

/-- A poisoned sector has no bytes at its home slice (08 R193). -/
theorem sectorRead_poisoned {s : State} {g : Group} {pa : Nat} (hp : s.poison.contains (pa / 128) = true) : sectorRead s g pa true = none := by
  simp only [sectorRead, hp, if_true]

theorem sectorsAsLoadsFindThem : Claims.SectorsAsLoadsFindThem := by
  intro s g pa sec k
  refine ⟨fun hp home hh => sectorRead_home hp hh, fun bs hf => ?_, fun hp => sectorRead_poisoned hp⟩
  obtain ⟨fill, hread⟩ := sectorRead_hit hf
  exact ⟨_, hread, rfl⟩

/-- Settles O10: the one access of the loop gives its bytes to the result, and the bytes are those of the copy that the read finds. -/
theorem deviceLoads : Obligations.DeviceLoads := ⟨loadsOfMemory, sectorsAsLoadsFindThem⟩

end Sys2Proof.Proofs

namespace Sys2Proof.Proofs
open Sys2Proof.Machine Sys2Proof.Laws Sys2Proof.Claims

/-! ## The atomic instructions (O12) -/

/-! ### One thread of an atomic -/

/-- What an atomic instruction does for a thread: its address is resolved for a read and a write, and its read-modify-write goes there
(09 R213 to R216). -/
def atomicThread (h : Hd) (f : MF) (ad : Admits) (returns replayOk : Bool) (op : State → Group → Nat → Rmw × Nat) (g : Group) (key : Nat)
    (a : MAcc) (j t : Nat) : MAcc :=
  if !replayOk && isReplay a.s g.ctx then a.fault a.s (thrFault 0x0D 0 t 0)
  else
    let addr := memAddr a.s (accGroup g a) f (szBytes f.sz) false t
    match resolve a.s (accGroup g a) t addr (szBytes f.sz) .rw ad false with
    | (s, .error e) => a.fault s e
    | (s, .ok p) =>
      let x := op s (accGroup g a) t
      rmwAt (accGroup g a) f { a with s := s } j t addr x.1 x.2 (if returns then some (vecRet g h f key t) else none) p

/-- An instruction that is an atomic with an operation and an operand for its one thread. -/
structure IsAtomic (i : Instr) (h : Hd) (f : MF) (returns : Bool) (s1 : State) (g : Group) (t : Nat) (op : Rmw) (v : Nat)
    (ad : Admits) (replayOk : Bool) (ops : State → Group → Nat → Rmw × Nat) : Prop where
  exec : ∀ s, exec i s = memOp i h f (szBytes f.sz) false returns true false (ofTurn s (atomicThread h f ad returns replayOk ops)) s
  asks : ops s1 g t = (op, v)
  runs : replayOk = true ∨ isReplay s1 g.ctx = false

theorem atomVal_zero (f : MF) (s : State) (g : Group) (t : Nat) : atomVal f 0 s g t = readVs s g f.data.toNat (szRegs f.sz) t := by
  rw [atomVal, Nat.zero_mul, Nat.add_zero]

theorem atomVal_one (f : MF) (s : State) (g : Group) (t : Nat) : atomVal f 1 s g t = readVs s g (f.data.toNat + szRegs f.sz) (szRegs f.sz) t := by
  rw [atomVal, Nat.one_mul]

theorem isAtomic_of_asks {s1 : State} {g : Group} {h : Hd} {f : MF} {t : Nat} {i : Instr} {op : Rmw} {v : Nat} {returns : Bool}
    (hask : Claims.AtomicAsks s1 g h f t i op v returns) :
    ∃ ad replayOk ops, IsAtomic i h f returns s1 g t op v ad replayOk ops := by
  obtain ⟨rfl, rfl, rfl, rfl⟩ | ⟨rfl, rfl, rfl, rfl⟩ | ⟨rfl, rfl, rfl, rfl⟩ | ⟨rfl, hy, rfl, rfl, rfl⟩ := hask
  · exact ⟨⟨true, false⟩, true, fun s g t => (.int (aop f), atomVal f 0 s g t), fun _ => rfl, by rw [atomVal_zero], .inl rfl⟩
  · exact ⟨⟨true, false⟩, true, fun s g t => (.int (aop f), atomVal f 0 s g t), fun _ => rfl, by rw [atomVal_zero], .inl rfl⟩
  · exact ⟨⟨true, false⟩, true, fun s g t => (.cas (BitVec.ofNat 64 (atomVal f 0 s g t)), atomVal f 1 s g t), fun _ => rfl,
      by rw [atomVal_zero, atomVal_one], .inl rfl⟩
  · exact ⟨⟨false, false⟩, false, fun s g t => (.flt (aop f) (Rnd.ofCode (g.rmode.toNat % 4)), atomVal f 0 s g t), fun _ => rfl,
      by rw [atomVal_zero], .inr hy⟩

/-- A returning atomic writes the registers of its value. -/
theorem newLL_of_asks {s1 s : State} {g : Group} {h : Hd} {f : MF} {t : Nat} {i : Instr} {op : Rmw} {v : Nat}
    (hask : Claims.AtomicAsks s1 g h f t i op v true) :
    { newLL i g s.nextId h with vec := [], scl := [], need := 1, acq := acquires i, sregs := scalarsOf i } = loadResult s g i h f 1 0 [] := by
  obtain ⟨rfl, -, -, -⟩ | ⟨-, -, -, hno⟩ | ⟨rfl, -, -, -⟩ | ⟨rfl, -, -, -, hret⟩ := hask
  · simp only [newLL, vwrites, lines_of_span, loadResult, acquires, scalarsOf, List.flatMap_nil]
  · exact absurd hno (by decide)
  · simp only [newLL, vwrites, lines_of_span, loadResult, acquires, scalarsOf, List.flatMap_nil]
  · have hbit : f.off8.getLsbD 3 = false := by simpa using hret
    simp only [newLL, vwrites, hbit, Bool.false_eq_true, if_false, lines_of_span, loadResult, acquires, scalarsOf, List.flatMap_nil]

/-- Whether a context is in replay mode is said by its record. -/
theorem isReplay_of_contexts {s t : State} (h : t.contexts = s.contexts) (c : Nat) : isReplay t c = isReplay s c := by
  simp only [isReplay, ctxRec, h]

/-- A translation changes no context. -/
theorem place_contexts {s s1 : State} {g : Group} {acc : Acc} {size : Nat} {addr : W64} {ph : Phys} (hp : AtPlace s g acc size addr s1 ph) :
    s1.contexts = s.contexts := by
  have hxl := xl_translate { s with nextId := s.nextId + 1 } g.cluster (some g.core) g.ctx (addr.toNat % 2 ^ 57) acc
  rw [hp.2.2] at hxl
  exact hxl.contexts

theorem accGroup_loopStart {s : State} {g : Group} (hg : groupOf s g.id = some g) : accGroup g (loopStart s) = g := by
  have hs : groupOf (loopStart s).s g.id = some g := hg
  rw [accGroup, hs, Option.getD_some]

/-- A request of the group's instruction to a place. -/
def asked (s1 : State) (g : Group) (ph : Phys) (addr : W64) (kind : ReqKind) : Req :=
  mkReq s1 g (homeSlice ph.leaf ph.pa) ph.dev (leafPage ph.leaf) kind (some (va57 addr)) ph.big

section
variable {s s1 : State} {g : Group} {h : Hd} {f : MF} {t : Nat} {ph : Phys} {i : Instr} {op : Rmw} {v : Nat} {returns replayOk : Bool}
  {ad : Admits} {ops : State → Group → Nat → Rmw × Nat} (ha : IsAtomic i h f returns s1 g t op v ad replayOk ops)
  (hg : groupOf s g.id = some g) (hp : AtPlace s g .rw (szBytes f.sz) (memAddr s g f (szBytes f.sz) false t) s1 ph)
include ha hg hp

theorem atomicThread_place (key : Nat) : atomicThread h f ad returns replayOk ops g key (loopStart s) 0 t =
    rmwAt g f { loopStart s with s := s1 } 0 t (memAddr s g f (szBytes f.sz) false t) op v
      (if returns then some (vecRet g h f key t) else none) (.dev ph) := by
  have hreplay : (!replayOk && isReplay (loopStart s).s g.ctx) = false := by
    have hsame : isReplay (loopStart s).s g.ctx = isReplay s1 g.ctx := isReplay_of_contexts (place_contexts hp).symm g.ctx
    rcases ha.runs with hok | hy
    · rw [hok]
      rfl
    · rw [hsame, hy, Bool.and_false]
  have hres := resolve_dev (ad := ad) (ex := false) (t := t) hp.1 (.inr hp.2.1) hp.2.2
  have haddr : memAddr (loopStart s).s g f (szBytes f.sz) false t = memAddr s g f (szBytes f.sz) false t :=
    memAddr_of_reads (readLine_loopStart s g) f _ false t
  unfold atomicThread
  rw [hreplay, accGroup_loopStart hg, haddr]
  simp only [Bool.false_eq_true, if_false]
  rw [show resolve (loopStart s).s g t (memAddr s g f (szBytes f.sz) false t) (szBytes f.sz) .rw ad false = (s1, .ok (.dev ph)) from hres]
  simp only [ha.asks]

/-- An atomic that returns nothing, or returns the value of a sector of this device which is not poisoned, is sent. -/
theorem atomicThread_sends (key : Nat) (hret : returns = true → ph.dev = none ∧ s1.poison.contains (ph.pa / 128) = false) :
    atomicThread h f ad returns replayOk ops g key (loopStart s) 0 t =
    { loopStart s with
      s := s1, need := if returns then 1 else 0,
      reqs := [(1000, asked s1 g ph (memAddr s g f (szBytes f.sz) false t) (.rmw op ph.pa (szBytes f.sz) (BitVec.ofNat 64 v)
        (if returns then some (key, lineNo g f.data.toNat, t) else none)))] } := by
  rw [atomicThread_place ha hg hp]
  cases returns with
  | false => simp only [rmwAt, loopStart, Bool.false_eq_true, if_false, Option.isSome_none, Bool.false_and, Option.map_none]; rfl
  | true =>
    obtain ⟨hdev, hpoison⟩ := hret rfl
    simp only [rmwAt, loopStart, asked, if_true, Option.isSome_some, hdev, Option.isNone_none, Option.isSome_none, hpoison, Bool.and_false,
      Bool.false_and, Bool.false_eq_true, if_false, Option.map_some]
    rfl

/-- An atomic that returns a value from another device is sent, and its instruction waits at its thread. -/
theorem atomicThread_waits (key : Nat) (hret : returns = true) (hdev : ph.dev ≠ none) :
    atomicThread h f ad returns replayOk ops g key (loopStart s) 0 t =
    { loopStart s with
      s := s1, need := 1, stop := some none, away := some t,
      reqs := [(1000, asked s1 g ph (memAddr s g f (szBytes f.sz) false t) (.rmw op ph.pa (szBytes f.sz) (BitVec.ofNat 64 v)
        (some (key, lineNo g f.data.toNat, t))))] } := by
  obtain ⟨d, hd⟩ := Option.ne_none_iff_exists'.mp hdev
  rw [atomicThread_place ha hg hp]
  simp only [rmwAt, loopStart, asked, hret, if_true, Option.isSome_some, hd, Option.isNone_some, Bool.and_false, Bool.false_and, Bool.and_true,
    Bool.false_eq_true, if_false, Option.map_some, ne_eq, not_true_eq_false, decide_false, Bool.or_false, MAcc.halt]
  rfl
end

/-! ### The instruction -/

section
variable {s : State} {g : Group} {h : Hd} {f : MF} {t : Nat} {ph : Phys} {i : Instr} {op : Rmw} {v : Nat}
  (hts : accessors g h false = [t]) (hl : MayStore s g f (szBytes f.sz))
  (hp : Claims.Lands s g .rw (szBytes f.sz) (memAddr s g f (szBytes f.sz) false t) ph) (hr : Runs s g i)
include hts hl hp hr

theorem atomic_sends (hask : Claims.AtomicAsks (Claims.xlated s g .rw (memAddr s g f (szBytes f.sz) false t)).1 g h f t i op v false) :
    let addr := memAddr s g f (szBytes f.sz) false t
    let s1 := (Claims.xlated s g .rw addr).1
    Does i s (dropGot { s1 with nextId := s1.nextId + 1 } g.id) g
      (postInc (Claims.withRequest g (Claims.entered s1 g ph (va57 addr) (.rmw op ph.pa (szBytes f.sz) (BitVec.ofNat 64 v) none))) f (szBytes f.sz)) [] := by
  intro addr s1
  obtain ⟨ad, replayOk, ops, ha⟩ := isAtomic_of_asks hask
  refine sends_one (w := 1000) (r := asked s1 g ph addr (.rmw op ph.pa (szBytes f.sz) (BitVec.ofNat 64 v) none)) (ha.exec s) hr hl hts (place_groups hp) ?_
  rw [ofTurn_of_runs hr]
  exact atomicThread_sends ha hr.2.1 hp s.nextId (fun h => absurd h Bool.false_ne_true)

theorem atomic_returns (hask : Claims.AtomicAsks (Claims.xlated s g .rw (memAddr s g f (szBytes f.sz) false t)).1 g h f t i op v true)
    (hlen : g.ll.length < 16) (hdev : ph.dev = none) :
    let addr := memAddr s g f (szBytes f.sz) false t
    let s1 := (Claims.xlated s g .rw addr).1
    s1.poison.contains (ph.pa / 128) = false →
    Does i s (dropGot { s1 with nextId := s1.nextId + 1 } g.id) g
      (postInc { Claims.withRequest g (Claims.entered s1 g ph (va57 addr) (.rmw op ph.pa (szBytes f.sz) (BitVec.ofNat 64 v)
        (some (s.nextId, lineNo g f.data.toNat, t)))) with ll := g.ll ++ [Claims.loadResult s g i h f 1 0 []] } f (szBytes f.sz))
      (newKey g s.nextId) := by
  intro addr s1 hpoison
  obtain ⟨ad, replayOk, ops, ha⟩ := isAtomic_of_asks hask
  refine sends_result (w := 1000) (r := asked s1 g ph addr (.rmw op ph.pa (szBytes f.sz) (BitVec.ofNat 64 v) (some (s.nextId, lineNo g f.data.toNat, t))))
    (newLL_of_asks hask) (ha.exec s) hr hl hlen hts (place_groups hp) ?_
  rw [ofTurn_of_runs hr]
  exact atomicThread_sends ha hr.2.1 hp s.nextId (fun _ => ⟨hdev, hpoison⟩)
end

/-! ### An atomic at another device -/

/-- A result that is begun is outstanding, and the group is else as it was but for its window and cache. -/
theorem beginLL_outside (s : State) (g : Group) (l : LL) : (beginLL s g l).outside = ({ g with ll := g.ll ++ [l] } : Group).outside := by
  have hsettled := (settled s (g.win.filter (fun h => l.vregs.contains h.reg)) g).1
  have hput : ∀ x : Group, ({ x with ll := x.ll ++ [l] } : Group).outside = ({ x.outside with ll := x.outside.ll ++ [l] } : Group).outside := fun _ => rfl
  rw [beginLL, hput, hsettled, ← hput]

theorem readLine_beginLL (s s' : State) (g : Group) (l : LL) (n : Nat) : readLine s (beginLL s' g l) n = readLine s g n :=
  (settled s' (g.win.filter (fun h => l.vregs.contains h.reg)) g).2 s n

/-- An instruction that holds its group where it is. -/
theorem runInstr_hold {i : Instr} {s s' : State} {g : Group} {k : Group → State → GOut} (hr : Runs s g i) (hk : k g s = .hold s') :
    runInstr i s k = .next s' := by
  obtain ⟨hc, hf, _, hp⟩ := hr
  simp only [runInstr, hc, Option.bind_some, hf, hp, hk]

/-- The loop of a memory instruction over its one thread. -/
theorem memLoop_one_turn {i : Instr} {s : State} {g : Group} {k : Group → Nat → MAcc → Nat → Nat → MAcc} {t : Nat} {a : MAcc} (hr : Runs s g i)
    (hthread : k g s.nextId (loopStart s) 0 t = a) : memLoop (ofTurn s k s.nextId) [t] 0
      { s := { s with nextId := s.nextId + 1 }, parts := [], scl := [], need := 0, reqs := [], stop := none, lost := none, late := 0 } = a := by
  have hone : ofTurn s k s.nextId (loopStart s) 0 t = a := by
    rw [ofTurn_of_runs hr]
    exact hthread
  exact (memLoop_stop_none _ _ _ _ rfl).trans hone

/-- What a memory instruction with a result leaves where its thread t waits for another device. -/
theorem memOp_away {i : Instr} {h : Hd} {f : MF} {size t : Nat} {k : Group → Nat → MAcc → Nat → Nat → MAcc} {s : State}
    {g : Group} {a : MAcc} (hx : exec i s = memOp i h f size false true true false (ofTurn s k) s) (hr : Runs s g i) (hl : MayStore s g f size)
    (hlen : g.ll.length < 16) (hts : accessors g h false = [t]) (hthread : k g s.nextId (loopStart s) 0 t = a)
    (hask : a.ask = none) (hlost : a.lost = none) (haw : a.away = some t) :
    exec i s = .next (memAway i h (some s.nextId) g.id a t) := by
  obtain ⟨hcoal, hacq, hrep, hmod⟩ := hl
  have hq : (if false then (threads (qualMask g h)).take 1 else threads (qualMask g h)) = [t] := hts
  have hlt : decide (llLimit ≤ g.ll.length) = false := decide_eq_false (Nat.not_le.mpr hlen)
  have hloop := memLoop_one_turn hr hthread
  rw [hx]
  refine runInstr_hold hr ?_
  dsimp only
  rw [hq]
  simp only [hrep, memSeed, hmod, hlt, hcoal, hacq, takeId, Bool.not_true, Bool.false_and, Bool.and_false, Bool.or_false, ne_eq,
    not_true_eq_false, decide_false, Bool.false_eq_true, if_false, if_true]
  rw [hloop, hask, hlost, haw]

/-- What a memory instruction with a result, whose one thread has sent a request, leaves of its threads so far. -/
theorem memKeep_sent {i : Instr} {h : Hd} {g : Group} {a : MAcc} {k w : Nat} {r : Req} (hc : g.coal = []) (hreqs : a.reqs = [(w, r)])
    (hparts : a.parts = []) (hscl : a.scl = []) (hneed : a.need = 1) :
    memKeep i h (some k) g a = ({ a.s with nextId := a.s.nextId + 1 },
      beginLL { a.s with nextId := a.s.nextId + 1 } { g with seq := g.seq + 1, coal := [[{ r with key := a.s.nextId, seq := g.seq + 1 }]] }
        { newLL i g k h with vec := [], scl := [], need := 1, exact := a.away, acq := acquires i, sregs := scalarsOf i }) := by
  have hsome : ¬(([] : List (Nat × Nat × W32)) = [] ∧ ([] : List (Nat × W64)) = [] ∧ 1 = 0) := fun hnone => absurd hnone.2.2 Nat.one_ne_zero
  unfold memKeep
  rw [hreqs, enter_one _ _ _ _ hc]
  dsimp only
  rw [hparts, hscl, hneed, if_neg hsome]
  rfl

/-- A memory instruction that waits at a thread keeps its group, with the threads from that one on to come. -/
theorem memAway_of_keep {i : Instr} {h : Hd} {key : Option Nat} {g g' : Group} {a : MAcc} {t : Nat} {s' : State} (hg : groupOf a.s g.id = some g)
    (hk : memKeep i h key g a = (s', g')) :
    memAway i h key g.id a t = dropGot (setGroup s' { g' with remain := some (maskOf ((threads (liveMask g')).filter (fun y => decide (t ≤ y)))) }) g.id := by
  rw [memAway, hg]
  dsimp only
  rw [hk]

/-- A group that waits with its result begun. -/
def waitingAt (s : State) (g : Group) (l : LL) (rest : TMask) : Group := { beginLL s g l with remain := some rest }

theorem atomic_waits {s : State} {g : Group} {h : Hd} {f : MF} {t : Nat} {ph : Phys} {i : Instr} {op : Rmw} {v : Nat}
    (hlen : g.ll.length < 16) (hts : accessors g h false = [t]) (hl : MayStore s g f (szBytes f.sz))
    (hp : Claims.Lands s g .rw (szBytes f.sz) (memAddr s g f (szBytes f.sz) false t) ph) (hdev : ph.dev ≠ none) (hr : Runs s g i)
    (hask : Claims.AtomicAsks (Claims.xlated s g .rw (memAddr s g f (szBytes f.sz) false t)).1 g h f t i op v true) :
    let addr := memAddr s g f (szBytes f.sz) false t
    let s1 := (Claims.xlated s g .rw addr).1
    let sent := Claims.withRequest g (Claims.entered s1 g ph (va57 addr) (.rmw op ph.pa (szBytes f.sz) (BitVec.ofNat 64 v) (some (s.nextId, lineNo g f.data.toNat, t))))
    let rest := maskOf ((threads (liveMask g)).filter (fun y => decide (t ≤ y)))
    Answers s g i (fun t' g' => OnlyGroup (dropGot { s1 with nextId := s1.nextId + 1 } g.id) t' g ∧ (∀ n, readLine t' g' n = readLine s1 g n) ∧
      g'.outside = ({ sent with ll := g.ll ++ [{ Claims.loadResult s g i h f 1 0 [] with exact := some t }], remain := some rest } : Group).outside) := by
  intro addr s1 sent rest
  obtain ⟨ad, replayOk, ops, ha⟩ := isAtomic_of_asks hask
  have hg1 : groupOf s1 g.id = some g := (groupOf_of_groups (place_groups hp) g.id).trans hr.2.1
  let l : LL := { Claims.loadResult s g i h f 1 0 [] with exact := some t }
  let s2 : State := { s1 with nextId := s1.nextId + 1 }
  have hll : { newLL i g s.nextId h with
      vec := [], scl := [], need := 1, exact := some t, acq := acquires i, sregs := scalarsOf i } = l :=
    congrArg (fun x : LL => { x with exact := some t }) (newLL_of_asks hask)
  have hnext := memOp_away (ha.exec s) hr hl hlen hts (atomicThread_waits ha hr.2.1 hp s.nextId rfl hdev) rfl rfl rfl
  rw [memAway_of_keep hg1 (memKeep_sent hl.1 rfl rfl rfl rfl)] at hnext
  have hbegun : (beginLL s2 sent l).outside = ({ sent with ll := sent.ll ++ [l] } : Group).outside := beginLL_outside s2 sent l
  have hlive : liveMask (beginLL s2 sent l) = liveMask g := (congrArg liveMask hbegun :)
  have hid : (beginLL s2 sent l).id = g.id := (congrArg Group.id hbegun :)
  have hstate : exec i s = .next (dropGot (setGroup s2 (waitingAt s2 sent l rest)) g.id) := by
    rw [show rest = maskOf ((threads (liveMask (beginLL s2 sent l))).filter (fun y => decide (t ≤ y))) by rw [hlive]]
    change _ = Host.Outcome.next (dropGot (setGroup s2 { beginLL s2 sent l with remain := _ }) g.id)
    rw [← hll]
    exact hnext
  have hfound : groupOf s2 (waitingAt s2 sent l rest).id = some g := (congrArg (groupOf s2) hid).trans hg1
  refine ⟨_, waitingAt s2 sent l rest, hstate, ?_, ⟨rfl, fun k hk => ?_⟩, fun n => ?_, ?_⟩
  · exact (congrArg _ hid).symm.trans (groupOf_setGroup hfound)
  · exact groupOf_setGroup_ne (fun e => hk (e.trans hid))
  · exact (readLine_beginLL _ s2 sent l n).trans (readLine_same g rfl rfl rfl rfl rfl n)
  · exact congrArg (fun x : Group => { x with remain := some rest }) hbegun

/-! ### ORED -/

theorem exec_ored (h : Hd) (f : MF) (s : State) :
    exec (.ored h f) s = memOp (.ored h f) h f 16 false false true false (ofTurn s (fun g _ => oredThread f g)) s := rfl

theorem oredThread_sends {s s1 : State} {g : Group} {f : MF} {t : Nat} {ph : Phys} (hg : groupOf s g.id = some g)
    (hp : AtPlace s g .rw 16 (memAddr s g f 16 false t) s1 ph) :
    oredThread f g (loopStart s) 0 t = { loopStart s with
      s := s1,
      reqs := [(1000, asked s1 g ph (memAddr s g f 16 false t) (.ored (aop f) (Rnd.ofCode (g.rmode.toNat % 4)) ph.pa
        (readV s1 g (f.data.toNat + szRegs f.sz) t).toNat (BitVec.ofNat 64 (readVs s1 g f.data.toNat (szRegs f.sz) t))))] } := by
  have hres : resolve (loopStart s).s g t (memAddr s g f 16 false t) 16 .rw ⟨false, false⟩ false = (s1, .ok (.dev ph)) :=
    resolve_dev hp.1 (.inr hp.2.1) hp.2.2
  have haddr : memAddr (loopStart s).s g f 16 false t = memAddr s g f 16 false t :=
    memAddr_of_reads (readLine_loopStart s g) f _ false t
  unfold oredThread
  rw [accGroup_loopStart hg]
  dsimp only
  rw [haddr, hres]
  rfl

theorem ored_sends {s : State} {g : Group} {h : Hd} {f : MF} {t : Nat} {ph : Phys} (hts : accessors g h false = [t]) (hl : MayStore s g f 16)
    (hp : Claims.Lands s g .rw 16 (memAddr s g f 16 false t) ph) (hr : Runs s g (.ored h f)) :
    let addr := memAddr s g f 16 false t
    let s1 := (Claims.xlated s g .rw addr).1
    Does (.ored h f) s (dropGot { s1 with nextId := s1.nextId + 1 } g.id) g
      (postInc (Claims.withRequest g (Claims.entered s1 g ph (va57 addr) (.ored (aop f) (Rnd.ofCode (g.rmode.toNat % 4)) ph.pa
        (readV s1 g (f.data.toNat + szRegs f.sz) t).toNat (BitVec.ofNat 64 (readVs s1 g f.data.toNat (szRegs f.sz) t))))) f 16) [] := by
  intro addr s1
  refine sends_one (w := 1000) (r := asked s1 g ph addr (.ored (aop f) (Rnd.ofCode (g.rmode.toNat % 4)) ph.pa
    (readV s1 g (f.data.toNat + szRegs f.sz) t).toNat (BitVec.ofNat 64 (readVs s1 g f.data.toNat (szRegs f.sz) t))))
    (exec_ored h f s) hr hl hts (place_groups hp) ?_
  rw [ofTurn_of_runs hr]
  exact oredThread_sends hr.2.1 hp

/-- Settles O12: the one thread's request enters its window, with its result begun where the old value returns; where that comes from
another device, the instruction stops at the thread. -/
theorem atomicRequests : Obligations.AtomicRequests := by
  refine ⟨?_, fun s g h f t ph i op v hlen hts hl hp hdev hr hask => atomic_waits hlen hts hl hp hdev hr hask,
    fun s g h f t ph hts hl hp hr => ored_sends hts hl hp hr⟩
  intro s g h f t ph i op v returns size addr s1 hlen hts hl hp hret hr hask
  cases returns with
  | false => exact (atomic_sends hts hl hp hr hask :)
  | true => exact (atomic_returns hts hl hp hr hask hlen (hret rfl).1 (hret rfl).2 :)

end Sys2Proof.Proofs

namespace Sys2Proof.Proofs
open Sys2Proof.Machine Sys2Proof.Laws Sys2Proof.Claims

/-! ## Fences, the hint instructions and the line operations (O14) -/

/-! ### Fences -/

/-- What FENCE does for its group (09 R219). -/
def fenceOp (f : MF) (g : Group) (s : State) : GOut :=
  if (if f.off8.getLsbD 1 then releaseMet s g f.hint.toNat else loadsBack g) then
    .done (if f.off8.getLsbD 0 then acquireAt s g.core f.hint.toNat else s)
  else .done (setGroup s (parkGroup s g (.fence (f.off8.getLsbD 0) (f.off8.getLsbD 1) f.hint.toNat)))

theorem exec_fence (h : Hd) (f : MF) (s : State) : exec (.fence h f) s = wideOp (.fence h f) h (fenceOp f) s := rfl

theorem acquired_eq (s : State) (core scope : Nat) (acq : Bool) :
    (if acq then acquireAt s core scope else s) = if acq ∧ 3 ≤ scope then l1Clear s core else s := by
  cases acq <;> simp [acquireAt]

section
variable {s : State} {g : Group} {h : Hd} {f : MF} (hr : Runs s g (.fence h f)) (hw : wideActs g h = true)
include hr hw

theorem fence_goes (hmet : (if f.off8.getLsbD 1 then releaseMet s g f.hint.toNat else loadsBack g) = true) :
    Does (.fence h f) s (if f.off8.getLsbD 0 ∧ 3 ≤ f.hint.toNat then l1Clear s g.core else s) g g [] := by
  refine wide_state (exec_fence h f s) hr hw ?_ ?_
  · rw [fenceOp, if_pos hmet, acquired_eq]
  · exact (groupOf_of_groups (keeps_ite (l1Clear_groups s g.core) rfl) g.id).trans hr.2.1

theorem fence_parks (hmet : (if f.off8.getLsbD 1 then releaseMet s g f.hint.toNat else loadsBack g) = false) :
    Moves (.fence h f) s s g { g with st := .parked, park := some (.fence (f.off8.getLsbD 0) (f.off8.getLsbD 1) f.hint.toNat) } :=
  wide_parks (s0 := s) (exec_fence h f s) hr hw (by rw [fenceOp, if_neg (Bool.eq_false_iff.mp hmet)]) hr.2.1
end

theorem exec_ifence (h : Hd) (f : MF) (s : State) : exec (.ifence h f) s = wideOp (.ifence h f) h (fun g s => .done (fenceCode s g.core (some g.id))) s := rfl

/-- What an IFENCE of a group does to a group (09 R220). -/
def refetchedBy (g x : Group) : Group :=
  if x.core ≠ g.core ∨ x.id = g.id ∨ x.clause = [] then x
  else if x.atHdr then { x with clause := [], checked := false, refetch := false } else { x with refetch := true }

theorem refetchedBy_eq (g x : Group) : (if x.core = g.core ∧ some x.id ≠ some g.id then loseClause x else x) = refetchedBy g x := by
  unfold refetchedBy loseClause
  by_cases hcore : x.core = g.core <;> by_cases hid : x.id = g.id <;> simp [hcore, hid]

theorem fenceCode_eq (s : State) (g : Group) :
    fenceCode s g.core (some g.id) = { onCore s g.core (fun c => { c with cbuf := [] }) with groups := s.groups.map (refetchedBy g) } := by
  simp only [fenceCode, refetchedBy_eq, onCore_groups]

theorem refetchedBy_id (g x : Group) : (refetchedBy g x).id = x.id := by
  unfold refetchedBy
  split
  · rfl
  · split <;> rfl

/-- The group that executes IFENCE keeps its clause. -/
theorem groupOf_fenceCode {s : State} {g : Group} (hg : groupOf s g.id = some g) : groupOf (fenceCode s g.core (some g.id)) g.id = some g := by
  have hself : refetchedBy g g = g := if_pos (.inr (.inl rfl))
  rw [fenceCode_eq, groupOf, List.find?_map, show (fun x : Group => decide (x.id = g.id)) ∘ refetchedBy g = fun x => decide (x.id = g.id) from
    funext fun x => by rw [Function.comp_apply, refetchedBy_id]]
  exact (congrArg (Option.map (refetchedBy g)) hg).trans (congrArg some hself)

theorem fences : Claims.Fences := by
  refine ⟨fun s g h f hr hw => ⟨fence_goes hr hw, fence_parks hr hw⟩, fun s g h f hr hw => ?_⟩
  have hdoes : Does (.ifence h f) s (fenceCode s g.core (some g.id)) g g [] :=
    wide_state (exec_ifence h f s) hr hw rfl (groupOf_fenceCode hr.2.1)
  rwa [fenceCode_eq] at hdoes

/-! ### Hints and line operations of one thread -/

theorem exec_pref (h : Hd) (f : MF) (s : State) : exec (.pref h f) s = memOp (.pref h f) h f (szBytes f.sz) false false false true
    (ofTurn s (fun g _ => hintThread f g (decide (f.hint = 0)))) s := rfl
theorem exec_resid (h : Hd) (f : MF) (s : State) : exec (.resid h f) s = memOp (.resid h f) h f (szBytes f.sz) false false false true
    (ofTurn s (fun g _ => hintThread f g false)) s := rfl
theorem exec_clean (h : Hd) (f : MF) (s : State) : exec (.clean h f) s = memOp (.clean h f) h f (szBytes f.sz) false false false false
    (ofTurn s (fun g _ a _ t => cleanThread f g a t)) s := rfl
theorem exec_inval (h : Hd) (f : MF) (s : State) : exec (.inval h f) s = memOp (.inval h f) h f (szBytes f.sz) false false false false
    (ofTurn s (fun g _ a _ t => invalThread f g a t)) s := rfl

/-- Dropping sectors from L1 changes no group. -/
theorem l1Drop_groups (s : State) (core : Nat) (p : Nat → Bool) : (l1Drop s core p).groups = s.groups :=
  foldl_keeps (p := State.groups) (fun _ _ => onCore_groups ..) _ _

section
variable {s s2 : State} {g : Group} {h : Hd} {f : MF} {t : Nat} {i : Instr} (ha : MayAccess s g f (szBytes f.sz))
  (hts : accessors g h false = [t]) (hr : Runs s g i)
include ha hts hr

/-- An instruction without a result whose one thread leaves a state s2 and no request. -/
theorem does_one {noMod : Bool} {k : Group → Nat → MAcc → Nat → Nat → MAcc}
    (hx : exec i s = memOp i h f (szBytes f.sz) false false false noMod (ofTurn s k) s) (hg : s2.groups = s.groups)
    (hthread : k g s.nextId (loopStart s) 0 t = { loopStart s with s := s2 }) :
    Does i s (dropGot s2 g.id) g (postInc g f (szBytes f.sz)) [] :=
  does_accesses hr ha hts hg rfl hx ((memLoop_stop_none _ _ _ _ rfl).trans hthread)

/-- An instruction without a result whose one thread waits changes nothing. -/
theorem one_waits {k : Group → Nat → MAcc → Nat → Nat → MAcc} {a : MAcc}
    (hx : exec i s = memOp i h f (szBytes f.sz) false false false false (ofTurn s k) s)
    (hthread : k g s.nextId (loopStart s) 0 t = a) (hstop : a.stop = some none) (hask : a.ask = none) (hlost : a.lost = none)
    (haw : a.away = none) : exec i s = .next s := by
  obtain ⟨hacq, hrep, hmod⟩ := ha
  have hq : (if false then (threads (qualMask g h)).take 1 else threads (qualMask g h)) = [t] := hts
  have hloop := memLoop_one_turn hr hthread
  rw [hx]
  refine runInstr_wait hr ?_
  dsimp only
  rw [hq]
  simp only [hrep, memSeed, hmod, hacq, takeId, Bool.not_true, Bool.false_and, Bool.or_false, Bool.false_eq_true, if_false]
  rw [hloop, hask, hlost, haw]
  simp only [memEnd, hstop]
end

section
variable {s s1 : State} {g : Group} {f : MF} {t : Nat} {ph : Phys} {e : TrapInfo} {addr : W64} (hg : groupOf s g.id = some g)
  (haddr : memAddr s g f (szBytes f.sz) true t = addr) (hlow : addr.toNat % 2 ^ 57 / 2 ^ 48 < 0x1F0)

include haddr in
theorem memAddr_loopStart : memAddr (loopStart s).s g f (szBytes f.sz) true t = addr :=
  (memAddr_of_reads (readLine_loopStart s g) f _ true t).trans haddr

/-- The state with one more hint of the group's context dropped. -/
def hintDropped (s : State) (g : Group) : State := onCtx s g.ctx (fun c => { c with dropHints := c.dropHints + 1 })

/-- Whether a hint is followed to a place: its pages may be read and asked for, and its device can be reached (09 R221). -/
def hintFollowed (s : State) (ph : Phys) : Bool := ph.leaf.getLsbD 5 && grants ph.leaf .rd && !ph.dev.any (fun d => !reachable s d)

theorem hintFollowed_eq_false {s : State} {ph : Phys}
    (h : ph.leaf.getLsbD 5 = false ∨ grants ph.leaf .rd = false ∨ ∃ d, ph.dev = some d ∧ reachable s d = false) : hintFollowed s ph = false := by
  obtain h | h | ⟨d, hd, h⟩ := h
  · rw [hintFollowed, h, Bool.false_and, Bool.false_and]
  · rw [hintFollowed, h, Bool.and_false, Bool.false_and]
  · rw [hintFollowed, hd, Option.any_some, h, Bool.not_false, Bool.not_true, Bool.and_false]

include hg haddr hlow

section
variable (hmod : modOk g f (szBytes f.sz) = true)
include hmod

theorem hintThread_unfollowed {fill : Bool} (ht : Claims.xlated s g .hint addr = (s1, .ok ph)) (hno : hintFollowed s1 ph = false) :
    hintThread f g fill (loopStart s) 0 t = { loopStart s with s := hintDropped (loopStart s).s g } := by
  have hx : translate (loopStart s).s g.cluster (some g.core) g.ctx (va57 addr) .hint = (s1, .ok ph) := ht
  have hcond : (!ph.leaf.getLsbD 5 || !grants ph.leaf .rd || ph.dev.any (fun d => !reachable s1 d)) = true := by
    simpa only [hintFollowed, Bool.not_and, Bool.not_not, Bool.not_false] using congrArg (!·) hno
  unfold hintThread
  simp only [accGroup_loopStart hg, hmod, if_true, memAddr_loopStart haddr, target_xlat hlow, hx, hcond, hintDropped]

theorem hintThread_followed {fill : Bool} {s2 : State} {bs : List Byte} (ht : Claims.xlated s g .hint addr = (s1, .ok ph)) (hd : ph.dev = none)
    (hv : ph.leaf.getLsbD 5 = true) (hgr : grants ph.leaf .rd = true) (hw : mustWait s1 g ph.pa = false)
    (hsec : sectorRead s1 g ph.pa false = some (s2, bs)) :
    hintThread f g fill (loopStart s) 0 t = { loopStart s with s := if fill then s2 else s1 } := by
  have hx : translate (loopStart s).s g.cluster (some g.core) g.ctx (va57 addr) .hint = (s1, .ok ph) := ht
  unfold hintThread
  simp only [accGroup_loopStart hg, hmod, if_true, memAddr_loopStart haddr, target_xlat hlow, hx, hv, hgr, hd, hw, hsec, Option.any_none,
    Option.isSome_none, Bool.not_true, Bool.or_false, Bool.false_eq_true, if_false]
  cases fill <;> rfl

theorem hintThread_error {fill : Bool} (ht : Claims.xlated s g .hint addr = (s1, .error e)) :
    hintThread f g fill (loopStart s) 0 t = { loopStart s with s := hintDropped (loopStart s).s g } := by
  have hx : translate (loopStart s).s g.cluster (some g.core) g.ctx (va57 addr) .hint = (s1, .error e) := ht
  unfold hintThread
  simp only [accGroup_loopStart hg, hmod, if_true, memAddr_loopStart haddr, target_xlat hlow, hx, hintDropped]
end

theorem invalThread_ok (ht : Claims.xlated s g .hint addr = (s1, .ok ph)) :
    invalThread f g (loopStart s) t = { loopStart s with s := l1Drop s1 g.core (fun sec => decide (sec / 4 = ph.pa / 512)) } := by
  have hx : translate (loopStart s).s g.cluster (some g.core) g.ctx (va57 addr) .hint = (s1, .ok ph) := ht
  unfold invalThread
  simp only [accGroup_loopStart hg, memAddr_loopStart haddr, target_xlat hlow, hx]

theorem invalThread_error (ht : Claims.xlated s g .hint addr = (s1, .error e)) : invalThread f g (loopStart s) t = loopStart s := by
  have hx : translate (loopStart s).s g.cluster (some g.core) g.ctx (va57 addr) .hint = (s1, .error e) := ht
  unfold invalThread
  simp only [accGroup_loopStart hg, memAddr_loopStart haddr, target_xlat hlow, hx]

theorem cleanThread_ok (ht : Claims.xlated s g .rd addr = (s1, .ok ph)) (hd : ph.dev = none) :
    cleanThread f g (loopStart s) t =
      if (ownReqs g ++ clusterFlight s1 g.cluster).any (fun r => (reqSectors r).any (fun x => decide (x / 4 = ph.pa / 512))) then (loopStart s).halt
      else { loopStart s with s := { s1 with
        dirty := s1.dirty.filter (fun x => decide (x / 4 ≠ ph.pa / 512)), wcbs := s1.wcbs.filter (fun w => decide (w.line ≠ ph.pa / 512)) } } := by
  have hres : resolve (loopStart s).s g t addr (szBytes f.sz) .rd ⟨false, false⟩ true = (s1, .ok (.dev ph)) := resolve_dev hlow (.inl rfl) ht
  unfold cleanThread
  simp only [accGroup_loopStart hg, memAddr_loopStart haddr, hres, hd, Option.isSome_none, Bool.false_eq_true, if_false]
end

theorem hintsAndLines : Claims.HintsAndLines := by
  intro s g h f t ph i ha hts hr size addr s0 hint read ends hlow
  have hg := hr.2.1
  have hmod := ha.2.2
  have hhint : hint.1.groups = s.groups := (xl_translate s0 g.cluster (some g.core) g.ctx (addr.toNat % 2 ^ 57) .hint).groups
  have hread : read.1.groups = s.groups := (xl_translate s0 g.cluster (some g.core) g.ctx (addr.toNat % 2 ^ 57) .rd).groups
  refine ⟨fun hi ht hd hv hgr hw s2 bs hsec => ?followed, fun hi hbad => ?dropped, fun hi ht => ?inval, fun hi ⟨e, ht⟩ => ?skipped,
    fun hi ht hd => ⟨fun hb => ?clean, fun hb => ?waits⟩⟩
  case followed =>
    have hsame : ∀ c : Bool, (if c then s2 else hint.1).groups = s.groups := fun c =>
      keeps_ite ((congrArg (fun s : State => s.groups) (sectorRead_frame hsec) :).trans hhint) hhint
    obtain rfl | rfl := hi
    · have hdoes := does_one ha hts hr (exec_pref h f s) (hsame _) (hintThread_followed hg rfl hlow hmod (Prod.ext rfl ht) hd hv hgr hw hsec)
      simpa only [true_and, decide_eq_true_eq] using hdoes
    · have hdoes := does_one ha hts hr (exec_resid h f s) (hsame _) (hintThread_followed hg rfl hlow hmod (Prod.ext rfl ht) hd hv hgr hw hsec)
      simpa only [reduceCtorEq, false_and, if_false, Bool.false_eq_true] using hdoes
  case dropped =>
    have hthread : ∀ fill, hintThread f g fill (loopStart s) 0 t = { loopStart s with s := hintDropped (loopStart s).s g } := by
      intro fill
      obtain ⟨e, ht⟩ | ⟨ph, ht, hno⟩ := hbad
      · exact hintThread_error hg rfl hlow hmod (Prod.ext rfl ht)
      · exact hintThread_unfollowed hg rfl hlow hmod (Prod.ext rfl ht) (hintFollowed_eq_false hno)
    obtain rfl | rfl := hi
    · exact does_one ha hts hr (exec_pref h f s) (onCtx_groups ..) (hthread _)
    · exact does_one ha hts hr (exec_resid h f s) (onCtx_groups ..) (hthread _)
  case inval =>
    subst hi
    exact does_one ha hts hr (exec_inval h f s) ((l1Drop_groups ..).trans hhint) (invalThread_ok hg rfl hlow (Prod.ext rfl ht))
  case skipped =>
    subst hi
    exact does_one ha hts hr (exec_inval h f s) rfl (invalThread_error hg rfl hlow (Prod.ext rfl ht))
  case clean =>
    subst hi
    refine does_one ha hts hr (exec_clean h f s) hread ?_
    rw [cleanThread_ok hg rfl hlow (Prod.ext rfl ht) hd]
    exact if_neg (Bool.eq_false_iff.mp hb)
  case waits =>
    subst hi
    refine one_waits ha hts hr (exec_clean h f s) ((cleanThread_ok hg rfl hlow (Prod.ext rfl ht) hd).trans (if_pos hb)) rfl rfl rfl rfl

/-- Settles O14: a fence looks at what is outstanding, a line operation at the one place its address names. -/
theorem fencesAndHints : Obligations.FencesAndHints := ⟨fences, hintsAndLines⟩

end Sys2Proof.Proofs

namespace Sys2Proof.Proofs
open Sys2Proof.Machine Sys2Proof.Laws Sys2Proof.Claims

/-! ## The copy instructions (O16) -/

/-- A group-wide instruction that holds its group where it is, in a state s'. -/
theorem wide_holds {i : Instr} {s s' : State} {g : Group} {h : Hd} {k : Group → State → GOut} (hx : exec i s = wideOp i h k s)
    (hr : Runs s g i) (hw : wideActs g h = true) (hk : k g s = .hold s') : exec i s = .next s' :=
  hx.trans (runInstr_hold (k := fun g s => if wideActs g h then k g s else .done s) hr ((if_pos hw).trans hk))

/-! ### The checks change no group -/

theorem agents_readCopyDesc (s : State) (who : Issuer) (va : Nat) : agents (readCopyDesc s who va).1 = agents s := by
  unfold readCopyDesc
  split
  · rfl
  · exact (agents_recRead ..).trans (keeps_ite rfl rfl)

theorem agents_checkCopy (s : State) (who : Issuer) (kind tag va : Nat) (aS aT : Option W64) :
    agents (checkCopy s who kind tag va aS aT).1 = agents s := by
  have hread := agents_readCopyDesc s who va
  unfold checkCopy
  extract_lets at_
  split
  · rfl
  · split
    · rfl
    · split
      next s1 e hs => rwa [hs] at hread
      next s1 bs hs =>
        rw [hs] at hread
        extract_lets w d src dst
        split
        · exact hread
        · split <;> exact hread

theorem groups_checkCopy {s s1 : State} {who : Issuer} {kind tag va : Nat} {aS aT : Option W64} {r : Except (Option TrapInfo) (List W64 × Nat × Nat)}
    (h : checkCopy s who kind tag va aS aT = (s1, r)) : s1.groups = s.groups := by
  have hagents := agents_checkCopy s who kind tag va aS aT
  rw [h] at hagents
  exact groups_of_agents hagents

/-! ### A tag taken changes its group's flags alone -/

theorem agents_decCtr {s s1 : State} {ctx n k : Nat} {stamp : List (Nat × Nat)} (h : decCtr s ctx n k stamp = .ok s1) : agents s1 = agents s := by
  unfold decCtr at h
  extract_lets x at h
  split at h
  · split at h
    · cases h
    · exact Except.ok.inj h ▸ rfl
  · split at h
    · exact Except.ok.inj h ▸ rfl
    · split at h
      · exact Except.ok.inj h ▸ rfl
      · cases h

theorem agents_compDec (s : State) (ctx n : Nat) (launch : Option Nat) : agents (compDec s ctx n launch) = agents s := by
  unfold compDec
  split
  · rfl
  · split
    next s1 hs => exact agents_decCtr hs
    next => exact agents_faultRecord ..

theorem groups_of_steady {s t : State} (h : steady t = steady s) : t.groups = s.groups := congrArg (fun p => p.2.2.2) h

theorem groups_finishCopy (s : State) (c : Copy) : (finishCopy s c).groups = s.groups := by
  unfold finishCopy
  extract_lets s1 s2 s3
  have h2 : s2.groups = s.groups := groups_of_agents (s := s1) (agents_leaveDrop ..)
  have h3 : s3.groups = s.groups := keeps_ite h2 ((onTeam_groups ..).trans h2)
  split
  · exact (groups_of_steady (steady_reportCopy ..)).trans h3
  · exact (groups_of_agents (agents_compDec ..)).trans ((groups_of_steady (steady_setTag ..)).trans h3)

theorem groups_takeTag (s : State) (c : Copy) : (takeTag s c).groups = (orConv s c.team c.gid (1 <<< c.tag)).groups :=
  keeps_ite (groups_finishCopy ..) rfl

/-- The group whose copy takes its tag has the flags that were kept with the tag (09 R227, R231). -/
theorem groupOf_takeTag {s : State} {g : Group} {c : Copy} (hg : groupOf s g.id = some g) (hc : c.gid = g.id) :
    groupOf (takeTag s c) g.id = some { g with flags := g.flags ||| keptFlags s c.team g.id (1 <<< c.tag) } := by
  rw [groupOf_of_groups (groups_takeTag s c), hc]
  exact groupOf_orConv hg c.team _

/-! ### The instructions -/

/-- Whether a copy's tag is busy, its queue full, or an earlier copy into its stream waits (09 R231, 10 R250). -/
def CopyWaits (s : State) (c : Copy) : Prop :=
  (∃ x ∈ s.copies, x.queued = true ∧ x.team = c.team ∧ x.tag = c.tag) ∨
    64 ≤ (s.copies.filter (fun x => x.queued && !x.started && decide (x.cluster = c.cluster))).length ∨ copyBehind s c = true

theorem tagBusy_iff (s : State) (team tag : Nat) : tagBusy s team tag = true ↔ ∃ x ∈ s.copies, x.queued = true ∧ x.team = team ∧ x.tag = tag := by
  simp only [tagBusy, List.any_eq_true, Bool.and_eq_true, decide_eq_true_eq, and_assoc]

theorem mayTake_iff (s : State) (c : Copy) : mayTake s c = true ↔ ¬CopyWaits s c := by
  rw [CopyWaits, ← tagBusy_iff, mayTake, copyRoom]
  simp [not_or, and_assoc]

/-- The copy that an instruction of a group issues, under the next identity. -/
def issuedCopy (s : State) (g : Group) (f : CF) (kind : Nat) (w : List W64) (src dst : Nat) : Copy :=
  mkCopy s.nextId (issuerOf g) kind f.tag.toNat f.depctr.toNat (if f.flags.getLsbD 2 then some (f.fl 3 4) else none) w src dst

/-- A copy instruction after its checks (09 R230, R231). -/
def copyIssue (f : CF) (kind : Nat) (g : Group) : State × Except (Option TrapInfo) (List W64 × Nat × Nat) → GOut
  | (s, .error (some t)) => .trap s t
  | (s, .error none) => .hold s
  | (s, .ok (w, src, dst)) =>
    if storesOut s g then .hold (keepDesc s g.id (va57 (sdesc g f)) w)
    else if mayTake { s with nextId := s.nextId + 1 } (issuedCopy s g f kind w src dst) then
      .done (takeTag { s with nextId := s.nextId + 1 } (issuedCopy s g f kind w src dst))
    else .done (setGroup { s with nextId := s.nextId + 1, copies := s.copies ++ [issuedCopy s g f kind w src dst] }
      (parkGroup { s with nextId := s.nextId + 1 } g (.copy s.nextId)))

/-- The operation of a copy instruction. -/
def copyIssueOp (f : CF) (kind : Nat) (g : Group) (s : State) : GOut :=
  copyIssue f kind g (checkCopy s (issuerOf g) kind f.tag.toNat (va57 (sdesc g f)) (copyBase g f 0 f.asrc) (copyBase g f 1 f.adst))

theorem copyOp_eq (i : Instr) (h : Hd) (f : CF) (kind : Nat) (s : State) : copyOp i h f kind s = wideOp i h (copyIssueOp f kind) s := rfl

theorem exec_copy {i : Instr} {h : Hd} {f : CF} {kind : Nat} (hi : (i, kind) ∈ [(Instr.cpy h f, 0), (Instr.cpym h f, 1), (Instr.cpyg h f, 2)])
    (s : State) : exec i s = wideOp i h (copyIssueOp f kind) s := by
  rw [← copyOp_eq]
  simp only [List.mem_cons, Prod.mk.injEq, List.not_mem_nil, or_false] at hi
  obtain ⟨rfl, rfl⟩ | ⟨rfl, rfl⟩ | ⟨rfl, rfl⟩ := hi
  · rfl
  · rfl
  · rfl

/-- Settles O16: the operation goes by what the checks of the descriptor answer, and they change no group. -/
theorem copiesAreIssued : Obligations.CopiesAreIssued := by
  intro s g h f i kind hi hr hw check
  have hx := exec_copy hi s
  have hop : copyIssueOp f kind g s = copyIssue f kind g check := rfl
  have hfound : ∀ {s1 r}, check = (s1, r) → groupOf s1 g.id = some g := fun hc => (groupOf_of_groups (groups_checkCopy hc) g.id).trans hr.2.1
  refine ⟨fun s1 e hc => ?trap, fun s1 hc => ?hold, fun s1 w src dst hc => ?issue⟩
  case trap =>
    have htraps : Traps i s s1 g e := wide_traps hx hr hw (by rw [hop, hc]; rfl) (hfound hc)
    rwa [hfound hc, Option.getD_some]
  case hold => exact wide_holds hx hr hw (by rw [hop, hc]; rfl)
  case issue =>
    intro s2 c busy
    have hg : groupOf s1 g.id = some g := hfound hc
    have htake : mayTake s2 c = true ↔ ¬busy := mayTake_iff s2 c
    refine ⟨fun hout hfree => ?takes, fun hout hbusy => ?parks, fun hout => ?waits⟩
    case takes =>
      refine wide_leaves (gk := { g with flags := g.flags ||| keptFlags s1 g.team g.id (1 <<< f.tag.toNat) }) hx hr hw ?_
        (groupOf_takeTag (s := s2) (c := c) hg rfl) (scal_flags g _)
      rw [hop, hc]
      exact (if_neg (Bool.eq_false_iff.mp hout)).trans (if_pos (htake.mpr hfree))
    case parks =>
      refine wide_parks (s0 := s2) hx hr hw ?_ hg
      rw [hop, hc]
      exact (if_neg (Bool.eq_false_iff.mp hout)).trans (if_neg (fun hmay => htake.mp hmay hbusy))
    case waits =>
      refine wide_holds hx hr hw ?_
      rw [hop, hc]
      exact if_pos hout

end Sys2Proof.Proofs

namespace Sys2Proof.Proofs
open Sys2Proof.Machine Sys2Proof.Laws Sys2Proof.Claims

/-! ## A copy takes its tag, runs, and ends (O17) -/

/-! ### What a copy writes keeps every team where it is -/

/-- The teams' identities, each with its state. -/
def stations (s : State) : List (Nat × TSt) := s.teams.map (fun t => (t.id, t.st))

theorem stations_of_teams {s t : State} (h : t.teams = s.teams) : stations t = stations s := by rw [stations, h, stations]

theorem stations_of_agents {s t : State} (h : agents t = agents s) : stations t = stations s := stations_of_teams (teams_of_agents h)

theorem stations_onTeam (s : State) (id : Nat) {f : Team → Team} (hf : ∀ t, ((f t).id, (f t).st) = (t.id, t.st) := by intros; rfl) :
    stations (onTeam s id f) = stations s := by
  rw [stations, onTeam_teams, List.map_map]
  refine List.map_congr_left fun t _ => ?_
  rw [Function.comp_apply]
  split
  · exact hf t
  · rfl

/-- A team that is found in a state is found, in the same state of its own, where the stations are the same. -/
theorem teamOf_of_stations {s s' : State} {k : Nat} {t : Team} (h : stations s' = stations s) (ht : teamOf s k = some t) :
    ∃ t', teamOf s' k = some t' ∧ t'.st = t.st := by
  have hfind : ∀ u : State, (stations u).find? (fun p => decide (p.1 = k)) = (teamOf u k).map (fun t => (t.id, t.st)) := fun u =>
    List.find?_map ..
  have hsame : (teamOf s' k).map (fun t => (t.id, t.st)) = some (t.id, t.st) := by
    rw [← hfind, h, hfind, ht, Option.map_some]
  obtain ⟨t', hteam, heq⟩ := Option.map_eq_some_iff.mp hsame
  exact ⟨t', hteam, congrArg Prod.snd heq⟩

section
variable (s : State)

theorem agents_landBytes (o : Origin) (hc : Bool) (cells : List Host.Cell) : agents (landBytes s o hc cells) = agents s := by
  unfold landBytes
  extract_lets badQ badR ok secs full clean s1 s2
  have h2 : agents s2 = agents s := keeps_ite (agents_faultRecord s1 ..) rfl
  exact keeps_ite ((agents_faultRecord s2 ..).trans h2) h2

theorem agents_oredApply (o : Origin) (hc : Bool) (pa op : Nat) (rnd : Rnd) (v : W64) : agents (oredApply s o hc pa op rnd v) = agents s :=
  (agents_landBytes ..).trans (agents_landBytes ..)

theorem agents_oredDrain (pa n : Nat) : agents (oredDrain pa n s) = agents s := by
  induction n generalizing s with
  | zero => rfl
  | succ n ih =>
    rw [oredDrain]
    split
    · rfl
    · exact (ih _).trans (keeps_ite (agents_faultRecord ..) (agents_oredApply ..))

theorem agents_oredJudge (pa : Nat) : agents (oredJudge s pa) = agents s :=
  (agents_oredDrain ..).trans (foldl_keeps (fun s h => agents_faultRecord s (heldOrigin h) true 0x46 0) _ _)

theorem agents_homeWrite (o : Origin) (hc : Bool) (cells : List Host.Cell) : agents (homeWrite s o hc cells) = agents s :=
  (foldl_keeps agents_oredJudge _ _).trans (agents_landBytes ..)

theorem agents_agentWrite (cluster : Nat) (o : Origin) (hc : Bool) (cells : List Host.Cell) : agents (agentWrite s cluster o hc cells) = agents s := by
  have hdrain : ∀ s k, agents (drainLine s k) = agents s := fun _ _ => rfl
  have hcore : ∀ s k f, agents (onCore s k f) = agents s := fun _ _ _ => rfl
  rw [agentWrite]
  refine (foldl_keeps (p := agents) (fun s k => hcore s _ _) _ _).trans ?_
  exact (agents_homeWrite ..).trans (foldl_keeps hdrain _ _)

theorem agents_sendLines (r : Remote) (cells : List Host.Cell) : agents (sendLines s r cells) = agents s := by
  rw [sendLines]
  refine foldl_keeps (p := agents) (fun s l => ?_) _ s
  exact agents_of_outsideNotes ((outsideNotes_sendRemote ..).trans (outsideNotes_with s))

theorem agents_touchPage (c : Copy) (acc : Acc) (va : Nat) : agents (touchPage s c acc va) = agents s := by
  unfold touchPage
  split
  · exact agents_translate ..
  · rfl

theorem agents_touchPages (c : Copy) (n : Nat) : agents (touchPages s c n) = agents s :=
  foldl_keeps (fun s va => agents_touchPage s c .rd va) _ s

theorem stations_putBytes (c : Copy) (recv va : Nat) (bs : List Byte) : stations (putBytes s c recv va bs) = stations s := by
  unfold putBytes
  split
  · rfl
  · exact stations_onTeam ..
  · extract_lets s1 cells
    have h1 : agents s1 = agents s := agents_touchPage ..
    split
    · exact stations_of_agents ((agents_agentWrite ..).trans h1)
    · exact stations_of_agents ((agents_sendLines ..).trans h1)

/-! ### Barriers -/

theorem stations_setBar (team b : Nat) (x : NBar) : stations (setBar s team b x) = stations s := stations_onTeam ..

theorem stations_faultWaiters (team b : Nat) (t : TrapInfo) : stations (faultWaiters s team b t) = stations s := by
  have hbeside : besideGroups (faultWaiters s team b t) = besideGroups s :=
    besideGroups_foldl (id := fun g : Group => g.id) (fun s g => onlyGroupsOf_wakeTrap s g.id t) _ s
  exact stations_of_teams (congrArg (fun p => p.2.2) hbeside)

theorem stations_testBar (team b : Nat) (x : NBar) : stations (testBar s team b x) = stations s :=
  keeps_ite (stations_setBar ..) (keeps_ite (stations_setBar ..) (keeps_ite ((stations_faultWaiters ..).trans (stations_setBar ..)) (stations_setBar ..)))

theorem stations_saveBar (team b : Nat) : stations (saveBar s team b) = stations s := by
  unfold saveBar
  split
  · exact keeps_ite rfl (stations_of_agents (agents_getD (agents_putVA s _ _ _ _) rfl))
  · rfl

theorem stations_landBar (team b n : Nat) : stations (landBar s team b n) = stations s := by
  unfold landBar
  extract_lets x
  refine keeps_ite rfl ?_
  split
  · exact (stations_saveBar ..).trans (stations_testBar ..)
  · exact (stations_saveBar ..).trans (stations_setBar ..)
  · rfl

theorem stations_putChosen (c : Copy) (recv row : Nat) (ps : List Piece) : stations (putChosen s c recv row ps) = stations s := by
  unfold putChosen
  extract_lets mine cells n s1 s2
  have h2 : stations s2 = stations s := foldl_keeps (fun (s : State) (x : Host.Cell) => stations_putBytes s c recv x.1 [x.2]) _ s1
  split
  · exact (stations_landBar ..).trans h2
  · exact h2
end

/-! ### A copy takes its tag -/

theorem teamOf_onTeam_same {s : State} {k : Nat} {t : Team} (ht : teamOf s k = some t) {f : Team → Team} (hf : ∀ x, (f x).id = x.id := by intros; rfl) :
    teamOf (onTeam s k f) k = some (f t) := by
  rw [teamOf_onTeam s k k f hf, ht, Option.map_some, if_pos (teamOf_id ht)]

/-- The bit of a tag, as the number that it is in the team's word. -/
def tagBit (tag : Nat) : W64 := 1 <<< tag

theorem tagBit_eq (tag : Nat) : tagBit tag = (1 : W64) <<< tag := by
  refine BitVec.eq_of_toNat_eq ?_
  rw [tagBit, BitVec.natCast_eq_ofNat, BitVec.toNat_ofNat, BitVec.toNat_shiftLeft]
  rfl

theorem getLsbD_tagBit (tag : Nat) : (tagBit tag).getLsbD tag = decide (tag < 64) := by
  rw [tagBit_eq, BitVec.getLsbD_shiftLeft]
  simp

/-- The flags of a tag that go to a group leave its team in all but them. -/
theorem teamOf_orConv {s : State} {k gid : Nat} {m : W64} {t : Team} (ht : teamOf s k = some t) :
    ∃ conv, teamOf (orConv s k gid m) k = some { t with conv := conv } := by
  unfold orConv
  rw [ht]
  exact ⟨_, teamOf_onTeam_same ht⟩

theorem copies_orConv (s : State) (k gid : Nat) (m : W64) : (orConv s k gid m).copies = s.copies := by
  unfold orConv
  split <;> rfl

theorem mem_orConv (s : State) (k gid : Nat) (m : W64) : (orConv s k gid m).mem = s.mem := by
  unfold orConv
  split <;> rfl

/-- The state in which a team's tag has been cleared for a copy that takes it (09 R231). -/
def tagCleared (s : State) (c : Copy) : State :=
  onTeam (orConv s c.team c.gid (tagBit c.tag)) c.team (fun t => { t with
    tagbits := t.tagbits &&& ~~~tagBit c.tag, tagerr := t.tagerr &&& ~~~tagBit c.tag, tagrec := t.tagrec.filter (fun x => decide (x.1 ≠ c.tag)) })

/-- A copy that can neither have failed nor lack a receiver is queued. -/
theorem takeTag_queued {s : State} {c : Copy} (hk : c.kind ≠ 1) (hf : c.failed = none) :
    ∃ c', takeTag s c = { tagCleared s c with copies := s.copies.filter (fun x => decide (x.id ≠ c.id)) ++ [c'] } ∧
      c'.queued = true ∧ c'.id = c.id ∧ c'.started = c.started := by
  unfold takeTag
  extract_lets who bit s1 s2 c1 c2 s3
  have hnot : ¬(c2.failed.isSome = true ∨ (c2.kind = 1 ∧ c2.recvs = [])) := by
    rintro (hsome | ⟨hone, -⟩)
    · exact Bool.false_ne_true ((congrArg Option.isSome hf).symm.trans hsome)
    · exact hk hone
  have hcopies : s2.copies = s.copies := copies_orConv ..
  refine ⟨c2, ?_, rfl, rfl, rfl⟩
  rw [if_neg hnot, ← hcopies]
  rfl

theorem copiesTakeTheirTags : Claims.CopiesTakeTheirTags := by
  intro s c t ht hk hf
  obtain ⟨c', htake, hqueued, hid, hstarted⟩ := takeTag_queued (s := s) hk hf
  obtain ⟨conv, hteam⟩ := teamOf_orConv (gid := c.gid) (m := tagBit c.tag) ht
  rw [htake, ← tagBit_eq]
  refine ⟨⟨c', rfl, hqueued, hid, hstarted⟩, ⟨_, teamOf_onTeam_same hteam, rfl, rfl, fun x hx => ?_, rfl⟩, mem_orConv ..⟩
  simpa using (List.mem_filter.mp hx).2

/-! ### A copy ends -/

/-- A team when one of its tags completes (09 R233), with the failure of the copy where it failed (09 R237). -/
def tagged (tag : Nat) (bad : Option (Nat × Nat × W64)) (t : Team) : Team :=
  { t with
    tagbits := t.tagbits ||| tagBit tag,
    tagerr := if bad.isSome then t.tagerr ||| tagBit tag else t.tagerr,
    tagrec := match bad with
      | some (cause, sub, addr) => t.tagrec.filter (fun x => decide (x.1 ≠ tag)) ++ [(tag, cause, sub, addr)]
      | none => t.tagrec }

theorem setTag_resident {s : State} {k : Nat} {t : Team} (ht : teamOf s k = some t) (hst : t.st = .resident) (tag : Nat)
    (bad : Option (Nat × Nat × W64)) : setTag s k tag bad = onTeam s k (tagged tag bad) := by
  have hteam : teamOf (onTeam s k (tagged tag bad)) k = some (tagged tag bad t) := teamOf_onTeam_same ht
  have hnot : ¬(tagged tag bad t).st = TSt.saved := by
    rw [show (tagged tag bad t).st = t.st from rfl, hst]
    decide
  unfold setTag
  extract_lets bit s1
  have hs1 : s1 = onTeam s k (tagged tag bad) := rfl
  rw [hs1, hteam]
  exact if_neg hnot

/-- The bit of a tag is set once it completes, where the team's word has one for it. -/
theorem getLsbD_or_tagBit (m : W64) (tag : Nat) : (m ||| tagBit tag).getLsbD tag = decide (tag < 64) := by
  rw [BitVec.getLsbD_or, getLsbD_tagBit]
  by_cases h : tag < 64
  · rw [decide_eq_true h, Bool.or_true]
  · rw [decide_eq_false h, Bool.or_false, BitVec.getLsbD_of_ge _ _ (Nat.not_lt.mp h)]

/-- The state in which a copy that ends has been taken off the list (09 R233). -/
def copyGone (s : State) (c : Copy) : State :=
  leaveDrop { s with copies := s.copies.filter (fun x => decide (x.id ≠ c.id)), rgot := s.rgot.filter (fun x => decide (x.id ≠ c.id)) }
    c.cluster (fun l => decide (l = .copy c.id))

theorem finishCopy_ok {s : State} {c : Copy} {t : Team} (ht : teamOf s c.team = some t) (hst : t.st = .resident) (hf : c.failed = none)
    (hfl : c.flags = 0) (hctr : c.ctr = 0) : finishCopy s c = onTeam (copyGone s c) c.team (tagged c.tag none) := by
  have hteam : teamOf (copyGone s c) c.team = some t := ht
  unfold finishCopy
  extract_lets s1 s2 s3
  have hs3 : s3 = copyGone s c := if_pos hfl
  rw [hf, hctr, hs3]
  exact (if_pos rfl).trans (setTag_resident hteam hst c.tag none)

theorem reportCopy_resident {s : State} {k : Nat} {t : Team} (ht : teamOf s k = some t) (hst : t.st = .resident) (c : Copy)
    (cause sub addr : Nat) : reportCopy s c k cause sub addr = onTeam s k (tagged c.tag (some (cause, sub, BitVec.ofNat 64 addr))) := by
  have htakes : takesTags s k = true := by simp [takesTags, ht, hst]
  rw [reportCopy, if_pos htakes, setTag_resident ht hst]

theorem finishCopy_failed {s : State} {c : Copy} {t : Team} {cause sub : Nat} {addr : W64} (ht : teamOf s c.team = some t)
    (hst : t.st = .resident) (hf : c.failed = some (cause, sub, addr)) :
    ∃ t', teamOf (finishCopy s c) c.team = some (tagged c.tag (some (cause, sub, addr)) t') := by
  unfold finishCopy
  extract_lets s1 s2 s3
  have hsame : stations s3 = stations s := keeps_ite rfl (stations_onTeam s2 c.team)
  obtain ⟨t3, ht3, hst3⟩ := teamOf_of_stations hsame ht
  rw [hf]
  refine ⟨t3, ?_⟩
  change teamOf (reportCopy s3 c c.team cause sub addr.toNat) c.team = _
  rw [reportCopy_resident ht3 (hst3.trans hst), BitVec.ofNat_toNat, BitVec.setWidth_eq]
  exact teamOf_onTeam_same ht3

/-! ### The steps -/

theorem copyStart {s : State} {cluster : Nat} {c : Copy}
    (hfind : s.copies.find? (fun c => c.queued && !c.started && decide (c.cluster = cluster)) = some c)
    (hroom : (s.copies.filter (fun x => x.started && decide (x.cluster = cluster))).length < 8) (hd : c.cd.dstos = false) (hk : c.kind ≠ 1) :
    exec (.copyStart cluster) s = .next (onCopy s c.id (fun c => { c with started := true, leaveWait := false })) := by
  change execCopyStart cluster s = _
  unfold execCopyStart
  rw [hfind]
  simp [hd, hk, hroom]

theorem copyDelivery {s : State} {copy : Nat} {c : Copy} {ps : List Piece} (hc : copyOf s copy = some c) (hrun : mayRun s c = true)
    (hleft : c.left = [c.team]) (hw : recvWaits s c c.team = false) (hplan : copyPlan s c c.team = (ps, none)) (hd : c.cd.dstos = false)
    (hb : c.bar = none) :
    exec (.copyDelivery copy c.team) s = .next (onCopy (putPieces (touchPages s c c.cd.rows) c c.team ps) copy (fun x =>
      { x with flags := ps.foldl (fun a p => a ||| p.fl) 0, served := x.served ++ [c.team],
               owned := if { x with served := x.served ++ [c.team] }.left = [] then [] else x.owned })) := by
  change execCopyDelivery copy c.team s = _
  unfold execCopyDelivery
  rw [hc]
  simp [onSome, hrun, hleft, hw, hplan, hd, hb]

theorem copyComplete {s : State} {copy : Nat} {c : Copy} (hc : copyOf s copy = some c) (hstart : c.started = true)
    (hleave : c.leaveWait = false) (hleft : c.left = []) (hr : ∀ r ∈ s.remotes, r.copy ≠ some c.id) :
    exec (.copyComplete copy) s = .next (finishCopy s c) := by
  have hnone : s.remotes.any (fun r => decide (r.copy = some c.id)) = false := by simpa using hr
  change execCopyComplete copy s = _
  unfold execCopyComplete
  rw [hc]
  simp only [onSome, hstart, hleave, hleft, hnone, Bool.not_false, decide_true, Bool.and_self, if_true]

/-- A copy that has served its last receiver has none left. -/
theorem left_served {c c' : Copy} {k : Nat} (hleft : c.left = [k]) (hr : c'.recvs = c.recvs) (hs : c'.served = c.served ++ [k]) : c'.left = [] := by
  rw [Copy.left, List.filter_eq_nil_iff, hr, hs]
  intro t ht
  by_cases hserved : c.served.contains t = true
  · simp at hserved
    simp [hserved]
  · have hmem : t ∈ c.left := List.mem_filter.mpr ⟨ht, by simpa using hserved⟩
    rw [hleft, List.mem_singleton] at hmem
    simp [hmem]

theorem failDelivery_last {s : State} {c : Copy} (hleft : c.left = [c.team]) (hf : c.failed = none)
    (hr : ∀ r ∈ s.remotes, r.copy ≠ some c.id) (cause sub addr : Nat) :
    failDelivery s c c.team cause sub addr =
      finishCopy s { c with failed := some (cause, sub, BitVec.ofNat 64 addr), served := c.served ++ [c.team] } := by
  have hnone : s.remotes.any (fun r => decide (r.copy = some c.id) && r.writes) = false := by
    simpa using fun r hmem hid => absurd hid (hr r hmem)
  unfold failDelivery
  extract_lets bad s1 c1
  have hs1 : s1 = s := if_pos rfl
  have hc1 : c1 = { c with failed := some (cause, sub, BitVec.ofNat 64 addr), served := c.served ++ [c.team] } := by
    change { c with failed := c.failed <|> bad, served := c.served ++ [c.team] } = _
    rw [hf]
    rfl
  have hdone : c1.left = [] := left_served hleft rfl rfl
  rw [if_neg (not_not_intro hdone), hs1, hnone, hc1]
  rfl

theorem copyFail {s : State} {copy row cause sub addr : Nat} {c : Copy} {ps : List Piece} (hc : copyOf s copy = some c)
    (hleft : c.left = [c.team]) (hrun : mayRun s c = true) (hw : recvWaits s c c.team = false)
    (hfails : failsAs s c c.team row cause = some (sub, addr, ps)) (hd : c.cd.dstos = false) :
    exec (.copyFail copy row cause) s = .next (failDelivery (putChosen (touchPages s c row) c c.team row ps) c c.team cause sub addr) := by
  have hnext : nextRecv s c = some c.team := by simp [nextRecv, hleft, hw]
  change execCopyFail copy row cause s = _
  unfold execCopyFail
  rw [hc]
  simp [onSome, hnext, hrun, hfails, hd, copyStarves]

/-- The issuer of the copies of a team's plan: no group (05 R104). -/
def planIssuer (t : Team) (team : Nat) : Issuer := ⟨0, t.ctx, t.launch, team, t.core / 4, t.core⟩

theorem copyPlanIssue {s s1 : State} {team va stage tag src dst : Nat} {t : Team} {l : Launch} {w : List W64} (ht : teamOf s team = some t)
    (hl : t.launch.bind (launchOf s) = some l) (hst : t.st = .resident) (hplan : l.plan[t.planNext]? = some (va, stage, tag))
    (hstage : stage ≤ t.stage) (hbusy : tagBusy s team tag = false) (hroom : copyRoom s (t.core / 4) = true)
    (hcheck : checkCopy s (planIssuer t team) 0 tag va none none = (s1, .ok (w, src, dst)))
    (hbehind : copyBehind { s1 with nextId := s1.nextId + 1 } (mkCopy s1.nextId (planIssuer t team) 0 tag 0 none w src dst) = false) :
    exec (.copyPlanIssue team) s = .next (onTeam
      (takeTag { s1 with nextId := s1.nextId + 1 } (mkCopy s1.nextId (planIssuer t team) 0 tag 0 none w src dst)) team
      (fun t => { t with planNext := t.planNext + 1 })) := by
  have hentry : (t.launch.bind (launchOf s)).bind (fun l => l.plan[t.planNext]?) = some (va, stage, tag) := by
    rw [hl, Option.bind_some, hplan]
  have hcond : ¬((t.st ≠ .resident ∧ t.st ≠ .starting) ∨ t.stage < stage ∨ tagBusy s team tag = true ∨ (!copyRoom s (t.core / 4)) = true) := by
    simp [hst, hstage, hbusy, hroom]
  change execCopyPlanIssue team s = _
  unfold execCopyPlanIssue
  rw [ht]
  dsimp only [onSome]
  rw [hentry]
  dsimp only
  rw [if_neg hcond, ← planIssuer, hcheck]
  exact if_neg (Bool.eq_false_iff.mp hbehind)

theorem copySteps : Claims.CopySteps := by
  refine ⟨fun s cluster c => copyStart, fun s copy c ps => copyDelivery, ?complete, ?fail, ?plan⟩
  case complete =>
    intro s copy c t hc hstart hleave hleft hr hf hfl ht hst hctr _ _
    have hteam : teamOf (copyGone s c) c.team = some t := ht
    refine ⟨_, tagged c.tag none t, copyComplete hc hstart hleave hleft hr, ?_⟩
    rw [finishCopy_ok ht hst hf hfl hctr, ← tagBit_eq]
    exact ⟨teamOf_onTeam_same hteam, rfl, rfl, rfl, rfl, rfl, rfl⟩
  case fail =>
    intro s copy row cause c sub addr ps t hc hleft hrun hw hfails hd hr hf ht hst
    have hsame : stations (putChosen (touchPages s c row) c c.team row ps) = stations s :=
      (stations_putChosen ..).trans (stations_of_agents (agents_touchPages ..))
    obtain ⟨t2, ht2, hst2⟩ := teamOf_of_stations hsame ht
    obtain ⟨t', ht'⟩ := finishCopy_failed (c := { c with failed := some (cause, sub, BitVec.ofNat 64 addr), served := c.served ++ [c.team] })
      ht2 (hst2.trans hst) rfl
    have hexec := copyFail hc hleft hrun hw hfails hd
    rw [failDelivery_last hleft hf hr] at hexec
    exact ⟨_, _, hexec, ht', getLsbD_or_tagBit .., getLsbD_or_tagBit .., List.mem_append_right _ (List.mem_singleton_self _)⟩
  case plan => exact fun s team t l va stage tag s1 w src dst => copyPlanIssue

/-- Settles O17: a step of a copy is worked out from its guards, and what it writes leaves the teams' own states as they are. -/
theorem copiesRun : Obligations.CopiesRun := ⟨copiesTakeTheirTags, copySteps⟩

end Sys2Proof.Proofs
